-- ==== Sys2Proof/Word.lean ====
section
/-!
DEFINITION. The word types of the machine (R15, R25).
-/

namespace Sys2Proof

/-- A 64-bit register value. -/
abbrev Word := BitVec 64

/-- One byte of memory. -/
abbrev Byte := BitVec 8

end Sys2Proof
end

