-- ==== Sys2Proof/Syntax.lean ====
section
/-!
DEFINITION. The instructions of the Krovquel 384 as data: one constructor for each row of the opcode table.

A row with an encoding keeps its register fields as the six bits of the word (R38, R39), since a field outside
its use is a trap of the executed instruction and not a decoding error.  A row without an encoding is a step of
another unit; its operands say which unit and with what data from outside.
-/

namespace Sys2Proof

/-- A six-bit register, code or number field (R38). -/
abbrev Reg := BitVec 6

/-- The number of cores that the model holds: two gang pairs of one cluster (R2, log 1). -/
def coreCount : Nat := 4
/-- A core that the model holds. -/
abbrev CoreId := Fin 4
/-- A user context of a core (R24). -/
abbrev UserCtx := Fin 4
/-- A context of a core: user contexts 0-3, and 4 for the firmware context F (R24). -/
abbrev ContextId := Fin 5
/-- A lane of a core (R3). -/
abbrev Lane := Fin 64
/-- A host queue (R354). -/
abbrev QueueId := Fin 256
/-- A memory slice (R1). -/
abbrev SliceId := Fin 96
/-- A Sobry link (R1). -/
abbrev LinkId := Fin 24
/-- A stream of a hart (R171). -/
abbrev StreamId := Fin 8

/-- Source B of a format R instruction (R40), or of an advice word (R333). -/
inductive Src where
  /-- BK = 00: a register of the bank the instruction uses, with its readiness bit FB. -/
  | reg (r : Reg) (fb : Bool)
  /-- BK = 01: a scalar register broadcast to the elements, with its readiness bit FB. -/
  | scalar (r : Reg) (fb : Bool)
  /-- BK = 10: a constant of the bank. -/
  | const (n : Reg)
  /-- BK = 11: the trailing literal word. -/
  | lit (w : BitVec 32)
  deriving DecidableEq, Repr

/-- The typed buffers that an address can reach (R137). -/
inductive BufId where
  | w
  | x
  deriving DecidableEq, Repr

/-- The typed buffers of a core (R137). -/
inductive TypedBuf where
  | wx (b : BufId)
  | z
  deriving DecidableEq, Repr

/-- A part of a core that powers down on its own: a lane group, or the whole core (R383, R387). -/
inductive PowerPart where
  | group (g : Fin 8)
  | core
  deriving DecidableEq, Repr

/-- What the fabric answers for an element, or a completion word, that lies on another device (R174, R175). -/
inductive RemoteReply where
  /-- Nothing from outside: the access is to the device itself. -/
  | none
  /-- The target has performed the access; the data of a read. -/
  | data (x : BitVec 64)
  /-- The target refused the access, on a promise page or otherwise. -/
  | promiseType
  | rejected
  /-- The line at the target is poisoned. -/
  | poisoned
  /-- The target is fenced or unreachable. -/
  | unreachable
  deriving DecidableEq, Repr

/-- An access that a stream of another device makes to this one (R174, R317). -/
structure RemoteRequest where
  job : BitVec 64
  va : BitVec 64
  /-- bytes of the element: 2^log2Size -/
  log2Size : Fin 4
  /-- it is the addition of 1 at FLAG of a stream (R175, R314) -/
  isAdd : Bool := false
  deriving DecidableEq, Repr

/-- The stream of this device that made a push, and the device it pushed to (R317). -/
structure Pusher where
  core : CoreId
  hart : BitVec 48
  stream : StreamId
  device : BitVec 16
  deriving DecidableEq, Repr

/-- One addition on its way to a scatter-add unit (R169, R327). -/
structure ScatterAdd where
  pa : BitVec 52
  /-- element bytes: 2^log2Size -/
  log2Size : Fin 4
  /-- VSCADD kind 1; with 16-bit elements `bf` says BF16 -/
  isFloat : Bool
  bf : Bool
  addend : BitVec 64
  deriving DecidableEq, Repr

/-- A packet of XRED or XBAR on its way to the root slice (R322). -/
structure XPacket where
  /-- VA of participant 0's descriptor on this device -/
  root : BitVec 64
  /-- translation root of the group's job on this device -/
  trRoot : BitVec 64
  /-- device and VA of the sender's own descriptor, and the sender's result area -/
  device : BitVec 16
  descriptor : BitVec 64
  result : BitVec 64
  index : BitVec 16
  generation : BitVec 64
  /-- true for XBAR -/
  barrier : Bool
  op : BitVec 4
  /-- VCFG.SEW code and BF of the sender -/
  sew : BitVec 2
  bf : Bool
  n : Nat
  det : Bool
  /-- the contribution, element by element; `none` where m0 was clear -/
  values : List (Option Nat)
  deriving DecidableEq, Repr

/-- What reaches this device for its fabric groups (R322, R323, R325). -/
inductive XMessage where
  /-- a packet reaches the root slice -/
  | packet (p : XPacket)
  /-- the root slice on another device completes a generation for the packets that this device sent for it -/
  | complete (ps : List XPacket) (status : BitVec 2) (results : List Nat)
  /-- a hart of another device has ended and poisons a group whose root is here -/
  | poison (root trRoot : BitVec 64)
  /-- a group that could not be reached when it was to be poisoned is looked for again -/
  | poisonRetry
  /-- the results sent to the participant of a packet on another device have been written there -/
  | written (p : XPacket)
  /-- another device has been fenced -/
  | fenced (device : BitVec 16)
  deriving DecidableEq, Repr

/-- What a firmware image that STAGEFW names brings from outside (R441, R442): whether its signature verifies, and the cells
that its start puts into memory. -/
structure FirmwareImage where
  signed : Bool
  cells : List Host.Cell
  deriving DecidableEq, Repr

/-- A boot image as the boot ROM reads it (R440, R441): its header and payload, whether its signature verifies, and the digest
of the firmware image that it loads into every core. -/
structure BootImage where
  header : BitVec 16384
  payload : List Byte
  signed : Bool
  firmware : BitVec 512
  deriving DecidableEq, Repr

/-- A host access of `last` + 1 bytes, a write or a read (R433). -/
structure HostAccess where
  write : Bool
  last : BitVec 3
  deriving DecidableEq, Repr

/-- What an act of the copy engine does: the context whose first command goes on, and the bytes that it moves at most. -/
structure CopyTurn where
  ctx : ContextId
  bytes : BitVec 48
  deriving DecidableEq, Repr

/-- What an act of the matrix unit does: the context whose first follow-on goes on, and the rows that it does at most. -/
structure MmaTurn where
  ctx : ContextId
  rows : BitVec 6
  deriving DecidableEq, Repr

/-- Which read of which outstanding result of a context performs: their numbers, taken modulo how many there are (R32). -/
structure ResultTurn where
  ctx : ContextId
  result : BitVec 16
  read : BitVec 16
  deriving DecidableEq, Repr

/-- What a lane error has struck: registers of resident contexts, and quarters of the lane's register-file slice (R420). -/
structure Struck where
  ctxs : BitVec 4
  quarters : BitVec 4
  deriving DecidableEq, Repr

/-- A remote push at its perform point: one of another device at this one, or one of this device as its target answers
it (R317). -/
inductive PushStage where
  | performs
  | answered (pusher : Pusher) (reply : RemoteReply)
  deriving DecidableEq, Repr

/-- The instructions and steps of the part: one constructor for each row of the opcode table. -/
inductive Instr where
  /-- R80: Writes A + B, modulo 2^64, to D. -/
  | add (d a : Reg) (b : Src) (fa : Bool)
  /-- R80: Writes A − B, modulo 2^64, to D. -/
  | sub (d a : Reg) (b : Src) (fa : Bool)
  /-- R80: Writes the low 64 bits of A × B to D. -/
  | mul (d a : Reg) (b : Src) (fa : Bool)
  /-- R80: Writes the high 64 bits of the signed 128-bit product to D. -/
  | mulhs (d a : Reg) (b : Src) (fa : Bool)
  /-- R80: Writes the high 64 bits of the unsigned 128-bit product to D. -/
  | mulhu (d a : Reg) (b : Src) (fa : Bool)
  /-- R81: Writes the signed quotient, truncated toward zero, to D; it never traps. -/
  | divs (d a : Reg) (b : Src) (fa : Bool)
  /-- R81: Writes the unsigned quotient to D; it never traps. -/
  | divu (d a : Reg) (b : Src) (fa : Bool)
  /-- R81: Writes the signed remainder, whose sign follows A, to D. -/
  | rems (d a : Reg) (b : Src) (fa : Bool)
  /-- R81: Writes the unsigned remainder to D. -/
  | remu (d a : Reg) (b : Src) (fa : Bool)
  /-- R80: Writes A and B to D. -/
  | and (d a : Reg) (b : Src) (fa : Bool)
  /-- R80: Writes A or B to D. -/
  | or (d a : Reg) (b : Src) (fa : Bool)
  /-- R80: Writes A xor B to D. -/
  | xor (d a : Reg) (b : Src) (fa : Bool)
  /-- R80: Writes A and not B to D. -/
  | andn (d a : Reg) (b : Src) (fa : Bool)
  /-- R80: Shifts A left by sh and writes the result to D. -/
  | shl (d a : Reg) (b : Src) (fa : Bool)
  /-- R80: Shifts A right logically by sh and writes the result to D. -/
  | shr (d a : Reg) (b : Src) (fa : Bool)
  /-- R80: Shifts A right arithmetically by sh and writes the result to D. -/
  | sra (d a : Reg) (b : Src) (fa : Bool)
  /-- R80: Rotates A left by sh and writes the result to D. -/
  | rotl (d a : Reg) (b : Src) (fa : Bool)
  /-- R80: Writes the number of leading zero bits of A to D. -/
  | clz (d a : Reg) (fa : Bool)
  /-- R80: Writes the number of trailing zero bits of A to D. -/
  | ctz (d a : Reg) (fa : Bool)
  /-- R80: Writes the number of set bits of A to D. -/
  | popc (d a : Reg) (fa : Bool)
  /-- R80: Writes the signed minimum of A and B to D. -/
  | mins (d a : Reg) (b : Src) (fa : Bool)
  /-- R80: Writes the signed maximum of A and B to D. -/
  | maxs (d a : Reg) (b : Src) (fa : Bool)
  /-- R80: Writes the unsigned minimum of A and B to D. -/
  | minu (d a : Reg) (b : Src) (fa : Bool)
  /-- R80: Writes the unsigned maximum of A and B to D. -/
  | maxu (d a : Reg) (b : Src) (fa : Bool)
  /-- R80: Writes 1 to D if signed A < B, else 0. -/
  | slt (d a : Reg) (b : Src) (fa : Bool)
  /-- R80: Writes 1 to D if unsigned A < B, else 0. -/
  | sltu (d a : Reg) (b : Src) (fa : Bool)
  /-- R80: Writes 1 to D if A = B, else 0. -/
  | seq (d a : Reg) (b : Src) (fa : Bool)
  /-- R80: Writes A to D if B ≠ 0, else writes back the old D. -/
  | cmov (d a : Reg) (b : Src) (fa : Bool)
  /-- R80: Writes bits [sh:0] of A, sign-extended from bit sh, to D. -/
  | exts (d a : Reg) (b : Src) (fa : Bool)
  /-- R82: Writes A plus the sign-extended 14-bit immediate to D. -/
  | addi (d a : Reg) (imm : BitVec 14)
  /-- R83: Writes the sign-extended 20-bit immediate to D. -/
  | li (d : Reg) (imm : BitVec 20)
  /-- R85: Writes to D the FP64 value of the FP32 pattern IMM20 << 12. -/
  | fli (d : Reg) (imm : BitVec 20)
  /-- R84: Writes all 64 bits of constant c[N] to D. -/
  | lc (d n : Reg)
  /-- R86: Writes the FP64 sum of A and B, rounded once, to D. -/
  | fadd (d a : Reg) (b : Src) (fa : Bool)
  /-- R86: Writes the FP64 difference A − B, rounded once, to D. -/
  | fsub (d a : Reg) (b : Src) (fa : Bool)
  /-- R86: Writes the FP64 product, rounded once, to D. -/
  | fmul (d a : Reg) (b : Src) (fa : Bool)
  /-- R86: Writes the FP64 quotient, rounded once, to D. -/
  | fdiv (d a : Reg) (b : Src) (fa : Bool)
  /-- R86: Writes the FP64 square root of A, rounded once, to D. -/
  | fsqrt (d a : Reg) (fa : Bool)
  /-- R56: Writes the FP64 minimum of A and B to D, with −0 below +0 and NaN handling. -/
  | fmin (d a : Reg) (b : Src) (fa : Bool)
  /-- R56: Writes the FP64 maximum of A and B to D, with −0 below +0 and NaN handling. -/
  | fmax (d a : Reg) (b : Src) (fa : Bool)
  /-- R86: Writes A × B + D to D with one rounding. -/
  | ffma (d a : Reg) (b : Src) (fa : Bool)
  /-- R86: Writes integer 1 to D if A = B as FP64, else 0. -/
  | feq (d a : Reg) (b : Src) (fa : Bool)
  /-- R86: Writes integer 1 to D if A < B as FP64, else 0. -/
  | flt (d a : Reg) (b : Src) (fa : Bool)
  /-- R86: Writes integer 1 to D if A ≤ B as FP64, else 0. -/
  | fle (d a : Reg) (b : Src) (fa : Bool)
  /-- R86: Converts s64 A to FP64 under RM and writes it to D. -/
  | fcvtif (d a : Reg) (fa : Bool)
  /-- R86: Converts FP64 A to a saturated s64 under RM and writes it to D. -/
  | fcvtfi (d a : Reg) (fa : Bool)
  /-- R86: Writes to D the bits of A with bit 63 taken from B. -/
  | fsgnj (d a : Reg) (b : Src) (fa : Bool)
  /-- R87: Writes to D a one-hot class mask of A. -/
  | fclass (d a : Reg) (fa : Bool)
  /-- R88: Branches by a signed word offset when the scalar or mask condition holds. -/
  | br (a : Reg) (cond : BitVec 3) (off : BitVec 17)
  /-- R89: Jumps by a word offset and writes the return address to D. -/
  | jal (d : Reg) (imm : BitVec 20)
  /-- R90: Jumps to the address in A and writes the return address to D. -/
  | jr (d a : Reg) (fa : Bool)
  /-- R91: Loads a word offset from a jump table when the index is below the length, and jumps by it. -/
  | jtab (d a b : Reg) (fa fb : Bool)
  /-- R93: Appends an id to the Second's mark queue and latches a snapshot of g and a. -/
  | mark (imm : BitVec 20)
  /-- R92: Decrements the count by vl·vrows, advances the selected address registers and branches while work remains. -/
  | strip (cnt : Reg) (asel : BitVec 4) (off : BitVec 16)
  /-- R131: Loads a zero-extended byte into D. -/
  | ldb (d a : Reg) (off : BitVec 8) (fa : Bool)
  /-- R131: Loads a zero-extended 16-bit value into D. -/
  | ldh (d a : Reg) (off : BitVec 8) (fa : Bool)
  /-- R131: Loads a zero-extended 32-bit value into D. -/
  | ldw (d a : Reg) (off : BitVec 8) (fa : Bool)
  /-- R131: Loads 64 bits into D. -/
  | ldd (d a : Reg) (off : BitVec 8) (fa : Bool)
  /-- R131: Loads a sign-extended byte into D. -/
  | ldbs (d a : Reg) (off : BitVec 8) (fa : Bool)
  /-- R131: Loads a sign-extended 16-bit value into D. -/
  | ldhs (d a : Reg) (off : BitVec 8) (fa : Bool)
  /-- R131: Loads a sign-extended 32-bit value into D. -/
  | ldws (d a : Reg) (off : BitVec 8) (fa : Bool)
  /-- R131: Stores the low byte of D. -/
  | stb (d a : Reg) (off : BitVec 8) (fa fb : Bool)
  /-- R131: Stores the low 16 bits of D. -/
  | sth (d a : Reg) (off : BitVec 8) (fa fb : Bool)
  /-- R131: Stores the low 32 bits of D. -/
  | stw (d a : Reg) (off : BitVec 8) (fa fb : Bool)
  /-- R131: Stores 64 bits of D. -/
  | std (d a : Reg) (off : BitVec 8) (fa fb : Bool)
  /-- R273: Atomically adds B to the word at A and returns the old value in D. -/
  | amoadd (d a b : Reg) (ord : BitVec 2) (fa fb : Bool)
  /-- R273: Atomically ANDs B into the word at A and returns the old value. -/
  | amoand (d a b : Reg) (ord : BitVec 2) (fa fb : Bool)
  /-- R273: Atomically ORs B into the word at A and returns the old value. -/
  | amoor (d a b : Reg) (ord : BitVec 2) (fa fb : Bool)
  /-- R273: Atomically XORs B into the word at A and returns the old value. -/
  | amoxor (d a b : Reg) (ord : BitVec 2) (fa fb : Bool)
  /-- R273: Atomically stores the signed minimum of the word and B, returning the old value. -/
  | amomins (d a b : Reg) (ord : BitVec 2) (fa fb : Bool)
  /-- R273: Atomically stores the signed maximum of the word and B, returning the old value. -/
  | amomaxs (d a b : Reg) (ord : BitVec 2) (fa fb : Bool)
  /-- R273: Atomically stores the unsigned minimum of the word and B, returning the old value. -/
  | amominu (d a b : Reg) (ord : BitVec 2) (fa fb : Bool)
  /-- R273: Atomically stores the unsigned maximum of the word and B, returning the old value. -/
  | amomaxu (d a b : Reg) (ord : BitVec 2) (fa fb : Bool)
  /-- R273: Atomically swaps B with the word at A. -/
  | amoswap (d a b : Reg) (ord : BitVec 2) (fa fb : Bool)
  /-- R273: Atomically writes B to the word if the word equals D, and returns the old value. -/
  | amocas (d a b : Reg) (ord : BitVec 2) (fa fb : Bool)
  /-- R273: Atomically adds FP64 B to the word with RNE; raises DETFP under DET at a scope wider than HART. -/
  | amofadd (d a b : Reg) (ord : BitVec 2) (fa fb : Bool)
  /-- R205: Adds elements modulo 2^SEW. -/
  | vadd (d a : Reg) (b : Src) (fa : Bool)
  /-- R205: Subtracts elements modulo 2^SEW. -/
  | vsub (d a : Reg) (b : Src) (fa : Bool)
  /-- R205: Writes the low SEW bits of the element products. -/
  | vmul (d a : Reg) (b : Src) (fa : Bool)
  /-- R205: Writes the high SEW bits of the signed element products. -/
  | vmulhs (d a : Reg) (b : Src) (fa : Bool)
  /-- R205: Writes the high SEW bits of the unsigned element products. -/
  | vmulhu (d a : Reg) (b : Src) (fa : Bool)
  /-- R205: Writes x × y + old D for each element. -/
  | vmadd (d a : Reg) (b : Src) (fa : Bool)
  /-- R205: ANDs elements. -/
  | vand (d a : Reg) (b : Src) (fa : Bool)
  /-- R205: ORs elements. -/
  | vor (d a : Reg) (b : Src) (fa : Bool)
  /-- R205: XORs elements. -/
  | vxor (d a : Reg) (b : Src) (fa : Bool)
  /-- R205: Shifts elements left. -/
  | vshl (d a : Reg) (b : Src) (fa : Bool)
  /-- R205: Shifts elements right logically. -/
  | vshr (d a : Reg) (b : Src) (fa : Bool)
  /-- R205: Shifts elements right arithmetically. -/
  | vsra (d a : Reg) (b : Src) (fa : Bool)
  /-- R205: Writes the signed element minimum. -/
  | vmins (d a : Reg) (b : Src) (fa : Bool)
  /-- R205: Writes the signed element maximum. -/
  | vmaxs (d a : Reg) (b : Src) (fa : Bool)
  /-- R205: Writes the unsigned element minimum. -/
  | vminu (d a : Reg) (b : Src) (fa : Bool)
  /-- R205: Writes the unsigned element maximum. -/
  | vmaxu (d a : Reg) (b : Src) (fa : Bool)
  /-- R206: Adds elements with carry-in from m1 and writes the carry-out to m2. -/
  | vadc (d a : Reg) (b : Src) (fa : Bool)
  /-- R206: Subtracts elements with borrow-in from m1 and writes the borrow-out to m2. -/
  | vsbc (d a : Reg) (b : Src) (fa : Bool)
  /-- R207: Sets mask bits where the elements are equal. -/
  | vcmpeq (d a : Reg) (b : Src) (fa : Bool)
  /-- R207: Sets mask bits where signed x < y. -/
  | vcmplt (d a : Reg) (b : Src) (fa : Bool)
  /-- R207: Sets mask bits where unsigned x < y. -/
  | vcmpltu (d a : Reg) (b : Src) (fa : Bool)
  /-- R207: Sets mask bits where signed x ≤ y. -/
  | vcmple (d a : Reg) (b : Src) (fa : Bool)
  /-- R207: Sets mask bits where unsigned x ≤ y. -/
  | vcmpleu (d a : Reg) (b : Src) (fa : Bool)
  /-- R208: Writes every tile element from A where active and from B elsewhere. -/
  | vmerge (d a : Reg) (b : Src) (fa : Bool)
  /-- R209: Writes the signed magnitude of each element. -/
  | vabs (d a : Reg) (fa : Bool)
  /-- R209: Writes the leading-zero count of each element. -/
  | vclz (d a : Reg) (fa : Bool)
  /-- R209: Writes the set-bit count of each element. -/
  | vpopc (d a : Reg) (fa : Bool)
  /-- R210: Shifts a wide register pair right and saturates it to SEW. -/
  | vnarrow (d a : Reg) (b : Src) (fa : Bool)
  /-- R210: Sign-extends elements into a register pair of width 2·SEW. -/
  | vwidens (d a : Reg) (fa : Bool)
  /-- R210: Zero-extends elements into a register pair of width 2·SEW. -/
  | vwidenu (d a : Reg) (fa : Bool)
  /-- R219: Adds float elements with one rounding. -/
  | vfadd (d a : Reg) (b : Src) (fa : Bool)
  /-- R219: Subtracts float elements with one rounding. -/
  | vfsub (d a : Reg) (b : Src) (fa : Bool)
  /-- R219: Multiplies float elements with one rounding. -/
  | vfmul (d a : Reg) (b : Src) (fa : Bool)
  /-- R219: Divides float elements with one rounding. -/
  | vfdiv (d a : Reg) (b : Src) (fa : Bool)
  /-- R219: Writes the rounded square root of each float element. -/
  | vfsqrt (d a : Reg) (fa : Bool)
  /-- R219: Writes the float element minimum under R56. -/
  | vfmin (d a : Reg) (b : Src) (fa : Bool)
  /-- R219: Writes the float element maximum under R56. -/
  | vfmax (d a : Reg) (b : Src) (fa : Bool)
  /-- R219: Writes x × y + old D for each element with one rounding. -/
  | vffma (d a : Reg) (b : Src) (fa : Bool)
  /-- R219: Writes x × y − old D for each element with one rounding. -/
  | vffms (d a : Reg) (b : Src) (fa : Bool)
  /-- R220: Sets mask bits where float x = y. -/
  | vfcmpeq (d a : Reg) (b : Src) (fa : Bool)
  /-- R220: Sets mask bits where float x < y. -/
  | vfcmplt (d a : Reg) (b : Src) (fa : Bool)
  /-- R220: Sets mask bits where float x ≤ y. -/
  | vfcmple (d a : Reg) (b : Src) (fa : Bool)
  /-- R219: Clears the sign bit of each float element. -/
  | vfabs (d a : Reg) (fa : Bool)
  /-- R219: Inverts the sign bit of each float element. -/
  | vfneg (d a : Reg) (fa : Bool)
  /-- R220: Writes a one-hot class mask for each float element. -/
  | vfclass (d a : Reg) (fa : Bool)
  /-- R223: Converts elements from one float format to another. -/
  | vfcvt (d a : Reg) (fd fs : BitVec 3) (fa : Bool)
  /-- R223: Converts integer elements to a float format. -/
  | vcvtif (d a : Reg) (fd fs : BitVec 3) (fa : Bool)
  /-- R223: Converts float elements to a saturating integer format. -/
  | vcvtfi (d a : Reg) (fd fs : BitVec 3) (fa : Bool)
  /-- R224: Scales float elements and packs them as E4M3, E5M2, PEB8 or PEB4. -/
  | vquant (d a b : Reg) (fa fb : Bool)
  /-- R224: Unpacks packed elements, scales them and writes float elements. -/
  | vdequant (d a b : Reg) (fa fb : Bool)
  /-- R225: Records the absolute maximum of the active elements in an absmax ring. -/
  | vamax (a b : Reg) (fa : Bool)
  /-- R226: Writes to D the power-of-two scale that fits the ring maximum into a target format. -/
  | amscl (d a b : Reg)
  /-- R227: Writes the integer sum of n elements to element 0 of D. -/
  | vredsum (d a : Reg) (b : Src) (fa : Bool)
  /-- R227: Writes the fixed-shape float HalvingSum of n elements to element 0 of D. -/
  | vredfsum (d a : Reg) (b : Src) (fa : Bool)
  /-- R227: Writes the signed maximum of n elements to element 0 of D. -/
  | vredmax (d a : Reg) (b : Src) (fa : Bool)
  /-- R227: Writes the signed minimum of n elements to element 0 of D. -/
  | vredmin (d a : Reg) (b : Src) (fa : Bool)
  /-- R227: Writes the float maximum of n elements to element 0 of D. -/
  | vredfmax (d a : Reg) (b : Src) (fa : Bool)
  /-- R227: Writes the float minimum of n elements to element 0 of D. -/
  | vredfmin (d a : Reg) (b : Src) (fa : Bool)
  /-- R227: Writes the AND of n elements to element 0 of D. -/
  | vredand (d a : Reg) (b : Src) (fa : Bool)
  /-- R227: Writes the OR of n elements to element 0 of D. -/
  | vredor (d a : Reg) (b : Src) (fa : Bool)
  /-- R213: Slides each row's elements up by s positions. -/
  | vslideup (d a : Reg) (b : Src) (fa : Bool)
  /-- R213: Slides each row's elements down by s positions, filling the top with 0. -/
  | vslidedn (d a : Reg) (b : Src) (fa : Bool)
  /-- R213: Permutes elements by an index vector. -/
  | vperm (d a b : Reg) (fa fb : Bool)
  /-- R213: Packs each row's active elements to the start of that row. -/
  | vcompress (d a : Reg) (fa : Bool)
  /-- R213: Spreads consecutive elements of each row into that row's active positions. -/
  | vexpand (d a : Reg) (fa : Bool)
  /-- R213: Writes to each element the count of earlier set mask bits in its row. -/
  | viota (d a : Reg)
  /-- R213: Broadcasts a scalar into the active elements. -/
  | vbcast (d : Reg) (b : Src)
  /-- R213: Writes one element, zero-extended, to a scalar register. -/
  | vextract (d a : Reg) (b : Src) (fa : Bool)
  /-- R213: Writes a scalar into one element. -/
  | vinsert (d a : Reg) (b : Src) (fa : Bool)
  /-- R213: Transposes the tile. -/
  | vtrans (d a : Reg) (fa : Bool)
  /-- R213: Interleaves the elements of two vectors. -/
  | vzip (d a b : Reg) (fa fb : Bool)
  /-- R213: Takes the even or odd elements of a vector. -/
  | vunzip (d a : Reg) (b : Src) (fa : Bool)
  /-- R211: ANDs two masks over the tile. -/
  | mand (d a b : Reg)
  /-- R211: ORs two masks over the tile. -/
  | mor (d a b : Reg)
  /-- R211: XORs two masks over the tile. -/
  | mxor (d a b : Reg)
  /-- R211: Writes A and not B over the tile. -/
  | mandn (d a b : Reg)
  /-- R211: Inverts a mask over the tile. -/
  | mnot (d a : Reg)
  /-- R211: Copies a mask over the tile. -/
  | mmov (d a : Reg)
  /-- R211: Sets the bits before the first set bit of each row. -/
  | msbf (d a : Reg)
  /-- R211: Sets the bits up to and including the first set bit of each row. -/
  | msif (d a : Reg)
  /-- R211: Sets only the first set bit of each row. -/
  | msof (d a : Reg)
  /-- R211: Shifts a mask up by one position within each row. -/
  | mshup (d a : Reg)
  /-- R211: Shifts a mask down by one position within each row. -/
  | mshdn (d a : Reg)
  /-- R211: Sets every mask bit of the tile. -/
  | mset (d : Reg)
  /-- R211: Clears every mask bit of the tile. -/
  | mclr (d : Reg)
  /-- R212: Writes the number of set mask bits in the tile to a scalar register. -/
  | mpop (d a : Reg)
  /-- R212: Writes the linear index of the first set mask bit, or all ones, to a scalar register. -/
  | mfirst (d a : Reg)
  /-- R164: Loads the tile from row-strided addresses. -/
  | vld (d a : Reg) (off : BitVec 8) (fa : Bool)
  /-- R164: Loads the tile with the element stride vst. -/
  | vlds (d a : Reg) (off : BitVec 8) (fa : Bool)
  /-- R165: Loads like VLD, but stops at a later fault and clears m0 from there instead of trapping. -/
  | vldff (d a : Reg) (off : BitVec 8) (fa : Bool)
  /-- R164: Places the tile's active elements in the open strip at row-strided addresses. -/
  | vst (d a : Reg) (off : BitVec 8) (fa fb : Bool)
  /-- R164: Places the tile's active elements in the strip with the element stride vst. -/
  | vsts (d a : Reg) (off : BitVec 8) (fa fb : Bool)
  /-- R166: Gathers elements through an index vector. -/
  | vldx (d a b : Reg) (fa fb : Bool)
  /-- R166: Scatters elements into the strip through an index vector. -/
  | vstx (d a b : Reg) (fa fb : Bool)
  /-- R167: Gathers elements and records links to their lines in the hart's link table. -/
  | vldl (d a b : Reg) (fa fb : Bool)
  /-- R168: Commits the strip, then stores each linked element whose line is unchanged and writes a success mask. -/
  | vstc (d a : Reg) (fa : Bool)
  /-- R169: Places scatter-add elements in the strip, to be added at their home slices at commit. -/
  | vscadd (d a b : Reg) (fa fb : Bool)
  /-- R170: Commits the strip, reserves slots in a work vector atomically and writes the active payload there. -/
  | cappend (d a b : Reg) (fa fb : Bool)
  /-- R175: Reads a stream spec into a stream and sets it LOADED with position 0. -/
  | sspec (d a : Reg) (fa : Bool)
  /-- R175: Binds a vector name to a stream. -/
  | sbind (d a : Reg) (fa : Bool)
  /-- R175: Removes a stream's binding. -/
  | sunbind (d : Reg)
  /-- R176: Commits the strip and drops the fetched-ahead elements of the masked input streams. -/
  | sbar (a : Reg) (fa : Bool)
  /-- R175: Arms a stream to start when a memory word reaches a threshold. -/
  | scond (d a : Reg) (b : Src) (fa : Bool)
  /-- R175: Writes a stream's position to D. -/
  | spos (d a : Reg)
  /-- R175: Sets a stream RUNNING. -/
  | sstart (d : Reg)
  /-- R175: Commits the strip and waits for an input stream to run, or for an output stream to finish and its DONEADD. -/
  | swait (d : Reg)
  /-- R186: Sets the name count N, clears the vector state and returns VLMAX. -/
  | vconf (d : Reg) (b : Src)
  /-- R187: Grants vl from the request, VLMAX and the power grant, and shrinks the tile if VLMAX fell. -/
  | vsetl (d : Reg) (b : Src)
  /-- R189: Sets vrows, clears vl and returns the old vrows. -/
  | vsetr (d : Reg) (b : Src)
  /-- R190: Replaces VCFG after checks and returns the old image. -/
  | vsetcfg (d : Reg) (b : Src)
  /-- R191: Sets vst and returns the old value. -/
  | vsetst (d : Reg) (b : Src)
  /-- R199: Rendezvous that fuses the two harts of a gang pair into one ganged hart. -/
  | gang (d : Reg)
  /-- R201: Splits a ganged hart and clears the vector state of both cores. -/
  | ungang (d : Reg)
  /-- R193: Writes the hart's vector image to memory. -/
  | vsave (a : Reg) (fa : Bool)
  /-- R193: Reads a vector image from memory into the hart. -/
  | vrestore (a : Reg) (fa : Bool)
  /-- R192: Reads a selected vector configuration item into D. -/
  | vcfgrd (d sel : Reg)
  /-- R239: Issues a 32×32 block matrix multiply-accumulate into an accumulator handle, binding a slot if needed. -/
  | mma (z a b : Reg) (fmt : BitVec 4) (kn : BitVec 2) (acc : Bool)
  /-- R246: Adds sA·P·sB from one handle into an FP32 handle, rounding RNE. -/
  | zscacc (d a b : Reg) (fb : Bool)
  /-- R247: Binds a handle if needed, zeroes its tile and sets its kind. -/
  | zzero (d a : Reg)
  /-- R247: Returns a handle's slot to the free list. -/
  | zrel (d : Reg)
  /-- R248: Narrows part of an accumulator tile into a vector register. -/
  | zext (d a : Reg) (b : Src)
  /-- R249: Writes vector elements into an accumulator tile. -/
  | zins (d a : Reg) (b : Src) (fa : Bool)
  /-- R252: Writes an exact tile image to memory. -/
  | zsave (d a : Reg) (fa : Bool)
  /-- R252: Reads a tile image into a handle, binding it if needed. -/
  | zload (d a : Reg) (fa : Bool)
  /-- R250: Records the absolute maximum of a whole tile in an absmax ring. -/
  | zamax (a b : Reg)
  /-- R237: Sets a descriptor's VA and stride. -/
  | mdset (d a : Reg) (b : Src) (fa : Bool)
  /-- R237: Advances a descriptor's VA. -/
  | mdadv (d : Reg) (b : Src)
  /-- R251: Writes a snapshot of a handle and the free list to D. -/
  | zstat (d a : Reg)
  /-- R264: Writes a generator register's configuration word and SCALE after checks. -/
  | kset (d a : Reg) (b : Src) (fa : Bool)
  /-- R265: Sets a generator register's SEED. -/
  | kseed (d : Reg) (b : Src)
  /-- R265: Sets a generator register's row and column origins. -/
  | korg (d a : Reg) (b : Src) (fa : Bool)
  /-- R267: Fills the active elements of a tile from a generator frame. -/
  | vgen (d a : Reg)
  /-- R268: Reads a word or a frequency entry of a generator register into D. -/
  | kget (d a : Reg) (b : Src)
  /-- R147: Checks and queues a 2-D copy command and returns its ticket. -/
  | cpy (d a b : Reg) (fa fb : Bool)
  /-- R153: Queues a copy with a follow-on MMA carried in its trailing word. -/
  | cpymma (d a : Reg) (fa : Bool) (z sa sb : Reg) (fmt : BitVec 4) (kn : BitVec 2) (acc : Bool)
  /-- R152: Waits for copy commands up to a ticket and delivers any abort or discard. -/
  | cpywait (d a : Reg) (fa : Bool)
  /-- R157: Initialises a circular buffer over aperture pages. -/
  | cbinit (d a b : Reg) (fa fb : Bool)
  /-- R158: Waits for a filled slot, takes it and returns its VA. -/
  | cbwait (d a : Reg)
  /-- R159: Frees up to B of the oldest held slots once their reads are done. -/
  | cbrel (d a : Reg) (b : Src)
  /-- R160: Writes a snapshot of a circular buffer's state to D. -/
  | cbstat (d a : Reg)
  /-- R279: Acquires a sync object, or queues and waits for it. -/
  | acq (d a : Reg) (fa : Bool)
  /-- R279: Releases a held sync object and grants the first waiter. -/
  | rel (a : Reg) (fa : Bool)
  /-- R278: Adds or updates a binding of a region to an object. -/
  | bind (d a : Reg) (b : Src) (fa : Bool)
  /-- R278: Removes a binding of a region to an object. -/
  | unbind (d a : Reg) (fa : Bool)
  /-- R284: Raises a watermark word to at least B as a release. -/
  | wmpub (d : Reg) (b : Src)
  /-- R283: Loads a watermark link descriptor into a w register. -/
  | wmlink (d a : Reg) (fa : Bool)
  /-- R287: Arrives at a barrier and waits for the phase to complete. -/
  | bar (d a : Reg) (fa : Bool)
  /-- R287: Joins a barrier. -/
  | barjoin (d a : Reg) (fa : Bool)
  /-- R287: Leaves a barrier. -/
  | barleave (a : Reg) (fa : Bool)
  /-- R289: ORs a value into a core's notify register as a release. -/
  | notify (a : Reg) (b : Src) (fa : Bool)
  /-- R290: Waits until a notify register is nonzero, then takes and clears it. -/
  | waitn (d a : Reg)
  /-- R295: Writes a promise cell as a fresh EMPTY cell. -/
  | pinit (a : Reg) (fa : Bool)
  /-- R297: Fills a promise class, checks an equal refill or raises CONFFILL. -/
  | pfill (d a : Reg) (b : Src) (fa : Bool)
  /-- R296: Unites two promise classes. -/
  | peq (d a b : Reg) (fa fb : Bool)
  /-- R298: Registers a waiter at a promise class; D fills when the class is FULL. -/
  | pwait (d a : Reg) (fa : Bool)
  /-- R300: Writes 1 to D if the class is FULL, else 0, without waiting. -/
  | ptest (d a : Reg) (fa : Bool)
  /-- R322: Sends a reduction packet of n elements to a fabric group's root. -/
  | xred (d a : Reg) (b : Src) (fa : Bool)
  /-- R322: Sends a barrier packet to a fabric group's root. -/
  | xbar (d : Reg)
  /-- R324: Waits for the hart's awaited generation of a group and returns its STATUS. -/
  | xwait (d a : Reg) (fa : Bool)
  /-- R370: Copies a launch descriptor into the pool, waiting while the pool is full. -/
  | launch (d a : Reg) (fa : Bool)
  /-- R370: Copies a launch descriptor into the pool, or returns POOLFULL. -/
  | launchnb (d a : Reg) (fa : Bool)
  /-- R372: Marks an identifier's record CANCELLED. -/
  | cancel (d a b : Reg) (fa : Bool)
  /-- R373: Waits until a record's OUT reaches 0 and returns FAILED. -/
  | cwait (d a b : Reg) (fa : Bool)
  /-- R375: Writes an identity item of the hart, chosen by a selector, to D. -/
  | self (d b : Reg)
  /-- R373: Reads a record's FAILED and OUT counts into D. -/
  | cntrd (d a b : Reg) (fa : Bool)
  /-- R402: Raises TRAPI with a code. -/
  | trap (b : Src)
  /-- R406: Reads a system register into D. -/
  | sysrd (d a : Reg)
  /-- R408: Reads the core's cycle counter into D. -/
  | rdcyc (d : Reg)
  /-- R409: Reads the context's NRG plus its carry into D. -/
  | rdnrg (d : Reg)
  /-- R266: Loads the 64-word frequency table of a generator register. -/
  | kfreq (d a : Reg) (fa : Bool)
  /-- R406: Writes a system register. -/
  | syswr (d : Reg) (b : Src)
  /-- R407: Installs SLOTTAB from two registers. -/
  | slotset (a : Reg) (fa : Bool)
  /-- R410: Writes a context's scalar image and frees the context. -/
  | ctxswSout (d a : Reg) (fa : Bool)
  /-- R410: Reads a scalar image into a free context and assigns it a partition region. -/
  | ctxswSin (d a : Reg) (fa : Bool)
  /-- R410: Writes the lazy owner's vector image and frees the region. -/
  | ctxswVout (d a : Reg) (fa : Bool)
  /-- R410: Reads a vector image into the region and clears LAZY. -/
  | ctxswVin (d a : Reg) (fa : Bool)
  /-- R410: Writes a switched-out hart's accumulator image and releases its slots. -/
  | ctxswZout (d a : Reg) (fa : Bool)
  /-- R410: Binds and loads a context's saved tiles. -/
  | ctxswZin (d a : Reg) (fa : Bool)
  /-- R403: Waits for a trap record and takes it, fatal records first. -/
  | wfn (d : Reg)
  /-- R335: Advice: prefetches lines into slice caches or translations into the core's cache. -/
  | apf (d a : Reg) (b : Src)
  /-- R336: Advice: records a preferred die for a frame. -/
  | ahome (a : Reg) (b : Src)
  /-- R337: Advice: sets the hart's advice priority. -/
  | aprio (b : Src)
  /-- R338: Advice: sets the issue order among ready vector instructions. -/
  | aorder (b : Src)
  /-- R339: Advice: requests wakes of lane groups. -/
  | awake (b : Src)
  /-- R340: Advice: conditional jump within the book. -/
  | aj (d a : Reg) (b : Src)
  /-- R340: Advice: decrements a counter and jumps while it is nonzero. -/
  | aloop (a : Reg) (b : Src)
  /-- R340: Advice: adds into a d register. -/
  | aadd (d a : Reg) (b : Src)
  /-- R340: Advice: loads a value into a d register. -/
  | ali (d : Reg) (b : Src)
  /-- R340: Advice: reads a register of the last mark snapshot, or the mark id. -/
  | asnap (d a : Reg)
  /-- R341: Advice: waits for the next mark and realigns when its id differs. -/
  | await (imm : BitVec 20)
  /-- R179: Commits the open strip once its loads are clean and its stores are accepted. -/
  | stripc
  /-- R282: Orders every earlier access before every later one. -/
  | fenceFull
  /-- R282: Orders every earlier access before every later write. -/
  | fenceRel
  /-- R282: Orders every earlier read before every later access. -/
  | fenceAcq
  /-- R282: Discards the hart's fetched blocks. -/
  | fenceIfetch
  /-- R374: Ends the hart after its work completes and releases its resources. -/
  | exit
  /-- R404: RTE 0: resumes the context or the engine command of the record in hand. -/
  | rteResume
  /-- R404: RTE 1: kills the hart, or aborts the engine command. -/
  | rteKill
  /-- R402: Raises BREAK. -/
  | brk
  /-- R340: Advice: puts the advice context in IDLE. -/
  | aend
  /-- R341: An IDLE Second takes an arriving mark and seeks its resume point in the index. -/
  | secondMarkConsume (core : CoreId) (ctx : UserCtx)
  /-- R342: A unit accepts a pending advice action, which then completes. -/
  | adviceActionAccept (core : CoreId) (ctx : UserCtx)
  /-- R398: An uncorrectable error in SLOTTAB, the trap queue, firmware registers or a core control register posts a fatal record. -/
  | fatalError (core : CoreId) (struck : BitVec 7)
  /-- R420: An uncorrectable register-file error, or a fourth corrected error within 2^28 cycles, occurs in a lane. -/
  | laneError (core : CoreId) (lane : Lane) (struck : Struck)
  /-- R419: ECC or CRC with replay corrects a soft error with no change of value or order. -/
  | correctedError (core : CoreId) (lane : Option Lane)
  /-- R363: When resources fall free, the Arbiter selects the next work by level and deficit round robin. -/
  | arbiterSelection
  /-- R366: At each 4,096-cycle boundary, contexts of queues with non-positive deficit become eviction victims. -/
  | arbiterBoundary (core : CoreId)
  /-- R360: The launch scheduler places a whole launch once contexts, partitions and pieces are free. -/
  | launchPlacement
  /-- R355: A host descriptor arrives whole and is accepted, or dropped and reported. -/
  | descriptorArrival (queue : QueueId) (descriptor : BitVec 2048)
  /-- R436: A host write of QTAIL makes new descriptor slots available for fetching. -/
  | qtailWrite (queue : QueueId) (value : BitVec 64)
  /-- R436: Enables or stops fetching from a queue and sets its LEVEL and size. -/
  | qctlWrite (queue : QueueId) (value : BitVec 64)
  /-- R372: A hart of a cancelled identifier takes CANCELLED at its next instruction boundary. -/
  | hartCancelled (core : CoreId) (ctx : UserCtx)
  /-- R417: A hart of a fenced launch takes FENCED at its next instruction boundary. -/
  | hartFenced (core : CoreId) (ctx : UserCtx)
  /-- R367: Each core cycle, the SLOTTAB entry decides which context issues. -/
  | issueCycle (core : CoreId)
  /-- R377: Each cycle, busy cycles are admitted or withheld against CEIL, and ACTM drains. -/
  | activityMeterCycle (core : CoreId)
  /-- R128: Every 1,048,576 cycles each slice decides page moves and halves its counters. -/
  | pageEpoch (slice : SliceId)
  /-- R130: When a frame copy completes, the old home switches the home entry and forwards queued requests. -/
  | frameMoveSwitch (frame : BitVec 36)
  /-- R136: An uncorrectable error in a returned line marks it poisoned at its home. -/
  | moduleUncorrectableError (line : BitVec 46)
  /-- R140: An uncorrectable error in a typed-buffer word poisons the word. -/
  | bufferWordError (core : CoreId) (buf : TypedBuf) (word : BitVec 19)
  /-- R182: An uncorrectable error detected in a strip discards it, restores the checkpoint and traps. -/
  | striplost (core : CoreId) (ctx : ContextId)
  /-- R135: A Sobry link or module fails, its frames are re-homed or lost, and affected launches are fenced. -/
  | linkFailure (link : LinkId) (readable : Bool)
  /-- R134: When the last frame of a retired link has left, MCAP.LINKMAP drops the link. -/
  | moduleRetireComplete (link : LinkId)
  /-- R148: A queued copy command starts, for a circular-buffer slot once FREE > 0, and moves its rows. -/
  | copyCommandStart (core : CoreId) (turn : CopyTurn)
  /-- R156: A copy command writes its last byte, completes its ticket and fills its slot. -/
  | copyCommandComplete (core : CoreId) (ctx : ContextId)
  /-- R239: An MMA writes its last row and clears ROWPROG. -/
  | mmaComplete (core : CoreId) (turn : MmaTurn)
  /-- R32: A long-latency producer writes its result and marks its destination full. -/
  | longLatencyResult (core : CoreId) (turn : ResultTurn)
  /-- R179: A strip's effects become visible once its loads are clean and its stores are accepted. -/
  | stripCommitComplete (core : CoreId) (ctx : ContextId)
  /-- R327: A scatter-add arrives at its home slice and is serialised as one rmw. -/
  | scatterAddPerform (add : ScatterAdd)
  /-- R176: An input stream engine reads an element ahead of its pop. -/
  | streamElementFetch (core : CoreId) (ctx : ContextId) (stream : StreamId) (reply : RemoteReply)
  /-- R175: An armed stream reads its condition word and starts running when the threshold is met. -/
  | streamConditionRead (core : CoreId) (ctx : ContextId) (stream : StreamId)
  /-- R175: After every push has performed, the stream adds 1 at FLAG as a SYSTEM release. -/
  | streamDoneadd (core : CoreId) (ctx : ContextId) (stream : StreamId) (reply : RemoteReply)
  /-- R317: A remote push performs at the target device's home. -/
  | remotePushPerform (request : RemoteRequest) (data : BitVec 64) (stage : PushStage)
  /-- R174: A target device translates and serves a remote stream element, or rejects it. -/
  | remoteStreamRequest (request : RemoteRequest)
  /-- R323: A fabric packet reaches the root slice and is kept or marks a mismatch. -/
  | xredPacketArrival (message : XMessage)
  /-- R279: A sync-object grant reaches a queued waiter, which completes its ACQ. -/
  | acqGrant (core : CoreId) (ctx : UserCtx)
  /-- R279: A waiter that found the pool full polls from its core. -/
  | waiterPoll (core : CoreId) (ctx : UserCtx)
  /-- R285: A watermark word read lets a waiting element proceed, as an acquire. -/
  | watermarkRelease (core : CoreId) (ctx : UserCtx)
  /-- R365: An STD to the queue window sets a queue's WEIGHT. -/
  | queueWeightWrite (queue : QueueId) (value : BitVec 64)
  /-- R382: The die's power controller adjusts GRANT, gating and CHAINP from telemetry. -/
  | powerControllerUpdate (core : CoreId) (grant : BitVec 13) (gate : BitVec 8) (gateCore : Bool) (withdraw : BitVec 8)
  /-- R385: After 2 µs of hold, the switches of a lane group or core start opening. -/
  | powerHoldExpire (core : CoreId) (part : PowerPart)
  /-- R385: Opening completes and any pending wake enters the in-rush queue. -/
  | switchOpeningComplete (core : CoreId) (part : PowerPart)
  /-- R386: The in-rush arbiter grants the oldest queued wake, at most 8 at a time. -/
  | inrushGrant
  /-- R386: A part finishes turning on 400 ns after its grant, and capture latches merge. -/
  | turnOnComplete (core : CoreId) (group : BitVec 3)
  /-- R382: A write of GCAP clamps GRANT from the next cycle. -/
  | gcapWrite (core : CoreId) (value : BitVec 64)
  /-- R378: A write of ACTW sets meter weights and limits from the next cycle, with clamps. -/
  | actwWrite (core : CoreId) (value : BitVec 64)
  /-- R421: Clearing a LANEMAP bit retires a lane, relocates vector state and resets the advice contexts. -/
  | lanemapWrite (core : CoreId) (value : BitVec 64)
  /-- R117: A write of MRSV sets the frame reserve and recomputes MCAP.FRAMES when no launch is resident. -/
  | mrsvWrite (value : BitVec 64)
  /-- R412: A write of FWROOT changes the firmware's translation root for its next access. -/
  | fwrootWrite (core : CoreId) (value : BitVec 64)
  /-- R435: Sets the device number when no launch is resident. -/
  | devnumWrite (value : BitVec 64)
  /-- R437: Starts the translation-invalidate command for an ASN and range. -/
  | tinvGo (value : BitVec 64)
  /-- R127: The invalidate completes once no cache holds the range and every access through it has committed. -/
  | tinvComplete
  /-- R438: Installs a job's translation root in the remote-root table. -/
  | rrInstall
  /-- R438: Removes a job's remote root once no remote access uses it. -/
  | rrRemove
  /-- R439: The host advances REPHEAD, and reports waiting in the device are written. -/
  | repheadWrite (value : BitVec 64)
  /-- R442: Service command 1 fences a core. -/
  | svcFencecore
  /-- R442: Service command 2 retires a module and re-homes its frames. -/
  | svcRetiremod
  /-- R442: Service command 3 adds a replaced module's slots to the free pool. -/
  | svcReturnmod
  /-- R443: Service command 4 recalibrates link lanes live. -/
  | svcRecal
  /-- R443: A recalibrated lane returns to service within 2 ms. -/
  | recalLaneReturn (quinsia : Bool) (link : BitVec 16) (lane : BitVec 3)
  /-- R442: Service command 5 stages a firmware image, taken by each core at its next WFN. -/
  | svcStagefw (image : FirmwareImage)
  /-- R444: Service command 6 writes a signed attestation quote. -/
  | svcAttest
  /-- R17: A write to a register with no row of its own sets its writable fields. -/
  | registerWrite (offset : BitVec 20) (value : BitVec 64)
  /-- R433: A host access through BAR2 performs in device memory in arrival order. -/
  | hostBar2Access (offset : BitVec 36) (access : HostAccess) (data : BitVec 64)
  /-- R440: At power-on, the boot ROM verifies and starts the boot image, which sets READY. -/
  | powerOnBoot (boot : BootImage) (tvec fwroot : BitVec 64) (image : List Host.Cell)
  /-- R116: Device reset computes MCAP.FRAMES and clears poison marks. -/
  | deviceReset
  /-- R443: A Sobry link or Quinsia port loses or regains lanes or a switch plane outside any RECAL, changing reachability and posting a KIND 6 report. -/
  | linkStateChanged (quinsia : Bool) (link : BitVec 16) (lanes : BitVec 4)
  /-- R443: A DOMMAP bit changes as the host-side network gains or loses a domain, making targets there reachable or unreachable. -/
  | domainReachabilityChange (domain : BitVec 6) (reachable : Bool)
  /-- R418: An uncorrectable error in a memory slice's home table or walker turns its homed frames into lost frames, and the other slices of the link take over. -/
  | sliceUncorrectableError (slice : SliceId)
  /-- R408: A cluster's clock is stretched, stopped or restarted independently of the other clusters, which changes when its cycles and cycle counter advance. -/
  | clusterClockChange (core : CoreId) (running : Bool)
  /-- R353: System software retires a job whose OUT has reached 0, releasing its completion records so that waiting launches and descriptors can be accepted. -/
  | jobRetired (job : BitVec 64)
  deriving DecidableEq, Repr

end Sys2Proof
end

