-- ==== Sys2Proof/WellFormed.lean ====
section
/-!
DEFINITION. Which instructions of the opcode map are legal words (R40, R47).

An instruction that is not well-formed is the decoding of a word that R47 calls ILLEGAL for the kind of its source B
or for a code that one of its fields carries.  A hart raises ILLEGAL for it; the Second drops it (R333).
-/

namespace Sys2Proof

/-- BK is not 01: the source kinds of a scalar instruction (R40, R80, R184, R237, R263, R275, R292, R401). -/
def Src.isScalarKind : Src → Bool
  | .scalar _ _ => false
  | _ => true

/-- BK is not 00: a count, an index, a slide or a position (R213, R227, R245, R321). -/
def Src.isNumberKind : Src → Bool
  | .reg _ _ => false
  | _ => true

/-- BK is not 01 and no ready bit is set: the source kinds of an advice instruction (R333). -/
def Src.isAdviceKind : Src → Bool
  | .reg _ fb => !fb
  | .scalar _ _ => false
  | _ => true

/-- BK is 00 or 11: the target of an advice branch (R333). -/
def Src.isTargetKind : Src → Bool
  | .reg _ fb => !fb
  | .lit _ => true
  | _ => false

/-- R221: float format codes 6 and 7 are ILLEGAL. -/
def isFloatCode (c : BitVec 3) : Bool := c.toNat < 6

/-- R47: the MMA formats 6 and 10-15 are ILLEGAL. -/
def isMmaFormat (f : BitVec 4) : Bool := f.toNat < 6 || f.toNat == 7 || f.toNat == 8 || f.toNat == 9

/-- R352, R369: the level codes. -/
def isLevelCode (b : Reg) : Bool := 1 ≤ b.toNat && b.toNat ≤ 4

/-- R411: the system register numbers that are assigned. -/
def isSystemRegister (r : Reg) : Bool := r.toNat ≤ 25

/-- The legality of an instruction's codes.  An instruction that no arm names carries no code that its entry forbids:
its register fields are judged by R39 when it executes. -/
def Instr.wf : Instr → Bool
  | .add _ _ b _ | .sub _ _ b _ | .mul _ _ b _ | .mulhs _ _ b _ | .mulhu _ _ b _ | .divs _ _ b _ | .divu _ _ b _
  | .rems _ _ b _ | .remu _ _ b _ | .and _ _ b _ | .or _ _ b _ | .xor _ _ b _ | .andn _ _ b _ | .shl _ _ b _
  | .shr _ _ b _ | .sra _ _ b _ | .rotl _ _ b _ | .mins _ _ b _ | .maxs _ _ b _ | .minu _ _ b _ | .maxu _ _ b _
  | .slt _ _ b _ | .sltu _ _ b _ | .seq _ _ b _ | .cmov _ _ b _ | .exts _ _ b _ => b.isScalarKind
  | .fadd _ _ b _ | .fsub _ _ b _ | .fmul _ _ b _ | .fdiv _ _ b _ | .fmin _ _ b _ | .fmax _ _ b _ | .ffma _ _ b _
  | .feq _ _ b _ | .flt _ _ b _ | .fle _ _ b _ | .fsgnj _ _ b _ => b.isScalarKind
  | .scond _ _ b _ | .mdset _ _ b _ | .kset _ _ b _ | .korg _ _ b _ | .bind _ _ b _ | .pfill _ _ b _ => b.isScalarKind
  | .vconf _ b | .vsetl _ b | .vsetr _ b | .vsetcfg _ b | .vsetst _ b | .mdadv _ b | .kseed _ b | .wmpub _ b
  => b.isScalarKind
  | .syswr d b => b.isScalarKind && isSystemRegister d
  | .kget _ _ b | .cbrel _ _ b => b.isScalarKind
  | .notify _ b _ => b.isScalarKind
  | .trap b => b.isScalarKind
  | .vredsum _ _ b _ | .vredfsum _ _ b _ | .vredmax _ _ b _ | .vredmin _ _ b _ | .vredfmax _ _ b _
  | .vredfmin _ _ b _ | .vredand _ _ b _ | .vredor _ _ b _ | .vslideup _ _ b _ | .vslidedn _ _ b _
  | .vextract _ _ b _ | .vinsert _ _ b _ | .vunzip _ _ b _ | .zins _ _ b _ | .xred _ _ b _ => b.isNumberKind
  | .vbcast _ b => b.isNumberKind
  | .zext _ _ b => b.isNumberKind
  | .vfcvt _ _ fd fs _ => isFloatCode fd && isFloatCode fs
  | .vcvtif _ _ fd _ _ => isFloatCode fd
  | .vcvtfi _ _ _ fs _ => isFloatCode fs
  | .amscl _ _ b => b.toNat ≤ 6
  | .vcfgrd _ sel => sel.toNat ≤ 7
  | .mma _ _ _ fmt _ _ => isMmaFormat fmt
  | .cpymma _ _ _ _ _ _ fmt _ _ => isMmaFormat fmt
  | .zzero _ a => a.toNat ≤ 2
  | .cancel _ _ b _ | .cwait _ _ b _ | .cntrd _ _ b _ => isLevelCode b
  | .self _ b => b.toNat ≤ 9
  | .sysrd _ a => isSystemRegister a
  | .apf _ _ b | .aadd _ _ b => b.isAdviceKind
  | .ahome _ b => b.isAdviceKind
  | .ali _ b => b.isAdviceKind
  | .aprio b | .aorder b | .awake b => b.isAdviceKind
  | .aj _ _ b => b.isTargetKind
  | .aloop _ b => b.isTargetKind
  | _ => true

end Sys2Proof
end

