-- ==== Sys2Proof/Decode.lean ====
section
/-!
DEFINITION. From words to instructions and back (R37-R48).

The decoder takes the fields of R38 out of a word and rejects, by name, a word that the opcode map does not list.
A word whose operand codes its entry forbids decodes to an instruction that is not well-formed, which the hart
refuses as ILLEGAL when it reaches it (WellFormed.lean, R47).
-/

namespace Sys2Proof

/-- Why a word is no instruction; each is ILLEGAL to a hart (R47) and dropped by the Second (R333). -/
inductive DecodeError where
  /-- a reserved major opcode (R46) -/
  | major
  /-- a function code that its major does not list (R46) -/
  | function
  /-- a sub-code carried in B that the entry does not list (R282, R401) -/
  | code
  /-- a field the entry fixes is something else (R47) -/
  | fixedField
  /-- FB with a constant or literal source, or B with a literal source (R40) -/
  | sourceField
  /-- the literal word of CPYMMA is no MMA word (R153) -/
  | followOn
  deriving DecidableEq, Repr

/-- Bits [lo + width - 1 : lo] of a word. -/
def field (w lo width : Nat) : Nat := w / 2 ^ lo % 2 ^ width

/-- A field as a bit vector. -/
def bits (w lo width : Nat) : BitVec width := BitVec.ofNat width (w / 2 ^ lo)

/-- One bit of a word. -/
def flag (w lo : Nat) : Bool := field w lo 1 == 1

/-- Source B of format R from B, BK and FB (R40). -/
def decodeSource (w lit : Nat) : Except DecodeError Src :=
  match field w 6 2 with
  | 0 => .ok (.reg (bits w 8 6) (flag w 4))
  | 1 => .ok (.scalar (bits w 8 6) (flag w 4))
  | 2 => if field w 4 1 = 0 then .ok (.const (bits w 8 6)) else .error .sourceField
  | _ => if field w 4 1 = 0 ∧ field w 8 6 = 0 then .ok (.lit (BitVec.ofNat 32 lit)) else .error .sourceField

/-- An instruction that has a source B. -/
def withSource (w lit : Nat) (mk : Src → Except DecodeError Instr) : Except DecodeError Instr :=
  match decodeSource w lit with
  | .ok b => mk b
  | .error e => .error e

/-- CPYMMA, whose trailing word is an MMA word (R153). -/
def decodeCpymma (w lit : Nat) : Except DecodeError Instr :=
  if field w 6 2 = 3 ∧ field w 8 6 = 0 ∧ field w 4 1 = 0 then
    if lit / 2 ^ 26 = 48 ∧ field lit 0 1 = 0 ∧ isMmaFormat (bits lit 4 4) then
      .ok (.cpymma (bits w 20 6) (bits w 14 6) (flag w 5) (bits lit 20 6) (bits lit 14 6) (bits lit 8 6)
        (bits lit 4 4) (bits lit 2 2) (flag lit 1))
    else .error .followOn
  else .error .fixedField

/-- Major 0x01 (R46). -/
def decodeMajor01 (w lit : Nat) : Except DecodeError Instr :=
  match field w 0 4 with
  | 0 => withSource w lit fun b => .ok (.add (bits w 20 6) (bits w 14 6) b (flag w 5))
  | 1 => withSource w lit fun b => .ok (.sub (bits w 20 6) (bits w 14 6) b (flag w 5))
  | 2 => withSource w lit fun b => .ok (.mul (bits w 20 6) (bits w 14 6) b (flag w 5))
  | 3 => withSource w lit fun b => .ok (.mulhs (bits w 20 6) (bits w 14 6) b (flag w 5))
  | 4 => withSource w lit fun b => .ok (.mulhu (bits w 20 6) (bits w 14 6) b (flag w 5))
  | 5 => withSource w lit fun b => .ok (.divs (bits w 20 6) (bits w 14 6) b (flag w 5))
  | 6 => withSource w lit fun b => .ok (.divu (bits w 20 6) (bits w 14 6) b (flag w 5))
  | 7 => withSource w lit fun b => .ok (.rems (bits w 20 6) (bits w 14 6) b (flag w 5))
  | 8 => withSource w lit fun b => .ok (.remu (bits w 20 6) (bits w 14 6) b (flag w 5))
  | 9 => withSource w lit fun b => .ok (.and (bits w 20 6) (bits w 14 6) b (flag w 5))
  | 10 => withSource w lit fun b => .ok (.or (bits w 20 6) (bits w 14 6) b (flag w 5))
  | 11 => withSource w lit fun b => .ok (.xor (bits w 20 6) (bits w 14 6) b (flag w 5))
  | 12 => withSource w lit fun b => .ok (.andn (bits w 20 6) (bits w 14 6) b (flag w 5))
  | 13 => withSource w lit fun b => .ok (.shl (bits w 20 6) (bits w 14 6) b (flag w 5))
  | 14 => withSource w lit fun b => .ok (.shr (bits w 20 6) (bits w 14 6) b (flag w 5))
  | 15 => withSource w lit fun b => .ok (.sra (bits w 20 6) (bits w 14 6) b (flag w 5))
  | _ => .error .function

/-- Major 0x02 (R46). -/
def decodeMajor02 (w lit : Nat) : Except DecodeError Instr :=
  match field w 0 4 with
  | 0 => withSource w lit fun b => .ok (.rotl (bits w 20 6) (bits w 14 6) b (flag w 5))
  | 1 => if field w 4 1 = 0 ∧ field w 6 8 = 0 then .ok (.clz (bits w 20 6) (bits w 14 6) (flag w 5)) else .error .fixedField
  | 2 => if field w 4 1 = 0 ∧ field w 6 8 = 0 then .ok (.ctz (bits w 20 6) (bits w 14 6) (flag w 5)) else .error .fixedField
  | 3 => if field w 4 1 = 0 ∧ field w 6 8 = 0 then .ok (.popc (bits w 20 6) (bits w 14 6) (flag w 5)) else .error .fixedField
  | 4 => withSource w lit fun b => .ok (.mins (bits w 20 6) (bits w 14 6) b (flag w 5))
  | 5 => withSource w lit fun b => .ok (.maxs (bits w 20 6) (bits w 14 6) b (flag w 5))
  | 6 => withSource w lit fun b => .ok (.minu (bits w 20 6) (bits w 14 6) b (flag w 5))
  | 7 => withSource w lit fun b => .ok (.maxu (bits w 20 6) (bits w 14 6) b (flag w 5))
  | 8 => withSource w lit fun b => .ok (.slt (bits w 20 6) (bits w 14 6) b (flag w 5))
  | 9 => withSource w lit fun b => .ok (.sltu (bits w 20 6) (bits w 14 6) b (flag w 5))
  | 10 => withSource w lit fun b => .ok (.seq (bits w 20 6) (bits w 14 6) b (flag w 5))
  | 11 => withSource w lit fun b => .ok (.cmov (bits w 20 6) (bits w 14 6) b (flag w 5))
  | 12 => withSource w lit fun b => .ok (.exts (bits w 20 6) (bits w 14 6) b (flag w 5))
  | _ => .error .function

/-- Major 0x03 (R46). -/
def decodeMajor03 (w : Nat) : Except DecodeError Instr :=
  .ok (.addi (bits w 20 6) (bits w 14 6) (bits w 0 14))

/-- Major 0x04 (R46). -/
def decodeMajor04 (w : Nat) : Except DecodeError Instr :=
  .ok (.li (bits w 20 6) (bits w 0 20))

/-- Major 0x06 (R46). -/
def decodeMajor06 (w : Nat) : Except DecodeError Instr :=
  .ok (.fli (bits w 20 6) (bits w 0 20))

/-- Major 0x07 (R46). -/
def decodeMajor07 (w : Nat) : Except DecodeError Instr :=
  if field w 6 14 = 0 then .ok (.lc (bits w 20 6) (bits w 0 6)) else .error .fixedField

/-- Major 0x0C (R46). -/
def decodeMajor0C (w lit : Nat) : Except DecodeError Instr :=
  match field w 0 4 with
  | 0 => withSource w lit fun b => .ok (.fadd (bits w 20 6) (bits w 14 6) b (flag w 5))
  | 1 => withSource w lit fun b => .ok (.fsub (bits w 20 6) (bits w 14 6) b (flag w 5))
  | 2 => withSource w lit fun b => .ok (.fmul (bits w 20 6) (bits w 14 6) b (flag w 5))
  | 3 => withSource w lit fun b => .ok (.fdiv (bits w 20 6) (bits w 14 6) b (flag w 5))
  | 4 => if field w 4 1 = 0 ∧ field w 6 8 = 0 then .ok (.fsqrt (bits w 20 6) (bits w 14 6) (flag w 5)) else .error .fixedField
  | 5 => withSource w lit fun b => .ok (.fmin (bits w 20 6) (bits w 14 6) b (flag w 5))
  | 6 => withSource w lit fun b => .ok (.fmax (bits w 20 6) (bits w 14 6) b (flag w 5))
  | 7 => withSource w lit fun b => .ok (.ffma (bits w 20 6) (bits w 14 6) b (flag w 5))
  | 8 => withSource w lit fun b => .ok (.feq (bits w 20 6) (bits w 14 6) b (flag w 5))
  | 9 => withSource w lit fun b => .ok (.flt (bits w 20 6) (bits w 14 6) b (flag w 5))
  | 10 => withSource w lit fun b => .ok (.fle (bits w 20 6) (bits w 14 6) b (flag w 5))
  | 11 => if field w 4 1 = 0 ∧ field w 6 8 = 0 then .ok (.fcvtif (bits w 20 6) (bits w 14 6) (flag w 5)) else .error .fixedField
  | 12 => if field w 4 1 = 0 ∧ field w 6 8 = 0 then .ok (.fcvtfi (bits w 20 6) (bits w 14 6) (flag w 5)) else .error .fixedField
  | 13 => withSource w lit fun b => .ok (.fsgnj (bits w 20 6) (bits w 14 6) b (flag w 5))
  | 14 => if field w 4 1 = 0 ∧ field w 6 8 = 0 then .ok (.fclass (bits w 20 6) (bits w 14 6) (flag w 5)) else .error .fixedField
  | _ => .error .function

/-- Major 0x10 (R46). -/
def decodeMajor10 (w : Nat) : Except DecodeError Instr :=
  .ok (.br (bits w 20 6) (bits w 17 3) (bits w 0 17))

/-- Major 0x11 (R46). -/
def decodeMajor11 (w : Nat) : Except DecodeError Instr :=
  .ok (.jal (bits w 20 6) (bits w 0 20))

/-- Major 0x12 (R46). -/
def decodeMajor12 (w _lit : Nat) : Except DecodeError Instr :=
  match field w 0 4 with
  | 0 => if field w 4 1 = 0 ∧ field w 6 8 = 0 then .ok (.jr (bits w 20 6) (bits w 14 6) (flag w 5)) else .error .fixedField
  | 1 => if field w 6 2 = 0 then .ok (.jtab (bits w 20 6) (bits w 14 6) (bits w 8 6) (flag w 5) (flag w 4)) else .error .fixedField
  | _ => .error .function

/-- Major 0x13 (R46). -/
def decodeMajor13 (w : Nat) : Except DecodeError Instr :=
  if field w 20 6 = 0 then .ok (.mark (bits w 0 20)) else .error .fixedField

/-- Major 0x14 (R46). -/
def decodeMajor14 (w : Nat) : Except DecodeError Instr :=
  .ok (.strip (bits w 20 6) (bits w 16 4) (bits w 0 16))

/-- Major 0x15 (R46). -/
def decodeMajor15 (w _lit : Nat) : Except DecodeError Instr :=
  match field w 0 4 with
  | 0 => if field w 4 1 = 0 then .ok (.ldb (bits w 20 6) (bits w 14 6) (bits w 6 8) (flag w 5)) else .error .fixedField
  | 1 => if field w 4 1 = 0 then .ok (.ldh (bits w 20 6) (bits w 14 6) (bits w 6 8) (flag w 5)) else .error .fixedField
  | 2 => if field w 4 1 = 0 then .ok (.ldw (bits w 20 6) (bits w 14 6) (bits w 6 8) (flag w 5)) else .error .fixedField
  | 3 => if field w 4 1 = 0 then .ok (.ldd (bits w 20 6) (bits w 14 6) (bits w 6 8) (flag w 5)) else .error .fixedField
  | 4 => if field w 4 1 = 0 then .ok (.ldbs (bits w 20 6) (bits w 14 6) (bits w 6 8) (flag w 5)) else .error .fixedField
  | 5 => if field w 4 1 = 0 then .ok (.ldhs (bits w 20 6) (bits w 14 6) (bits w 6 8) (flag w 5)) else .error .fixedField
  | 6 => if field w 4 1 = 0 then .ok (.ldws (bits w 20 6) (bits w 14 6) (bits w 6 8) (flag w 5)) else .error .fixedField
  | 8 => .ok (.stb (bits w 20 6) (bits w 14 6) (bits w 6 8) (flag w 5) (flag w 4))
  | 9 => .ok (.sth (bits w 20 6) (bits w 14 6) (bits w 6 8) (flag w 5) (flag w 4))
  | 10 => .ok (.stw (bits w 20 6) (bits w 14 6) (bits w 6 8) (flag w 5) (flag w 4))
  | 11 => .ok (.std (bits w 20 6) (bits w 14 6) (bits w 6 8) (flag w 5) (flag w 4))
  | _ => .error .function

/-- Major 0x16 (R46). -/
def decodeMajor16 (w _lit : Nat) : Except DecodeError Instr :=
  match field w 0 4 with
  | 0 => .ok (.amoadd (bits w 20 6) (bits w 14 6) (bits w 8 6) (bits w 6 2) (flag w 5) (flag w 4))
  | 1 => .ok (.amoand (bits w 20 6) (bits w 14 6) (bits w 8 6) (bits w 6 2) (flag w 5) (flag w 4))
  | 2 => .ok (.amoor (bits w 20 6) (bits w 14 6) (bits w 8 6) (bits w 6 2) (flag w 5) (flag w 4))
  | 3 => .ok (.amoxor (bits w 20 6) (bits w 14 6) (bits w 8 6) (bits w 6 2) (flag w 5) (flag w 4))
  | 4 => .ok (.amomins (bits w 20 6) (bits w 14 6) (bits w 8 6) (bits w 6 2) (flag w 5) (flag w 4))
  | 5 => .ok (.amomaxs (bits w 20 6) (bits w 14 6) (bits w 8 6) (bits w 6 2) (flag w 5) (flag w 4))
  | 6 => .ok (.amominu (bits w 20 6) (bits w 14 6) (bits w 8 6) (bits w 6 2) (flag w 5) (flag w 4))
  | 7 => .ok (.amomaxu (bits w 20 6) (bits w 14 6) (bits w 8 6) (bits w 6 2) (flag w 5) (flag w 4))
  | 8 => .ok (.amoswap (bits w 20 6) (bits w 14 6) (bits w 8 6) (bits w 6 2) (flag w 5) (flag w 4))
  | 9 => .ok (.amocas (bits w 20 6) (bits w 14 6) (bits w 8 6) (bits w 6 2) (flag w 5) (flag w 4))
  | 10 => .ok (.amofadd (bits w 20 6) (bits w 14 6) (bits w 8 6) (bits w 6 2) (flag w 5) (flag w 4))
  | _ => .error .function

/-- Major 0x18 (R46). -/
def decodeMajor18 (w lit : Nat) : Except DecodeError Instr :=
  match field w 0 4 with
  | 0 => withSource w lit fun b => .ok (.vadd (bits w 20 6) (bits w 14 6) b (flag w 5))
  | 1 => withSource w lit fun b => .ok (.vsub (bits w 20 6) (bits w 14 6) b (flag w 5))
  | 2 => withSource w lit fun b => .ok (.vmul (bits w 20 6) (bits w 14 6) b (flag w 5))
  | 3 => withSource w lit fun b => .ok (.vmulhs (bits w 20 6) (bits w 14 6) b (flag w 5))
  | 4 => withSource w lit fun b => .ok (.vmulhu (bits w 20 6) (bits w 14 6) b (flag w 5))
  | 5 => withSource w lit fun b => .ok (.vmadd (bits w 20 6) (bits w 14 6) b (flag w 5))
  | 6 => withSource w lit fun b => .ok (.vand (bits w 20 6) (bits w 14 6) b (flag w 5))
  | 7 => withSource w lit fun b => .ok (.vor (bits w 20 6) (bits w 14 6) b (flag w 5))
  | 8 => withSource w lit fun b => .ok (.vxor (bits w 20 6) (bits w 14 6) b (flag w 5))
  | 9 => withSource w lit fun b => .ok (.vshl (bits w 20 6) (bits w 14 6) b (flag w 5))
  | 10 => withSource w lit fun b => .ok (.vshr (bits w 20 6) (bits w 14 6) b (flag w 5))
  | 11 => withSource w lit fun b => .ok (.vsra (bits w 20 6) (bits w 14 6) b (flag w 5))
  | 12 => withSource w lit fun b => .ok (.vmins (bits w 20 6) (bits w 14 6) b (flag w 5))
  | 13 => withSource w lit fun b => .ok (.vmaxs (bits w 20 6) (bits w 14 6) b (flag w 5))
  | 14 => withSource w lit fun b => .ok (.vminu (bits w 20 6) (bits w 14 6) b (flag w 5))
  | 15 => withSource w lit fun b => .ok (.vmaxu (bits w 20 6) (bits w 14 6) b (flag w 5))
  | _ => .error .function

/-- Major 0x19 (R46). -/
def decodeMajor19 (w lit : Nat) : Except DecodeError Instr :=
  match field w 0 4 with
  | 0 => withSource w lit fun b => .ok (.vadc (bits w 20 6) (bits w 14 6) b (flag w 5))
  | 1 => withSource w lit fun b => .ok (.vsbc (bits w 20 6) (bits w 14 6) b (flag w 5))
  | 2 => withSource w lit fun b => .ok (.vcmpeq (bits w 20 6) (bits w 14 6) b (flag w 5))
  | 3 => withSource w lit fun b => .ok (.vcmplt (bits w 20 6) (bits w 14 6) b (flag w 5))
  | 4 => withSource w lit fun b => .ok (.vcmpltu (bits w 20 6) (bits w 14 6) b (flag w 5))
  | 5 => withSource w lit fun b => .ok (.vcmple (bits w 20 6) (bits w 14 6) b (flag w 5))
  | 6 => withSource w lit fun b => .ok (.vcmpleu (bits w 20 6) (bits w 14 6) b (flag w 5))
  | 7 => withSource w lit fun b => .ok (.vmerge (bits w 20 6) (bits w 14 6) b (flag w 5))
  | 8 => if field w 4 1 = 0 ∧ field w 6 8 = 0 then .ok (.vabs (bits w 20 6) (bits w 14 6) (flag w 5)) else .error .fixedField
  | 9 => if field w 4 1 = 0 ∧ field w 6 8 = 0 then .ok (.vclz (bits w 20 6) (bits w 14 6) (flag w 5)) else .error .fixedField
  | 10 => if field w 4 1 = 0 ∧ field w 6 8 = 0 then .ok (.vpopc (bits w 20 6) (bits w 14 6) (flag w 5)) else .error .fixedField
  | 11 => withSource w lit fun b => .ok (.vnarrow (bits w 20 6) (bits w 14 6) b (flag w 5))
  | 12 => if field w 4 1 = 0 ∧ field w 6 8 = 0 then .ok (.vwidens (bits w 20 6) (bits w 14 6) (flag w 5)) else .error .fixedField
  | 13 => if field w 4 1 = 0 ∧ field w 6 8 = 0 then .ok (.vwidenu (bits w 20 6) (bits w 14 6) (flag w 5)) else .error .fixedField
  | _ => .error .function

/-- Major 0x20 (R46). -/
def decodeMajor20 (w lit : Nat) : Except DecodeError Instr :=
  match field w 0 4 with
  | 0 => withSource w lit fun b => .ok (.vfadd (bits w 20 6) (bits w 14 6) b (flag w 5))
  | 1 => withSource w lit fun b => .ok (.vfsub (bits w 20 6) (bits w 14 6) b (flag w 5))
  | 2 => withSource w lit fun b => .ok (.vfmul (bits w 20 6) (bits w 14 6) b (flag w 5))
  | 3 => withSource w lit fun b => .ok (.vfdiv (bits w 20 6) (bits w 14 6) b (flag w 5))
  | 4 => if field w 4 1 = 0 ∧ field w 6 8 = 0 then .ok (.vfsqrt (bits w 20 6) (bits w 14 6) (flag w 5)) else .error .fixedField
  | 5 => withSource w lit fun b => .ok (.vfmin (bits w 20 6) (bits w 14 6) b (flag w 5))
  | 6 => withSource w lit fun b => .ok (.vfmax (bits w 20 6) (bits w 14 6) b (flag w 5))
  | 7 => withSource w lit fun b => .ok (.vffma (bits w 20 6) (bits w 14 6) b (flag w 5))
  | 8 => withSource w lit fun b => .ok (.vffms (bits w 20 6) (bits w 14 6) b (flag w 5))
  | 9 => withSource w lit fun b => .ok (.vfcmpeq (bits w 20 6) (bits w 14 6) b (flag w 5))
  | 10 => withSource w lit fun b => .ok (.vfcmplt (bits w 20 6) (bits w 14 6) b (flag w 5))
  | 11 => withSource w lit fun b => .ok (.vfcmple (bits w 20 6) (bits w 14 6) b (flag w 5))
  | 12 => if field w 4 1 = 0 ∧ field w 6 8 = 0 then .ok (.vfabs (bits w 20 6) (bits w 14 6) (flag w 5)) else .error .fixedField
  | 13 => if field w 4 1 = 0 ∧ field w 6 8 = 0 then .ok (.vfneg (bits w 20 6) (bits w 14 6) (flag w 5)) else .error .fixedField
  | 14 => if field w 4 1 = 0 ∧ field w 6 8 = 0 then .ok (.vfclass (bits w 20 6) (bits w 14 6) (flag w 5)) else .error .fixedField
  | _ => .error .function

/-- Major 0x21 (R46). -/
def decodeMajor21 (w _lit : Nat) : Except DecodeError Instr :=
  match field w 0 4 with
  | 0 => if field w 4 1 = 0 ∧ field w 6 2 = 0 then .ok (.vfcvt (bits w 20 6) (bits w 14 6) (bits w 11 3) (bits w 8 3) (flag w 5)) else .error .fixedField
  | 1 => if field w 4 1 = 0 ∧ field w 6 2 = 0 then .ok (.vcvtif (bits w 20 6) (bits w 14 6) (bits w 11 3) (bits w 8 3) (flag w 5)) else .error .fixedField
  | 2 => if field w 4 1 = 0 ∧ field w 6 2 = 0 then .ok (.vcvtfi (bits w 20 6) (bits w 14 6) (bits w 11 3) (bits w 8 3) (flag w 5)) else .error .fixedField
  | 3 => if field w 6 2 = 1 then .ok (.vquant (bits w 20 6) (bits w 14 6) (bits w 8 6) (flag w 5) (flag w 4)) else .error .fixedField
  | 4 => if field w 6 2 = 1 then .ok (.vdequant (bits w 20 6) (bits w 14 6) (bits w 8 6) (flag w 5) (flag w 4)) else .error .fixedField
  | 5 => if field w 4 1 = 0 ∧ field w 6 2 = 0 ∧ field w 20 6 = 0 then .ok (.vamax (bits w 14 6) (bits w 8 6) (flag w 5)) else .error .fixedField
  | 6 => if field w 4 4 = 0 then .ok (.amscl (bits w 20 6) (bits w 14 6) (bits w 8 6)) else .error .fixedField
  | _ => .error .function

/-- Major 0x24 (R46). -/
def decodeMajor24 (w lit : Nat) : Except DecodeError Instr :=
  match field w 0 4 with
  | 0 => withSource w lit fun b => .ok (.vredsum (bits w 20 6) (bits w 14 6) b (flag w 5))
  | 1 => withSource w lit fun b => .ok (.vredfsum (bits w 20 6) (bits w 14 6) b (flag w 5))
  | 2 => withSource w lit fun b => .ok (.vredmax (bits w 20 6) (bits w 14 6) b (flag w 5))
  | 3 => withSource w lit fun b => .ok (.vredmin (bits w 20 6) (bits w 14 6) b (flag w 5))
  | 4 => withSource w lit fun b => .ok (.vredfmax (bits w 20 6) (bits w 14 6) b (flag w 5))
  | 5 => withSource w lit fun b => .ok (.vredfmin (bits w 20 6) (bits w 14 6) b (flag w 5))
  | 6 => withSource w lit fun b => .ok (.vredand (bits w 20 6) (bits w 14 6) b (flag w 5))
  | 7 => withSource w lit fun b => .ok (.vredor (bits w 20 6) (bits w 14 6) b (flag w 5))
  | 8 => withSource w lit fun b => .ok (.vslideup (bits w 20 6) (bits w 14 6) b (flag w 5))
  | 9 => withSource w lit fun b => .ok (.vslidedn (bits w 20 6) (bits w 14 6) b (flag w 5))
  | 10 => if field w 6 2 = 0 then .ok (.vperm (bits w 20 6) (bits w 14 6) (bits w 8 6) (flag w 5) (flag w 4)) else .error .fixedField
  | 11 => if field w 4 1 = 0 ∧ field w 6 8 = 0 then .ok (.vcompress (bits w 20 6) (bits w 14 6) (flag w 5)) else .error .fixedField
  | 12 => if field w 4 1 = 0 ∧ field w 6 8 = 0 then .ok (.vexpand (bits w 20 6) (bits w 14 6) (flag w 5)) else .error .fixedField
  | 13 => if field w 4 10 = 0 then .ok (.viota (bits w 20 6) (bits w 14 6)) else .error .fixedField
  | 14 => if field w 5 1 = 0 ∧ field w 14 6 = 0 then withSource w lit fun b => .ok (.vbcast (bits w 20 6) b) else .error .fixedField
  | 15 => withSource w lit fun b => .ok (.vextract (bits w 20 6) (bits w 14 6) b (flag w 5))
  | _ => .error .function

/-- Major 0x25 (R46). -/
def decodeMajor25 (w lit : Nat) : Except DecodeError Instr :=
  match field w 0 4 with
  | 0 => withSource w lit fun b => .ok (.vinsert (bits w 20 6) (bits w 14 6) b (flag w 5))
  | 1 => if field w 4 1 = 0 ∧ field w 6 8 = 0 then .ok (.vtrans (bits w 20 6) (bits w 14 6) (flag w 5)) else .error .fixedField
  | 2 => if field w 6 2 = 0 then .ok (.vzip (bits w 20 6) (bits w 14 6) (bits w 8 6) (flag w 5) (flag w 4)) else .error .fixedField
  | 3 => withSource w lit fun b => .ok (.vunzip (bits w 20 6) (bits w 14 6) b (flag w 5))
  | _ => .error .function

/-- Major 0x26 (R46). -/
def decodeMajor26 (w _lit : Nat) : Except DecodeError Instr :=
  match field w 0 4 with
  | 0 => if field w 4 4 = 0 then .ok (.mand (bits w 20 6) (bits w 14 6) (bits w 8 6)) else .error .fixedField
  | 1 => if field w 4 4 = 0 then .ok (.mor (bits w 20 6) (bits w 14 6) (bits w 8 6)) else .error .fixedField
  | 2 => if field w 4 4 = 0 then .ok (.mxor (bits w 20 6) (bits w 14 6) (bits w 8 6)) else .error .fixedField
  | 3 => if field w 4 4 = 0 then .ok (.mandn (bits w 20 6) (bits w 14 6) (bits w 8 6)) else .error .fixedField
  | 4 => if field w 4 10 = 0 then .ok (.mnot (bits w 20 6) (bits w 14 6)) else .error .fixedField
  | 5 => if field w 4 10 = 0 then .ok (.mmov (bits w 20 6) (bits w 14 6)) else .error .fixedField
  | 6 => if field w 4 10 = 0 then .ok (.msbf (bits w 20 6) (bits w 14 6)) else .error .fixedField
  | 7 => if field w 4 10 = 0 then .ok (.msif (bits w 20 6) (bits w 14 6)) else .error .fixedField
  | 8 => if field w 4 10 = 0 then .ok (.msof (bits w 20 6) (bits w 14 6)) else .error .fixedField
  | 9 => if field w 4 10 = 0 then .ok (.mshup (bits w 20 6) (bits w 14 6)) else .error .fixedField
  | 10 => if field w 4 10 = 0 then .ok (.mshdn (bits w 20 6) (bits w 14 6)) else .error .fixedField
  | 11 => if field w 4 16 = 0 then .ok (.mset (bits w 20 6)) else .error .fixedField
  | 12 => if field w 4 16 = 0 then .ok (.mclr (bits w 20 6)) else .error .fixedField
  | 13 => if field w 4 10 = 0 then .ok (.mpop (bits w 20 6) (bits w 14 6)) else .error .fixedField
  | 14 => if field w 4 10 = 0 then .ok (.mfirst (bits w 20 6) (bits w 14 6)) else .error .fixedField
  | _ => .error .function

/-- Major 0x28 (R46). -/
def decodeMajor28 (w _lit : Nat) : Except DecodeError Instr :=
  match field w 0 4 with
  | 0 => if field w 4 1 = 0 then .ok (.vld (bits w 20 6) (bits w 14 6) (bits w 6 8) (flag w 5)) else .error .fixedField
  | 1 => if field w 4 1 = 0 then .ok (.vlds (bits w 20 6) (bits w 14 6) (bits w 6 8) (flag w 5)) else .error .fixedField
  | 2 => if field w 4 1 = 0 then .ok (.vldff (bits w 20 6) (bits w 14 6) (bits w 6 8) (flag w 5)) else .error .fixedField
  | 4 => .ok (.vst (bits w 20 6) (bits w 14 6) (bits w 6 8) (flag w 5) (flag w 4))
  | 5 => .ok (.vsts (bits w 20 6) (bits w 14 6) (bits w 6 8) (flag w 5) (flag w 4))
  | _ => .error .function

/-- Major 0x29 (R46). -/
def decodeMajor29 (w _lit : Nat) : Except DecodeError Instr :=
  match field w 0 4 with
  | 0 => if field w 6 2 = 0 then .ok (.vldx (bits w 20 6) (bits w 14 6) (bits w 8 6) (flag w 5) (flag w 4)) else .error .fixedField
  | 1 => if field w 6 2 = 0 then .ok (.vstx (bits w 20 6) (bits w 14 6) (bits w 8 6) (flag w 5) (flag w 4)) else .error .fixedField
  | 2 => if field w 6 2 = 0 then .ok (.vldl (bits w 20 6) (bits w 14 6) (bits w 8 6) (flag w 5) (flag w 4)) else .error .fixedField
  | 3 => if field w 4 1 = 0 ∧ field w 6 8 = 0 then .ok (.vstc (bits w 20 6) (bits w 14 6) (flag w 5)) else .error .fixedField
  | 4 => if field w 6 2 = 0 then .ok (.vscadd (bits w 20 6) (bits w 14 6) (bits w 8 6) (flag w 5) (flag w 4)) else .error .fixedField
  | 5 => if field w 6 2 = 0 then .ok (.cappend (bits w 20 6) (bits w 14 6) (bits w 8 6) (flag w 5) (flag w 4)) else .error .fixedField
  | _ => .error .function

/-- Major 0x2C (R46). -/
def decodeMajor2C (w lit : Nat) : Except DecodeError Instr :=
  match field w 0 4 with
  | 0 => if field w 4 1 = 0 ∧ field w 6 8 = 0 then .ok (.sspec (bits w 20 6) (bits w 14 6) (flag w 5)) else .error .fixedField
  | 1 => if field w 4 1 = 0 ∧ field w 6 8 = 0 then .ok (.sbind (bits w 20 6) (bits w 14 6) (flag w 5)) else .error .fixedField
  | 2 => if field w 4 16 = 0 then .ok (.sunbind (bits w 20 6)) else .error .fixedField
  | 3 => if field w 4 1 = 0 ∧ field w 6 8 = 0 ∧ field w 20 6 = 0 then .ok (.sbar (bits w 14 6) (flag w 5)) else .error .fixedField
  | 4 => withSource w lit fun b => .ok (.scond (bits w 20 6) (bits w 14 6) b (flag w 5))
  | 5 => if field w 4 10 = 0 then .ok (.spos (bits w 20 6) (bits w 14 6)) else .error .fixedField
  | 6 => if field w 4 16 = 0 then .ok (.sstart (bits w 20 6)) else .error .fixedField
  | 7 => if field w 4 16 = 0 then .ok (.swait (bits w 20 6)) else .error .fixedField
  | _ => .error .function

/-- Major 0x2E (R46). -/
def decodeMajor2E (w lit : Nat) : Except DecodeError Instr :=
  match field w 0 4 with
  | 0 => if field w 5 1 = 0 ∧ field w 14 6 = 0 then withSource w lit fun b => .ok (.vconf (bits w 20 6) b) else .error .fixedField
  | 1 => if field w 5 1 = 0 ∧ field w 14 6 = 0 then withSource w lit fun b => .ok (.vsetl (bits w 20 6) b) else .error .fixedField
  | 2 => if field w 5 1 = 0 ∧ field w 14 6 = 0 then withSource w lit fun b => .ok (.vsetr (bits w 20 6) b) else .error .fixedField
  | 3 => if field w 5 1 = 0 ∧ field w 14 6 = 0 then withSource w lit fun b => .ok (.vsetcfg (bits w 20 6) b) else .error .fixedField
  | 4 => if field w 5 1 = 0 ∧ field w 14 6 = 0 then withSource w lit fun b => .ok (.vsetst (bits w 20 6) b) else .error .fixedField
  | 5 => if field w 4 22 = 0 then .ok (.stripc) else .error .fixedField
  | 6 => if field w 4 16 = 0 then .ok (.gang (bits w 20 6)) else .error .fixedField
  | 7 => if field w 4 16 = 0 then .ok (.ungang (bits w 20 6)) else .error .fixedField
  | 8 => if field w 4 1 = 0 ∧ field w 6 8 = 0 ∧ field w 20 6 = 0 then .ok (.vsave (bits w 14 6) (flag w 5)) else .error .fixedField
  | 9 => if field w 4 1 = 0 ∧ field w 6 8 = 0 ∧ field w 20 6 = 0 then .ok (.vrestore (bits w 14 6) (flag w 5)) else .error .fixedField
  | 10 => if field w 4 10 = 0 then .ok (.vcfgrd (bits w 20 6) (bits w 14 6)) else .error .fixedField
  | _ => .error .function

/-- Major 0x30 (R46). -/
def decodeMajor30 (w : Nat) : Except DecodeError Instr :=
  if field w 0 1 = 0 then .ok (.mma (bits w 20 6) (bits w 14 6) (bits w 8 6) (bits w 4 4) (bits w 2 2) (flag w 1)) else .error .fixedField

/-- Major 0x31 (R46). -/
def decodeMajor31 (w lit : Nat) : Except DecodeError Instr :=
  match field w 0 4 with
  | 0 => if field w 5 3 = 0 then .ok (.zscacc (bits w 20 6) (bits w 14 6) (bits w 8 6) (flag w 4)) else .error .fixedField
  | 1 => if field w 4 10 = 0 then .ok (.zzero (bits w 20 6) (bits w 14 6)) else .error .fixedField
  | 2 => if field w 4 16 = 0 then .ok (.zrel (bits w 20 6)) else .error .fixedField
  | 3 => if field w 5 1 = 0 then withSource w lit fun b => .ok (.zext (bits w 20 6) (bits w 14 6) b) else .error .fixedField
  | 4 => withSource w lit fun b => .ok (.zins (bits w 20 6) (bits w 14 6) b (flag w 5))
  | 5 => if field w 4 1 = 0 ∧ field w 6 8 = 0 then .ok (.zsave (bits w 20 6) (bits w 14 6) (flag w 5)) else .error .fixedField
  | 6 => if field w 4 1 = 0 ∧ field w 6 8 = 0 then .ok (.zload (bits w 20 6) (bits w 14 6) (flag w 5)) else .error .fixedField
  | 7 => if field w 4 4 = 0 ∧ field w 20 6 = 0 then .ok (.zamax (bits w 14 6) (bits w 8 6)) else .error .fixedField
  | 8 => withSource w lit fun b => .ok (.mdset (bits w 20 6) (bits w 14 6) b (flag w 5))
  | 10 => if field w 5 1 = 0 ∧ field w 14 6 = 0 then withSource w lit fun b => .ok (.mdadv (bits w 20 6) b) else .error .fixedField
  | 11 => if field w 4 10 = 0 then .ok (.zstat (bits w 20 6) (bits w 14 6)) else .error .fixedField
  | _ => .error .function

/-- Major 0x34 (R46). -/
noncomputable def decodeMajor34 (w lit : Nat) : Except DecodeError Instr :=
  match field w 0 4 with
  | 0 => withSource w lit fun b => .ok (.kset (bits w 20 6) (bits w 14 6) b (flag w 5))
  | 1 => if field w 5 1 = 0 ∧ field w 14 6 = 0 then withSource w lit fun b => .ok (.kseed (bits w 20 6) b) else .error .fixedField
  | 2 => withSource w lit fun b => .ok (.korg (bits w 20 6) (bits w 14 6) b (flag w 5))
  | 3 => if field w 4 1 = 0 ∧ field w 6 8 = 0 then .ok (.kfreq (bits w 20 6) (bits w 14 6) (flag w 5)) else .error .fixedField
  | 4 => if field w 4 10 = 0 then .ok (.vgen (bits w 20 6) (bits w 14 6)) else .error .fixedField
  | 5 => if field w 5 1 = 0 then withSource w lit fun b => .ok (.kget (bits w 20 6) (bits w 14 6) b) else .error .fixedField
  | _ => .error .function

/-- Major 0x35 (R46). -/
def decodeMajor35 (w lit : Nat) : Except DecodeError Instr :=
  match field w 0 4 with
  | 0 => if field w 6 2 = 0 then .ok (.cpy (bits w 20 6) (bits w 14 6) (bits w 8 6) (flag w 5) (flag w 4)) else .error .fixedField
  | 1 => decodeCpymma w lit
  | 2 => if field w 4 1 = 0 ∧ field w 6 8 = 0 then .ok (.cpywait (bits w 20 6) (bits w 14 6) (flag w 5)) else .error .fixedField
  | 3 => if field w 6 2 = 0 then .ok (.cbinit (bits w 20 6) (bits w 14 6) (bits w 8 6) (flag w 5) (flag w 4)) else .error .fixedField
  | 4 => if field w 4 10 = 0 then .ok (.cbwait (bits w 20 6) (bits w 14 6)) else .error .fixedField
  | 5 => if field w 5 1 = 0 then withSource w lit fun b => .ok (.cbrel (bits w 20 6) (bits w 14 6) b) else .error .fixedField
  | 6 => if field w 4 10 = 0 then .ok (.cbstat (bits w 20 6) (bits w 14 6)) else .error .fixedField
  | _ => .error .function

/-- Major 0x36 (R46). -/
def decodeMajor36 (w lit : Nat) : Except DecodeError Instr :=
  match field w 0 4 with
  | 0 => if field w 4 1 = 0 ∧ field w 6 8 = 0 then .ok (.acq (bits w 20 6) (bits w 14 6) (flag w 5)) else .error .fixedField
  | 1 => if field w 4 1 = 0 ∧ field w 6 8 = 0 ∧ field w 20 6 = 0 then .ok (.rel (bits w 14 6) (flag w 5)) else .error .fixedField
  | 2 => withSource w lit fun b => .ok (.bind (bits w 20 6) (bits w 14 6) b (flag w 5))
  | 3 => if field w 4 1 = 0 ∧ field w 6 8 = 0 then .ok (.unbind (bits w 20 6) (bits w 14 6) (flag w 5)) else .error .fixedField
  | 4 =>
    match field w 8 6 with
    | 0 => if field w 4 22 = 0 then .ok (.fenceFull) else .error .fixedField
    | 1 => if field w 4 22 = 16 then .ok (.fenceRel) else .error .fixedField
    | 2 => if field w 4 22 = 32 then .ok (.fenceAcq) else .error .fixedField
    | 3 => if field w 4 22 = 48 then .ok (.fenceIfetch) else .error .fixedField
    | _ => .error .code
  | 5 => if field w 5 1 = 0 ∧ field w 14 6 = 0 then withSource w lit fun b => .ok (.wmpub (bits w 20 6) b) else .error .fixedField
  | 6 => if field w 4 1 = 0 ∧ field w 6 8 = 0 then .ok (.wmlink (bits w 20 6) (bits w 14 6) (flag w 5)) else .error .fixedField
  | 7 => if field w 4 1 = 0 ∧ field w 6 8 = 0 then .ok (.bar (bits w 20 6) (bits w 14 6) (flag w 5)) else .error .fixedField
  | 8 => if field w 4 1 = 0 ∧ field w 6 8 = 0 then .ok (.barjoin (bits w 20 6) (bits w 14 6) (flag w 5)) else .error .fixedField
  | 9 => if field w 4 1 = 0 ∧ field w 6 8 = 0 ∧ field w 20 6 = 0 then .ok (.barleave (bits w 14 6) (flag w 5)) else .error .fixedField
  | 10 => if field w 20 6 = 0 then withSource w lit fun b => .ok (.notify (bits w 14 6) b (flag w 5)) else .error .fixedField
  | 11 => if field w 4 10 = 0 then .ok (.waitn (bits w 20 6) (bits w 14 6)) else .error .fixedField
  | _ => .error .function

/-- Major 0x37 (R46). -/
def decodeMajor37 (w lit : Nat) : Except DecodeError Instr :=
  match field w 0 4 with
  | 0 => if field w 4 1 = 0 ∧ field w 6 8 = 0 ∧ field w 20 6 = 0 then .ok (.pinit (bits w 14 6) (flag w 5)) else .error .fixedField
  | 1 => withSource w lit fun b => .ok (.pfill (bits w 20 6) (bits w 14 6) b (flag w 5))
  | 2 => if field w 6 2 = 0 then .ok (.peq (bits w 20 6) (bits w 14 6) (bits w 8 6) (flag w 5) (flag w 4)) else .error .fixedField
  | 3 => if field w 4 1 = 0 ∧ field w 6 8 = 0 then .ok (.pwait (bits w 20 6) (bits w 14 6) (flag w 5)) else .error .fixedField
  | 4 => if field w 4 1 = 0 ∧ field w 6 8 = 0 then .ok (.ptest (bits w 20 6) (bits w 14 6) (flag w 5)) else .error .fixedField
  | _ => .error .function

/-- Major 0x38 (R46). -/
def decodeMajor38 (w lit : Nat) : Except DecodeError Instr :=
  match field w 0 4 with
  | 0 => withSource w lit fun b => .ok (.xred (bits w 20 6) (bits w 14 6) b (flag w 5))
  | 1 => if field w 4 16 = 0 then .ok (.xbar (bits w 20 6)) else .error .fixedField
  | 2 => if field w 4 1 = 0 ∧ field w 6 8 = 0 then .ok (.xwait (bits w 20 6) (bits w 14 6) (flag w 5)) else .error .fixedField
  | _ => .error .function

/-- Major 0x39 (R46). -/
def decodeMajor39 (w _lit : Nat) : Except DecodeError Instr :=
  match field w 0 4 with
  | 0 => if field w 4 1 = 0 ∧ field w 6 8 = 0 then .ok (.launch (bits w 20 6) (bits w 14 6) (flag w 5)) else .error .fixedField
  | 1 => if field w 4 1 = 0 ∧ field w 6 8 = 0 then .ok (.launchnb (bits w 20 6) (bits w 14 6) (flag w 5)) else .error .fixedField
  | 2 => if field w 4 1 = 0 ∧ field w 6 2 = 0 then .ok (.cancel (bits w 20 6) (bits w 14 6) (bits w 8 6) (flag w 5)) else .error .fixedField
  | 3 => if field w 4 1 = 0 ∧ field w 6 2 = 0 then .ok (.cwait (bits w 20 6) (bits w 14 6) (bits w 8 6) (flag w 5)) else .error .fixedField
  | 4 => if field w 4 22 = 0 then .ok (.exit) else .error .fixedField
  | 5 => if field w 4 4 = 0 ∧ field w 14 6 = 0 then .ok (.self (bits w 20 6) (bits w 8 6)) else .error .fixedField
  | 6 => if field w 4 1 = 0 ∧ field w 6 2 = 0 then .ok (.cntrd (bits w 20 6) (bits w 14 6) (bits w 8 6) (flag w 5)) else .error .fixedField
  | _ => .error .function

/-- Major 0x3A (R46). -/
noncomputable def decodeMajor3A (w lit : Nat) : Except DecodeError Instr :=
  match field w 0 4 with
  | 0 => if field w 5 1 = 0 ∧ field w 14 12 = 0 then withSource w lit fun b => .ok (.trap b) else .error .fixedField
  | 1 =>
    match field w 8 6 with
    | 0 => if field w 4 22 = 0 then .ok (.rteResume) else .error .fixedField
    | 1 => if field w 4 22 = 16 then .ok (.rteKill) else .error .fixedField
    | _ => .error .code
  | 2 => if field w 4 10 = 0 then .ok (.sysrd (bits w 20 6) (bits w 14 6)) else .error .fixedField
  | 3 => if field w 5 1 = 0 ∧ field w 14 6 = 0 then withSource w lit fun b => .ok (.syswr (bits w 20 6) b) else .error .fixedField
  | 4 => if field w 4 22 = 0 then .ok (.brk) else .error .fixedField
  | 5 => if field w 4 16 = 0 then .ok (.rdcyc (bits w 20 6)) else .error .fixedField
  | 6 => if field w 4 16 = 0 then .ok (.rdnrg (bits w 20 6)) else .error .fixedField
  | 7 => if field w 4 1 = 0 ∧ field w 6 8 = 0 ∧ field w 20 6 = 0 then .ok (.slotset (bits w 14 6) (flag w 5)) else .error .fixedField
  | 8 =>
    match field w 8 6 with
    | 0 => if field w 4 1 = 0 ∧ field w 6 8 = 0 then .ok (.ctxswSout (bits w 20 6) (bits w 14 6) (flag w 5)) else .error .fixedField
    | 1 => if field w 4 1 = 0 ∧ field w 6 8 = 4 then .ok (.ctxswSin (bits w 20 6) (bits w 14 6) (flag w 5)) else .error .fixedField
    | 2 => if field w 4 1 = 0 ∧ field w 6 8 = 8 then .ok (.ctxswVout (bits w 20 6) (bits w 14 6) (flag w 5)) else .error .fixedField
    | 3 => if field w 4 1 = 0 ∧ field w 6 8 = 12 then .ok (.ctxswVin (bits w 20 6) (bits w 14 6) (flag w 5)) else .error .fixedField
    | 4 => if field w 4 1 = 0 ∧ field w 6 8 = 16 then .ok (.ctxswZout (bits w 20 6) (bits w 14 6) (flag w 5)) else .error .fixedField
    | 5 => if field w 4 1 = 0 ∧ field w 6 8 = 20 then .ok (.ctxswZin (bits w 20 6) (bits w 14 6) (flag w 5)) else .error .fixedField
    | _ => .error .code
  | 9 => if field w 4 16 = 0 then .ok (.wfn (bits w 20 6)) else .error .fixedField
  | _ => .error .function

/-- Major 0x3C (R46). -/
noncomputable def decodeMajor3C (w lit : Nat) : Except DecodeError Instr :=
  match field w 0 4 with
  | 0 => if field w 4 2 = 0 then withSource w lit fun b => .ok (.apf (bits w 20 6) (bits w 14 6) b) else .error .fixedField
  | 1 => if field w 4 2 = 0 ∧ field w 20 6 = 0 then withSource w lit fun b => .ok (.ahome (bits w 14 6) b) else .error .fixedField
  | 2 => if field w 4 2 = 0 ∧ field w 14 12 = 0 then withSource w lit fun b => .ok (.aprio b) else .error .fixedField
  | 3 => if field w 4 2 = 0 ∧ field w 14 12 = 0 then withSource w lit fun b => .ok (.aorder b) else .error .fixedField
  | 4 => if field w 4 2 = 0 ∧ field w 14 12 = 0 then withSource w lit fun b => .ok (.awake b) else .error .fixedField
  | 5 => if field w 4 2 = 0 then withSource w lit fun b => .ok (.aj (bits w 20 6) (bits w 14 6) b) else .error .fixedField
  | 6 => if field w 4 2 = 0 ∧ field w 20 6 = 0 then withSource w lit fun b => .ok (.aloop (bits w 14 6) b) else .error .fixedField
  | 7 => if field w 4 2 = 0 then withSource w lit fun b => .ok (.aadd (bits w 20 6) (bits w 14 6) b) else .error .fixedField
  | 8 => if field w 4 2 = 0 ∧ field w 14 6 = 0 then withSource w lit fun b => .ok (.ali (bits w 20 6) b) else .error .fixedField
  | 9 => if field w 4 10 = 0 then .ok (.asnap (bits w 20 6) (bits w 14 6)) else .error .fixedField
  | 10 => if field w 4 22 = 0 then .ok (.aend) else .error .fixedField
  | _ => .error .function

/-- Major 0x3D (R46). -/
noncomputable def decodeMajor3D (w : Nat) : Except DecodeError Instr :=
  if field w 20 6 = 0 then .ok (.await (bits w 0 20)) else .error .fixedField

/-- The instruction of word `w`; `lit` is the word that follows, read only where `w` is literal-bearing (R42).
Total on every word: a word that no row of the opcode map lists is rejected by name (R46, R47). -/
noncomputable def decodeWord (w lit : Nat) : Except DecodeError Instr :=
  match w / 2 ^ 26 with
  | 1 => decodeMajor01 w lit
  | 2 => decodeMajor02 w lit
  | 3 => decodeMajor03 w
  | 4 => decodeMajor04 w
  | 6 => decodeMajor06 w
  | 7 => decodeMajor07 w
  | 12 => decodeMajor0C w lit
  | 16 => decodeMajor10 w
  | 17 => decodeMajor11 w
  | 18 => decodeMajor12 w lit
  | 19 => decodeMajor13 w
  | 20 => decodeMajor14 w
  | 21 => decodeMajor15 w lit
  | 22 => decodeMajor16 w lit
  | 24 => decodeMajor18 w lit
  | 25 => decodeMajor19 w lit
  | 32 => decodeMajor20 w lit
  | 33 => decodeMajor21 w lit
  | 36 => decodeMajor24 w lit
  | 37 => decodeMajor25 w lit
  | 38 => decodeMajor26 w lit
  | 40 => decodeMajor28 w lit
  | 41 => decodeMajor29 w lit
  | 44 => decodeMajor2C w lit
  | 46 => decodeMajor2E w lit
  | 48 => decodeMajor30 w
  | 49 => decodeMajor31 w lit
  | 52 => decodeMajor34 w lit
  | 53 => decodeMajor35 w lit
  | 54 => decodeMajor36 w lit
  | 55 => decodeMajor37 w lit
  | 56 => decodeMajor38 w lit
  | 57 => decodeMajor39 w lit
  | 58 => decodeMajor3A w lit
  | 60 => decodeMajor3C w lit
  | 61 => decodeMajor3D w
  | _ => .error .major

/-- R42: a word is literal-bearing when its major is a format R major other than 0x16 and its bits [7:6] are 11.
The classification looks at nothing else, so an ILLEGAL word classifies its neighbour as a valid one would. -/
def literalBearing (w : Nat) : Bool :=
  field w 6 2 == 3 && [0x01, 0x02, 0x0C, 0x12, 0x18, 0x19, 0x20, 0x21, 0x24, 0x25, 0x26, 0x29, 0x2C, 0x2E, 0x31,
    0x34, 0x35, 0x36, 0x37, 0x38, 0x39, 0x3A, 0x3C].contains (w / 2 ^ 26)

/-- R42: which words of a block of 16 are literal words; the first argument says whether word 0 follows a
literal-bearing word, which no word of a block does (R43). -/
def literalWords : Bool → List Nat → List Bool
  | _, [] => []
  | true, _ :: ws => true :: literalWords false ws
  | false, w :: ws => false :: literalWords (literalBearing w) ws

/-- One bit as a number. -/
def bit (x : Bool) : Nat := if x then 1 else 0

/-- The code in field B of a source (R40). -/
def Src.code : Src → Nat
  | .reg r _ => r.toNat
  | .scalar r _ => r.toNat
  | .const n => n.toNat
  | .lit _ => 0

/-- BK of a source (R40). -/
def Src.kind : Src → Nat
  | .reg _ _ => 0
  | .scalar _ _ => 1
  | .const _ => 2
  | .lit _ => 3

/-- FB of a source. -/
def Src.ready : Src → Nat
  | .reg _ fb => bit fb
  | .scalar _ fb => bit fb
  | .const _ => 0
  | .lit _ => 0

/-- The trailing word of a source, where it has one (R42). -/
def Src.literal : Src → List Nat
  | .lit w => [w.toNat]
  | _ => []

/-- A word of format R, with every field of it a number (R38). -/
def wordR (maj d a b k fa fb fn : Nat) : Nat :=
  maj * 2 ^ 26 + d * 2 ^ 20 + a * 2 ^ 14 + b * 2 ^ 8 + k * 2 ^ 6 + fa * 2 ^ 5 + fb * 2 ^ 4 + fn

/-- The words of a format R instruction with a source B (R38, R40). -/
def wordS (maj d a : Nat) (b : Src) (fa fn : Nat) : List Nat :=
  wordR maj d a b.code b.kind fa b.ready fn :: b.literal

/-- A word of format I (R38). -/
def wordI (maj d a imm : Nat) : Nat := maj * 2 ^ 26 + d * 2 ^ 20 + a * 2 ^ 14 + imm

/-- A word of format IA (R38). -/
def wordIA (maj d imm : Nat) : Nat := maj * 2 ^ 26 + d * 2 ^ 20 + imm

/-- A word of format B (R38). -/
def wordB (maj a cond off : Nat) : Nat := maj * 2 ^ 26 + a * 2 ^ 20 + cond * 2 ^ 17 + off

/-- A word of format S (R38). -/
def wordStrip (maj cnt asel off : Nat) : Nat := maj * 2 ^ 26 + cnt * 2 ^ 20 + asel * 2 ^ 16 + off

/-- A word of format M (R38). -/
def wordM (maj d a off fa fb fn : Nat) : Nat :=
  maj * 2 ^ 26 + d * 2 ^ 20 + a * 2 ^ 14 + off * 2 ^ 6 + fa * 2 ^ 5 + fb * 2 ^ 4 + fn

/-- The words of an instruction as the formats of R38 lay them out; the steps that no word encodes have none. -/
def encodeNat : Instr → List Nat
  | .add d a b fa => wordS 0x01 d.toNat a.toNat b (bit fa) 0
  | .sub d a b fa => wordS 0x01 d.toNat a.toNat b (bit fa) 1
  | .mul d a b fa => wordS 0x01 d.toNat a.toNat b (bit fa) 2
  | .mulhs d a b fa => wordS 0x01 d.toNat a.toNat b (bit fa) 3
  | .mulhu d a b fa => wordS 0x01 d.toNat a.toNat b (bit fa) 4
  | .divs d a b fa => wordS 0x01 d.toNat a.toNat b (bit fa) 5
  | .divu d a b fa => wordS 0x01 d.toNat a.toNat b (bit fa) 6
  | .rems d a b fa => wordS 0x01 d.toNat a.toNat b (bit fa) 7
  | .remu d a b fa => wordS 0x01 d.toNat a.toNat b (bit fa) 8
  | .and d a b fa => wordS 0x01 d.toNat a.toNat b (bit fa) 9
  | .or d a b fa => wordS 0x01 d.toNat a.toNat b (bit fa) 10
  | .xor d a b fa => wordS 0x01 d.toNat a.toNat b (bit fa) 11
  | .andn d a b fa => wordS 0x01 d.toNat a.toNat b (bit fa) 12
  | .shl d a b fa => wordS 0x01 d.toNat a.toNat b (bit fa) 13
  | .shr d a b fa => wordS 0x01 d.toNat a.toNat b (bit fa) 14
  | .sra d a b fa => wordS 0x01 d.toNat a.toNat b (bit fa) 15
  | .rotl d a b fa => wordS 0x02 d.toNat a.toNat b (bit fa) 0
  | .clz d a fa => [wordR 0x02 d.toNat a.toNat 0 0 (bit fa) 0 1]
  | .ctz d a fa => [wordR 0x02 d.toNat a.toNat 0 0 (bit fa) 0 2]
  | .popc d a fa => [wordR 0x02 d.toNat a.toNat 0 0 (bit fa) 0 3]
  | .mins d a b fa => wordS 0x02 d.toNat a.toNat b (bit fa) 4
  | .maxs d a b fa => wordS 0x02 d.toNat a.toNat b (bit fa) 5
  | .minu d a b fa => wordS 0x02 d.toNat a.toNat b (bit fa) 6
  | .maxu d a b fa => wordS 0x02 d.toNat a.toNat b (bit fa) 7
  | .slt d a b fa => wordS 0x02 d.toNat a.toNat b (bit fa) 8
  | .sltu d a b fa => wordS 0x02 d.toNat a.toNat b (bit fa) 9
  | .seq d a b fa => wordS 0x02 d.toNat a.toNat b (bit fa) 10
  | .cmov d a b fa => wordS 0x02 d.toNat a.toNat b (bit fa) 11
  | .exts d a b fa => wordS 0x02 d.toNat a.toNat b (bit fa) 12
  | .addi d a imm => [wordI 0x03 d.toNat a.toNat imm.toNat]
  | .li d imm => [wordIA 0x04 d.toNat imm.toNat]
  | .fli d imm => [wordIA 0x06 d.toNat imm.toNat]
  | .lc d n => [wordI 0x07 d.toNat 0 n.toNat]
  | .fadd d a b fa => wordS 0x0C d.toNat a.toNat b (bit fa) 0
  | .fsub d a b fa => wordS 0x0C d.toNat a.toNat b (bit fa) 1
  | .fmul d a b fa => wordS 0x0C d.toNat a.toNat b (bit fa) 2
  | .fdiv d a b fa => wordS 0x0C d.toNat a.toNat b (bit fa) 3
  | .fsqrt d a fa => [wordR 0x0C d.toNat a.toNat 0 0 (bit fa) 0 4]
  | .fmin d a b fa => wordS 0x0C d.toNat a.toNat b (bit fa) 5
  | .fmax d a b fa => wordS 0x0C d.toNat a.toNat b (bit fa) 6
  | .ffma d a b fa => wordS 0x0C d.toNat a.toNat b (bit fa) 7
  | .feq d a b fa => wordS 0x0C d.toNat a.toNat b (bit fa) 8
  | .flt d a b fa => wordS 0x0C d.toNat a.toNat b (bit fa) 9
  | .fle d a b fa => wordS 0x0C d.toNat a.toNat b (bit fa) 10
  | .fcvtif d a fa => [wordR 0x0C d.toNat a.toNat 0 0 (bit fa) 0 11]
  | .fcvtfi d a fa => [wordR 0x0C d.toNat a.toNat 0 0 (bit fa) 0 12]
  | .fsgnj d a b fa => wordS 0x0C d.toNat a.toNat b (bit fa) 13
  | .fclass d a fa => [wordR 0x0C d.toNat a.toNat 0 0 (bit fa) 0 14]
  | .br a cond off => [wordB 0x10 a.toNat cond.toNat off.toNat]
  | .jal d imm => [wordIA 0x11 d.toNat imm.toNat]
  | .jr d a fa => [wordR 0x12 d.toNat a.toNat 0 0 (bit fa) 0 0]
  | .jtab d a b fa fb => [wordR 0x12 d.toNat a.toNat b.toNat 0 (bit fa) (bit fb) 1]
  | .mark imm => [wordIA 0x13 0 imm.toNat]
  | .strip cnt asel off => [wordStrip 0x14 cnt.toNat asel.toNat off.toNat]
  | .ldb d a off fa => [wordM 0x15 d.toNat a.toNat off.toNat (bit fa) 0 0]
  | .ldh d a off fa => [wordM 0x15 d.toNat a.toNat off.toNat (bit fa) 0 1]
  | .ldw d a off fa => [wordM 0x15 d.toNat a.toNat off.toNat (bit fa) 0 2]
  | .ldd d a off fa => [wordM 0x15 d.toNat a.toNat off.toNat (bit fa) 0 3]
  | .ldbs d a off fa => [wordM 0x15 d.toNat a.toNat off.toNat (bit fa) 0 4]
  | .ldhs d a off fa => [wordM 0x15 d.toNat a.toNat off.toNat (bit fa) 0 5]
  | .ldws d a off fa => [wordM 0x15 d.toNat a.toNat off.toNat (bit fa) 0 6]
  | .stb d a off fa fb => [wordM 0x15 d.toNat a.toNat off.toNat (bit fa) (bit fb) 8]
  | .sth d a off fa fb => [wordM 0x15 d.toNat a.toNat off.toNat (bit fa) (bit fb) 9]
  | .stw d a off fa fb => [wordM 0x15 d.toNat a.toNat off.toNat (bit fa) (bit fb) 10]
  | .std d a off fa fb => [wordM 0x15 d.toNat a.toNat off.toNat (bit fa) (bit fb) 11]
  | .amoadd d a b ord fa fb => [wordR 0x16 d.toNat a.toNat b.toNat ord.toNat (bit fa) (bit fb) 0]
  | .amoand d a b ord fa fb => [wordR 0x16 d.toNat a.toNat b.toNat ord.toNat (bit fa) (bit fb) 1]
  | .amoor d a b ord fa fb => [wordR 0x16 d.toNat a.toNat b.toNat ord.toNat (bit fa) (bit fb) 2]
  | .amoxor d a b ord fa fb => [wordR 0x16 d.toNat a.toNat b.toNat ord.toNat (bit fa) (bit fb) 3]
  | .amomins d a b ord fa fb => [wordR 0x16 d.toNat a.toNat b.toNat ord.toNat (bit fa) (bit fb) 4]
  | .amomaxs d a b ord fa fb => [wordR 0x16 d.toNat a.toNat b.toNat ord.toNat (bit fa) (bit fb) 5]
  | .amominu d a b ord fa fb => [wordR 0x16 d.toNat a.toNat b.toNat ord.toNat (bit fa) (bit fb) 6]
  | .amomaxu d a b ord fa fb => [wordR 0x16 d.toNat a.toNat b.toNat ord.toNat (bit fa) (bit fb) 7]
  | .amoswap d a b ord fa fb => [wordR 0x16 d.toNat a.toNat b.toNat ord.toNat (bit fa) (bit fb) 8]
  | .amocas d a b ord fa fb => [wordR 0x16 d.toNat a.toNat b.toNat ord.toNat (bit fa) (bit fb) 9]
  | .amofadd d a b ord fa fb => [wordR 0x16 d.toNat a.toNat b.toNat ord.toNat (bit fa) (bit fb) 10]
  | .vadd d a b fa => wordS 0x18 d.toNat a.toNat b (bit fa) 0
  | .vsub d a b fa => wordS 0x18 d.toNat a.toNat b (bit fa) 1
  | .vmul d a b fa => wordS 0x18 d.toNat a.toNat b (bit fa) 2
  | .vmulhs d a b fa => wordS 0x18 d.toNat a.toNat b (bit fa) 3
  | .vmulhu d a b fa => wordS 0x18 d.toNat a.toNat b (bit fa) 4
  | .vmadd d a b fa => wordS 0x18 d.toNat a.toNat b (bit fa) 5
  | .vand d a b fa => wordS 0x18 d.toNat a.toNat b (bit fa) 6
  | .vor d a b fa => wordS 0x18 d.toNat a.toNat b (bit fa) 7
  | .vxor d a b fa => wordS 0x18 d.toNat a.toNat b (bit fa) 8
  | .vshl d a b fa => wordS 0x18 d.toNat a.toNat b (bit fa) 9
  | .vshr d a b fa => wordS 0x18 d.toNat a.toNat b (bit fa) 10
  | .vsra d a b fa => wordS 0x18 d.toNat a.toNat b (bit fa) 11
  | .vmins d a b fa => wordS 0x18 d.toNat a.toNat b (bit fa) 12
  | .vmaxs d a b fa => wordS 0x18 d.toNat a.toNat b (bit fa) 13
  | .vminu d a b fa => wordS 0x18 d.toNat a.toNat b (bit fa) 14
  | .vmaxu d a b fa => wordS 0x18 d.toNat a.toNat b (bit fa) 15
  | .vadc d a b fa => wordS 0x19 d.toNat a.toNat b (bit fa) 0
  | .vsbc d a b fa => wordS 0x19 d.toNat a.toNat b (bit fa) 1
  | .vcmpeq d a b fa => wordS 0x19 d.toNat a.toNat b (bit fa) 2
  | .vcmplt d a b fa => wordS 0x19 d.toNat a.toNat b (bit fa) 3
  | .vcmpltu d a b fa => wordS 0x19 d.toNat a.toNat b (bit fa) 4
  | .vcmple d a b fa => wordS 0x19 d.toNat a.toNat b (bit fa) 5
  | .vcmpleu d a b fa => wordS 0x19 d.toNat a.toNat b (bit fa) 6
  | .vmerge d a b fa => wordS 0x19 d.toNat a.toNat b (bit fa) 7
  | .vabs d a fa => [wordR 0x19 d.toNat a.toNat 0 0 (bit fa) 0 8]
  | .vclz d a fa => [wordR 0x19 d.toNat a.toNat 0 0 (bit fa) 0 9]
  | .vpopc d a fa => [wordR 0x19 d.toNat a.toNat 0 0 (bit fa) 0 10]
  | .vnarrow d a b fa => wordS 0x19 d.toNat a.toNat b (bit fa) 11
  | .vwidens d a fa => [wordR 0x19 d.toNat a.toNat 0 0 (bit fa) 0 12]
  | .vwidenu d a fa => [wordR 0x19 d.toNat a.toNat 0 0 (bit fa) 0 13]
  | .vfadd d a b fa => wordS 0x20 d.toNat a.toNat b (bit fa) 0
  | .vfsub d a b fa => wordS 0x20 d.toNat a.toNat b (bit fa) 1
  | .vfmul d a b fa => wordS 0x20 d.toNat a.toNat b (bit fa) 2
  | .vfdiv d a b fa => wordS 0x20 d.toNat a.toNat b (bit fa) 3
  | .vfsqrt d a fa => [wordR 0x20 d.toNat a.toNat 0 0 (bit fa) 0 4]
  | .vfmin d a b fa => wordS 0x20 d.toNat a.toNat b (bit fa) 5
  | .vfmax d a b fa => wordS 0x20 d.toNat a.toNat b (bit fa) 6
  | .vffma d a b fa => wordS 0x20 d.toNat a.toNat b (bit fa) 7
  | .vffms d a b fa => wordS 0x20 d.toNat a.toNat b (bit fa) 8
  | .vfcmpeq d a b fa => wordS 0x20 d.toNat a.toNat b (bit fa) 9
  | .vfcmplt d a b fa => wordS 0x20 d.toNat a.toNat b (bit fa) 10
  | .vfcmple d a b fa => wordS 0x20 d.toNat a.toNat b (bit fa) 11
  | .vfabs d a fa => [wordR 0x20 d.toNat a.toNat 0 0 (bit fa) 0 12]
  | .vfneg d a fa => [wordR 0x20 d.toNat a.toNat 0 0 (bit fa) 0 13]
  | .vfclass d a fa => [wordR 0x20 d.toNat a.toNat 0 0 (bit fa) 0 14]
  | .vfcvt d a fd fs fa => [wordR 0x21 d.toNat a.toNat (fd.toNat * 8 + fs.toNat) 0 (bit fa) 0 0]
  | .vcvtif d a fd fs fa => [wordR 0x21 d.toNat a.toNat (fd.toNat * 8 + fs.toNat) 0 (bit fa) 0 1]
  | .vcvtfi d a fd fs fa => [wordR 0x21 d.toNat a.toNat (fd.toNat * 8 + fs.toNat) 0 (bit fa) 0 2]
  | .vquant d a b fa fb => [wordR 0x21 d.toNat a.toNat b.toNat 1 (bit fa) (bit fb) 3]
  | .vdequant d a b fa fb => [wordR 0x21 d.toNat a.toNat b.toNat 1 (bit fa) (bit fb) 4]
  | .vamax a b fa => [wordR 0x21 0 a.toNat b.toNat 0 (bit fa) 0 5]
  | .amscl d a b => [wordR 0x21 d.toNat a.toNat b.toNat 0 0 0 6]
  | .vredsum d a b fa => wordS 0x24 d.toNat a.toNat b (bit fa) 0
  | .vredfsum d a b fa => wordS 0x24 d.toNat a.toNat b (bit fa) 1
  | .vredmax d a b fa => wordS 0x24 d.toNat a.toNat b (bit fa) 2
  | .vredmin d a b fa => wordS 0x24 d.toNat a.toNat b (bit fa) 3
  | .vredfmax d a b fa => wordS 0x24 d.toNat a.toNat b (bit fa) 4
  | .vredfmin d a b fa => wordS 0x24 d.toNat a.toNat b (bit fa) 5
  | .vredand d a b fa => wordS 0x24 d.toNat a.toNat b (bit fa) 6
  | .vredor d a b fa => wordS 0x24 d.toNat a.toNat b (bit fa) 7
  | .vslideup d a b fa => wordS 0x24 d.toNat a.toNat b (bit fa) 8
  | .vslidedn d a b fa => wordS 0x24 d.toNat a.toNat b (bit fa) 9
  | .vperm d a b fa fb => [wordR 0x24 d.toNat a.toNat b.toNat 0 (bit fa) (bit fb) 10]
  | .vcompress d a fa => [wordR 0x24 d.toNat a.toNat 0 0 (bit fa) 0 11]
  | .vexpand d a fa => [wordR 0x24 d.toNat a.toNat 0 0 (bit fa) 0 12]
  | .viota d a => [wordR 0x24 d.toNat a.toNat 0 0 0 0 13]
  | .vbcast d b => wordS 0x24 d.toNat 0 b 0 14
  | .vextract d a b fa => wordS 0x24 d.toNat a.toNat b (bit fa) 15
  | .vinsert d a b fa => wordS 0x25 d.toNat a.toNat b (bit fa) 0
  | .vtrans d a fa => [wordR 0x25 d.toNat a.toNat 0 0 (bit fa) 0 1]
  | .vzip d a b fa fb => [wordR 0x25 d.toNat a.toNat b.toNat 0 (bit fa) (bit fb) 2]
  | .vunzip d a b fa => wordS 0x25 d.toNat a.toNat b (bit fa) 3
  | .mand d a b => [wordR 0x26 d.toNat a.toNat b.toNat 0 0 0 0]
  | .mor d a b => [wordR 0x26 d.toNat a.toNat b.toNat 0 0 0 1]
  | .mxor d a b => [wordR 0x26 d.toNat a.toNat b.toNat 0 0 0 2]
  | .mandn d a b => [wordR 0x26 d.toNat a.toNat b.toNat 0 0 0 3]
  | .mnot d a => [wordR 0x26 d.toNat a.toNat 0 0 0 0 4]
  | .mmov d a => [wordR 0x26 d.toNat a.toNat 0 0 0 0 5]
  | .msbf d a => [wordR 0x26 d.toNat a.toNat 0 0 0 0 6]
  | .msif d a => [wordR 0x26 d.toNat a.toNat 0 0 0 0 7]
  | .msof d a => [wordR 0x26 d.toNat a.toNat 0 0 0 0 8]
  | .mshup d a => [wordR 0x26 d.toNat a.toNat 0 0 0 0 9]
  | .mshdn d a => [wordR 0x26 d.toNat a.toNat 0 0 0 0 10]
  | .mset d => [wordR 0x26 d.toNat 0 0 0 0 0 11]
  | .mclr d => [wordR 0x26 d.toNat 0 0 0 0 0 12]
  | .mpop d a => [wordR 0x26 d.toNat a.toNat 0 0 0 0 13]
  | .mfirst d a => [wordR 0x26 d.toNat a.toNat 0 0 0 0 14]
  | .vld d a off fa => [wordM 0x28 d.toNat a.toNat off.toNat (bit fa) 0 0]
  | .vlds d a off fa => [wordM 0x28 d.toNat a.toNat off.toNat (bit fa) 0 1]
  | .vldff d a off fa => [wordM 0x28 d.toNat a.toNat off.toNat (bit fa) 0 2]
  | .vst d a off fa fb => [wordM 0x28 d.toNat a.toNat off.toNat (bit fa) (bit fb) 4]
  | .vsts d a off fa fb => [wordM 0x28 d.toNat a.toNat off.toNat (bit fa) (bit fb) 5]
  | .vldx d a b fa fb => [wordR 0x29 d.toNat a.toNat b.toNat 0 (bit fa) (bit fb) 0]
  | .vstx d a b fa fb => [wordR 0x29 d.toNat a.toNat b.toNat 0 (bit fa) (bit fb) 1]
  | .vldl d a b fa fb => [wordR 0x29 d.toNat a.toNat b.toNat 0 (bit fa) (bit fb) 2]
  | .vstc d a fa => [wordR 0x29 d.toNat a.toNat 0 0 (bit fa) 0 3]
  | .vscadd d a b fa fb => [wordR 0x29 d.toNat a.toNat b.toNat 0 (bit fa) (bit fb) 4]
  | .cappend d a b fa fb => [wordR 0x29 d.toNat a.toNat b.toNat 0 (bit fa) (bit fb) 5]
  | .sspec d a fa => [wordR 0x2C d.toNat a.toNat 0 0 (bit fa) 0 0]
  | .sbind d a fa => [wordR 0x2C d.toNat a.toNat 0 0 (bit fa) 0 1]
  | .sunbind d => [wordR 0x2C d.toNat 0 0 0 0 0 2]
  | .sbar a fa => [wordR 0x2C 0 a.toNat 0 0 (bit fa) 0 3]
  | .scond d a b fa => wordS 0x2C d.toNat a.toNat b (bit fa) 4
  | .spos d a => [wordR 0x2C d.toNat a.toNat 0 0 0 0 5]
  | .sstart d => [wordR 0x2C d.toNat 0 0 0 0 0 6]
  | .swait d => [wordR 0x2C d.toNat 0 0 0 0 0 7]
  | .vconf d b => wordS 0x2E d.toNat 0 b 0 0
  | .vsetl d b => wordS 0x2E d.toNat 0 b 0 1
  | .vsetr d b => wordS 0x2E d.toNat 0 b 0 2
  | .vsetcfg d b => wordS 0x2E d.toNat 0 b 0 3
  | .vsetst d b => wordS 0x2E d.toNat 0 b 0 4
  | .stripc => [wordR 0x2E 0 0 0 0 0 0 5]
  | .gang d => [wordR 0x2E d.toNat 0 0 0 0 0 6]
  | .ungang d => [wordR 0x2E d.toNat 0 0 0 0 0 7]
  | .vsave a fa => [wordR 0x2E 0 a.toNat 0 0 (bit fa) 0 8]
  | .vrestore a fa => [wordR 0x2E 0 a.toNat 0 0 (bit fa) 0 9]
  | .vcfgrd d sel => [wordR 0x2E d.toNat sel.toNat 0 0 0 0 10]
  | .mma z a b fmt kn acc => [wordR 0x30 z.toNat a.toNat b.toNat (fmt.toNat / 4) (fmt.toNat / 2 % 2) (fmt.toNat % 2) (kn.toNat * 4 + bit acc * 2)]
  | .zscacc d a b fb => [wordR 0x31 d.toNat a.toNat b.toNat 0 0 (bit fb) 0]
  | .zzero d a => [wordR 0x31 d.toNat a.toNat 0 0 0 0 1]
  | .zrel d => [wordR 0x31 d.toNat 0 0 0 0 0 2]
  | .zext d a b => wordS 0x31 d.toNat a.toNat b 0 3
  | .zins d a b fa => wordS 0x31 d.toNat a.toNat b (bit fa) 4
  | .zsave d a fa => [wordR 0x31 d.toNat a.toNat 0 0 (bit fa) 0 5]
  | .zload d a fa => [wordR 0x31 d.toNat a.toNat 0 0 (bit fa) 0 6]
  | .zamax a b => [wordR 0x31 0 a.toNat b.toNat 0 0 0 7]
  | .mdset d a b fa => wordS 0x31 d.toNat a.toNat b (bit fa) 8
  | .mdadv d b => wordS 0x31 d.toNat 0 b 0 10
  | .zstat d a => [wordR 0x31 d.toNat a.toNat 0 0 0 0 11]
  | .kset d a b fa => wordS 0x34 d.toNat a.toNat b (bit fa) 0
  | .kseed d b => wordS 0x34 d.toNat 0 b 0 1
  | .korg d a b fa => wordS 0x34 d.toNat a.toNat b (bit fa) 2
  | .kfreq d a fa => [wordR 0x34 d.toNat a.toNat 0 0 (bit fa) 0 3]
  | .vgen d a => [wordR 0x34 d.toNat a.toNat 0 0 0 0 4]
  | .kget d a b => wordS 0x34 d.toNat a.toNat b 0 5
  | .cpy d a b fa fb => [wordR 0x35 d.toNat a.toNat b.toNat 0 (bit fa) (bit fb) 0]
  | .cpymma d a fa z sa sb fmt kn acc =>
    [wordR 0x35 d.toNat a.toNat 0 3 (bit fa) 0 1,
      wordR 0x30 z.toNat sa.toNat sb.toNat (fmt.toNat / 4) (fmt.toNat / 2 % 2) (fmt.toNat % 2) (kn.toNat * 4 + bit acc * 2)]
  | .cpywait d a fa => [wordR 0x35 d.toNat a.toNat 0 0 (bit fa) 0 2]
  | .cbinit d a b fa fb => [wordR 0x35 d.toNat a.toNat b.toNat 0 (bit fa) (bit fb) 3]
  | .cbwait d a => [wordR 0x35 d.toNat a.toNat 0 0 0 0 4]
  | .cbrel d a b => wordS 0x35 d.toNat a.toNat b 0 5
  | .cbstat d a => [wordR 0x35 d.toNat a.toNat 0 0 0 0 6]
  | .acq d a fa => [wordR 0x36 d.toNat a.toNat 0 0 (bit fa) 0 0]
  | .rel a fa => [wordR 0x36 0 a.toNat 0 0 (bit fa) 0 1]
  | .bind d a b fa => wordS 0x36 d.toNat a.toNat b (bit fa) 2
  | .unbind d a fa => [wordR 0x36 d.toNat a.toNat 0 0 (bit fa) 0 3]
  | .fenceFull => [wordR 0x36 0 0 0 0 0 0 4]
  | .fenceRel => [wordR 0x36 0 0 1 0 0 0 4]
  | .fenceAcq => [wordR 0x36 0 0 2 0 0 0 4]
  | .fenceIfetch => [wordR 0x36 0 0 3 0 0 0 4]
  | .wmpub d b => wordS 0x36 d.toNat 0 b 0 5
  | .wmlink d a fa => [wordR 0x36 d.toNat a.toNat 0 0 (bit fa) 0 6]
  | .bar d a fa => [wordR 0x36 d.toNat a.toNat 0 0 (bit fa) 0 7]
  | .barjoin d a fa => [wordR 0x36 d.toNat a.toNat 0 0 (bit fa) 0 8]
  | .barleave a fa => [wordR 0x36 0 a.toNat 0 0 (bit fa) 0 9]
  | .notify a b fa => wordS 0x36 0 a.toNat b (bit fa) 10
  | .waitn d a => [wordR 0x36 d.toNat a.toNat 0 0 0 0 11]
  | .pinit a fa => [wordR 0x37 0 a.toNat 0 0 (bit fa) 0 0]
  | .pfill d a b fa => wordS 0x37 d.toNat a.toNat b (bit fa) 1
  | .peq d a b fa fb => [wordR 0x37 d.toNat a.toNat b.toNat 0 (bit fa) (bit fb) 2]
  | .pwait d a fa => [wordR 0x37 d.toNat a.toNat 0 0 (bit fa) 0 3]
  | .ptest d a fa => [wordR 0x37 d.toNat a.toNat 0 0 (bit fa) 0 4]
  | .xred d a b fa => wordS 0x38 d.toNat a.toNat b (bit fa) 0
  | .xbar d => [wordR 0x38 d.toNat 0 0 0 0 0 1]
  | .xwait d a fa => [wordR 0x38 d.toNat a.toNat 0 0 (bit fa) 0 2]
  | .launch d a fa => [wordR 0x39 d.toNat a.toNat 0 0 (bit fa) 0 0]
  | .launchnb d a fa => [wordR 0x39 d.toNat a.toNat 0 0 (bit fa) 0 1]
  | .cancel d a b fa => [wordR 0x39 d.toNat a.toNat b.toNat 0 (bit fa) 0 2]
  | .cwait d a b fa => [wordR 0x39 d.toNat a.toNat b.toNat 0 (bit fa) 0 3]
  | .exit => [wordR 0x39 0 0 0 0 0 0 4]
  | .self d b => [wordR 0x39 d.toNat 0 b.toNat 0 0 0 5]
  | .cntrd d a b fa => [wordR 0x39 d.toNat a.toNat b.toNat 0 (bit fa) 0 6]
  | .trap b => wordS 0x3A 0 0 b 0 0
  | .rteResume => [wordR 0x3A 0 0 0 0 0 0 1]
  | .rteKill => [wordR 0x3A 0 0 1 0 0 0 1]
  | .sysrd d a => [wordR 0x3A d.toNat a.toNat 0 0 0 0 2]
  | .syswr d b => wordS 0x3A d.toNat 0 b 0 3
  | .brk => [wordR 0x3A 0 0 0 0 0 0 4]
  | .rdcyc d => [wordR 0x3A d.toNat 0 0 0 0 0 5]
  | .rdnrg d => [wordR 0x3A d.toNat 0 0 0 0 0 6]
  | .slotset a fa => [wordR 0x3A 0 a.toNat 0 0 (bit fa) 0 7]
  | .ctxswSout d a fa => [wordR 0x3A d.toNat a.toNat 0 0 (bit fa) 0 8]
  | .ctxswSin d a fa => [wordR 0x3A d.toNat a.toNat 1 0 (bit fa) 0 8]
  | .ctxswVout d a fa => [wordR 0x3A d.toNat a.toNat 2 0 (bit fa) 0 8]
  | .ctxswVin d a fa => [wordR 0x3A d.toNat a.toNat 3 0 (bit fa) 0 8]
  | .ctxswZout d a fa => [wordR 0x3A d.toNat a.toNat 4 0 (bit fa) 0 8]
  | .ctxswZin d a fa => [wordR 0x3A d.toNat a.toNat 5 0 (bit fa) 0 8]
  | .wfn d => [wordR 0x3A d.toNat 0 0 0 0 0 9]
  | .apf d a b => wordS 0x3C d.toNat a.toNat b 0 0
  | .ahome a b => wordS 0x3C 0 a.toNat b 0 1
  | .aprio b => wordS 0x3C 0 0 b 0 2
  | .aorder b => wordS 0x3C 0 0 b 0 3
  | .awake b => wordS 0x3C 0 0 b 0 4
  | .aj d a b => wordS 0x3C d.toNat a.toNat b 0 5
  | .aloop a b => wordS 0x3C 0 a.toNat b 0 6
  | .aadd d a b => wordS 0x3C d.toNat a.toNat b 0 7
  | .ali d b => wordS 0x3C d.toNat 0 b 0 8
  | .asnap d a => [wordR 0x3C d.toNat a.toNat 0 0 0 0 9]
  | .aend => [wordR 0x3C 0 0 0 0 0 0 10]
  | .await imm => [wordIA 0x3D 0 imm.toNat]
  | .secondMarkConsume _ _ => []
  | .adviceActionAccept _ _ => []
  | .fatalError _ _ => []
  | .laneError _ _ _ => []
  | .correctedError _ _ => []
  | .arbiterSelection => []
  | .arbiterBoundary _ => []
  | .launchPlacement => []
  | .descriptorArrival _ _ => []
  | .qtailWrite _ _ => []
  | .qctlWrite _ _ => []
  | .hartCancelled _ _ => []
  | .hartFenced _ _ => []
  | .issueCycle _ => []
  | .activityMeterCycle _ => []
  | .pageEpoch _ => []
  | .frameMoveSwitch _ => []
  | .moduleUncorrectableError _ => []
  | .bufferWordError _ _ _ => []
  | .striplost _ _ => []
  | .linkFailure _ _ => []
  | .moduleRetireComplete _ => []
  | .copyCommandStart _ _ => []
  | .copyCommandComplete _ _ => []
  | .mmaComplete _ _ => []
  | .longLatencyResult _ _ => []
  | .stripCommitComplete _ _ => []
  | .scatterAddPerform _ => []
  | .streamElementFetch _ _ _ _ => []
  | .streamConditionRead _ _ _ => []
  | .streamDoneadd _ _ _ _ => []
  | .remotePushPerform _ _ _ => []
  | .remoteStreamRequest _ => []
  | .xredPacketArrival _ => []
  | .acqGrant _ _ => []
  | .waiterPoll _ _ => []
  | .watermarkRelease _ _ => []
  | .queueWeightWrite _ _ => []
  | .powerControllerUpdate _ _ _ _ _ => []
  | .powerHoldExpire _ _ => []
  | .switchOpeningComplete _ _ => []
  | .inrushGrant => []
  | .turnOnComplete _ _ => []
  | .gcapWrite _ _ => []
  | .actwWrite _ _ => []
  | .lanemapWrite _ _ => []
  | .mrsvWrite _ => []
  | .fwrootWrite _ _ => []
  | .devnumWrite _ => []
  | .tinvGo _ => []
  | .tinvComplete => []
  | .rrInstall => []
  | .rrRemove => []
  | .repheadWrite _ => []
  | .svcFencecore => []
  | .svcRetiremod => []
  | .svcReturnmod => []
  | .svcRecal => []
  | .recalLaneReturn _ _ _ => []
  | .svcStagefw _ => []
  | .svcAttest => []
  | .registerWrite _ _ => []
  | .hostBar2Access _ _ _ => []
  | .powerOnBoot _ _ _ _ => []
  | .deviceReset => []
  | .linkStateChanged _ _ _ => []
  | .domainReachabilityChange _ _ => []
  | .sliceUncorrectableError _ => []
  | .clusterClockChange _ _ => []
  | .jobRetired _ => []

/-- The words of an instruction. -/
def encode (i : Instr) : List (BitVec 32) := (encodeNat i).map (BitVec.ofNat 32)

/-- The instruction's own word as the 64-bit value that TVAL holds (R47, R395). -/
def Instr.word (i : Instr) : Word := BitVec.ofNat 64 (i |> encodeNat |>.headD 0)

/-- The number of bytes by which the instruction advances the program counter: 8 when it is literal-bearing (R43). -/
def Instr.bytes (i : Instr) : Word := BitVec.ofNat 64 (4 * (encodeNat i).length)

/-- Decoding of a list of words: the instruction and the words after it. -/
noncomputable def decode : List (BitVec 32) → Except DecodeError (Instr × List (BitVec 32))
  | [] => .error .major
  | w :: ws =>
    match decodeWord w.toNat (ws.headD 0#32).toNat with
    | .ok i => .ok (i, if literalBearing w.toNat then ws.tail else ws)
    | .error e => .error e

/-- The instruction the decoder reads from a row's bits: word 0 in bits [31:0], and a trailing word, where the
instruction has one, in bits [63:32]; bits at and above `nbits` are 0. -/
noncomputable def decodeTableWord (nbits w : Nat) : Option Instr :=
  match decodeWord (w % 2 ^ nbits % 2 ^ 32) (w % 2 ^ nbits / 2 ^ 32 % 2 ^ 32) with
  | .ok i => some i
  | .error _ => none

end Sys2Proof
end

