-- ==== Sys2Proof/Config.lean ====
section
/-!
DEFINITION. What the device fixes beyond the rules, and the values that the rules leave free.

A free value has no body, so nothing can be proved of it; the machine applies it to the counter State.fresh (log 5).
-/

namespace Sys2Proof

/-- A byte that the rules leave undefined (R193). -/
opaque Config.freeByte : Nat → Byte

/-- A word that the rules leave open, by the number of the free value and an index (log 5). -/
opaque Config.freeWord : Nat → Nat → Word

/-- The power word of a core that the model does not hold, by the number of the free value and the core (log 1). -/
opaque Config.corePower : Nat → Nat → Word

/-- The signature that the identity key makes of a digest (R444): its length, and its bytes by index. -/
opaque Config.signatureLength : BitVec 512 → Nat
opaque Config.signatureByte : BitVec 512 → Nat → Byte

/-- The fused floor of the version of an image, by its KIND (R441). -/
opaque Config.versionFloor : Nat → BitVec 32

/-- Slices of a die (R1). -/
def Config.slicesPerDie : Nat := 24

/-- Frame slots of a module (R116). -/
def Config.moduleSlots : Nat := 2 ^ 22

/-- Where a frame lives before it has ever moved: the model's choice (R13, log 9). -/
def Config.initialHome (frame : Nat) : Fin 96 := Fin.ofNat 96 frame

/-- The die of the cores that the model holds (R2, log 1): cores 0 to 3 are on die 0. -/
def Config.die : Nat := 0

end Sys2Proof
end

