-- ==== Sys2Proof/Machine/Bits.lean ====
section
/-!
DEFINITION. Fields of numbers, sign extension and bytes in little-endian order (R15), for numbers of any width.
-/

namespace Sys2Proof.Machine

/-- Bits [lo + width - 1 : lo] of x. -/
def fieldOf (x lo width : Nat) : Nat := x / 2 ^ lo % 2 ^ width

/-- x with bits [lo + width - 1 : lo] replaced by v. -/
def setField (x lo width v : Nat) : Nat := x - fieldOf x lo width * 2 ^ lo + v % 2 ^ width * 2 ^ lo

/-- Bit i of x. -/
def bitAt (x i : Nat) : Bool := fieldOf x i 1 == 1

/-- x with bit i replaced. -/
def setBit (x i : Nat) (b : Bool) : Nat := setField x i 1 (if b then 1 else 0)

/-- The signed value of the low `width` bits of x. -/
def signed (width x : Nat) : Int :=
  if fieldOf x (width - 1) 1 = 1 then (x % 2 ^ width : Nat) - (2 ^ width : Nat) else (x % 2 ^ width : Nat)

/-- The low `width` bits of an integer in two's complement. -/
def wrap (width : Nat) (x : Int) : Nat := (x % (2 ^ width : Nat)).toNat

/-- An integer limited to the signed range of `width` bits. -/
def saturate (width : Nat) (x : Int) : Int :=
  if x < -(2 ^ (width - 1) : Nat) then -(2 ^ (width - 1) : Nat)
  else if x > (2 ^ (width - 1) : Nat) - 1 then (2 ^ (width - 1) : Nat) - 1 else x

/-- A number as a 64-bit word. -/
def word (n : Nat) : Word := BitVec.ofNat 64 n

/-- One bit as a 64-bit word. -/
def wordOfBool (b : Bool) : Word := if b then 1 else 0

/-- The low `n` bytes of x, lowest first. -/
def bytesOf : Nat → Nat → List Byte
  | 0, _ => []
  | n + 1, x => BitVec.ofNat 8 x :: bytesOf n (x / 256)

/-- The number whose bytes, lowest first, are listed. -/
def ofBytes : List Byte → Nat
  | [] => 0
  | b :: bs => b.toNat + 256 * ofBytes bs

/-- The words of a number, lowest first, `width` bits each. -/
def wordsOf (width : Nat) : Nat → Nat → List Nat
  | 0, _ => []
  | n + 1, x => x % 2 ^ width :: wordsOf width n (x / 2 ^ width)

/-- The number whose `width`-bit words, lowest first, are listed. -/
def ofWords (width : Nat) : List Nat → Nat
  | [] => 0
  | w :: ws => w % 2 ^ width + 2 ^ width * ofWords width ws

/-- Set bits among the low `n` bits of x. -/
def popCount : Nat → Nat → Nat
  | 0, _ => 0
  | n + 1, x => x % 2 + popCount n (x / 2)

/-- The lowest i < n with bit i of x set, or n. -/
def firstSet : Nat → Nat → Nat
  | 0, _ => 0
  | n + 1, x => if x % 2 = 1 then 0 else firstSet n (x / 2) + 1

/-- Leading zero bits of x among its low `width` bits. -/
def leadingZeros (width x : Nat) : Nat := if x % 2 ^ width = 0 then width else width - 1 - (x % 2 ^ width).log2

/-- Trailing zero bits of x among its low `width` bits. -/
def trailingZeros (width x : Nat) : Nat := firstSet width x

/-- ⌈x ÷ y⌉ -/
def ceilDiv (x y : Nat) : Nat := (x + y - 1) / y

/-- The words of a list without the first one that satisfies p. -/
def eraseFirst {α : Type} (p : α → Bool) : List α → List α
  | [] => []
  | x :: xs => if p x then xs else x :: eraseFirst p xs

/-- The list with f applied to its first element that satisfies p. -/
def modifyFirst {α : Type} (p : α → Bool) (f : α → α) : List α → List α
  | [] => []
  | x :: xs => if p x then f x :: xs else x :: modifyFirst p f xs

/-- The value at an index of a vector, or a default beyond it. -/
def vget {α : Type} {n : Nat} (v : Vector α n) (i : Nat) (d : α) : α := if h : i < n then v[i] else d

/-- A vector with the value at an index replaced; beyond it, the vector itself. -/
def vset {α : Type} {n : Nat} (v : Vector α n) (i : Nat) (x : α) : Vector α n := if h : i < n then v.set i x else v

end Sys2Proof.Machine
end

