-- ==== Sys2Proof/Machine/Numbers.lean ====
section
/-!
DEFINITION. Numbers and rounding (R53-R76).  An operand becomes an exact value, the operation is carried out exactly,
and the result is rounded once into its format.
-/

namespace Sys2Proof.Machine

/-- The floating-point formats (R53). -/
inductive Fmt where
  | fp64 | fp32 | fp16 | bf16 | e4m3 | e5m2
  deriving DecidableEq, Repr

/-- Width of a format in bits (R53). -/
def Fmt.width : Fmt → Nat
  | .fp64 => 64 | .fp32 => 32 | .fp16 => 16 | .bf16 => 16 | .e4m3 => 8 | .e5m2 => 8

/-- Bits of the fraction (R53). -/
def Fmt.fbits : Fmt → Nat
  | .fp64 => 52 | .fp32 => 23 | .fp16 => 10 | .bf16 => 7 | .e4m3 => 3 | .e5m2 => 2

/-- Bits of the exponent (R53). -/
def Fmt.ebits : Fmt → Nat
  | .fp64 => 11 | .fp32 => 8 | .fp16 => 5 | .bf16 => 8 | .e4m3 => 4 | .e5m2 => 5

/-- Exponent bias (R53). -/
def Fmt.bias : Fmt → Nat
  | .fp64 => 1023 | .fp32 => 127 | .fp16 => 15 | .bf16 => 127 | .e4m3 => 7 | .e5m2 => 15

/-- The canonical NaN (R53). -/
def Fmt.nan : Fmt → Nat
  | .fp64 => 0x7FF8000000000000 | .fp32 => 0x7FC00000 | .fp16 => 0x7E00 | .bf16 => 0x7FC0 | .e4m3 => 0x7F | .e5m2 => 0x7E

/-- The pattern of the largest finite value (R53). -/
def Fmt.maxFinite : Fmt → Nat
  | .fp64 => 0x7FEFFFFFFFFFFFFF | .fp32 => 0x7F7FFFFF | .fp16 => 0x7BFF | .bf16 => 0x7F7F | .e4m3 => 0x7E | .e5m2 => 0x7B

/-- The pattern of +∞, in the formats that have one (R53). -/
def Fmt.inf (f : Fmt) : Nat := (2 ^ f.ebits - 1) * 2 ^ f.fbits

/-- The sign bit of a format. -/
def Fmt.signBit (f : Fmt) (neg : Bool) : Nat := if neg then 2 ^ (f.width - 1) else 0

/-- An exact value: ±m × 2^e, an infinity or a NaN.  A zero carries its sign. -/
inductive FVal where
  | nan
  | inf (neg : Bool)
  | fin (neg : Bool) (m : Nat) (e : Int)
  deriving DecidableEq, Repr

/-- The value of a pattern (R53, R60 for the signs of zeros). -/
def Fmt.value (f : Fmt) (x : Nat) : FVal :=
  let neg := bitAt x (f.width - 1)
  let ex := fieldOf x f.fbits f.ebits
  let fr := x % 2 ^ f.fbits
  if f = .e4m3 ∧ ex = 15 ∧ fr = 7 then .nan
  else if f ≠ .e4m3 ∧ ex = 2 ^ f.ebits - 1 then (if fr = 0 then .inf neg else .nan)
  else if ex = 0 then .fin neg fr (1 - (f.bias : Int) - f.fbits)
  else .fin neg (2 ^ f.fbits + fr) ((ex : Int) - f.bias - f.fbits)

/-- The rounding modes of VCFG.RM (R27). -/
inductive Rm where
  | rne | rtz | rup | rdn | srd | srh
  deriving DecidableEq, Repr

/-- RM by its code (R27); the reserved codes never stand in VCFG (R28). -/
def Rm.ofCode : Nat → Rm
  | 0 => .rne | 1 => .rtz | 2 => .rup | 3 => .rdn | 4 => .srd | _ => .srh

/-- How one result is rounded: the mode, the coordinate of R65 and the seed of R66. -/
structure Rounding where
  mode : Rm
  r : Nat := 0
  e : Nat := 0
  seed : Word := 0
  deriving DecidableEq, Repr

/-- RNE, which the matrix unit, ZSCACC and operand conversions use whatever RM holds (R62). -/
def Rounding.nearest : Rounding := { mode := .rne }

/-- The shared hash of the generator and SRH (R76). -/
def hash (k x : Word) : Word :=
  let z := x ^^^ k
  let z := (z ^^^ (z >>> 32)) * 0xA3B195C47E5D2F1B#64
  let z := (z ^^^ (z >>> 29)) * 0x8F4E1D37C6A2B569#64
  z ^^^ (z >>> 32)

/-- D[n] = bitreverse5(n) × 8 + 4 (R65). -/
def ditherEntry (n : Nat) : Nat :=
  (n % 2 * 16 + n / 2 % 2 * 8 + n / 4 % 2 * 4 + n / 8 % 2 * 2 + n / 16 % 2) * 8 + 4

/-- w of R64: `rem` of `shift` discarded bits packed into 64, the bits below folded into bit 0. -/
def packDiscarded (rem shift : Nat) : Nat :=
  if shift ≤ 64 then rem * 2 ^ (64 - shift)
  else rem / 2 ^ (shift - 64) ||| (if rem % 2 ^ (shift - 64) = 0 then 0 else 1)

/-- Whether an inexact magnitude rounds away from zero: `sig` is the truncated magnitude, `rem` the discarded part of
`shift` bits (R63-R66). -/
def roundsUp (rd : Rounding) (neg : Bool) (sig rem shift : Nat) : Bool :=
  match rd.mode with
  | .rne => rem * 2 > 2 ^ shift || (rem * 2 == 2 ^ shift && sig % 2 == 1)
  | .rtz => false
  | .rup => !neg
  | .rdn => neg
  | .srd => rem * 256 / 2 ^ shift + ditherEntry ((rd.e + 7 * rd.r) % 32) ≥ 256
  | .srh => (hash rd.seed (word (packDiscarded rem shift))).toNat % 256 < rem * 256 / 2 ^ shift

/-- The magnitude m × 2^e as a whole number of quanta 2^q, rounded. -/
def roundAt (rd : Rounding) (neg : Bool) (m : Nat) (e q : Int) : Nat :=
  if q ≤ e then m * 2 ^ (e - q).toNat
  else
    let shift := (q - e).toNat
    let sig := m / 2 ^ shift
    let rem := m % 2 ^ shift
    if rem = 0 then sig else if roundsUp rd neg sig rem shift then sig + 1 else sig

/-- Whether an overflow under R63 and R64 gives an infinity rather than the largest finite value. -/
def overflowsToInf (rd : Rounding) (neg : Bool) : Bool :=
  match rd.mode with
  | .rne => true
  | .rtz => false
  | .rup => !neg
  | .rdn => neg
  | .srd => true
  | .srh => true

/-- Round a finite value into a format (R57, R62-R66). -/
def roundFin (f : Fmt) (rd : Rounding) (neg : Bool) (m : Nat) (e : Int) : Nat :=
  if m = 0 then f.signBit neg
  else
    let emin : Int := 1 - f.bias
    let lead : Int := e + m.log2
    let q : Int := (if lead < emin then emin else lead) - f.fbits
    let sig := roundAt rd neg m e q
    -- a carry out of the top leaves a power of two
    let (sig, q) := if sig = 2 ^ (f.fbits + 1) then (2 ^ f.fbits, q + 1) else (sig, q)
    let pat := if sig < 2 ^ f.fbits then sig else (q + f.fbits + f.bias).toNat * 2 ^ f.fbits + (sig - 2 ^ f.fbits)
    if pat ≤ f.maxFinite then f.signBit neg + pat
    else if f = .e4m3 ∨ f = .e5m2 then f.signBit neg + f.maxFinite
    else if overflowsToInf rd neg then f.signBit neg + f.inf else f.signBit neg + f.maxFinite

/-- Round an exact value into a format; a NaN becomes the canonical NaN (R55), an infinity follows R57 and R63. -/
def roundF (f : Fmt) (rd : Rounding) : FVal → Nat
  | .nan => f.nan
  | .inf neg => if f = .e4m3 then f.signBit neg + f.maxFinite else f.signBit neg + f.inf
  | .fin neg m e => roundFin f rd neg m e

/-! ### Exact operations -/

/-- The value with its sign changed. -/
def FVal.neg : FVal → FVal
  | .nan => .nan
  | .inf n => .inf (!n)
  | .fin n m e => .fin (!n) m e

/-- The magnitude. -/
def FVal.abs : FVal → FVal
  | .nan => .nan
  | .inf _ => .inf false
  | .fin _ m e => .fin false m e

def FVal.isNaN : FVal → Bool
  | .nan => true
  | _ => false

/-- ±m × 2^e as an integer of quanta 2^q, for q at most e. -/
def scaled (neg : Bool) (m : Nat) (e q : Int) : Int :=
  let x : Int := (m * 2 ^ (e - q).toNat : Nat)
  if neg then -x else x

/-- The value of an integer of quanta 2^q; a zero has the sign given. -/
def ofScaled (zeroNeg : Bool) (x q : Int) : FVal := if x = 0 then .fin zeroNeg 0 0 else .fin (x < 0) x.natAbs q

/-- Exact sum.  An exact zero sum is +0, and −0 under RDN, unless both operands are zeros of one sign (R63). -/
def FVal.add (rdn : Bool) : FVal → FVal → FVal
  | .nan, _ => .nan
  | _, .nan => .nan
  | .inf a, .inf b => if a = b then .inf a else .nan
  | .inf a, .fin _ _ _ => .inf a
  | .fin _ _ _, .inf b => .inf b
  | .fin a m e, .fin b n f =>
    if m = 0 ∧ n = 0 then .fin (if a = b then a else rdn) 0 0
    else
      let q := if e ≤ f then e else f
      ofScaled rdn (scaled a m e q + scaled b n f q) q

/-- Exact product (0 × ∞ is NaN). -/
def FVal.mul : FVal → FVal → FVal
  | .nan, _ => .nan
  | _, .nan => .nan
  | .inf a, .inf b => .inf (a != b)
  | .inf a, .fin b n _ => if n = 0 then .nan else .inf (a != b)
  | .fin a m _, .inf b => if m = 0 then .nan else .inf (a != b)
  | .fin a m e, .fin b n f => .fin (a != b) (m * n) (e + f)

/-- Precision, in bits, to which a quotient or a root is carried before its remainder is folded into its last bit:
53 of the widest format and the 64 and more that R64 looks at below them. -/
def workBits : Nat := 300

/-- Quotient, exact or with its inexactness folded into a last bit far below every bit that R64 names. -/
def FVal.div : FVal → FVal → FVal
  | .nan, _ => .nan
  | _, .nan => .nan
  | .inf _, .inf _ => .nan
  | .inf a, .fin b _ _ => .inf (a != b)
  | .fin a _ _, .inf b => .fin (a != b) 0 0
  | .fin a m e, .fin b n f =>
    if n = 0 then (if m = 0 then .nan else .inf (a != b))
    else
      let top := m * 2 ^ workBits
      .fin (a != b) (top / n * 2 + (if top % n = 0 then 0 else 1)) (e - f - workBits - 1)

/-- Integer square root, by one bit of the root per step from the top. -/
def isqrtFrom : Nat → Nat → Nat → Nat
  | 0, _, r => r
  | k + 1, x, r => if (r + 2 ^ k) * (r + 2 ^ k) ≤ x then isqrtFrom k x (r + 2 ^ k) else isqrtFrom k x r

/-- ⌊√x⌋ -/
def isqrt (x : Nat) : Nat := isqrtFrom (x.log2 / 2 + 1) x 0

/-- Square root: √−0 is −0, and NaN below (R86). -/
def FVal.sqrt : FVal → FVal
  | .nan => .nan
  | .inf neg => if neg then .nan else .inf false
  | .fin neg m e =>
    if m = 0 then .fin neg 0 0
    else if neg then .nan
    else
      -- an even exponent, and room for the bits of R64
      let (m, e) := if e % 2 = 0 then (m, e) else (m * 2, e - 1)
      let x := m * 2 ^ 400
      let r := isqrt x
      .fin false (r * 2 + (if r * r = x then 0 else 1)) (e / 2 - 200 - 1)

/-- Order of values that are not NaN; −0 equals +0. -/
def FVal.compare : FVal → FVal → Ordering
  | .inf a, .inf b => if a = b then .eq else if a then .lt else .gt
  | .inf a, _ => if a then .lt else .gt
  | _, .inf b => if b then .gt else .lt
  | .fin a m e, .fin b n f =>
    let q := if e ≤ f then e else f
    let x := scaled a m e q
    let y := scaled b n f q
    if x < y then .lt else if x = y then .eq else .gt
  | _, _ => .eq

/-- x = y, x < y and x ≤ y of floats: false when either is NaN (R86, R220). -/
def FVal.eq (x y : FVal) : Bool := !x.isNaN && !y.isNaN && x.compare y == .eq
def FVal.lt (x y : FVal) : Bool := !x.isNaN && !y.isNaN && x.compare y == .lt
def FVal.le (x y : FVal) : Bool := !x.isNaN && !y.isNaN && x.compare y != .gt

/-- Sign of a value. -/
def FVal.isNeg : FVal → Bool
  | .nan => false
  | .inf n => n
  | .fin n _ _ => n

/-- Minimum of two patterns under R56: the operand's own bits, −0 below +0, the other operand for one NaN. -/
def minBits (f : Fmt) (x y : Nat) : Nat :=
  let a := f.value x
  let b := f.value y
  if a.isNaN then (if b.isNaN then f.nan else y)
  else if b.isNaN then x
  else if a.compare b == .eq then (if a.isNeg then x else y)
  else if a.compare b == .lt then x else y

/-- Maximum of two patterns under R56. -/
def maxBits (f : Fmt) (x y : Nat) : Nat :=
  let a := f.value x
  let b := f.value y
  if a.isNaN then (if b.isNaN then f.nan else y)
  else if b.isNaN then x
  else if a.compare b == .eq then (if a.isNeg then y else x)
  else if a.compare b == .lt then y else x

/-- An integer as a value. -/
def ofInt (x : Int) : FVal := .fin (x < 0) x.natAbs 0

/-- A value rounded to an integer and saturated to `width` signed bits; NaN gives 0 (R67). -/
def toInt (width : Nat) (rd : Rounding) : FVal → Int
  | .nan => 0
  | .inf neg => if neg then -(2 ^ (width - 1) : Nat) else (2 ^ (width - 1) : Nat) - 1
  | .fin neg m e =>
    let n : Int := roundAt rd neg m e 0
    saturate width (if neg then -n else n)

/-- A pattern of one format in another, exact or rounded (R41, R67). -/
def convert (src dst : Fmt) (rd : Rounding) (x : Nat) : Nat := roundF dst rd (src.value x)

/-- The class mask of a pattern (R87). -/
def classMask (f : Fmt) (x : Nat) : Nat :=
  let neg := bitAt x (f.width - 1)
  match f.value x with
  | .nan => if f ≠ .e4m3 ∧ !bitAt x (f.fbits - 1) then 2 ^ 9 else 2 ^ 8
  | .inf _ => if neg then 2 ^ 7 else 2 ^ 3
  | .fin _ m _ =>
    let c := if m = 0 then 0 else if fieldOf x f.fbits f.ebits = 0 then 1 else 2
    2 ^ (c + if neg then 4 else 0)

/-! ### Sums of fixed shape (R73) -/

/-- The least power of two at or above n. -/
def powerAbove (n : Nat) : Nat := if n ≤ 1 then 1 else 2 ^ ((n - 1).log2 + 1)

/-- One level of HalvingSum: position i of the lower half with position i + half; `none` is the identity. -/
def halveLevel (op : Nat → Nat → Nat → Nat) : Nat → List (Option Nat) → List (Option Nat) → List (Option Nat)
  | i, x :: xs, y :: ys =>
    (match x, y with
      | some a, some b => some (op i a b)
      | some a, none => some a
      | none, b => b) :: halveLevel op (i + 1) xs ys
  | _, xs, [] => xs
  | _, [], ys => ys

/-- HalvingSum over 2^k positions (R73); `op i` combines two values at position i of a level. -/
def halvingSum (op : Nat → Nat → Nat → Nat) : Nat → List (Option Nat) → Option Nat
  | 0, xs => xs.headD none
  | k + 1, xs => halvingSum op k (halveLevel op 0 (xs.take (2 ^ k)) (xs.drop (2 ^ k)))

/-- The sum of a list of values and identities under R73: over 2^⌈log2 n⌉ positions. -/
def fixedSum (op : Nat → Nat → Nat → Nat) (xs : List (Option Nat)) : Option Nat :=
  halvingSum op (powerAbove xs.length).log2 xs

/-- One addition of patterns, rounded. -/
def addBits (f : Fmt) (rd : Rounding) (x y : Nat) : Nat :=
  roundF f rd ((f.value x).add (rd.mode == .rdn) (f.value y))

end Sys2Proof.Machine
end

