-- ==== Sys2Proof/Machine/State.lean ====
section
/-!
DEFINITION. The state of the machine: a gang pair of two cores, the device around them, and the acts to come.

Everything is plain data.  Registers are bit vectors; a vector register, a mask and an accumulator tile are numbers
whose bits are the bytes the chapters lay out (R22, R252).  The last three fields of State are the model's own.
-/

namespace Sys2Proof.Machine

/-- Bytes of a memory or a typed buffer at the addresses that hold something other than 0, in rising order (log 4). -/
abbrev Mem := List Host.Cell

/-- A context of a core (R24). -/
abbrev CtxId := ContextId

/-! ### Records of traps (R394-R400) -/

/-- The trap-record registers TCAUSE, TVAL, TEPC, TELT, TSTAT and ROWPROG of a context (R412). -/
structure TrapRegs where
  cause : BitVec 8 := 0
  val : Word := 0
  epc : Word := 0
  elt : Word := 0
  stat : Word := 0
  row : BitVec 5 := 0
  deriving DecidableEq, Repr

/-- A trap as an instruction raises it: TEPC is the instruction itself where `epc` names no other address. -/
structure Trap where
  cause : BitVec 8
  val : Word := 0
  elt : Word := 0
  row : BitVec 5 := 0
  epc : Option Word := none
  deriving DecidableEq, Repr

/-- What RTE acts on for a record (R404, R405). -/
inductive RecordOf where
  /-- a hart of this core, in the context TSTAT.CTX -/
  | hart
  /-- an EVICT or LANE record: the contexts it stopped -/
  | stops (ctxs : List UserCtx)
  /-- a RESTORE record: the hart whose scalar image TVAL names -/
  | restore (hart : BitVec 48)
  /-- a copy command or a follow-on MMA, by its ticket -/
  | command (ticket : Word)
  /-- a remote element that this device serves for another one: a read, or the data of a push -/
  | request (r : RemoteRequest) (data : Option Word)
  /-- a record that the device posts about itself -/
  | device
  deriving DecidableEq, Repr

/-- A record of the trap queue. -/
structure Record where
  regs : TrapRegs
  of : RecordOf
  deriving DecidableEq, Repr

/-- A fault that an engine keeps for the instruction that delivers it (R152, R174, R175). -/
structure Held where
  cause : BitVec 8
  val : Word
  elt : Word := 0
  row : BitVec 5 := 0
  deriving DecidableEq, Repr

/-! ### Parts of a hart -/

/-- An absmax ring (R70). -/
structure Ring where
  entries : Vector (BitVec 32) 16 := Vector.replicate 16 0
  head : BitVec 4 := 0
  deriving DecidableEq, Repr

/-- A circular buffer (R155). -/
structure CircBuf where
  init : Bool := false
  base : Word := 0
  buf : BufId := .x
  localBase : Nat := 0
  slot : BitVec 24 := 0
  count : BitVec 8 := 0
  free : BitVec 8 := 0
  filled : BitVec 8 := 0
  held : BitVec 8 := 0
  p : BitVec 8 := 0
  c : BitVec 8 := 0
  deriving DecidableEq, Repr

/-- What lives in a partition of the vector register file: v, m, the rings and the circular buffers (R22, R70, R155). -/
structure VecState where
  v : Vector Nat 64 := Vector.replicate 64 0
  m : Vector Nat 8 := Vector.replicate 8 0
  rings : Vector Ring 16 := Vector.replicate 16 {}
  bufs : Vector CircBuf 16 := Vector.replicate 16 {}
  deriving DecidableEq, Repr

/-- A matrix descriptor (R237). -/
structure Descriptor where
  va : Word := 0
  stride : Word := 0
  deriving DecidableEq, Repr

/-- The phase of a stream (R171). -/
inductive Phase where
  | unset | loaded | armed | running | done
  deriving DecidableEq, Repr

/-- An element that a stream engine has fetched ahead of its pop (R174, R176, R182). -/
inductive Fetched where
  | value (x : Nat)
  | fault (h : Held)
  | poisoned
  /-- its fault has been raised; it is read again at the restart -/
  | again
  deriving DecidableEq, Repr

/-- How far the addition at FLAG of a stream has come (R175). -/
inductive DoneAdd where
  | due | made | failed (h : Held)
  /-- made before any SWAIT waited for it, in a run in which none does (R318, log 74) -/
  | early
  /-- a push of the stream has failed, so that it is not made (R328) -/
  | never
  deriving DecidableEq, Repr

/-- A stream (R171, R172): the spec as its 64 bytes. -/
structure Stream where
  spec : BitVec 512 := 0
  cond : Word := 0
  threshold : Word := 0
  position : Word := 0
  bound : Option Reg := none
  phase : Phase := .unset
  /-- elements fetched ahead, from the position on -/
  ahead : List Fetched := []
  /-- pushes of the hart that precede the last SBAR: fetching waits until they have reached their homes (R176) -/
  after : Nat := 0
  /-- a fault of the condition read that the next pop or SWAIT raises, or of a remote push that SWAIT raises -/
  condFault : Option Held := none
  doneAdd : DoneAdd := .due
  deriving DecidableEq, Repr

/-- A watermark register (R283): WORD, BASE, LIMIT, UNIT. -/
structure Watermark where
  word : Word := 0
  base : Word := 0
  limit : Word := 0
  unit : Word := 0
  deriving DecidableEq, Repr

/-- An entry of the binding table (R278). -/
structure Binding where
  object : Word
  base : Word
  length : Word
  deriving DecidableEq, Repr

/-- An entry of the arrival table (R322, R324): a descriptor and the generation that the hart awaits on it. -/
structure Arrival where
  va : Word
  gen : Word
  /-- no XWAIT has removed its pending mark -/
  pending : Bool := true
  deriving DecidableEq, Repr

/-- An entry of the membership table (R286). -/
structure Membership where
  va : Word
  gen : Word
  /-- the hart has arrived in generation `gen` and awaits its completion -/
  pending : Bool
  deriving DecidableEq, Repr

/-- A pending PWAIT (R298, R299): its cell and its destination register. -/
structure PendingPromise where
  cell : Word
  dest : Reg
  deriving DecidableEq, Repr

/-- Where an address leads once it is translated: main memory, a typed buffer of a core, a notify register,
the power window of a core or the weight of a queue (R122, R138, R289, R365, R389). -/
inductive Place where
  | main (pa : Nat)
  | buffer (core : CoreId) (b : BufId) (addr : Nat)
  | notify (core : Nat) (n : Nat)
  | power (core : Nat) (offset : Nat)
  | weight (q : QueueId)
  | apertureZ (addr : Nat)
  | device
  deriving DecidableEq, Repr

/-- A link that VLDL made for one element (R167). -/
structure Link where
  active : Bool
  va : Word
  place : Place
  sew : BitVec 2
  gen : Nat
  deriving DecidableEq, Repr

/-- A read that a load has issued and that has not obtained its bytes (R304): its place and size, the items of the open
strip that stand before it, and the bits of the result that it gives, sign-extended where `sext` says so. -/
structure PendingRead where
  place : Place
  bytes : Nat
  upTo : Nat
  lo : Nat
  width : Nat
  sext : Bool
  deriving DecidableEq, Repr

/-- A long-latency result on its way to its register (R32): the register's content as far as it is known, and the reads
that have still to perform. -/
structure Fill where
  /-- v0-v63, or g and a -/
  vector : Bool
  reg : Reg
  value : Nat
  reads : List PendingRead := []
  deriving DecidableEq, Repr

/-- An unordered float sum in main memory: its operands since the last other write of its bytes (R75, R327). -/
structure FloatSum where
  pa : Nat
  log2Size : Fin 4
  bf : Bool
  leaves : List Nat
  deriving DecidableEq, Repr

/-- One uncommitted effect in the open strip (R177). -/
inductive StripItem where
  /-- the elements of one store instruction, or its one datum: place, bytes and data -/
  | stores (elems : List (Place × Nat × Nat))
      /- the runs that its elements already performed have written in lines and words that are still poisoned (R136, R140) -/
      (wrote : List (Place × Nat) := [])
  /-- an addition; `free` where its order and grouping with others at its address are open (R169, R75) -/
  | scatter (add : ScatterAdd) (free : Bool)
  | push (device : BitVec 16) (stream : StreamId) (va : Word) (bytes : Nat) (data : Nat)
  | command (ticket : Word)
  deriving DecidableEq, Repr

/-- What a discarded strip gives back (R180, R182): the registers, the streams' positions, bindings and phases,
the strip element base and the next instruction as they stood at the last commit. -/
structure Checkpoint where
  pc : Word := 0
  /-- the registers, vector and scalar, whose results were then on their way, and still are -/
  owed : List (Bool × Reg) := []
  elemBase : Word := 0
  x : Vector Word 48 := Vector.replicate 48 0
  v : Vector Nat 64 := Vector.replicate 64 0
  m : Vector Nat 8 := Vector.replicate 8 0
  vl : BitVec 32 := 0
  vrows : BitVec 6 := 1
  vst : Word := 0
  vcfg : Word := 0
  names : BitVec 7 := 32
  streams : List (Word × Option Reg × Phase) := []
  deriving DecidableEq, Repr

/-- An operand of an MMA as it was read at issue (R239, R413). -/
inductive MmaOperand where
  | descriptor (d : Descriptor)
  | generator (k : BitVec 256) (table : BitVec 2048)
  deriving DecidableEq, Repr

/-- An MMA in hand: its word with the word's fields, and its operands (R240, R413). -/
structure MmaWork where
  word : BitVec 32
  z : BitVec 4
  fmt : BitVec 4
  kn : BitVec 2
  acc : Bool
  a : MmaOperand
  b : MmaOperand
  deriving DecidableEq, Repr

/-- The addition at FLAG of a finished stream whose place has been given to another: its stream, and the pushes of the hart
that may precede it (R175). -/
structure OwedAdd where
  id : StreamId
  stream : Stream
  before : Nat
  deriving DecidableEq, Repr

/-- How far a copy command has come (R148-R156). -/
inductive CopyPhase where
  /-- waits for the strip that was open when it was issued (R149) -/
  | held
  | queued
  /-- every byte written; its completion is due -/
  | moved
  /-- stopped at a PFAULT whose record is with firmware (R151) -/
  | stopped
  /-- its launch is cancelled or fenced: it moves on to the next 64-byte boundary and is discarded (R151) -/
  | ending
  deriving DecidableEq, Repr

/-- A part of a row that the copy engine has read and not yet written: its offset in the row, its bytes and data, and the
runs of its bytes that come from a poisoned line of main memory (R136, R148). -/
structure RowPart where
  off : Nat
  bytes : Nat
  data : Nat
  taint : List (Nat × Nat) := []
  deriving DecidableEq, Repr

/-- A copy command (R145-R149, R153). -/
structure CopyCmd where
  ticket : Word
  /-- address of the CPY or CPYMMA, for TEPC of its records -/
  pc : Word
  src : Word
  dst : Word
  shape : Word
  strides : Word
  follow : Option MmaWork
  phase : CopyPhase
  /-- the engine has started it -/
  started : Bool := false
  /-- bytes already written -/
  progress : Nat := 0
  /-- the part of the row in hand that has been read and not written -/
  parts : List RowPart := []
  /-- slot base of a command into a circular buffer, once started -/
  slotBase : Option Nat := none
  /-- buffer and buffer-local address of the first byte of a side on an aperture page (R150) -/
  srcBuf : Option (BufId × Nat) := none
  dstBuf : Option (BufId × Nat) := none
  /-- the runs that it has written in lines and words that are still poisoned (R136, R140) -/
  wrote : List (Place × Nat) := []
  /-- its place in the hand-off order of its core (R77) -/
  age : Nat := 0
  deriving DecidableEq, Repr

/-- A follow-on MMA handed to the matrix unit (R154). -/
structure FollowOn where
  ticket : Word
  /-- the place of its CPYMMA in the hand-off order of the core (R77) -/
  age : Nat := 0
  pc : Word
  work : MmaWork
  row : Nat
  /-- it has begun, and its cycles have been queued (R379) -/
  started : Bool
  /-- stopped at a PFAULT whose record is with firmware -/
  stopped : Bool
  /-- LEN x ROWS of the copy, for the record of an abort (R152) -/
  bytes : Nat
  deriving DecidableEq, Repr

/-- An end of a copy command that CPYWAIT has not reported yet (R152). -/
inductive CopyReport where
  | discarded (ticket : Word)
  | aborted (ticket : Word) (h : Held)
  deriving DecidableEq, Repr

/-- Partition sizes (R24, R356). -/
inductive Part where
  | whole | half | quarter
  deriving DecidableEq, Repr

/-- What a hart keeps of its launch (R352, R356, R375). -/
structure LaunchLink where
  launch : Word := 0
  graph : Word := 0
  phase : Word := 0
  job : Word := 0
  index : Nat := 0
  harts : Nat := 0
  root : Word := 0
  part : Part := .whole
  prio : BitVec 3 := 0
  slotw : BitVec 5 := 0
  queue : QueueId := 0
  compl : Word := 0
  deriving DecidableEq, Repr

/-- What a waiting context waits for (R276, R152, R158, R161, R199, R370, R373, R285). -/
inductive Wait where
  /-- in ACQ: the object's VA and its home address -/
  | acq (va : Word) (pa : Nat)
  /-- in BAR: the barrier's home address and the generation awaited -/
  | bar (va : Word) (pa : Nat) (gen : Word)
  | waitn (n : BitVec 4)
  /-- a vector load or pop stalled by a watermark: the word's VA and the count it must exceed -/
  | watermark (word : Word) (count : Nat)
  /-- in LAUNCH, for a pool entry and the records of its identifiers (R353, R370) -/
  | launch (link : LaunchLink)
  | cwait (level : BitVec 3) (id : Word)
  | cpywait (ticket : Word)
  | copyQueue
  | cbwait (cb : BitVec 4)
  | cbinit (cb : BitVec 4)
  | promises
  | swait (st : StreamId)
  | pop (st : StreamId)
  /-- in XWAIT, XRED or XBAR: the descriptor's VA, its home address and the generation awaited -/
  | xwait (va : Word) (pa : Nat) (gen : Word)
  | arrivals
  | gang
  /-- parked in GANG on the upper core -/
  | parked
  | exit
  | wfn
  | fills
  /-- an accumulator instruction, or a write at its home, that follows a follow-on (R154, R241) -/
  | followOns
  /-- the commit of the strip, whose next effect follows a follow-on, or is a release (R241, R289) -/
  | strip
  /-- a release: the operand reads of follow-ons, and under SYSTEM scope the pushes to other devices (R317, R326) -/
  | release (system : Bool)
  /-- CBREL: reads of the buffer (R159) -/
  | cbrel (cb : BitVec 4)
  /-- a copy command whose range the instruction's operands overlap (R150) -/
  | copyRange (ticket : Word)
  deriving DecidableEq, Repr

/-- What a context does (R367, R394, R404). -/
inductive Status where
  | free
  | running
  | waiting (w : Wait)
  | trapped
  /-- stopped by a service record, or placed by SIN and not yet resumed -/
  | stopped
  deriving DecidableEq, Repr

/-- The gang state of a hart (R199-R202). -/
inductive Gang where
  | none | lower | parked
  deriving DecidableEq, Repr

/-- The counters of ADVSTAT (R345). -/
structure AdvStat where
  dropf : BitVec 16 := 0
  dropop : BitVec 8 := 0
  marklost : BitVec 8 := 0
  realign : BitVec 8 := 0
  idle : BitVec 8 := 0
  reset : BitVec 8 := 0
  deriving DecidableEq, Repr

/-- The registers and tables of a hart.  The value of each field here is the one R25 gives it at hart start,
where R25 names one, and 0 or empty otherwise. -/
structure Hart where
  pc : Word := 0
  /-- no instruction of the hart has been reached yet (R43) -/
  first : Bool := true
  /-- g0-g31 and a0-a15 in the numbering of R39 -/
  x : Vector Word 48 := Vector.replicate 48 0
  /-- full/empty bits: 1 = full (R32) -/
  full : BitVec 48 := BitVec.allOnes 48
  vfull : BitVec 64 := BitVec.allOnes 64
  fills : List Fill := []
  vec : VecState := {}
  vl : BitVec 32 := 0
  vrows : BitVec 6 := 1
  vst : Word := 0
  vcfg : Word := 0
  names : BitVec 7 := 32
  vlmax : BitVec 16 := 0
  vlazy : Bool := false
  reloc : Bool := false
  shrunk : Bool := false
  md : Vector Descriptor 8 := Vector.replicate 8 {}
  k : Vector (BitVec 256) 8 := Vector.replicate 8 0
  freq : Vector (BitVec 2048) 8 := Vector.replicate 8 0
  streams : Vector Stream 8 := Vector.replicate 8 {}
  w : Vector Watermark 8 := Vector.replicate 8 {}
  c : Vector Word 64 := Vector.replicate 64 0
  seq : Word := 0
  cmds : List CopyCmd := []
  followOns : List FollowOn := []
  copyReports : List CopyReport := []
  strip : List StripItem := []
  stripCount : BitVec 5 := 0
  /-- the model's own: how many effects the next commit of the strip makes in its act, or how many elements or rows an
  instruction that stores outside it, or an MMA, where not all (R240, R303, R304, log 2) -/
  pace : Option Nat := none
  /-- pushes to other devices that the hart has sent so far -/
  pushes : Nat := 0
  /-- additions at FLAG that no SWAIT can wait for any more (R175) -/
  additions : List OwedAdd := []
  /-- STRIPC has executed and waits for the loads of the strip (R179) -/
  closing : Bool := false
  elemBase : Word := 0
  checkpoint : Checkpoint := {}
  links : List Link := []
  bindings : List Binding := []
  barriers : List Membership := []
  arrivals : List Arrival := []
  promises : List PendingPromise := []
  /-- a grant of ACQ that its hart has not taken yet: the object's VA, and the D of R279 -/
  grant : Option (Word × Word) := none
  trap : TrapRegs := {}
  /-- elements, or bytes, that the instruction at `pc` has done before a wait or a trap (R162, R285) -/
  eltDone : Nat := 0
  /-- the model's own: the element at which the instruction in hand will stop, within its step (R174) -/
  eltEnd : Option Nat := none
  /-- the model's own: the instruction at `pc` over whole tiles has trapped on a popped element, and has done nothing yet
  (log 60) -/
  popFault : Bool := false
  /-- CAPPEND has made its reservation, and writes the elements from `eltDone` on at this BASE (R170) -/
  appending : Option Word := none
  /-- rows that the MMA at `pc` has done (R240) -/
  rowDone : Nat := 0
  mma : Option MmaWork := none
  /-- the model's own: a trap whose entry waits until the open strip can commit (R241, R394) -/
  trapDue : Option Trap := none
  /-- fetched blocks, by address, as 16 words (R44) -/
  blocks : List (Nat × List (BitVec 32)) := []
  id : BitVec 48 := 0
  link : LaunchLink := {}
  /-- first quarter of the hart's region of the register file (R24) -/
  quarter : Fin 4 := 0
  /-- the version of the launch's book that the hart's advice context runs (R344) -/
  bookVersion : Nat := 0
  gang : Gang := .none
  /-- the parked hart of a ganged hart (R200) -/
  partner : BitVec 48 := 0
  /-- N before GANG, for UNGANG (R201) -/
  soloNames : BitVec 7 := 32
  /-- its parked partner was killed while it was switched out, so that it is ganged no more (R202; the model's own) -/
  split : Bool := false
  adv : AdvStat := {}
  nrg : BitVec 48 := 0
  /-- a CANCELLED that is due: the identifier CANCEL named (R372) -/
  cancelled : Option Word := none
  /-- a FENCED that is due (R417) -/
  fenceDue : Bool := false
  /-- GANG completes with this status when it executes again (R199, R202, R214) -/
  verdict : Option Word := none
  /-- the wait that an EVICT or LANE record made the hart abandon, for its eligibility once it is switched out (R361) -/
  abandoned : Option Wait := none
  /-- the vector image and accumulator image VAs of the scalar image (R413) -/
  vimage : Word := 0
  zimage : Word := 0
  zsaved : Bool := false
  deriving DecidableEq, Repr

/-- A user context of a core. -/
structure Ctx where
  status : Status := .free
  hart : Hart := {}
  /-- cycle of the core at which the context became resident (R366) -/
  since : Nat := 0
  /-- SIN has placed the hart, and no record has stopped it since (R343) -/
  restored : Bool := false
  /-- its share of the static energy of the core's present cycle, which NRG takes when the cycle ends (R391) -/
  share : Nat := 0
  deriving DecidableEq, Repr

/-! ### The book and the Second (R329-R345) -/

/-- g0-g31 and a0-a15 as a MARK latched them; none for a register that was empty (R93). -/
abbrev Snapshot := Vector (Option Word) 48

/-- An entry of the mark queue. -/
structure Mark where
  id : BitVec 20
  snap : Snapshot
  deriving DecidableEq, Repr

/-- An action that its unit has not accepted yet (R334). -/
inductive Action where
  | prefetch (kind : Nat) (base : Word) (count : Nat)
  | home (frame : Nat) (die : Nat)
  | prio (level : BitVec 2)
  | order (code : BitVec 2)
  | awake (groups : BitVec 8)
  deriving DecidableEq, Repr

/-- An advice context (R330). -/
structure Advice where
  running : Bool := false
  pc : Nat := 0
  d : Vector Word 16 := Vector.replicate 16 0
  marks : List Mark := []
  snap : Option Snapshot := none
  lastId : Option (BitVec 20) := none
  actions : List Action := []
  ap : BitVec 2 := 1
  ord : BitVec 2 := 0
  deriving DecidableEq, Repr

/-- A book in the advice store (R331, R113). -/
structure Book where
  launch : Word
  /-- 0 for the launch's own book, and one more for each replacement (R344) -/
  version : Nat
  code : List (BitVec 32)
  /-- (mark id, word offset of its resume point) -/
  index : List (Nat × Nat)
  deriving DecidableEq, Repr

/-! ### Parts of a core -/

/-- The kind of an accumulator slot (R239). -/
inductive ZKind where
  | fp64 | fp32 | int32
  deriving DecidableEq, Repr

/-- A bound accumulator slot (R242): its number, its owner and its tile, entry (i, j) in bits 64(32i + j). -/
structure Slot where
  number : BitVec 7
  owner : BitVec 48
  handle : BitVec 4
  kind : ZKind
  tile : Nat
  /-- poisoned entries, by 32i + j (R140) -/
  poison : List Nat := []
  deriving DecidableEq, Repr

/-- A region of the register file that a switched-out hart still owns (R410, R416). -/
structure LazyRegion where
  owner : BitVec 48
  part : Part
  quarter : Fin 4
  vec : VecState
  names : BitVec 7
  vlmax : BitVec 16
  shrunk : Bool
  /-- VA of the owner's scalar image -/
  image : Word
  deriving DecidableEq, Repr

/-- Power stages of a lane group or a core (R385). -/
inductive Power where
  | on
  | hold
  /-- the switches open; `wake` records a request that arrived meanwhile -/
  | opening (wake : Bool)
  | gated
  /-- in the in-rush arbiter's queue, or turning on -/
  | waking
  deriving DecidableEq, Repr

/-- The classes of the activity meter (R378, R379). -/
inductive ActClass where
  | scal | vint | vf32 | vf64 | vmem | mlo | mhi | zsc | copy | gen
  /-- an MMA cycle together with the generator cycle that feeds it -/
  | mloGen | mhiGen
  deriving DecidableEq, Repr

/-- Busy cycles that a unit has still to start, oldest first (R377). -/
structure Busy where
  /-- the context that the work is for, and its hart -/
  core : CoreId
  ctx : UserCtx
  hart : BitVec 48
  cls : ActClass
  cycles : Nat
  /-- the place of its instruction or command in the hand-off order of the core (R77) -/
  age : Nat := 0
  /-- one of its cycles has been admitted -/
  started : Bool := false
  /-- one of its cycles has been withheld (R381) -/
  withheld : Bool := false
  deriving DecidableEq, Repr

/-- A typed-buffer piece that a launch holds, or that keeps the ASN of the last one that did (R140). -/
structure Piece where
  buf : BufId
  number : Nat
  /-- 0 when no launch holds it -/
  launch : Word
  asn : BitVec 16
  deriving DecidableEq, Repr

/-- A translation that a core keeps (R126): the leaf entry of a 64 KiB page under an address-space number, and its level. -/
structure CachedLeaf where
  asn : BitVec 16
  page : BitVec 39
  pte : Word
  level : BitVec 2
  deriving DecidableEq, Repr

/-- A firmware image that a core takes at its next WFN (R442): its digest, and the cells that its start puts into memory. -/
structure StagedImage where
  digest : BitVec 512
  cells : List Host.Cell
  deriving DecidableEq, Repr

/-- A core. -/
structure Core where
  ctxs : Vector Ctx 4 := Vector.replicate 4 {}
  fw : Hart := {}
  fwStatus : Status := .running
  tvec : Word := 0
  fwroot : Word := 0
  fatalrec : Word := 0
  fatal : List Record := []
  ordinary : List Record := []
  /-- records that wait outside the queue, oldest first (R397) -/
  outside : List Record := []
  inHand : Option Record := none
  ctxsel : BitVec 3 := 0
  lanemap : BitVec 64 := BitVec.allOnes 64
  grant : BitVec 13 := 4096
  gcap : BitVec 13 := 4096
  allow : BitVec 8 := 0xFF
  withdrawn : BitVec 8 := 0
  actw : Word := 0
  meter : BitVec 8 := 0
  busy : List Busy := []
  /-- instructions and commands handed to the units so far, which numbers their order (R77; the model's own) -/
  handed : Nat := 0
  nrgw : Word := 0
  nrgs : BitVec 16 := 1200
  srhen : Word := 0
  slottab : Vector (BitVec 4) 32 := Vector.replicate 32 7
  cycles : Word := 0
  /-- the context that used the previous entry (R367) -/
  lastCtx : Option CtxId := none
  clock : Bool := true
  notify : Vector Word 16 := Vector.replicate 16 0
  latch : Vector Word 16 := Vector.replicate 16 0
  power : Power := .on
  groups : Vector Power 8 := Vector.replicate 8 .on
  bufW : Mem := []
  bufX : Mem := []
  /-- poisoned 8-byte words (R140) -/
  poisonW : List Nat := []
  poisonX : List Nat := []
  /-- the translations in the core's cache (R126) -/
  tlb : List CachedLeaf := []
  /-- generation counts of the lines of X that VLDL has linked (R167; the model's own for a buffer, log 53) -/
  gensX : List (Nat × Nat) := []
  pieces : List Piece := []
  slots : List Slot := []
  lazyRegions : List LazyRegion := []
  fenced : Bool := false
  stagedFw : Option StagedImage := none
  advice : Vector Advice 4 := Vector.replicate 4 {}
  books : List Book := []
  /-- corrected errors by lane and cycle, for the count of R420 -/
  corrected : List (Lane × Nat) := []
  deriving DecidableEq, Repr

/-! ### The device -/

/-- Where a frame lives and how it has been used (R116, R128): kept for the frames that differ from the model's
initial placement with all counters 0 (log 9). -/
structure FrameInfo where
  frame : Nat
  home : SliceId
  counts : Vector (BitVec 16) 4
  /-- AHOME's die and the epochs it still holds -/
  hint : Option (Fin 4 × Nat)
  /-- target slice of a move in progress -/
  move : Option SliceId
  /-- a promise access has used it: it never moves (R130) -/
  promise : Bool := false
  deriving DecidableEq, Repr

/-- A hart queued at a sync object or waiting at a barrier (R279, R287), by its HARTID. -/
structure Waiter where
  hart : BitVec 48
  /-- home address of the object -/
  pa : Nat
  va : Word
  prio : BitVec 3
  /-- the pool was full: the waiter polls from its core -/
  polls : Bool
  /-- the object has been granted to it: the D of its ACQ, which the grant has still to bring (R279) -/
  granted : Option Bool
  deriving DecidableEq, Repr

/-- A pending PWAIT registered at the root of its class (R298). -/
structure PromiseWaiter where
  hart : BitVec 48
  /-- VA of the cell that its PWAIT names -/
  cell : Word
  /-- home address of the root -/
  root : Nat
  dest : Reg
  polls : Bool
  deriving DecidableEq, Repr

/-- A hart waiting for a notify register of its core (R290). -/
structure NotifyWaiter where
  core : CoreId
  hart : BitVec 48
  register : BitVec 4
  deriving DecidableEq, Repr

/-- A member of a barrier as its home slice knows it (R286): the hart, the barrier's VA and its home address. -/
structure Member where
  hart : BitVec 48
  va : Word
  pa : Nat
  deriving DecidableEq, Repr

/-- A completion record of an identifier at a level (R353). -/
structure Completion where
  level : BitVec 3
  id : Word
  job : Word
  out : Nat
  failed : Nat
  cancelled : Bool
  deriving DecidableEq, Repr

/-- A host queue (R354, R436). -/
structure HostQueue where
  qbase : Word := 0
  en : Bool := false
  level : BitVec 3 := 0
  log2n : BitVec 5 := 1
  tail : BitVec 16 := 0
  head : BitVec 16 := 0
  weight : BitVec 8 := 1
  deficit : Int := 0
  /-- EN was cleared while a slot was being fetched (R445) -/
  inFlight : Bool := false
  deriving DecidableEq, Repr

/-- The start values a launch gives its harts, read when it is accepted (R357, R370). -/
structure Launch where
  link : LaunchLink
  entry : Word
  paired : Bool
  wpc : Nat
  xpc : Nat
  x : Vector Word 48
  md : Vector Descriptor 8
  w : Vector Watermark 8
  c : Vector Word 64
  vcfg : Word
  streams : Vector Stream 8
  /-- the book's code and index, if one is named -/
  book : Option (List (BitVec 32) × List (Nat × Nat))
  deriving DecidableEq, Repr

/-- A launch that is accepted and not yet placed: a pool entry, or the accepted head of a ring (R363, R370). -/
structure PoolEntry where
  launch : Launch
  fromRing : Bool
  deriving DecidableEq, Repr

/-- A switched-out context (R361, R410), with what its image has no place for. -/
structure SwitchedOut where
  /-- the hart as it left, without the contents of its vector registers; the cancel, the fence and the verdict of its parked
  GANG reach it here -/
  hart : Hart
  image : Word
  /-- the core and the context that it left -/
  core : CoreId
  ctx : UserCtx
  /-- energy of its work since it left (R391) -/
  carry : Nat := 0
  /-- held by a selection whose RESTORE record is unserved -/
  selected : Bool := false
  deriving DecidableEq, Repr

/-- A placed launch (R353, R374, R417), with its newest book. -/
structure Placed where
  link : LaunchLink
  book : Option Book
  /-- harts not yet ended -/
  live : Nat
  fenced : Bool
  deriving DecidableEq, Repr

/-- A generation of a fabric group at its root slice (R323). -/
structure XGeneration where
  root : Nat
  gen : Word
  /-- every packet that has come, the repeated ones included, in order of arrival -/
  packets : List XPacket
  deriving DecidableEq, Repr

/-- The hart that a push comes from, by its core, HARTID and launch. -/
structure Sender where
  core : CoreId
  hart : BitVec 48
  launch : Word
  deriving DecidableEq, Repr

/-- A message on its way: a remote push, the answer to a remote element's request, a packet of a fabric group, and
what its root sends to participants elsewhere or a hart's end sends to a root elsewhere (R174, R322, R323, R325).  A
packet to another device stays until its generation completes. -/
inductive Outgoing where
  | push (device : BitVec 16) (sender : Sender) (stream : StreamId) (seq : Nat) (va : Word) (bytes : Nat) (data : Nat)
  | reply (r : RemoteRequest) (answer : RemoteReply)
  | packet (device : BitVec 16) (p : XPacket)
  | xresult (p : XPacket) (bytes : Nat) (data : Nat)
  | xstatus (device : BitVec 16) (descriptor : Word) (gen : Word) (status : Nat)
  | xpoison (device : BitVec 16) (root : Word)
  /-- the bytes of a host read through BAR2 (R433) -/
  | bar2 (offset : BitVec 36) (bytes : Nat) (data : Nat)
  deriving DecidableEq, Repr

/-- A completed generation whose results are on their way to other devices: no GEN shows it before they are written (R323).
-/
structure XFinish where
  packets : List XPacket
  status : Nat
  deriving DecidableEq, Repr

/-- A group that a hart's end has still to poison (R325): by its root on this device, or by the descriptor that names it,
under a translation root; and the launch of the hart. -/
structure GroupPoison where
  byDescriptor : Bool
  va : Word
  trRoot : Word
  launch : Word
  deriving DecidableEq, Repr

/-- A report to system software (R439). -/
structure Report where
  kind : BitVec 8
  args : List Word
  deriving DecidableEq, Repr

/-- A part that the in-rush arbiter serves (R386): a lane group of a core; a core shares the entry of its group 0. -/
structure Wake where
  core : CoreId
  group : Fin 8
  deriving DecidableEq, Repr

/-- A translation-invalidate command (R437). -/
structure Tinv where
  asn : BitVec 16
  va : Word
  len : Word
  deriving DecidableEq, Repr

/-- The device around the cores. -/
structure Device where
  mem : Mem := []
  /-- poisoned lines (R136) -/
  poison : List Nat := []
  /-- lost frames (R135) -/
  lost : List Nat := []
  linkmap : BitVec 24 := BitVec.allOnes 24
  /-- slices fenced (R418) -/
  fencedSlices : List SliceId := []
  /-- links that the device has fenced (R134, R435) -/
  fencedLinks : List LinkId := []
  /-- cores fenced among those that the model does not hold (R418, log 1) -/
  fencedElsewhere : List Nat := []
  /-- modules being retired (R134) -/
  retiring : List LinkId := []
  rsv : BitVec 27 := 0x10000
  frames : BitVec 27 := 100597760
  homes : List FrameInfo := []
  /-- generation counts of linked lines, the line linked longest ago first (R167) -/
  gens : List (Nat × Nat) := []
  /-- unordered float sums whose grouping is still open (R75) -/
  sums : List FloatSum := []
  /-- waiters at sync objects, in order of arrival (R279) -/
  acqWaiters : List Waiter := []
  barWaiters : List Waiter := []
  promiseWaiters : List PromiseWaiter := []
  notifyWaiters : List NotifyWaiter := []
  /-- objects that harts hold: the hart and the object's home address (R280) -/
  held : List (BitVec 48 × Nat) := []
  members : List Member := []
  records : List Completion := []
  queues : Vector HostQueue 256 := Vector.replicate 256 {}
  pool : List PoolEntry := []
  /-- descriptors that wait, unaccepted, for a completion record, with their slots (R353) -/
  unaccepted : List (QueueId × Nat × BitVec 2048) := []
  placed : List Placed := []
  switchedOut : List SwitchedOut := []
  lastQueue : Option QueueId := none
  selected : Option PoolEntry := none
  /-- serial of the next hart (R412) -/
  serial : BitVec 32 := 1
  step : BitVec 16 := 0
  devnum : BitVec 16 := 0
  repovf : Bool := false
  ready : Bool := false
  dommap : BitVec 64 := 0
  winbase : Word := 0
  tinvasn : BitVec 16 := 0
  tinvva : Word := 0
  tinvlen : Word := 0
  /-- the command that runs: ASN, first VA and length as GO took them (R437) -/
  tinv : Option Tinv := none
  rrjob : Word := 0
  rrroot : Word := 0
  /-- the job whose root is being removed (R438) -/
  rrLeaving : Option Word := none
  rrErr : Bool := false
  remoteRoots : List (Word × Word) := []
  repbase : Word := 0
  repen : Bool := false
  replog : BitVec 5 := 0
  rephead : Word := 0
  reptail : Word := 0
  repseq : Word := 0
  /-- the report ring in host memory, by entry -/
  reports : List (Nat × List Word) := []
  /-- reports that wait inside the device -/
  waitingReports : List Report := []
  svcarg0 : Word := 0
  svcarg1 : Word := 0
  svccmd : BitVec 8 := 0
  svcBusy : Bool := false
  svcResult : BitVec 8 := 0
  /-- the link of a RETIREMOD command that runs, or that waits for the RECAL of the link (R442, R445) -/
  retiremod : Option LinkId := none
  /-- lanes of a link out of service for a RECAL: kind, link, lane (R443) -/
  recal : List (Bool × BitVec 16 × BitVec 3) := []
  /-- lanes in service of the Sobry links and Quinsia ports that do not run at full width -/
  narrow : List (Bool × BitVec 16 × BitVec 4) := []
  xgroups : List XGeneration := []
  /-- generations completed at each root: (root, generation) -/
  xdone : List (Nat × Word) := []
  poisonedGroups : List Nat := []
  xfinishing : List XFinish := []
  /-- groups that could not be reached when they were to be poisoned -/
  poisonDue : List GroupPoison := []
  /-- other devices that have been fenced (R174, R324) -/
  fencedDevices : List (BitVec 16) := []
  outgoing : List Outgoing := []
  /-- the in-rush arbiter's queue and the parts turning on (R386) -/
  inrush : List Wake := []
  turningOn : List Wake := []
  /-- digests of the boot image and of the firmware image of every core, in core order, for the quote (R444) -/
  bootDigest : BitVec 512 := 0
  fwDigests : List (BitVec 512) := []
  deriving DecidableEq, Repr

/-! ### The machine -/

/-- An act of an agent: a step of the opcode table that no word encodes, the next word of a Second (R329), the end of a hart
elsewhere, a change of a translation cache, or how many effects a hart's next stores make at once. -/
inductive Act where
  | event (i : Instr)
  | second (core : CoreId) (ctx : UserCtx)
  /-- a hart of a launch ends on a core that the model does not hold (log 1) -/
  | ended (launch : Word) (failed : Bool)
  /-- a core keeps the translation that a walk for a context gives now, and drops its n-th one (R126, log 10) -/
  | translationKept (core : CoreId) (ctx : CtxId) (va : Word)
  | translationDropped (core : CoreId) (n : Nat)
  /-- the next commit of a context's strip makes so many effects in its act, or the instruction that stores outside it, or
  the MMA, does so many elements or rows, and goes on later (R240, R303, R304, log 2) -/
  | commitPace (core : CoreId) (ctx : CtxId) (effects : Nat)
  deriving DecidableEq, Repr

/-- Who acts in the present step, and the instruction word in hand. -/
structure Cur where
  core : CoreId := 0
  ctx : CtxId := 4
  /-- the issue cycle has chosen this context: its instruction is part of the same step -/
  issues : Bool := false
  /-- the word that was fetched, as TVAL shows it (R47) -/
  word : BitVec 32 := 0
  deriving DecidableEq, Repr

/-- The state of the machine. -/
structure State where
  cores : Vector Core 4
  dev : Device
  /-- the model's own: who acts (log 2) -/
  cur : Cur
  /-- the model's own: the acts of agents to come, in order; with none, the model's own order applies (log 2) -/
  agenda : List Act
  /-- the model's own: free values taken so far (log 5) -/
  fresh : Nat
  deriving DecidableEq, Repr

/-- Why the machine stops. -/
inductive Fault where
  /-- A host access through BAR2 at a frame that main memory does not have (R116, R433): raised by HOST_BAR2_ACCESS.
  Safe: the spec says that no such address exists, and states no effect for it. -/
  | absentFrame
  deriving DecidableEq, Repr

/-- Why the model declines a step. -/
inductive Refusal where
  /-- An instruction whose meaning has not been written; raised by its arm of exec.  Safe: nothing follows from it. -/
  | notModelled (mnemonic : String)
  deriving DecidableEq, Repr

/-- SLOTTAB after reset (R412): entry 31 names F, the others are idle. -/
def resetSlottab : Vector (BitVec 4) 32 := (Vector.replicate 32 (7 : BitVec 4)).set 31 4

/-- The weights of ACTW after reset (R378). -/
def resetActw : Word :=
  BitVec.ofNat 64 (3 * 2 ^ 48 + 96 * 2 ^ 40 + 1 * 2 ^ 36 + 1 * 2 ^ 32 + 2 * 2 ^ 28 + 3 * 2 ^ 24 + 2 * 2 ^ 20
    + 1 * 2 ^ 16 + 2 * 2 ^ 12 + 2 * 2 ^ 8 + 1 * 2 ^ 4)

/-- The weights of NRGW after reset (R391). -/
def resetNrgw : Word :=
  BitVec.ofNat 64 (4 * 2 ^ 54 + 10 * 2 ^ 48 + 8 * 2 ^ 42 + 50 * 2 ^ 36 + 60 * 2 ^ 30 + 10 * 2 ^ 24 + 16 * 2 ^ 18
    + 12 * 2 ^ 12 + 6 * 2 ^ 6 + 1)

/-- A core after reset (R412, R378-R391): no hart on it, F at TVEC. -/
def resetCore : Core := { actw := resetActw, nrgw := resetNrgw, slottab := resetSlottab }

/-- The machine right after device reset: the boot image has not run, READY is 0 (R435, R440). -/
def State.reset : State :=
  { cores := Vector.replicate 4 resetCore
    dev := {}
    cur := {}
    agenda := []
    fresh := 0 }

end Sys2Proof.Machine
end

