-- ==== Sys2Proof/Machine/Memory.lean ====
section
/-!
DEFINITION. Bytes of memory, the walk of the translation tables, and what each agent may reach (R116-R136, R138, R139).
-/

namespace Sys2Proof.Machine

/-- The byte at an address; an address that is not listed holds 0 (log 4). -/
def Mem.byte : Mem → Nat → Byte
  | [], _ => 0
  | (a, b) :: m, x => if x < a then 0 else if x = a then b else Mem.byte m x

/-- The memory with one byte written, in the same form. -/
def Mem.set : Mem → Nat → Byte → Mem
  | [], x, b => if b = 0 then [] else [(x, b)]
  | (a, c) :: m, x, b =>
    if x < a then (if b = 0 then (a, c) :: m else (x, b) :: (a, c) :: m)
    else if x = a then (if b = 0 then m else (a, b) :: m)
    else (a, c) :: Mem.set m x b

/-- Whether every listed address is at least `lo`, the addresses rise, and no listed byte is 0. -/
def Mem.wfFrom : Nat → Mem → Bool
  | _, [] => true
  | lo, (a, b) :: m => decide (lo ≤ a) && (b != 0) && Mem.wfFrom (a + 1) m

/-- The canonical form of a memory. -/
def Mem.wf (m : Mem) : Bool := Mem.wfFrom 0 m

/-- n bytes at an address, as a little-endian number (R15). -/
def Mem.read (m : Mem) : Nat → Nat → Nat
  | _, 0 => 0
  | a, n + 1 => (m.byte a).toNat + 256 * Mem.read m (a + 1) n

/-- The memory with the n low bytes of x written at an address. -/
def Mem.write (m : Mem) : Nat → Nat → Nat → Mem
  | _, 0, _ => m
  | a, n + 1, x => Mem.write (m.set a (BitVec.ofNat 8 x)) (a + 1) n (x / 256)

/-- The 64-byte line of a physical address. -/
def lineOf (pa : Nat) : Nat := pa / 64

/-- The frame of a physical address (R116). -/
def frameOf (pa : Nat) : Nat := pa / 65536

/-- The line of an address is poisoned (R136). -/
def Device.isPoisoned (d : Device) (pa : Nat) : Bool := d.poison.contains (lineOf pa)

/-- The frame of an address is lost (R135). -/
def Device.isLost (d : Device) (pa : Nat) : Bool := d.lost.contains (frameOf pa)

/-! ### Translation -/

/-- The kinds of an access (R123). -/
inductive Access where
  | fetch | load | store | rmw
  deriving DecidableEq, Repr

/-- Whose access is translated (R124, R139). -/
inductive Agent where
  | fetch
  /-- scalar loads and stores; `dword` for LDD and STD, which reach the device register windows -/
  | scalar (dword : Bool)
  /-- atomics, hardware tables and everything else that lies on memory pages only -/
  | memory
  /-- vector loads, gathers and pops, the matrix load pipes, ZLOAD and KFREQ: W and X are read -/
  | reader
  /-- vector stores, scatters and pushes, and ZSAVE: X is written -/
  | writer
  /-- the copy engine, either side -/
  | copy
  | promise
  deriving DecidableEq, Repr

/-- Trap causes (R395). -/
def causePfault : BitVec 8 := 0x06
def causeAccess : BitVec 8 := 0x07
def causePromtype : BitVec 8 := 0x09
def causeFenced : BitVec 8 := 0x15

/-- A leaf entry and its level (R121). -/
structure Leaf where
  pte : Nat
  level : Nat
  deriving DecidableEq, Repr

/-- TYPE of a leaf (R122). -/
def Leaf.type (l : Leaf) : Nat := fieldOf l.pte 5 2

/-- The walk from the table at `t` for the levels left (R123). -/
def walk (d : Device) (va : Nat) : Nat → Nat → Except (BitVec 8) Leaf
  | 0, _ => .error causeAccess
  | left + 1, t =>
    let level := 3 - left
    let at_ := t + 8 * fieldOf va (42 - 13 * (level - 1)) 13
    let pte := d.mem.read at_ 8
    if d.isPoisoned at_ || d.isLost at_ then .error causeFenced
    else if pte % 2 = 0 then .error causePfault
    else if fieldOf pte 7 9 ≠ 0 then .error causeAccess
    else if fieldOf pte 1 1 = 1 then
      if level = 1 then .error causeAccess
      else if level = 2 ∧ (fieldOf pte 16 13 ≠ 0 ∨ fieldOf pte 5 2 ≠ 0) then .error causeAccess
      else .ok { pte, level }
    else if level = 3 then .error causeAccess
    else if d.frames.toNat ≤ fieldOf pte 16 36 then .error causeAccess
    else walk d va left (fieldOf pte 16 36 * 65536)

/-- The physical address that a leaf gives (R123). -/
def Leaf.pa (l : Leaf) (va : Nat) : Nat := fieldOf l.pte 16 36 * 65536 + va % 2 ^ ((4 - l.level) * 13 + 3)

/-- The place in a typed buffer that an aperture leaf names, if the agent may touch it (R138, R139). -/
def aperture (l : Leaf) (g : Agent) (k : Access) (core : CoreId) (va : Nat) : Except (BitVec 8) Place :=
  let piece := fieldOf l.pte 16 6
  let addr := piece * 65536 + va % 65536
  if fieldOf l.pte 24 28 ≠ 0 then .error causeAccess
  else
    match fieldOf l.pte 22 2 with
    | 0 =>
      if piece < 48 ∧ ((g = .reader ∧ k = .load) ∨ g = .copy) then .ok (.buffer core .w addr) else .error causeAccess
    | 1 =>
      if piece < 32 ∧ ((g = .reader ∧ k = .load) ∨ (g = .writer ∧ k = .store) ∨ g = .copy)
        then .ok (.buffer core .x addr) else .error causeAccess
    | 2 => if piece < 16 ∧ g = .copy then .ok (.apertureZ addr) else .error causeAccess
    | _ => .error causeAccess

/-- The register that a device register window leaf names (R289, R365, R389). -/
def window (l : Leaf) (g : Agent) (k : Access) (firmware : Bool) (va : Nat) : Except (BitVec 8) Place :=
  let off := va % 65536
  let core := fieldOf l.pte 16 9
  if g ≠ .scalar true ∨ fieldOf l.pte 28 24 ≠ 0 then .error causeAccess
  else
    match fieldOf l.pte 25 3 with
    | 0 =>
      if k = .store ∧ core < 384 ∧ off % 8 = 0 ∧ off / 8 < 16 then .ok (.notify core (off / 8)) else .error causeAccess
    | 1 => if k = .load ∧ core < 384 ∧ off = 0 then .ok (.power core off) else .error causeAccess
    | 2 =>
      if firmware ∧ core = 0 ∧ off % 8 = 0 ∧ off / 8 < 256 then .ok (.weight (Fin.ofNat 256 (off / 8)))
      else .error causeAccess
    | _ => .error causeAccess

/-- TypeCheck of R124: which page types an agent may use, and the cause where it may not. -/
def typeCheck (l : Leaf) (g : Agent) : Option (BitVec 8) :=
  match l.type with
  | 0 => if g = .promise then some causePromtype else none
  | 1 => if g = .promise then none else if g = .fetch then some causeAccess else some causePromtype
  | _ => if g = .promise then some causePromtype else if g = .fetch then some causeAccess else none

/-- The rights of a leaf (R122, R123). -/
def hasRight (l : Leaf) : Access → Bool
  | .fetch => bitAt l.pte 4
  | .load => bitAt l.pte 2
  | .store => bitAt l.pte 3
  | .rmw => bitAt l.pte 2 && bitAt l.pte 3

/-- The place of an address on the page of a leaf, or the cause of the trap: the type, the rights, and the frame (R123). -/
def Leaf.place (l : Leaf) (d : Device) (core : CoreId) (firmware : Bool) (g : Agent) (k : Access) (va : Word) :
    Except (BitVec 8) Place :=
  match typeCheck l g with
  | some c => .error c
  | none =>
    if !hasRight l k then .error causeAccess
    else if l.type ≤ 1 then
      let pa := l.pa va.toNat
      if d.frames.toNat ≤ frameOf pa then .error causeAccess
      else if d.isLost pa then .error causeFenced
      else .ok (.main pa)
    else if l.type = 2 then aperture l g k core va.toNat
    else window l g k firmware va.toNat

/-- The accesses that an agent may make (R123, R139). -/
def agentAccesses : List (Agent × Access) :=
  [(.fetch, .fetch), (.scalar true, .load), (.scalar true, .store), (.memory, .load), (.memory, .store), (.memory, .rmw),
    (.reader, .load), (.writer, .store), (.copy, .load), (.copy, .store), (.promise, .rmw)]

/-- The translation of an address by a leaf succeeds for some access, so that a cache may hold it (R126). -/
def Leaf.succeeds (l : Leaf) (d : Device) (core : CoreId) (firmware : Bool) (va : Word) : Bool :=
  agentAccesses.any fun p => (l.place d core firmware p.1 p.2 va).toOption.isSome

/-- The walk of an address under a root (R123).  A root frame that main memory does not have gives ACCESS, as an absent
table frame does (log 13). -/
def walkFrom (d : Device) (root va : Word) : Except (BitVec 8) Leaf :=
  if va.toNat / 2 ^ 55 ≠ 0 then .error causeAccess
  else if d.frames.toNat ≤ fieldOf root.toNat 16 36 then .error causeAccess
  else walk d va.toNat 3 (fieldOf root.toNat 16 36 * 65536)

/-- Translate (R123): the place that a virtual address names under a root, or the cause of the trap. -/
def translate (d : Device) (root : Word) (core : CoreId) (firmware : Bool) (g : Agent) (k : Access) (va : Word) :
    Except (BitVec 8) Place :=
  match walkFrom d root va with
  | .error c => .error c
  | .ok l => l.place d core firmware g k va

/-! ### The translation cache of a core (R126) -/

def CachedLeaf.leaf (t : CachedLeaf) : Leaf := { pte := t.pte.toNat, level := t.level.toNat }

/-- A cached translation is one of an address under a root's address-space number: harts of one number share it. -/
def CachedLeaf.serves (t : CachedLeaf) (root va : Word) : Bool :=
  t.asn == root.setWidth 16 && t.page.toNat == va.toNat / 65536

/-- The leaf of an address as a walk gives it now, for a cache. -/
def cachedLeaf (root va : Word) (l : Leaf) : CachedLeaf :=
  { asn := root.setWidth 16, page := BitVec.ofNat 39 (va.toNat / 65536), pte := word l.pte, level := BitVec.ofNat 2 l.level }

/-! ### Use counts and generations -/

/-- The record that a frame starts with (R128, log 9). -/
def initialFrame (f : Nat) : FrameInfo :=
  { frame := f, home := Config.initialHome f, counts := Vector.replicate 4 0, hint := none, move := none }

/-- The record of a frame. -/
def Device.frameInfo (d : Device) (f : Nat) : FrameInfo := (d.homes.find? (·.frame == f)).getD (initialFrame f)

/-- The die of a slice (R1). -/
def dieOf (s : SliceId) : Nat := s.val / Config.slicesPerDie

/-- The device with the record of a frame replaced; records stand in the order of the frames. -/
def insertFrame (i : FrameInfo) : List FrameInfo → List FrameInfo
  | [] => [i]
  | j :: js => if i.frame < j.frame then i :: j :: js else if i.frame = j.frame then i :: js else j :: insertFrame i js

def Device.setFrame (d : Device) (i : FrameInfo) : Device :=
  { d with homes := if i = initialFrame i.frame then d.homes.filter (·.frame != i.frame) else insertFrame i d.homes }

/-- One access to a frame from a core of the model's die is counted; the counter saturates (R128). -/
def Device.countAccess (d : Device) (pa : Nat) : Device :=
  let i := d.frameInfo (frameOf pa)
  let c := vget i.counts Config.die 0
  d.setFrame { i with counts := vset i.counts Config.die (if c = 0xFFFF then c else c + 1) }

/-- The count of a linked line advances (R167); a line that is not linked has none. -/
def bumpLine (line : Nat) (gens : List (Nat × Nat)) : List (Nat × Nat) :=
  gens.map fun p => if p.1 == line then (p.1, p.2 + 1) else p

/-- The counts of every linked line that a range of bytes touches advance. -/
def bumpRange (pa n : Nat) (gens : List (Nat × Nat)) : List (Nat × Nat) :=
  gens.map fun p => if lineOf pa ≤ p.1 ∧ p.1 ≤ lineOf (pa + n - 1) ∧ 0 < n then (p.1, p.2 + 1) else p

/-- The unordered sums that no byte of a write touches; the others end with it (R75). -/
def dropSums (pa n : Nat) (sums : List FloatSum) : List FloatSum :=
  sums.filter fun f => !(decide (pa < f.pa + 2 ^ f.log2Size.val) && decide (f.pa < pa + n))

/-- n bytes written to main memory (R167). -/
def Device.store (d : Device) (pa n x : Nat) : Device :=
  { d with mem := d.mem.write pa n x, gens := bumpRange pa n d.gens, sums := dropSums pa n d.sums }

/-- n bytes of main memory. -/
def Device.load (d : Device) (pa n : Nat) : Nat := d.mem.read pa n

/-- Poison marks of lines that a write covers whole are cleared (R136): the written bytes as (address, size) runs. -/
def clearCovered (unit : Nat) (runs : List (Nat × Nat)) (marks : List Nat) : List Nat :=
  if marks.isEmpty then marks
  else marks.filter fun m =>
    !(List.range unit).all fun i => runs.any fun r => decide (r.1 ≤ m * unit + i) && decide (m * unit + i < r.1 + r.2)

/-- n bytes at a device physical address lie in main memory. -/
def Device.holdsBytes (d : Device) (pa n : Nat) : Bool := decide (pa + n ≤ d.frames.toNat * 65536)

/-- Memory with the bytes of an image. -/
def Mem.withCells (m : Mem) (cells : List Host.Cell) : Mem := cells.foldl (fun m e => m.set e.1 e.2) m

/-- The cells that the start of an image puts into main memory: the lines that they cover whole lose their poison (R136). -/
def Device.placeImage (d : Device) (cells : List Host.Cell) : Device :=
  let cells := cells.filter fun e => d.holdsBytes e.1 1
  { d with mem := d.mem.withCells cells, poison := clearCovered 64 (cells.map fun e => (e.1, 1)) d.poison }

end Sys2Proof.Machine
end

