-- ==== Sys2Proof/Machine/Lines.lean ====
section
/-!
DEFINITION. The parts of a range of addresses that lie on one page each (R193), and the lines of a matrix operand (R234,
R235, R237).
-/

namespace Sys2Proof.Machine

/-- The parts of n bytes that lie on one 64 KiB page each: address, offset in the range and bytes. -/
def pageRuns : Nat → Word → Nat → Nat → List (Word × Nat × Nat)
  | 0, _, _, _ => []
  | fuel + 1, va, off, n =>
    if n = 0 then []
    else
      let k := min n (65536 - va.toNat % 65536)
      (va, off, k) :: pageRuns fuel (va + word k) (off + k) (n - k)

/-- The parts of n bytes from an address. -/
def runsOf (va : Word) (n : Nat) : List (Word × Nat × Nat) := pageRuns (n / 65536 + 2) va 0 n

/-- The element format of the MMA formats that are neither PEB nor INT8 (R235). -/
def mmaFmt (fmt : Nat) : Fmt :=
  match fmt with
  | 0 => .fp64
  | 1 => .fp32
  | 2 => .bf16
  | 3 => .fp16
  | 4 => .e4m3
  | _ => .e5m2

/-- Bytes of a line of K elements (R235): a PEB8 block is 34 bytes and a PEB4 block 18. -/
def lineBytes (fmt k : Nat) : Nat :=
  match fmt with
  | 7 => 34 * (k / 32)
  | 8 => 18 * (k / 32)
  | 9 => k
  | _ => (mmaFmt fmt).width / 8 * k

/-- K of an MMA. -/
def MmaWork.depth (w : MmaWork) : Nat := 32 * 2 ^ w.kn.toNat

/-- The address of line l of a descriptor (R237). -/
def Descriptor.lineAt (d : Descriptor) (l : Nat) : Word := d.va + word l * d.stride

/-- The parts of the lines of an operand in memory, each with its bytes; a generated operand has none. -/
def MmaWork.operandRuns (w : MmaWork) : MmaOperand → List (Word × Nat)
  | .descriptor d => (List.range 32).flatMap fun l =>
      (runsOf (d.lineAt l) (lineBytes w.fmt.toNat w.depth)).map fun r => (r.1, r.2.2)
  | .generator _ _ => []

end Sys2Proof.Machine
end

