-- ==== Sys2Proof/Machine/Ops.lean ====
section
/-!
DEFINITION. The named operations over the state: harts and their registers, the strip, records and fences, and the
taking of a trap (R25-R36, R136, R177-R183, R394-R400, R417-R418, R439).
-/

namespace Sys2Proof.Machine

/-! ### Cores and harts -/

/-- The cores that the model holds. -/
def allCores : List CoreId := List.finRange 4

/-- The core is the upper one of its gang pair (R2, R199). -/
def isUpper (c : CoreId) : Bool := c.val % 2 == 1

/-- The other core of a gang pair. -/
def otherCore (c : CoreId) : CoreId := ⟨c.val + 1 - 2 * (c.val % 2), by omega⟩

/-- The lower core of the pair of a core. -/
def lowerCore (c : CoreId) : CoreId := ⟨c.val - c.val % 2, by omega⟩

/-- The upper core of the pair of a core. -/
def upperCore (c : CoreId) : CoreId := otherCore (lowerCore c)

/-- A core. -/
def State.core (s : State) (c : CoreId) : Core := s.cores[c.val]

/-- The state with one core changed. -/
def State.modifyCore (s : State) (c : CoreId) (f : Core → Core) : State :=
  { s with cores := s.cores.set c.val (f s.cores[c.val]) }

/-- The state with the device changed. -/
def State.modifyDev (s : State) (f : Device → Device) : State := { s with dev := f s.dev }

/-- The hart of a context. -/
def Core.hart (k : Core) (x : CtxId) : Hart := if h : x.val < 4 then k.ctxs[x.val].hart else k.fw

/-- The core with the hart of a context replaced. -/
def Core.setHart (k : Core) (x : CtxId) (t : Hart) : Core :=
  if h : x.val < 4 then { k with ctxs := k.ctxs.set x.val { k.ctxs[x.val] with hart := t } } else { k with fw := t }

/-- What a context does. -/
def Core.status (k : Core) (x : CtxId) : Status := if h : x.val < 4 then k.ctxs[x.val].status else k.fwStatus

/-- The core with the status of a context replaced. -/
def Core.setStatus (k : Core) (x : CtxId) (t : Status) : Core :=
  if h : x.val < 4 then { k with ctxs := k.ctxs.set x.val { k.ctxs[x.val] with status := t } }
  else { k with fwStatus := t }

/-- A user context as a context. -/
def userId (x : UserCtx) : CtxId := ⟨x.val, by omega⟩

/-- The hart of a context of a core. -/
def State.hart (s : State) (c : CoreId) (x : CtxId) : Hart := (s.core c).hart x

def State.setHart (s : State) (c : CoreId) (x : CtxId) (h : Hart) : State := s.modifyCore c (·.setHart x h)

def State.status (s : State) (c : CoreId) (x : CtxId) : Status := (s.core c).status x

def State.setStatus (s : State) (c : CoreId) (x : CtxId) (t : Status) : State := s.modifyCore c (·.setStatus x t)

/-- The hart that acts. -/
def State.me (s : State) : Hart := s.hart s.cur.core s.cur.ctx

/-- The state with the hart that acts replaced. -/
def State.setMe (s : State) (h : Hart) : State := s.setHart s.cur.core s.cur.ctx h

/-- The state with the hart that acts changed. -/
def State.modifyMe (s : State) (f : Hart → Hart) : State := s.setMe (f s.me)

/-- The core of the hart that acts. -/
def State.myCore (s : State) : Core := s.core s.cur.core

/-- The firmware context acts (R52). -/
def State.isFirmware (s : State) : Bool := s.cur.ctx == 4

/-- The state in which a context of a core is the one that acts. -/
def State.actingAs (s : State) (c : CoreId) (x : CtxId) : State := { s with cur := { s.cur with core := c, ctx := x } }

/-- The translation root of the context that acts (R120, R399). -/
def State.root (s : State) : Word := if s.isFirmware then s.myCore.fwroot else s.me.link.root

/-- The place of a virtual address for the hart that acts, or the cause of the trap (R123).  A translation that its core
keeps is used in place of a walk; ACCESS, like PFAULT, is raised after a fresh walk only (R126). -/
def State.locate (s : State) (g : Agent) (k : Access) (va : Word) : Except (BitVec 8) Place :=
  let fresh := translate s.dev s.root s.cur.core s.isFirmware g k va
  match s.myCore.tlb.find? (·.serves s.root va) with
  | none => fresh
  | some t =>
    match t.leaf.place s.dev s.cur.core s.isFirmware g k va with
    | .ok p => .ok p
    | .error c => if c = causeAccess then fresh else .error c

/-- The core of the hart that acts keeps the translation that a walk of its gives now, if it is one that succeeds (R126). -/
def State.keepTranslation (s : State) (va : Word) : State :=
  match walkFrom s.dev s.root va with
  | .ok l =>
    if l.succeeds s.dev s.cur.core s.isFirmware va then
      s.modifyCore s.cur.core fun k =>
        { k with tlb := cachedLeaf s.root va l :: k.tlb.filter fun t => !t.serves s.root va }
    else s
  | .error _ => s

/-- The next free value (log 5). -/
def State.takeFresh (s : State) : State := { s with fresh := s.fresh + 1 }

/-! ### Scalar registers (R25, R26, R32) -/

/-- A scalar register by its field value; g0 reads as 0 (R26). -/
def Hart.readX (h : Hart) (r : Reg) : Word := if r = 0 then 0 else vget h.x r.toNat 0

/-- The full/empty bit of a scalar register; g0 is always full (R25). -/
def Hart.isFull (h : Hart) (r : Reg) : Bool := r == 0 || r.toNat ≥ 48 || h.full.getLsbD r.toNat

/-- A register bit set or cleared. -/
def setFlag {n : Nat} (x : BitVec n) (i : Nat) (b : Bool) : BitVec n :=
  if b then x ||| BitVec.ofNat n (2 ^ i) else x &&& ~~~(BitVec.ofNat n (2 ^ i))

/-- A scalar register written and marked full; a write of g0 is discarded (R26, R32). -/
def Hart.writeX (h : Hart) (r : Reg) (v : Word) : Hart :=
  if r = 0 then h else { h with x := vset h.x r.toNat v, full := setFlag h.full r.toNat true }

/-- A scalar register marked empty, with its result on the way (R32); for g0 nothing is kept. -/
def Hart.produceX (h : Hart) (r : Reg) (v : Word) : Hart :=
  if r = 0 then h else { h with full := setFlag h.full r.toNat false, fills := h.fills ++ [{ vector := false, reg := r, value := v.toNat }] }

/-! ### Vector and mask registers (R22, R32) -/

/-- The content of a vector register. -/
def Hart.readV (h : Hart) (r : Reg) : Nat := vget h.vec.v r.toNat 0

/-- The full/empty bit of a vector register. -/
def Hart.isVFull (h : Hart) (r : Reg) : Bool := h.vfull.getLsbD r.toNat

/-- A vector register written and marked full. -/
def Hart.writeV (h : Hart) (r : Reg) (v : Nat) : Hart :=
  { h with vec := { h.vec with v := vset h.vec.v r.toNat v }, vfull := setFlag h.vfull r.toNat true }

/-- A vector register marked empty, with its content on the way. -/
def Hart.produceV (h : Hart) (r : Reg) (v : Nat) : Hart :=
  { h with vfull := setFlag h.vfull r.toNat false, fills := h.fills ++ [{ vector := true, reg := r, value := v }] }

/-- A mask register. -/
def Hart.readM (h : Hart) (r : Reg) : Nat := vget h.vec.m r.toNat 0

/-- A mask register written. -/
def Hart.writeM (h : Hart) (r : Reg) (v : Nat) : Hart := { h with vec := { h.vec with m := vset h.vec.m r.toNat v } }

/-- A register marked empty, with reads on the way that give its content (R32, R304); for g0 nothing is kept. -/
def Hart.await (h : Hart) (f : Fill) : Hart :=
  if f.vector then { h with vfull := setFlag h.vfull f.reg.toNat false, fills := h.fills ++ [f] }
  else if f.reg = 0 then h
  else { h with full := setFlag h.full f.reg.toNat false, fills := h.fills ++ [f] }

/-- A result that was on its way when the strip began stands in the checkpoint too (R180). -/
def Checkpoint.take (k : Checkpoint) (f : Fill) : Checkpoint :=
  if k.owed.contains (f.vector, f.reg) then
    { k with
      owed := k.owed.filter (· != (f.vector, f.reg))
      x := if f.vector then k.x else vset k.x f.reg.toNat (word f.value)
      v := if f.vector then vset k.v f.reg.toNat f.value else k.v }
  else k

/-- One long-latency result reaches its register (R32). -/
def Hart.deliver (h : Hart) (f : Fill) : Hart :=
  let h := { h with checkpoint := h.checkpoint.take f }
  if f.vector then h.writeV f.reg f.value else h.writeX f.reg (word f.value)

/-- Every outstanding result of finite latency reaches its register (R36). -/
def Hart.settle (h : Hart) : Hart := h.fills.foldl Hart.deliver { h with fills := [] }

/-! ### Fields of VCFG (R27) -/

/-- SEW as its code. -/
def Hart.sewCode (h : Hart) : Nat := fieldOf h.vcfg.toNat 0 2

/-- SEW in bits. -/
def Hart.sew (h : Hart) : Nat := 8 * 2 ^ h.sewCode

/-- Element size in bytes. -/
def Hart.esize (h : Hart) : Nat := 2 ^ h.sewCode

def Hart.bf (h : Hart) : Bool := bitAt h.vcfg.toNat 2
def Hart.scope (h : Hart) : Nat := fieldOf h.vcfg.toNat 4 3
def Hart.det (h : Hart) : Bool := bitAt h.vcfg.toNat 7
def Hart.rm (h : Hart) : Rm := Rm.ofCode (fieldOf h.vcfg.toNat 8 3)

/-- The tile's element count (R21). -/
def Hart.tile (h : Hart) : Nat := h.vrows.toNat * h.vl.toNat

/-- The element format of float instructions (R27); SEW = 8 has none. -/
def Hart.fmt (h : Hart) : Fmt :=
  match h.sewCode with
  | 1 => if h.bf then .bf16 else .fp16
  | 2 => .fp32
  | _ => .fp64

/-- Effective VLMAX at the current SEW (R29, R185). -/
def Hart.vlmaxSew (h : Hart) : Nat := h.vlmax.toNat * 64 / h.sew

/-! ### Reports to system software (R439) -/

/-- Entries of the report ring. -/
def Device.reportSlots (d : Device) : Nat := 2 ^ d.replog.toNat

/-- The ring takes no further entry; one slot stays free so that a full ring differs from an empty one (log 14). -/
def Device.ringFull (d : Device) : Bool :=
  !d.repen || (d.reptail.toNat + 1) % d.reportSlots == d.rephead.toNat % d.reportSlots

/-- The 64 bytes of a report's entry: KIND, the arguments in words 1 to 5, and the sequence number in word 7 (R439). -/
def Report.entry (r : Report) (seq : Word) : List Word :=
  [word r.kind.toNat] ++ (r.args ++ List.replicate 5 0).take 5 ++ [0, seq]

/-- An entry written at REPTAIL. -/
def Device.writeReport (d : Device) (r : Report) : Device :=
  { d with
    reports := (d.reptail.toNat, r.entry d.repseq) ::
      d.reports.filter (fun e => e.1 != d.reptail.toNat)
    reptail := word ((d.reptail.toNat + 1) % d.reportSlots)
    repseq := d.repseq + 1 }

/-- A report posted: written, kept inside the device, or lost with REPOVF. -/
def Device.report (d : Device) (kind : Nat) (args : List Word) : Device :=
  let r : Report := { kind := BitVec.ofNat 8 kind, args }
  if !d.ringFull && d.waitingReports.isEmpty then d.writeReport r
  else if d.waitingReports.length < 1024 then { d with waitingReports := d.waitingReports ++ [r] }
  else { d with repovf := true }

/-! ### Power: wake requests (R385-R388) -/

/-- A part joins the in-rush arbiter's queue unless it stands there or is turning on. -/
def Device.queueWake (d : Device) (w : Wake) : Device :=
  if d.inrush.contains w || d.turningOn.contains w then d else { d with inrush := d.inrush ++ [w] }

/-- A wake request for a lane group (R385). -/
def State.wakeGroup (s : State) (c : CoreId) (g : Nat) : State :=
  match vget (s.core c).groups g .on with
  | .on => s
  | .waking => s
  | .hold => s.modifyCore c fun k => { k with groups := vset k.groups g .on }
  | .opening _ => s.modifyCore c fun k => { k with groups := vset k.groups g (.opening true) }
  | .gated =>
    (s.modifyCore c fun k => { k with groups := vset k.groups g .waking }).modifyDev
      (·.queueWake { core := c, group := Fin.ofNat 8 g })

/-- A wake request for a core, which shares the queue entry of its lane group 0 (R387). -/
def State.wakeCore (s : State) (c : CoreId) : State :=
  match (s.core c).power with
  | .on => s
  | .waking => s
  | .hold => s.modifyCore c fun k => { k with power := .on }
  | .opening _ => s.modifyCore c fun k => { k with power := .opening true }
  | .gated =>
    (s.modifyCore c fun k => { k with power := .waking }).modifyDev (·.queueWake { core := c, group := 0 })

/-- A notify write (R289, R388): ORed into the register, or into the capture latch of a core that is not powered;
discarded at a fenced core.  A core that the model does not hold is not part of the state (log 1). -/
def State.notifyWrite (s : State) (core n : Nat) (x : Word) : State :=
  if h : core < 4 then
    let c : CoreId := ⟨core, h⟩
    if (s.core c).fenced then s
    else
      match (s.core c).power with
      | .on => s.modifyCore c fun k => { k with notify := vset k.notify n (vget k.notify n 0 ||| x) }
      | .hold =>
        (s.wakeCore c).modifyCore c fun k => { k with notify := vset k.notify n (vget k.notify n 0 ||| x) }
      | _ => (s.modifyCore c fun k => { k with latch := vset k.latch n (vget k.latch n 0 ||| x) }).wakeCore c
  else s

/-! ### Copy commands and circular buffers (R146, R151, R155) -/

def shapeCbv (shape : Word) : Bool := bitAt shape.toNat 63
def shapeCb (shape : Word) : Nat := fieldOf shape.toNat 59 4
def shapeRows (shape : Word) : Nat := fieldOf shape.toNat 24 16
def shapeLen (shape : Word) : Nat := fieldOf shape.toNat 0 24

/-- A circular buffer of the hart. -/
def Hart.circ (h : Hart) (n : Nat) : CircBuf := vget h.vec.bufs n {}

def Hart.setCirc (h : Hart) (n : Nat) (b : CircBuf) : Hart := { h with vec := { h.vec with bufs := vset h.vec.bufs n b } }

/-- A discarded or aborted command returns its slot (R156). -/
def Hart.returnSlot (h : Hart) (q : CopyCmd) : Hart :=
  if q.slotBase.isSome then
    let b := h.circ (shapeCb q.shape)
    h.setCirc (shapeCb q.shape) { b with free := b.free + 1 }
  else h

/-- A command removed, with its slot returned. -/
def Hart.discardCmd (h : Hart) (q : CopyCmd) : Hart :=
  ({ h with cmds := h.cmds.filter (·.ticket != q.ticket) } : Hart).returnSlot q

/-- A command stands within 64 bytes and may go on to the boundary (R151). -/
def CopyCmd.midLine (q : CopyCmd) : Bool := q.started && q.phase == .queued && q.progress % 64 != 0

/-- The copy commands of a hart whose launch is cancelled or fenced (R151): one that is moving bytes goes on to a 64-byte
boundary of what it has written, one whose bytes are all written completes, and the others are discarded. -/
def Hart.endCommands (h : Hart) : Hart :=
  let keep (q : CopyCmd) : Bool := q.midLine || q.phase == .moved || q.phase == .ending
  let h := (h.cmds.filter fun q => !keep q).foldl Hart.discardCmd h
  { h with cmds := h.cmds.map fun q => if q.midLine then { q with phase := .ending } else q }

/-! ### Fencing (R417, R418) -/

/-- The identifiers of a launch with their levels (R352). -/
def LaunchLink.ids (l : LaunchLink) : List (BitVec 3 × Word) := [(1, l.launch), (2, l.graph), (3, l.phase), (4, l.job)]

def LaunchLink.names (l : LaunchLink) (r : Completion) : Bool := l.ids.contains (r.level, r.id)

/-- n harts of a launch end, or are dropped: OUT falls, and FAILED rises unless they ended by EXIT (R353). -/
def Device.countEnded (d : Device) (l : LaunchLink) (n : Nat) (failed : Bool) : Device :=
  { d with records := d.records.map fun r =>
      if l.names r then { r with out := r.out - n, failed := if failed then r.failed + n else r.failed } else r }

/-- Accepted launches that are not placed yet, which a condition on their identifiers drops: their harts leave OUT as
failed (R372, R417). -/
def Device.dropPool (d : Device) (hit : LaunchLink → Bool) : Device :=
  (d.pool.filter fun e => hit e.launch.link).foldl (fun d e => d.countEnded e.launch.link e.launch.link.harts true)
    { d with pool := d.pool.filter fun e => !hit e.launch.link }

/-- A launch that has been selected and not placed returns to the pool, as its first entry. -/
def Device.unselect (d : Device) : Device := { d with pool := d.selected.toList ++ d.pool, selected := none }

/-- A switched-out hart, by its HARTID, launch and recorded wait (R361). -/
def SwitchedOut.id (o : SwitchedOut) : BitVec 48 := o.hart.id
def SwitchedOut.link (o : SwitchedOut) : LaunchLink := o.hart.link
def SwitchedOut.wait (o : SwitchedOut) : Option Wait := if o.hart.gang = .parked then some .parked else o.hart.abandoned

/-- The strip with some of its items dropped; a pending read still stands behind the same ones of those kept. -/
def Hart.keepItems (h : Hart) (keep : StripItem → Bool) : Hart :=
  { h with
    strip := h.strip.filter keep
    fills := h.fills.map fun f =>
      { f with reads := f.reads.map fun r => { r with upTo := (h.strip.take r.upTo).countP keep } } }

/-- A launch is fenced: its harts take FENCED, its queued commands, pushes and pool entries are discarded, no addition at
FLAG is made any more, and the report is posted (R328, R417). -/
def Hart.fenceIf (launch : Word) (h : Hart) : Hart :=
  if h.link.launch = launch then
    { h.endCommands.keepItems fun i => match i with
        | .push _ _ _ _ _ => false
        | .command _ => false
        | _ => true with
      fenceDue := true
      additions := [] }
  else h

def Core.fenceLaunch (launch : Word) (k : Core) : Core :=
  { k with ctxs := k.ctxs.map fun x => if x.status = .free then x else { x with hart := x.hart.fenceIf launch } }

def State.fenceLaunch (s : State) (launch : Word) (cause : BitVec 8) : State :=
  if s.dev.placed.any (fun p => p.link.launch == launch && !p.fenced) then
    let job := ((s.dev.placed.find? (·.link.launch == launch)).map (·.link.job)).getD 0
    { s with
      cores := s.cores.map (Core.fenceLaunch launch)
      dev := ({ s.dev with
        placed := s.dev.placed.map fun p => if p.link.launch == launch then { p with fenced := true } else p
        switchedOut := s.dev.switchedOut.map fun o =>
          if o.link.launch == launch then { o with hart := { o.hart with fenceDue := true } } else o
        outgoing := s.dev.outgoing.filter fun o => match o with
          | .push _ q _ _ _ _ _ => q.launch != launch
          | _ => true } : Device).unselect.dropPool (·.launch == launch) |>.report 1 [launch, job, word cause.toNat] }
  else s

/-- The launches with a context on a core, resident or lazily owning a region there. -/
def State.launchesOn (s : State) (c : CoreId) : List Word :=
  ((s.core c).ctxs.toList.filter (·.status != .free)).map (·.hart.link.launch)
    ++ (s.dev.switchedOut.filter fun o => (s.core c).lazyRegions.any (·.owner == o.id)).map (·.link.launch)

/-- The report of a fenced core (R398, R418). -/
def State.reportCore (s : State) (c : CoreId) : State := s.modifyDev (·.report 2 [word c.val, (s.core c).fatalrec])

/-- A core is fenced (R418). -/
def State.fenceCore (s : State) (c : CoreId) : State :=
  if (s.core c).fenced then s
  else
    let launches := s.launchesOn c
    let s := s.modifyCore c fun k => { k with fenced := true, slots := [], pieces := [], stagedFw := none }
    (launches.foldl (fun s l => s.fenceLaunch l causeFenced) s).reportCore c

/-! ### Records (R395-R398) -/

/-- TSTAT of a record (R412). -/
def tstat (fatal svc : Bool) (src : Nat) (restart : Bool) (code ctx : Nat) : Word :=
  word ((if fatal then 2 ^ 63 else 0) + (if svc then 2 ^ 62 else 0) + src % 16 * 2 ^ 58
    + (if restart then 2 ^ 57 else 0) + code % 256 * 2 ^ 40 + ctx % 8)

/-- The causes from which RTE 0 at TEPC completes the instruction (R395). -/
def isRestartable (cause : BitVec 8) : Bool := [0x04, 0x05, 0x06, 0x0D, 0x14].contains cause.toNat

/-- Free entries of the queue take the records that wait outside its 60 ordinary entries, the oldest first (R397). -/
def Core.enqueue (k : Core) : Core :=
  let n := 60 - k.ordinary.length
  { k with ordinary := k.ordinary ++ k.outside.take n, outside := k.outside.drop n }

/-- An ordinary record enters the queue behind those that wait outside it (R397); firmware has a record to serve, so a
gated core wakes (R387). -/
def State.post (s : State) (c : CoreId) (r : Record) : State :=
  (s.modifyCore c fun k => ({ k with outside := k.outside ++ [r] } : Core).enqueue).wakeCore c

/-- A record of an engine of a core (TSTAT.SRC) waits outside the queue: the engine stands still (R397). -/
def Core.engineHeld (k : Core) (src : Nat) : Bool :=
  k.outside.any fun r => match r.of with
    | .command _ => fieldOf r.regs.stat.toNat 58 4 == src
    | _ => false

/-- Firmware has finished with the record in hand.  The context of a RESTORE record that no SIN has placed returns to the
selection (R361). -/
def State.finishRecord (s : State) (c : CoreId) : State :=
  let s := match (s.core c).inHand.map (·.of) with
    | some (.restore id) =>
      s.modifyDev fun d => { d with switchedOut := d.switchedOut.map fun (o : SwitchedOut) =>
        if o.id = id then { o with selected := false } else o }
    | _ => s
  s.modifyCore c fun k => { k with inHand := none }

/-- A fatal record in a reserved entry, or in FATALREC, which keeps the first (R398). -/
def Core.takeFatal (k : Core) (r : Record) : Core :=
  if k.fatal.length < 4 then { k with fatal := k.fatal ++ [r] }
  else if bitAt k.fatalrec.toNat 63 then k
  else
    { k with fatalrec := word (2 ^ 63 + r.regs.stat.toNat % 8 * 2 ^ 60 + r.regs.cause.toNat % 128 * 2 ^ 53
        + r.regs.epc.toNat / 4 % 2 ^ 53) }

/-- A fatal record: the record in hand is abandoned (R422), the core is fenced, and the core is reported, one that was fenced
before as well (R398). -/
def State.postFatal (s : State) (c : CoreId) (r : Record) : State :=
  let s := (s.finishRecord c).modifyCore c (·.takeFatal r)
  let s := if (s.core c).fenced then s.reportCore c else s.fenceCore c
  s.wakeCore c

/-! ### The Second is reset (R343) -/

/-- A counter of 8 bits that stops at its largest value. -/
def satAdd8 (x : BitVec 8) (n : Nat) : BitVec 8 := BitVec.ofNat 8 (min 255 (x.toNat + n))
def satAdd16 (x : BitVec 16) (n : Nat) : BitVec 16 := BitVec.ofNat 16 (min 65535 (x.toNat + n))

/-- The advice context of a user context reset, with the counts of ADVSTAT. -/
def State.resetAdvice (s : State) (c : CoreId) (x : CtxId) : State :=
  if h : x.val < 4 then
    let lost := (s.core c).advice[x.val].marks.length
    s.modifyCore c fun k =>
      let t := k.ctxs[x.val]
      let a := t.hart.adv
      { k with
        advice := k.advice.set x.val {}
        ctxs := k.ctxs.set x.val { t with hart := { t.hart with adv := { a with
          reset := satAdd8 a.reset 1, marklost := satAdd8 a.marklost lost } } } }
  else s

/-! ### The strip (R177-R183) -/

/-- A write of n bytes makes the whole 64-bit word at `at_` zero. -/
def zeroesWord (pa n x at_ : Nat) : Bool :=
  decide (pa ≤ at_) && decide (at_ + 8 ≤ pa + n) && fieldOf x (8 * (at_ - pa)) 64 == 0

/-- A store of zero to the STATUS word of a group's root clears the group's poison when no arrival is pending there
(R325). -/
def Device.clearGroup (d : Device) (pa n x : Nat) : Device :=
  if d.poisonedGroups.isEmpty then d
  else
    { d with poisonedGroups := d.poisonedGroups.filter fun root =>
        !(zeroesWord pa n x (root + 32) && !d.xgroups.any (fun g => g.root == root && !g.packets.isEmpty)) }

/-- The typed buffer of a core. -/
def Core.buffer (k : Core) : BufId → Mem
  | .w => k.bufW
  | .x => k.bufX

def Core.setBuffer (k : Core) (b : BufId) (m : Mem) : Core :=
  match b with
  | .w => { k with bufW := m }
  | .x => { k with bufX := m }

/-- The counts of the linked lines of X that a range of bytes touches advance (R167). -/
def Core.bumpBuffer (k : Core) (b : BufId) (a n : Nat) : Core :=
  match b with
  | .w => k
  | .x => { k with gensX := bumpRange a n k.gensX }

/-- The poisoned words of a buffer. -/
def Core.poisonOf (k : Core) : BufId → List Nat
  | .w => k.poisonW
  | .x => k.poisonX

def Core.setPoison (k : Core) (b : BufId) (p : List Nat) : Core :=
  match b with
  | .w => { k with poisonW := p }
  | .x => { k with poisonX := p }

/-- The power word of a core that the model does not hold, from a free value (log 1): a grant from 8 to 4,096, any
groups, and one of on, gated and hold (R382, R389). -/
def otherPower (x : Nat) : Nat :=
  8 + x % 4089 + x / 2 ^ 13 % 2 ^ 8 * 2 ^ 16 + x / 2 ^ 21 % 3 * 2 ^ 24

/-- The power window's word (R389). -/
def State.powerWord (s : State) (core : Nat) : Nat :=
  if h : core < 4 then
    let k := s.core ⟨core, h⟩
    let lgon := ofWords 1 (k.groups.toList.map fun g => match g with
      | .on => 1
      | .hold => 1
      | _ => 0)
    let (gated, hold) := match k.power with
      | .on => (0, 0)
      | .hold => (0, 1)
      | _ => (1, 0)
    k.grant.toNat + lgon * 2 ^ 16 + gated * 2 ^ 24 + hold * 2 ^ 25
  else otherPower (Config.corePower s.fresh core).toNat

/-- The queue window's word (R365). -/
def State.weightWord (s : State) (q : QueueId) : Nat :=
  let k := s.dev.queues[q.val]
  k.weight.toNat + wrap 48 (saturate 48 k.deficit) * 2 ^ 16

/-- n bytes at a place. -/
def State.readPlace (s : State) (p : Place) (n : Nat) : Nat :=
  match p with
  | .main pa => s.dev.load pa n
  | .buffer c b a => ((s.core c).buffer b).read a n
  | .power c _ => s.powerWord c
  | .weight q => s.weightWord q
  | .notify _ _ => 0
  | .apertureZ _ => 0
  | .device => 0

/-- One store performs at its place; on a lost frame none does, and the launch is fenced (R135). -/
def State.performStore (s : State) (p : Place) (n x : Nat) : State :=
  match p with
  | .main pa =>
    if s.dev.isLost pa then s.fenceLaunch s.me.link.launch causeFenced
    else s.modifyDev fun d => (d.store pa n x).clearGroup pa n x
  | .buffer c b a => s.modifyCore c fun k => (k.setBuffer b ((k.buffer b).write a n x)).bumpBuffer b a n
  | .notify c r => s.notifyWrite c r (word x)
  | .weight q => s.modifyDev fun d =>
      { d with queues := d.queues.set q.val { d.queues[q.val] with weight := BitVec.ofNat 8 x } }
  | .power _ _ => s
  | .apertureZ _ => s
  | .device => s

/-- The runs of bytes of main memory among runs of places. -/
def mainRuns (rs : List (Place × Nat)) : List (Nat × Nat) :=
  rs.filterMap fun r => match r.1 with
    | .main pa => some (pa, r.2)
    | _ => none

/-- The runs of bytes of a buffer among runs of places. -/
def bufferRuns (c : CoreId) (b : BufId) (rs : List (Place × Nat)) : List (Nat × Nat) :=
  rs.filterMap fun r => match r.1 with
    | .buffer c' b' a => if c' = c ∧ b' = b then some (a, r.2) else none
    | _ => none

/-- The places that stores write, as runs. -/
def storeRuns (es : List (Place × Nat × Nat)) : List (Place × Nat) := es.map fun e => (e.1, e.2.1)

/-- Some unit of `unit` bytes that is marked has a byte in a run. -/
def touchesMark (unit : Nat) (marks : List Nat) (lo n : Nat) : Bool :=
  marks.any fun m => decide (lo < m * unit + unit) && decide (m * unit < lo + n)

/-- A run of bytes touches a poisoned line or word. -/
def State.inPoison (s : State) (r : Place × Nat) : Bool :=
  match r.1 with
  | .main pa => touchesMark 64 s.dev.poison pa r.2
  | .buffer c b a => touchesMark 8 ((s.core c).poisonOf b) a r.2
  | _ => false

/-- Poison marks of lines and words that runs of bytes cover whole are cleared (R136, R140). -/
def State.clearWritten (s : State) (rs : List (Place × Nat)) : State :=
  let s := s.modifyDev fun d => { d with poison := clearCovered 64 (mainRuns rs) d.poison }
  s.modifyCore s.cur.core fun k =>
    { k with
      poisonW := clearCovered 8 (bufferRuns s.cur.core .w rs) k.poisonW
      poisonX := clearCovered 8 (bufferRuns s.cur.core .x rs) k.poisonX }

/-- The runs to be held to the poison marks when stores perform after others of the same instruction or command. -/
def State.poisonedRuns (s : State) (wrote : List (Place × Nat)) (es : List (Place × Nat × Nat)) : List (Place × Nat) :=
  wrote ++ (storeRuns es).filter s.inPoison

/-- Stores perform, in their order; the marks go that they cover whole together with those performed before, of which
`wrote` are the runs in marked units. -/
def State.performMore (s : State) (wrote : List (Place × Nat)) (es : List (Place × Nat × Nat)) : State :=
  (es.foldl (fun s e => s.performStore e.1 e.2.1 e.2.2) s).clearWritten (s.poisonedRuns wrote es)

/-- The stores of one instruction perform, in their order. -/
def State.performStores (s : State) (es : List (Place × Nat × Nat)) : State := s.performMore [] es

/-- The float format of a scatter-add (R169). -/
def scatterFmt (a : ScatterAdd) : Fmt :=
  if a.log2Size = 1 then (if a.bf then .bf16 else .fp16) else if a.log2Size = 2 then .fp32 else .fp64

/-- Bytes of an addition. -/
def scatterBytes (a : ScatterAdd) : Nat := 2 ^ a.log2Size.val

/-- The sum that a scatter-add unit stores (R169). -/
def scatterSum (a : ScatterAdd) (old : Nat) : Nat :=
  let bits := 8 * scatterBytes a
  if a.isFloat then addBits (scatterFmt a) .nearest old (a.addend.toNat % 2 ^ bits)
  else (old + a.addend.toNat) % 2 ^ bits

/-- One addition at its home slice, as one rmw (R327). -/
def Device.scatter (d : Device) (a : ScatterAdd) : Device :=
  d.store a.pa.toNat (scatterBytes a) (scatterSum a (d.load a.pa.toNat (scatterBytes a)))

/-- An addition can be made: on a poisoned line or a lost frame none is (R135, R136). -/
def Device.addable (d : Device) (a : ScatterAdd) : Bool := !d.isPoisoned a.pa.toNat && !d.isLost a.pa.toNat

/-- The value of some full binary tree over the values listed (R75); `pick` chooses the pairs that its nodes join. -/
def treeSum (op : Nat → Nat → Nat) (pick : Nat → Nat) : Nat → List Nat → Nat
  | _, [] => 0
  | 0, x :: _ => x
  | _ + 1, [x] => x
  | _ + 1, [x, y] => op x y
  | n + 1, xs =>
    let i := pick (2 * n) % xs.length
    let ys := xs.eraseIdx i
    let j := pick (2 * n + 1) % ys.length
    treeSum op pick n (op ((xs[i]?).getD 0) ((ys[j]?).getD 0) :: ys.eraseIdx j)

/-- A choice of the free value in hand (log 5). -/
def State.pick (s : State) (i : Nat) : Nat := (Config.freeWord s.fresh i).toNat

/-- The sum is the one to which an addition belongs: at its address, in its format. -/
def FloatSum.isAt (f : FloatSum) (a : ScatterAdd) : Bool := f.pa == a.pa.toNat && f.log2Size == a.log2Size && f.bf == a.bf

/-- The operands that an unordered sum at an address stands for: those that it has taken since the last other write, or
the one value that stands there (R75, R327). -/
def Device.leavesAt (d : Device) (a : ScatterAdd) : List Nat :=
  match d.sums.find? (·.isAt a) with
  | some f => f.leaves
  | none => [d.load a.pa.toNat (scatterBytes a)]

/-- An addition whose order and grouping with others at its address are open: the word takes the value of some tree over
what it held before the first of them and every addend since, whichever agents made them (R75, R169, R327). -/
def State.addUnordered (s : State) (a : ScatterAdd) : State :=
  let n := scatterBytes a
  let xs := s.dev.leavesAt a ++ [a.addend.toNat % 2 ^ (8 * n)]
  (s.modifyDev fun d =>
    let d := d.store a.pa.toNat n (treeSum (addBits (scatterFmt a) .nearest) s.pick (xs.length - 1) xs)
    { d with sums := { pa := a.pa.toNat, log2Size := a.log2Size, bf := a.bf, leaves := xs } :: d.sums }).takeFresh

/-- An addition of the hart performs, or fences the launch; `free` where its order and grouping are open.  One that finds
an unordered sum at its address joins it: concurrent updates make the combination unordered (R169). -/
def State.performScatter (s : State) (a : ScatterAdd) (free : Bool) : State :=
  if !s.dev.addable a then s.fenceLaunch s.me.link.launch causeFenced
  else if free || (a.isFloat && s.dev.sums.any (·.isAt a)) then s.addUnordered a
  else s.modifyDev (·.scatter a)

/-- A held copy command is let into the queue (R149). -/
def Hart.releaseCmd (h : Hart) (t : Word) : Hart :=
  { h with cmds := h.cmds.map fun q => if q.ticket = t ∧ q.phase = .held then { q with phase := .queued } else q }

/-- The hart that acts, as the sender of a push. -/
def State.sender (s : State) : Sender := { core := s.cur.core, hart := s.me.id, launch := s.me.link.launch }

/-- One item of the strip takes effect (R179). -/
def State.performItem (s : State) : StripItem → State
  | .stores es wrote => s.performMore wrote es
  | .scatter a free => s.performScatter a free
  | .push dev st va n x =>
    (s.modifyDev fun d => { d with outgoing := d.outgoing ++ [.push dev s.sender st s.me.pushes va n x] }).modifyMe
      fun h => { h with pushes := h.pushes + 1 }
  | .command t => s.modifyMe (·.releaseCmd t)

/-- Two runs of bytes have one in common. -/
def overlap (a n b m : Nat) : Bool := decide (a < b + m) && decide (b < a + n)

/-- The memory as the hart that acts sees it: with the effects of its own open strip (R133, R177). -/
def State.viewed (s : State) : State := s.me.strip.foldl State.performItem s

/-! ### Reads that have still to perform (R304, R305) -/

/-- The bytes of a pending read as the hart sees them: the items of its open strip that stand before the read, over
memory (R133, R302). -/
def State.readPending (s : State) (r : PendingRead) : Nat :=
  let x := ((s.me.strip.take r.upTo).foldl State.performItem s).readPlace r.place r.bytes
  if r.sext then wrap r.width (signed (8 * r.bytes) x) else x

/-- A result with one of its reads performed. -/
def Fill.take (f : Fill) (r : PendingRead) (x : Nat) : Fill := { f with value := setField f.value r.lo r.width x }

/-- A result with every one of its reads performed. -/
def State.performFill (s : State) (f : Fill) : Fill :=
  f.reads.foldl (fun g r => g.take r (s.readPending r)) { f with reads := [] }

/-- A read of a core that the model does not hold takes a free value. -/
def State.takeForeign (s : State) (rs : List PendingRead) : State :=
  if rs.any (fun r => match r.place with
    | .power c _ => decide (coreCount ≤ c)
    | _ => false) then s.takeFresh else s

/-- The pending reads of the hart that acts. -/
def Hart.pendingReads (h : Hart) : List PendingRead := h.fills.flatMap (·.reads)

/-- Every pending read of the hart that acts performs: each read of a hart performs before its later writes, and before
what follows a full or an acquire fence (R305). -/
def State.performReads (s : State) : State :=
  (s.modifyMe fun h => { h with fills := h.fills.map s.performFill }).takeForeign s.me.pendingReads

/-- Two ranges of bytes have one in common. -/
def Place.meets (p : Place) (n : Nat) (q : Place) (m : Nat) : Bool :=
  match p, q with
  | .main a, .main b => overlap a n b m
  | .buffer c u a, .buffer c' v b => c == c' && u == v && overlap a n b m
  | _, _ => false

/-- Two pending reads have a byte in common: the earlier one performs first (R305). -/
def PendingRead.meets (q r : PendingRead) : Bool := q.place.meets q.bytes r.place r.bytes

/-- Of a list of reads in program order, latest first: those that perform with one of the reads given, and the rest. -/
def splitReads (with_ : List PendingRead) : List PendingRead → List PendingRead × List PendingRead
  | [] => (with_, [])
  | r :: rs =>
    if with_.any r.meets then splitReads (r :: with_) rs
    else
      let (p, rest) := splitReads with_ rs
      (p, r :: rest)

/-- A result whose reads of one kind perform. -/
def State.performSome (s : State) (these : PendingRead → Bool) (f : Fill) : Fill :=
  { f with
    value := (f.reads.filter these).foldl (fun g r => g.take r (s.readPending r)) f |>.value
    reads := f.reads.filter fun r => !these r }

/-- The pending reads of one kind perform. -/
def State.performThese (s : State) (these : PendingRead → Bool) : State :=
  (s.modifyMe fun h => { h with fills := h.fills.map (s.performSome these) }).takeForeign (s.me.pendingReads.filter these)

/-- The pending reads with which others, later in program order, have a byte in common perform before them (R305). -/
def State.performBefore (s : State) (rs : List PendingRead) : State :=
  let ps := (splitReads rs s.me.pendingReads.reverse).1
  s.performThese ps.contains

/-- Read e of outstanding result n performs, and with it every earlier read that R305 puts before it; a result with no
read left reaches its register. -/
def State.performOne (s : State) (n e : Nat) : State :=
  match s.me.fills[n]? with
  | none => s
  | some f =>
    match f.reads[e % f.reads.length]? with
    | none => s.modifyMe fun h => ({ h with fills := h.fills.eraseIdx n } : Hart).deliver f
    | some r =>
      let before := (s.me.fills.take n).flatMap (·.reads) ++ f.reads.take (e % f.reads.length)
      let ps := (splitReads [r] before.reverse).1
      (s.modifyMe fun h => { h with fills := (h.fills.take (n + 1)).map (s.performSome ps.contains) ++ h.fills.drop (n + 1) }).takeForeign ps

/-- The oldest outstanding result performs its reads and reaches its register. -/
def State.deliverFirst (s : State) : State :=
  match s.me.fills with
  | [] => s
  | f :: fs => (s.modifyMe fun h => ({ h with fills := fs } : Hart).deliver (s.performFill f)).takeForeign f.reads

/-- Every vector result of the hart that acts performs its reads and reaches its register. -/
def State.landVectors (s : State) : State :=
  let s := s.performBefore ((s.me.fills.filter (·.vector)).flatMap (·.reads))
  s.modifyMe fun h => (h.fills.filter (·.vector)).foldl Hart.deliver { h with fills := h.fills.filter (!·.vector) }

/-- The state a discarded strip returns to (R180, R182); a result still on its way joins it when it arrives. -/
def Hart.snapshot (h : Hart) (pc : Word) : Checkpoint :=
  { pc
    owed := h.fills.map fun f => (f.vector, f.reg)
    elemBase := h.elemBase
    x := h.x
    v := h.vec.v
    m := h.vec.m
    vl := h.vl
    vrows := h.vrows
    vst := h.vst
    vcfg := h.vcfg
    names := h.names
    streams := h.streams.toList.map fun st => (st.position, st.bound, st.phase) }

/-- A new strip begins with the hart's present state, the next instruction at `pc`. -/
def Hart.beginStrip (h : Hart) (pc : Word) : Hart := { h with checkpoint := h.snapshot pc }

/-! ### Follow-on MMAs whose operands have still to be read (R154, R241) -/

/-- The work of the follow-ons of a hart that have not completed, those whose copy has not ended included. -/
def Hart.pendingWork (h : Hart) : List MmaWork := h.followOns.map (·.work) ++ h.cmds.filterMap (·.follow)

/-- A follow-on of the hart has not completed. -/
def Hart.followPending (h : Hart) : Bool := !h.pendingWork.isEmpty

/-- The bytes that a follow-on reads, as its addresses lead there now. -/
def State.operandPlaces (s : State) (w : MmaWork) : List (Place × Nat) :=
  (w.operandRuns w.a ++ w.operandRuns w.b).filterMap fun r =>
    (s.locate .reader .load r.1).toOption.map fun p => (p, r.2)

/-- A write of the hart that acts meets bytes that one of its follow-ons has still to read: it waits (R241, R312). -/
def State.blocksWrite (s : State) (es : List (Place × Nat)) : Bool :=
  s.me.followPending &&
    (s.me.pendingWork.flatMap s.operandPlaces).any fun r => es.any fun e => e.1.meets e.2 r.1 r.2

/-- The bytes that an item of the strip writes. -/
def StripItem.written : StripItem → List (Place × Nat)
  | .stores es _ => storeRuns es
  | .scatter a _ => [(.main a.pa.toNat, scatterBytes a)]
  | _ => []

/-- Pushes of the hart of a context that have not performed at their targets, of one stream or of all. -/
def State.pushesOf (s : State) (c : CoreId) (x : CtxId) (st : Option StreamId) : Bool :=
  s.dev.outgoing.any fun o =>
    match o with
    | .push _ q st' _ _ _ _ => q.core == c && q.hart == (s.hart c x).id && (st == none || st == some st')
    | _ => false

/-- The parked partner of a ganged hart has stores from before its GANG that have not performed (R199, R448). -/
def State.partnerRest (s : State) : Bool :=
  s.me.gang == .lower && (s.core (upperCore s.cur.core)).ctxs.toList.any fun t =>
    t.status != .free && t.hart.gang == .parked && t.hart.id == s.me.partner && !t.hart.strip.isEmpty

/-- A release of the hart that acts has still to wait: for the operand reads of follow-ons, for what its parked partner
stored before GANG, and under SYSTEM scope for the pushes to other devices (R317, R326). -/
def State.releaseWaits (s : State) (system : Bool) : Bool :=
  s.me.followPending || s.partnerRest || (system && s.pushesOf s.cur.core s.cur.ctx none)

/-- VCFG.SCOPE is SYSTEM (R27). -/
def Hart.systemScope (h : Hart) : Bool := h.scope == 5

/-- An item of the strip must wait: for a follow-on whose operand it would change, or as a store to a notify register,
which is a release (R241, R289). -/
def State.holdsItem (s : State) (i : StripItem) : Bool :=
  s.blocksWrite i.written || (i.written.any (fun e => match e.1 with
    | .notify _ _ => true
    | _ => false) && s.releaseWaits s.me.systemScope)

/-- The item writes memory of this device, so that the hart's earlier reads perform before it (R305); a push and a copy
command do so elsewhere or later (R315). -/
def StripItem.isWrite : StripItem → Bool
  | .stores _ _ => true
  | .scatter _ _ => true
  | _ => false

/-- How many effects an item has. -/
def StripItem.size : StripItem → Nat
  | .stores es _ => es.length
  | _ => 1

/-- A pending read with the strip's first `n` items replaced by `m`. -/
def PendingRead.past (n m : Nat) (r : PendingRead) : PendingRead := { r with upTo := r.upTo - n + (if r.upTo < n then 0 else m) }

/-- The strip's first item replaced by others. -/
def Hart.replaceFirst (h : Hart) (items : List StripItem) : Hart :=
  { h with
    strip := items ++ h.strip.drop 1
    fills := h.fills.map fun f => { f with reads := f.reads.map (PendingRead.past 1 items.length) } }

/-- The first item of the strip takes effect, whole or by its first n elements; the hart's reads that stand before it
perform first (R179, R303-R305). -/
def State.commitFirst (s : State) (n : Option Nat) : State :=
  match s.me.strip with
  | [] => s
  | i :: _ =>
    let s := if i.isWrite then s.performThese (·.upTo == 0) else s
    match i, n with
    | .stores es wrote, some n =>
      let t := s.performMore wrote (es.take n)
      t.modifyMe (·.replaceFirst [.stores (es.drop n) ((s.poisonedRuns wrote (es.take n)).filter t.inPoison)])
    | i, _ => (s.modifyMe (·.replaceFirst [])).performItem i

/-- The items of the strip take effect in order, up to the first that must wait, and so many effects as the pace allows. -/
def State.commitItems : Nat → Option Nat → State → State
  | 0, _, s => s
  | fuel + 1, pace, s =>
    match s.me.strip with
    | [] => s
    | i :: _ =>
      if s.holdsItem i then s
      else
        match pace with
        | none => State.commitItems fuel none (s.commitFirst none)
        | some n =>
          if i.size ≤ n then State.commitItems fuel (some (n - i.size)) (s.commitFirst none)
          else if n = 0 then s
          else s.commitFirst (some n)

/-- The open strip commits: its effects take place in program order, and the count returns to 0 (R179).  Where an effect
must wait, or other agents act between the effects, what stands before takes place and the rest stays in the strip (R241,
R303, R304).  An empty strip leaves the pace to what comes next. -/
def State.commitStrip (s : State) : State :=
  (State.commitItems s.me.strip.length s.me.pace s).modifyMe fun h =>
    { h with
      pace := if s.me.strip.isEmpty then h.pace else none
      stripCount := if h.strip.isEmpty then 0 else h.stripCount
      closing := h.closing && !h.strip.isEmpty }

/-- Part of the open strip does not commit now. -/
def State.commitWaits (s : State) : Bool := !s.commitStrip.me.strip.isEmpty

/-- The next effect of the open strip must wait. -/
def State.stripHeld (s : State) : Bool :=
  match s.me.strip with
  | [] => false
  | i :: _ => s.holdsItem i

/-- The tickets of the copy commands that a strip holds. -/
def stripTickets (items : List StripItem) : List Word :=
  items.filterMap fun i => match i with
    | .command t => some t
    | _ => none

/-- Full/empty bits with nothing outstanding but the PWAITs that are pending (R36). -/
def Hart.promiseFull (h : Hart) : BitVec 48 :=
  h.promises.foldl (fun b p => setFlag b p.dest.toNat false) (BitVec.allOnes 48)

/-- The streams with the positions, bindings and phases of a checkpoint; elements fetched ahead are dropped. -/
def restoreStreams (sts : Vector Stream 8) (saved : List (Word × Option Reg × Phase)) : Vector Stream 8 :=
  (List.range 8).foldl (fun v i =>
    match saved[i]? with
    | some (p, b, ph) =>
      vset v i { vget v i {} with position := p, bound := b, phase := ph, ahead := [] }
    | none => v) sts

/-- The open strip is discarded and the hart returns to the strip's checkpoint (R182). -/
def Hart.discardStrip (h : Hart) : Hart :=
  let k := h.checkpoint
  let ts := stripTickets h.strip
  let fills := (h.fills.filter fun f => k.owed.contains (f.vector, f.reg)).map fun f =>
    { f with reads := f.reads.map fun r => { r with upTo := 0 } }
  { h with
    pc := k.pc
    x := k.x
    full := fills.foldl (fun b f => if f.vector then b else setFlag b f.reg.toNat false) h.promiseFull
    vfull := fills.foldl (fun b f => if f.vector then setFlag b f.reg.toNat false else b) (BitVec.allOnes 64)
    fills
    vec := { h.vec with v := k.v, m := k.m }
    vl := k.vl
    vrows := k.vrows
    vst := k.vst
    vcfg := k.vcfg
    names := k.names
    elemBase := k.elemBase
    streams := restoreStreams h.streams k.streams
    cmds := h.cmds.filter fun q => !ts.contains q.ticket
    copyReports := h.copyReports ++ ts.map CopyReport.discarded
    strip := []
    stripCount := 0
    closing := false
    pace := none
    appending := none
    links := [] }

/-! ### Taking a trap (R394) -/

/-- The trap-record registers that a trap of the hart that acts leaves (R395, R412). -/
def State.trapRegs (s : State) (t : Trap) : TrapRegs :=
  { cause := t.cause
    val := t.val
    epc := t.epc.getD s.me.pc
    elt := t.elt
    stat := tstat s.isFirmware false 0 (isRestartable t.cause) 0 s.cur.ctx.val
    row := t.row }

/-- The firmware entry address of a core (R412). -/
def Core.fwEntry (k : Core) : Word := word (k.tvec.toNat / 4 * 4)

/-- The first two steps of R394: the outstanding results of the hart that acts arrive, and its strip commits. -/
def State.quiesce (s : State) : State := (s.performReads.modifyMe Hart.settle).commitStrip

/-- Trap entry of the hart that acts, once its strip has committed (R394): its advice context and its link table are
emptied, the record is formed and posted, and the context waits for firmware.  A trap of the firmware context is fatal,
and firmware starts again at TVEC (R398, R399). -/
def State.enterTrap (s : State) (t : Trap) : State :=
  let regs := s.trapRegs t
  let c := s.cur.core
  let x := s.cur.ctx
  let s := s.resetAdvice c x
  let s := s.modifyMe fun h => { h with links := [], trap := regs, eltDone := 0, eltEnd := none, rowDone := 0, trapDue := none }
  if s.isFirmware then
    let s := s.postFatal c { regs, of := .hart }
    s.modifyCore c fun k => { k with fw := { k.fw with pc := k.fwEntry, checkpoint := k.fw.snapshot k.fwEntry }, fwStatus := .running }
  else
    let s := s.setStatus c x .trapped
    let s := s.post c { regs, of := .hart }
    if t.cause = causeFenced then s.fenceLaunch s.me.link.launch causeFenced else s

/-- A trap of the hart that acts.  While part of its strip must wait, the trap is due and the hart waits:
trap entry completes the strip first (R183, R241). -/
def State.takeTrap (s : State) (t : Trap) : State :=
  let s := s.quiesce
  if s.me.strip.isEmpty then s.enterTrap t
  else (s.modifyMe fun h => { h with trapDue := some t }).setStatus s.cur.core s.cur.ctx (.waiting .strip)

/-- An uncorrectable error met in the open strip: the strip is discarded and STRIPLOST is raised (R182). -/
def State.loseStrip (s : State) (met : Word) : State :=
  let k := s.me.checkpoint
  let s := s.modifyMe Hart.discardStrip
  s.takeTrap { cause := 0x14, val := met, elt := k.elemBase, epc := some k.pc }

/-! ### The outcome of an instruction -/

/-- How an instruction that does not complete ends. -/
inductive Stop where
  /-- it raises a trap, in the state given -/
  | trap (t : Trap) (s : State)
  /-- it waits, and executes again when the wait is over -/
  | wait (w : Wait) (s : State)
  /-- it stays at its place for another cycle -/
  | stall (s : State)
  /-- it met an uncorrectable error -/
  | lost (s : State)
  deriving DecidableEq, Repr

/-- The next state of an instruction. -/
def finish (r : Except Stop State) : Host.Outcome State Fault Refusal :=
  match r with
  | .ok s => .next s
  | .error (.trap t s) => .next (s.takeTrap t)
  | .error (.wait w s) => .next (s.setStatus s.cur.core s.cur.ctx (.waiting w))
  | .error (.stall s) => .next s
  | .error (.lost s) => .next (s.loseStrip s.me.pc)

/-- A trap of the instruction, with TVAL. -/
def raise {α : Type} (s : State) (cause : BitVec 8) (val : Word) : Except Stop α := .error (.trap { cause, val } s)

/-- A restartable trap that comes before the instruction's own effect: one that resumes keeps the element and the row at
which it goes on, so that nothing is done twice (R51, R162, R240). -/
def raiseAhead {α : Type} (s : State) (cause : BitVec 8) (val : Word) : Except Stop α :=
  .error (.trap { cause, val, elt := word s.me.eltDone, row := BitVec.ofNat 5 s.me.rowDone } s)

/-- Causes by name (R395). -/
def causeIllegal : BitVec 8 := 0x01
def causeIllreg : BitVec 8 := 0x02
def causeLitland : BitVec 8 := 0x03
def causeEmptyreg : BitVec 8 := 0x04
def causeVown : BitVec 8 := 0x05
def causeAlign : BitVec 8 := 0x08
def causeConffill : BitVec 8 := 0x0A
def causeStripovf : BitVec 8 := 0x0B
def causeDetfp : BitVec 8 := 0x0C
def causeZfull : BitVec 8 := 0x0D
def causeZundef : BitVec 8 := 0x0E
def causeGencfg : BitVec 8 := 0x0F
def causeBarbroke : BitVec 8 := 0x10
def causeCancelled : BitVec 8 := 0x11
def causeTrapi : BitVec 8 := 0x12
def causeBreak : BitVec 8 := 0x13
def causeWmlinkbad : BitVec 8 := 0x16
def causePriv : BitVec 8 := 0x17

/-- TVAL holding the word of the instruction (R47). -/
def State.wordVal (s : State) : Word := word s.cur.word.toNat

/-- A condition that an instruction requires. -/
def require (ok : Bool) (s : State) (cause : BitVec 8) (val : Word) : Except Stop Unit :=
  if ok then .ok () else raise s cause val

end Sys2Proof.Machine
end

