-- ==== Sys2Proof/Machine/Access.lean ====
section
/-!
DEFINITION. Reads and writes of memory by the hart that acts (R123, R131-R136, R177, R285).
-/

namespace Sys2Proof.Machine

/-- The place of a virtual address, or the trap with TVAL holding the address. -/
def State.place (s : State) (g : Agent) (k : Access) (va : Word) : Except Stop Place :=
  match s.locate g k va with
  | .ok p => .ok p
  | .error c => raise s c va

/-- n bytes at a place that lie in a poisoned line or word (R136, R140); an element never crosses a line. -/
def State.isPoisonedAt (s : State) (p : Place) (n : Nat) : Bool :=
  match p with
  | .main pa => s.dev.isPoisoned pa
  | .buffer c b a => ((s.core c).poisonOf b).any fun w => decide (a / 8 ≤ w) && decide (w ≤ (a + n - 1) / 8)
  | _ => false

/-- An access to a frame is counted (R128). -/
def State.count (s : State) (p : Place) : State :=
  match p with
  | .main pa => s.modifyDev (·.countAccess pa)
  | _ => s

/-- The accesses of a list of places are counted. -/
def State.countAll (s : State) (ps : List Place) : State := ps.foldl State.count s

/-- A frame is used as a promise frame, which never moves (R130). -/
def State.markPromise (s : State) (g : Agent) (pa : Nat) : State :=
  if g = .promise then s.modifyDev fun d => d.setFrame { d.frameInfo (frameOf pa) with promise := true, move := none } else s

/-- Every byte of an access lies in stores of the hart's own open strip: a load takes it from there (R133), and no line
or word below is read (log 61). -/
def State.ownsBytes (s : State) (p : Place) (n : Nat) : Bool :=
  let es := s.me.strip.flatMap fun i => match i with
    | .stores es _ => storeRuns es
    | _ => []
  let (a, runs) := match p with
    | .main pa => (pa, mainRuns es)
    | .buffer c b a => (a, bufferRuns c b es)
    | _ => (0, [])
  (List.range n).all fun i => runs.any fun r => decide (r.1 ≤ a + i) && decide (a + i < r.1 + r.2)

/-- A load of the hart would take bytes from a poisoned line or word (R133, R136, R140). -/
def State.meetsPoison (s : State) (p : Place) (n : Nat) : Bool := s.isPoisonedAt p n && !s.ownsBytes p n

/-- A read on the hart's behalf that a poisoned line makes FENCED (R136): the bytes as the hart sees them. -/
def State.readClean (s view : State) (p : Place) (va : Word) (n : Nat) : Except Stop Nat :=
  if s.meetsPoison p n then raise s causeFenced va else .ok (view.readPlace p n)

/-- A read of the hart that acts at a place, with its bytes as they stand. -/
def PendingRead.now (p : Place) (n : Nat) : PendingRead := { place := p, bytes := n, upTo := 0, lo := 0, width := 0, sext := false }

/-- A load of n bytes by the hart that acts, its own strip included, at once: the earlier reads of the hart of these bytes
perform before it (R305).  The value and the state with the access counted. -/
def State.loadBytes (s : State) (g : Agent) (va : Word) (n : Nat) : Except Stop (Nat × State) := do
  let p ← s.place g .load va
  let x ← s.readClean s.viewed p va n
  .ok (x, (s.performBefore [PendingRead.now p n]).count p)

/-- Words of 8 bytes from consecutive addresses, each translated for itself: tables and descriptors read as loads. -/
def State.loadWords (s : State) (g : Agent) : Nat → Word → Except Stop (List Word × State)
  | 0, _ => .ok ([], s)
  | n + 1, va => do
    let (x, s) ← s.loadBytes g va 8
    let (xs, s) ← s.loadWords g n (va + 8)
    .ok (word x :: xs, s)

/-- An rmw of a 64-bit word at its home slice (R118, R273): poison makes it FENCED. -/
def State.rmwPlace (s : State) (g : Agent) (va : Word) : Except Stop (Nat × Nat × State) := do
  let p ← s.place g .rmw va
  match p with
  | .main pa =>
    if s.dev.isPoisoned pa then raise s causeFenced va
    else if s.blocksWrite [(p, 8)] then .error (.wait .followOns s)
    else .ok (pa, s.dev.load pa 8, (s.count p).markPromise g pa)
  | _ => raise s causeAccess va

/-- A 64-bit word of main memory written by an rmw. -/
def State.putWord (s : State) (pa : Nat) (x : Nat) : State :=
  s.modifyDev fun d => (d.store pa 8 x).clearGroup pa 8 x

/-- A 64-bit word of main memory. -/
def State.getWord (s : State) (pa : Nat) : Nat := s.dev.load pa 8

/-- The watermark that an element at `va` must wait for: the count its word must exceed (R285). -/
def Watermark.guards (w : Watermark) (va : Word) : Option Nat :=
  if w.word = 0 then none
  else
    let o := (va - w.base).toNat
    if o < w.limit.toNat then some (o / (if w.unit = 0 then 1 else w.unit.toNat)) else none

/-- The watermark words that an element at `va` is held against: they are read for it, and counted (R128, R285). -/
def State.guardPlaces (s : State) (va : Word) : List Place :=
  (s.me.w.toList.filter fun w => (w.guards va).isSome).filterMap fun w => (s.locate .memory .load w.word).toOption

/-- Whether the hart's linked watermarks let an element proceed; the first that does not is named (R285).  A word that
cannot be read lets nothing pass: its fault is the element's. -/
def State.watermarkStall (s : State) (va : Word) : Except (BitVec 8 × Word) (Option (Word × Nat)) :=
  s.me.w.toList.foldlM (m := Except (BitVec 8 × Word)) (fun acc w =>
    match acc, w.guards va with
    | some r, _ => .ok (some r)
    | none, none => .ok none
    | none, some n =>
      match s.locate .memory .load w.word with
      | .ok p =>
        if s.isPoisonedAt p 8 then .error (causeFenced, w.word)
        else if n < s.readPlace p 8 then .ok none else .ok (some (w.word, n))
      | .error c => .error (c, w.word)) none

end Sys2Proof.Machine
end

