-- ==== Sys2Proof/Machine/Operands.lean ====
section
/-!
DEFINITION. Operands: the uses of register fields, source B, readiness, the order of the checks of an instruction, and
the tiles that vector instructions read and write, streams included (R22-R51, R173-R174, R383, R416).
-/

namespace Sys2Proof.Machine

/-! ### Uses of a register field (R39) -/

def isScalar (r : Reg) : Bool := r.toNat < 48
def isG (r : Reg) : Bool := r.toNat < 32
def isAddress (r : Reg) : Bool := 32 ≤ r.toNat && r.toNat < 48
def isMask (r : Reg) : Bool := r.toNat < 8
def isHandle (r : Reg) : Bool := r.toNat < 16
def isBelow (n : Nat) (r : Reg) : Bool := r.toNat < n

/-- Vector use: v0 to v(N-1). -/
def Hart.isVector (h : Hart) (r : Reg) : Bool := r.toNat < h.names.toNat

/-- The fraction of the register file that the hart's partition holds, as its inverse (R24, R29). -/
def Part.inverse : Part → Nat
  | .whole => 1
  | .half => 2
  | .quarter => 4

/-- How many rings and circular buffers the hart names (R70, R155). -/
def Hart.ringCount (h : Hart) : Nat := 16 / h.link.part.inverse

/-- How many streams the hart names (R171). -/
def Hart.streamCount (h : Hart) : Nat := 8 / h.link.part.inverse

/-- A register field with its position for TVAL (R39): 0 A, 1 B, 2 D, 3 for formats X and S; and whether it is valid. -/
structure Field where
  pos : Nat
  reg : Reg
  ok : Bool
  deriving DecidableEq, Repr

/-- A field as TVAL of ILLREG and EMPTYREG holds it (R33, R39). -/
def fieldVal (pos : Nat) (r : Reg) : Word := word (r.toNat + pos * 256)

/-- The registers with full/empty bits that a field stands for: one scalar register, one vector register, or the
registers of a group that begins at the field. -/
inductive Bank where
  | x | v
  | xs (n : Nat)
  | vs (n : Nat)
  deriving DecidableEq, Repr

/-- Member i of the group of registers that begins at a field. -/
def member (r : Reg) (i : Nat) : Reg := r + BitVec.ofNat 6 i

/-- A source field with its readiness bit; a source without one always waits (R33). -/
structure Source where
  pos : Nat
  bank : Bank
  reg : Reg
  ready : Bool
  deriving DecidableEq, Repr

/-! ### Source B (R40, R41) -/

/-- Words the instruction occupies, in bytes (R43). -/
def srcBytes : Src → Nat
  | .lit _ => 8
  | _ => 4

/-- A literal sign-extended to 64 bits (R41). -/
def litWord (w : BitVec 32) : Word := w.signExtend 64

/-- A literal widened from FP32 to FP64 (R41). -/
def litFloat (w : BitVec 32) : Nat := convert .fp32 .fp64 .nearest w.toNat

/-- Constant c[n]. -/
def Hart.constant (h : Hart) (n : Reg) : Word := vget h.c n.toNat 0

/-- Source B of a scalar integer instruction, and every B that an entry reads whole as a count, a code or a value. -/
def Hart.srcWord (h : Hart) : Src → Word
  | .reg r _ => h.readX r
  | .scalar r _ => h.readX r
  | .const n => h.constant n
  | .lit w => litWord w

/-- Source B of a scalar float instruction as an FP64 pattern (R41). -/
def Hart.srcFloat (h : Hart) : Src → Word
  | .reg r _ => h.readX r
  | .scalar r _ => h.readX r
  | .const n => h.constant n
  | .lit w => word (litFloat w)

/-- The readiness of B where it is a register. -/
def srcSource (bank : Bank) : Src → List Source
  | .reg r fb => [{ pos := 1, bank, reg := r, ready := fb }]
  | .scalar r fb => [{ pos := 1, bank := .x, reg := r, ready := fb }]
  | _ => []

/-- The register field of B, for ILLREG; `ok` is its use with BK = 00, and BK = 01 is in scalar use. -/
def srcField (ok : Reg → Bool) : Src → List Field
  | .reg r _ => [{ pos := 1, reg := r, ok := ok r }]
  | .scalar r _ => [{ pos := 1, reg := r, ok := isScalar r }]
  | _ => []

/-! ### Stream specs (R172) -/

def specWord (sp : BitVec 512) (j : Nat) : Nat := fieldOf sp.toNat (64 * j) 64
def Stream.base (t : Stream) : Nat := specWord t.spec 0
def Stream.device (t : Stream) : BitVec 16 := BitVec.ofNat 16 (fieldOf (specWord t.spec 1) 16 16)
def Stream.hasDoneAdd (t : Stream) : Bool := bitAt (specWord t.spec 1) 8
def Stream.remote (t : Stream) : Bool := bitAt (specWord t.spec 1) 7
def Stream.isOutput (t : Stream) : Bool := bitAt (specWord t.spec 1) 6
def Stream.esz (t : Stream) : Nat := fieldOf (specWord t.spec 1) 4 2
def Stream.dims (t : Stream) : Nat := fieldOf (specWord t.spec 1) 0 2 + 1
def specCount (sp : BitVec 512) (j : Nat) : Nat := fieldOf (specWord sp (2 + j)) 0 32
def specStride (sp : BitVec 512) (j : Nat) : Int := signed 32 (fieldOf (specWord sp (2 + j)) 32 32)
def Stream.flag (t : Stream) : Word := word (specWord t.spec 6)

/-- TOTAL: the product of the used counts. -/
def Stream.total (t : Stream) : Nat := (List.range t.dims).foldl (fun n j => n * specCount t.spec j) 1

/-- The byte offset of element p by mixed-radix division, dimension 0 innermost. -/
def specOffset (sp : BitVec 512) : List Nat → Nat → Int
  | [], _ => 0
  | j :: js, p => (p % specCount sp j : Nat) * specStride sp j + specOffset sp js (p / specCount sp j)

/-- The address of element p. -/
def Stream.address (t : Stream) (p : Nat) : Word :=
  word (wrap 64 (t.base + specOffset t.spec (List.range t.dims) p))

/-- The stream that a vector name is bound to. -/
def Hart.streamOf (h : Hart) (r : Reg) : Option StreamId :=
  (List.range 8).foldr (fun i acc =>
    if (vget h.streams i {}).bound = some r then some (Fin.ofNat 8 i) else acc) none

/-- A stream of the hart. -/
def Hart.stream (h : Hart) (i : StreamId) : Stream := h.streams[i.val]

def Hart.setStream (h : Hart) (i : StreamId) (t : Stream) : Hart := { h with streams := h.streams.set i.val t }

/-- Elements of a pop that lie below TOTAL. -/
def Hart.popNeed (h : Hart) (t : Stream) : Nat := min h.tile (t.total - t.position.toNat)

/-- The next element that an engine reads: the first to be read again, or the one after those it holds. -/
def Stream.nextFetch (t : Stream) : Nat := t.ahead.findIdx (· == .again)

/-! ### The checks of an instruction, in the order of R51 -/

/-- What an instruction asks of the hart before its own effect. -/
structure Uses where
  /-- bytes of the instruction -/
  len : Nat := 4
  /-- it is ILLEGAL at decode, as VCFG stands (R28, R210) -/
  illegal : Bool := false
  /-- only the firmware context decodes it (R52), or only user contexts do (R369) -/
  priv : Bool := false
  userOnly : Bool := false
  /-- register fields in the order D, A, B, or Z, SA, SB -/
  regs : List Field := []
  /-- it reads or writes vector contents (R416) -/
  vown : Bool := false
  /-- sources in the order A, B, D -/
  sources : List Source := []
  /-- registers it writes, which wait until they are full (R34) -/
  dests : List (Bank × Reg) := []
  /-- vector names it reads and writes as tiles, for the streams bound to them (R173) -/
  reads : List Reg := []
  writes : List Reg := []
  /-- it is handed to the lanes, and waits for the lane groups its tile reaches (R383) -/
  lanes : Bool := false
  /-- it commits the open strip before it issues (R181) -/
  commits : Bool := false
  /-- it writes memory, or is a fence that orders reads: the hart's earlier reads perform before it (R305) -/
  orders : Bool := false
  /-- it goes on while effects of the strip that it commits have still to perform: GANG of an upper core (R448) -/
  parks : Bool := false
  /-- it is a release, of SYSTEM scope or narrower: it waits for what it covers (R317, R326) -/
  releases : Option Bool := none
  /-- its busy cycles by class (R379) -/
  work : List (ActClass × Nat) := [(.scal, 1)]
  deriving DecidableEq, Repr

/-- The register is full, or its name is bound to a stream, whose tile is the operand. -/
def Hart.holds (h : Hart) : Bank → Reg → Bool
  | .x, r => h.isFull r
  | .v, r => (h.streamOf r).isSome || h.isVFull r
  | .xs n, r => (List.range n).all fun i => h.isFull (member r i)
  | .vs n, r => (List.range n).all fun i => h.isVFull (member r i)

/-- The tile of a started input stream that has not been fetched whole: outstanding, as R173 has it.  A stream that is
LOADED or ARMED has no tile outstanding; its pop waits. -/
def Hart.tileOutstanding (h : Hart) (i : StreamId) : Bool :=
  let t := h.stream i
  (t.phase == .running || t.phase == .done) && decide (t.nextFetch < h.popNeed t)

/-- A source that is empty at this moment: a register with its result on the way, or a tile not yet fetched whole, for
which a source with its readiness bit set does not wait (R33, R173). -/
def Hart.isEmptySource (h : Hart) (q : Source) : Bool :=
  match q.bank, h.streamOf q.reg with
  | .v, some i => q.ready && h.tileOutstanding i
  | b, _ => !h.holds b q.reg

/-- Whether a read of a bound name breaks R173, or the stream is UNSET. -/
def Hart.badRead (h : Hart) (r : Reg) : Bool :=
  match h.streamOf r with
  | none => false
  | some i => let t := h.stream i
    t.phase == .unset || t.isOutput || t.esz != h.sewCode

/-- Whether a write of a bound name breaks R173, or the stream is UNSET. -/
def Hart.badWrite (h : Hart) (r : Reg) : Bool :=
  match h.streamOf r with
  | none => false
  | some i => let t := h.stream i
    t.phase == .unset || !t.isOutput || t.esz != h.sewCode

/-- The first stream among the names that is not started yet (R173, R175). -/
def Hart.unstarted (h : Hart) (rs : List Reg) : Option StreamId :=
  (rs.filterMap h.streamOf).find? fun i => let t := h.stream i
    t.phase == .loaded || t.phase == .armed

/-- Active lanes of a core (R29). -/
def Core.lanes (k : Core) : Nat := popCount 64 k.lanemap.toNat

/-- The lane groups that a tile of T elements reaches: those of the first min(T, L) active lanes (R383). -/
def Core.groupsReached (k : Core) (t : Nat) : List Nat :=
  let lanes := ((List.range 64).filter fun l => k.lanemap.getLsbD l).take t
  (List.range 8).filter fun g => lanes.any fun l => l / 8 == g

/-- A lane group runs: powered, or in hold with its switches closed (R385). -/
def Power.runs : Power → Bool
  | .on => true
  | .hold => true
  | _ => false

/-- The lane groups that a hart's tile reaches, with their cores: a ganged hart counts the lanes of both cores, those of
the lower core first (R194, R383). -/
def State.tileGroups (s : State) (c : CoreId) (h : Hart) : List (CoreId × Nat) :=
  ((s.core c).groupsReached h.tile).map (fun g => (c, g))
    ++ if h.gang = .lower then ((s.core (upperCore c)).groupsReached (h.tile - (s.core c).lanes)).map (fun g => (upperCore c, g)) else []

/-- The lane groups that the tile of the hart that acts reaches and that are not powered. -/
def State.sleepingGroups (s : State) : List (CoreId × Nat) :=
  (s.tileGroups s.cur.core s.me).filter fun p => !(vget (s.core p.1).groups p.2 .on).runs

/-- Wakes of lane groups (R385). -/
def State.wakeGroups (s : State) (ps : List (CoreId × Nat)) : State := ps.foldl (fun s p => s.wakeGroup p.1 p.2) s

/-- The hart stays at its instruction; its oldest outstanding result arrives meanwhile (R32-R34). -/
def State.stall (s : State) : State := s.deliverFirst

/-- The open strip committed for an instruction, and a new one begun once nothing of it is left (R180, R181).  The hart's
earlier reads perform first where the instruction orders them, or is a release at SYSTEM scope, which covers them (R305,
R317). -/
def State.committed (s : State) (u : Uses) : State :=
  let s := if u.orders || u.releases == some true then s.performReads else s
  s.commitStrip.modifyMe fun h => if h.strip.isEmpty then h.beginStrip h.pc else h

/-- The checks of R51 from ILLEGAL on, the waits of R33, R34 and R383, and the commit of the strip. -/
def State.prepare (s : State) (u : Uses) : Except Stop State :=
  let h := s.me
  if u.illegal || u.reads.any h.badRead || u.writes.any h.badWrite then raise s causeIllegal s.wordVal
  else if (u.priv && !s.isFirmware) || (u.userOnly && s.isFirmware) then raise s causePriv s.wordVal
  else
    match u.regs.find? (fun f => !f.ok) with
    | some f => raise s causeIllreg (fieldVal f.pos f.reg)
    | none =>
      if u.vown && h.vlazy then raiseAhead s causeVown 0
      else
        match u.sources.find? (fun q => q.ready && h.isEmptySource q) with
        | some q => raiseAhead s causeEmptyreg (fieldVal q.pos q.reg)
        | none =>
          if u.sources.any h.isEmptySource || u.dests.any (fun d => !h.holds d.1 d.2) then .error (.stall s.stall)
          else
            match h.unstarted (u.reads ++ u.writes) with
            | some i =>
              match (h.stream i).condFault with
              | some f =>
                raise (s.setMe (h.setStream i { h.stream i with condFault := none })) f.cause f.val
              | none => .error (.wait (.pop i) s)
            | none =>
              if u.lanes && !s.sleepingGroups.isEmpty then
                .error (.stall (s.stall.wakeGroups s.sleepingGroups))
              else if u.commits then
                if h.fills.any (·.vector) then .error (.stall s.stall)
                else if !(s.committed u).me.strip.isEmpty && !u.parks then .error (.wait .strip (s.committed u))
                else
                  let s := s.committed u
                  match u.releases with
                  | some system => if s.releaseWaits system then .error (.wait (.release system) s) else .ok s
                  | none => .ok s
              else .ok s

/-- Busy cycles at their place in hand-off order (R377). -/
def insertBusy (b : Busy) : List Busy → List Busy
  | [] => [b]
  | x :: xs => if x.age ≤ b.age then x :: insertBusy b xs else b :: x :: xs

/-- Busy cycles of an instruction or command of the given age are queued at the units of a core for a user context; work
in trap mode is not charged (R377, R381). -/
def State.chargeAged (s : State) (c : CoreId) (age : Nat) (work : List (ActClass × Nat)) : State :=
  if h : s.cur.ctx.val < 4 then
    s.modifyCore c fun k => { k with busy := work.foldl (fun bs w => insertBusy
      { core := s.cur.core, ctx := ⟨s.cur.ctx.val, h⟩, hart := s.me.id, cls := w.1, cycles := max 1 w.2, age } bs) k.busy }
  else s

/-- One more instruction or command is handed to the units of a core (R77). -/
def State.handOff (s : State) (c : CoreId) : State := s.modifyCore c fun k => { k with handed := k.handed + 1 }

/-- Busy cycles of an instruction that is handed off now. -/
def State.chargeOn (s : State) (c : CoreId) (work : List (ActClass × Nat)) : State :=
  (s.chargeAged c (s.core c).handed work).handOff c

/-- Busy cycles at the units of the hart's own core. -/
def State.charge (s : State) (work : List (ActClass × Nat)) : State := s.chargeOn s.cur.core work

/-- Busy cycles on the lanes, which for a ganged hart are those of both cores (R379). -/
def State.chargeLanes (s : State) (work : List (ActClass × Nat)) : State :=
  if s.me.gang = .lower then (s.charge work).chargeOn (upperCore s.cur.core) work else s.charge work

/-- The busy cycles that an instruction asks for. -/
def State.chargeUses (s : State) (u : Uses) : State := if u.lanes then s.chargeLanes u.work else s.charge u.work

/-- An instruction has completed: the next one is at `pc`, and a new strip begins after one that committed (R180). -/
def State.complete (s : State) (u : Uses) (pc : Word) : State :=
  (s.chargeUses u).modifyMe fun h =>
    let h := { h with pc := pc, eltDone := 0, popFault := false, appending := none, rowDone := 0 }
    if u.commits then h.beginStrip pc else h

/-- An instruction that names the next program counter itself. -/
def issueTo (s : State) (u : Uses) (body : State → Except Stop (State × Word)) : Host.Outcome State Fault Refusal :=
  finish <|
    match s.prepare u with
    | .error e => .error e
    | .ok s1 =>
      match body s1 with
      | .error e => .error e
      | .ok (s2, pc) => .ok (s2.complete u pc)

/-- An instruction that goes on at the next one. -/
def issue (s : State) (u : Uses) (body : State → Except Stop State) : Host.Outcome State Fault Refusal :=
  issueTo s u fun s1 =>
    match body s1 with
    | .error e => .error e
    | .ok s2 => .ok (s2, s.me.pc + word u.len)

/-! ### Elements and tiles (R21-R23) -/

/-- Element i of a register under SEW. -/
def elem (sew x i : Nat) : Nat := fieldOf x (i * sew) sew

/-- A register with elements 0 to n-1 replaced by the values listed, and the rest kept (R23). -/
def splice (sew old : Nat) (xs : List Nat) : Nat :=
  old / 2 ^ (xs.length * sew) * 2 ^ (xs.length * sew) + ofWords sew xs

/-- The active bit of linear index i (R26). -/
def Hart.masked (h : Hart) (i : Nat) : Bool := bitAt (h.readM 0) i

/-- An element that the instruction still has to do: none below the element from which it resumes, and none from the one
at which it will stop (R162, R174). -/
def Hart.inRange (h : Hart) (i : Nat) : Bool :=
  decide (h.eltDone ≤ i) && (match h.eltEnd with
    | none => true
    | some e => decide (i < e))

/-- An active element that the instruction still has to do. -/
def Hart.active (h : Hart) (i : Nat) : Bool := h.inRange i && h.masked i

/-- A register in which element i takes `f i`, or keeps its value where `f i` is none. -/
def Hart.tileOf (h : Hart) (old : Nat) (f : Nat → Option Nat) : Nat :=
  splice h.sew old ((List.range h.tile).map fun i => (f i).getD (elem h.sew old i))

/-- A mask in which bit i takes `f i` below T, or keeps its value where `f i` is none. -/
def Hart.maskOf (h : Hart) (old : Nat) (f : Nat → Option Bool) : Nat :=
  splice 1 old ((List.range h.tile).map fun i =>
    match f i with
    | some b => if b then 1 else 0
    | none => fieldOf old i 1)

/-! ### Copy commands in hand (R150) -/

/-- The least and the greatest byte of a side of a command, for its rows from a first byte on. -/
def sideRange (shape : Word) (stride : Int) (first : Nat) : Int × Int :=
  let len := fieldOf shape.toNat 0 24
  let rows := fieldOf shape.toNat 24 16
  let last : Int := first + (rows - 1 : Nat) * stride
  (min (first : Int) last, max (first : Int) last + len)

/-- Whether n bytes at a buffer-local address lie in the range of a command on its aperture side. -/
def CopyCmd.overlaps (q : CopyCmd) (b : BufId) (a n : Nat) : Bool :=
  let hits (side : Option (BufId × Nat)) (stride : Int) : Bool :=
    match side with
    | some (b', first) =>
      let (lo, hi) := sideRange q.shape stride first
      b' == b && decide (lo < ((a + n : Nat) : Int)) && decide ((a : Int) < hi)
    | none => false
  let dstStride : Int :=
    if q.slotBase.isSome then (fieldOf q.shape.toNat 0 24 : Nat) else signed 32 (fieldOf q.strides.toNat 32 32)
  hits q.srcBuf (signed 32 q.strides.toNat) || hits q.dstBuf dstStride

/-- The copy command of the hart for which its access at a place must wait. -/
def Hart.copyHolding (h : Hart) (p : Place) (n : Nat) : Option CopyCmd :=
  match p with
  | .buffer _ b a => h.cmds.find? fun q => q.overlaps b a n
  | _ => none

/-- Whether an access of the hart at a place must wait for one of its copy commands. -/
def Hart.copyBusy (h : Hart) (p : Place) (n : Nat) : Bool := (h.copyHolding p n).isSome

/-- Whether one of a list of accesses must wait for a copy command. -/
def State.copyBlocks (s : State) (g : Agent) (k : Access) (vas : List Word) (n : Nat) : Bool :=
  !s.me.cmds.isEmpty && vas.any fun va => match s.locate g k va with
    | .ok p => s.me.copyBusy p n
    | .error _ => false

/-! ### The route planner (R141, R142) -/

/-- The bank of a buffer-local address, W from 0 and X from 24 (R141). -/
def bankOf (b : BufId) (x : Nat) : Nat :=
  match b with
  | .w => x / 8 % 24
  | .x => 24 + x / 8 % 16

/-- The row of a buffer-local address within its bank (R141). -/
def rowOf (b : BufId) (x : Nat) : Nat :=
  match b with
  | .w => x / 8 / 24
  | .x => x / 8 / 16

/-- The bank and the row of an address of the Z buffer, from bank 40 (R141); slot n holds 8,192 bytes from 8192 n. -/
def bankOfZ (x : Nat) : Nat := 40 + x / 64 % 8
def rowOfZ (x : Nat) : Nat := x / 64 / 8

/-- The words that an access takes into one pass, and those that wait for the next. -/
def onePass (pass : List (BufId × Nat)) : List (BufId × Nat) → List (BufId × Nat) × List (BufId × Nat)
  | [] => (pass, [])
  | w :: ws =>
    let fits := pass.contains w ||
      (decide (pass.length < 32) && decide ((pass.filter fun q => bankOf q.1 (8 * q.2) == bankOf w.1 (8 * w.2)).length < 2))
    if fits then onePass (if pass.contains w then pass else w :: pass) ws
    else
      let (p, rest) := onePass pass ws
      (p, w :: rest)

/-- The number of passes of a list of words. -/
def passes : Nat → List (BufId × Nat) → Nat
  | 0, _ => 0
  | _, [] => 0
  | n + 1, ws => 1 + passes n (onePass [] ws).2

/-- The buffer words of the places that an access reaches. -/
def bufferWords (ps : List Place) : List (BufId × Nat) :=
  ps.filterMap fun p => match p with
    | .buffer _ b a => some (b, a / 8)
    | _ => none

/-- Busy cycles of a vector memory instruction beyond those of its tile: the passes after the first (R379). -/
def extraPasses (ps : List Place) : Nat := passes ps.length (bufferWords ps) - 1

/-- Lanes that serve the hart: those of both cores when it is ganged (R29). -/
def State.hartLanes (s : State) (c : CoreId) (h : Hart) : Nat :=
  (s.core c).lanes + (if h.gang = .lower then (s.core (upperCore c)).lanes else 0)

/-- Busy cycles of n elements on the lanes in service (R379). -/
def State.tileCycles (s : State) (n : Nat) : Nat := ceilDiv n (s.hartLanes s.cur.core s.me)

/-! ### Pops and pushes (R173, R174, R176) -/

/-- What a local fetch of one element meets; none where a watermark holds it back (R174, R285).  Stream reads do not
see the open strip (R177). -/
def State.fetchElement (s : State) (va : Word) (n : Nat) : Except (Word × Nat) Fetched :=
  match s.locate .reader .load va with
  | .error c => .ok (.fault { cause := c, val := va })
  | .ok p =>
    match s.watermarkStall va with
    | .error (c, w) => .ok (.fault { cause := c, val := w })
    | .ok (some w) => .error w
    | .ok none => if s.isPoisonedAt p n then .ok .poisoned else .ok (.value (s.readPlace p n))

/-- The stream's fetching waits for stores that precede its last SBAR: pushes of the hart to other devices that have
not reached their home (R176). -/
def State.fetchHeld (s : State) (t : Stream) : Bool :=
  s.dev.outgoing.any fun o => match o with
    | .push _ q _ n _ _ _ => q.core == s.cur.core && q.hart == s.me.id && decide (n < t.after)
    | _ => false

/-- What an element that is popped now stands as: what its engine holds, or what is fetched now for an element that the
instruction wants (R125).  An element that it does not want is left to be read later. -/
def State.popElement (s : State) (t : Stream) (want : Bool) (p : Nat) (held : Option Fetched) :
    Except (Option (Word × Nat)) Fetched :=
  if t.total ≤ p then .ok (.value 0)
  else
    match held with
    | some (.value x) => .ok (.value x)
    | some (.fault h) => .ok (.fault h)
    | some .poisoned => .ok .poisoned
    | _ =>
      if !want then .ok .again
      else if t.remote || s.fetchHeld t then .error none
      else
        match s.fetchElement (t.address p) (2 ^ t.esz) with
        | .ok f => .ok f
        | .error w => .error (some w)

/-- The elements of a pop, from what was fetched ahead and what is fetched now: `n` elements from index i on. -/
def State.gather (s : State) (t : Stream) (want : Nat → Bool) :
    Nat → Nat → List Fetched → Except (List Fetched × Option (Word × Nat)) (List Fetched)
  | 0, _, _ => .ok []
  | n + 1, i, ahead =>
    match s.popElement t (want i) (t.position.toNat + i) ahead.head? with
    | .error w => .error (ahead, w)
    | .ok f =>
      match s.gather t want n (i + 1) ahead.tail with
      | .ok fs => .ok (f :: fs)
      | .error (fs, w) => .error (f :: fs, w)

/-- The first wanted element of a tile that is not a value, with its index. -/
def firstBad (want : Nat → Bool) : Nat → List Fetched → Option (Nat × Fetched)
  | _, [] => none
  | i, .value _ :: fs => firstBad want (i + 1) fs
  | i, f :: fs => if want i then some (i, f) else firstBad want (i + 1) fs

/-- The values of a tile. -/
def fetchedValue : Fetched → Nat
  | .value x => x
  | _ => 0

/-- The element at an index is marked to be read again. -/
def markAgain : Nat → List Fetched → List Fetched
  | _, [] => []
  | 0, _ :: fs => .again :: fs
  | i + 1, f :: fs => f :: markAgain i fs

/-- The elements of main memory that a pop has read are counted: those that stand there now and did not before (R128). -/
def State.countFetched (s : State) (t : Stream) (fs : List Fetched) : State :=
  if t.remote then s
  else
    s.countAll (fs.zipIdx.flatMap fun e =>
      let va := t.address (t.position.toNat + e.2)
      match e.1, t.ahead[e.2]? with
      | .value _, some (.value _) => []
      | .value _, _ => (s.locate .reader .load va).toOption.toList ++ s.guardPlaces va
      | _, _ => [])

/-- The tile at the position of an input stream, as the register content it stands for (R173).  The elements stay with
the stream until the instruction completes, so that a restart does not pop again (R174). -/
def State.fetchTile (s : State) (want : Nat → Bool) (i : StreamId) : Except Stop (Nat × Option (Nat × Fetched) × State) :=
  let h := s.me
  let t := h.stream i
  let keep (fs : List Fetched) : State :=
    (s.countFetched t (fs.take (h.popNeed t))).setMe
      (h.setStream i { t with ahead := fs.take (h.popNeed t) ++ t.ahead.drop h.tile })
  let vas := (((List.range (h.popNeed t)).drop t.ahead.length).filter want).map fun i => t.address (t.position.toNat + i)
  if !t.remote && s.copyBlocks .reader .load vas (2 ^ t.esz) then .error (.stall s.stall)
  else
  match s.gather t want h.tile 0 t.ahead with
  | .error (fs, some (w, n)) => .error (.wait (.watermark w n) (keep fs))
  | .error (fs, none) => .error (.wait (.pop i) (keep fs))
  | .ok fs => .ok (ofWords h.sew (fs.map fetchedValue), firstBad want 0 fs, keep fs)

/-- The fault of a popped element that an instruction meets: its index, its stream and what it is. -/
abbrev PopFault := Nat × StreamId × Fetched

/-- The fault at the lower index. -/
def earlier (i : StreamId) (new : Option (Nat × Fetched)) (old : Option PopFault) : Option PopFault :=
  match new, old with
  | none, o => o
  | some (j, f), none => some (j, i, f)
  | some (j, f), some o => if j ≤ o.1 then some (j, i, f) else some o

/-- The contents that a list of vector names stands for, and the first wanted element that has a fault; a name that is
read twice is one pop (R173). -/
def State.readTiles (s : State) (want : Nat → Bool) : List Reg → Except Stop (List (Reg × Nat) × Option PopFault × State)
  | [] => .ok ([], none, s)
  | r :: rs =>
    match s.readTiles want rs with
    | .error e => .error e
    | .ok (xs, bad, s) =>
      if xs.any (fun p => p.1 == r) then .ok (xs, bad, s)
      else
        match s.me.streamOf r with
        | none => .ok ((r, s.me.readV r) :: xs, bad, s)
        | some i =>
          match s.fetchTile want i with
          | .error e => .error e
          | .ok (x, new, s) => .ok ((r, x) :: xs, earlier i new bad, s)

/-- The position after one tile; at TOTAL the stream is DONE (R173). -/
def Hart.pastTile (h : Hart) (t : Stream) : Stream :=
  let position := min (t.position.toNat + h.tile) t.total
  { t with position := word position, phase := if t.total ≤ position then .done else t.phase }

/-- The pop of one tile completes. -/
def Hart.popStream (h : Hart) (i : StreamId) : Hart :=
  let t := h.stream i
  h.setStream i { h.pastTile t with ahead := t.ahead.drop h.tile }

/-- The VMEM cycles of a stream's tile: its elements on the lanes, and the passes after the first over the elements that
are read or stored (R142, R379). -/
def State.chargeTile (s : State) (t : Stream) (want : Nat → Bool) (g : Agent) (k : Access) : State :=
  let places := if t.remote then [] else ((List.range (s.me.popNeed t)).filter want).filterMap fun i =>
    match s.locate g k (t.address (t.position.toNat + i)) with
    | .ok p => some p
    | .error _ => none
  s.chargeLanes [(.vmem, s.tileCycles s.me.tile + extraPasses places)]

/-- The pops of an instruction complete: each stream among the names it read, once. -/
def State.popTiles (s : State) (want : Nat → Bool) (rs : List Reg) : State :=
  ((rs.filterMap s.me.streamOf).eraseDups).foldl
    (fun s i => (s.chargeTile (s.me.stream i) want .reader .load).modifyMe fun h => h.popStream i) s

/-- What a stop carries, changed. -/
def Stop.map (f : State → State) : Stop → Stop
  | .trap t s => .trap t (f s)
  | .wait w s => .wait w (f s)
  | .stall s => .stall (f s)
  | .lost s => .lost (f s)

/-- The fault of a popped element stops the instruction at that element (R174): it raises the trap of R162, or its strip
is lost (R182). -/
def State.popStop (s : State) (b : PopFault) : Stop :=
  match b.2.2 with
  | .fault f =>
    .trap { cause := f.cause, val := f.val, elt := word b.1 }
      (s.modifyMe fun h => h.setStream b.2.1 { h.stream b.2.1 with ahead := markAgain b.1 (h.stream b.2.1).ahead })
  | _ => .lost s

/-- The elements below a fault take effect, as far as the instruction's own effect goes on without a stop; no stream
advances (R162, R174).  A poisoned element discards the strip, and with it every effect of the instruction: none of its
elements takes effect (R182). -/
def State.runBelow (s : State) (b : PopFault) (body : State → Except Stop State) : Stop :=
  match body (s.modifyMe fun h => { h with eltEnd := some b.1 }) with
  | .error e => e.map fun s => s.modifyMe fun h => { h with eltEnd := none }
  | .ok t =>
    match b.2.2 with
    | .poisoned => s.popStop b
    | _ => (t.modifyMe fun h => { h with eltEnd := none, streams := s.me.streams }).popStop b

/-- An instruction over tiles, element by element: the contents of the names it reads, its effect, and the pops.  Where a
popped element has a fault, the elements below it take effect and the instruction stops there (R162, R174). -/
def State.withTilesOf (s : State) (want : Nat → Bool) (rs : List Reg)
    (body : List (Reg × Nat) → State → Except Stop State) : Except Stop State :=
  match s.readTiles want rs with
  | .error e => .error e
  | .ok (xs, some b, s) => .error (s.runBelow b (body xs))
  | .ok (xs, none, s) =>
    match body xs s with
    | .error e => .error e
    | .ok s => .ok (s.popTiles want rs)

/-- An instruction over the active elements of tiles. -/
def State.withTiles (s : State) (rs : List Reg) (body : List (Reg × Nat) → State → Except Stop State) :
    Except Stop State :=
  s.withTilesOf s.me.active rs body

/-- An instruction that begins again after the fault of a popped element has done none of its elements (log 60). -/
def Hart.redo (h : Hart) : Hart := if h.popFault then { h with eltDone := 0, popFault := false } else h

/-- Where an instruction that goes on from element or row `lo`, to `hi`, stops in this act for other agents to act, if it
does (R240, R303, log 2). -/
def Hart.pauseAt (h : Hart) (lo hi : Nat) : Option Nat := (h.pace.map (lo + ·)).filter fun e => decide (e < hi)

/-- The hart stands before element e of its instruction: others may act. -/
def Hart.pauseBefore (h : Hart) (e : Nat) : Hart := { h with eltDone := e, eltEnd := none, pace := none }

/-- Every element of a tile. -/
def everyElement : Nat → Bool := fun _ => true

/-- An instruction over whole tiles: nothing takes effect before every element that it wants has been popped (log 60). -/
def State.withWhole (s : State) (want : Nat → Bool) (rs : List Reg) (body : List (Reg × Nat) → State → Except Stop State) :
    Except Stop State :=
  match (s.modifyMe Hart.redo).readTiles want rs with
  | .error e => .error e
  | .ok (_, some b, s) => .error ((s.modifyMe fun h => { h with popFault := true }).popStop b)
  | .ok (xs, none, s) =>
    match body xs s with
    | .error e => .error e
    | .ok s => .ok (s.popTiles want rs)

/-- The content of one name among those read. -/
def tileOfName (xs : List (Reg × Nat)) (r : Reg) : Nat := ((xs.find? fun p => p.1 == r).map (·.2)).getD 0

/-- The elements of a push, placed in order from element `i` on (R173, R177). -/
def State.pushFrom (s : State) (st : StreamId) (t : Stream) (f : Nat → Option Nat) :
    Nat → Nat → List (Place × Nat × Nat) → List StripItem → Except (Trap × List StripItem) (List StripItem)
  | 0, _, local_, items => .ok (items ++ [.stores local_])
  | n + 1, i, local_, items =>
    let p := t.position.toNat + i
    match f i with
    | none => s.pushFrom st t f n (i + 1) local_ items
    | some x =>
      if t.total ≤ p then s.pushFrom st t f n (i + 1) local_ items
      else if t.remote then
        s.pushFrom st t f n (i + 1) local_ (items ++ [.push t.device st (t.address p) (2 ^ t.esz) x])
      else
        match s.locate .writer .store (t.address p) with
        | .ok pl => s.pushFrom st t f n (i + 1) (local_ ++ [(pl, 2 ^ t.esz, x)]) items
        | .error c => .error ({ cause := c, val := t.address p, elt := word i }, items ++ [.stores local_])

/-- The places that an item of the strip stores to. -/
def StripItem.places : StripItem → List Place
  | .stores es _ => es.map (·.1)
  | _ => []

/-- Elements of a tile placed as a push, up to a bound, from the elements not yet placed (R162, R173). -/
def State.pushUpTo (s : State) (i : StreamId) (hi : Nat) (f : Nat → Option Nat) : Except Stop State :=
  let h := s.me
  let t := h.stream i
  let vas := (((List.range hi).drop h.eltDone).filter fun j => (f j).isSome).map fun j => t.address (t.position.toNat + j)
  if !t.remote && s.copyBlocks .writer .store vas (2 ^ t.esz) then .error (.stall s.stall)
  else
  let place (items : List StripItem) : State :=
    (s.countAll (items.flatMap StripItem.places)).setMe { h with strip := h.strip ++ items }
  match s.pushFrom i t f (hi - h.eltDone) h.eltDone [] [] with
  | .error (tr, items) => .error (.trap tr (place items))
  | .ok items => .ok (place items)

/-- A tile pushed to an output stream, at the elements at which `f` has a value; the position advances by the tile
(R173). -/
def State.pushTile (s : State) (i : StreamId) (f : Nat → Option Nat) : Except Stop State :=
  match s.pushUpTo i s.me.tile fun j => (f j).map (· % 2 ^ s.me.sew) with
  | .error e => .error e
  | .ok s => .ok ((s.chargeTile (s.me.stream i) (fun j => (f j).isSome) .writer .store).modifyMe fun h => h.setStream i (h.pastTile (h.stream i)))

/-- A push of an instruction: its active elements are stored (R173). -/
def State.push (s : State) (i : StreamId) (f : Nat → Option Nat) : Except Stop State :=
  s.pushTile i fun j => if s.me.active j then f j else none

/-- A tile written to a vector name: to the register, or to the output stream bound to it (R173). -/
def State.writeTile (s : State) (d : Reg) (f : Nat → Option Nat) : Except Stop State :=
  match s.me.streamOf d with
  | none => .ok (s.modifyMe fun h => h.writeV d (h.tileOf (h.readV d) f))
  | some i => s.push i f

/-- One element of D written: in the register whatever m0 holds (R213, R227), or, as the one element of a push, where m0
has it active: an inactive element stores nothing (R173, log 62). -/
def State.writeOne (s : State) (d : Reg) (n x : Nat) : Except Stop State :=
  match s.me.streamOf d with
  | none => .ok (s.modifyMe fun h => h.writeV d (setField (h.readV d) (n * h.sew) h.sew x))
  | some i => s.pushTile i fun j => if j = n ∧ s.me.masked j then some x else none

/-- The content that a read of a name stands for, to its low `n` bits: beyond a popped tile the rules give no bits, and
they are free values (log 5). -/
def State.contentBits (s : State) (xs : List (Reg × Nat)) (r : Reg) (n : Nat) : Nat :=
  let x := tileOfName xs r
  let have_ := s.me.tile * s.me.sew
  if (s.me.streamOf r).isSome ∧ have_ < n then
    x + 2 ^ have_ * ofWords 64 ((List.range (ceilDiv (n - have_) 64)).map fun i => (Config.freeWord s.fresh i).toNat)
  else x

/-- The free values of a read taken, where there were any. -/
def State.takeContent (s : State) (r : Reg) : State := if (s.me.streamOf r).isSome then s.takeFresh else s

/-! ### Element operands of vector instructions (R41) -/

/-- A scalar, constant or literal B of an integer instruction, as the low SEW bits. -/
def Hart.srcElem (h : Hart) (b : Src) : Nat := (h.srcWord b).toNat % 2 ^ h.sew

/-- A scalar, constant or literal B of a float instruction, converted once under RNE; without a conversion the bits are
kept. -/
def Hart.srcFloatElem (h : Hart) (b : Src) : Nat :=
  match b with
  | .lit w => if h.fmt = .fp32 then w.toNat else convert .fp32 h.fmt .nearest w.toNat
  | _ => if h.fmt = .fp64 then (h.srcWord b).toNat else convert .fp64 h.fmt .nearest (h.srcWord b).toNat

/-- The vector names that source B reads. -/
def srcTiles : Src → List Reg
  | .reg r _ => [r]
  | _ => []

/-- Element i of B: of the vector, or the one value that every element takes. -/
def Hart.elemB (h : Hart) (xs : List (Reg × Nat)) (isFloat : Bool) (b : Src) (i : Nat) : Nat :=
  match b with
  | .reg r _ => elem h.sew (tileOfName xs r) i
  | _ => if isFloat then h.srcFloatElem b else h.srcElem b

/-- The rounding of the element with linear index i (R62, R65, R66). -/
def State.rounding (s : State) (i : Nat) : Rounding :=
  let h := s.me
  { mode := h.rm
    r := if h.vl = 0 then 0 else i / h.vl.toNat
    e := if h.vl = 0 then 0 else i % h.vl.toNat
    seed := word (s.myCore.srhen.toNat / 256 * 256) }

end Sys2Proof.Machine
end

