-- ==== Sys2Proof/Machine/Flags.lean ====
section
/-!
DEFINITION. The conditions that instructions compute: branch conditions, compares, classes and mask scans
(R80, R86-R88, R207, R211, R212, R220).
-/

namespace Sys2Proof.Machine

/-- A signed compare of 64-bit words. -/
def sLess (x y : Word) : Bool := BitVec.slt x y

/-- Whether a mask has a set bit below T. -/
def anyBelow (m t : Nat) : Bool := decide (m % 2 ^ t ≠ 0)

/-- The condition of BR on a scalar register (R88). -/
def scalarCond (cond : BitVec 3) (x : Word) : Bool :=
  match cond.toNat with
  | 0 => x == 0
  | 1 => x != 0
  | 2 => sLess x 0
  | 3 => !sLess x 0
  | 4 => sLess 0 x
  | _ => !sLess 0 x

/-- The outcome of an integer compare of two elements (R207). -/
def compareElems (fn sew x y : Nat) : Bool :=
  match fn with
  | 2 => x == y
  | 3 => decide (signed sew x < signed sew y)
  | 4 => decide (x < y)
  | 5 => decide (signed sew x ≤ signed sew y)
  | _ => decide (x ≤ y)

/-- The lowest e < n with bit `lo + e` of a mask set, or n: f_r of R211 for a row. -/
def rowFirst (m lo n : Nat) : Nat := firstSet n (m / 2 ^ lo)

end Sys2Proof.Machine
end

