-- ==== Sys2Proof/Machine/Fetch.lean ====
section
/-!
DEFINITION. Fetching blocks, and where a control transfer may land (R37, R42-R44, R79).
-/

namespace Sys2Proof.Machine

/-- The sixteen words of a block as memory holds them. -/
def blockWords (d : Device) (pa : Nat) : List (BitVec 32) :=
  (wordsOf 32 16 (d.load pa 64)).map (BitVec.ofNat 32)

/-- The block that holds an address, from the blocks already fetched or from memory (R44, R123). -/
def State.fetchBlock (s : State) (va : Word) : Except (BitVec 8) (List (BitVec 32) × State) :=
  let key := va.toNat / 64
  match s.me.blocks.find? (fun b => b.1 == key) with
  | some b => .ok (b.2, s)
  | none =>
    match s.locate .fetch .fetch va with
    | .error c => .error c
    | .ok (.main pa) =>
      if s.dev.isPoisoned pa then .error causeFenced
      else
        let ws := blockWords s.dev (pa / 64 * 64)
        .ok (ws, (s.count (.main pa)).modifyMe fun h => { h with blocks := (key, ws) :: h.blocks })
    | .ok _ => .error causeAccess

/-- The index of an address in its block. -/
def wordIndex (va : Word) : Nat := va.toNat / 4 % 16

/-- Whether an address is a literal word of its block (R42). -/
def isLiteralAt (ws : List (BitVec 32)) (va : Word) : Bool :=
  ((literalWords false (ws.map BitVec.toNat))[wordIndex va]?).getD false

/-- The fetch and classification of the target of a transfer, before it takes effect (R79). -/
def State.land (s : State) (target : Word) : Except Stop State :=
  match s.fetchBlock target with
  | .error c => raise s c target
  | .ok (ws, s') => if isLiteralAt ws target then raise s causeLitland target else .ok s'

end Sys2Proof.Machine
end

