-- ==== Sys2Proof/Machine/Scalar.lean ====
section
/-!
DEFINITION. Scalar integer, constant and scalar floating-point instructions (R80-R87).
-/

namespace Sys2Proof.Machine

/-! ### Integer operations (R80, R81) -/

/-- sh: bits [5:0] of B. -/
def shiftAmount (y : Word) : Nat := y.toNat % 64

def mulHighSigned (x y : Word) : Word := BitVec.ofInt 64 (x.toInt * y.toInt / 2 ^ 64)
def mulHighUnsigned (x y : Word) : Word := word (x.toNat * y.toNat / 2 ^ 64)
def divSigned (x y : Word) : Word := if y = 0 then BitVec.allOnes 64 else BitVec.sdiv x y
def divUnsigned (x y : Word) : Word := if y = 0 then BitVec.allOnes 64 else x / y
def remSigned (x y : Word) : Word := x - y * BitVec.sdiv x y
def remUnsigned (x y : Word) : Word := if y = 0 then x else x % y
def rotateLeft (x y : Word) : Word := x.rotateLeft (shiftAmount y)
def signExtendFrom (x y : Word) : Word := word (wrap 64 (signed (shiftAmount y + 1) x.toNat))

/-- A register-register integer instruction: D := f A B (R80). -/
def scalarBinary (d a : Reg) (b : Src) (fa : Bool) (f : Word → Word → Word) (s : State) :
    Host.Outcome State Fault Refusal :=
  issue s
    { len := srcBytes b
      regs := [⟨2, d, isScalar d⟩, ⟨0, a, isScalar a⟩] ++ srcField isScalar b
      sources := ⟨0, .x, a, fa⟩ :: srcSource .x b
      dests := [(.x, d)] }
    fun s => .ok (s.modifyMe fun h => h.writeX d (f (h.readX a) (h.srcWord b)))

/-- A unary instruction on a scalar register: D := f A. -/
def scalarUnary (d a : Reg) (fa : Bool) (f : Word → Word) (s : State) : Host.Outcome State Fault Refusal :=
  issue s
    { regs := [⟨2, d, isScalar d⟩, ⟨0, a, isScalar a⟩]
      sources := [⟨0, .x, a, fa⟩]
      dests := [(.x, d)] }
    fun s => .ok (s.modifyMe fun h => h.writeX d (f (h.readX a)))

def execAdd (d a : Reg) (b : Src) (fa : Bool) (s : State) := scalarBinary d a b fa (· + ·) s
def execSub (d a : Reg) (b : Src) (fa : Bool) (s : State) := scalarBinary d a b fa (· - ·) s
def execMul (d a : Reg) (b : Src) (fa : Bool) (s : State) := scalarBinary d a b fa (· * ·) s
def execMulhs (d a : Reg) (b : Src) (fa : Bool) (s : State) := scalarBinary d a b fa mulHighSigned s
def execMulhu (d a : Reg) (b : Src) (fa : Bool) (s : State) := scalarBinary d a b fa mulHighUnsigned s
def execDivs (d a : Reg) (b : Src) (fa : Bool) (s : State) := scalarBinary d a b fa divSigned s
def execDivu (d a : Reg) (b : Src) (fa : Bool) (s : State) := scalarBinary d a b fa divUnsigned s
def execRems (d a : Reg) (b : Src) (fa : Bool) (s : State) := scalarBinary d a b fa remSigned s
def execRemu (d a : Reg) (b : Src) (fa : Bool) (s : State) := scalarBinary d a b fa remUnsigned s
def execAnd (d a : Reg) (b : Src) (fa : Bool) (s : State) := scalarBinary d a b fa (· &&& ·) s
def execOr (d a : Reg) (b : Src) (fa : Bool) (s : State) := scalarBinary d a b fa (· ||| ·) s
def execXor (d a : Reg) (b : Src) (fa : Bool) (s : State) := scalarBinary d a b fa (· ^^^ ·) s
def execAndn (d a : Reg) (b : Src) (fa : Bool) (s : State) := scalarBinary d a b fa (fun x y => x &&& ~~~y) s
def execShl (d a : Reg) (b : Src) (fa : Bool) (s : State) := scalarBinary d a b fa (fun x y => x <<< shiftAmount y) s
def execShr (d a : Reg) (b : Src) (fa : Bool) (s : State) := scalarBinary d a b fa (fun x y => x >>> shiftAmount y) s
def execSra (d a : Reg) (b : Src) (fa : Bool) (s : State) :=
  scalarBinary d a b fa (fun x y => x.sshiftRight (shiftAmount y)) s
def execRotl (d a : Reg) (b : Src) (fa : Bool) (s : State) := scalarBinary d a b fa rotateLeft s
def execClz (d a : Reg) (fa : Bool) (s : State) := scalarUnary d a fa (fun x => word (leadingZeros 64 x.toNat)) s
def execCtz (d a : Reg) (fa : Bool) (s : State) := scalarUnary d a fa (fun x => word (trailingZeros 64 x.toNat)) s
def execPopc (d a : Reg) (fa : Bool) (s : State) := scalarUnary d a fa (fun x => word (popCount 64 x.toNat)) s
def execMins (d a : Reg) (b : Src) (fa : Bool) (s : State) :=
  scalarBinary d a b fa (fun x y => if sLess y x then y else x) s
def execMaxs (d a : Reg) (b : Src) (fa : Bool) (s : State) :=
  scalarBinary d a b fa (fun x y => if sLess x y then y else x) s
def execMinu (d a : Reg) (b : Src) (fa : Bool) (s : State) :=
  scalarBinary d a b fa (fun x y => if y < x then y else x) s
def execMaxu (d a : Reg) (b : Src) (fa : Bool) (s : State) :=
  scalarBinary d a b fa (fun x y => if x < y then y else x) s
def execSlt (d a : Reg) (b : Src) (fa : Bool) (s : State) := scalarBinary d a b fa (fun x y => wordOfBool (sLess x y)) s
def execSltu (d a : Reg) (b : Src) (fa : Bool) (s : State) :=
  scalarBinary d a b fa (fun x y => wordOfBool (decide (x < y))) s
def execSeq (d a : Reg) (b : Src) (fa : Bool) (s : State) := scalarBinary d a b fa (fun x y => wordOfBool (x == y)) s
def execExts (d a : Reg) (b : Src) (fa : Bool) (s : State) := scalarBinary d a b fa signExtendFrom s

/-- CMOV (R80): D is read and always waits; the old value is written back where it does not move. -/
def execCmov (d a : Reg) (b : Src) (fa : Bool) (s : State) : Host.Outcome State Fault Refusal :=
  issue s
    { len := srcBytes b
      regs := [⟨2, d, isScalar d⟩, ⟨0, a, isScalar a⟩] ++ srcField isScalar b
      sources := ⟨0, .x, a, fa⟩ :: srcSource .x b ++ [⟨2, .x, d, false⟩]
      dests := [(.x, d)] }
    fun s => .ok (s.modifyMe fun h => h.writeX d (if h.srcWord b = 0 then h.readX d else h.readX a))

/-! ### Constants (R82-R85) -/

/-- ADDI (R82): the source always waits. -/
def execAddi (d a : Reg) (imm : BitVec 14) (s : State) : Host.Outcome State Fault Refusal :=
  issue s
    { regs := [⟨2, d, isScalar d⟩, ⟨0, a, isScalar a⟩]
      sources := [⟨0, .x, a, false⟩]
      dests := [(.x, d)] }
    fun s => .ok (s.modifyMe fun h => h.writeX d (h.readX a + imm.signExtend 64))

/-- An instruction that writes a value to a scalar register and reads none. -/
def scalarConst (d : Reg) (f : Hart → Word) (s : State) : Host.Outcome State Fault Refusal :=
  issue s { regs := [⟨2, d, isScalar d⟩], dests := [(.x, d)] }
    fun s => .ok (s.modifyMe fun h => h.writeX d (f h))

def execLi (d : Reg) (imm : BitVec 20) (s : State) := scalarConst d (fun _ => imm.signExtend 64) s

/-- FLI (R85): the FP32 pattern IMM20 << 12 widened to FP64. -/
def execFli (d : Reg) (imm : BitVec 20) (s : State) :=
  scalarConst d (fun _ => word (convert .fp32 .fp64 .nearest (imm.toNat * 4096))) s

def execLc (d n : Reg) (s : State) := scalarConst d (fun h => h.constant n) s

/-! ### Floating point (R86, R87) -/

/-- The rounding of a scalar float instruction: coordinate (0, 0) (R65). -/
def State.scalarRounding (s : State) : Rounding :=
  { mode := s.me.rm, seed := word (s.myCore.srhen.toNat / 256 * 256) }

/-- The FP64 value of a register's bits. -/
def f64 (x : Word) : FVal := Fmt.fp64.value x.toNat

/-- A binary float instruction: D := f A B. -/
def floatBinary (d a : Reg) (b : Src) (fa : Bool) (f : Rounding → Word → Word → Word) (s : State) :
    Host.Outcome State Fault Refusal :=
  issue s
    { len := srcBytes b
      regs := [⟨2, d, isScalar d⟩, ⟨0, a, isScalar a⟩] ++ srcField isScalar b
      sources := ⟨0, .x, a, fa⟩ :: srcSource .x b
      dests := [(.x, d)] }
    fun s => .ok (s.modifyMe fun h => h.writeX d (f s.scalarRounding (h.readX a) (h.srcFloat b)))

/-- A unary float instruction: D := f A. -/
def floatUnary (d a : Reg) (fa : Bool) (f : Rounding → Word → Word) (s : State) : Host.Outcome State Fault Refusal :=
  issue s
    { regs := [⟨2, d, isScalar d⟩, ⟨0, a, isScalar a⟩]
      sources := [⟨0, .x, a, fa⟩]
      dests := [(.x, d)] }
    fun s => .ok (s.modifyMe fun h => h.writeX d (f s.scalarRounding (h.readX a)))

/-- A value rounded to FP64. -/
def round64 (rd : Rounding) (v : FVal) : Word := word (roundF .fp64 rd v)

def execFadd (d a : Reg) (b : Src) (fa : Bool) (s : State) :=
  floatBinary d a b fa (fun rd x y => round64 rd ((f64 x).add (rd.mode == .rdn) (f64 y))) s
def execFsub (d a : Reg) (b : Src) (fa : Bool) (s : State) :=
  floatBinary d a b fa (fun rd x y => round64 rd ((f64 x).add (rd.mode == .rdn) (f64 y).neg)) s
def execFmul (d a : Reg) (b : Src) (fa : Bool) (s : State) :=
  floatBinary d a b fa (fun rd x y => round64 rd ((f64 x).mul (f64 y))) s
def execFdiv (d a : Reg) (b : Src) (fa : Bool) (s : State) :=
  floatBinary d a b fa (fun rd x y => round64 rd ((f64 x).div (f64 y))) s
def execFsqrt (d a : Reg) (fa : Bool) (s : State) := floatUnary d a fa (fun rd x => round64 rd (f64 x).sqrt) s
def execFmin (d a : Reg) (b : Src) (fa : Bool) (s : State) :=
  floatBinary d a b fa (fun _ x y => word (minBits .fp64 x.toNat y.toNat)) s
def execFmax (d a : Reg) (b : Src) (fa : Bool) (s : State) :=
  floatBinary d a b fa (fun _ x y => word (maxBits .fp64 x.toNat y.toNat)) s
def execFeq (d a : Reg) (b : Src) (fa : Bool) (s : State) :=
  floatBinary d a b fa (fun _ x y => wordOfBool ((f64 x).eq (f64 y))) s
def execFlt (d a : Reg) (b : Src) (fa : Bool) (s : State) :=
  floatBinary d a b fa (fun _ x y => wordOfBool ((f64 x).lt (f64 y))) s
def execFle (d a : Reg) (b : Src) (fa : Bool) (s : State) :=
  floatBinary d a b fa (fun _ x y => wordOfBool ((f64 x).le (f64 y))) s
def execFcvtif (d a : Reg) (fa : Bool) (s : State) := floatUnary d a fa (fun rd x => round64 rd (ofInt x.toInt)) s
def execFcvtfi (d a : Reg) (fa : Bool) (s : State) :=
  floatUnary d a fa (fun rd x => word (wrap 64 (toInt 64 rd (f64 x)))) s
def execFsgnj (d a : Reg) (b : Src) (fa : Bool) (s : State) :=
  floatBinary d a b fa (fun _ x y => word (setField x.toNat 63 1 (fieldOf y.toNat 63 1))) s
def execFclass (d a : Reg) (fa : Bool) (s : State) := floatUnary d a fa (fun _ x => word (classMask .fp64 x.toNat)) s

/-- FFMA (R86): D := Round(A × B + D), one rounding; D is read and always waits. -/
def execFfma (d a : Reg) (b : Src) (fa : Bool) (s : State) : Host.Outcome State Fault Refusal :=
  issue s
    { len := srcBytes b
      regs := [⟨2, d, isScalar d⟩, ⟨0, a, isScalar a⟩] ++ srcField isScalar b
      sources := ⟨0, .x, a, fa⟩ :: srcSource .x b ++ [⟨2, .x, d, false⟩]
      dests := [(.x, d)] }
    fun s => .ok (s.modifyMe fun h =>
      let rd := s.scalarRounding
      h.writeX d (round64 rd (((f64 (h.readX a)).mul (f64 (h.srcFloat b))).add (rd.mode == .rdn) (f64 (h.readX d)))))

end Sys2Proof.Machine
end

