-- ==== Sys2Proof/Machine/Control.lean ====
section
/-!
DEFINITION. Branches and jumps, STRIP and MARK (R88-R94).
-/

namespace Sys2Proof.Machine

/-- BR (R88): a taken branch follows R79. -/
def execBr (a : Reg) (cond : BitVec 3) (off : BitVec 17) (s : State) : Host.Outcome State Fault Refusal :=
  let mask := decide (6 ≤ cond.toNat)
  issueTo s
    { regs := [⟨0, a, if mask then isMask a else isScalar a⟩]
      vown := mask
      sources := if mask then [] else [⟨0, .x, a, false⟩] }
    fun s =>
      let h := s.me
      let taken :=
        if mask then (if cond = 6 then anyBelow (h.readM a) h.tile else !anyBelow (h.readM a) h.tile)
        else scalarCond cond (h.readX a)
      let target := h.pc + 4 * off.signExtend 64
      if taken then
        match s.land target with
        | .error e => .error e
        | .ok s => .ok (s, target)
      else .ok (s, h.pc + 4)

/-- A jump that writes the address after it to D (R89, R90). -/
def State.jump (s : State) (d : Reg) (target : Word) : Except Stop (State × Word) :=
  match s.land target with
  | .error e => .error e
  | .ok s => .ok (s.modifyMe fun h => h.writeX d (h.pc + 4), target)

def execJal (d : Reg) (imm : BitVec 20) (s : State) : Host.Outcome State Fault Refusal :=
  issueTo s { regs := [⟨2, d, isScalar d⟩], dests := [(.x, d)] }
    fun s => s.jump d (s.me.pc + 4 * imm.signExtend 64)

/-- JR (R90): the target is read before D is written; a misaligned one raises ALIGN (R37). -/
def execJr (d a : Reg) (fa : Bool) (s : State) : Host.Outcome State Fault Refusal :=
  issueTo s
    { regs := [⟨2, d, isScalar d⟩, ⟨0, a, isScalar a⟩]
      sources := [⟨0, .x, a, fa⟩]
      dests := [(.x, d)] }
    fun s =>
      let target := s.me.readX a
      if target.toNat % 4 ≠ 0 then raise s causeAlign target else s.jump d target

/-- JTAB (R91): D is the length and is read; the table word is an ordinary load. -/
def execJtab (d a b : Reg) (fa fb : Bool) (s : State) : Host.Outcome State Fault Refusal :=
  issueTo s
    { regs := [⟨2, d, isG d⟩, ⟨0, a, isG a⟩, ⟨1, b, isAddress b⟩]
      sources := [⟨0, .x, a, fa⟩, ⟨1, .x, b, fb⟩, ⟨2, .x, d, false⟩] }
    fun s =>
      let h := s.me
      if h.readX a < h.readX d then
        let addr := h.readX b + 4 * h.readX a
        if addr.toNat % 4 ≠ 0 then raise s causeAlign addr
        else
          match s.loadBytes (.scalar false) addr 4 with
          | .error e => .error e
          | .ok (x, s) =>
            let target := h.pc + 4 * (BitVec.ofNat 32 x).signExtend 64
            match s.land target with
            | .error e => .error e
            | .ok s => .ok (s, target)
      else .ok (s, h.pc + 4)

/-- The address registers a0-a3 that ASEL selects, advanced by `step` bytes. -/
def Hart.advanceSelected (h : Hart) (asel : BitVec 4) (step : Word) : Hart :=
  (List.range 4).foldl (fun h j =>
    if asel.getLsbD j then h.writeX (BitVec.ofNat 6 (32 + j)) (h.readX (BitVec.ofNat 6 (32 + j)) + step) else h) h

/-- STRIP (R92, R180): the strip element base advances whether or not STRIP branches. -/
def execStrip (cnt : Reg) (asel : BitVec 4) (off : BitVec 16) (s : State) : Host.Outcome State Fault Refusal :=
  let selected := ((List.range 4).filter asel.getLsbD).map fun j => BitVec.ofNat 6 (32 + j)
  issueTo s
    { regs := [⟨3, cnt, isG cnt⟩]
      sources := ⟨3, .x, cnt, false⟩ :: selected.map fun r => ⟨3, .x, r, false⟩
      dests := [(.x, cnt)] }
    fun s =>
      let h := s.me
      let step := word h.tile
      let n := if step < h.readX cnt then h.readX cnt - step else 0
      let target := h.pc + 4 * off.signExtend 64
      match (if n = 0 then .ok s else s.land target) with
      | .error e => .error e
      | .ok s =>
        .ok (s.modifyMe fun h =>
            { (h.writeX cnt n).advanceSelected asel (step * word h.esize) with elemBase := h.elemBase + step },
          if n = 0 then h.pc + 4 else target)

/-! ### Marks and book replacement (R93, R94, R344) -/

/-- g0-g31 and a0-a15 as they stand; an empty register is invalid (R93). -/
def Hart.snapshotRegs (h : Hart) : Snapshot :=
  Vector.ofFn fun i : Fin 48 =>
    let r : Reg := BitVec.ofNat 6 i.val
    if h.isFull r then some (h.readX r) else none

/-- The resume point of a mark in a book (R113). -/
def Book.find (b : Book) (id : Nat) : Option Nat := (b.index.find? fun e => e.1 == id).map (·.2)

/-- The book that an advice context runs (R331, R344). -/
def Core.bookOf (k : Core) (x : UserCtx) : Option Book :=
  let h := k.ctxs[x.val].hart
  k.books.find? fun b => b.launch == h.link.launch && b.version == h.bookVersion

/-- The newest book of a launch on a core. -/
def Core.newestBook (k : Core) (launch : Word) : Option Book :=
  (k.books.filter (·.launch == launch)).foldl (fun acc b =>
    match acc with
    | none => some b
    | some a => if a.version < b.version then some b else some a) none

/-- Whether a word offset is a place where the Second may run: inside the book code and no literal word (R340). -/
def Book.isInstruction (b : Book) (n : Nat) : Bool :=
  let block := (b.code.drop (n / 16 * 16)).take 16
  decide (n < b.code.length) && !((literalWords false (block.map BitVec.toNat))[n % 16]?.getD true)

/-- Seek (R341): the Second resumes at the point the index gives, or goes IDLE, which is counted. -/
def Advice.seek (v : Advice) (b : Option Book) (id : Nat) : Advice × Bool :=
  match b.bind (·.find id) with
  | some n => ({ v with pc := n, running := true }, false)
  | none => ({ v with running := false }, true)

/-- The mark queue with one mark appended: a full queue loses its oldest (R94). -/
def Advice.addMark (v : Advice) (m : Mark) : Advice × Nat :=
  if 16 ≤ v.marks.length then ({ v with marks := v.marks.tail ++ [m] }, 1) else ({ v with marks := v.marks ++ [m] }, 0)

/-- ADVSTAT of a context changed. -/
def Core.modifyStat (k : Core) (x : UserCtx) (f : AdvStat → AdvStat) : Core :=
  { k with ctxs := k.ctxs.set x.val (let t := k.ctxs[x.val]
      { t with hart := { t.hart with adv := f t.hart.adv } }) }

/-- The hart of a user context changed. -/
def Core.modifyHart (k : Core) (x : UserCtx) (f : Hart → Hart) : Core :=
  { k with ctxs := k.ctxs.set x.val { k.ctxs[x.val] with hart := f k.ctxs[x.val].hart } }

/-- MARK in a user context: a staged book takes over at this mark (R344), otherwise the mark joins the queue. -/
def Core.mark (k : Core) (x : UserCtx) (m : Mark) : Core :=
  let h := k.ctxs[x.val].hart
  let v := k.advice[x.val]
  match k.newestBook h.link.launch with
  | some b =>
    if h.bookVersion < b.version then
      let (v', idled) := ({ snap := some m.snap, lastId := some m.id } : Advice).seek (some b) m.id.toNat
      ({ k with advice := k.advice.set x.val v' } : Core).modifyHart x fun h =>
        { h with
          bookVersion := b.version
          adv := { h.adv with
            marklost := satAdd8 h.adv.marklost v.marks.length
            realign := satAdd8 h.adv.realign 1
            idle := if idled then satAdd8 h.adv.idle 1 else h.adv.idle } }
    else
      let (v', lost) := v.addMark m
      ({ k with advice := k.advice.set x.val v' } : Core).modifyStat x fun a =>
        { a with marklost := satAdd8 a.marklost lost }
  | none =>
    -- no book: the IDLE context removes the mark at once, since no index holds it (R331)
    { k with advice := k.advice.set x.val { v with snap := some m.snap, lastId := some m.id } }

/-- MARK (R93): no effect in the firmware context. -/
def execMark (imm : BitVec 20) (s : State) : Host.Outcome State Fault Refusal :=
  issue s {} fun s =>
    if h : s.cur.ctx.val < 4 then
      .ok (s.modifyCore s.cur.core fun k => k.mark ⟨s.cur.ctx.val, h⟩ { id := imm, snap := s.me.snapshotRegs })
    else .ok s

end Sys2Proof.Machine
end

