-- ==== Sys2Proof/Machine/Waits.lean ====
section
/-!
DEFINITION. When a wait is over (R152, R158, R175, R199, R276, R279, R285, R287, R290, R299, R322, R324, R361, R370,
R373, R374, R403).  A waiting instruction executes again from the start; what it had done is recorded (R276).
-/

namespace Sys2Proof.Machine

/-- Entries that LAUNCH has put into the pool and that are not placed yet (R370). -/
def Device.poolCount (d : Device) : Nat := (d.pool ++ d.selected.toList).countP fun e => !e.fromRing

def Device.poolHasRoom (d : Device) : Bool := decide (d.poolCount < 4096)

/-- The completion record of an identifier at a level (R353). -/
def Device.record (d : Device) (level : Nat) (id : Word) : Option Completion :=
  d.records.find? fun r => r.level.toNat == level && r.id == id

/-- The records of a launch's identifiers that are new to the device. -/
def Device.newRecords (d : Device) (l : LaunchLink) : List (BitVec 3 × Word) :=
  l.ids.filter fun p => (d.record p.1.toNat p.2).isNone

/-- The device has room for the records of a launch. -/
def Device.recordsFree (d : Device) (l : LaunchLink) : Bool :=
  decide (d.records.length + (d.newRecords l).length ≤ 65536)

/-- A pool entry can be made. -/
def Device.canAccept (d : Device) (l : LaunchLink) : Bool := d.poolHasRoom && d.recordsFree l

/-- The identifier of a launch whose record is CANCELLED, at the lowest level code (R395). -/
def Device.cancelledId (d : Device) (l : LaunchLink) : Option Word :=
  (l.ids.find? fun p => match d.record p.1.toNat p.2 with
    | some r => r.cancelled
    | none => false).map (·.2)

/-- The identifier of a launch at a level (R352). -/
def LaunchLink.idAt (l : LaunchLink) : Nat → Word
  | 1 => l.launch
  | 2 => l.graph
  | 3 => l.phase
  | _ => l.job

/-- OUT less the caller where it counts in the record (R373). -/
def Device.outOf (d : Device) (level : Nat) (id : Word) (me : LaunchLink) : Nat :=
  match d.record level id with
  | none => 0
  | some r => r.out - (if me.idAt level = id then 1 else 0)

/-- Commands of a core in its copy queue (R143). -/
def Core.queuedCopies (k : Core) : Nat :=
  (k.ctxs.toList.map fun c => c.hart.cmds.length).sum + k.fw.cmds.length

/-- The circular buffer that a shape word names, where CBV is set (R146). -/
def shapeBuffer (shape : Word) : Option Nat :=
  if bitAt shape.toNat 63 then some (fieldOf shape.toNat 59 4) else none

/-- Every command and follow-on of a hart up to a ticket has ended (R152). -/
def Hart.copiesDone (h : Hart) (t : Word) : Bool :=
  !h.cmds.any (fun q => decide (q.ticket ≤ t)) && !h.followOns.any (fun f => decide (f.ticket ≤ t))

/-- The stream has reached its end, and its addition at FLAG has still to be made (R175); a start of it since then takes
nothing away. -/
def Stream.addDue (t : Stream) : Bool :=
  t.isOutput && t.hasDoneAdd && t.phase != .unset && decide (t.total ≤ t.position.toNat) && t.doneAdd == .due && t.condFault.isNone

/-- Additions at FLAG of the hart that have still to be made. -/
def Hart.addDue (h : Hart) : Bool := h.streams.toList.any Stream.addDue || !h.additions.isEmpty

/-- What the hart waits for: in its wait, or in the one that a service record made it abandon. -/
def State.waitOf (s : State) (c : CoreId) (x : CtxId) : Option Wait :=
  match s.status c x with
  | .waiting w => some w
  | .stopped => (s.hart c x).abandoned
  | _ => none

/-- The addition at FLAG of a stream can be made: the hart waits for it in SWAIT, or in EXIT, after which no SWAIT comes
(R318). -/
def State.addAwaited (s : State) (c : CoreId) (x : CtxId) (i : StreamId) : Bool :=
  s.waitOf c x == some (.swait i) || s.waitOf c x == some .exit

/-- A launch has been fenced (R417). -/
def State.launchFenced (s : State) (launch : Word) : Bool := s.dev.placed.any fun p => p.link.launch == launch && p.fenced

/-- The engines have an addition at FLAG to make for a context (R175, R318); none for a fenced launch (R417). -/
def State.addPending (s : State) (c : CoreId) (x : CtxId) : Bool :=
  let h := s.hart c x
  !s.launchFenced h.link.launch
    && (!h.additions.isEmpty || (List.finRange 8).any fun i => h.streams[i.val].addDue && s.addAwaited c x i)

/-- The addition at FLAG leaves SWAIT nothing to wait for: it has been made while SWAIT waited, or its fault is held.  One made
early covers no access that precedes a SWAIT, so that no SWAIT completes on it (R318, log 74). -/
def DoneAdd.answered : DoneAdd → Bool
  | .due => false
  | .early => false
  | _ => true

/-- SWAIT has nothing more to wait for (R175). -/
def State.streamSettled (s : State) (c : CoreId) (x : CtxId) (i : StreamId) : Bool :=
  let t := (s.hart c x).stream i
  if t.condFault.isSome then true
  else if !t.isOutput then t.phase == .running || t.phase == .done
  else t.phase == .done && !s.pushesOf c x (some i) && (!t.hasDoneAdd || t.doneAdd.answered)

/-- A watermark word has passed a count, or its read would fault (R285). -/
def State.watermarkPassed (s : State) (c : CoreId) (x : CtxId) (w : Word) (n : Nat) : Bool :=
  let s := s.actingAs c x
  match s.locate .memory .load w with
  | .ok p => s.isPoisonedAt p 8 || decide (n < s.readPlace p 8)
  | .error _ => true

/-- A pop or a push of a stream can go on, or has a fault to raise: the stream has started, and an input stream has what
its engine alone can fetch (R173-R176). -/
def State.popReady (s : State) (c : CoreId) (x : CtxId) (i : StreamId) : Bool :=
  let s := s.actingAs c x
  let h := s.me
  let t := h.stream i
  t.condFault.isSome || ((t.phase == .running || t.phase == .done)
    && (t.isOutput || (!t.remote && !s.fetchHeld t) || decide (h.popNeed t ≤ t.nextFetch)))

/-- What the condition read of an armed stream finds (R175). -/
def State.conditionRead (s : State) (t : Stream) : Stream :=
  match s.locate .memory .load t.cond with
  | .error c => { t with condFault := some { cause := c, val := t.cond } }
  | .ok p =>
    if s.isPoisonedAt p 8 then { t with condFault := some { cause := causeFenced, val := t.cond } }
    else if t.threshold.toNat ≤ s.readPlace p 8 then { t with phase := .running } else t

/-- The bytes of a circular buffer that a range of one buffer meets. -/
def CircBuf.meets (b : CircBuf) (u : BufId) (a n : Nat) : Bool :=
  b.buf == u && overlap b.localBase (b.count.toNat * b.slot.toNat) a n

/-- A copy command of the hart reads bytes of a circular buffer (R159). -/
def CopyCmd.readsCirc (q : CopyCmd) (b : CircBuf) : Bool :=
  match q.srcBuf with
  | some (u, first) =>
    let (lo, hi) := sideRange q.shape (signed 32 q.strides.toNat) first
    b.meets u lo.toNat (hi - lo).toNat
  | none => false

/-- An earlier vector load, matrix operand read or copy read of the hart has still to read bytes of a circular buffer
(R159). -/
def State.circReads (s : State) (n : Nat) : Bool :=
  let h := s.me
  let b := vget h.vec.bufs n {}
  let reads (p : Place) (m : Nat) : Bool := match p with
    | .buffer _ u a => b.meets u a m
    | _ => false
  h.fills.any (fun f => f.reads.any fun r => reads r.place r.bytes) || h.cmds.any (·.readsCirc b)
    || (h.pendingWork.flatMap s.operandPlaces).any fun r => reads r.1 r.2

/-- The D field of the instruction at the program counter, as it was fetched. -/
def Hart.waitDest (h : Hart) : Nat :=
  match h.blocks.find? fun b => b.1 == h.pc.toNat / 64 with
  | some b => fieldOf ((b.2[wordIndex h.pc]?).getD 0#32).toNat 20 6
  | none => 0

/-- A resident ganged hart holds the whole register file of the upper core of a core's pair (R200). -/
def State.gangHolds (s : State) (c : CoreId) : Bool := (s.core (lowerCore c)).ctxs.toList.any fun t => t.status != .free && t.hart.gang == .lower

/-- The partner of a waiting GANG has left its context (R199). -/
def State.partnerGone (s : State) (c : CoreId) (x : CtxId) : Bool :=
  let o := otherCore c
  s.status o x == .free || (s.hart o x).link.launch != (s.hart c x).link.launch

/-- Lanes in service of a Sobry link or a Quinsia port: those it has, less what a RECAL holds back; a Sobry link in
recalibration runs at 4 lanes (R119, R443). -/
def Device.lanesOf (d : Device) (quinsia : Bool) (n : Nat) : Nat :=
  let here (k : Bool) (m : BitVec 16) : Bool := k == quinsia && m.toNat == n
  let own := ((d.narrow.find? fun e => here e.1 e.2.1).map fun e => e.2.2.toNat).getD (if quinsia then 4 else 8)
  let held := d.recal.countP fun e => here e.1 e.2.1
  if held = 0 then own else if quinsia then own - held else min own 4

/-- A Quinsia port has no lane in service. -/
def Device.portDown (d : Device) (p : Nat) : Bool := d.lanesOf true p == 0

/-- Whether a target device is reachable from this one: it is not fenced, the bit of its domain is set, and within the own
domain some plane is up (R174, R443). -/
def Device.reaches (d : Device) (device : BitVec 16) : Bool :=
  let domain := device.toNat / 576
  !d.fencedDevices.contains device && d.dommap.getLsbD domain && (domain != d.devnum.toNat / 576 || !(List.range 36).all d.portDown)

/-- The device of a fabric group's root can be reached: the device number that its descriptor names (R320, R324). -/
def State.rootReachable (s : State) (pa : Nat) : Bool :=
  let device := BitVec.ofNat 16 (fieldOf (s.getWord (pa + 8)) 48 16)
  device == s.dev.devnum || s.dev.reaches device

/-- An arrival of a context is not pending any more (R322, R324): an XWAIT has taken its mark, or GEN of its descriptor has
reached its generation. -/
def State.arrivalDone (s : State) (c : CoreId) (x : CtxId) (m : Arrival) : Bool :=
  !m.pending || match (s.actingAs c x).locate .memory .load m.va with
  | .ok (.main pa) => decide (m.gen.toNat ≤ s.getWord (pa + 24))
  | _ => false

/-- The wait of a context is over. -/
def State.waitOver (s : State) (c : CoreId) (x : CtxId) (w : Wait) : Bool :=
  let k := s.core c
  let h := k.hart x
  match w with
  | .acq va pa => (h.grant.any (·.1 == va)) || s.dev.acqWaiters.any fun w => w.hart == h.id && w.pa == pa && w.granted.isSome
  | .bar _ pa gen => decide (s.getWord (pa + 16) ≠ gen.toNat) || bitAt (s.getWord (pa + 24)) 0
  | .waitn n =>
    vget k.notify n.toNat 0 != 0 &&
      (s.dev.notifyWaiters.find? fun q => q.core == c && q.register == n).all fun q => q.hart == h.id
  | .watermark word n => s.watermarkPassed c x word n
  | .launch l => s.dev.canAccept l || (s.dev.cancelledId l).isSome
  | .cwait level id => s.dev.outOf level.toNat id h.link == 0
  | .cpywait t => h.copiesDone t
  | .copyQueue => decide (k.queuedCopies < 32)
  | .cbwait cb => decide ((vget h.vec.bufs cb.toNat {}).filled ≠ 0)
  | .cbinit cb => !h.cmds.any fun q => shapeBuffer q.shape == some cb.toNat
  | .promises => decide (h.promises.length < 8)
  | .swait i => s.streamSettled c x i
  | .pop i => s.popReady c x i
  | .xwait _ pa gen => decide (gen.toNat ≤ s.getWord (pa + 24)) || !s.rootReachable pa
  | .arrivals => h.arrivals.any (s.arrivalDone c x)
  | .gang => h.verdict.isSome || s.partnerGone c x
  | .parked => h.verdict.isSome
  | .exit => h.cmds.isEmpty && h.followOns.isEmpty && !s.pushesOf c x none && (!h.addDue || s.launchFenced h.link.launch)
  | .wfn => !k.fatal.isEmpty || !k.ordinary.isEmpty
  | .fills => h.fills.isEmpty
  | .followOns => !h.followPending
  | .strip => !(s.actingAs c x).stripHeld
  | .release system => !(s.actingAs c x).releaseWaits system
  | .cbrel cb => !(s.actingAs c x).circReads cb.toNat
  | .copyRange t => !h.cmds.any fun q => q.ticket == t

/-- A wait that is none of R276 and no stall in LAUNCH: the hart is held at its instruction as by a stall on readiness, and
its context keeps its SLOTTAB entries (R33, R367). -/
def Wait.keepsEntry : Wait → Bool
  | .cpywait _ | .copyQueue | .cbwait _ | .cbinit _ | .swait _ | .pop _ | .exit | .fills | .followOns | .strip
  | .release _ | .cbrel _ | .copyRange _ => true
  | .acq _ _ | .bar _ _ _ | .waitn _ | .watermark _ _ | .launch _ | .cwait _ _ | .promises | .xwait _ _ _ | .arrivals
  | .gang | .parked | .wfn => false

/-- A context runs, or what it waits for has come: a cancel or a fence that is due reaches a waiting hart at once (R276,
R417). -/
def State.goesOn (s : State) (c : CoreId) (x : CtxId) : Bool :=
  match s.status c x with
  | .running => true
  | .waiting w =>
    let h := s.hart c x
    ((h.cancelled.isSome || h.fenceDue) && h.trapDue.isNone && h.gang != .parked) || s.waitOver c x w
  | _ => false

/-- A user context can issue (R367). -/
def State.canIssue (s : State) (c : CoreId) (x : UserCtx) : Bool :=
  let k := s.core c
  !k.fenced && k.power.runs && k.clock && s.dev.ready && (s.goesOn c (userId x) || match s.status c (userId x) with
    | .waiting w => w.keepsEntry
    | _ => false)

/-- The firmware context has an instruction ready. -/
def State.fwReady (s : State) (c : CoreId) : Bool :=
  let k := s.core c
  k.power.runs && k.clock && s.dev.ready &&
    match k.fwStatus with
    | .running => true
    | .waiting w => s.waitOver c 4 w
    | _ => false

end Sys2Proof.Machine
end

