-- ==== Sys2Proof/Machine/Issue.lean ====
section
/-!
DEFINITION. Cycles of a core: the activity meter, the issue slots, charging and energy (R364, R367, R377-R381,
R390-R391, R408).
-/

namespace Sys2Proof.Machine

/-- An energy counter saturates at 2^48 - 1 (R390). -/
def satEnergy (x : BitVec 48) (n : Nat) : BitVec 48 := BitVec.ofNat 48 (min (2 ^ 48 - 1) (x.toNat + n))

/-- The weight of a class in ACTW (R378); a generator cycle that feeds an MMA is summed with it (R377). -/
def actWeight (actw : Word) : ActClass → Nat
  | .scal => fieldOf actw.toNat 0 4
  | .vint => fieldOf actw.toNat 4 4
  | .vf32 => fieldOf actw.toNat 8 4
  | .vf64 => fieldOf actw.toNat 12 4
  | .vmem => fieldOf actw.toNat 16 4
  | .mlo => fieldOf actw.toNat 20 4
  | .mhi => fieldOf actw.toNat 24 4
  | .zsc => fieldOf actw.toNat 28 4
  | .copy => fieldOf actw.toNat 32 4
  | .gen => fieldOf actw.toNat 36 4
  | .mloGen => fieldOf actw.toNat 20 4 + fieldOf actw.toNat 36 4
  | .mhiGen => fieldOf actw.toNat 24 4 + fieldOf actw.toNat 36 4

def actCeil (actw : Word) : Nat := fieldOf actw.toNat 40 8
def actDrain (actw : Word) : Nat := fieldOf actw.toNat 48 4

/-- The energy of a busy cycle in pJ (R391). -/
def actEnergy (nrgw : Word) (c : ActClass) : Nat :=
  32 * (match c with
    | .scal => fieldOf nrgw.toNat 0 6
    | .vint => fieldOf nrgw.toNat 6 6
    | .vf32 => fieldOf nrgw.toNat 12 6
    | .vf64 => fieldOf nrgw.toNat 18 6
    | .vmem => fieldOf nrgw.toNat 24 6
    | .mlo => fieldOf nrgw.toNat 30 6
    | .mhi => fieldOf nrgw.toNat 36 6
    | .zsc => fieldOf nrgw.toNat 42 6
    | .copy => fieldOf nrgw.toNat 48 6
    | .gen => fieldOf nrgw.toNat 54 6
    | .mloGen => fieldOf nrgw.toNat 30 6 + fieldOf nrgw.toNat 54 6
    | .mhiGen => fieldOf nrgw.toNat 36 6 + fieldOf nrgw.toNat 54 6)

/-- A unit of which a core has one, and which starts one busy cycle at a time (R3). -/
inductive SoleUnit where
  | matrix | generator | copy
  deriving DecidableEq, Repr

/-- The sole units that a busy cycle occupies; lanes take the cycles of several instructions at once. -/
def ActClass.soleUnits : ActClass → List SoleUnit
  | .mlo | .mhi => [.matrix]
  | .mloGen | .mhiGen => [.matrix, .generator]
  | .gen => [.generator]
  | .copy => [.copy]
  | .scal | .vint | .vf32 | .vf64 | .vmem | .zsc => []

/-- An entry whose cycle has been admitted, unless it was the last. -/
def Busy.next (b : Busy) : List Busy := if b.cycles ≤ 1 then [] else [{ b with cycles := b.cycles - 1, started := true }]

/-- One cycle of admission, oldest first: the units taken, the meter, and what each entry does.
Answers the meter, the entries left and the entries admitted (R377). -/
def admission (actw : Word) : List SoleUnit → Nat → List Busy → Nat × List Busy × List Busy
  | _, meter, [] => (meter, [], [])
  | taken, meter, b :: bs =>
    let w := actWeight actw b.cls
    let units := b.cls.soleUnits ++ taken
    if b.cls.soleUnits.any taken.contains then
      let (m, rest, ch) := admission actw taken meter bs
      (m, b :: rest, ch)
    else if w = 0 ∨ meter + w ≤ actCeil actw then
      let (m, rest, ch) := admission actw units (meter + w) bs
      (m, b.next ++ rest, b :: ch)
    else
      let (m, rest, ch) := admission actw units meter bs
      (m, { b with withheld := true } :: rest, ch)

/-- A context charged with energy (R390, R391): into NRG while it is resident. -/
def State.chargeEnergy (s : State) (c : CoreId) (x : UserCtx) (n : Nat) : State :=
  s.modifyCore c fun k => k.modifyHart x fun h => { h with nrg := satEnergy h.nrg n }

/-- The contexts of the cores that the model holds, one first. -/
def contextsFrom (c : CoreId) (x : UserCtx) : List (CoreId × UserCtx) :=
  (c, x) :: allCores.flatMap fun c => (List.finRange 4).map fun x => (c, x)

/-- A busy cycle charged to the hart it was for, wherever it is resident now; what is done for a switched-out context is
carried (R391). -/
def State.chargeBusy (s : State) (b : Busy) (n : Nat) : State :=
  let here (p : CoreId × UserCtx) : Bool := s.status p.1 (userId p.2) != .free && (s.hart p.1 (userId p.2)).id == b.hart
  match (contextsFrom b.core b.ctx).find? here with
  | some p => s.chargeEnergy p.1 p.2 n
  | none =>
    s.modifyDev fun d => { d with switchedOut := d.switchedOut.map fun o =>
      if o.id = b.hart then { o with carry := o.carry + n } else o }

/-- A busy cycle of the hart that acts has been withheld and its work is not done: its later instructions wait (R381). -/
def State.heldBack (s : State) : Bool :=
  !s.isFirmware && s.cores.toList.any fun k => k.busy.any fun b => b.withheld && b.hart == s.me.id

/-- ACTIVITY_METER_CYCLE (R377): busy cycles are admitted or withheld, their energy is charged, and the meter drains. -/
def State.meterCycle (s : State) (c : CoreId) : State :=
  let k := s.core c
  if !k.clock then s
  else
    let (meter, busy, admitted) := admission k.actw [] k.meter.toNat k.busy
    let s := s.modifyCore c fun k => { k with busy, meter := BitVec.ofNat 8 (meter - actDrain k.actw) }
    admitted.foldl (fun s b => s.chargeBusy b (actEnergy k.nrgw b.cls)) s

def execActivityMeterCycle (core : CoreId) (s : State) : Host.Outcome State Fault Refusal := .next (s.meterCycle core)

/-! ### The issue slot (R367) -/

/-- The first user context of a list that can issue. -/
def State.firstIssuer (s : State) (c : CoreId) : List UserCtx → Option UserCtx
  | [] => none
  | x :: xs => if s.canIssue c x then some x else s.firstIssuer c xs

/-- The user context of this core that holds the object which a context waits for in ACQ, while it is held (R281, R367). -/
def State.holderFor (s : State) (c : CoreId) (x : UserCtx) : List UserCtx :=
  match (s.core c).ctxs[x.val].status with
  | .waiting (.acq _ pa) =>
    let holder := s.getWord pa % 2 ^ 48
    if !bitAt (s.getWord pa) 63 then [] else (List.range 4).filterMap fun i =>
      let y : UserCtx := Fin.ofNat 4 i
      if (s.core c).ctxs[y.val].hart.id.toNat == holder && (s.core c).ctxs[y.val].status != .free
      then some y else none
  | _ => []

/-- A class of work on the lanes. -/
def ActClass.isVector : ActClass → Bool
  | .vint | .vf32 | .vf64 | .vmem => true
  | _ => false

/-- The context that used the previous entry has a vector instruction of which some elements have started and some have
not (R367). -/
def State.partlyIssued (s : State) (c : CoreId) : Bool :=
  let k := s.core c
  match k.lastCtx with
  | none => false
  | some x => k.busy.any fun b => userId b.ctx == x && b.core == c && b.started && b.cls.isVector

/-- Who issues in the present cycle of a core, by the entry of SLOTTAB (R367). -/
def State.issuer (s : State) (c : CoreId) : Option CtxId :=
  let k := s.core c
  let e := (k.slottab[k.cycles.toNat % 32]'(Nat.mod_lt _ (by decide))).toNat
  if e = 7 then none
  else if e = 4 ∧ s.fwReady c ∧ !s.partlyIssued c then some 4
  else
    let after : List UserCtx := [Fin.ofNat 4 (e + 1), Fin.ofNat 4 (e + 2), Fin.ofNat 4 (e + 3)]
    let order : List UserCtx :=
      if e < 4 then Fin.ofNat 4 e :: s.holderFor c (Fin.ofNat 4 e) ++ after else after
    (s.firstIssuer c order).map userId

/-- NRG takes the share of the cycle that ends. -/
def Ctx.takeShare (t : Ctx) : Ctx := { t with share := 0, hart := { t.hart with nrg := satEnergy t.hart.nrg t.share } }

/-- A cycle of a core begins: the share of the last one is charged, and the static energy of this one is divided among the
contexts that are resident as it begins (R391).  A reading of NRG stands as at the start of its cycle. -/
def State.staticEnergy (s : State) (c : CoreId) : State :=
  s.modifyCore c fun k =>
    let n := k.ctxs.toList.countP fun t => t.status != .free
    { k with ctxs := k.ctxs.map fun t => if t.status = .free then t else { t.takeShare with share := k.nrgs.toNat / n } }

/-- The share of the present cycle charged to a context that leaves its core in it. -/
def State.takeShare (s : State) (c : CoreId) (x : UserCtx) : State :=
  s.modifyCore c fun k => { k with ctxs := k.ctxs.set x.val k.ctxs[x.val].takeShare }

/-- The cycle is charged to the queue of the context's launch (R364). -/
def State.chargeQueue (s : State) (c : CoreId) (x : CtxId) : State :=
  if x = 4 then s
  else
    let q := (s.hart c x).link.queue
    s.modifyDev fun d =>
      { d with queues := d.queues.set q.val { d.queues[q.val] with deficit := d.queues[q.val].deficit - 1 } }

/-- The cycle's own effects, whoever issues: the counter advances (R408) and static energy is charged. -/
def State.tick (s : State) (c : CoreId) : State :=
  (s.staticEnergy c).modifyCore c fun k => { k with cycles := k.cycles + 1 }

/-- A stream engine has work for a stream: elements to fetch, or a condition to read. -/
def Stream.hasWork (t : Stream) : Bool :=
  t.condFault.isNone &&
    ((t.phase == .running && !t.isOutput && decide (t.position.toNat + t.nextFetch < t.total)) || t.phase == .armed)

/-- The engines have work for the hart of a context. -/
def State.enginesBusy (s : State) (c : CoreId) (x : CtxId) : Bool :=
  let h := s.hart c x
  !h.cmds.isEmpty || !h.followOns.isEmpty || h.streams.toList.any Stream.hasWork || s.addPending c x

/-- A context of a core could go on if the core had power: it runs, or its wait is over. -/
def State.isAble (s : State) (c : CoreId) (x : CtxId) : Bool :=
  match s.status c x with
  | .running => x != 4
  | .waiting w => s.waitOver c x w
  | _ => false

/-- The conditions for gating a core (R387): no user context can issue, no engine has work, the lanes serve no ganged hart
of the other core, and firmware has no record to serve. -/
def State.coreIdle (s : State) (c : CoreId) : Bool :=
  let k := s.core c
  !(List.finRange 5).any (s.isAble c) && (List.finRange 4).all (fun x => !s.canIssue c x)
    && (List.finRange 5).all (fun x => s.status c x == .free || !s.enginesBusy c x) && k.busy.isEmpty
    && s.dev.outgoing.all (fun o => match o with
      | .push _ q _ _ _ _ _ => q.core != c
      | _ => true)
    && !(isUpper c && s.gangHolds c)
    && k.fatal.isEmpty && k.ordinary.isEmpty && k.outside.isEmpty && k.inHand.isNone

/-- A core that does not run is woken for what has become able to go on there, and one in hold stays powered once the
conditions for gating it fail (R385, R387). -/
def State.wakeForWork (s : State) (c : CoreId) : State :=
  if (s.core c).power == .hold then (if s.coreIdle c then s else s.wakeCore c)
  else if (List.finRange 5).any (s.isAble c) then s.wakeCore c
  else s

/-- A cycle of a core (R367): the context that the entry decides acts in this step, or, held at its instruction, keeps the
entry; its cycle is charged. -/
def State.issueCycle (s : State) (c : CoreId) : State :=
  let s := s.wakeForWork c
  if !(s.core c).clock then { s with cur := { s.cur with issues := false } }
  else
    let who := s.issuer c
    let s := (s.tick c).modifyCore c fun k => { k with lastCtx := who }
    match who with
    | none => { s with cur := { s.cur with issues := false } }
    | some x =>
      let goes := s.goesOn c x
      let s := s.chargeQueue c x
      if !goes then { s with cur := { s.cur with issues := false } }
      else
      let s := s.setStatus c x .running
      { s with cur := { s.cur with core := c, ctx := x, issues := true } }

end Sys2Proof.Machine
end

