-- ==== Sys2Proof/Machine/Advice.lean ====
section
/-!
DEFINITION. The Second: the words of a book, its actions, marks and realignment (R329-R342).

An advice instruction acts on the advice context `cur.ctx` of core `cur.core`.
-/

namespace Sys2Proof.Machine

/-- The user context whose Second acts. -/
def State.advisee (s : State) : UserCtx := if h : s.cur.ctx.val < 4 then ⟨s.cur.ctx.val, h⟩ else 0

/-- The advice context that acts. -/
def State.advice (s : State) : Advice := s.myCore.advice[s.advisee.val]

def State.setAdvice (s : State) (v : Advice) : State :=
  s.modifyCore s.cur.core fun k => { k with advice := k.advice.set s.advisee.val v }

/-- A counter of ADVSTAT of the advised hart. -/
def State.countStat (s : State) (f : AdvStat → AdvStat) : State :=
  s.modifyCore s.cur.core fun k => k.modifyStat s.advisee f

/-- The Second goes to its next word. -/
def State.adviceNext (s : State) (words : Nat) : State :=
  s.setAdvice { s.advice with pc := s.advice.pc + words }

/-- A word or an action dropped and counted in DROPOP (R333, R334). -/
def State.dropWord (s : State) (words : Nat) : State :=
  (s.adviceNext words).countStat fun a => { a with dropop := satAdd8 a.dropop 1 }

/-- The Second goes IDLE, which is counted (R340). -/
def State.adviceIdle (s : State) : State :=
  (s.setAdvice { s.advice with running := false }).countStat fun a => { a with idle := satAdd8 a.idle 1 }

/-- A d register in advice use (R333). -/
def isAdvice (r : Reg) : Bool := r.toNat < 16

def Advice.read (v : Advice) (r : Reg) : Word := vget v.d r.toNat 0

/-- Source B of an advice instruction: a d register, a constant of the launch or the literal (R333). -/
def State.adviceB (s : State) (b : Src) : Word :=
  match b with
  | .reg r _ => s.advice.read r
  | .scalar _ _ => 0
  | .const n => (s.hart s.cur.core (userId s.advisee)).constant n
  | .lit w => litWord w

/-- The d register that B may name is in range. -/
def adviceSrcOk : Src → Bool
  | .reg r _ => isAdvice r
  | _ => true

/-- Words of an advice instruction. -/
def adviceWords (b : Src) : Nat := srcBytes b / 4

/-- An action becomes pending; with a full action queue the Second waits (R334). -/
def State.addAction (s : State) (b : Src) (act : Action) : State :=
  if 32 ≤ s.advice.actions.length then s
  else (s.setAdvice { s.advice with actions := s.advice.actions ++ [act] }).adviceNext (adviceWords b)

/-- Whether a page that an action names may be used: a memory page that translates for the hart (R335, R336). -/
def State.actionPlace (s : State) (va : Word) : Option Nat :=
  match s.locate .memory .load va with
  | .ok (.main pa) => some pa
  | _ => none

/-- The lines of a prefetch, in order, up to the first that does not translate to a memory page (R335). -/
def State.prefetchLines (s : State) (base : Word) (n : Nat) : List Word :=
  ((List.range n).map fun i => base + word (64 * i)).takeWhile fun va => (s.actionPlace va).isSome

/-- A translation that fails drops an action, or what is left of it (R334). -/
def State.dropAction (s : State) : State := s.countStat fun a => { a with dropf := satAdd16 a.dropf 1 }

/-- An action with translations: one that fails as the Second executes it is dropped there, before any later word (R334,
R351); with a full action queue the Second waits. -/
def State.addTranslated (s : State) (b : Src) (ok : Bool) (act : Action) : State :=
  if 32 ≤ s.advice.actions.length then s
  else if ok then s.addAction b act
  else (s.adviceNext (adviceWords b)).dropAction

/-- An action whose operand fields and values are in range, or the drop of its word. -/
def State.actionOr (s : State) (b : Src) (ok : Bool) (act : Action) : Host.Outcome State Fault Refusal :=
  .next (if ok && adviceSrcOk b then s.addAction b act else s.dropWord (adviceWords b))

/-- A prefetch with the lines that translate as the Second executes it; the rest is dropped (R334, R335). -/
def State.addPrefetch (s : State) (b : Src) (kind : Nat) (base : Word) (n : Nat) : State :=
  let k := (s.prefetchLines base n).length
  if k = 0 ∨ k = n ∨ 32 ≤ s.advice.actions.length then s.addTranslated b (k == n) (.prefetch kind base n)
  else (s.addAction b (.prefetch kind base k)).dropAction

/-- APF (R335). -/
def execApf (d a : Reg) (b : Src) (s : State) : Host.Outcome State Fault Refusal :=
  let n := (s.adviceB b).toNat
  let base := word ((s.advice.read a).toNat / 64 * 64)
  .next (if d.toNat ≤ 1 && isAdvice a && decide (1 ≤ n) && decide (n ≤ 256) && adviceSrcOk b then
      s.addPrefetch b d.toNat base n
    else s.dropWord (adviceWords b))

/-- AHOME (R336): the address is kept, and translated again when the home slice takes the hint. -/
def execAhome (a : Reg) (b : Src) (s : State) : Host.Outcome State Fault Refusal :=
  let n := (s.adviceB b).toNat
  let va := s.advice.read a
  .next (if isAdvice a && decide (n ≤ 3) && adviceSrcOk b then
      s.addTranslated b (s.actionPlace va).isSome (.home va.toNat n)
    else s.dropWord (adviceWords b))

/-- APRIO (R337). -/
def execAprio (b : Src) (s : State) : Host.Outcome State Fault Refusal :=
  let n := (s.adviceB b).toNat
  s.actionOr b (decide (n ≤ 3)) (.prio (BitVec.ofNat 2 n))

/-- AORDER (R338). -/
def execAorder (b : Src) (s : State) : Host.Outcome State Fault Refusal :=
  let n := (s.adviceB b).toNat
  s.actionOr b (decide (n ≤ 3)) (.order (BitVec.ofNat 2 n))

/-- AWAKE (R339). -/
def execAwake (b : Src) (s : State) : Host.Outcome State Fault Refusal :=
  let n := (s.adviceB b).toNat
  s.actionOr b (decide (n < 256)) (.awake (BitVec.ofNat 8 n))

/-- A jump within the book: a target beyond the code or on a literal word leaves the Second IDLE (R340). -/
def State.adviceJump (s : State) (target : Word) : State :=
  match s.myCore.bookOf s.advisee with
  | some book => if book.isInstruction target.toNat then s.setAdvice { s.advice with pc := target.toNat } else s.adviceIdle
  | none => s.adviceIdle

/-- AJ (R340). -/
def execAj (d a : Reg) (b : Src) (s : State) : Host.Outcome State Fault Refusal :=
  if !(d.toNat ≤ 3 && isAdvice a && adviceSrcOk b) then .next (s.dropWord (adviceWords b))
  else
    let x := s.advice.read a
    let taken := match d.toNat with
      | 0 => true
      | 1 => x == 0
      | 2 => x != 0
      | _ => sLess x 0
    .next (if taken then s.adviceJump (s.adviceB b) else s.adviceNext (adviceWords b))

def Advice.write (v : Advice) (r : Reg) (x : Word) : Advice := { v with d := vset v.d r.toNat x }

/-- ALOOP (R340): B is read once dA has been decremented. -/
def execAloop (a : Reg) (b : Src) (s : State) : Host.Outcome State Fault Refusal :=
  if !(isAdvice a && adviceSrcOk b) then .next (s.dropWord (adviceWords b))
  else
    let x := s.advice.read a - 1
    let s := s.setAdvice (s.advice.write a x)
    .next (if x ≠ 0 then s.adviceJump (s.adviceB b) else s.adviceNext (adviceWords b))

/-- AADD (R340). -/
def execAadd (d a : Reg) (b : Src) (s : State) : Host.Outcome State Fault Refusal :=
  if !(isAdvice d && isAdvice a && adviceSrcOk b) then .next (s.dropWord (adviceWords b))
  else .next ((s.setAdvice (s.advice.write d (s.advice.read a + s.adviceB b))).adviceNext (adviceWords b))

/-- ALI (R340). -/
def execAli (d : Reg) (b : Src) (s : State) : Host.Outcome State Fault Refusal :=
  if !(isAdvice d && adviceSrcOk b) then .next (s.dropWord (adviceWords b))
  else .next ((s.setAdvice (s.advice.write d (s.adviceB b))).adviceNext (adviceWords b))

/-- What ASNAP reads (R340). -/
def Advice.snapValue (v : Advice) (sel : Nat) : Word :=
  if sel = 48 then ((v.lastId.map fun id => word id.toNat).getD 0)
  else (v.snap.bind fun sn => vget sn sel none).getD 0

/-- ASNAP (R340). -/
def execAsnap (d sel : Reg) (s : State) : Host.Outcome State Fault Refusal :=
  if !(isAdvice d && decide (sel.toNat ≤ 48)) then .next (s.dropWord 1)
  else .next ((s.setAdvice (s.advice.write d (s.advice.snapValue sel.toNat))).adviceNext 1)

/-- AEND (R340). -/
def execAend (s : State) : Host.Outcome State Fault Refusal := .next (s.adviceNext 1).adviceIdle

/-- The oldest mark is consumed: S and the last id are set. -/
def Advice.consume (v : Advice) (m : Mark) : Advice :=
  { v with marks := v.marks.tail, snap := some m.snap, lastId := some m.id }

/-- AWAIT (R341): waits for the next mark; another id drops the pending actions and seeks its resume point. -/
def execAwait (imm : BitVec 20) (s : State) : Host.Outcome State Fault Refusal :=
  match s.advice.marks with
  | [] => .next s
  | m :: _ =>
    let v := s.advice.consume m
    if m.id = imm then .next ((s.setAdvice v).adviceNext 1)
    else
      let (v, idled) := { v with actions := [], ap := 1, ord := 0 }.seek (s.myCore.bookOf s.advisee) m.id.toNat
      .next ((s.setAdvice v).countStat fun a =>
        { a with realign := satAdd8 a.realign 1, idle := if idled then satAdd8 a.idle 1 else a.idle })

/-- SECOND_MARK_CONSUME (R341): an IDLE Second removes the oldest mark and resumes where the index says. -/
def execSecondMarkConsume (core : CoreId) (ctx : UserCtx) (s : State) : Host.Outcome State Fault Refusal :=
  let s' := s.actingAs core (userId ctx)
  let v := s'.advice
  match v.running, v.marks with
  | false, m :: _ =>
    let v := v.consume m
    match ((s.core core).bookOf ctx).bind (·.find m.id.toNat) with
    | some n => .next (s'.setAdvice { v with pc := n, running := true })
    | none => .next (s'.setAdvice v)
  | _, _ => .next s

/-- A unit accepts one action (R335-R339, R342).  A prefetch with D = 1 brings the translations of its lines into the core's
cache, up to the first that fails now. -/
def State.acceptAction (s : State) (act : Action) : State :=
  match act with
  | .prefetch kind base n =>
    let vas := s.prefetchLines base n
    let s := if kind = 1 then vas.foldl State.keepTranslation s else s
    if vas.length = n then s else s.dropAction
  | .home va die =>
    match s.actionPlace (word va) with
    | some pa =>
      let i := s.dev.frameInfo (frameOf pa)
      s.modifyDev (·.setFrame { i with hint := some (Fin.ofNat 4 die, 2) })
    | none => s.dropAction
  | .prio level => s.setAdvice { s.advice with ap := level }
  | .order code => s.setAdvice { s.advice with ord := code }
  | .awake groups =>
    let reach := s.myCore.groupsReached s.myCore.grant.toNat
    (List.range 8).foldl (fun s g =>
      if groups.getLsbD g && reach.contains g then s.wakeGroup s.cur.core g else s) s

/-- ADVICE_ACTION_ACCEPT (R342): the oldest pending action of an advice context. -/
def execAdviceActionAccept (core : CoreId) (ctx : UserCtx) (s : State) : Host.Outcome State Fault Refusal :=
  let s' := s.actingAs core (userId ctx)
  match s'.advice.actions with
  | [] => .next s
  | act :: rest => .next ((s'.setAdvice { s'.advice with actions := rest }).acceptAction act)

end Sys2Proof.Machine
end

