-- ==== Sys2Proof/Machine/Images.lean ====
section
/-!
DEFINITION. Images in memory: pages and bytes of an image, and the vector image (R193, R414).
-/

namespace Sys2Proof.Machine

/-! ### Packed fields -/

/-- Fields of (width, value), lowest first, as one number. -/
def pack : List (Nat × Nat) → Nat
  | [] => 0
  | (w, x) :: fs => x % 2 ^ w + 2 ^ w * pack fs

/-! ### Runs of an image (R193) -/

/-- The places of the parts, up to the first that faults, with the fault. -/
def State.placeRuns (s : State) (g : Agent) (k : Access) :
    List (Word × Nat × Nat) → List (Place × Nat × Nat) × Option (BitVec 8 × Word)
  | [] => ([], none)
  | (va, off, n) :: rs =>
    match s.locate g k va with
    | .error c => ([], some (c, va))
    | .ok p =>
      let (ps, e) := s.placeRuns g k rs
      ((p, off, n) :: ps, e)

/-- The poisoned lines or words of n bytes at a place, each as the offset of its first byte there. -/
def State.poisonIn (s : State) (p : Place) (n : Nat) : List Nat :=
  match p with
  | .main pa => (s.dev.poison.filter fun l => decide (pa / 64 ≤ l) && decide (l * 64 < pa + n)).map (64 * · - pa)
  | .buffer c b a =>
    (((s.core c).poisonOf b).filter fun w => decide (a / 8 ≤ w) && decide (w ≤ (a + n - 1) / 8)).map (8 * · - a)
  | _ => []

/-- The VA of the first poisoned byte of the parts of an image at an address. -/
def State.poisonedVa (s : State) (va : Word) (ps : List (Place × Nat × Nat)) : Option Word :=
  ((ps.flatMap fun r => (s.poisonIn r.1 r.2.2).map (r.2.1 + ·)).min?).map fun n => va + word n

/-- n bytes of an image read whole, before anything changes. -/
def State.readImage (s : State) (g : Agent) (va : Word) (n : Nat) : Except Stop Nat :=
  match s.placeRuns g .load (runsOf va n) with
  | (_, some (c, w)) => raise s c w
  | (ps, none) =>
    match s.poisonedVa va ps with
    | some w => raise s causeFenced w
    | none => .ok (ps.foldl (fun x r => x + s.readPlace r.1 r.2.2 * 2 ^ (8 * r.2.1)) 0)

/-- The accesses of an image that was read are counted, one on each of its pages (R128, log 77). -/
def State.countImage (s : State) (g : Agent) (va : Word) (n : Nat) : State :=
  s.countAll ((s.placeRuns g .load (runsOf va n)).1.map (·.1))

/-- The parts of an image written from its value, and counted (R128). -/
def State.writeRuns (s : State) (ps : List (Place × Nat × Nat)) (x : Nat) : State :=
  (s.performStores (ps.map fun r => (r.1, r.2.2, x / 2 ^ (8 * r.2.1) % 2 ^ (8 * r.2.2)))).countAll (ps.map (·.1))

/-- An access to an image on the typed buffers waits for the copy command of the hart that holds a part of it (R150,
R312). -/
def State.afterCopies (s : State) (g : Agent) (k : Access) (va : Word) (n : Nat) (body : State → Except Stop State) :
    Except Stop State :=
  match (s.placeRuns g k (runsOf va n)).1.findSome? fun r => s.me.copyHolding r.1 r.2.2 with
  | some q => .error (.wait (.copyRange q.ticket) s)
  | none => body s

/-- Free bytes: n of them as a number, and the state that has taken them (log 5). -/
def State.freeBytes (s : State) : Nat → Nat × State
  | 0 => (0, s)
  | n + 1 =>
    let (x, s) := s.takeFresh.freeBytes n
    ((Config.freeByte s.fresh).toNat + 256 * x, s)

/-- n bytes of an image written at an address.  A PFAULT writes nothing; after any other fault the bytes of the pages
before it are undefined (R193). -/
def State.writeImage (s : State) (g : Agent) (va : Word) (n x : Nat) : Except Stop State :=
  match s.placeRuns g .store (runsOf va n) with
  | (ps, none) => .ok (s.writeRuns ps x)
  | (ps, some (c, w)) =>
    if c = causePfault then raise s c w
    else
      let (y, s) := s.freeBytes (ps.map (·.2.2)).sum
      raise (s.writeRuns ps y) c w

/-! ### The vector image (R414) -/

/-- Bytes of a vector image for V and N. -/
def vectorImageBytes (v n : Nat) : Nat := 2240 + 8 * v + 8 * n * v

/-- A ring as the image holds it. -/
def packRing (r : Ring) : List (Nat × Nat) := r.entries.toList.map (fun e => (32, e.toNat)) ++ [(64, r.head.toNat)]

/-- A circular buffer in its 64 bytes; their layout is the model's own (log 15). -/
def packBuf (b : CircBuf) : List (Nat × Nat) :=
  [(1, if b.init then 1 else 0), (1, match b.buf with | .w => 0 | .x => 1), (62, 0), (64, b.base.toNat), (64, b.localBase),
    (24, b.slot.toNat), (8, b.count.toNat), (8, b.free.toNat), (8, b.filled.toNat), (8, b.held.toNat), (8, 0),
    (8, b.p.toNat), (8, b.c.toNat), (48, 0), (192, 0)]

/-- A vector image as a number: V at the save, N and SHRUNK with the contents. -/
def vectorImage (vs : VecState) (v n : Nat) (shrunk : Bool) : Nat :=
  pack ([(64, 0x201), (64, n), (64, v), (64, if shrunk then 1 else 0), (256, 0)]
    ++ vs.rings.toList.flatMap packRing
    ++ vs.bufs.toList.flatMap packBuf
    ++ vs.m.toList.map (fun x => (8 * v, x))
    ++ (vs.v.toList.take n).map fun x => (64 * v, x))

/-- The words of the header that R414 fixes, as far as they break the format: the first such word. -/
def badHeader (x : Nat) : Option Word :=
  let w (j : Nat) : Nat := fieldOf x (64 * j) 64
  let ok (j : Nat) : Bool :=
    if j = 0 then w 0 == 0x201
    else if j = 1 then w 1 == 8 || w 1 == 16 || w 1 == 32 || w 1 == 64
    else if j = 2 then decide (w 2 ≤ 4096)
    else if j = 3 then decide (w 3 ≤ 1)
    else w j == 0
  ((List.range 8).find? fun j => !ok j).map fun j => word (w j)

def unpackRing (x : Nat) : Ring :=
  { entries := Vector.ofFn fun i : Fin 16 => BitVec.ofNat 32 (x / 2 ^ (32 * i.val))
    head := BitVec.ofNat 4 (x / 2 ^ 512) }

def unpackBuf (x : Nat) : CircBuf :=
  { init := bitAt x 0
    buf := if bitAt x 1 then .x else .w
    base := word (x / 2 ^ 64)
    localBase := fieldOf x 128 64
    slot := BitVec.ofNat 24 (x / 2 ^ 192)
    count := BitVec.ofNat 8 (x / 2 ^ 216)
    free := BitVec.ofNat 8 (x / 2 ^ 224)
    filled := BitVec.ofNat 8 (x / 2 ^ 232)
    held := BitVec.ofNat 8 (x / 2 ^ 240)
    p := BitVec.ofNat 8 (x / 2 ^ 256)
    c := BitVec.ofNat 8 (x / 2 ^ 264) }

/-- The contents of a vector image, cut to a VLMAX(64-bit). -/
def unpackVector (x vlmax : Nat) : VecState :=
  let n := fieldOf x 64 64
  let v := fieldOf x 128 64
  let at_ (byte : Nat) : Nat := x / 2 ^ (8 * byte)
  { rings := Vector.ofFn fun i : Fin 16 => unpackRing (at_ (64 + 72 * i.val) % 2 ^ 576)
    bufs := Vector.ofFn fun i : Fin 16 => unpackBuf (at_ (1216 + 64 * i.val) % 2 ^ 512)
    m := Vector.ofFn fun i : Fin 8 => at_ (2240 + v * i.val) % 2 ^ (8 * min v vlmax)
    v := Vector.ofFn fun i : Fin 64 =>
      if i.val < n then at_ (2240 + 8 * v + 8 * v * i.val) % 2 ^ (64 * min v vlmax) else 0 }

end Sys2Proof.Machine
end

