-- ==== Sys2Proof/Machine/LoadStore.lean ====
section
/-!
DEFINITION. Scalar loads and stores (R131, R132), and the scalar atomics (R273, R274).
-/

namespace Sys2Proof.Machine

/-- base + sext(OFF8) × unit, in u64 (R131, R164). -/
def memAddress (base : Word) (off : BitVec 8) (unit : Nat) : Word := base + off.signExtend 64 * word unit

/-- An address that is a multiple of n. -/
def isAligned (n : Nat) (va : Word) : Bool := va.toNat % n == 0

/-- A load of n bytes (R131): D is empty until the read has performed and its value arrives (R32, R304). -/
def scalarLoad (n : Nat) (sext : Bool) (d a : Reg) (off : BitVec 8) (fa : Bool) (s : State) :
    Host.Outcome State Fault Refusal :=
  issue s
    { regs := [⟨2, d, isScalar d⟩, ⟨0, a, isAddress a⟩]
      sources := [⟨0, .x, a, fa⟩]
      dests := [(.x, d)] }
    fun s =>
      let va := memAddress (s.me.readX a) off n
      if !isAligned n va then raise s causeAlign va
      else
        match s.place (.scalar (n == 8)) .load va with
        | .error e => .error e
        | .ok p =>
          if s.meetsPoison p n then raise s causeFenced va
          else .ok ((s.count p).modifyMe fun h => h.await
            { vector := false, reg := d, value := 0
              reads := [{ place := p, bytes := n, upTo := h.strip.length, lo := 0, width := 64, sext }] })

def execLdb (d a : Reg) (off : BitVec 8) (fa : Bool) (s : State) := scalarLoad 1 false d a off fa s
def execLdh (d a : Reg) (off : BitVec 8) (fa : Bool) (s : State) := scalarLoad 2 false d a off fa s
def execLdw (d a : Reg) (off : BitVec 8) (fa : Bool) (s : State) := scalarLoad 4 false d a off fa s
def execLdd (d a : Reg) (off : BitVec 8) (fa : Bool) (s : State) := scalarLoad 8 false d a off fa s
def execLdbs (d a : Reg) (off : BitVec 8) (fa : Bool) (s : State) := scalarLoad 1 true d a off fa s
def execLdhs (d a : Reg) (off : BitVec 8) (fa : Bool) (s : State) := scalarLoad 2 true d a off fa s
def execLdws (d a : Reg) (off : BitVec 8) (fa : Bool) (s : State) := scalarLoad 4 true d a off fa s

/-- A store of n bytes (R131, R177): it joins the open strip. -/
def scalarStore (n : Nat) (d a : Reg) (off : BitVec 8) (fa fd : Bool) (s : State) :
    Host.Outcome State Fault Refusal :=
  issue s
    { regs := [⟨2, d, isScalar d⟩, ⟨0, a, isAddress a⟩]
      sources := [⟨0, .x, a, fa⟩, ⟨2, .x, d, fd⟩] }
    fun s =>
      let va := memAddress (s.me.readX a) off n
      if !isAligned n va then raise s causeAlign va
      else
        match s.place (.scalar (n == 8)) .store va with
        | .error e => .error e
        | .ok p => .ok ((s.count p).modifyMe fun h =>
            { h with strip := h.strip ++ [.stores [(p, n, (h.readX d).toNat % 2 ^ (8 * n))]] })

def execStb (d a : Reg) (off : BitVec 8) (fa fb : Bool) (s : State) := scalarStore 1 d a off fa fb s
def execSth (d a : Reg) (off : BitVec 8) (fa fb : Bool) (s : State) := scalarStore 2 d a off fa fb s
def execStw (d a : Reg) (off : BitVec 8) (fa fb : Bool) (s : State) := scalarStore 4 d a off fa fb s
def execStd (d a : Reg) (off : BitVec 8) (fa fb : Bool) (s : State) := scalarStore 8 d a off fa fb s

/-! ### Atomics -/

/-- The release that ORD makes of an atomic (R274). -/
def ordRelease (h : Hart) (ord : BitVec 2) : Option Bool := if ord.getLsbD 1 then some h.systemScope else none

/-- An atomic read-modify-write (R273): `f old b d` is the new word, none where nothing is written.  AMOCAS also reads
D; AMOFADD checks for DETFP, and with DET clear it joins an unordered sum (R274).  An acquire adds nothing: the order of
the acts is the perform order, and the strip's commit has performed every earlier read (R305, log 2). -/
def scalarAtomic (readsD float : Bool) (f : Word → Word → Word → Option Word) (d a b : Reg) (ord : BitVec 2)
    (fa fb : Bool) (s : State) : Host.Outcome State Fault Refusal :=
  issue s
    { regs := [⟨2, d, isScalar d⟩, ⟨0, a, isAddress a⟩, ⟨1, b, isScalar b⟩]
      sources := [⟨0, .x, a, fa⟩, ⟨1, .x, b, fb⟩] ++ if readsD then [⟨2, .x, d, false⟩] else []
      dests := [(.x, d)]
      commits := true
      orders := true
      releases := ordRelease s.me ord }
    fun s =>
      let h := s.me
      let va := h.readX a
      if !isAligned 8 va then raise s causeAlign va
      else
        match s.place .memory .rmw va with
        | .error e => .error e
        | .ok p =>
          if float && h.det && h.scope ≠ 0 then raise s causeDetfp va
          else if s.isPoisonedAt p 8 then raise s causeFenced va
          else if s.blocksWrite [(p, 8)] then .error (.wait .followOns s)
          else
            let old := word (s.readPlace p 8)
            let s := (s.count p).modifyMe fun h => h.writeX d old
            match f old (h.readX b) (h.readX d), p with
            | some x, .main pa =>
              if float && !h.det then
                .ok (s.addUnordered
                  { pa := BitVec.ofNat 52 pa, log2Size := 3, isFloat := true, bf := false, addend := h.readX b })
              else .ok (s.putWord pa x.toNat)
            | _, _ => .ok s

/-- An atomic that always writes f old B. -/
def atomicOp (f : Word → Word → Word) (d a b : Reg) (ord : BitVec 2) (fa fb : Bool) (s : State) : Host.Outcome State Fault Refusal :=
  scalarAtomic false false (fun old x _ => some (f old x)) d a b ord fa fb s

def execAmoadd (d a b : Reg) (ord : BitVec 2) (fa fb : Bool) (s : State) := atomicOp (· + ·) d a b ord fa fb s
def execAmoand (d a b : Reg) (ord : BitVec 2) (fa fb : Bool) (s : State) := atomicOp (· &&& ·) d a b ord fa fb s
def execAmoor (d a b : Reg) (ord : BitVec 2) (fa fb : Bool) (s : State) := atomicOp (· ||| ·) d a b ord fa fb s
def execAmoxor (d a b : Reg) (ord : BitVec 2) (fa fb : Bool) (s : State) := atomicOp (· ^^^ ·) d a b ord fa fb s
def execAmomins (d a b : Reg) (ord : BitVec 2) (fa fb : Bool) (s : State) :=
  atomicOp (fun x y => if x.slt y then x else y) d a b ord fa fb s
def execAmomaxs (d a b : Reg) (ord : BitVec 2) (fa fb : Bool) (s : State) :=
  atomicOp (fun x y => if x.slt y then y else x) d a b ord fa fb s
def execAmominu (d a b : Reg) (ord : BitVec 2) (fa fb : Bool) (s : State) :=
  atomicOp (fun x y => if x < y then x else y) d a b ord fa fb s
def execAmomaxu (d a b : Reg) (ord : BitVec 2) (fa fb : Bool) (s : State) :=
  atomicOp (fun x y => if x < y then y else x) d a b ord fa fb s
def execAmoswap (d a b : Reg) (ord : BitVec 2) (fa fb : Bool) (s : State) := atomicOp (fun _ y => y) d a b ord fa fb s

/-- AMOCAS: B is written where the old word equals D. -/
def execAmocas (d a b : Reg) (ord : BitVec 2) (fa fb : Bool) (s : State) : Host.Outcome State Fault Refusal :=
  scalarAtomic true false (fun old x e => if old = e then some x else none) d a b ord fa fb s

/-- AMOFADD: an FP64 sum under RNE (R62, R273). -/
def execAmofadd (d a b : Reg) (ord : BitVec 2) (fa fb : Bool) (s : State) : Host.Outcome State Fault Refusal :=
  scalarAtomic false true (fun old x _ => some (word (addBits .fp64 .nearest old.toNat x.toNat))) d a b ord fa fb s

end Sys2Proof.Machine
end

