-- ==== Sys2Proof/Machine/VectorInt.lean ====
section
/-!
DEFINITION. Vector integer arithmetic (R203-R210).
-/

namespace Sys2Proof.Machine

/-- What an element instruction asks of the hart: D and A vectors, B of any kind (R203). -/
def State.elemUses (s : State) (cls : ActClass) (d a : Reg) (b : Src) (fa readsD : Bool) : Uses :=
  { len := srcBytes b
    regs := [⟨2, d, s.me.isVector d⟩, ⟨0, a, s.me.isVector a⟩] ++ srcField s.me.isVector b
    vown := true
    sources := ⟨0, .v, a, fa⟩ :: srcSource .v b ++ if readsD then [⟨2, .v, d, false⟩] else []
    dests := [(.v, d)]
    reads := a :: srcTiles b ++ if readsD then [d] else []
    writes := [d]
    lanes := true
    work := [(cls, s.tileCycles s.me.tile)] }

/-- An element instruction without a source B. -/
def State.unaryUses (s : State) (cls : ActClass) (d a : Reg) (fa : Bool) : Uses :=
  { regs := [⟨2, d, s.me.isVector d⟩, ⟨0, a, s.me.isVector a⟩]
    vown := true
    sources := [⟨0, .v, a, fa⟩]
    dests := [(.v, d)]
    reads := [a]
    writes := [d]
    lanes := true
    work := [(cls, s.tileCycles s.me.tile)] }

/-- The shape of R204 over tiles already read: the active elements take `f`. -/
def State.writeActive (s : State) (d : Reg) (f : Nat → Nat) : Except Stop State :=
  s.writeTile d fun i => if s.me.active i then some (f i) else none

/-- The shape of R204 over whole tiles: every active element takes `f`, those that a resumed push has stored apart. -/
def State.writeMasked (s : State) (d : Reg) (f : Nat → Nat) : Except Stop State :=
  s.writeTile d fun i => if s.me.masked i then some (f i) else none

/-- An integer element instruction: `op SEW x y` for each active element. -/
def vectorBinary (op : Nat → Nat → Nat → Nat) (d a : Reg) (b : Src) (fa : Bool) (s : State) :
    Host.Outcome State Fault Refusal :=
  issue s (s.elemUses .vint d a b fa false) fun s =>
    s.withTiles (a :: srcTiles b) fun xs s =>
      let sew := s.me.sew
      s.writeActive d fun i => op sew (elem sew (tileOfName xs a) i) (s.me.elemB xs false b i)

/-- A unary integer element instruction. -/
def vectorUnary (op : Nat → Nat → Nat) (d a : Reg) (fa : Bool) (s : State) : Host.Outcome State Fault Refusal :=
  issue s (s.unaryUses .vint d a fa) fun s =>
    s.withTiles [a] fun xs s =>
      s.writeActive d fun i => op s.me.sew (elem s.me.sew (tileOfName xs a) i)

/-- bits(y)[log2(SEW) - 1 : 0]. -/
def shOf (sew y : Nat) : Nat := y % sew

/-- High SEW bits of the signed product. -/
def mulHighS (sew x y : Nat) : Nat := wrap sew (signed sew x * signed sew y / (2 ^ sew : Nat))

def minSigned (sew x y : Nat) : Nat := if signed sew x ≤ signed sew y then x else y
def maxSigned (sew x y : Nat) : Nat := if signed sew x ≤ signed sew y then y else x

/-! Major 0x18 (R205); results are taken modulo 2^SEW where they are written. -/

def execVadd (d a : Reg) (b : Src) (fa : Bool) (s : State) := vectorBinary (fun _ x y => x + y) d a b fa s
def execVsub (d a : Reg) (b : Src) (fa : Bool) (s : State) := vectorBinary (fun w x y => x + 2 ^ w - y) d a b fa s
def execVmul (d a : Reg) (b : Src) (fa : Bool) (s : State) := vectorBinary (fun _ x y => x * y) d a b fa s
def execVmulhs (d a : Reg) (b : Src) (fa : Bool) (s : State) := vectorBinary mulHighS d a b fa s
def execVmulhu (d a : Reg) (b : Src) (fa : Bool) (s : State) := vectorBinary (fun w x y => x * y / 2 ^ w) d a b fa s
def execVand (d a : Reg) (b : Src) (fa : Bool) (s : State) := vectorBinary (fun _ x y => x &&& y) d a b fa s
def execVor (d a : Reg) (b : Src) (fa : Bool) (s : State) := vectorBinary (fun _ x y => x ||| y) d a b fa s
def execVxor (d a : Reg) (b : Src) (fa : Bool) (s : State) := vectorBinary (fun _ x y => x ^^^ y) d a b fa s
def execVshl (d a : Reg) (b : Src) (fa : Bool) (s : State) := vectorBinary (fun w x y => x * 2 ^ shOf w y) d a b fa s
def execVshr (d a : Reg) (b : Src) (fa : Bool) (s : State) := vectorBinary (fun w x y => x / 2 ^ shOf w y) d a b fa s
def execVsra (d a : Reg) (b : Src) (fa : Bool) (s : State) :=
  vectorBinary (fun w x y => wrap w (signed w x / (2 ^ shOf w y : Nat))) d a b fa s
def execVmins (d a : Reg) (b : Src) (fa : Bool) (s : State) := vectorBinary minSigned d a b fa s
def execVmaxs (d a : Reg) (b : Src) (fa : Bool) (s : State) := vectorBinary maxSigned d a b fa s
def execVminu (d a : Reg) (b : Src) (fa : Bool) (s : State) := vectorBinary (fun _ x y => min x y) d a b fa s
def execVmaxu (d a : Reg) (b : Src) (fa : Bool) (s : State) := vectorBinary (fun _ x y => max x y) d a b fa s

/-- VMADD (R205): x × y + old D. -/
def execVmadd (d a : Reg) (b : Src) (fa : Bool) (s : State) : Host.Outcome State Fault Refusal :=
  issue s (s.elemUses .vint d a b fa true) fun s =>
    s.withTiles (a :: srcTiles b ++ [d]) fun xs s =>
      let sew := s.me.sew
      s.writeActive d fun i =>
        elem sew (tileOfName xs a) i * s.me.elemB xs false b i + elem sew (tileOfName xs d) i

/-! ### Carry and borrow (R206) -/

/-- The mask with the bits of the active elements replaced. -/
def Hart.setActive (h : Hart) (m : Reg) (f : Nat → Bool) : Hart :=
  h.writeM m (h.maskOf (h.readM m) fun i => if h.active i then some (f i) else none)

/-- VADC and VSBC: the sum or difference `r`, and the carry out `c`, of x, y and bit i of m1.  Where a push of D faults, the
elements below the fault have their carries too (R162). -/
def vectorCarry (r : Nat → Nat → Nat → Nat → Nat) (c : Nat → Nat → Nat → Nat → Bool) (d a : Reg) (b : Src) (fa : Bool)
    (s : State) : Host.Outcome State Fault Refusal :=
  issue s (s.elemUses .vint d a b fa false) fun s =>
    s.withTiles (a :: srcTiles b) fun xs s =>
      let h := s.me
      let x (i : Nat) : Nat := elem h.sew (tileOfName xs a) i
      let y (i : Nat) : Nat := h.elemB xs false b i
      let cin (i : Nat) : Nat := fieldOf (h.readM 1) i 1
      let carries (n : Nat) (t : Hart) : Hart :=
        t.writeM 2 (t.maskOf (t.readM 2) fun i => if h.active i ∧ i < n then some (c h.sew (x i) (y i) (cin i)) else none)
      match s.writeActive d fun i => r h.sew (x i) (y i) (cin i) with
      | .error (.trap t s) => .error (.trap t (s.modifyMe (carries t.elt.toNat)))
      | .error e => .error e
      | .ok s => .ok (s.modifyMe (carries h.tile))

def execVadc (d a : Reg) (b : Src) (fa : Bool) (s : State) :=
  vectorCarry (fun _ x y k => x + y + k) (fun w x y k => decide (2 ^ w ≤ x + y + k)) d a b fa s
def execVsbc (d a : Reg) (b : Src) (fa : Bool) (s : State) :=
  vectorCarry (fun w x y k => x + 2 ^ (w + 1) - y - k) (fun _ x y k => decide (x < y + k)) d a b fa s

/-! ### Compares (R207) and VMERGE (R208) -/

/-- What a compare asks of the hart: D in mask use. -/
def State.compareUses (s : State) (cls : ActClass) (d a : Reg) (b : Src) (fa : Bool) : Uses :=
  { s.elemUses cls d a b fa false with
    regs := [⟨2, d, isMask d⟩, ⟨0, a, s.me.isVector a⟩] ++ srcField s.me.isVector b
    dests := []
    writes := [] }

/-- A compare of active elements. -/
def vectorCompare (fn : Nat) (d a : Reg) (b : Src) (fa : Bool) (s : State) : Host.Outcome State Fault Refusal :=
  issue s (s.compareUses .vint d a b fa) fun s =>
    s.withTiles (a :: srcTiles b) fun xs s =>
      .ok (s.modifyMe fun h => h.setActive d fun i =>
        compareElems fn h.sew (elem h.sew (tileOfName xs a) i) (h.elemB xs false b i))

def execVcmpeq (d a : Reg) (b : Src) (fa : Bool) (s : State) := vectorCompare 2 d a b fa s
def execVcmplt (d a : Reg) (b : Src) (fa : Bool) (s : State) := vectorCompare 3 d a b fa s
def execVcmpltu (d a : Reg) (b : Src) (fa : Bool) (s : State) := vectorCompare 4 d a b fa s
def execVcmple (d a : Reg) (b : Src) (fa : Bool) (s : State) := vectorCompare 5 d a b fa s
def execVcmpleu (d a : Reg) (b : Src) (fa : Bool) (s : State) := vectorCompare 6 d a b fa s

/-- VMERGE: every element of the tile is written; a push stores the active ones (R173). -/
def execVmerge (d a : Reg) (b : Src) (fa : Bool) (s : State) : Host.Outcome State Fault Refusal :=
  issue s (s.elemUses .vint d a b fa false) fun s =>
    s.withTilesOf s.me.inRange (a :: srcTiles b) fun xs s =>
      s.writeTile d fun i =>
        if s.me.inRange i then
          some (if s.me.masked i then elem s.me.sew (tileOfName xs a) i else s.me.elemB xs false b i)
        else none

/-! ### Unary forms (R209) -/

def execVabs (d a : Reg) (fa : Bool) (s : State) := vectorUnary (fun w x => (signed w x).natAbs) d a fa s
def execVclz (d a : Reg) (fa : Bool) (s : State) := vectorUnary leadingZeros d a fa s
def execVpopc (d a : Reg) (fa : Bool) (s : State) := vectorUnary popCount d a fa s

/-! ### Register pairs (R210) -/

/-- The second name of a pair. -/
def pairOf (r : Reg) : Reg := r + 1

/-- A pair of vector names: both lie below N. -/
def Hart.isPair (h : Hart) (r : Reg) : Bool := decide (r.toNat + 1 < h.names.toNat)

/-- Elements of width 2·SEW that the first register of a pair holds. -/
def Hart.pairSplit (h : Hart) : Nat := h.vlmax.toNat * 64 / (2 * h.sew)

/-- The wide value of a linear index. -/
def Hart.wideElem (h : Hart) (lo hi i : Nat) : Nat :=
  if i < h.pairSplit then elem (2 * h.sew) lo i else elem (2 * h.sew) hi (i - h.pairSplit)

/-- A pair of which a name is bound to a stream: its elements are not SEW bits wide, so that no ESZ fits and the
instruction is ILLEGAL (R173). -/
def Hart.pairBound (h : Hart) (r : Reg) : Bool := (h.streamOf r).isSome || (h.streamOf (pairOf r)).isSome

/-- VNARROW: shifted right arithmetically, then saturated. -/
def execVnarrow (d a : Reg) (b : Src) (fa : Bool) (s : State) : Host.Outcome State Fault Refusal :=
  issue s
    { s.elemUses .vint d a b fa false with
      illegal := s.me.sewCode == 3 || s.me.pairBound a
      regs := [⟨2, d, s.me.isVector d⟩, ⟨0, a, s.me.isPair a⟩] ++ srcField s.me.isVector b
      sources := ⟨0, .vs 2, a, fa⟩ :: srcSource .v b
      reads := srcTiles b } fun s =>
    s.withTiles (srcTiles b) fun xs s =>
      let h := s.me
      s.writeActive d fun i =>
        wrap h.sew (saturate h.sew (signed (2 * h.sew) (h.wideElem (h.readV a) (h.readV (pairOf a)) i)
          / (2 ^ (h.elemB xs false b i % 64) : Nat)))

/-- The pair with the wide values of its active elements replaced. -/
def Hart.writePair (h : Hart) (d : Reg) (f : Nat → Nat) : Hart :=
  let k := h.pairSplit
  let w := 2 * h.sew
  let part (old from_ n : Nat) : Nat :=
    splice w old ((List.range n).map fun i =>
      if h.active (from_ + i) then f (from_ + i) else elem w old i)
  let h' := h.writeV d (part (h.readV d) 0 (min h.tile k))
  h'.writeV (pairOf d) (part (h.readV (pairOf d)) k (h.tile - k))

/-- VWIDENS and VWIDENU. -/
def vectorWiden (op : Nat → Nat → Nat) (d a : Reg) (fa : Bool) (s : State) : Host.Outcome State Fault Refusal :=
  issue s
    { s.unaryUses .vint d a fa with
      illegal := s.me.sewCode == 3 || s.me.pairBound d
      regs := [⟨2, d, s.me.isPair d⟩, ⟨0, a, s.me.isVector a⟩]
      dests := [(.vs 2, d)]
      writes := [] } fun s =>
    s.withTiles [a] fun xs s =>
      .ok (s.modifyMe fun h => h.writePair d fun i => op h.sew (elem h.sew (tileOfName xs a) i))

def execVwidens (d a : Reg) (fa : Bool) (s : State) := vectorWiden (fun w x => wrap (2 * w) (signed w x)) d a fa s
def execVwidenu (d a : Reg) (fa : Bool) (s : State) := vectorWiden (fun _ x => x) d a fa s

end Sys2Proof.Machine
end

