-- ==== Sys2Proof/Machine/Generator.lean ====
section
/-!
DEFINITION. Generator operands: the frame of a generator register, and the generator instructions (R254-R268).
-/

namespace Sys2Proof.Machine

/-! ### The quarter-wave table (R258) -/

/-- π in units of 2^-128, rounded down. -/
def piScaled : Nat := 1069028584064966747859680373161870783300

/-- The sine series from its term of order 2k - 1, all in units of 2^-128. -/
def sineSeries (x2 : Int) : Nat → Nat → Int → Int
  | 0, _, _ => 0
  | n + 1, k, term =>
    let next := -(term * x2 / (2 ^ 128 : Nat) / (2 * k * (2 * k + 1) : Nat))
    term + sineSeries x2 n (k + 1) next

/-- QW[n] = round(sin(πn ÷ 2048) × 2^30), for n up to 1,024. -/
def quarterWave (n : Nat) : Nat :=
  let x : Int := (piScaled * n / 2048 : Nat)
  ((sineSeries (x * x / (2 ^ 128 : Nat)) 20 1 x + (2 ^ 97 : Nat)) / (2 ^ 98 : Nat)).toNat

/-- Sin32 (R258): the interpolated sine of a phase, exact. -/
def sin32 (phase : Nat) : FVal :=
  let q := fieldOf phase 30 2
  let u := fieldOf phase 0 30
  let p := if q = 0 ∨ q = 2 then u else 2 ^ 30 - u
  let n := p / 2 ^ 20
  let f := p % 2 ^ 20
  let s := quarterWave n * 2 ^ 20 + (if n < 1024 then (quarterWave (n + 1) - quarterWave n) * f else 0)
  .fin ((q == 2 || q == 3) && s != 0) s (-50)

/-! ### The frame (R255-R257) -/

/-- Fields of a generator register. -/
def genField (k : BitVec 256) (lo width : Nat) : Nat := fieldOf k.toNat lo width
def genKind (k : BitVec 256) : Nat := genField k 0 4
def genScope (k : BitVec 256) : Nat := genField k 4 3
def genT (k : BitVec 256) : Bool := bitAt k.toNat 7
def genP (k : BitVec 256) : Nat := genField k 16 16
def genStream (k : BitVec 256) : Nat := genField k 32 16
def genScale (k : BitVec 256) : Nat := genField k 64 32
def genRow0 (k : BitVec 256) : Nat := genField k 128 23
def genCol0 (k : BitVec 256) : Nat := genField k 160 24
def genSeed (k : BitVec 256) : Word := word (genField k 192 64)

/-- F[n] of a frequency table. -/
def freqWord (table : BitVec 2048) (n : Nat) : Nat := fieldOf table.toNat (32 * n) 32

/-- The sum of the four 16-bit fields of a word. -/
def fieldSum (h : Word) : Nat := ((List.range 4).map fun i => fieldOf h.toNat (16 * i) 16).sum

/-- The kind's value V (R257) at row coordinate a and column coordinate b. -/
def genValue (k : BitVec 256) (table : BitVec 2048) (a b : Nat) (h1 h2 : Word) : FVal :=
  let theta := a * freqWord table (b % 64) % 2 ^ 32
  let bit (x : Bool) : FVal := ofInt (if x then 1 else 0)
  match genKind k with
  | 0 => ofInt (if h1.getLsbD 63 then -1 else 1)
  | 1 => (ofInt (2 * ((fieldSum h1 + fieldSum h2 : Nat) : Int) - 524280)).mul (.fin false 0x13988E1409212E (-68))
  | 2 => let x := signed 24 (fieldOf h1.toNat 40 24)
    .fin (decide (x < 0)) x.natAbs (-23)
  | 3 => sin32 ((theta + 2 ^ 30) % 2 ^ 32)
  | 4 => sin32 theta
  | 5 => bit (decide (h1.toNat % 65536 < genP k))
  | 6 => bit (decide (b ≤ a))
  | _ => bit (decide (((a : Int) - b).natAbs ≤ genP k))

/-- Gen(i, j) (R256), exact, for a hart of the launch given. -/
def genElem (link : LaunchLink) (k : BitVec 256) (table : BitVec 2048) (i j : Nat) : FVal :=
  let a := (i + genRow0 k) % 2 ^ 23
  let b := (j + genCol0 k) % 2 ^ 24
  let x := word (genStream k * 2 ^ 48 + a * 2 ^ 24 + b)
  let seed := if genScope k = 0 then genSeed k else hash (genSeed k) (link.idAt (genScope k))
  (genValue k table a b (hash seed x) (hash seed (x ^^^ word (2 ^ 47)))).mul (Fmt.fp32.value (genScale k))

/-- The frame read with its T bit (R260): coordinates exchanged when `swap` differs from T. -/
def genAt (link : LaunchLink) (k : BitVec 256) (table : BitVec 2048) (swap : Bool) (i j : Nat) : FVal :=
  if genT k == swap then genElem link k table i j else genElem link k table j i

/-! ### Instructions (R263-R268) -/

/-- A generator field: 8-15 for k0-k7 (R39). -/
def isGen (r : Reg) : Bool := decide (8 ≤ r.toNat) && decide (r.toNat < 16)

/-- The number of a generator register. -/
def genNumber (r : Reg) : Nat := r.toNat - 8

/-- The generator register and the table that a field names. -/
def Hart.gen (h : Hart) (r : Reg) : BitVec 256 := vget h.k (genNumber r) 0
def Hart.genTable (h : Hart) (r : Reg) : BitVec 2048 := vget h.freq (genNumber r) 0

/-- A generator register with a field replaced. -/
def Hart.setGenField (h : Hart) (r : Reg) (lo width x : Nat) : Hart :=
  { h with k := vset h.k (genNumber r) (BitVec.ofNat 256 (setField (h.gen r).toNat lo width x)) }

/-- The uses of KSET and KORG: a generator, a register of g0-g31 and B. -/
def genUses (d a : Reg) (b : Src) (fa : Bool) : Uses :=
  { len := srcBytes b
    regs := [⟨2, d, isGen d⟩, ⟨0, a, isG a⟩] ++ srcField isScalar b
    sources := ⟨0, .x, a, fa⟩ :: srcSource .x b
    commits := true }

/-- The float B of KSET as FP32 (R263). -/
def Hart.scaleOf (h : Hart) : Src → Nat
  | .lit w => w.toNat
  | b => convert .fp64 .fp32 .nearest (h.srcWord b).toNat

/-- GENCFG with the register number and the reason (R262). -/
def genReason (r : Reg) (reason : Nat) : Word := word (genNumber r + reason * 256)

/-- KSET (R264). -/
def execKset (d a : Reg) (b : Src) (fa : Bool) (s : State) : Host.Outcome State Fault Refusal :=
  issue s (genUses d a b fa) fun s =>
    let w := (s.me.readX a).toNat
    let scale := s.me.scaleOf b
    if fieldOf w 8 8 ≠ 0 ∨ fieldOf w 48 16 ≠ 0 then raise s causeGencfg (genReason d 4)
    else if 8 ≤ fieldOf w 0 4 then raise s causeGencfg (genReason d 1)
    else if 5 ≤ fieldOf w 4 3 then raise s causeGencfg (genReason d 2)
    else if fieldOf scale 23 8 = 255 then raise s causeGencfg (genReason d 3)
    else .ok (s.modifyMe fun h => (h.setGenField d 0 64 w).setGenField d 64 32 scale)

/-- KSEED (R265). -/
def execKseed (d : Reg) (b : Src) (s : State) : Host.Outcome State Fault Refusal :=
  issue s
    { len := srcBytes b
      regs := [⟨2, d, isGen d⟩] ++ srcField isScalar b
      sources := srcSource .x b
      commits := true } fun s =>
    .ok (s.modifyMe fun h => h.setGenField d 192 64 (h.srcWord b).toNat)

/-- KORG (R265). -/
def execKorg (d a : Reg) (b : Src) (fa : Bool) (s : State) : Host.Outcome State Fault Refusal :=
  issue s (genUses d a b fa) fun s =>
    .ok (s.modifyMe fun h =>
      (h.setGenField d 128 23 (h.readX a).toNat).setGenField d 160 24 (h.srcWord b).toNat)

/-- KFREQ (R266): all bytes are read before the table changes. -/
def execKfreq (d a : Reg) (fa : Bool) (s : State) : Host.Outcome State Fault Refusal :=
  issue s { regs := [⟨2, d, isGen d⟩, ⟨0, a, isAddress a⟩], sources := [⟨0, .x, a, fa⟩], commits := true } fun s =>
    let va := s.me.readX a
    if va.toNat % 64 ≠ 0 then raise s causeAlign va
    else
      s.afterCopies .reader .load va 256 fun s =>
      match s.readImage .reader va 256 with
      | .error e => .error e
      | .ok x => .ok ((s.countImage .reader va 256).modifyMe fun h => { h with freq := vset h.freq (genNumber d) (BitVec.ofNat 2048 x) })

/-- VGEN (R267): rounded under RNE whatever RM holds (R259). -/
def execVgen (d a : Reg) (s : State) : Host.Outcome State Fault Refusal :=
  issue s
    { illegal := s.me.sewCode == 0
      regs := [⟨2, d, s.me.isVector d⟩, ⟨0, a, isGen a⟩]
      vown := true
      dests := [(.v, d)]
      writes := [d]
      lanes := true
      work := [(.gen, s.tileCycles s.me.tile)] } fun s =>
    let h := s.me
    s.writeActive d fun i =>
      roundF h.fmt .nearest (genAt h.link (h.gen a) (h.genTable a) false (i / h.vl.toNat) (i % h.vl.toNat))

/-- KGET (R268). -/
def execKget (d a : Reg) (b : Src) (s : State) : Host.Outcome State Fault Refusal :=
  issue s
    { len := srcBytes b
      regs := [⟨2, d, isG d⟩, ⟨0, a, isGen a⟩] ++ srcField isScalar b
      sources := srcSource .x b
      dests := [(.x, d)] } fun s =>
    let h := s.me
    let n := (h.srcWord b).toNat
    if n < 4 then .ok (s.modifyMe fun h => h.writeX d (word (genField (h.gen a) (64 * n) 64)))
    else if 64 ≤ n ∧ n < 128 then .ok (s.modifyMe fun h => h.writeX d (word (freqWord (h.genTable a) (n - 64))))
    else raise s causeIllegal (word n)

end Sys2Proof.Machine
end

