-- ==== Sys2Proof/Machine/VectorFloat.lean ====
section
/-!
DEFINITION. Vector floating point, conversions, quantising, absmax rings and reductions (R57-R61, R70-R73, R218-R229).
-/

namespace Sys2Proof.Machine

/-- The class of float work, by SEW (R379); SEW = 8 counts with the narrow ones. -/
def Hart.floatClass (h : Hart) : ActClass := if h.sewCode = 3 then .vf64 else .vf32

/-- The uses of a float element instruction: SEW = 8 is ILLEGAL (R28, R218). -/
def State.floatUses (s : State) (d a : Reg) (b : Src) (fa readsD : Bool) : Uses :=
  { s.elemUses s.me.floatClass d a b fa readsD with illegal := s.me.sewCode == 0 }

/-- The uses of a float element instruction without a source B. -/
def State.floatUnaryUses (s : State) (d a : Reg) (fa : Bool) : Uses :=
  { s.unaryUses s.me.floatClass d a fa with illegal := s.me.sewCode == 0 }

/-! ### Major 0x20 (R219, R220) -/

/-- A float element instruction: the pattern that `op` makes of the patterns x and y. -/
def vfloatBinary (op : Fmt → Rounding → Nat → Nat → Nat) (d a : Reg) (b : Src) (fa : Bool) (s : State) :
    Host.Outcome State Fault Refusal :=
  issue s (s.floatUses d a b fa false) fun s =>
    s.withTiles (a :: srcTiles b) fun xs s =>
      let h := s.me
      s.writeActive d fun i => op h.fmt (s.rounding i) (elem h.sew (tileOfName xs a) i) (h.elemB xs true b i)

/-- A unary float element instruction. -/
def vfloatUnary (op : Fmt → Rounding → Nat → Nat) (d a : Reg) (fa : Bool) (s : State) :
    Host.Outcome State Fault Refusal :=
  issue s (s.floatUnaryUses d a fa) fun s =>
    s.withTiles [a] fun xs s =>
      let h := s.me
      s.writeActive d fun i => op h.fmt (s.rounding i) (elem h.sew (tileOfName xs a) i)

/-- A multiply-add: `op` combines the exact product with the old element of D; one rounding. -/
def vfloatFused (op : Bool → FVal → FVal → FVal) (d a : Reg) (b : Src) (fa : Bool) (s : State) :
    Host.Outcome State Fault Refusal :=
  issue s (s.floatUses d a b fa true) fun s =>
    s.withTiles (a :: srcTiles b ++ [d]) fun xs s =>
      let h := s.me
      let f := h.fmt
      s.writeActive d fun i =>
        let p := (f.value (elem h.sew (tileOfName xs a) i)).mul (f.value (h.elemB xs true b i))
        roundF f (s.rounding i) (op (h.rm == .rdn) p (f.value (elem h.sew (tileOfName xs d) i)))

/-- A float compare into a mask. -/
def vfloatCompare (op : FVal → FVal → Bool) (d a : Reg) (b : Src) (fa : Bool) (s : State) :
    Host.Outcome State Fault Refusal :=
  issue s { s.compareUses s.me.floatClass d a b fa with illegal := s.me.sewCode == 0 } fun s =>
    s.withTiles (a :: srcTiles b) fun xs s =>
      .ok (s.modifyMe fun h => h.setActive d fun i =>
        op (h.fmt.value (elem h.sew (tileOfName xs a) i)) (h.fmt.value (h.elemB xs true b i)))

/-- Rounded operations on patterns. -/
def subBits (f : Fmt) (rd : Rounding) (x y : Nat) : Nat :=
  roundF f rd ((f.value x).add (rd.mode == .rdn) (f.value y).neg)
def mulBits (f : Fmt) (rd : Rounding) (x y : Nat) : Nat := roundF f rd ((f.value x).mul (f.value y))
def divBits (f : Fmt) (rd : Rounding) (x y : Nat) : Nat := roundF f rd ((f.value x).div (f.value y))
def sqrtBits (f : Fmt) (rd : Rounding) (x : Nat) : Nat := roundF f rd (f.value x).sqrt

/-- The bits of x without its sign. -/
def absBits (f : Fmt) (x : Nat) : Nat := x % 2 ^ (f.width - 1)

/-- The bits of x with its sign inverted. -/
def negBits (f : Fmt) (x : Nat) : Nat := absBits f x + f.signBit (!bitAt x (f.width - 1))

def execVfadd (d a : Reg) (b : Src) (fa : Bool) (s : State) := vfloatBinary addBits d a b fa s
def execVfsub (d a : Reg) (b : Src) (fa : Bool) (s : State) := vfloatBinary subBits d a b fa s
def execVfmul (d a : Reg) (b : Src) (fa : Bool) (s : State) := vfloatBinary mulBits d a b fa s
def execVfdiv (d a : Reg) (b : Src) (fa : Bool) (s : State) := vfloatBinary divBits d a b fa s
def execVfsqrt (d a : Reg) (fa : Bool) (s : State) := vfloatUnary sqrtBits d a fa s
def execVfmin (d a : Reg) (b : Src) (fa : Bool) (s : State) := vfloatBinary (fun f _ x y => minBits f x y) d a b fa s
def execVfmax (d a : Reg) (b : Src) (fa : Bool) (s : State) := vfloatBinary (fun f _ x y => maxBits f x y) d a b fa s
def execVffma (d a : Reg) (b : Src) (fa : Bool) (s : State) := vfloatFused (fun rdn p z => p.add rdn z) d a b fa s
def execVffms (d a : Reg) (b : Src) (fa : Bool) (s : State) := vfloatFused (fun rdn p z => p.add rdn z.neg) d a b fa s
def execVfcmpeq (d a : Reg) (b : Src) (fa : Bool) (s : State) := vfloatCompare FVal.eq d a b fa s
def execVfcmplt (d a : Reg) (b : Src) (fa : Bool) (s : State) := vfloatCompare FVal.lt d a b fa s
def execVfcmple (d a : Reg) (b : Src) (fa : Bool) (s : State) := vfloatCompare FVal.le d a b fa s
def execVfabs (d a : Reg) (fa : Bool) (s : State) := vfloatUnary (fun f _ x => absBits f x) d a fa s
def execVfneg (d a : Reg) (fa : Bool) (s : State) := vfloatUnary (fun f _ x => negBits f x) d a fa s
def execVfclass (d a : Reg) (fa : Bool) (s : State) := vfloatUnary (fun f _ x => classMask f x) d a fa s

/-! ### Conversions (R221-R223) -/

/-- The float format of a code. -/
def fmtOfCode (c : BitVec 3) : Option Fmt :=
  match c.toNat with
  | 0 => some .fp64 | 1 => some .fp32 | 2 => some .fp16 | 3 => some .bf16 | 4 => some .e4m3 | 5 => some .e5m2
  | _ => none

/-- A side of a conversion. -/
inductive Side where
  | float (f : Fmt)
  | int (isUnsigned : Bool) (width : Nat)
  deriving DecidableEq, Repr

def Side.width : Side → Nat
  | .float f => f.width
  | .int _ w => w

/-- The integer format of three bits. -/
def intSide (c : BitVec 3) : Side := .int (c.getLsbD 2) (8 * 2 ^ (c.toNat % 4))

/-- The value of an element of a side. -/
def Side.value (d : Side) (x : Nat) : FVal :=
  match d with
  | .float f => f.value x
  | .int u w => ofInt (if u then (x : Int) else signed w x)

/-- A value rounded to an unsigned integer and saturated (R223). -/
def toUnsigned (width : Nat) (rd : Rounding) : FVal → Nat
  | .nan => 0
  | .inf neg => if neg then 0 else 2 ^ width - 1
  | .fin neg m e => if neg then 0 else min (2 ^ width - 1) (roundAt rd false m e 0)

/-- A value as an element of a side, rounded and saturated (R67, R223). -/
def Side.encode (d : Side) (rd : Rounding) (v : FVal) : Nat :=
  match d with
  | .float f => roundF f rd v
  | .int u w => if u then toUnsigned w rd v else wrap w (toInt w rd v)

/-- Consecutive registers of a side whose elements are `width` bits wide (R222). -/
def Hart.groupSize (h : Hart) (width : Nat) : Nat := width / h.sew

/-- The names of a group are in vector use. -/
def Hart.isGroup (h : Hart) (width : Nat) (r : Reg) : Bool := decide (r.toNat + h.groupSize width - 1 < h.names.toNat)

/-- The names of a group. -/
def Hart.groupNames (h : Hart) (width : Nat) (r : Reg) : List Reg :=
  (List.range (h.groupSize width)).map fun n => r + BitVec.ofNat 6 n

/-- Elements of `width` bits that one register holds. -/
def Hart.groupElems (h : Hart) (width : Nat) : Nat := h.vlmax.toNat * 64 / width

/-- Element i of a wide group. -/
def Hart.groupElem (h : Hart) (width : Nat) (r : Reg) (i : Nat) : Nat :=
  elem width (h.readV (r + BitVec.ofNat 6 (i / h.groupElems width))) (i % h.groupElems width)

/-- A wide group with its active elements replaced. -/
def Hart.writeGroup (h : Hart) (width : Nat) (r : Reg) (f : Nat → Nat) : Hart :=
  let k := h.groupElems width
  (List.range (h.groupSize width)).foldl (fun t n =>
    let q := r + BitVec.ofNat 6 n
    t.writeV q (splice width (h.readV q) ((List.range (min k (h.tile - n * k))).map fun j =>
      if h.active (n * k + j) then f (n * k + j) else elem width (h.readV q) j))) h

/-- A name of a group of several registers is bound to a stream: the elements of a side wider than SEW fit no ESZ, and
the instruction is ILLEGAL (R173). -/
def Hart.groupBound (h : Hart) (width : Nat) (r : Reg) : Bool :=
  h.groupSize width != 1 && (h.groupNames width r).any fun q => (h.streamOf q).isSome

/-- The registers of a group, as a source or a destination. -/
def Hart.groupBank (h : Hart) (width : Nat) : Bank := if width = h.sew then .v else .vs (h.groupSize width)

/-- A conversion between two sides; none is a code that names no format. -/
def convertElems (dst src : Option Side) (d a : Reg) (fa : Bool) (s : State) : Host.Outcome State Fault Refusal :=
  let h := s.me
  let dst' := dst.getD (.int false 8)
  let src' := src.getD (.int false 8)
  let dw := dst'.width
  let sw := src'.width
  issue s
    { illegal := dst.isNone || src.isNone || h.sew != min dw sw || h.groupBound dw d || h.groupBound sw a
      regs := [⟨2, d, h.isGroup dw d⟩, ⟨0, a, h.isGroup sw a⟩]
      vown := true
      sources := [⟨0, h.groupBank sw, a, fa⟩]
      dests := [(h.groupBank dw, d)]
      reads := if sw = h.sew then [a] else []
      writes := if dw = h.sew then [d] else []
      lanes := true
      work := [(h.floatClass, s.tileCycles h.tile)] } fun s =>
    s.withTiles (if sw = s.me.sew then [a] else []) fun xs s =>
      let h := s.me
      let source (i : Nat) : Nat := if sw = h.sew then elem sw (tileOfName xs a) i else h.groupElem sw a i
      let result (i : Nat) : Nat := dst'.encode (s.rounding i) (src'.value (source i))
      if dw = h.sew then s.writeActive d result
      else .ok (s.modifyMe fun h => h.writeGroup dw d result)

def execVfcvt (d a : Reg) (fd fs : BitVec 3) (fa : Bool) (s : State) :=
  convertElems ((fmtOfCode fd).map .float) ((fmtOfCode fs).map .float) d a fa s
def execVcvtif (d a : Reg) (fd fs : BitVec 3) (fa : Bool) (s : State) :=
  convertElems ((fmtOfCode fd).map .float) (some (intSide fs)) d a fa s
def execVcvtfi (d a : Reg) (fd fs : BitVec 3) (fa : Bool) (s : State) :=
  convertElems (some (intSide fd)) ((fmtOfCode fs).map .float) d a fa s

/-! ### Pair-exponent blocks (R59-R61) -/

/-- The parameters of a block format: bits of an element, F, G and L. -/
structure Peb where
  bits : Nat
  top : Nat
  g : Int
  l : Int
  deriving DecidableEq, Repr

def peb8 : Peb := { bits := 8, top := 63, g := 5, l := 132 }
def peb4 : Peb := { bits := 4, top := 3, g := 1, l := 128 }

/-- Bytes of a block. -/
def Peb.size (p : Peb) : Nat := 2 + 4 * p.bits

/-- The value of element i of a block (R59, R60). -/
def Peb.value (p : Peb) (block i : Nat) : FVal :=
  let e0 := fieldOf block 0 8
  let e1 := fieldOf block 8 8
  if e0 = 255 ∨ e1 = 255 then .nan
  else
    let x := fieldOf block (16 + i * p.bits) p.bits
    let m := x % 2 ^ (p.bits - 2)
    .fin (bitAt x (p.bits - 2)) m ((if bitAt x (p.bits - 1) then (e1 : Int) else e0) - p.l)

/-- The magnitude of a value in units of 2^q, rounded; the direction of RUP and RDN is the signed value's (R61). -/
def magnitudeAt (rd : Rounding) (q : Int) : FVal → Nat
  | .fin neg m e => roundAt rd neg m e q
  | _ => 0

/-- ⌊log2 |v|⌋ of a nonzero finite value. -/
def leadOf : FVal → Option Int
  | .fin _ m e => if m = 0 then none else some (e + m.log2)
  | _ => none

/-- The largest of a list of integers. -/
def maxOf : List Int → Option Int
  | [] => none
  | x :: xs => match maxOf xs with
    | none => some x
    | some y => some (if y < x then x else y)

def FVal.isFin : FVal → Bool
  | .fin _ _ _ => true
  | _ => false

/-- A block of 32 values with the rounding of each (R61). -/
def Peb.encode (p : Peb) (vs : List (FVal × Rounding)) : Nat :=
  if vs.any fun v => !v.1.isFin then 0xFFFF
  else
    let element (v : FVal) (sel : Bool) (m : Nat) : Nat :=
      (if sel then 2 ^ (p.bits - 1) else 0) + (if v.isNeg then 2 ^ (p.bits - 2) else 0) + m
    match maxOf (vs.filterMap fun v => leadOf v.1) with
    | none => 2 ^ 16 * ofWords p.bits (vs.map fun v => element v.1 false 0)
    | some q =>
      let e1 : Int := min (max (q - p.g + p.l) 0) 254
      let at1 (e : Int) : List Nat := vs.map fun v => magnitudeAt v.2 (e - p.l) v.1
      let e1 := if (at1 e1).any (fun m => decide (p.top < m)) && decide (e1 < 254) then e1 + 1 else e1
      let e0 : Int := max (e1 - p.g - 1) 0
      e0.toNat + 2 ^ 8 * e1.toNat + 2 ^ 16 * ofWords p.bits ((vs.zip (at1 e1)).map fun (v, m1) =>
        let m0 := magnitudeAt v.2 (e0 - p.l) v.1
        if m0 ≤ p.top then element v.1 false m0 else element v.1 true (min m1 p.top))

/-! ### VQUANT and VDEQUANT (R224) -/

/-- The packed codes. -/
inductive Packed where
  | float (f : Fmt)
  | peb (p : Peb)
  deriving DecidableEq, Repr

def packedOf (c : Nat) : Packed :=
  match c % 4 with
  | 0 => .float .e4m3
  | 1 => .float .e5m2
  | 2 => .peb peb8
  | _ => .peb peb4

/-- The uses of VQUANT and VDEQUANT; `reads` and `writes` hold the float side alone.  A packed side that is bound to a
stream has elements that fit no ESZ (R173). -/
def State.quantUses (s : State) (d a b : Reg) (fa fb : Bool) (packedSide : Reg) (reads writes : List Reg) : Uses :=
  { illegal := s.me.sewCode == 0 || (s.me.streamOf packedSide).isSome
    regs := [⟨2, d, s.me.isVector d⟩, ⟨0, a, s.me.isVector a⟩, ⟨1, b, isBelow 31 b⟩]
    vown := true
    sources := [⟨0, .v, a, fa⟩, ⟨1, .xs 2, b, fb⟩]
    dests := [(.v, d)]
    reads, writes
    lanes := true
    work := [(s.me.floatClass, s.tileCycles s.me.tile)] }

/-- The scale and the packed code, with the ILLEGAL cases of R224. -/
def State.quantScale (s : State) (b : Reg) : Except Stop (FVal × Packed) :=
  let h := s.me
  let code := h.readX (b + 1)
  if code.toNat / 4 ≠ 0 then raise s causeIllegal code
  else
    let p := packedOf code.toNat
    if 2 ≤ code.toNat ∧ h.tile % 32 ≠ 0 then raise s causeIllegal (word h.tile)
    else .ok (Fmt.fp64.value (h.readX b).toNat, p)

def execVquant (d a b : Reg) (fa fb : Bool) (s : State) : Host.Outcome State Fault Refusal :=
  issue s (s.quantUses d a b fa fb d [a] []) fun s =>
    match s.quantScale b with
    | .error e => .error e
    | .ok (scale, p) =>
      let product (xs : List (Reg × Nat)) (h : Hart) (i : Nat) : FVal :=
        (h.fmt.value (elem h.sew (tileOfName xs a) i)).mul scale
      match p with
      | .float f =>
        s.withTiles [a] fun xs s =>
          let h := s.me
          let old := h.readV d
          .ok (s.modifyMe fun t => t.writeV d (splice 8 old ((List.range h.tile).map fun i =>
            if h.active i then roundF f (s.rounding i) (product xs h i) else elem 8 old i)))
      | .peb q =>
        s.withWhole everyElement [a] fun xs s =>
          let h := s.me
          .ok (s.modifyMe fun t => t.writeV d (splice (8 * q.size) (h.readV d) ((List.range (h.tile / 32)).map fun n =>
            q.encode ((List.range 32).map fun j => (product xs h (32 * n + j), s.rounding (32 * n + j))))))

def execVdequant (d a b : Reg) (fa fb : Bool) (s : State) : Host.Outcome State Fault Refusal :=
  issue s (s.quantUses d a b fa fb a [] [d]) fun s =>
    match s.quantScale b with
    | .error e => .error e
    | .ok (scale, p) =>
      let h := s.me
      let image := h.readV a
      let value (i : Nat) : FVal :=
        match p with
        | .float f => f.value (elem 8 image i)
        | .peb q => q.value (elem (8 * q.size) image (i / 32)) (i % 32)
      s.writeActive d fun i => roundF h.fmt (s.rounding i) ((value i).mul scale)

/-! ### Absmax rings (R70-R72, R225, R226) -/

/-- The larger of two values in magnitude order; NaN does not contribute. -/
def maxMagnitude (x y : FVal) : FVal :=
  if y.isNaN then x else if x.abs.compare y.abs == .lt then y.abs else x.abs

/-- The entry of R71 over the contributing values. -/
def ringEntry (vs : List FVal) : Nat := roundF .fp32 { mode := .rup } (vs.foldl maxMagnitude (.fin false 0 0))

/-- An entry written at the head of a ring, which advances (R71). -/
def Hart.recordMax (h : Hart) (ring : Reg) (vs : List FVal) : Hart :=
  let q := vget h.vec.rings ring.toNat {}
  let q' : Ring := { entries := vset q.entries q.head.toNat (BitVec.ofNat 32 (ringEntry vs)), head := q.head + 1 }
  { h with vec := { h.vec with rings := vset h.vec.rings ring.toNat q' } }

def execVamax (a b : Reg) (fa : Bool) (s : State) : Host.Outcome State Fault Refusal :=
  issue s
    { illegal := s.me.sewCode == 0
      regs := [⟨0, a, s.me.isVector a⟩, ⟨1, b, isBelow s.me.ringCount b⟩]
      vown := true
      sources := [⟨0, .v, a, fa⟩]
      reads := [a]
      lanes := true
      commits := true
      work := [(s.me.floatClass, s.tileCycles s.me.tile)] } fun s =>
    s.withWhole s.me.masked [a] fun xs s =>
      .ok (s.modifyMe fun h => h.recordMax b (((List.range h.tile).filter h.masked).map fun i =>
        h.fmt.value (elem h.sew (tileOfName xs a) i)))

/-- The largest finite value of an AMSCL target (R72). -/
def targetMax (code : Nat) : FVal :=
  match code with
  | 0 => .fin false 448 0
  | 1 => .fin false 57344 0
  | 2 => .fin false 65504 0
  | 3 => .fin false 255 120
  | 4 => .fin false 63 122
  | 5 => .fin false 3 126
  | _ => .fin false 127 0

/-- A value times 2^j. -/
def FVal.scaleBy (j : Int) : FVal → FVal
  | .fin n m e => .fin n m (e + j)
  | v => v

/-- The scale of R72 for a ring's maximum entry. -/
def ringScale (m : FVal) (code : Nat) : Word :=
  let power (j : Int) : Word := word ((j + 1023).toNat * 2 ^ 52)
  match m with
  | .fin _ 0 _ => power 0
  | _ =>
    power (127 - (((List.range 253).find? fun k => (m.scaleBy (127 - (k : Nat))).le (targetMax code)).getD 253 : Nat))

/-- The maximum entry of a ring by value.  A NaN entry, which only an image can hold, does not contribute (log 63). -/
def Ring.maximum (q : Ring) : FVal :=
  match (q.entries.toList.map fun e => Fmt.fp32.value e.toNat).filter fun v => !v.isNaN with
  | [] => .fin false 0 0
  | v :: vs => vs.foldl (fun m x => if m.compare x == .lt then x else m) v

def execAmscl (d a b : Reg) (s : State) : Host.Outcome State Fault Refusal :=
  issue s
    { illegal := decide (7 ≤ b.toNat)
      regs := [⟨2, d, isScalar d⟩, ⟨0, a, isBelow s.me.ringCount a⟩]
      vown := true
      dests := [(.x, d)]
      work := [(s.me.floatClass, s.tileCycles s.me.tile)] } fun s =>
    .ok (s.modifyMe fun h => h.writeX d (ringScale (vget h.vec.rings a.toNat {}).maximum b.toNat))

/-! ### Reductions (R227) -/

/-- A reduction: `op` combines two present elements at position i of a level.  A float sum has no identity, and is +0 where
nothing is present; elsewhere the identity is combined for what is missing, so that a lone NaN gives the canonical one. -/
def reduce (isFloat : Bool) (op : Hart → Rounding → Nat → Nat → Nat) (identity : Hart → Option Nat) (d a : Reg) (b : Src)
    (fa : Bool) (s : State) : Host.Outcome State Fault Refusal :=
  let n := (s.me.srcWord b).toNat
  issue s
    { s.elemUses .vint d a b fa false with
      illegal := isFloat && s.me.sewCode == 0
      work := [(if isFloat then s.me.floatClass else .vint, s.tileCycles n)] } fun s =>
    if s.me.vlmaxSew < n then raise s causeIllegal (word n)
    else
      s.withWhole s.me.masked [a] fun xs s =>
        let h := s.me
        let x := s.contentBits xs a (n * h.sew)
        let values := (List.range n).map fun i => if h.masked i then some (elem h.sew x i) else none
        let combine (i x y : Nat) : Nat := op h { s.rounding 0 with r := 0, e := i } x y
        let sum := fixedSum combine values
        (s.takeContent a).writeOne d 0 (match identity h with
          | none => sum.getD 0
          | some e => combine 0 (sum.getD e) e)

def signedExtreme (top : Bool) (h : Hart) : Nat := if top then 2 ^ (h.sew - 1) - 1 else 2 ^ (h.sew - 1)

def execVredsum (d a : Reg) (b : Src) (fa : Bool) (s : State) :=
  reduce false (fun h _ x y => (x + y) % 2 ^ h.sew) (fun _ => some 0) d a b fa s
def execVredfsum (d a : Reg) (b : Src) (fa : Bool) (s : State) :=
  reduce true (fun h rd x y => addBits h.fmt rd x y) (fun _ => none) d a b fa s
def execVredmax (d a : Reg) (b : Src) (fa : Bool) (s : State) :=
  reduce false (fun h _ x y => maxSigned h.sew x y) (fun h => some (signedExtreme false h)) d a b fa s
def execVredmin (d a : Reg) (b : Src) (fa : Bool) (s : State) :=
  reduce false (fun h _ x y => minSigned h.sew x y) (fun h => some (signedExtreme true h)) d a b fa s
def execVredfmax (d a : Reg) (b : Src) (fa : Bool) (s : State) :=
  reduce true (fun h _ x y => maxBits h.fmt x y) (fun h => some h.fmt.nan) d a b fa s
def execVredfmin (d a : Reg) (b : Src) (fa : Bool) (s : State) :=
  reduce true (fun h _ x y => minBits h.fmt x y) (fun h => some h.fmt.nan) d a b fa s
def execVredand (d a : Reg) (b : Src) (fa : Bool) (s : State) :=
  reduce false (fun _ _ x y => x &&& y) (fun h => some (2 ^ h.sew - 1)) d a b fa s
def execVredor (d a : Reg) (b : Src) (fa : Bool) (s : State) :=
  reduce false (fun _ _ x y => x ||| y) (fun _ => some 0) d a b fa s

end Sys2Proof.Machine
end

