-- ==== Sys2Proof/Machine/Matrix.lean ====
section
/-!
DEFINITION. The matrix unit: descriptors, MMA, accumulator slots and the accumulator instructions (R68, R69, R234-R252).
-/

namespace Sys2Proof.Machine

/-! ### Formats (R235) -/

/-- The accumulator kind of an MMA format. -/
def mmaKind (fmt : Nat) : ZKind :=
  match fmt with
  | 0 => .fp64
  | 9 => .int32
  | _ => .fp32

/-- The alignment of VA and STRIDE. -/
def mmaAlign (fmt : Nat) : Nat :=
  match fmt with
  | 0 => 8
  | 1 => 4
  | 2 => 2
  | 3 => 2
  | 7 => 2
  | 8 => 2
  | _ => 1

/-- The elements of a line, in increasing k. -/
def lineElems (fmt k x : Nat) : List FVal :=
  let blocks (p : Peb) : List FVal :=
    (List.range k).map fun i => p.value (fieldOf x (8 * p.size * (i / 32)) (8 * p.size)) (i % 32)
  match fmt with
  | 7 => blocks peb8
  | 8 => blocks peb4
  | 9 => (List.range k).map fun i => ofInt (signed 8 (fieldOf x (8 * i) 8))
  | _ => let f := mmaFmt fmt
    (List.range k).map fun i => f.value (fieldOf x (f.width * i) f.width)

/-- A generated value in an MMA format (R259). -/
def genRounded (fmt : Nat) (v : FVal) : FVal :=
  if fmt = 9 then ofInt (toInt 8 .nearest v)
  else let f := mmaFmt fmt
    f.value (roundF f .nearest v)

/-- The busy cycles of an MMA by class (R240, R379); a generated operand adds the generator's. -/
def mmaCycles (fmt kn : Nat) (generated : Bool) : ActClass × Nat :=
  let k := 32 * 2 ^ kn
  match fmt with
  | 0 => (if generated then .mhiGen else .mhi, 4 * k)
  | 1 => (if generated then .mhiGen else .mhi, k)
  | 2 => (if generated then .mloGen else .mlo, k / 4)
  | 3 => (if generated then .mloGen else .mlo, k / 4)
  | 8 => (if generated then .mloGen else .mlo, k / 16)
  | _ => (if generated then .mloGen else .mlo, k / 8)

/-! ### Slots (R242-R244) -/

/-- The slot bound to a handle of a hart. -/
def Core.slotOf (k : Core) (owner : BitVec 48) (z : Nat) : Option Slot :=
  k.slots.find? fun q => q.owner == owner && q.handle.toNat == z

/-- The numbers on a core's free list. -/
def Core.freeSlots (k : Core) : List Nat := (List.range 128).filter fun n => !k.slots.any fun q => q.number.toNat == n

/-- The slot bound to a handle of the hart that acts. -/
def State.slotOf (s : State) (z : Reg) : Option Slot := s.myCore.slotOf s.me.id z.toNat

/-- A bound slot of the hart that acts, or ZUNDEF. -/
def State.slot (s : State) (z : Reg) : Except Stop Slot :=
  match s.slotOf z with
  | some q => .ok q
  | none => raise s causeZundef (word z.toNat)

/-- A handle bound to a slot with every entry +0, or ZFULL. -/
def State.bindSlot (s : State) (z : Reg) (kind : ZKind) : Except Stop State :=
  match s.myCore.freeSlots with
  | [] => raise s causeZfull (word z.toNat)
  | n :: _ =>
    .ok (s.modifyCore s.cur.core fun k =>
      { k with slots := k.slots ++
          [{ number := BitVec.ofNat 7 n, owner := s.me.id, handle := BitVec.ofNat 4 z.toNat, kind, tile := 0 }] })

/-- A handle bound if it is not. -/
def State.bindIfNeeded (s : State) (z : Reg) (kind : ZKind) : Except Stop State :=
  match s.slotOf z with
  | some _ => .ok s
  | none => s.bindSlot z kind

/-- The slot of a handle of the hart that acts changed. -/
def State.modifySlot (s : State) (z : Reg) (f : Slot → Slot) : State :=
  s.modifyCore s.cur.core fun k =>
    { k with slots := k.slots.map fun q => if q.owner == s.me.id && q.handle.toNat == z.toNat then f q else q }

/-- Entry (i, j) of a tile. -/
def entry (tile i j : Nat) : Nat := fieldOf tile (64 * (32 * i + j)) 64

/-- The value of an entry. -/
def ZKind.value (k : ZKind) (x : Nat) : FVal :=
  match k with
  | .fp64 => Fmt.fp64.value x
  | .fp32 => Fmt.fp32.value (x % 2 ^ 32)
  | .int32 => ofInt (signed 32 x)

/-! ### Block steps (R68, R69) -/

/-- The exact sum of the products of a step: the sign of a zero sum is -0 only if every product is -0. -/
def exactDot (xs ys : List FVal) : FVal :=
  match List.zipWith FVal.mul xs ys with
  | [] => .fin false 0 0
  | p :: ps => ps.foldl (FVal.add false) p

/-- The integer value of an exact integer. -/
def FVal.toExact : FVal → Int
  | .fin neg m e => scaled neg m e 0
  | _ => 0

/-- One step: t := s at the first step of an overwriting MMA, acc + s otherwise, rounded once. -/
def blockStep (kind : ZKind) (acc : Option Nat) (s : FVal) : Nat :=
  match kind with
  | .int32 => wrap 32 ((acc.elim 0 fun x => signed 32 x) + s.toExact)
  | .fp32 => roundF .fp32 .nearest (acc.elim s fun x => (Fmt.fp32.value x).add false s)
  | .fp64 => roundF .fp64 .nearest (acc.elim s fun x => (Fmt.fp64.value x).add false s)

/-- The steps of one entry in increasing k: `n` of them. -/
def blockSteps (kind : ZKind) : Nat → Option Nat → List FVal → List FVal → Nat
  | 0, acc, _, _ => acc.getD 0
  | n + 1, acc, xs, ys =>
    blockSteps kind n (some (blockStep kind acc (exactDot (xs.take 32) (ys.take 32)))) (xs.drop 32) (ys.drop 32)

/-! ### MMA (R234, R236, R239, R240) -/

/-- Bytes that a load pipe reads, and where they lie, or the cause and the VA (R236). -/
def State.pipeRead (s : State) (va : Word) (n : Nat) : Except (BitVec 8 × Word) (Nat × List Place) :=
  match s.placeRuns .reader .load (runsOf va n) with
  | (_, some e) => .error e
  | (ps, none) =>
    match s.poisonedVa va ps with
    | some w => .error (causeFenced, w)
    | none => .ok (ps.foldl (fun x r => x + s.readPlace r.1 r.2.2 * 2 ^ (8 * r.2.1)) 0, ps.map (·.1))

/-- Line l of an operand: its elements and the places read (R234, R260). -/
def State.mmaLine (s : State) (w : MmaWork) (isB : Bool) (l : Nat) : Except (BitVec 8 × Word) (List FVal × List Place) :=
  let fmt := w.fmt.toNat
  match (if isB then w.b else w.a) with
  | .descriptor d =>
    match s.pipeRead (d.lineAt l) (lineBytes fmt w.depth) with
    | .error e => .error e
    | .ok (x, ps) => .ok (lineElems fmt w.depth x, ps)
  | .generator k table =>
    .ok ((List.range w.depth).map fun e => genRounded fmt (genAt s.me.link k table isB l e), [])

/-- Lines l to 31 of the B operand. -/
def State.mmaLines (s : State) (w : MmaWork) : Nat → Nat → Except (BitVec 8 × Word) (List (List FVal) × List Place)
  | 0, _ => .ok ([], [])
  | n + 1, l =>
    match s.mmaLine w true l with
    | .error e => .error e
    | .ok (x, ps) =>
      match s.mmaLines w n (l + 1) with
      | .error e => .error e
      | .ok (xs, qs) => .ok (x :: xs, ps ++ qs)

/-- The 32 entries of a row. -/
def rowEntries (w : MmaWork) (kind : ZKind) (tile i : Nat) (a : List FVal) (bs : List (List FVal)) : List Nat :=
  (bs.zip (List.range 32)).map fun (b, j) =>
    blockSteps kind (2 ^ w.kn.toNat) (if w.acc then some (entry tile i j) else none) a b

/-- A row written whole; the poison of its entries is cleared (R140). -/
def Slot.writeRow (q : Slot) (i : Nat) (xs : List Nat) : Slot :=
  { q with
    tile := setField q.tile (2048 * i) 2048 (ofWords 64 xs)
    poison := q.poison.filter fun n => n / 32 != i }

/-- How an MMA stops: the row, the cause and the VA. -/
structure RowStop where
  row : Nat
  cause : BitVec 8
  va : Word
  deriving DecidableEq, Repr

/-- Row i of the accumulator holds a poisoned entry. -/
def Slot.rowPoisoned (q : Slot) (i : Nat) : Bool := q.poison.any fun n => n / 32 == i

/-- Rows from i on, `n` of them, in increasing order; the state is that of the hart whose MMA it is. -/
def State.mmaRows (s : State) (w : MmaWork) (bs : Except (BitVec 8 × Word) (List (List FVal) × List Place)) :
    Nat → Nat → State × Option RowStop
  | 0, _ => (s, none)
  | n + 1, i =>
    let z : Reg := w.z.setWidth 6
    match s.mmaLine w false i, bs, s.slotOf z with
    | .error (c, va), _, _ => (s, some ⟨i, c, va⟩)
    | _, .error (c, va), _ => (s, some ⟨i, c, va⟩)
    | _, _, none => (s, none)
    | .ok (a, ps), .ok (bl, _), some q =>
      if w.acc && q.rowPoisoned i then (s, some ⟨i, causeFenced, 0⟩)
      else
        let xs := rowEntries w (mmaKind w.fmt.toNat) q.tile i a bl
        ((ps.foldl State.count s).modifySlot z fun q => q.writeRow i xs).mmaRows w bs n (i + 1)

/-- `n` rows of an MMA from a row on (R239); the pipes read the lines of B once for them. -/
def State.runMma (s : State) (w : MmaWork) (n first : Nat) : State × Option RowStop :=
  let bs := s.mmaLines w 32 0
  let s := match bs with
    | .ok (_, ps) => s.countAll ps
    | .error _ => s
  s.mmaRows w bs n first

/-- An operand field as its registers stand. -/
def Hart.mmaOperand (h : Hart) (r : Reg) : MmaOperand :=
  if r.toNat < 8 then .descriptor (vget h.md r.toNat {}) else .generator (h.gen r) (h.genTable r)

/-- The first value of a descriptor that is not aligned. -/
def MmaOperand.misaligned (fmt : Nat) : MmaOperand → Option Word
  | .descriptor d =>
    if d.va.toNat % mmaAlign fmt ≠ 0 then some d.va
    else if d.stride.toNat % mmaAlign fmt ≠ 0 then some d.stride else none
  | .generator _ _ => none

/-- The format X word of an MMA (R238), which TVAL of its ILLEGAL holds. -/
def mmaWord (z a b : Reg) (fmt : BitVec 4) (kn : BitVec 2) (acc : Bool) : BitVec 32 :=
  BitVec.ofNat 32 (0xC0000000 + z.toNat * 2 ^ 20 + a.toNat * 2 ^ 14 + b.toNat * 2 ^ 8 + fmt.toNat * 16 + kn.toNat * 4
    + (if acc then 2 else 0))

/-- The checks that MMA makes at issue, and the binding of its handle (R239, R262): the work in hand. -/
def State.prepareMma (s : State) (z a b : Reg) (fmt : BitVec 4) (kn : BitVec 2) (acc : Bool) :
    Except Stop (MmaWork × State) :=
  let f := fmt.toNat
  let w : MmaWork :=
    { word := mmaWord z a b fmt kn acc, z := z.setWidth 4, fmt, kn, acc, a := s.me.mmaOperand a, b := s.me.mmaOperand b }
  let undefined := acc && (s.slotOf z).isNone
  let otherKind := acc && (s.slotOf z).any fun q => q.kind != mmaKind f
  if undefined then raise s causeZundef (word z.toNat)
  else if otherKind then raise s causeIllegal (w.word.setWidth 64)
  else
    match (w.a.misaligned f).orElse fun _ => w.b.misaligned f with
    | some v => raise s causeAlign v
    | none =>
      match [a, b].find? fun r => isGen r && (f == 7 || f == 8) with
      | some r => raise s causeGencfg (genReason r 5)
      | none =>
        match s.bindIfNeeded z (mmaKind f) with
        | .error e => .error e
        | .ok s => .ok (w, s.modifySlot z fun q => { q with kind := mmaKind f })

/-- An instruction on handles takes its place after every follow-on of its hart (R154, R241). -/
def State.afterFollowOns (s : State) (body : State → Except Stop State) : Except Stop State :=
  if s.me.followPending then .error (.wait .followOns s) else body s

/-- A copy command of the hart whose range a line of an operand overlaps (R150). -/
def State.operandHeld (s : State) (w : MmaWork) : Option CopyCmd :=
  if s.me.cmds.isEmpty then none else (s.operandPlaces w).findSome? fun r => s.me.copyHolding r.1 r.2

/-- The MMA that resumes at ROWPROG with the operands it read at issue: the word is its own, and RTE has come from its
PFAULT record (R239, R240). -/
def Hart.restartMma (h : Hart) (w : BitVec 32) : Option MmaWork :=
  if h.rowDone = 0 then none else h.mma.filter (·.word == w)

/-- The rows of an MMA from a row on, once no copy command of the hart holds its operands; ROWPROG is 0 when it
completes.  Other agents may act between two rows, whose reads are translated when the row makes them (R240). -/
def State.finishMma (s : State) (w : MmaWork) (first : Nat) : Except Stop State :=
  match s.operandHeld w with
  | some q => .error (.wait (.copyRange q.ticket) s)
  | none =>
    let pause := s.me.pauseAt first 32
    match s.runMma w (pause.getD 32 - first) first with
    | (s, none) =>
      match pause with
      | none => .ok (s.modifyMe fun h => { h with mma := none, trap := { h.trap with row := 0 } })
      | some r => .error (.wait .strip (s.modifyMe fun h => { h with mma := some w, rowDone := r, pace := none }))
    | (s, some r) =>
      .error (.trap { cause := r.cause, val := r.va, row := BitVec.ofNat 5 r.row }
        (s.modifyMe fun h => { h with mma := some w }))

/-- MMA (R238-R240). -/
def execMma (z a b : Reg) (fmt : BitVec 4) (kn : BitVec 2) (acc : Bool) (s : State) : Host.Outcome State Fault Refusal :=
  issue s
    { regs := [⟨3, z, isHandle z⟩, ⟨3, a, isHandle a⟩, ⟨3, b, isHandle b⟩]
      commits := true
      work := [mmaCycles fmt.toNat kn.toNat (isGen a || isGen b)] } fun s =>
    s.afterFollowOns fun s =>
      match s.me.restartMma (mmaWord z a b fmt kn acc) with
      | some w => s.finishMma w s.me.rowDone
      | none =>
        match s.prepareMma z a b fmt kn acc with
        | .error e => .error e
        | .ok (w, s) => s.finishMma w 0

/-! ### Descriptors (R237) -/

def isDescriptor (r : Reg) : Bool := isBelow 8 r

def execMdset (d a : Reg) (b : Src) (fa : Bool) (s : State) : Host.Outcome State Fault Refusal :=
  issue s
    { len := srcBytes b
      regs := [⟨2, d, isDescriptor d⟩, ⟨0, a, isAddress a⟩] ++ srcField isScalar b
      sources := ⟨0, .x, a, fa⟩ :: srcSource .x b
      commits := true } fun s =>
    .ok (s.modifyMe fun h => { h with md := vset h.md d.toNat { va := h.readX a, stride := h.srcWord b } })

def execMdadv (d : Reg) (b : Src) (s : State) : Host.Outcome State Fault Refusal :=
  issue s
    { len := srcBytes b
      regs := [⟨2, d, isDescriptor d⟩] ++ srcField isScalar b
      sources := srcSource .x b
      commits := true } fun s =>
    .ok (s.modifyMe fun h =>
      let m := vget h.md d.toNat {}
      { h with md := vset h.md d.toNat { m with va := m.va + h.srcWord b } })

/-! ### Accumulator instructions (R245-R251) -/

/-- An accumulator instruction that reads a poisoned entry is fenced (R140): the entries that it reads, by 32i + j. -/
def requireClean (s : State) (q : Slot) (reads : Nat → Bool) : Except Stop Unit :=
  require (!q.poison.any reads) s causeFenced 0

/-- Every entry of a tile. -/
def everyEntry : Nat → Bool := fun _ => true

/-- ZSCACC (R246). -/
def execZscacc (d a b : Reg) (fb : Bool) (s : State) : Host.Outcome State Fault Refusal :=
  issue s
    { regs := [⟨2, d, isHandle d⟩, ⟨0, a, isHandle a⟩, ⟨1, b, s.me.isVector b⟩]
      vown := true
      sources := [⟨1, .v, b, fb⟩]
      reads := [b]
      commits := true
      work := [(.zsc, 8)] } fun s =>
    s.afterFollowOns fun s => do
      let q ← s.slot d
      let p ← s.slot a
      require (q.kind == .fp32 && p.kind != .fp64) s causeIllegal s.wordVal
      requireClean s q everyEntry
      requireClean s p everyEntry
      s.withWhole everyEntry [b] fun xs s =>
        let x := s.contentBits xs b 2048
        let scale (n : Nat) : FVal := Fmt.fp32.value (fieldOf x (32 * n) 32)
        let update (n : Nat) : Nat :=
          let i := n / 32
          let j := n % 32
          let prod := ((scale i).mul (p.kind.value (entry p.tile i j))).mul (scale (32 + j))
          roundF .fp32 .nearest ((Fmt.fp32.value (entry q.tile i j)).add false prod)
        .ok ((s.takeContent b).modifySlot d fun t => { t with tile := ofWords 64 ((List.range 1024).map update) })

/-- The kind of a kind code (R245, R252). -/
def kindOf (c : Nat) : ZKind :=
  match c with
  | 0 => .fp64
  | 1 => .fp32
  | _ => .int32

def ZKind.code : ZKind → Nat
  | .fp64 => 0
  | .fp32 => 1
  | .int32 => 2

/-- ZZERO (R247). -/
def execZzero (d a : Reg) (s : State) : Host.Outcome State Fault Refusal :=
  issue s { illegal := decide (3 ≤ a.toNat), regs := [⟨2, d, isHandle d⟩], commits := true } fun s =>
    s.afterFollowOns fun s =>
      match s.bindIfNeeded d (kindOf a.toNat) with
      | .error e => .error e
      | .ok s => .ok (s.modifySlot d fun q => { q with kind := kindOf a.toNat, tile := 0, poison := [] })

/-- The slot of a handle of the hart that acts returns to the free list. -/
def State.releaseSlot (s : State) (z : Nat) : State :=
  s.modifyCore s.cur.core fun k =>
    { k with slots := k.slots.filter fun q => !(q.owner == s.me.id && q.handle.toNat == z) }

/-- ZREL (R247). -/
def execZrel (d : Reg) (s : State) : Host.Outcome State Fault Refusal :=
  issue s { regs := [⟨2, d, isHandle d⟩], commits := true } fun s =>
    s.afterFollowOns fun s => .ok (s.releaseSlot d.toNat)

/-- The start row and column of a position operand, within the tile's bounds (R245, R248). -/
def State.position (s : State) (b : Src) : Except Stop (Nat × Nat) :=
  let p := s.me.srcWord b
  let rb := fieldOf p.toNat 0 5
  let cb := fieldOf p.toNat 8 5
  if p &&& ~~~(0x1F1F : Word) ≠ 0 ∨ 32 < rb + s.me.vrows.toNat ∨ 32 < cb + s.me.vl.toNat then raise s causeIllegal p
  else .ok (rb, cb)

/-- An entry as an element of the hart's format, rounded or saturated (R248). -/
def State.extractEntry (s : State) (kind : ZKind) (x i : Nat) : Nat :=
  match kind with
  | .int32 => wrap s.me.sew (saturate s.me.sew (signed 32 x))
  | k => roundF s.me.fmt (s.rounding i) (k.value x)

/-- ZEXT (R248): a long-latency result; inactive elements are written with zero. -/
def execZext (d a : Reg) (b : Src) (s : State) : Host.Outcome State Fault Refusal :=
  issue s
    { len := srcBytes b
      regs := [⟨2, d, s.me.isVector d⟩, ⟨0, a, isHandle a⟩] ++ srcField isScalar b
      vown := true
      sources := srcSource .x b
      dests := [(.v, d)]
      writes := [d]
      lanes := true
      commits := true
      work := [(.vint, s.tileCycles s.me.tile)] } fun s =>
    s.afterFollowOns fun s => do
      let (rb, cb) ← s.position b
      let q ← s.slot a
      require (q.kind == .int32 || s.me.sewCode != 0) s causeIllegal s.wordVal
      let h := s.me
      let at_ (i : Nat) : Nat := 32 * (rb + i / h.vl.toNat) + cb + i % h.vl.toNat
      let active := (List.range h.tile).filter h.masked
      requireClean s q fun n => active.any fun i => at_ i == n
      let value (i : Nat) : Nat := s.extractEntry q.kind (fieldOf q.tile (64 * at_ i) 64) i
      match h.streamOf d with
      | none =>
        .ok (s.modifyMe fun h => h.produceV d (h.tileOf (h.readV d) fun i => some (if h.masked i then value i else 0)))
      | some st => s.push st fun i => some (value i)

/-- An element as an entry of a kind (R249). -/
def Hart.insertEntry (h : Hart) (kind : ZKind) (x : Nat) : Nat :=
  match kind with
  | .int32 => wrap 32 (signed h.sew x)
  | .fp32 => roundF .fp32 .nearest (h.fmt.value x)
  | .fp64 => roundF .fp64 .nearest (h.fmt.value x)

/-- ZINS (R249). -/
def execZins (d a : Reg) (b : Src) (fa : Bool) (s : State) : Host.Outcome State Fault Refusal :=
  issue s
    { len := srcBytes b
      regs := [⟨2, d, isHandle d⟩, ⟨0, a, s.me.isVector a⟩] ++ srcField isScalar b
      vown := true
      sources := ⟨0, .v, a, fa⟩ :: srcSource .x b
      reads := [a]
      lanes := true
      commits := true
      work := [(.vint, s.tileCycles s.me.tile)] } fun s =>
    s.afterFollowOns fun s => do
      let (rb, cb) ← s.position b
      let q ← s.slot d
      require (q.kind == .int32 || s.me.sewCode != 0) s causeIllegal s.wordVal
      s.withTiles [a] fun xs s =>
        let h := s.me
        let x := tileOfName xs a
        let at_ (i : Nat) : Nat := 32 * (rb + i / h.vl.toNat) + cb + i % h.vl.toNat
        let active := (List.range h.tile).filter h.active
        .ok (s.modifySlot d fun t =>
          { t with
            tile := active.foldl (fun y i => setField y (64 * at_ i) 64 (h.insertEntry q.kind (elem h.sew x i))) t.tile
            poison := t.poison.filter fun n => !active.any fun i => at_ i == n })

/-- ZAMAX (R250). -/
def execZamax (a b : Reg) (s : State) : Host.Outcome State Fault Refusal :=
  issue s
    { regs := [⟨0, a, isHandle a⟩, ⟨1, b, isBelow s.me.ringCount b⟩]
      vown := true
      lanes := true
      commits := true
      work := [(.vint, s.tileCycles s.me.tile)] } fun s =>
    s.afterFollowOns fun s => do
      let q ← s.slot a
      requireClean s q everyEntry
      .ok (s.modifyMe fun h => h.recordMax b ((List.range 1024).map fun n => q.kind.value (entry q.tile (n / 32) (n % 32))))

/-- ZSTAT (R251). -/
def execZstat (d a : Reg) (s : State) : Host.Outcome State Fault Refusal :=
  issue s { regs := [⟨2, d, isScalar d⟩, ⟨0, a, isHandle a⟩], dests := [(.x, d)], commits := true } fun s =>
    s.afterFollowOns fun s =>
      let free := s.myCore.freeSlots.length
      let bound := (s.slotOf a).elim 0 fun q => 2 ^ 63 + q.kind.code * 2 ^ 56 + q.number.toNat * 2 ^ 48
      .ok (s.modifyMe fun h => h.writeX d (word (bound + free)))

/-! ### Exact images (R252) -/

/-- Bytes of a tile image. -/
def tileImageBytes : Nat := 8256

/-- Bits of an entry of a kind. -/
def ZKind.bits : ZKind → Nat
  | .fp64 => 64
  | _ => 32

/-- The image of a slot: the kind in word 0, and the entries from byte 64 on, each in the bits of its kind. -/
def Slot.image (q : Slot) : Nat :=
  q.kind.code + 2 ^ 512 * (if q.kind = .fp64 then q.tile
    else ofWords 64 ((wordsOf 64 1024 q.tile).map (· % 2 ^ q.kind.bits)))

/-- The first word of an image that breaks the layout. -/
def badTileWord (x : Nat) : Option Word :=
  let w (n : Nat) : Nat := fieldOf x (64 * n) 64
  ((List.range 1032).find? fun n =>
    if n = 0 then decide (2 < w 0) else if n < 8 then w n != 0 else w 0 != 0 && decide (2 ^ 32 ≤ w n)).map fun n => word (w n)

/-- A slot with the contents of an image. -/
def Slot.ofImage (q : Slot) (x : Nat) : Slot :=
  { q with kind := kindOf (x % 4), tile := x / 2 ^ 512, poison := [] }

/-- What ZSAVE and ZLOAD ask of the hart. -/
def tileImageUses (d a : Reg) (fa : Bool) : Uses :=
  { regs := [⟨2, d, isHandle d⟩, ⟨0, a, isAddress a⟩]
    sources := [⟨0, .x, a, fa⟩]
    commits := true
    work := [(.vmem, 17)] }

/-- A tile image of the hart written at an address; nothing is written where a page cannot be. -/
def State.saveTile (s : State) (q : Slot) (va : Word) : Except Stop State :=
  match s.placeRuns .writer .store (runsOf va tileImageBytes) with
  | (_, some (c, w)) => raise s c w
  | (ps, none) => .ok (s.writeRuns ps q.image)

def execZsave (d a : Reg) (fa : Bool) (s : State) : Host.Outcome State Fault Refusal :=
  issue s { tileImageUses d a fa with orders := true } fun s =>
    s.afterFollowOns fun s => do
      let va := s.me.readX a
      require (isAligned 64 va) s causeAlign va
      let q ← s.slot d
      requireClean s q everyEntry
      s.afterCopies .writer .store va tileImageBytes fun s => s.saveTile q va

def execZload (d a : Reg) (fa : Bool) (s : State) : Host.Outcome State Fault Refusal :=
  issue s (tileImageUses d a fa) fun s =>
    s.afterFollowOns fun s => do
      let va := s.me.readX a
      require (isAligned 64 va) s causeAlign va
      s.afterCopies .reader .load va tileImageBytes fun s => do
        let x ← s.readImage .reader va tileImageBytes
        let s := s.countImage .reader va tileImageBytes
        match badTileWord x with
        | some w => raise s causeIllegal w
        | none =>
          match s.bindIfNeeded d (kindOf (x % 4)) with
          | .error e => .error e
          | .ok s => .ok (s.modifySlot d fun q => q.ofImage x)

end Sys2Proof.Machine
end

