-- ==== Sys2Proof/Machine/VectorMemory.lean ====
section
/-!
DEFINITION. Vector loads and stores, gathers and scatters, linked stores, scatter-add and CAPPEND (R162-R170), STRIPC
(R179), and the passes of the route planner (R141, R142).
-/

namespace Sys2Proof.Machine

/-! ### Element addresses (R164, R166) -/

/-- The row of a linear index. -/
def Hart.row (h : Hart) (i : Nat) : Nat := if h.vl = 0 then 0 else i / h.vl.toNat

/-- The position of a linear index in its row. -/
def Hart.col (h : Hart) (i : Nat) : Nat := if h.vl = 0 then 0 else i % h.vl.toNat

/-- base + r·vst + e·esize. -/
def Hart.rowAddress (h : Hart) (base : Word) (i : Nat) : Word :=
  base + word (h.row i) * h.vst + word (h.col i * h.esize)

/-- base + e·vst + r·esize. -/
def Hart.colAddress (h : Hart) (base : Word) (i : Nat) : Word :=
  base + word (h.col i) * h.vst + word (h.row i * h.esize)

/-- A + sext(index) × esize. -/
def Hart.indexAddress (h : Hart) (base : Word) (indices : Nat) (i : Nat) : Word :=
  base + word (wrap 64 (signed h.sew (elem h.sew indices i) * h.esize))

/-! ### Loads -/

/-- Why an element stops. -/
inductive Halt where
  | trap (cause : BitVec 8) (val : Word)
  | wait (w : Wait)
  | lost
  deriving DecidableEq, Repr

/-- The place of an element for one kind of access: alignment first, then translation (R162). -/
def State.elemPlace (s : State) (g : Agent) (k : Access) (n : Nat) (va : Word) : Except Halt Place :=
  if !isAligned n va then .error (.trap causeAlign va)
  else
    match s.locate g k va with
    | .error c => .error (.trap c va)
    | .ok p => .ok p

/-- One element read (R162, R163, R285): its place and its value as the hart sees it. -/
def State.loadElem (s view : State) (n : Nat) (va : Word) : Except Halt (Place × Nat) :=
  match s.elemPlace .reader .load n va with
  | .error e => .error e
  | .ok p =>
    match s.watermarkStall va with
    | .error (c, w) => .error (.trap c w)
    | .ok (some (w, k)) => .error (.wait (.watermark w k))
    | .ok none => if s.meetsPoison p n then .error .lost else .ok (p, view.readPlace p n)

/-- The elements of a tile as far as they load: n elements from index i on, with their places, and where it stops. -/
def State.loadFrom (s view : State) (addr : Nat → Word) :
    Nat → Nat → List (Option (Place × Nat)) × Option (Nat × Halt)
  | 0, _ => ([], none)
  | n + 1, i =>
    if s.me.active i then
      match s.loadElem view s.me.esize (addr i) with
      | .error e => ([], some (i, e))
      | .ok x =>
        let (xs, r) := s.loadFrom view addr n (i + 1)
        (some x :: xs, r)
    else
      let (xs, r) := s.loadFrom view addr n (i + 1)
      (none :: xs, r)

/-- The value of element i among those loaded from index `lo` on. -/
def loadedAt (lo : Nat) (xs : List (Option (Place × Nat))) (i : Nat) : Option Nat :=
  if i < lo then none else ((xs[i - lo]?).join).map (·.2)

/-- The places of the elements loaded. -/
def loadedPlaces (xs : List (Option (Place × Nat))) : List Place := (xs.filterMap id).map (·.1)

/-- The elements that a vector load has loaded from index `lo` on are counted, with the watermark words read for them
(R128). -/
def State.countLoaded (s : State) (addr : Nat → Word) (lo : Nat) (xs : List (Option (Place × Nat))) : State :=
  (s.countAll (loadedPlaces xs)).countAll
    ((xs.zipIdx.filter fun e => e.1.isSome).flatMap fun e => s.guardPlaces (addr (lo + e.2)))

/-- The VMEM cycles beyond the tile's own are queued (R379). -/
def State.chargePasses (s : State) (ps : List Place) : State :=
  if extraPasses ps = 0 then s else s.chargeLanes [(.vmem, extraPasses ps)]

/-- The reads that a vector load leaves to perform (R304), for the elements loaded from index `lo` on. -/
def Hart.pendingTile (h : Hart) (lo : Nat) (xs : List (Option (Place × Nat))) : List PendingRead :=
  xs.zipIdx.filterMap fun e => e.1.map fun p =>
    { place := p.1, bytes := h.esize, upTo := h.strip.length, lo := (lo + e.2) * h.sew, width := h.sew, sext := false }

/-- The destination of a vector load: empty until the reads have performed and the tile arrives, or a push of the tile
(R163, R173). -/
def State.landTile (s : State) (d : Reg) (lo : Nat) (xs : List (Option (Place × Nat))) : Except Stop State :=
  match s.me.streamOf d with
  | none => .ok (s.modifyMe fun h => h.await { vector := true, reg := d, value := h.readV d, reads := h.pendingTile lo xs })
  | some i => (s.performBefore (s.me.pendingTile lo xs)).push i (loadedAt lo xs)

/-- The elements loaded from index `lo` on take effect at once where the instruction stops at `hi` (R162). -/
def State.landBelow (s : State) (d : Reg) (lo hi : Nat) (xs : List (Option (Place × Nat))) : Except Stop State :=
  let s := s.performBefore (s.me.pendingTile lo xs)
  let f := loadedAt lo xs
  match s.me.streamOf d with
  | none => .ok (s.modifyMe fun h => h.writeV d (h.tileOf (h.readV d) f))
  | some i => s.pushUpTo i hi f

/-- The instruction ends at element i. -/
def haltAt (i : Nat) (h : Halt) (s : State) : Stop :=
  match h with
  | .trap c v => .trap { cause := c, val := v, elt := word i } s
  | .wait w => .wait w (s.modifyMe fun h => { h with eltDone := i })
  | .lost => .lost s

/-- The addresses of the active elements that are still to be accessed. -/
def State.pendingAddresses (s : State) (addr : Nat → Word) : List Word :=
  (((List.range s.me.tile).drop s.me.eltDone).filter s.me.active).map addr

/-- A vector load from the addresses given (R162, R163); `note` keeps what the instruction records of the elements
loaded. -/
def State.loadTile (s : State) (d : Reg) (addr : Nat → Word)
    (note : List (Option (Place × Nat)) → State → State := fun _ s => s) : Except Stop State :=
  if s.copyBlocks .reader .load (s.pendingAddresses addr) s.me.esize then .error (.stall s.stall)
  else
  let lo := s.me.eltDone
  let (xs, r) := s.loadFrom s.viewed addr (s.me.tile - lo) lo
  let s := note xs ((s.countLoaded addr lo xs).chargePasses (loadedPlaces xs))
  match r with
  | some (_, .lost) => .error (.lost s)
  | some (i, e) =>
    match s.landBelow d lo i xs with
    | .error e => .error e
    | .ok s => .error (haltAt i e s)
  | none => s.landTile d lo xs

/-- What a vector memory instruction asks of the hart: D in vector use, A an address. -/
def State.vmemUses (s : State) (d a : Reg) (fa : Bool) : Uses :=
  { regs := [⟨2, d, s.me.isVector d⟩, ⟨0, a, isAddress a⟩]
    vown := true
    sources := [⟨0, .x, a, fa⟩]
    lanes := true
    work := [(.vmem, s.tileCycles s.me.tile)] }

/-- VLD and VLDS (R164). -/
def vectorLoad (addr : Hart → Word → Nat → Word) (d a : Reg) (off : BitVec 8) (fa : Bool) (s : State) :
    Host.Outcome State Fault Refusal :=
  issue s { s.vmemUses d a fa with dests := [(.v, d)], writes := [d] } fun s =>
    s.loadTile d (addr s.me (memAddress (s.me.readX a) off 64))

def execVld (d a : Reg) (off : BitVec 8) (fa : Bool) (s : State) := vectorLoad Hart.rowAddress d a off fa s
def execVlds (d a : Reg) (off : BitVec 8) (fa : Bool) (s : State) := vectorLoad Hart.colAddress d a off fa s

/-- The lowest active linear index, or the tile's size (R165). -/
def Hart.firstActive (h : Hart) : Nat := firstSet h.tile (h.readM 0)

/-- A fault at which VLDFF stops without trapping, past its first active element (R165). -/
def stopsFirstFault (c : BitVec 8) : Bool := c == causePfault || c == causeAccess || c == causePromtype

/-- m0 with the bits from i to the end of the tile cleared. -/
def Hart.clearFrom (h : Hart) (i : Nat) : Hart :=
  h.writeM 0 (h.maskOf (h.readM 0) fun j => if i ≤ j then some false else none)

/-- VLDFF (R165). -/
def execVldff (d a : Reg) (off : BitVec 8) (fa : Bool) (s : State) : Host.Outcome State Fault Refusal :=
  issue s { s.vmemUses d a fa with dests := [(.v, d)], writes := [d] } fun s =>
    let lo := s.me.eltDone
    let addr := s.me.rowAddress (memAddress (s.me.readX a) off 64)
    if s.copyBlocks .reader .load (s.pendingAddresses addr) s.me.esize then .error (.stall s.stall)
    else
    let (xs, r) := s.loadFrom s.viewed addr (s.me.tile - lo) lo
    match r with
    | some (i, .trap c v) =>
      if s.me.firstActive < i && stopsFirstFault c then
        match ((s.countLoaded addr lo xs).chargePasses (loadedPlaces xs)).landTile d lo xs with
        | .error e => .error e
        | .ok s => .ok (s.modifyMe (·.clearFrom i))
      else
        match (s.countLoaded addr lo xs).landBelow d lo i xs with
        | .error e => .error e
        | .ok s => .error (haltAt i (.trap c v) s)
    | _ => s.loadTile d addr

/-! ### Stores -/

/-- The active elements of a tile placed for a store, from index i on: n elements. -/
def State.storeFrom (s : State) (g : Agent) (k : Access) (addr : Nat → Word) (f : Nat → Nat) :
    Nat → Nat → List (Place × Nat × Nat) × Option (Nat × Halt)
  | 0, _ => ([], none)
  | n + 1, i =>
    if s.me.active i then
      match s.elemPlace g k s.me.esize (addr i) with
      | .error e => ([], some (i, e))
      | .ok p =>
        let (xs, r) := s.storeFrom g k addr f n (i + 1)
        ((p, s.me.esize, f i) :: xs, r)
    else s.storeFrom g k addr f n (i + 1)

/-- Elements join the open strip. -/
def State.placeStores (s : State) (es : List (Place × Nat × Nat)) : State :=
  (s.countAll (es.map (·.1))).modifyMe fun h => { h with strip := h.strip ++ [.stores es] }

/-- A vector store placed in the open strip (R162, R164). -/
def State.storeTile (s : State) (addr : Nat → Word) (f : Nat → Nat) : Except Stop State :=
  if s.copyBlocks .writer .store (s.pendingAddresses addr) s.me.esize then .error (.stall s.stall)
  else
  let lo := s.me.eltDone
  let (es, r) := s.storeFrom .writer .store addr f (s.me.tile - lo) lo
  let s := (s.placeStores es).chargePasses (es.map (·.1))
  match r with
  | some (i, e) => .error (haltAt i e s)
  | none => .ok s

/-- STRIPOVF at the 17th vector store of a strip (R178). -/
def State.checkPlace (s : State) : Except Stop Unit := require (s.me.stripCount.toNat < 16) s causeStripovf s.wordVal

/-- The store is counted in the strip in which it completes. -/
def State.countStore (s : State) : State := s.modifyMe fun h => { h with stripCount := h.stripCount + 1 }

/-- A vector store over tiles, within the strip's limit. -/
def State.storeWith (s : State) (rs : List Reg) (body : List (Reg × Nat) → State → Except Stop State) :
    Except Stop State :=
  match s.checkPlace with
  | .error e => .error e
  | .ok _ =>
    match s.withTiles rs body with
    | .error e => .error e
    | .ok s => .ok s.countStore

/-- A vector store of register D (R164). -/
def vectorStore (addr : Hart → Word → Nat → Word) (d a : Reg) (off : BitVec 8) (fa fd : Bool) (s : State) :
    Host.Outcome State Fault Refusal :=
  issue s
    { s.vmemUses d a fa with
      sources := [⟨0, .x, a, fa⟩, ⟨2, .v, d, fd⟩]
      reads := [d] } fun s =>
    s.storeWith [d] fun xs s =>
      s.storeTile (addr s.me (memAddress (s.me.readX a) off 64)) (elem s.me.sew (tileOfName xs d))

def execVst (d a : Reg) (off : BitVec 8) (fa fb : Bool) (s : State) := vectorStore Hart.rowAddress d a off fa fb s
def execVsts (d a : Reg) (off : BitVec 8) (fa fb : Bool) (s : State) := vectorStore Hart.colAddress d a off fa fb s

/-! ### Gathers and scatters (R166-R168) -/

/-- What an indexed access asks of the hart: D, A an address, B the indices. -/
def State.indexedUses (s : State) (d a b : Reg) (fa fb : Bool) : Uses :=
  { regs := [⟨2, d, s.me.isVector d⟩, ⟨0, a, isAddress a⟩, ⟨1, b, s.me.isVector b⟩]
    vown := true
    sources := [⟨0, .x, a, fa⟩, ⟨1, .v, b, fb⟩]
    lanes := true
    work := [(.vmem, s.tileCycles s.me.tile)] }

/-- VLDX (R166). -/
def execVldx (d a b : Reg) (fa fb : Bool) (s : State) : Host.Outcome State Fault Refusal :=
  issue s { s.indexedUses d a b fa fb with dests := [(.v, d)], reads := [b], writes := [d] } fun s =>
    s.withTiles [b] fun xs s => s.loadTile d (s.me.indexAddress (s.me.readX a) (tileOfName xs b))

/-- VSTX (R166). -/
def execVstx (d a b : Reg) (fa fb : Bool) (s : State) : Host.Outcome State Fault Refusal :=
  issue s
    { s.indexedUses d a b fa fb with
      sources := [⟨0, .x, a, fa⟩, ⟨1, .v, b, fb⟩, ⟨2, .v, d, false⟩]
      reads := [b, d] } fun s =>
    s.storeWith [b, d] fun xs s =>
      s.storeTile (s.me.indexAddress (s.me.readX a) (tileOfName xs b)) (elem s.me.sew (tileOfName xs d))

/-! Linked loads and stores -/

/-- The count of a line among those kept, 0 for a line that is not. -/
def lineCount (gens : List (Nat × Nat)) (line : Nat) : Nat := ((gens.find? (·.1 == line)).map (·.2)).getD 0

/-- The generation of the line of a place; a line of a buffer has no home slice, and its core keeps the count (log 53). -/
def State.generationOf (s : State) : Place → Nat
  | .main pa => lineCount s.dev.gens (lineOf pa)
  | .buffer c .x a => lineCount (s.core c).gensX (lineOf a)
  | _ => 0

/-- The links of a hart to a line become inactive: its generation has advanced past every one recorded. -/
def Hart.dropLinks (line : Nat) (h : Hart) : Hart :=
  { h with links := h.links.map fun l => match l.place with
      | .main pa => if lineOf pa = line then { l with active := false } else l
      | _ => l }

/-- The slice that a frame lives in. -/
def Device.homeOf (d : Device) (pa : Nat) : SliceId := (d.frameInfo (frameOf pa)).home

/-- The linked lines of a slice, the one linked longest ago first. -/
def Device.linkedAt (d : Device) (sl : SliceId) : List (Nat × Nat) := d.gens.filter fun e => d.homeOf (e.1 * 64) == sl

/-- The line of a slice that was linked longest ago is evicted (R167). -/
def State.evictLine (s : State) (sl : SliceId) : State :=
  match s.dev.linkedAt sl with
  | [] => s
  | (line, _) :: _ =>
    let s := s.modifyDev fun d => { d with gens := d.gens.filter (·.1 != line) }
    { s with cores := s.cores.map fun k =>
        { k with
          ctxs := k.ctxs.map fun x => { x with hart := x.hart.dropLinks line }
          fw := k.fw.dropLinks line } }

/-- A slice tracks at most 65,536 linked lines. -/
def trackedLines : Nat := 65536

/-- A line is linked: it becomes the one linked last, and keeps its generation if it is tracked. -/
def State.linkLine (s : State) (pa : Nat) : State :=
  let line := lineOf pa
  match s.dev.gens.find? (·.1 == line) with
  | some e => s.modifyDev fun d => { d with gens := d.gens.filter (·.1 != line) ++ [e] }
  | none =>
    let sl := s.dev.homeOf pa
    (if trackedLines ≤ (s.dev.linkedAt sl).length then s.evictLine sl else s).modifyDev fun d => { d with gens := d.gens ++ [(line, 0)] }

/-- A line of X is linked: its core counts what is written to it from then on. -/
def Core.linkBuffer (k : Core) (a : Nat) : Core :=
  if k.gensX.any (·.1 == lineOf a) then k else { k with gensX := k.gensX ++ [(lineOf a, 0)] }

/-- The lines of a list of places are linked. -/
def State.linkAll (s : State) (ps : List Place) : State :=
  ps.foldl (fun s p => match p with
    | .main pa => s.linkLine pa
    | .buffer c .x a => s.modifyCore c (·.linkBuffer a)
    | _ => s) s

/-- The entries of a link table for the elements loaded from index `lo` on (R167). -/
def State.linksOf (s : State) (addr : Nat → Word) (lo : Nat) (xs : List (Option (Place × Nat))) : List Link :=
  xs.zipIdx.map fun e => match e.1 with
    | some (p, _) => { active := true, va := addr (lo + e.2), place := p, sew := BitVec.ofNat 2 s.me.sewCode, gen := s.generationOf p }
    | none => { active := false, va := 0, place := .device, sew := 0, gen := 0 }

/-- The elements loaded join the link table: behind those that the instruction linked before a wait; a trap emptied the
table, and the elements below it then have no link. -/
def State.noteLinks (addr : Nat → Word) (xs : List (Option (Place × Nat))) (s : State) : State :=
  let s := s.linkAll (loadedPlaces xs)
  s.modifyMe fun h =>
    let lo := h.eltDone
    let before := if h.links.length = lo then h.links else s.linksOf addr 0 (List.replicate lo none)
    { h with links := before ++ s.linksOf addr lo xs }

/-- VLDL (R167). -/
def execVldl (d a b : Reg) (fa fb : Bool) (s : State) : Host.Outcome State Fault Refusal :=
  issue s { s.indexedUses d a b fa fb with dests := [(.v, d)], reads := [b], writes := [d] } fun s =>
    s.withTiles [b] fun xs s =>
      let addr := s.me.indexAddress (s.me.readX a) (tileOfName xs b)
      s.loadTile d addr (State.noteLinks addr)

/-- One element of VSTC: whether its link still holds. -/
def State.linkHolds (s : State) (i : Nat) : Option Link :=
  match s.me.links[i]? with
  | some l =>
    if s.me.active i && l.active && l.sew.toNat == s.me.sewCode && s.generationOf l.place == l.gen then some l else none
  | none => none

/-- The place lies in a lost frame (R135). -/
def Place.isLost (p : Place) (d : Device) : Bool :=
  match p with
  | .main pa => d.isLost pa
  | _ => false

/-- The elements of VSTC from index i on: n elements stored in order, each with its check, and the success bits. -/
def State.storeLinked (data : Nat) : Nat → Nat → State → Except Stop (List Bool × State)
  | 0, _, s => .ok ([], s)
  | n + 1, i, s =>
    match s.linkHolds i with
    | none =>
      match State.storeLinked data n (i + 1) s with
      | .error e => .error e
      | .ok (bs, s) => .ok (false :: bs, s)
    | some l =>
      match l.place with
      | .buffer _ .w _ => .error (.trap { cause := causeAccess, val := l.va, elt := word i } s)
      | p =>
        if p.isLost s.dev then .error (.trap { cause := causeFenced, val := l.va, elt := word i } s) else
        match State.storeLinked data n (i + 1)
          ((s.performStores [(p, s.me.esize, elem s.me.sew data i)]).count p) with
        | .error e => .error e
        | .ok (bs, s) => .ok (true :: bs, s)

/-- A line that VSTC would store to lies in the range of a copy command of the hart (R150). -/
def State.linksBusy (s : State) : Bool := s.me.links.any fun l => l.active && s.me.copyBusy l.place s.me.esize

/-- The elements of VSTC that are in range: stored where their links hold, with their bits of the mask D. -/
def State.storeConditional (s : State) (d : Reg) (data : Nat) : Except Stop State :=
  match State.storeLinked data s.me.tile 0 s with
  | .error e => .error e
  | .ok (bs, s) =>
    let stored := ((s.me.links.zip bs).filter (·.2)).map (·.1.place)
    .ok ((s.chargePasses stored).modifyMe fun h => h.writeM d (h.maskOf (h.readM d) fun i => if h.inRange i then bs[i]? else none))

/-- VSTC (R168): the strip commits first; the elements are stored at once, each at a point of its own. -/
def execVstc (d a : Reg) (fa : Bool) (s : State) : Host.Outcome State Fault Refusal :=
  issue s
    { regs := [⟨2, d, isMask d⟩, ⟨0, a, s.me.isVector a⟩]
      vown := true
      sources := [⟨0, .v, a, fa⟩]
      reads := [a]
      lanes := true
      commits := true
      orders := true
      work := [(.vmem, s.tileCycles s.me.tile)] } fun s =>
    s.withTiles [a] fun xs s =>
      if s.linksBusy then .error (.stall s.stall)
      else if s.blocksWrite ((s.me.links.filter (·.active)).map fun l => (l.place, s.me.esize)) then
        .error (.wait .followOns s)
      else
      match s.me.pauseAt s.me.eltDone (s.me.eltEnd.getD s.me.tile) with
      | none => s.storeConditional d (tileOfName xs a)
      | some e =>
        match (s.modifyMe fun h => { h with eltEnd := some e }).storeConditional d (tileOfName xs a) with
        | .error e => .error e
        | .ok s => .error (.wait .strip (s.modifyMe (·.pauseBefore e)))

/-! ### VSCADD (R169) -/

/-- The checks at issue before the strip limit: the kind, then DETFP, which no instruction without an
active element raises (R50). -/
def State.scaddChecks (s : State) : Except Stop Unit :=
  let h := s.me
  let isFloat := h.vst == 1
  if (h.vst ≠ 0 && !isFloat) || (isFloat && h.sewCode == 0) then raise s causeIllegal h.vst
  else if isFloat && h.det && h.scope ≠ 0 && (List.range h.tile).any h.active then raise s causeDetfp s.wordVal
  else .ok ()

/-- The additions of the elements placed. -/
def State.additions (s : State) (es : List (Place × Nat × Nat)) : List StripItem :=
  es.filterMap fun e => match e.1 with
    | .main pa => some (.scatter
        { pa := BitVec.ofNat 52 pa, log2Size := Fin.ofNat 4 s.me.sewCode, isFloat := s.me.vst == 1, bf := s.me.bf
          addend := word e.2.2 } (s.me.vst == 1 && !s.me.det))
    | _ => none

/-- VSCADD (R169). -/
def execVscadd (d a b : Reg) (fa fb : Bool) (s : State) : Host.Outcome State Fault Refusal :=
  issue s
    { s.indexedUses d a b fa fb with
      sources := [⟨0, .x, a, fa⟩, ⟨1, .v, b, fb⟩, ⟨2, .v, d, false⟩]
      reads := [b, d] } fun s =>
    match s.scaddChecks with
    | .error e => .error e
    | .ok _ =>
      s.storeWith [b, d] fun xs s =>
        let lo := s.me.eltDone
        let (es, r) := s.storeFrom .memory .rmw (s.me.indexAddress (s.me.readX a) (tileOfName xs b))
          (elem s.me.sew (tileOfName xs d)) (s.me.tile - lo) lo
        let s := (s.countAll (es.map (·.1))).modifyMe fun h => { h with strip := h.strip ++ s.additions es }
        match r with
        | some (i, e) => .error (haltAt i e s)
        | none => .ok s

/-! ### CAPPEND (R170) -/

/-- The payload elements from index i on, the k-th of them at slot t + k. -/
def State.appendFrom (data : Nat) (base t : Word) : Nat → Nat → Nat → State → Except Stop State
  | 0, _, _, s => .ok s
  | n + 1, i, k, s =>
    if s.me.masked i then
      let va := base + (t + word k) * word s.me.esize
      match s.elemPlace .writer .store s.me.esize va with
      | .error e => .error (haltAt i e s)
      | .ok p =>
        State.appendFrom data base t n (i + 1) (k + 1)
          ((s.performStores [(p, s.me.esize, elem s.me.sew data i)]).count p)
    else State.appendFrom data base t n (i + 1) k s

/-- The header of a work vector: BASE, TAIL and CAP, and the place of TAIL's line (R170). -/
def State.workHeader (s : State) (va : Word) : Except Stop (Nat × Word × Word × Word) :=
  if !isAligned 32 va then raise s causeAlign va
  else
    match s.place .memory .rmw va with
    | .error e => .error e
    | .ok (.main pa) =>
      if s.dev.isPoisoned pa then raise s causeFenced va
      else .ok (pa, word (s.getWord pa), word (s.getWord (pa + 8)), word (s.getWord (pa + 16)))
    | .ok _ => raise s causeAccess va

/-- The addresses of the payload, where there is room for it. -/
def State.payload (s : State) (base tail cap : Word) (n : Nat) : List Word :=
  if tail.toNat + n ≤ cap.toNat then (List.range n).map fun k => base + (tail + word k) * word s.me.esize else []

/-- What CAPPEND asks of the hart. -/
def State.appendUses (s : State) (d a b : Reg) (fa fb : Bool) : Uses :=
  { regs := [⟨2, d, isG d⟩, ⟨0, a, isAddress a⟩, ⟨1, b, s.me.isVector b⟩]
    vown := true
    sources := [⟨0, .x, a, fa⟩, ⟨1, .v, b, fb⟩]
    dests := [(.x, d)]
    reads := [b]
    lanes := true
    commits := true
    orders := true
    work := [(.vmem, s.tileCycles s.me.tile)] }

/-- CAPPEND's payload from element lo on, after the reservation of slot t on: each element is written at a point of its own.
A payload fault leaves D written and TEPC at the next instruction, and the cycles are those of an instruction that has
issued (R379). -/
def State.appendPayload (s : State) (u : Uses) (b : Reg) (data : Nat) (base t : Word) (lo : Nat) :
    Except Stop State :=
  let h := s.me
  let pause := h.pauseAt lo h.tile
  let k := ((List.range lo).filter h.masked).length
  match State.appendFrom data base t (pause.getD h.tile - lo) lo k s with
  | .error (.trap t s') =>
    .error (.trap { t with epc := some (h.pc + 4) }
      (((s'.popTiles h.masked [b]).modifyMe fun h => { h with appending := none }).chargeUses u))
  | .error e => .error e
  | .ok s =>
    match pause with
    | none => .ok s
    | some e => .error (.wait .strip (s.modifyMe fun h => { h.pauseBefore e with appending := some base }))

/-- CAPPEND (R170): the reservation, then the payload; other agents may act between them. -/
def execCappend (d a b : Reg) (fa fb : Bool) (s : State) : Host.Outcome State Fault Refusal :=
  let u := s.appendUses d a b fa fb
  issue s u fun s =>
    s.withWhole s.me.masked [b] fun xs s =>
      match s.me.appending with
      | some base => s.appendPayload u b (tileOfName xs b) base (s.me.readX d) s.me.eltDone
      | none =>
      match s.workHeader (s.me.readX a) with
      | .error e => .error e
      | .ok (pa, base, tail, cap) =>
        let n := popCount s.me.tile (s.me.readM 0)
        let slots := s.payload base tail cap n
        let places := slots.filterMap fun va => (s.locate .writer .store va).toOption
        if s.copyBlocks .writer .store slots s.me.esize then .error (.stall s.stall)
        else if s.blocksWrite ((.main pa, 32) :: places.map fun p => (p, s.me.esize)) then .error (.wait .followOns s)
        else
        let s := s.count (.main pa)
        if tail.toNat + n ≤ cap.toNat then
          let s := if n = 0 then s else s.putWord (pa + 8) (tail.toNat + n)
          ((s.chargePasses places).modifyMe fun h => h.writeX d tail).appendPayload u b (tileOfName xs b) base tail 0
        else .ok (s.modifyMe fun h => h.writeX d (BitVec.allOnes 64))

/-! ### STRIPC (R179) -/

/-- STRIPC: with loads of the strip outstanding it waits for them; STRIP_COMMIT_COMPLETE then completes it. -/
def execStripc (s : State) : Host.Outcome State Fault Refusal :=
  if s.me.fills.any (·.vector) then
    .next (s.stall.modifyMe fun h => { h with closing := true })
  else issue s { commits := true } fun s => .ok s

end Sys2Proof.Machine
end

