-- ==== Sys2Proof/Machine/Copy.lean ====
section
/-!
DEFINITION. The copy engine, its follow-on MMAs and the circular buffers (R143-R161, R405).

An act of the engine moves as many bytes of a command as it names, and an act of the matrix unit runs as many rows of a
follow-on (log 2).
-/

namespace Sys2Proof.Machine

/-! ### The shape and the strides (R146) -/

def srcStride (strides : Word) : Int := signed 32 (fieldOf strides.toNat 0 32)
def dstStride (strides : Word) : Int := signed 32 (fieldOf strides.toNat 32 32)

/-- A 64-bit address moved by a signed offset. -/
def shiftBy (va : Word) (x : Int) : Word := va + word (wrap 64 x)

/-- The shape word keeps to R146, circular buffer included (R147 step 1). -/
def Hart.shapeOk (h : Hart) (shape : Word) : Bool :=
  fieldOf shape.toNat 40 19 == 0 &&
    if shapeCbv shape then
      decide (shapeCb shape < h.ringCount) && (h.circ (shapeCb shape)).init
        && shapeLen shape * shapeRows shape == (h.circ (shapeCb shape)).slot.toNat
    else shapeCb shape == 0

/-! ### Checks at issue (R147) -/

/-- The first byte, in copy order, of rows from r on that lies outside the page of a side's first byte. -/
def firstOutside (va : Word) (stride : Int) (len : Nat) : Nat → Nat → Option Word
  | 0, _ => none
  | n + 1, r =>
    let a := shiftBy va (r * stride)
    if a.toNat / 65536 ≠ va.toNat / 65536 then some a
    else if 65536 < a.toNat % 65536 + len then some (word (a.toNat / 65536 * 65536 + 65536))
    else firstOutside va stride len n (r + 1)

/-- The buffer and the local address of a side's first byte, if it lies on an aperture page (R147 step 4).  A side on a Z
piece that also leaves its page gives the byte outside (log 64). -/
def State.apertureSide (s : State) (p : Place) (va : Word) (stride : Int) (shape : Word) :
    Except Stop (Option (BufId × Nat)) :=
  match p with
  | .buffer _ b a =>
    match firstOutside va stride (shapeLen shape) (shapeRows shape) 0 with
    | some w => raise s causeAccess w
    | none => .ok (some (b, a))
  | .apertureZ _ =>
    match firstOutside va stride (shapeLen shape) (shapeRows shape) 0 with
    | some w => raise s causeAccess w
    | none => raise s causeAccess va
  | _ => .ok none

/-- The first value that is not a multiple of 8, in the order of R147 step 2; a stride as its signed value in 64 bits
(log 64). -/
def unalignedCopy (src dst shape strides : Word) : Option Word :=
  let sides := if shapeCbv shape then [src] else [src, dst]
  (sides ++ [shiftBy 0 (srcStride strides), shiftBy 0 (dstStride strides), word (shapeLen shape)]).find? fun v =>
    !isAligned 8 v

/-- The checks of R147: the aperture sides of the command. -/
def State.checkCopy (s : State) (src dst shape strides : Word) :
    Except Stop (Option (BufId × Nat) × Option (BufId × Nat)) := do
  require (s.me.shapeOk shape) s causeIllegal shape
  match unalignedCopy src dst shape strides with
  | some v => raise s causeAlign v
  | none =>
    if shapeRows shape = 0 ∨ shapeLen shape = 0 then .ok (none, none)
    else
      let ps ← s.place .copy .load src
      if shapeCbv shape then
        let b ← s.apertureSide ps src (srcStride strides) shape
        .ok (b, none)
      else
        let pd ← s.place .copy .store dst
        let b ← s.apertureSide ps src (srcStride strides) shape
        let c ← s.apertureSide pd dst (dstStride strides) shape
        .ok (b, c)

/-- The open strip holds a store that a copy command must follow (R149). -/
def holdsStore : StripItem → Bool
  | .stores es _ => !es.isEmpty
  | .command _ => false
  | _ => true

/-- A command queued under the next ticket, or held with the open strip (R144, R147, R149); `age` is its place in the
hand-off order of the core (R77). -/
def Hart.queueCopy (h : Hart) (age : Nat) (src dst shape strides : Word) (follow : Option MmaWork)
    (sides : Option (BufId × Nat) × Option (BufId × Nat)) : Hart :=
  let t := h.seq + 1
  let held := h.strip.any holdsStore
  let q : CopyCmd :=
    { ticket := t, pc := h.pc, src, dst, shape, strides, follow, age
      phase := if held then .held else .queued
      srcBuf := sides.1
      dstBuf := sides.2 }
  { h with
    seq := t
    cmds := h.cmds ++ [q]
    strip := if held then h.strip ++ [.command t] else h.strip }

/-- The queue of the core is full (R143). -/
def State.copyQueueFull (s : State) : Bool := decide (32 ≤ s.myCore.queuedCopies)

/-- A field that names a register and the one after it: a0-a14 or g0-g30 (R145). -/
def isAddressPair (r : Reg) : Bool := decide (32 ≤ r.toNat) && decide (r.toNat < 47)
def isGPair (r : Reg) : Bool := isBelow 31 r

/-- A command names a circular buffer: its shape word is known and has CBV set (R416). -/
def Hart.namesCirc (h : Hart) (r : Reg) : Bool := h.isFull r && shapeCbv (h.readX r)

/-- CPY (R145-R149). -/
def execCpy (d a b : Reg) (fa fb : Bool) (s : State) : Host.Outcome State Fault Refusal :=
  issue s
    { regs := [⟨2, d, isG d⟩, ⟨0, a, isAddressPair a⟩, ⟨1, b, isGPair b⟩]
      vown := s.me.namesCirc b
      sources := [⟨0, .xs 2, a, fa⟩, ⟨1, .xs 2, b, fb⟩]
      dests := [(.x, d)] } fun s =>
    let h := s.me
    match s.checkCopy (h.readX a) (h.readX (a + 1)) (h.readX b) (h.readX (b + 1)) with
    | .error e => .error e
    | .ok sides =>
      if s.copyQueueFull then .error (.wait .copyQueue s)
      else
        .ok ((s.handOff s.cur.core).modifyMe fun h =>
          let h := h.queueCopy s.myCore.handed (h.readX a) (h.readX (a + 1)) (h.readX b) (h.readX (b + 1)) none sides
          h.writeX d h.seq)

/-- CPYMMA (R153): a full queue holds it after every check, and before its handle takes a slot. -/
def execCpymma (d a : Reg) (fa : Bool) (z sa sb : Reg) (fmt : BitVec 4) (kn : BitVec 2) (acc : Bool) (s : State) :
    Host.Outcome State Fault Refusal :=
  issue s
    { len := 8
      regs := [⟨2, d, isGPair d⟩, ⟨0, a, isAddressPair a⟩, ⟨3, z, isHandle z⟩, ⟨3, sa, isHandle sa⟩, ⟨3, sb, isHandle sb⟩]
      vown := s.me.namesCirc d
      sources := [⟨0, .xs 2, a, fa⟩, ⟨2, .xs 2, d, false⟩] } fun s =>
    let h := s.me
    match s.checkCopy (h.readX a) (h.readX (a + 1)) (h.readX d) (h.readX (d + 1)) with
    | .error e => .error e
    | .ok sides =>
      match s.prepareMma z sa sb fmt kn acc with
      | .error e => .error e
      | .ok (w, t) =>
        if s.copyQueueFull then .error (.wait .copyQueue s)
        else
          .ok ((t.handOff t.cur.core).modifyMe fun h =>
            h.queueCopy t.myCore.handed (h.readX a) (h.readX (a + 1)) (h.readX d) (h.readX (d + 1)) (some w) sides)

/-! ### Moving bytes (R148, R151) -/

/-- Where byte `off` of row r of a side lies: in its buffer, or where the VA leads now. -/
def State.sidePlace (s : State) (side : Option (BufId × Nat)) (va : Word) (stride : Int) (k : Access) (r off : Nat) :
    Except (BitVec 8) Place :=
  match side with
  | some (b, a) => .ok (.buffer s.cur.core b ((a : Int) + r * stride + off).toNat)
  | none =>
    match s.locate .copy k (shiftBy va (r * stride + off)) with
    | .ok (.apertureZ _) => .error causeAccess
    | x => x

/-- The parts of a row that cross no page on either side: offset and bytes. -/
def rowParts (src dst : Word) : Nat → Nat → Nat → List (Nat × Nat)
  | 0, _, _ => []
  | fuel + 1, off, n =>
    if n = 0 then []
    else
      let room (va : Word) : Nat := 65536 - (va + word off).toNat % 65536
      let k := min n (min (room src) (room dst))
      (off, k) :: rowParts src dst fuel (off + k) (n - k)

/-- Where a command stops: byte of the row, cause and VA. -/
structure ByteStop where
  off : Nat
  cause : BitVec 8
  va : Word
  deriving DecidableEq, Repr

/-- Bytes of a buffer part before its first poisoned word (R140). -/
def State.cleanPrefix (s : State) (p : Place) (n : Nat) : Nat :=
  match p with
  | .buffer c b a =>
    ((s.core c).poisonOf b).foldl (fun m w => if a / 8 ≤ w ∧ w * 8 < a + n then min m (w * 8 - a) else m) n
  | _ => n

/-- Poisoned 64-byte lines of main memory among n bytes at a place, as runs of those bytes. -/
def State.taint (s : State) (p : Place) (n : Nat) : List (Nat × Nat) :=
  match p with
  | .main pa =>
    (s.dev.poison.filter fun l => decide (pa < l * 64 + 64) && decide (l * 64 < pa + n)).map fun l =>
      let lo := max pa (l * 64)
      (lo - pa, min (pa + n) (l * 64 + 64) - lo)
  | _ => []

/-- n bytes at a place, read as a part of a row. -/
def State.readPart (s : State) (off n : Nat) (p : Place) : RowPart :=
  { off, bytes := n, data := s.readPlace p n, taint := s.taint p n }

/-- The parts of row r read with their places, up to the first byte that cannot be (R148, R151). -/
def State.readRow (s : State) (q : CopyCmd) (r : Nat) : List (Nat × Nat) → List (RowPart × Place) × Option ByteStop
  | [] => ([], none)
  | (off, n) :: rest =>
    let va := shiftBy q.src (r * srcStride q.strides + off)
    match s.sidePlace q.srcBuf q.src (srcStride q.strides) .load r off with
    | .error c => ([], some ⟨off, c, va⟩)
    | .ok p =>
      let m := s.cleanPrefix p n
      if m < n then
        ((if m = 0 then [] else [(s.readPart off m p, p)]), some ⟨off + m, causeFenced, va + word m⟩)
      else
        let (xs, e) := s.readRow q r rest
        ((s.readPart off n p, p) :: xs, e)

/-- The destination stride of a command: consecutive rows in a slot (R146). -/
def CopyCmd.stride (q : CopyCmd) : Int := if q.slotBase.isSome then shapeLen q.shape else dstStride q.strides

/-- The places of the parts of row r, up to the first byte that cannot be written. -/
def State.placeRow (s : State) (q : CopyCmd) (r : Nat) : List RowPart → List (RowPart × Place) × Option ByteStop
  | [] => ([], none)
  | x :: rest =>
    match s.sidePlace q.dstBuf q.dst q.stride .store r x.off with
    | .error c => ([], some ⟨x.off, c, shiftBy q.dst (r * q.stride + x.off)⟩)
    | .ok p =>
      let (xs, e) := s.placeRow q r rest
      ((x, p) :: xs, e)

/-- Marks added for the units of `unit` bytes that a run touches. -/
def addMarks (unit lo n : Nat) (marks : List Nat) : List Nat :=
  (List.range ((lo + n - 1) / unit + 1 - lo / unit)).foldl (fun ms i =>
    let m := lo / unit + i
    if ms.contains m then ms else ms ++ [m]) marks

/-- Poison carried to the words or lines that a run of a place covers (R136, R140). -/
def State.carry (s : State) (p : Place) (run : Nat × Nat) : State :=
  match p with
  | .main pa => s.modifyDev fun d => { d with poison := addMarks 64 (pa + run.1) run.2 d.poison }
  | .buffer c b a => s.modifyCore c fun k => k.setPoison b (addMarks 8 (a + run.1) run.2 (k.poisonOf b))
  | _ => s

/-- The stores of parts of a row. -/
def partStores (xs : List (RowPart × Place)) : List (Place × Nat × Nat) := xs.map fun x => (x.2, x.1.bytes, x.1.data)

/-- Parts of a row written, with the poison they carry; `wrote` are the runs that the command has written before in marked
lines and words, whose marks go when it has covered them whole (R136, R140). -/
def State.writeParts (s : State) (wrote : List (Place × Nat)) (xs : List (RowPart × Place)) : State :=
  let s := (s.performMore wrote (partStores xs)).countAll (xs.map (·.2))
  xs.foldl (fun s x => x.1.taint.foldl (fun s run => s.carry x.2 run) s) s

/-- The lines or words that n bytes from `lo` on at a place touch, as one run. -/
def Place.units (p : Place) (lo n : Nat) : Place × Nat :=
  let widen (unit a : Nat) : Nat × Nat := (a / unit * unit, ceilDiv (a + n) unit * unit - a / unit * unit)
  match p with
  | .main pa => let (a, m) := widen 64 (pa + lo); (.main a, m)
  | .buffer c b x => let (a, m) := widen 8 (x + lo); (.buffer c b a, m)
  | p => (p, n)

/-- A run has a byte in a line or word to which the parts written carry poison. -/
def carriesInto (xs : List (RowPart × Place)) (r : Place × Nat) : Bool :=
  xs.any fun x => x.1.taint.any fun t => (x.2.units t.1 t.2).1.meets (x.2.units t.1 t.2).2 r.1 r.2

/-- The runs of a command in lines and words still marked after it has written parts: of what it wrote before the marks
that its own bytes carry, none counts. -/
def State.wroteAfter (s : State) (wrote : List (Place × Nat)) (xs : List (RowPart × Place)) : List (Place × Nat) :=
  let t := s.performMore wrote (partStores xs)
  ((s.poisonedRuns wrote (partStores xs)).filter t.inPoison).filter fun r => !carriesInto xs r

/-- The first n bytes of a part. -/
def RowPart.upTo (x : RowPart) (n : Nat) : RowPart :=
  { x with bytes := n, data := x.data % 2 ^ (8 * n)
           taint := (x.taint.filter fun t => decide (t.1 < n)).map fun t => (t.1, min t.2 (n - t.1)) }

/-- A part without its first n bytes. -/
def RowPart.beyond (x : RowPart) (n : Nat) : RowPart :=
  { off := x.off + n, bytes := x.bytes - n, data := x.data / 2 ^ (8 * n)
    taint := (x.taint.filter fun t => decide (n < t.1 + t.2)).map fun t => (t.1 - n, t.1 + t.2 - max t.1 n) }

/-- The first n bytes of a list of parts, and the rest. -/
def splitParts : Nat → List RowPart → List RowPart × List RowPart
  | _, [] => ([], [])
  | n, x :: xs =>
    if n = 0 then ([], x :: xs)
    else if x.bytes ≤ n then
      let (a, b) := splitParts (n - x.bytes) xs
      (x :: a, b)
    else ([x.upTo n], x.beyond n :: xs)

/-- Bytes of a list of parts. -/
def partBytes (xs : List RowPart) : Nat := (xs.map (·.bytes)).sum

/-- The rest of the row in hand read, before any of it is written (R148). -/
def State.fillRow (s : State) (q : CopyCmd) : State × CopyCmd × Option ByteStop :=
  -- each side crosses a page at most once in 65,536 bytes, so that there are no more parts than this
  let len := shapeLen q.shape
  let r := q.progress / len
  let from_ := q.progress % len + partBytes q.parts
  let parts := rowParts (shiftBy q.src (r * srcStride q.strides)) (shiftBy q.dst (r * q.stride)) (2 * (len / 65536) + 3) from_
    (len - from_)
  let (xs, e) := s.readRow q r parts
  (s.countAll (xs.map (·.2)), { q with parts := q.parts ++ xs.map (·.1) }, e)

/-- A write of the copy engine meets bytes that an earlier follow-on of the hart has still to read (R150, R241). -/
def State.blocksEngine (s : State) (es : List (Place × Nat)) : Bool :=
  (s.me.followOns.flatMap fun f => s.operandPlaces f.work).any fun r => es.any fun e => e.1.meets e.2 r.1 r.2

/-- What has been read of the row in hand is written, n bytes at most, up to a byte that cannot be. -/
def State.flushRow (s : State) (q : CopyCmd) (n : Nat) : State × CopyCmd × Option ByteStop :=
  let (ws, f) := s.placeRow q (q.progress / shapeLen q.shape) (splitParts n q.parts).1
  if s.blocksEngine (ws.map fun w => (w.2, w.1.bytes)) then (s, q, none)
  else
    let k := partBytes (ws.map (·.1))
    (s.writeParts q.wrote ws,
      { q with progress := q.progress + k, parts := (splitParts k q.parts).2, wrote := s.wroteAfter q.wrote ws }, f)

/-- Up to n bytes of a command move, over as many rows as are listed, and how it stops.  Before a byte that aborts it the
bytes read are written; a PFAULT at a source byte leaves the row unwritten (R148, R151). -/
def State.moveRows : Nat → Nat → State → CopyCmd → State × CopyCmd × Option ByteStop
  | 0, _, s, q => (s, q, none)
  | rows + 1, n, s, q =>
    if n = 0 then (s, q, none)
    else
      match s.fillRow q with
      | (s, q, some b) =>
        if b.cause = causePfault then (s, q, some b)
        else
          match s.flushRow q (partBytes q.parts) with
          | (s, q, some c) => (s, q, some c)
          | (s, q, none) => (s, q, if q.parts.isEmpty then some b else none)
      | (s, q, none) =>
        match s.flushRow q n with
        | (s, p, some c) => (s, p, some c)
        | (s, p, none) =>
          if p.parts.isEmpty then State.moveRows rows (n - (p.progress - q.progress)) s p else (s, p, none)

/-! ### The engine's acts -/

/-- The first command of a hart. -/
def Hart.headCmd (h : Hart) : Option CopyCmd := h.cmds.head?

def Hart.modifyCmd (h : Hart) (t : Word) (f : CopyCmd → CopyCmd) : Hart :=
  { h with cmds := modifyFirst (fun q => q.ticket == t) f h.cmds }

def Hart.dropCmd (h : Hart) (t : Word) : Hart := { h with cmds := h.cmds.filter (·.ticket != t) }

/-- A command into a circular buffer takes its slot (R156). -/
def Hart.takeSlot (h : Hart) (q : CopyCmd) : Hart :=
  if shapeCbv q.shape ∧ q.slotBase.isNone then
    let n := shapeCb q.shape
    let b := h.circ n
    let base := b.localBase + b.p.toNat * b.slot.toNat
    (h.setCirc n { b with free := b.free - 1, p := BitVec.ofNat 8 ((b.p.toNat + 1) % b.count.toNat) }).modifyCmd q.ticket
      fun q => { q with slotBase := some base, dstBuf := some (b.buf, base) }
  else h

/-- Whether the engine can go on with the first command of the hart: it is queued, with a slot free where it needs one
(R143, R156), or it is to end. -/
def Hart.canStartCopy (h : Hart) : Bool :=
  match h.headCmd with
  | some q =>
    (q.phase == .queued || q.phase == .ending)
      && (!shapeCbv q.shape || q.slotBase.isSome || decide ((h.circ (shapeCb q.shape)).free ≠ 0))
  | none => false

/-- The core's engines run: they are powered and their clock runs. -/
def State.enginesRun (s : State) (c : CoreId) : Bool := (s.core c).power.runs && (s.core c).clock && s.dev.ready

/-- A command ends with a fault that CPYWAIT delivers (R151, R152); FENCED fences the launch. -/
def State.abortCopy (s : State) (q : CopyCmd) (f : Held) : State :=
  let s := s.modifyMe fun h =>
    let h := h.discardCmd q
    { h with copyReports := h.copyReports ++ [.aborted q.ticket f] }
  if f.cause = causeFenced then s.fenceLaunch s.me.link.launch causeFenced else s

/-- A record of an engine of the hart that acts (R151, R405). -/
def State.postEngine (s : State) (src : Nat) (ticket pc : Word) (f : Held) : State :=
  let regs : TrapRegs :=
    { cause := f.cause, val := f.val, epc := pc, elt := f.elt, row := f.row
      stat := tstat false false src true 0 s.cur.ctx.val }
  s.post s.cur.core { regs, of := .command ticket }

/-- Bytes of a command. -/
def CopyCmd.total (q : CopyCmd) : Nat := shapeRows q.shape * shapeLen q.shape

/-- The busy cycles of a command that has moved n bytes (R379). -/
def copyCycles (n : Nat) : Nat := max 1 (ceilDiv n 256)

/-- The cycles that an act adds to a command are queued. -/
def State.chargeCopy (s : State) (old new : CopyCmd) : State :=
  let n := copyCycles new.progress - (if old.started then copyCycles old.progress else 0)
  if n = 0 then s else s.chargeAged s.cur.core old.age [(.copy, n)]

/-- What becomes of a command after an act of its engine. -/
def State.settleCopy (s : State) (q : CopyCmd) : Option ByteStop → State
  | none =>
    if q.phase = .ending then s.modifyMe fun h => h.discardCmd q
    else
      s.modifyMe fun h => h.modifyCmd q.ticket fun _ =>
        { q with phase := if q.total ≤ q.progress then .moved else .queued }
  | some b =>
    let f : Held :=
      { cause := b.cause, val := b.va, elt := word (q.progress / shapeLen q.shape * shapeLen q.shape + b.off) }
    if q.phase = .ending then s.modifyMe fun h => h.discardCmd q
    else if b.cause = causePfault then
      (s.modifyMe fun h => h.modifyCmd q.ticket fun _ => { q with phase := .stopped }).postEngine 1 q.ticket q.pc f
    else s.abortCopy q f

/-- A pending read of the hart meets the range of a command, which waits until it has performed (R150). -/
def Hart.readsMeet (h : Hart) (q : CopyCmd) : Bool :=
  h.fills.any fun f => f.reads.any fun r => match r.place with
    | .buffer _ b a => q.overlaps b a r.bytes
    | _ => false

/-- The first command of the hart that acts starts or goes on, by n bytes at most. -/
def State.startCopy (s : State) (n : Nat) : State :=
  match s.me.headCmd with
  | none => s
  | some q =>
    let s := s.modifyMe fun h => h.takeSlot q
    match s.me.headCmd with
    | none => s
    | some q =>
      let s := if s.me.readsMeet q then s.performReads else s
      let n := if q.phase = .ending then (64 - q.progress % 64) % 64 else n
      let rows := if q.total = 0 then 0 else shapeRows q.shape - q.progress / shapeLen q.shape
      let (s, p, e) := State.moveRows rows n s q
      (s.chargeCopy q p).settleCopy { p with started := true } e

/-- The advice priority of a context; firmware has no Second (R337). -/
def Core.apOf (k : Core) (x : CtxId) : Nat := if h : x.val < 4 then k.advice[x.val].ap.toNat else 0

/-- Another hart of the same launch is ready at an engine and is served first: one of a higher advice priority, or the
older of two of the same (R337).  `ready` answers the age of what a hart has ready at the engine. -/
def State.outranked (s : State) (c : CoreId) (x : CtxId) (ready : Hart → Option Nat) : Bool :=
  let k := s.core c
  match ready (k.hart x) with
  | none => false
  | some mine =>
    (List.finRange 4).any fun y =>
      k.status (userId y) != .free && (k.hart (userId y)).link.launch == (k.hart x).link.launch &&
        match ready (k.hart (userId y)) with
        | none => false
        | some age =>
          decide (k.apOf x < k.apOf (userId y)) || (k.apOf x == k.apOf (userId y) && decide (age < mine))

/-- The age of the command that a hart has ready for the copy engine. -/
def Hart.copyReady (h : Hart) : Option Nat := if h.canStartCopy then h.headCmd.map (·.age) else none

/-- The age of the follow-on that a hart has ready for the matrix unit. -/
def Hart.followReady (h : Hart) : Option Nat := (h.followOns.head?.filter (!·.stopped)).map (·.age)

/-- COPY_COMMAND_START (R148, R156): the act moves as many bytes as it names, at most.  An engine whose record waits
outside the trap queue stands still (R397). -/
def execCopyCommandStart (core : CoreId) (turn : CopyTurn) (s : State) : Host.Outcome State Fault Refusal :=
  let ctx := turn.ctx
  if s.enginesRun core && !(s.core core).engineHeld 1 && (s.hart core ctx).canStartCopy
      && ((s.hart core ctx).headCmd.any (·.started) || !s.outranked core ctx Hart.copyReady) then
    .next { (s.actingAs core ctx).startCopy turn.bytes.toNat with cur := s.cur }
  else .next s

/-- The first command of the hart that acts completes: its slot is filled, and its follow-on goes to the matrix unit
(R154, R156). -/
def State.completeCopy (s : State) (q : CopyCmd) : State :=
  s.modifyMe fun h =>
    let h := h.dropCmd q.ticket
    let h := if q.slotBase.isSome then
        let b := h.circ (shapeCb q.shape)
        h.setCirc (shapeCb q.shape) { b with filled := b.filled + 1 }
      else h
    match q.follow with
    | some w =>
      let f : FollowOn :=
        { ticket := q.ticket, pc := q.pc, work := w, row := 0, started := false, stopped := false, bytes := q.total,
          age := q.age }
      { h with followOns := h.followOns ++ [f] }
    | none => h

/-- COPY_COMMAND_COMPLETE (R156). -/
def execCopyCommandComplete (core : CoreId) (ctx : ContextId) (s : State) : Host.Outcome State Fault Refusal :=
  match (s.hart core ctx).headCmd with
  | some q =>
    if s.enginesRun core && q.phase == .moved then .next { (s.actingAs core ctx).completeCopy q with cur := s.cur }
    else .next s
  | none => .next s

/-- A generated operand has no bytes in memory. -/
def MmaOperand.isGenerated : MmaOperand → Bool
  | .generator _ _ => true
  | .descriptor _ => false

/-- A follow-on of the hart changed or removed. -/
def Hart.modifyFollow (h : Hart) (t : Word) (g : FollowOn → FollowOn) : Hart :=
  { h with followOns := modifyFirst (fun f => f.ticket == t) g h.followOns }
def Hart.dropFollow (h : Hart) (t : Word) : Hart := { h with followOns := h.followOns.filter (·.ticket != t) }

/-- The first follow-on of the hart that acts runs, by n rows at most, or to the row that faults (R154, R239); its cycles
are queued once (R379). -/
def State.runFollowOn (s : State) (f : FollowOn) (n : Nat) : State :=
  let s := if f.started then s
    else s.chargeAged s.cur.core f.age [mmaCycles f.work.fmt.toNat f.work.kn.toNat (f.work.a.isGenerated || f.work.b.isGenerated)]
  let n := min n (32 - f.row)
  match s.runMma f.work n f.row with
  | (s, none) =>
    s.modifyMe fun h =>
      if 32 ≤ f.row + n then h.dropFollow f.ticket
      else h.modifyFollow f.ticket fun g => { g with row := f.row + n, started := true }
  | (s, some r) =>
    let held : Held := { cause := r.cause, val := r.va, row := BitVec.ofNat 5 r.row }
    if r.cause = causePfault then
      (s.modifyMe fun h => h.modifyFollow f.ticket fun g =>
        { g with row := r.row, started := true, stopped := true }).postEngine 2 f.ticket f.pc held
    else
      let s := s.modifyMe fun h =>
        { h.dropFollow f.ticket with copyReports := h.copyReports ++ [.aborted f.ticket { held with elt := word f.bytes }] }
      if r.cause = causeFenced then s.fenceLaunch s.me.link.launch causeFenced else s

/-- MMA_COMPLETE (R154, R239): a plain MMA completes in its own instruction; a follow-on goes on by as many rows as the
act names.  At each act the interleave of the unit serves the follow-on first that R337 ranks first (R253). -/
def execMmaComplete (core : CoreId) (turn : MmaTurn) (s : State) : Host.Outcome State Fault Refusal :=
  let ctx := turn.ctx
  match (s.hart core ctx).followOns with
  | f :: _ =>
    if s.enginesRun core && !(s.core core).engineHeld 2 && !f.stopped
        && !s.outranked core ctx Hart.followReady then
      .next { (s.actingAs core ctx).runFollowOn f turn.rows.toNat with cur := s.cur }
    else .next s
  | [] => .next s

/-! ### Records of engine commands (R405) -/

/-- RTE 0 on a record of a command: it goes on at its byte or its row. -/
def Hart.resumeCommand (h : Hart) (t : Word) : Hart :=
  { h with
    cmds := h.cmds.map fun q => if q.ticket = t ∧ q.phase = .stopped then { q with phase := .queued } else q
    followOns := h.followOns.map fun f => if f.ticket = t then { f with stopped := false } else f }

/-- RTE 1 on a record of a command: it is aborted with ACCESS at its byte or its row; what it has read before that byte is
written (R405). -/
def State.abortCommand (s : State) (t : Word) (regs : TrapRegs) : State :=
  let s := match s.me.cmds.find? fun q => q.ticket == t && q.phase == .stopped with
    | some q =>
      let (s, p, _) := s.flushRow q (partBytes q.parts)
      s.abortCopy p { cause := causeAccess, val := regs.val, elt := word p.progress }
    | none => s
  s.modifyMe fun h =>
    match h.followOns.find? fun f => f.ticket == t && f.stopped with
    | some f =>
      { h.dropFollow t with
        copyReports := h.copyReports ++
          [.aborted t { cause := causeAccess, val := regs.val, elt := word f.bytes, row := BitVec.ofNat 5 f.row }] }
    | none => h

/-! ### CPYWAIT (R152) -/

def CopyReport.ticket : CopyReport → Word
  | .discarded t => t
  | .aborted t _ => t

/-- The report of the lowest ticket at or below t that satisfies p. -/
def lowestReport (p : CopyReport → Bool) (t : Word) (rs : List CopyReport) : Option CopyReport :=
  (rs.filter fun r => p r && decide (r.ticket ≤ t)).foldl (fun acc r =>
    match acc with
    | none => some r
    | some a => if r.ticket < a.ticket then some r else some a) none

def CopyReport.isAbort : CopyReport → Bool
  | .aborted _ _ => true
  | .discarded _ => false

/-- The report taken and the destination written with its ticket. -/
def Hart.takeReport (h : Hart) (d : Reg) (r : CopyReport) : Hart :=
  ({ h with copyReports := eraseFirst (· == r) h.copyReports } : Hart).writeX d r.ticket

/-- What CPYWAIT asks of the hart. -/
def waitUses (d a : Reg) (fa : Bool) : Uses :=
  { regs := [⟨2, d, isScalar d⟩, ⟨0, a, isG a⟩]
    sources := [⟨0, .x, a, fa⟩]
    dests := [(.x, d)]
    commits := true }

/-- CPYWAIT (R152): one that delivers an abort has completed, and its cycle is charged (R379). -/
def execCpywait (d a : Reg) (fa : Bool) (s : State) : Host.Outcome State Fault Refusal :=
  issue s (waitUses d a fa) fun s =>
    let h := s.me
    let t := if h.readX a = 0 ∨ h.seq < h.readX a then h.seq else h.readX a
    if !h.copiesDone t then .error (.wait (.cpywait t) s)
    else
      match lowestReport CopyReport.isAbort t h.copyReports with
      | some (.aborted k f) =>
        .error (.trap { cause := f.cause, val := f.val, elt := f.elt, row := f.row, epc := some (h.pc + 4) }
          ((s.modifyMe fun h => h.takeReport d (.aborted k f)).chargeUses (waitUses d a fa)))
      | _ =>
        match lowestReport (fun r => !r.isAbort) t h.copyReports with
        | some r => .ok (s.modifyMe fun h => ({ h with copyReports := eraseFirst (· == r) h.copyReports } : Hart).produceX d r.ticket)
        | none => .ok (s.modifyMe fun h => h.produceX d 0)

/-! ### Circular buffers (R157-R160) -/

/-- A field that carries a circular-buffer number. -/
def Hart.isCirc (h : Hart) (r : Reg) : Bool := isBelow h.ringCount r

/-- A page that is no W or X aperture page gives ACCESS, a promise page among them (R157 step 4). -/
def circCause (c : BitVec 8) : BitVec 8 := if c = causePromtype then causeAccess else c

/-- The buffer that a range of aperture pages maps (R157 step 4). -/
def State.circRange (s : State) (base : Word) (n : Nat) : Except Stop (BufId × Nat) :=
  match s.locate .copy .store base with
  | .error cause => raise s (circCause cause) base
  | .ok (.buffer c b a) =>
    match s.placeRuns .copy .store (runsOf base n) with
    | (ps, e) =>
      match ((runsOf base n).zip ps).find? fun r => r.2.1 != .buffer c b (a + r.1.2.1) with
      | some r => raise s causeAccess r.1.1
      | none => match e with
        | some (cause, w) => raise s (circCause cause) w
        | none => .ok (b, a)
  | .ok _ => raise s causeAccess base

def execCbinit (d a b : Reg) (fa fb : Bool) (s : State) : Host.Outcome State Fault Refusal :=
  issue s
    { regs := [⟨2, d, s.me.isCirc d⟩, ⟨0, a, isAddress a⟩, ⟨1, b, isG b⟩]
      vown := true
      sources := [⟨0, .x, a, fa⟩, ⟨1, .x, b, fb⟩]
      commits := true } fun s => do
    let geometry := s.me.readX b
    let base := s.me.readX a
    let slot := fieldOf geometry.toNat 0 24
    let count := fieldOf geometry.toNat 24 8
    if s.me.cmds.any fun q => shapeBuffer q.shape == some d.toNat then .error (.wait (.cbinit (d.setWidth 4)) s)
    else
      require (fieldOf geometry.toNat 32 32 == 0 && count != 0 && slot != 0 && slot % 64 == 0) s causeIllegal geometry
      require (isAligned 64 base) s causeAlign base
      let (buf, localBase) ← s.circRange base (count * slot)
      .ok (s.modifyMe fun h => h.setCirc d.toNat
        { init := true, base, buf, localBase, slot := BitVec.ofNat 24 slot, count := BitVec.ofNat 8 count,
          free := BitVec.ofNat 8 count, filled := 0, held := 0, p := 0, c := 0 })

/-- What CBWAIT, CBREL and CBSTAT ask of the hart. -/
def Hart.circUses (h : Hart) (d a : Reg) : Uses :=
  { regs := [⟨2, d, isScalar d⟩, ⟨0, a, h.isCirc a⟩], vown := true, dests := [(.x, d)], commits := true }

def execCbwait (d a : Reg) (s : State) : Host.Outcome State Fault Refusal :=
  issue s (s.me.circUses d a) fun s =>
    let b := s.me.circ a.toNat
    if !b.init then raise s causeIllegal s.wordVal
    else if b.filled = 0 then .error (.wait (.cbwait (a.setWidth 4)) s)
    else
      .ok (s.modifyMe fun h =>
        (h.setCirc a.toNat
          { b with filled := b.filled - 1, held := b.held + 1, c := BitVec.ofNat 8 ((b.c.toNat + 1) % b.count.toNat) }).produceX
          d (b.base + word (b.c.toNat * b.slot.toNat)))

def execCbrel (d a : Reg) (b : Src) (s : State) : Host.Outcome State Fault Refusal :=
  issue s
    { s.me.circUses d a with
      len := srcBytes b
      regs := [⟨2, d, isScalar d⟩, ⟨0, a, s.me.isCirc a⟩] ++ srcField isScalar b
      sources := srcSource .x b } fun s =>
    let q := s.me.circ a.toNat
    if !q.init then raise s causeIllegal s.wordVal
    else if s.circReads a.toNat then .error (.wait (.cbrel (a.setWidth 4)) s)
    else
      let n := min (s.me.srcWord b).toNat q.held.toNat
      .ok (s.modifyMe fun h =>
        (h.setCirc a.toNat { q with held := q.held - BitVec.ofNat 8 n, free := q.free + BitVec.ofNat 8 n }).writeX d (word n))

def execCbstat (d a : Reg) (s : State) : Host.Outcome State Fault Refusal :=
  issue s (s.me.circUses d a) fun s =>
    let b := s.me.circ a.toNat
    let x := 2 ^ 63 + b.slot.toNat * 2 ^ 32 + b.count.toNat * 2 ^ 24 + b.held.toNat * 2 ^ 16 + b.filled.toNat * 2 ^ 8
      + b.free.toNat
    .ok (s.modifyMe fun h => h.produceX d (if b.init then word x else 0))

end Sys2Proof.Machine
end

