-- ==== Sys2Proof/Machine/Sync.lean ====
section
/-!
DEFINITION. Synchronisation: sync objects, fences, watermarks, barriers, notify registers and promise cells
(R275-R300), and what a hart leaves behind when it ends (R280, R288, R298).

Acts are in one total order and an access performs at its place in it, so releases and acquires order nothing more
(log 2).
-/

namespace Sys2Proof.Machine

/-! ### Harts by identity -/

/-- Where a hart is resident. -/
def State.findHart (s : State) (id : BitVec 48) : Option (CoreId × CtxId) :=
  (allCores.flatMap fun c => (List.finRange 5).map fun x => (c, x)).find? fun p =>
    s.status p.1 p.2 != .free && (s.hart p.1 p.2).id == id

/-- A resident hart changed. -/
def State.modifyHartOf (s : State) (id : BitVec 48) (f : Hart → Hart) : State :=
  match s.findHart id with
  | some (c, x) => s.setHart c x (f (s.hart c x))
  | none => s

/-! ### The waiter pool (R279) -/

/-- Entries of the pool of a slice that are taken. -/
def Device.pooled (d : Device) (slice : SliceId) : Nat :=
  let here (pa : Nat) : Bool := d.homeOf pa == slice
  (d.acqWaiters.filter fun w => !w.polls && w.granted.isNone && here w.pa).length
    + (d.barWaiters.filter fun w => !w.polls && here w.pa).length
    + (d.promiseWaiters.filter fun w => !w.polls && here w.root).length

/-- The pool of an address's home slice is full. -/
def Device.poolIsFull (d : Device) (pa : Nat) : Bool := decide (4096 ≤ d.pooled (d.homeOf pa))

/-- The address of a synchronisation instruction, aligned and at home: its physical address (R277, R286). -/
def State.syncHome (s : State) (align : Nat) (va : Word) : Except Stop (Nat × State) :=
  if !isAligned align va then raise s causeAlign va
  else
    match s.rmwPlace .memory va with
    | .error e => .error e
    | .ok (pa, _, s) => .ok (pa, s)

/-- An rmw that a slice or a polling core makes on behalf of the hart that acts: on a poisoned line or in a lost frame its
launch is fenced instead (R135, R136). -/
def State.onBehalf (s : State) (pa : Nat) (f : State → State) : State :=
  if s.dev.isPoisoned pa || s.dev.isLost pa then s.fenceLaunch s.me.link.launch causeFenced else f s

/-- A push of the hart that acts is still on its way into a region that it has bound to an object: a release of the object
covers it (R278, R317). -/
def State.boundPushes (s : State) (object : Word) : Bool :=
  let bound := s.me.bindings.filter (·.object == object)
  s.dev.outgoing.any fun o => match o with
    | .push _ q _ _ va n _ => q.core == s.cur.core && q.hart == s.me.id &&
        bound.any fun b => overlap b.base.toNat b.length.toNat va.toNat n
    | _ => false

/-! ### Sync objects (R277-R281) -/

/-- The object at an address is held by a hart. -/
def State.isHolder (s : State) (pa : Nat) (id : BitVec 48) : Bool :=
  let w := s.getWord pa
  bitAt w 63 && fieldOf w 0 48 == id.toNat

/-- BOOST of an object is the highest priority of its waiters (R277, R281). -/
def State.setBoost (s : State) (pa : Nat) : State :=
  let ws := s.dev.acqWaiters.filter fun w => w.pa == pa && w.granted.isNone
  s.putWord pa (setField (s.getWord pa) 56 3 (ws.foldl (fun m w => max m w.prio.toNat) 0))

/-- A hart takes an object: HELD and HOLDER; ABANDONED is cleared, and was the D of its ACQ. -/
def State.giveObject (s : State) (pa : Nat) (id : BitVec 48) : State :=
  let w := s.getWord pa
  (s.putWord pa (setField (setBit (setBit w 62 false) 63 true) 0 48 id.toNat)).modifyDev fun d =>
    { d with held := (id, pa) :: d.held.filter (·.2 != pa) }

/-- An object becomes free, or its first queued waiter's (R279, R280). -/
def State.freeObject (s : State) (pa : Nat) (abandoned : Bool) : State :=
  let s := if abandoned then s.putWord pa (setBit (s.getWord pa) 62 true) else s
  let first (w : Waiter) : Bool := w.pa == pa && w.granted.isNone && !w.polls
  match s.dev.acqWaiters.find? first with
  | some w =>
    let d := bitAt (s.getWord pa) 62
    let grant (w : Waiter) : Waiter := { w with granted := some d }
    ((s.giveObject pa w.hart).modifyDev fun dev =>
      { dev with acqWaiters := modifyFirst first grant dev.acqWaiters }).setBoost pa
  | none =>
    ((s.putWord pa (setBit (s.getWord pa) 63 false)).modifyDev fun dev =>
      { dev with held := dev.held.filter (·.2 != pa) }).setBoost pa

/-- An object released by REL or EXIT: VERSION advances. -/
def State.releaseObject (s : State) (pa : Nat) : State :=
  (s.putWord (pa + 8) (s.getWord (pa + 8) + 1)).freeObject pa false

/-- The entries of the hart that acts leave the queue of an object. -/
def State.unqueueAcq (s : State) (pa : Nat) : State :=
  let mine (w : Waiter) : Bool := w.hart == s.me.id && w.pa == pa
  if s.dev.acqWaiters.any mine then
    (s.modifyDev fun d => { d with acqWaiters := d.acqWaiters.filter fun w => !mine w }).setBoost pa
  else s

/-- A grant of an object that its home slice has made to the hart that acts, and that has not reached it (R301). -/
def State.grantOnWay (s : State) (pa : Nat) : Option Bool :=
  (s.dev.acqWaiters.find? fun w => w.hart == s.me.id && w.pa == pa && w.granted.isSome).bind (·.granted)

/-- The grant of an object that has reached the hart that acts (R279). -/
def Hart.grantOf (h : Hart) (va : Word) : Option Word := (h.grant.filter (·.1 == va)).map (·.2)

/-- The hart that acts joins the queue of an object, unless it stands there. -/
def State.queueAcq (s : State) (va : Word) (pa : Nat) : State :=
  if s.dev.acqWaiters.any (fun w => w.hart == s.me.id && w.pa == pa) then s
  else
    (s.modifyDev fun d =>
      { d with acqWaiters := d.acqWaiters ++
          [{ hart := s.me.id, pa, va, prio := s.me.link.prio, polls := d.poolIsFull pa, granted := none }] }).setBoost pa

/-- ACQ (R279): a grant of its object that has been made to the hart completes it (R301). -/
def execAcq (d a : Reg) (fa : Bool) (s : State) : Host.Outcome State Fault Refusal :=
  issue s
    { regs := [⟨2, d, isScalar d⟩, ⟨0, a, isAddress a⟩]
      sources := [⟨0, .x, a, fa⟩]
      dests := [(.x, d)]
      commits := true
      orders := true } fun s =>
    let va := s.me.readX a
    match s.me.grantOf va with
    | some g => .ok (s.modifyMe fun h => ({ h with grant := none } : Hart).writeX d g)
    | none =>
      match s.syncHome 16 va with
      | .error e => .error e
      | .ok (pa, s) =>
        match s.grantOnWay pa with
        | some g => .ok ((s.unqueueAcq pa).modifyMe fun h => h.writeX d (wordOfBool g))
        | none =>
          if s.isHolder pa s.me.id then raise s causeIllegal va
          else if bitAt (s.getWord pa) 63 then .error (.wait (.acq va pa) (s.queueAcq va pa))
          else
            let g := wordOfBool (bitAt (s.getWord pa) 62)
            .ok (((s.unqueueAcq pa).giveObject pa s.me.id).modifyMe fun h => h.writeX d g)

/-- REL (R279): a SYSTEM release of the bound regions, and of what the matrix unit has still to read (R317, R326). -/
def execRel (a : Reg) (fa : Bool) (s : State) : Host.Outcome State Fault Refusal :=
  issue s
    { regs := [⟨0, a, isAddress a⟩], sources := [⟨0, .x, a, fa⟩], commits := true, orders := true, releases := some false } fun s =>
    let va := s.me.readX a
    match s.syncHome 16 va with
    | .error e => .error e
    | .ok (pa, t) =>
      if !t.isHolder pa t.me.id then raise t causeIllegal va
      else if s.boundPushes va then .error (.wait (.release true) s)
      else .ok (t.releaseObject pa)

/-- ACQ_GRANT (R279): the grant at the home slice reaches its waiter. -/
def execAcqGrant (core : CoreId) (ctx : UserCtx) (s : State) : Host.Outcome State Fault Refusal :=
  let x := userId ctx
  let id := (s.hart core x).id
  let mine (w : Waiter) : Bool := w.hart == id && w.granted.isSome
  match s.dev.acqWaiters.find? mine with
  | some w =>
    if s.status core x = .free then .next s
    else
      .next ((s.modifyDev fun d => { d with acqWaiters := eraseFirst mine d.acqWaiters }).setHart core x
        { s.hart core x with grant := w.granted.map fun g => (w.va, wordOfBool g) })
  | none => .next s

/-- BIND (R278). -/
def execBind (d a : Reg) (b : Src) (fa : Bool) (s : State) : Host.Outcome State Fault Refusal :=
  issue s
    { len := srcBytes b
      regs := [⟨2, d, isAddress d⟩, ⟨0, a, isAddress a⟩] ++ srcField isScalar b
      sources := ⟨0, .x, a, fa⟩ :: srcSource .x b ++ [⟨2, .x, d, false⟩]
      commits := true } fun s =>
    let h := s.me
    let e : Binding := { object := h.readX d, base := h.readX a, length := h.srcWord b }
    let same (o : Binding) : Bool := o.object == e.object && o.base == e.base
    if e.length = 0 ∨ 2 ^ 40 < e.length.toNat then raise s causeIllegal e.length
    else if h.bindings.any same then
      .ok (s.modifyMe fun h => { h with bindings := h.bindings.map fun o => if same o then e else o })
    else if 16 ≤ h.bindings.length then raise s causeIllegal e.object
    else .ok (s.modifyMe fun h => { h with bindings := h.bindings ++ [e] })

/-- UNBIND (R278). -/
def execUnbind (d a : Reg) (fa : Bool) (s : State) : Host.Outcome State Fault Refusal :=
  issue s
    { regs := [⟨2, d, isAddress d⟩, ⟨0, a, isAddress a⟩]
      sources := [⟨0, .x, a, fa⟩, ⟨2, .x, d, false⟩]
      commits := true } fun s =>
    .ok (s.modifyMe fun h =>
      { h with bindings := h.bindings.filter fun o => !(o.object == h.readX d && o.base == h.readX a) })

/-! ### Fences (R282) -/

/-- A fence that releases: the strip is committed, and every access that it covers at VCFG.SCOPE has performed (R317,
R326).  A full fence also orders the hart's earlier reads before what follows (R305). -/
def releaseFence (orders : Bool) (s : State) : Host.Outcome State Fault Refusal :=
  issue s { commits := true, orders, releases := some s.me.systemScope } fun s => .ok s

def execFenceFull (s : State) : Host.Outcome State Fault Refusal := releaseFence true s
def execFenceRel (s : State) : Host.Outcome State Fault Refusal := releaseFence false s
def execFenceAcq (s : State) : Host.Outcome State Fault Refusal := issue s { commits := true, orders := true } fun s => .ok s
def execFenceIfetch (s : State) : Host.Outcome State Fault Refusal :=
  issue s { commits := true } fun s => .ok (s.modifyMe fun h => { h with blocks := [] })

/-! ### Watermarks (R283-R285) -/

/-- What WMLINK and the launch descriptor require of a link descriptor. -/
def Watermark.valid (w : Watermark) : Bool :=
  isAligned 8 w.word && [1, 2, 4, 8].contains w.unit.toNat && w.limit.toNat % w.unit.toNat == 0

/-- A watermark field. -/
def isWatermark (r : Reg) : Bool := isBelow 8 r

def execWmlink (d a : Reg) (fa : Bool) (s : State) : Host.Outcome State Fault Refusal :=
  issue s
    { regs := [⟨2, d, isWatermark d⟩, ⟨0, a, isAddress a⟩]
      sources := [⟨0, .x, a, fa⟩]
      commits := true } fun s =>
    let va := s.me.readX a
    if !isAligned 32 va then raise s causeWmlinkbad va
    else
      match s.loadWords .memory 4 va with
      | .error e => .error e
      | .ok (ws, s) =>
        let at_ (n : Nat) : Word := (ws[n]?).getD 0
        let w : Watermark := { word := at_ 0, base := at_ 1, limit := at_ 2, unit := at_ 3 }
        if w.valid then .ok (s.modifyMe fun h => { h with w := vset h.w d.toNat w }) else raise s causeWmlinkbad va

/-- WMPUB (R284). -/
def execWmpub (d : Reg) (b : Src) (s : State) : Host.Outcome State Fault Refusal :=
  issue s
    { len := srcBytes b
      regs := [⟨2, d, isWatermark d⟩] ++ srcField isScalar b
      sources := srcSource .x b
      commits := true
      orders := true
      releases := some s.me.systemScope } fun s =>
    let w := (vget s.me.w d.toNat {}).word
    let n := (s.me.srcWord b).toNat
    if w = 0 then raise s causeWmlinkbad 0
    else
      match s.rmwPlace .memory w with
      | .error e => .error e
      | .ok (pa, old, s) => .ok (if old < n then s.putWord pa n else s)

/-- WATERMARK_RELEASE (R285): a waiting element's word has passed its count. -/
def execWatermarkRelease (core : CoreId) (ctx : UserCtx) (s : State) : Host.Outcome State Fault Refusal :=
  match s.status core (userId ctx) with
  | .waiting (.watermark w n) =>
    if s.watermarkPassed core (userId ctx) w n then .next (s.setStatus core (userId ctx) .running) else .next s
  | _ => .next s

/-! ### Barriers (R286-R288) -/

/-- A phase completes whenever POISON is clear and every member has arrived. -/
def State.settleBarrier (s : State) (pa : Nat) : State :=
  let members := s.getWord pa
  if !bitAt (s.getWord (pa + 24)) 0 && decide (0 < members) && s.getWord (pa + 8) == members then
    ((s.putWord (pa + 16) (s.getWord (pa + 16) + 1)).putWord (pa + 8) 0).modifyDev fun d =>
      { d with barWaiters := d.barWaiters.filter (·.pa != pa) }
  else s

/-- One member leaves; with none left POISON and ARRIVED are cleared. -/
def State.leaveBarrier (s : State) (pa : Nat) (arrived : Bool) : State :=
  let s := s.putWord pa (s.getWord pa - 1)
  let s := if arrived then s.putWord (pa + 8) (s.getWord (pa + 8) - 1) else s
  let s := if s.getWord pa = 0 then (s.putWord (pa + 24) (setBit (s.getWord (pa + 24)) 0 false)).putWord (pa + 8) 0 else s
  s.settleBarrier pa

/-- The entry of a barrier in a membership table. -/
def Hart.membership (h : Hart) (va : Word) : Option Membership := h.barriers.find? (·.va == va)

/-- The hart that acts leaves the barrier of an entry of its table (R287). -/
def State.leaveMember (s : State) (m : Membership) (pa : Nat) : State :=
  ((s.leaveBarrier pa (m.gen.toNat == s.getWord (pa + 16))).modifyDev fun d =>
    { d with
      members := d.members.filter fun e => !(e.hart == s.me.id && e.va == m.va)
      barWaiters := d.barWaiters.filter fun w => !(w.hart == s.me.id && w.pa == pa) }).modifyMe fun h =>
    { h with barriers := h.barriers.filter (·.va != m.va) }

def execBarjoin (d a : Reg) (fa : Bool) (s : State) : Host.Outcome State Fault Refusal :=
  issue s
    { regs := [⟨2, d, isScalar d⟩, ⟨0, a, isAddress a⟩]
      sources := [⟨0, .x, a, fa⟩]
      dests := [(.x, d)]
      commits := true
      orders := true } fun s =>
    let va := s.me.readX a
    match s.syncHome 32 va with
    | .error e => .error e
    | .ok (pa, s) =>
      if bitAt (s.getWord (pa + 24)) 0 then raise s causeBarbroke va
      else if (s.me.membership va).isSome then .ok (s.modifyMe fun h => h.writeX d 1)
      else if 8 ≤ s.me.barriers.length then raise s causeIllegal va
      else
        let gen := word (s.getWord (pa + 16)) - 1
        let s := (s.putWord pa (s.getWord pa + 1)).modifyDev fun dev =>
          { dev with members := dev.members ++ [{ hart := s.me.id, va, pa }] }
        .ok ((s.modifyMe fun h =>
          ({ h with barriers := h.barriers ++ [{ va, gen, pending := false }] } : Hart).writeX d 0).settleBarrier pa)

/-- The entry of a barrier replaced. -/
def Hart.setMembership (h : Hart) (m : Membership) : Hart :=
  { h with barriers := h.barriers.map fun e => if e.va == m.va then m else e }

/-- The arrival of a member at the present generation. -/
def State.arriveAt (s : State) (m : Membership) (pa : Nat) : State × Membership :=
  let gen := word (s.getWord (pa + 16))
  let m' : Membership := { m with gen, pending := true }
  if m.gen = gen then (s.modifyMe (·.setMembership m'), m')
  else
    (((s.putWord (pa + 8) (s.getWord (pa + 8) + 1)).settleBarrier pa).modifyMe (·.setMembership m'), m')

/-- The hart that acts waits in the pool for a barrier. -/
def State.queueBar (s : State) (va : Word) (pa : Nat) : State :=
  if s.dev.barWaiters.any (fun w => w.hart == s.me.id && w.pa == pa) then s
  else
    s.modifyDev fun d =>
      { d with barWaiters := d.barWaiters ++
          [{ hart := s.me.id, pa, va, prio := s.me.link.prio, polls := d.poolIsFull pa, granted := none }] }

/-- BAR (R287): an arrival already made is not made twice (R276). -/
def execBar (d a : Reg) (fa : Bool) (s : State) : Host.Outcome State Fault Refusal :=
  issue s
    { regs := [⟨2, d, isScalar d⟩, ⟨0, a, isAddress a⟩]
      sources := [⟨0, .x, a, fa⟩]
      dests := [(.x, d)]
      commits := true
      orders := true
      releases := some s.me.systemScope } fun s =>
    let va := s.me.readX a
    match s.syncHome 32 va with
    | .error e => .error e
    | .ok (pa, s) =>
      match s.me.membership va with
      | none => raise s causeIllegal va
      | some m =>
        let finish (s : State) (m : Membership) : State :=
          s.modifyMe fun h => (h.setMembership { m with pending := false }).writeX d (m.gen + 1)
        if m.pending && s.getWord (pa + 16) != m.gen.toNat then .ok (finish s m)
        else if bitAt (s.getWord (pa + 24)) 0 then
          raise (s.modifyMe (·.setMembership { m with pending := false })) causeBarbroke va
        else
          let (s, m) := if m.pending then (s, m) else s.arriveAt m pa
          if s.getWord (pa + 16) ≠ m.gen.toNat then .ok (finish s m)
          else .error (.wait (.bar va pa m.gen) (s.queueBar va pa))

def execBarleave (a : Reg) (fa : Bool) (s : State) : Host.Outcome State Fault Refusal :=
  issue s { regs := [⟨0, a, isAddress a⟩], sources := [⟨0, .x, a, fa⟩], commits := true, orders := true } fun s =>
    let va := s.me.readX a
    match s.syncHome 32 va with
    | .error e => .error e
    | .ok (pa, s) =>
      match s.me.membership va with
      | none => .ok s
      | some m => .ok (s.leaveMember m pa)

/-! ### Notify registers (R289, R290) -/

/-- NOTIFY (R289). -/
def execNotify (a : Reg) (b : Src) (fa : Bool) (s : State) : Host.Outcome State Fault Refusal :=
  issue s
    { len := srcBytes b
      regs := [⟨0, a, isG a⟩] ++ srcField isScalar b
      sources := ⟨0, .x, a, fa⟩ :: srcSource .x b
      commits := true
      orders := true
      releases := some s.me.systemScope } fun s =>
    let t := (s.me.readX a).toNat
    let core := fieldOf t 0 9
    if 384 ≤ core ∨ fieldOf t 9 7 ≠ 0 ∨ fieldOf t 20 44 ≠ 0 then raise s causeIllegal (word t)
    else .ok (s.notifyWrite core (fieldOf t 16 4) (s.me.srcWord b))

/-- WAITN (R290): waiting harts are served in arrival order. -/
def execWaitn (d a : Reg) (s : State) : Host.Outcome State Fault Refusal :=
  issue s { regs := [⟨2, d, isScalar d⟩, ⟨0, a, isBelow 16 a⟩], dests := [(.x, d)], commits := true } fun s =>
    let n := a.toNat
    let c := s.cur.core
    let x := vget s.myCore.notify n 0
    let mine (w : NotifyWaiter) : Bool := w.core == c && w.hart == s.me.id
    let first := (s.dev.notifyWaiters.find? fun w => w.core == c && w.register.toNat == n).all mine
    if x ≠ 0 ∧ first then
      .ok (((s.modifyCore c fun k => { k with notify := vset k.notify n 0 }).modifyDev fun dev =>
        { dev with notifyWaiters := dev.notifyWaiters.filter fun w => !mine w }).modifyMe fun h => h.writeX d x)
    else
      let w : NotifyWaiter := { core := c, hart := s.me.id, register := BitVec.ofNat 4 n }
      let s := if s.dev.notifyWaiters.contains w then s
        else s.modifyDev fun dev => { dev with notifyWaiters := dev.notifyWaiters ++ [w] }
      .error (.wait (.waitn (BitVec.ofNat 4 n)) s)

/-! ### Promise cells (R291-R300) -/

/-- A cell as a root search finds it: its VA, its home address and its meta word. -/
structure Cell where
  va : Word
  pa : Nat
  m : Nat
  deriving DecidableEq, Repr

def metaState (m : Nat) : Nat := fieldOf m 0 2
def metaRank (m : Nat) : Nat := fieldOf m 2 6
def metaLink (m : Nat) : Word := word (fieldOf m 8 51 * 16)

/-- A meta word (R291). -/
def metaWord (state rank : Nat) (link : Word) : Nat := state + rank % 64 * 4 + fieldOf link.toNat 4 51 * 256

/-- A cell visited: translated for the promise agent, its meta word checked (R292). -/
def State.visitCell (s : State) (va : Word) : Except Stop (Cell × State) :=
  match s.rmwPlace .promise va with
  | .error e => .error e
  | .ok (pa, _, s) =>
    let m := s.getWord (pa + 8)
    if metaState m = 3 ∨ 2 ^ 59 ≤ m then raise s causeFenced va else .ok ({ va, pa, m }, s)

/-- Find (R293), with path halving.  A search of more than `fuel` relinks goes on in the hart's next cycle. -/
def State.findRoot : Nat → State → Word → Except Stop (Cell × State)
  | 0, s, _ => .error (.stall s.stall)
  | fuel + 1, s, va =>
    match s.visitCell va with
    | .error e => .error e
    | .ok (c, s) =>
      if metaState c.m ≠ 1 then .ok (c, s)
      else
        match s.visitCell (metaLink c.m) with
        | .error e => .error e
        | .ok (p, s) =>
          if metaState p.m ≠ 1 then .ok (p, s)
          else (s.putWord (c.pa + 8) (metaWord 1 (metaRank c.m) (metaLink p.m))).findRoot fuel (metaLink p.m)

/-- Relinks of one root search within a step of the model. -/
def searchFuel : Nat := 65536

/-- Find of an instruction's cell operand. -/
def State.find (s : State) (va : Word) : Except Stop (Cell × State) :=
  if !isAligned 16 va then raise s causeAlign va else s.findRoot searchFuel va

/-- A cell is the root of a FULL class. -/
def Cell.full (c : Cell) : Bool := metaState c.m == 2

/-- A pending PWAIT of a hart completes with a value (R298).  It was issued before the open strip, to whose checkpoint the
value belongs. -/
def Hart.completePromise (h : Hart) (cell : Word) (dest : Reg) (x : Word) : Hart :=
  ({ h with
      promises := eraseFirst (fun p => p.cell == cell && p.dest == dest) h.promises
      checkpoint := { h.checkpoint with x := if dest = 0 then h.checkpoint.x else vset h.checkpoint.x dest.toNat x } } :
    Hart).writeX dest x

/-- Every waiter queued at a root completes with its value (R296, R297). -/
def State.wakePromise (s : State) (root : Nat) : State :=
  let x := word (s.getWord root)
  let woken := s.dev.promiseWaiters.filter fun w => w.root == root && !w.polls
  (woken.foldl (fun s w => s.modifyHartOf w.hart fun h => h.completePromise w.cell w.dest x) s).modifyDev fun d =>
    { d with promiseWaiters := d.promiseWaiters.filter fun w => !(w.root == root && !w.polls) }

/-- What a promise instruction with a cell in A asks of the hart. -/
def promiseUses (d a : Reg) (fa : Bool) : Uses :=
  { regs := [⟨2, d, isScalar d⟩, ⟨0, a, isAddress a⟩]
    sources := [⟨0, .x, a, fa⟩]
    dests := [(.x, d)]
    commits := true
    orders := true }

def execPinit (a : Reg) (fa : Bool) (s : State) : Host.Outcome State Fault Refusal :=
  issue s { regs := [⟨0, a, isAddress a⟩], sources := [⟨0, .x, a, fa⟩], commits := true, orders := true } fun s =>
    let va := s.me.readX a
    if !isAligned 16 va then raise s causeAlign va
    else
      match s.rmwPlace .promise va with
      | .error e => .error e
      | .ok (pa, _, s) => .ok ((s.putWord pa 0).putWord (pa + 8) 0)

/-- PFILL (R297). -/
def execPfill (d a : Reg) (b : Src) (fa : Bool) (s : State) : Host.Outcome State Fault Refusal :=
  issue s
    { promiseUses d a fa with
      len := srcBytes b
      regs := [⟨2, d, isScalar d⟩, ⟨0, a, isAddress a⟩] ++ srcField isScalar b
      sources := ⟨0, .x, a, fa⟩ :: srcSource .x b
      releases := some s.me.systemScope } fun s =>
    let va := s.me.readX a
    let x := s.me.srcWord b
    if s.boundPushes va then .error (.wait (.release true) s)
    else
    match s.find va with
    | .error e => .error e
    | .ok (c, s) =>
      if !c.full then
        .ok ((((s.putWord c.pa x.toNat).putWord (c.pa + 8) (metaWord 2 (metaRank c.m) 0)).wakePromise c.pa).modifyMe
          fun h => h.writeX d 0)
      else if s.getWord c.pa = x.toNat then .ok (s.modifyMe fun h => h.writeX d 1)
      else raise s causeConffill va

/-- The classes of two different roots united (R296). -/
def State.unite (s : State) (x y : Cell) : State :=
  let xFirst := decide (metaRank y.m < metaRank x.m) || (metaRank x.m == metaRank y.m && decide (x.va < y.va))
  let root := if xFirst then x else y
  let other := if xFirst then y else x
  let rank := if metaRank x.m = metaRank y.m then min 63 (metaRank root.m + 1) else metaRank root.m
  let fills := other.full && !root.full
  let s := if fills then s.putWord root.pa (s.getWord other.pa) else s
  let s := s.putWord (root.pa + 8) (metaWord (if root.full || fills then 2 else 0) rank 0)
  let s := s.putWord (other.pa + 8) (metaWord 1 (metaRank other.m) root.va)
  let move (w : PromiseWaiter) : PromiseWaiter := if w.root = other.pa then { w with root := root.pa } else w
  let s := s.modifyDev fun d => { d with promiseWaiters := d.promiseWaiters.map move }
  if root.full || fills then s.wakePromise root.pa else s

/-- PEQ (R296). -/
def execPeq (d a b : Reg) (fa fb : Bool) (s : State) : Host.Outcome State Fault Refusal :=
  issue s
    { promiseUses d a fa with
      regs := [⟨2, d, isScalar d⟩, ⟨0, a, isAddress a⟩, ⟨1, b, isAddress b⟩]
      sources := [⟨0, .x, a, fa⟩, ⟨1, .x, b, fb⟩] } fun s => do
    let va := s.me.readX a
    let vb := s.me.readX b
    require (isAligned 16 va) s causeAlign va
    require (isAligned 16 vb) s causeAlign vb
    let (_, s) ← s.find va
    let (y, s) ← s.find vb
    let (x, s) ← s.find va
    if x.pa = y.pa then .ok (s.modifyMe fun h => h.writeX d 1)
    else if x.full && y.full && s.getWord x.pa != s.getWord y.pa then raise s causeConffill va
    else .ok ((s.unite x y).modifyMe fun h => h.writeX d 0)

/-- A scalar register emptied, with nothing on the way to it but a pending PWAIT (R298). -/
def Hart.emptyX (h : Hart) (r : Reg) : Hart := if r = 0 then h else { h with full := setFlag h.full r.toNat false }

/-- A PWAIT of the hart that acts registered at a root, or polling from its core. -/
def State.registerPromise (s : State) (cell : Word) (root : Nat) (dest : Reg) : State :=
  (s.modifyDev fun d =>
    { d with promiseWaiters := d.promiseWaiters ++ [{ hart := s.me.id, cell, root, dest, polls := d.poolIsFull root }] }).modifyMe
    fun h => ({ h with promises := h.promises ++ [{ cell, dest }] } : Hart).emptyX dest

/-- PWAIT (R298, R299). -/
def execPwait (d a : Reg) (fa : Bool) (s : State) : Host.Outcome State Fault Refusal :=
  issue s (promiseUses d a fa) fun s =>
    let va := s.me.readX a
    if 8 ≤ s.me.promises.length then .error (.wait .promises s)
    else
      match s.find va with
      | .error e => .error e
      | .ok (c, s) =>
        if c.full then .ok (s.modifyMe fun h => h.writeX d (word (s.getWord c.pa)))
        else .ok (s.registerPromise va c.pa d)

/-- PTEST (R300). -/
def execPtest (d a : Reg) (fa : Bool) (s : State) : Host.Outcome State Fault Refusal :=
  issue s (promiseUses d a fa) fun s =>
    match s.find (s.me.readX a) with
    | .error e => .error e
    | .ok (c, s) => .ok (s.modifyMe fun h => h.writeX d (wordOfBool c.full))

/-! ### Polling (R279, R298) -/

/-- The hart that acts leaves every queue in which it waits (R276), and the boosts that it gave end (R281); an object
already granted to it stays held. -/
def State.leaveQueues (s : State) : State :=
  let id := s.me.id
  let objects := (s.dev.acqWaiters.filter fun w => w.hart == id && w.granted.isNone).map (·.pa)
  let s := s.modifyDev fun d =>
    { d with
      acqWaiters := d.acqWaiters.filter fun w => w.hart != id
      barWaiters := d.barWaiters.filter fun w => w.hart != id
      notifyWaiters := d.notifyWaiters.filter fun w => !(w.hart == id && w.core == s.cur.core) }
  objects.foldl (fun s pa => s.onBehalf pa (·.setBoost pa)) s

/-- A root search for a pending PWAIT of the hart that acts, outside its instructions: a poisoned line, or a meta word that
R292 rejects, fences its launch (R123, R136, R292).  Any other fault is answered with its trap. -/
def State.searchFor (s : State) (p : PendingPromise) : Except (Option Trap × State) (Cell × State) :=
  match s.findRoot searchFuel p.cell with
  | .ok r => .ok r
  | .error (.trap t s) =>
    .error (if t.cause = causeFenced then (none, s.fenceLaunch s.me.link.launch causeFenced) else (some t, s))
  | .error _ => .error (none, s)

/-- A trap that reaches the hart that acts between two instructions: it leaves the queues in which it waits, and goes on
after RTE where it stood (R301, log 80).  A hart that firmware serves, or that has a trap due, does not take it now. -/
def State.interruptWith (s : State) (t : Trap) : State :=
  let able := s.me.trapDue.isNone && s.me.gang != .parked && match s.status s.cur.core s.cur.ctx with
    | .running | .waiting _ => true
    | _ => false
  if able then s.leaveQueues.takeTrap { t with epc := none, elt := word s.me.eltDone, row := BitVec.ofNat 5 s.me.rowDone } else s

/-- A polling PWAIT of the hart that acts looks at its class; a fault of its search is raised (R301). -/
def State.pollPromise (s : State) (p : PendingPromise) : State :=
  let mine (w : PromiseWaiter) : Bool := w.hart == s.me.id && w.cell == p.cell && w.dest == p.dest && w.polls
  if s.dev.promiseWaiters.any mine then
    match s.searchFor p with
    | .ok (c, s) =>
      if c.full then
        (s.modifyMe fun h => h.completePromise p.cell p.dest (word (s.getWord c.pa))).modifyDev fun d =>
          { d with promiseWaiters := eraseFirst mine d.promiseWaiters }
      else s
    | .error (none, s) => s
    | .error (some t, s) => s.interruptWith t
  else s

/-- A polling ACQ of the hart that acts looks at its object. -/
def State.pollAcq (s : State) : State :=
  let mine (w : Waiter) : Bool := w.hart == s.me.id && w.polls && w.granted.isNone
  match s.dev.acqWaiters.find? mine with
  | some w => s.onBehalf w.pa fun s =>
    let s := s.count (.main w.pa)
    if bitAt (s.getWord w.pa) 63 then s
    else
      let g := wordOfBool (bitAt (s.getWord w.pa) 62)
      (((s.giveObject w.pa s.me.id).modifyDev fun d => { d with acqWaiters := eraseFirst mine d.acqWaiters }).setBoost
        w.pa).modifyMe fun h => { h with grant := some (w.va, g) }
  | none => s

/-- WAITER_POLL (R279). -/
def execWaiterPoll (core : CoreId) (ctx : UserCtx) (s : State) : Host.Outcome State Fault Refusal :=
  let x := userId ctx
  if s.status core x = .free then .next s
  else
    let t := (s.actingAs core x).pollAcq
    .next { t.me.promises.foldl State.pollPromise t with cur := s.cur }

/-! ### What a hart leaves behind (R280, R288, R298, R299) -/

/-- The trap that is due at this instruction boundary: one whose entry waits for the strip (R394), then CANCELLED (R372),
then FENCED (R417).  A GANG that completes with a status comes first, and a parked hart of a fused pair takes none (R214,
R449). -/
def Hart.dueTrap (h : Hart) : Option Trap :=
  match h.trapDue with
  | some t => some t
  | none =>
    if h.verdict.isSome || h.gang == .parked then none
    else
      match h.cancelled with
      | some id => some { cause := causeCancelled, val := id }
      | none => if h.fenceDue then some { cause := causeFenced } else none

/-- The due trap is taken, and no longer due. -/
def Hart.clearDue (h : Hart) : Hart :=
  if h.trapDue.isSome then h
  else
    match h.cancelled with
    | some _ => { h with cancelled := none }
    | none => { h with fenceDue := false }

/-- The hart that acts takes the trap that is due: it leaves the queues in which it waits. -/
def State.takeDue (s : State) (t : Trap) : State := (s.leaveQueues.modifyMe Hart.clearDue).takeTrap t

/-- The pending PWAITs of the hart that acts withdraw their registrations. -/
def State.withdrawPromises (s : State) : State :=
  s.modifyDev fun d => { d with promiseWaiters := d.promiseWaiters.filter (·.hart != s.me.id) }

/-- An object that the hart that acts may hold: released by EXIT, abandoned by any other end (R280). -/
def State.endHolding (s : State) (exited : Bool) (pa : Nat) : State :=
  if s.isHolder pa s.me.id then s.onBehalf pa fun s => if exited then s.releaseObject pa else s.freeObject pa true
  else s.modifyDev fun d => { d with held := d.held.filter fun e => !(e.1 == s.me.id && e.2 == pa) }

/-- A barrier of the hart that acts: poisoned unless it exits, then left (R288). -/
def State.endMember (s : State) (exited : Bool) (e : Member) : State :=
  match s.me.membership e.va with
  | none => s
  | some m => s.onBehalf e.pa fun s =>
    let s := if exited then s else s.putWord (e.pa + 24) (setBit (s.getWord (e.pa + 24)) 0 true)
    s.leaveMember m e.pa

/-- The synchronisation of a hart that ends. -/
def State.endSync (s : State) (exited : Bool) : State :=
  let id := s.me.id
  let s := s.withdrawPromises.leaveQueues
  let s := ((s.dev.held.filter (·.1 == id)).map (·.2)).foldl (fun s pa => s.endHolding exited pa) s
  let s := (s.dev.members.filter (·.hart == id)).foldl (fun s e => s.endMember exited e) s
  s.modifyMe fun h => { h with promises := [], grant := none }

end Sys2Proof.Machine
end

