-- ==== Sys2Proof/Machine/Fabric.lean ====
section
/-!
DEFINITION. Fabric collectives (R320-R325): XRED, XBAR, XWAIT, the root slice, and the poison of a group.

A packet to a root on this device travels until XRED_PACKET_ARRIVAL; what roots on other devices do here comes with
that step from outside (log 1).
-/

namespace Sys2Proof.Machine

/-! ### Descriptors (R320) -/

/-- A group descriptor as its eight words. -/
structure Group where
  words : List Nat
  deriving DecidableEq, Repr

def Group.at (g : Group) (j : Nat) : Nat := (g.words[j]?).getD 0
def Group.root (g : Group) : Word := word (g.at 0)
def Group.rootDevice (g : Group) : BitVec 16 := BitVec.ofNat 16 (fieldOf (g.at 1) 48 16)
def Group.index (g : Group) : Nat := fieldOf (g.at 1) 32 16
def Group.op (g : Group) : Nat := fieldOf (g.at 1) 8 4
def Group.log2p (g : Group) : Nat := fieldOf (g.at 1) 0 4
def Group.result (g : Group) : Word := word (g.at 2)
def Group.gen (g : Group) : Word := word (g.at 3)
def Group.status (g : Group) : Nat := fieldOf (g.at 4) 0 2

/-- What R322 requires of a descriptor's fields. -/
def Group.valid (g : Group) : Bool :=
  fieldOf (g.at 1) 12 20 == 0 && fieldOf (g.at 1) 4 4 == 0 && fieldOf (g.at 4) 2 62 == 0
    && g.at 5 == 0 && g.at 6 == 0 && g.at 7 == 0
    && decide (g.op < 8) && decide (g.index < 2 ^ g.log2p)

/-- A descriptor read as a load of 64 bytes on memory pages. -/
def State.readGroup (s : State) (va : Word) : Except Stop (Group × State) :=
  match s.place .memory .load va with
  | .error e => .error e
  | .ok p =>
    match s.readImage .memory va 64 with
    | .error e => .error e
    | .ok x => .ok ({ words := wordsOf 64 8 x }, s.count p)

/-! ### Combination (R323) -/

/-- A code of R227 FN 0-7 combines floats. -/
def isFloatCode (op : Nat) : Bool := op == 1 || op == 4 || op == 5

/-- The format of a packet's elements. -/
def packetFmt (p : XPacket) : Fmt :=
  match p.sew.toNat with
  | 1 => if p.bf then .bf16 else .fp16
  | 2 => .fp32
  | _ => .fp64

/-- Bits of a packet's elements. -/
def packetWidth (p : XPacket) : Nat := 8 * 2 ^ p.sew.toNat

/-- Two present values combined; float additions round RNE. -/
def packetCombine (p : XPacket) (x y : Nat) : Nat :=
  match p.op.toNat with
  | 0 => (x + y) % 2 ^ packetWidth p
  | 1 => addBits (packetFmt p) .nearest x y
  | 2 => maxSigned (packetWidth p) x y
  | 3 => minSigned (packetWidth p) x y
  | 4 => maxBits (packetFmt p) x y
  | 5 => minBits (packetFmt p) x y
  | 6 => x &&& y
  | _ => x ||| y

/-- The identity of a combination; +0 for the float sum. -/
def packetIdentity (p : XPacket) : Nat :=
  match p.op.toNat with
  | 2 => 2 ^ (packetWidth p - 1)
  | 3 => 2 ^ (packetWidth p - 1) - 1
  | 4 => (packetFmt p).nan
  | 5 => (packetFmt p).nan
  | 6 => 2 ^ packetWidth p - 1
  | _ => 0

/-- The packets disagree in KIND, OP, SEW, BF or n. -/
def packetDisagrees (p q : XPacket) : Bool :=
  p.barrier != q.barrier || p.op != q.op || p.sew != q.sew || p.bf != q.bf || p.n != q.n

/-- The first packet of each INDEX: those that a root holds. -/
def heldPackets (ps : List XPacket) : List XPacket :=
  ps.foldl (fun held p => if held.any (fun q => q.index == p.index) then held else held ++ [p]) []

/-- The value that participant d contributes to element i. -/
def contribution (held : List XPacket) (d i : Nat) : Option Nat :=
  match held.find? fun p => p.index.toNat == d with
  | some p => (p.values[i]?).getD none
  | none => none

/-- Free choices that one element's tree may take. -/
def treeChoices : Nat := 131072

/-- A NaN result of a float code is canonical, a lone contribution's included (R323). -/
def canonicalResult (p : XPacket) (x : Nat) : Nat :=
  if isFloatCode p.op.toNat && ((packetFmt p).value x).isNaN then (packetFmt p).nan else x

/-- The results of a generation over 2^k participants; without DET a float sum is some tree over the values. -/
def State.combined (s : State) (k : Nat) (held : List XPacket) (p : XPacket) : List Nat :=
  (List.range p.n).map fun i =>
    let xs := (List.range (2 ^ k)).map fun d => contribution held d i
    let present := xs.filterMap id
    canonicalResult p
      (if held.any (·.det) || p.op.toNat != 1 || present.length ≤ 1 then
        (halvingSum (fun _ x y => packetCombine p x y) k xs).getD (packetIdentity p)
      else treeSum (packetCombine p) (fun j => s.pick (treeChoices * i + j)) present.length present)

/-! ### What a root writes (R323) -/

/-- The launches of the harts that await a packet's generation on its descriptor. -/
def State.awaiting (s : State) (p : XPacket) : List Word :=
  let harts := s.cores.toList.flatMap (fun k => (k.ctxs.toList.filter (·.status != .free)).map (·.hart)) ++
    s.dev.switchedOut.map (·.hart)
  (harts.filter fun h => h.link.root == p.trRoot && h.arrivals.any fun m => m.va == p.descriptor && m.gen == p.generation).map
    (·.link.launch)

/-- What a root does for a participant has met a poisoned line or a lost frame: the participant's launch is fenced (R123,
R135, R136). -/
def State.fenceAwaiting (s : State) (p : XPacket) : State :=
  (s.awaiting p).foldl (fun s l => s.fenceLaunch l causeFenced) s

/-- The result written at RESULT of a participant of this device.  A page that does not translate is left alone; where the
walk meets a poisoned entry, the participant's launch is fenced. -/
def State.writeResult (s : State) (p : XPacket) (n x : Nat) : State :=
  let place (r : Word × Nat × Nat) := translate s.dev p.trRoot 0 false .memory .store r.1
  let t := s.performStores ((runsOf p.result n).filterMap fun r =>
    (place r).toOption.map fun q => (q, r.2.2, x / 2 ^ (8 * r.2.1) % 2 ^ (8 * r.2.2)))
  if (runsOf p.result n).any fun r => match place r with
      | .error c => c == causeFenced
      | .ok _ => false
  then t.fenceAwaiting p else t

/-- GEN and STATUS of a participant's descriptor on this device, as rmw. -/
def State.writeStatus (s : State) (p : XPacket) (status : Nat) : State :=
  match translate s.dev p.trRoot 0 false .memory .rmw p.descriptor with
  | .ok (.main pa) =>
    if s.dev.isPoisoned pa || s.dev.isLost pa then s.fenceAwaiting p
    else
      s.modifyDev fun d =>
        (d.store (pa + 24) 8 p.generation.toNat).store (pa + 32) 8 (setField (d.load (pa + 32) 8) 0 2 status)
  | .error c => if c = causeFenced then s.fenceAwaiting p else s
  | .ok _ => s

/-- Results sent to a participant; one whose device cannot be reached gets none. -/
def State.sendResults (s : State) (p : XPacket) (res : List Nat) : State :=
  let n := p.n * packetWidth p / 8
  if res.isEmpty then s
  else if p.device = s.dev.devnum then s.writeResult p n (ofWords (packetWidth p) res)
  else if s.dev.reaches p.device then
    s.modifyDev fun d => { d with outgoing := d.outgoing ++ [.xresult p n (ofWords (packetWidth p) res)] }
  else s

/-- The completion of a generation sent to a participant. -/
def State.sendStatus (s : State) (status : Nat) (p : XPacket) : State :=
  if p.device = s.dev.devnum then s.writeStatus p status
  else s.modifyDev fun d => { d with outgoing := d.outgoing ++ [.xstatus p.device p.descriptor p.generation status] }

/-- Results are on their way to a participant of those listed. -/
def Device.resultsAway (d : Device) (ps : List XPacket) : Bool :=
  d.outgoing.any fun o => match o with
    | .xresult p _ _ => ps.contains p
    | _ => false

/-- A generation completes for the senders listed: every result is written before any GEN (R323). -/
def State.finishPackets (s : State) (ps : List XPacket) (status : Nat) (res : List Nat) : State :=
  let s := ps.foldl (State.sendResults · · res) s
  if s.dev.resultsAway ps then s.modifyDev fun d => { d with xfinishing := d.xfinishing ++ [{ packets := ps, status }] }
  else ps.foldl (State.sendStatus · status ·) s

/-- Generations whose results have all been written show in GEN. -/
def State.settleFinishing (s : State) : State :=
  let whole (f : XFinish) : Bool := !s.dev.resultsAway f.packets
  (s.dev.xfinishing.filter whole).foldl (fun s f => f.packets.foldl (State.sendStatus · f.status ·) s)
    (s.modifyDev fun d => { d with xfinishing := d.xfinishing.filter fun f => !whole f })

/-- Results on their way to a participant. -/
def isResultOf (p : XPacket) : Outgoing → Bool
  | .xresult q _ _ => q == p
  | _ => false

/-- The results sent to the participant of a packet have been written. -/
def State.resultWritten (s : State) (p : XPacket) : State :=
  (s.modifyDev fun d => { d with outgoing := eraseFirst (isResultOf p) d.outgoing }).settleFinishing

/-- Another device has been fenced (R174, R324): what was on its way there is not waited for. -/
def State.deviceFenced (s : State) (device : BitVec 16) : State :=
  (s.modifyDev fun d =>
    { d with
      fencedDevices := if d.fencedDevices.contains device then d.fencedDevices else d.fencedDevices ++ [device]
      outgoing := d.outgoing.filter fun o => match o with
        | .xresult p _ _ => p.device != device
        | _ => true }).settleFinishing

/-- A generation of a group is completed. -/
def Device.markDone (d : Device) (root : Nat) (gen : Word) : Device :=
  { d with
    xgroups := d.xgroups.filter fun g => !(g.root == root && g.gen == gen)
    xdone := if d.xdone.contains (root, gen) then d.xdone else d.xdone ++ [(root, gen)] }

/-- A generation that has a packet for every index completes (R323).  A root descriptor that cannot be read fences the
launches of the participants of this device. -/
def State.completeGeneration (s : State) (g : XGeneration) : State :=
  let k := fieldOf (s.getWord (g.root + 8)) 0 4
  let held := heldPackets g.packets
  if s.dev.isPoisoned g.root || s.dev.isLost g.root then
    (g.packets.filter (·.device == s.dev.devnum)).foldl State.fenceAwaiting s
  else if (List.range (2 ^ k)).all fun d => held.any fun p => p.index.toNat == d then
    let s := s.modifyDev (·.markDone g.root g.gen)
    match held with
    | [] => s
    | p :: _ =>
      if held.length < g.packets.length || held.any (packetDisagrees p) then s.finishPackets g.packets 1 []
      else (s.finishPackets g.packets 0 (s.combined k held p)).takeFresh
  else s

/-- A packet joins its generation. -/
def Device.addPacket (d : Device) (root : Nat) (p : XPacket) : Device :=
  if d.xgroups.any fun g => g.root == root && g.gen == p.generation then
    let add (g : XGeneration) : XGeneration := { g with packets := g.packets ++ [p] }
    { d with xgroups := modifyFirst (fun g => g.root == root && g.gen == p.generation) add d.xgroups }
  else { d with xgroups := d.xgroups ++ [{ root, gen := p.generation, packets := [p] }] }

/-- The home address of a group's root descriptor. -/
def State.rootHome (s : State) (trRoot root : Word) : Except (BitVec 8) Nat :=
  match translate s.dev trRoot 0 false .memory .rmw root with
  | .ok (.main pa) => .ok pa
  | .ok _ => .error causeAccess
  | .error c => .error c

/-- A packet reaches the root slice (R323, R325).  Where the walk to the root meets a poisoned entry, the sender's launch is
fenced (R123). -/
def State.arrive (s : State) (p : XPacket) : State :=
  match s.rootHome p.trRoot p.root with
  | .error c => if c = causeFenced then s.fenceAwaiting p else s
  | .ok root =>
    if s.dev.poisonedGroups.contains root then
      (s.modifyDev (·.markDone root p.generation)).finishPackets [p] 2 []
    else if s.dev.xdone.contains (root, p.generation) then s.finishPackets [p] 1 []
    else
      let s := s.modifyDev (·.addPacket root p)
      match s.dev.xgroups.find? fun g => g.root == root && g.gen == p.generation with
      | some g => s.completeGeneration g
      | none => s

/-- A group is poisoned: the generations it holds complete with STATUS 2 (R325). -/
def State.poisonGroup (s : State) (root : Nat) : State :=
  let open_ := s.dev.xgroups.filter (·.root == root)
  let s := s.modifyDev fun d =>
    { d with poisonedGroups := if d.poisonedGroups.contains root then d.poisonedGroups else d.poisonedGroups ++ [root] }
  open_.foldl (fun s g => (s.modifyDev (·.markDone root g.gen)).finishPackets g.packets 2 []) s

/-- A packet of this device on its way. -/
def isPacket (p : XPacket) : Outgoing → Bool
  | .packet _ q => q == p
  | _ => false

/-- A packet of this device to the root's device, while it is on its way. -/
def State.takePacket (s : State) (p : XPacket) (here : Bool) : Option State :=
  if s.dev.outgoing.any fun o => isPacket p o && (match o with
      | .packet device _ => (device == s.dev.devnum) == here
      | _ => false)
  then some (s.modifyDev fun d => { d with outgoing := eraseFirst (isPacket p) d.outgoing })
  else none

/-- The packets of this device to a root elsewhere that are on their way, of those listed. -/
def State.takePackets (s : State) : List XPacket → List XPacket × State
  | [] => ([], s)
  | p :: ps =>
    match s.takePacket p false with
    | none => s.takePackets ps
    | some s =>
      let (qs, s) := s.takePackets ps
      (p :: qs, s)

/-- A generation completed by a root elsewhere: every result before any GEN. -/
def State.completedElsewhere (s : State) (ps : List XPacket) (status : Nat) (results : List Nat) : State :=
  let (qs, s) := s.takePackets ps
  s.finishPackets qs status results

/-- The walk to the root of a packet's group ends at no memory page, and at no poisoned entry: the packet stays on its way
(log 36). -/
def State.rootAway (s : State) (p : XPacket) : Bool :=
  match s.rootHome p.trRoot p.root with
  | .error c => c != causeFenced
  | .ok _ => false

/-- The device and the root of a group that is to be poisoned: as its descriptor names them, or given. -/
def State.groupRoot (s : State) (e : GroupPoison) : Except (BitVec 8) (BitVec 16 × Word) :=
  if !e.byDescriptor then .ok (s.dev.devnum, e.va)
  else
    match translate s.dev e.trRoot 0 false .memory .load e.va with
    | .ok (.main pa) =>
      if s.dev.isPoisoned pa then .error causeFenced
      else .ok (BitVec.ofNat 16 (fieldOf (s.getWord (pa + 8)) 48 16), word (s.getWord pa))
    | .ok _ => .error causeAccess
    | .error c => .error c

/-- A group is poisoned at its root here, or its root's device is told; where the descriptor or the root cannot be reached
now, it is kept for later (R325), and a poisoned line or entry met on the way fences the launch (R123, R136). -/
def State.settlePoison (s : State) (e : GroupPoison) : State :=
  let later (c : BitVec 8) : State :=
    (if c = causeFenced then s.fenceLaunch e.launch causeFenced else s).modifyDev fun d =>
      { d with poisonDue := if d.poisonDue.contains e then d.poisonDue else d.poisonDue ++ [e] }
  let done : State := s.modifyDev fun d => { d with poisonDue := d.poisonDue.filter (· != e) }
  match s.groupRoot e with
  | .error c => later c
  | .ok (device, root) =>
    if device = s.dev.devnum then
      match s.rootHome e.trRoot root with
      | .ok pa => done.poisonGroup pa
      | .error c => later c
    else done.modifyDev fun d => { d with outgoing := d.outgoing ++ [.xpoison device root] }

/-- XRED_PACKET_ARRIVAL (R323). -/
def execXredPacketArrival (message : XMessage) (s : State) : Host.Outcome State Fault Refusal :=
  match message with
  | .packet p =>
    if s.rootAway p then .next s
    else if p.device = s.dev.devnum then .next (((s.takePacket p true).map (·.arrive p)).getD s)
    else .next (s.arrive p)
  | .complete ps status results => .next (s.completedElsewhere ps status.toNat results)
  | .poison root trRoot => .next (s.settlePoison { byDescriptor := false, va := root, trRoot, launch := 0 })
  | .poisonRetry => .next (s.dev.poisonDue.foldl State.settlePoison s)
  | .written p => .next (s.resultWritten p)
  | .fenced device => .next (s.deviceFenced device)

/-! ### Arrivals (R322) -/

/-- The entry of a descriptor. -/
def Hart.arrival (h : Hart) (va : Word) : Option Arrival := h.arrivals.find? (·.va == va)

/-- XWAIT removes the pending mark of a descriptor's entry, which stays in the table (R324, R325). -/
def Hart.unmarkArrival (h : Hart) (va : Word) : Hart :=
  { h with arrivals := h.arrivals.map fun m => if m.va == va then { m with pending := false } else m }

/-- The arrival recorded: in its descriptor's entry, in a free one, or in the first that is not pending any more. -/
def State.recordArrival (s : State) (m : Arrival) : State :=
  s.modifyMe fun h =>
    if h.arrivals.any (·.va == m.va) then { h with arrivals := h.arrivals.map fun e => if e.va == m.va then m else e }
    else if h.arrivals.length < 8 then { h with arrivals := h.arrivals ++ [m] }
    else { h with arrivals := eraseFirst (s.arrivalDone s.cur.core s.cur.ctx) h.arrivals ++ [m] }

/-- Whether an arrival on a descriptor must wait (R322). -/
def State.arrivalWait (s : State) (va : Word) : Option Wait :=
  let done := s.arrivalDone s.cur.core s.cur.ctx
  match s.me.arrival va with
  | some m =>
    if done m then none
    else
      match s.locate .memory .load va with
      | .ok (.main pa) => some (.xwait va pa m.gen)
      | _ => some .arrivals
  | none => if 8 ≤ s.me.arrivals.length && !s.me.arrivals.any done then some .arrivals else none

/-- The checks of an arrival, in their order, and the descriptor. -/
def State.checkArrival (s : State) (va : Word) : Except Stop (Group × State) :=
  match s.readGroup va with
  | .error e => .error e
  | .ok (g, s) =>
    match s.place .memory .store g.result with
    | .error e => .error e
    | .ok _ =>
      if !isAligned 64 va then raise s causeAlign va
      else if !isAligned 64 g.result then raise s causeAlign g.result
      else if !g.valid then raise s causeIllegal (word (g.at 1))
      else .ok (g, s)

/-- The packet of XBAR from a descriptor; XRED adds its reduction. -/
def State.barrierPacket (s : State) (va : Word) (g : Group) : XPacket :=
  { root := g.root, trRoot := s.root, device := s.dev.devnum, descriptor := va, result := g.result
    index := BitVec.ofNat 16 g.index, generation := g.gen + 1, barrier := true, op := 0, sew := 0, bf := false, n := 0
    det := false, values := [] }

/-- The arrival is recorded and its packet sent. -/
def State.sendPacket (s : State) (g : Group) (p : XPacket) : State :=
  (s.recordArrival { va := p.descriptor, gen := p.generation }).modifyDev fun d =>
    { d with outgoing := d.outgoing ++ [.packet g.rootDevice p] }

/-- XRED (R322). -/
def execXred (d a : Reg) (b : Src) (fa : Bool) (s : State) : Host.Outcome State Fault Refusal :=
  issue s
    { len := srcBytes b
      regs := [⟨2, d, isAddress d⟩, ⟨0, a, s.me.isVector a⟩] ++ srcField isScalar b
      vown := true
      sources := ⟨0, .v, a, fa⟩ :: srcSource .x b ++ [⟨2, .x, d, false⟩]
      reads := [a]
      commits := true
      releases := some true } fun s =>
    let va := s.me.readX d
    let n := (s.me.srcWord b).toNat
    match s.checkArrival va with
    | .error e => .error e
    | .ok (g, s) =>
      if min s.me.vlmaxSew 4096 < n then raise s causeIllegal (word n)
      else if s.me.sewCode == 0 && isFloatCode g.op then raise s causeIllegal s.wordVal
      else
        match s.arrivalWait va with
        | some w => .error (.wait w s)
        | none =>
          s.withWhole s.me.masked [a] fun xs s =>
            let h := s.me
            let x := s.contentBits xs a (n * h.sew)
            .ok ((s.takeContent a).sendPacket g
              { s.barrierPacket va g with
                barrier := false
                op := BitVec.ofNat 4 g.op
                sew := BitVec.ofNat 2 h.sewCode
                bf := h.bf
                n := n
                det := h.det
                values := (List.range n).map fun i => if h.masked i then some (elem h.sew x i) else none })

/-- XBAR (R322). -/
def execXbar (d : Reg) (s : State) : Host.Outcome State Fault Refusal :=
  issue s
    { regs := [⟨2, d, isAddress d⟩], sources := [⟨2, .x, d, false⟩], commits := true, releases := some true } fun s =>
    let va := s.me.readX d
    match s.checkArrival va with
    | .error e => .error e
    | .ok (g, s) =>
      match s.arrivalWait va with
      | some w => .error (.wait w s)
      | none => .ok (s.sendPacket g (s.barrierPacket va g))

/-- XWAIT (R324). -/
def execXwait (d a : Reg) (fa : Bool) (s : State) : Host.Outcome State Fault Refusal :=
  issue s
    { regs := [⟨2, d, isScalar d⟩, ⟨0, a, isAddress a⟩]
      sources := [⟨0, .x, a, fa⟩]
      dests := [(.x, d)]
      commits := true } fun s =>
    let va := s.me.readX a
    match s.readGroup va with
    | .error e => .error e
    | .ok (g, s) =>
      match (s.me.arrival va).filter (·.pending) with
      | none => .ok (s.modifyMe fun h => h.writeX d (word g.status))
      | some m =>
        if m.gen.toNat ≤ g.gen.toNat then
          let s := s.modifyMe fun h => h.unmarkArrival va
          if g.status = 2 then raise s causeBarbroke va else .ok (s.modifyMe fun h => h.writeX d (word g.status))
        else if !(g.rootDevice == s.dev.devnum || s.dev.reaches g.rootDevice) then raise s causeFenced va
        else
          match s.locate .memory .load va with
          | .ok (.main pa) => .error (.wait (.xwait va pa m.gen) s)
          | _ => .error (.stall s)

/-! ### The end of a hart (R325) -/

/-- The group of an arrival of the hart that acts is poisoned. -/
def State.poisonArrival (s : State) (m : Arrival) : State :=
  s.settlePoison { byDescriptor := true, va := m.va, trRoot := s.root, launch := s.me.link.launch }

/-- The arrivals of a hart that ends: EXIT leaves the groups unpoisoned. -/
def State.endFabric (s : State) (exited : Bool) : State :=
  (if exited then s else s.me.arrivals.foldl State.poisonArrival s).modifyMe fun h => { h with arrivals := [] }

end Sys2Proof.Machine
end

