-- ==== Sys2Proof/Machine/VectorConfig.lean ====
section
/-!
DEFINITION. The tile and its configuration (R184-R193, R198), gang pairs (R199-R202).
-/

namespace Sys2Proof.Machine

/-! ### VLMAX (R29, R185) -/

/-- VLMAX(64-bit) from lanes, partition and name count (R29). -/
def vlmaxOf (lanes : Nat) (part : Part) (n : Nat) : Nat := lanes * 512 / (part.inverse * (2 * n))

/-- VLMAX(64-bit) of a hart as LANEMAP and the gang state stand; the firmware context owns no partition (R24). -/
def State.vlmaxNow (s : State) (c : CoreId) (x : CtxId) : Nat :=
  if x = 4 then 0
  else
    let h := s.hart c x
    vlmaxOf (s.hartLanes c h) h.link.part h.names.toNat

/-- VLMAX(64-bit) of the hart that acts, now. -/
def State.myVlmax (s : State) : Nat := s.vlmaxNow s.cur.core s.cur.ctx

/-- Vector registers and masks at hart start (R25): m0 all ones over every linear index. -/
def VecState.cleared (vs : VecState) (vlmax : Nat) : VecState :=
  { vs with
    v := Vector.replicate 64 0
    m := (Vector.replicate 8 0).set 0 (2 ^ (8 * vlmax) - 1) }

/-- The vector state cleared (R186): registers, masks, vl, bindings, and VSTAT; the effective VLMAX is fixed. -/
def Hart.clearVector (h : Hart) (vlmax : Nat) : Hart :=
  { h with
    vec := h.vec.cleared vlmax
    vfull := BitVec.allOnes 64
    vl := 0
    vlmax := BitVec.ofNat 16 vlmax
    streams := h.streams.map fun t => { t with bound := none }
    shrunk := false
    reloc := false }

/-- The hart of a context with its vector state cleared under its present N. -/
def State.clearVectorOf (s : State) (c : CoreId) (x : CtxId) : State :=
  s.setHart c x ((s.hart c x).clearVector (s.vlmaxNow c x))

/-! ### VCONF to VCFGRD -/

/-- A configuration instruction: D in scalar use, B as a 64-bit value. -/
def configUses (d : Reg) (b : Src) : Uses :=
  { len := srcBytes b
    regs := [⟨2, d, isScalar d⟩] ++ srcField isScalar b
    sources := srcSource .x b
    dests := [(.x, d)] }

/-- VCONF (R186). -/
def execVconf (d : Reg) (b : Src) (s : State) : Host.Outcome State Fault Refusal :=
  issue s { configUses d b with vown := true, commits := true } fun s =>
    let n := s.me.srcWord b
    if n = 8 ∨ n = 16 ∨ n = 32 ∨ n = 64 then
      let s := s.modifyMe fun h => { h with names := n.setWidth 7 }
      let s := s.clearVectorOf s.cur.core s.cur.ctx
      .ok (s.modifyMe fun h => h.writeX d (word s.myVlmax))
    else raise s causeIllegal n

/-- Whether VSETL would shrink the tile (R187). -/
def State.wouldShrink (s : State) : Bool := decide (s.myVlmax < s.me.vlmax.toNat)

/-- The shrink of R198: what lies beyond the new VLMAX reads as zero. -/
def Hart.shrink (h : Hart) (vmax : Nat) : Hart :=
  { h with
    vec := { h.vec with
      v := h.vec.v.map fun x => x % 2 ^ (64 * vmax)
      m := h.vec.m.map fun x => x % 2 ^ (8 * vmax) }
    shrunk := true }

/-- vl as VSETL grants it (R30, R187): the request, the tile and the power grant. -/
def State.grantedVl (s : State) (n : Word) : Nat :=
  let h := s.me
  min n.toNat (min (s.myVlmax * 64 / h.sew / h.vrows.toNat) (s.myCore.grant.toNat * 64 / h.sew))

/-- Wakes of the lane groups that the tile reaches: one that is gated is requested, and one in hold stays powered (R383,
R393). -/
def State.wakeTile (s : State) : State := s.wakeGroups (s.tileGroups s.cur.core s.me)

/-- VSETL (R187). -/
def execVsetl (d : Reg) (b : Src) (s : State) : Host.Outcome State Fault Refusal :=
  issue s { configUses d b with vown := s.wouldShrink } fun s =>
    let n := s.me.srcWord b
    let vmax := s.myVlmax
    let vl := s.grantedVl n
    let s := s.modifyMe fun h =>
      let h := if vmax < h.vlmax.toNat then h.shrink vmax else h
      { h with vlmax := BitVec.ofNat 16 vmax, reloc := false, vl := BitVec.ofNat 32 vl }
    .ok (s.wakeTile.modifyMe fun h => h.writeX d (word vl))

/-- VSETR (R189). -/
def execVsetr (d : Reg) (b : Src) (s : State) : Host.Outcome State Fault Refusal :=
  issue s (configUses d b) fun s =>
    let n := s.me.srcWord b
    if 1 ≤ n.toNat ∧ n.toNat ≤ 32 then
      .ok (s.modifyMe fun h => ({ h with vrows := n.setWidth 6, vl := 0 } : Hart).writeX d (word h.vrows.toNat))
    else raise s causeIllegal n

/-- The checks of a VCFG image (R28, R190): the cause where it is rejected. -/
def vcfgFault (x : Word) (srhEnabled : Bool) : Option (BitVec 8) :=
  if x.toNat / 2 ^ 11 ≠ 0 ∨ bitAt x.toNat 3 then some causeIllegal
  else if 6 ≤ fieldOf x.toNat 8 3 ∨ 6 ≤ fieldOf x.toNat 4 3 then some causeIllegal
  else if fieldOf x.toNat 8 3 = 5 ∧ !srhEnabled then some causePriv
  else none

/-- SRHEN.EN of a core. -/
def Core.srhEnabled (k : Core) : Bool := bitAt k.srhen.toNat 0

/-- VSETCFG (R190).  PRIV holds the word (R52), ILLEGAL the image (R28). -/
def execVsetcfg (d : Reg) (b : Src) (s : State) : Host.Outcome State Fault Refusal :=
  issue s (configUses d b) fun s =>
    let x := s.me.srcWord b
    match vcfgFault x s.myCore.srhEnabled with
    | some c => raise s c (if c = causePriv then s.wordVal else x)
    | none => .ok (s.modifyMe fun h =>
        let keeps := fieldOf h.vcfg.toNat 0 2 == fieldOf x.toNat 0 2
        ({ h with vcfg := x, vl := if keeps then h.vl else 0 } : Hart).writeX d h.vcfg)

/-- VSETST (R191). -/
def execVsetst (d : Reg) (b : Src) (s : State) : Host.Outcome State Fault Refusal :=
  issue s (configUses d b) fun s =>
    .ok (s.modifyMe fun h => ({ h with vst := h.srcWord b } : Hart).writeX d h.vst)

/-- VSTAT (R412). -/
def Hart.vstat (h : Hart) : Nat :=
  (if h.vlazy then 4 else 0) + (if h.reloc then 2 else 0) + (if h.shrunk then 1 else 0)

/-- The item that VCFGRD selects (R192). -/
def Hart.configItem (h : Hart) (sel : Reg) : Word :=
  match sel.toNat with
  | 0 => h.vcfg
  | 1 => word h.vl.toNat
  | 2 => word h.vrows.toNat
  | 3 => h.vst
  | 4 => word h.names.toNat
  | 5 => word h.vlmaxSew
  | 6 => word h.vstat
  | _ => if h.gang = .lower then 1 else 0

def execVcfgrd (d sel : Reg) (s : State) : Host.Outcome State Fault Refusal :=
  issue s { regs := [⟨2, d, isScalar d⟩], dests := [(.x, d)], commits := true } fun s =>
    .ok (s.modifyMe fun h => h.writeX d (h.configItem sel))

/-! ### VSAVE and VRESTORE (R193) -/

/-- What VSAVE and VRESTORE ask of the hart. -/
def imageUses (a : Reg) (fa : Bool) : Uses :=
  { regs := [⟨0, a, isAddress a⟩], sources := [⟨0, .x, a, fa⟩], vown := true, commits := true }

/-- VSAVE: V is the effective VLMAX, by which the registers hold their contents. -/
def execVsave (a : Reg) (fa : Bool) (s : State) : Host.Outcome State Fault Refusal :=
  issue s { imageUses a fa with orders := true } fun s =>
    let h := s.me
    let va := h.readX a
    if !isAligned 64 va then raise s causeAlign va
    else
      s.writeImage .memory va (vectorImageBytes h.vlmax.toNat h.names.toNat)
        (vectorImage h.vec h.vlmax.toNat h.names.toNat h.shrunk)

/-- A vector image read whole: its header first, then all of it, whose size the header gives. -/
def State.readVectorImage (s : State) (va : Word) : Except Stop (Nat × Option Word × State) :=
  match s.readImage .memory va 64 with
  | .error e => .error e
  | .ok hd =>
    match badHeader hd with
    | some w => .ok (hd, some w, s.countImage .memory va 64)
    | none =>
      let n := vectorImageBytes (fieldOf hd 128 64) (fieldOf hd 64 64)
      match s.readImage .memory va n with
      | .error e => .error e
      | .ok x => .ok (x, none, s.countImage .memory va n)

/-- The hart with a vector image in its registers. -/
def Hart.loadVector (h : Hart) (x vlmax : Nat) : Hart :=
  { h with
    names := BitVec.ofNat 7 (fieldOf x 64 64)
    vec := unpackVector x vlmax
    vfull := BitVec.allOnes 64
    vlmax := BitVec.ofNat 16 vlmax
    vl := 0
    streams := h.streams.map fun t => { t with bound := none }
    shrunk := h.shrunk || bitAt x 192 || decide (vlmax < fieldOf x 128 64) }

/-- VRESTORE: N comes from the image, and the effective VLMAX is fixed under it (R185). -/
def execVrestore (a : Reg) (fa : Bool) (s : State) : Host.Outcome State Fault Refusal :=
  issue s (imageUses a fa) fun s =>
    let va := s.me.readX a
    if !isAligned 64 va then raise s causeAlign va
    else
      match s.readVectorImage va with
      | .error e => .error e
      | .ok (_, some w, s) => raise s causeIllegal w
      | .ok (x, none, s) =>
        let s := s.modifyMe fun h => { h with names := BitVec.ofNat 7 (fieldOf x 64 64) }
        .ok (s.modifyMe fun h => h.loadVector x s.myVlmax)

/-! ### Gang pairs (R199-R202, R332) -/

/-- GANG is refused: a partition that is not whole, no partner of the same launch, or a ganged hart. -/
def State.gangRefused (s : State) : Bool :=
  let other := otherCore s.cur.core
  let h := s.me
  let p := s.hart other s.cur.ctx
  s.isFirmware || s.status other s.cur.ctx == .free || p.link.launch != h.link.launch
    || h.link.part != .whole || p.link.part != .whole || h.gang != .none || p.gang != .none

/-- Fusion of the harts of a user context number on the cores c and u of a pair (R200): N is the lower hart's. -/
def State.fuse (s : State) (c : CoreId) (x : CtxId) : State :=
  let u := upperCore c
  let lower := s.hart c x
  let upper := s.hart u x
  let s := s.setHart c x { lower with gang := .lower, soloNames := lower.names, partner := upper.id }
  let s := s.setHart u x { upper with gang := .parked, soloNames := upper.names }
  let s := s.clearVectorOf c x
  let s := s.setHart u x { (s.hart u x).clearVector upper.vlmax.toNat with streams := upper.streams, vlmax := upper.vlmax }
  ((s.resetAdvice c x).resetAdvice u x).setStatus u x (.waiting .parked)

/-- The parked hart is released with a status: where it is resident on the upper core, or in its switched-out record. -/
def State.releaseParked (s : State) (u : CoreId) (id : BitVec 48) (verdict : Word) : State :=
  let s := s.modifyCore u fun k =>
    { k with ctxs := k.ctxs.map fun t =>
        if t.hart.gang = .parked ∧ t.hart.id = id then
          { t with hart := { t.hart with gang := .none, names := t.hart.soloNames, verdict := some verdict } }
        else t }
  s.modifyDev fun d => { d with switchedOut := d.switchedOut.map fun o =>
    if o.id = id ∧ o.hart.gang = .parked then { o with hart := { o.hart with verdict := some verdict } } else o }

/-- The vector state of the released hart is cleared under its own N. -/
def State.clearReleased (s : State) (u : CoreId) (id : BitVec 48) : State :=
  (List.range 4).foldl (fun s i =>
    let x : CtxId := Fin.ofNat 5 i
    if (s.hart u x).id = id ∧ s.status u x ≠ .free then s.clearVectorOf u x else s) s

/-- The ganged hart of a context of a lower core separates from its parked partner (R201, R202). -/
def State.separate (s : State) (c : CoreId) (x : CtxId) (verdict : Word) : State :=
  let u := upperCore c
  let h := s.hart c x
  let s := s.setHart c x { h with gang := .none, names := h.soloNames }
  let s := s.clearVectorOf c x
  let s := (s.releaseParked u h.partner verdict).clearReleased u h.partner
  (s.resetAdvice c x).resetAdvice u x

/-- The parked hart of a pair is killed, and the pair ungangs (R202, R404): its partner, a hart of its own again, goes on
with its vector state cleared, resident or not (log 79). -/
def State.leavePartner (s : State) (u : CoreId) (id : BitVec 48) : State :=
  let c := lowerCore u
  let s := (List.range 4).foldl (fun s i =>
    let x : CtxId := Fin.ofNat 5 i
    if s.status c x ≠ .free ∧ (s.hart c x).gang = .lower ∧ (s.hart c x).partner = id then s.separate c x 2 else s) s
  s.modifyDev fun d => { d with switchedOut := d.switchedOut.map fun o =>
    if o.hart.gang = .lower ∧ o.hart.partner = id then
      { o with hart := { o.hart with gang := .none, names := o.hart.soloNames, split := true } }
    else o }

/-- What GANG asks of the hart.  On the upper core it goes on to wait while effects of the strip that it commits have
still to perform: the commit orders them before the hart's own later reads, and GANG orders no memory (R305, R448). -/
def State.gangUses (s : State) (d : Reg) : Uses :=
  { regs := [⟨2, d, isScalar d⟩], dests := [(.x, d)], vown := true, commits := true, parks := isUpper s.cur.core }

/-- GANG (R199): a rendezvous; the lower hart goes on, the upper one is parked. -/
def execGang (d : Reg) (s : State) : Host.Outcome State Fault Refusal :=
  issue s (s.gangUses d) fun s =>
    match s.me.verdict with
    | some v =>
      if s.me.strip.isEmpty then .ok (s.modifyMe fun h => { h with verdict := none }.writeX d v)
      else .error (.wait .strip s)
    | none =>
      if s.me.gang = .parked then .error (.wait .parked s)
      else if s.gangRefused then
        if s.me.strip.isEmpty then .ok (s.modifyMe fun h => h.writeX d 1) else .error (.wait .strip s)
      else if s.status (otherCore s.cur.core) s.cur.ctx = .waiting .gang then
        let c := lowerCore s.cur.core
        let t := s.fuse c s.cur.ctx
        if !isUpper s.cur.core then .ok (t.modifyMe fun h => h.writeX d 0)
        else .error (.wait .parked (t.setHart c s.cur.ctx { t.hart c s.cur.ctx with verdict := some 0 }))
      else .error (.wait .gang s)

/-- UNGANG (R201). -/
def execUngang (d : Reg) (s : State) : Host.Outcome State Fault Refusal :=
  issue s { regs := [⟨2, d, isScalar d⟩], dests := [(.x, d)], vown := true, commits := true } fun s =>
    if s.me.gang = .lower then .ok ((s.separate s.cur.core s.cur.ctx 0).modifyMe fun h => h.writeX d 0)
    else .ok (s.modifyMe fun h => h.writeX d 1)

end Sys2Proof.Machine
end

