-- ==== Sys2Proof/Machine/Residency.lean ====
section
/-!
DEFINITION. Residency: partition regions, the SLOTTAB that the device writes, books in the advice store, completion
records, switched-out contexts, and the end of a hart (R24, R331, R353, R361, R368, R374, R417).
-/

namespace Sys2Proof.Machine

/-! ### Regions of the register file (R24) -/

/-- Quarters that a partition takes. -/
def Part.quarters : Part → Nat
  | .whole => 4
  | .half => 2
  | .quarter => 1

/-- The first quarters of the regions of a size, lowest first. -/
def Part.regions : Part → List (Fin 4)
  | .whole => [0]
  | .half => [0, 2]
  | .quarter => [0, 1, 2, 3]

/-- Two regions share a quarter. -/
def regionsMeet (p : Part) (a : Fin 4) (q : Part) (b : Fin 4) : Bool := overlap a.val p.quarters b.val q.quarters

/-- A region holds nothing of a resident hart. -/
def Core.regionVacant (k : Core) (p : Part) (a : Fin 4) : Bool :=
  !k.ctxs.toList.any fun t => t.status != .free && regionsMeet p a t.hart.link.part t.hart.quarter

/-- The lazily owned regions that a region meets (R410). -/
def Core.lazyIn (k : Core) (p : Part) (a : Fin 4) : List LazyRegion :=
  k.lazyRegions.filter fun r => regionsMeet p a r.part r.quarter

/-- The lowest region of a size that is free, or owned lazily by a switched-out context (R410). -/
def Core.lowestRegion (k : Core) (p : Part) : Option (Fin 4) := p.regions.find? (k.regionVacant p)

/-- The region for a new hart: one that nobody owns, else one that is owned lazily (R360, R416). -/
def Core.regionFor (k : Core) (p : Part) : Option (Fin 4) :=
  match p.regions.find? fun a => k.regionVacant p a && (k.lazyIn p a).isEmpty with
  | some a => some a
  | none => k.lowestRegion p

/-! ### SLOTTAB at a change of residency (R368) -/

/-- A context in the smooth weighted round-robin: its code, weight and current credit. -/
structure Share where
  code : Nat
  weight : Nat
  credit : Int
  deriving DecidableEq, Repr

/-- The share with the largest credit; ties go to the lower code. -/
def bestShare : List Share → Option Share
  | [] => none
  | x :: xs => match bestShare xs with
    | none => some x
    | some y => if y.credit ≤ x.credit then some x else some y

/-- n entries of a smooth weighted round-robin. -/
def roundRobin : Nat → List Share → List Nat
  | 0, _ => []
  | n + 1, xs =>
    let total : Int := ((xs.map (·.weight)).sum : Nat)
    let ys := xs.map fun x => { x with credit := x.credit + x.weight }
    match bestShare ys with
    | none => 7 :: roundRobin n xs
    | some b => b.code :: roundRobin n (ys.map fun y => if y.code = b.code then { y with credit := y.credit - total } else y)

/-- The table that the device forms for a core. -/
def Core.residentTable (k : Core) : Vector (BitVec 4) 32 :=
  let shares := (List.range 4).filterMap fun i =>
    let t := vget k.ctxs i {}
    if t.status = .free then none else some { code := i, weight := t.hart.link.slotw.toNat, credit := 0 : Share }
  let entries := roundRobin 31 shares
  Vector.ofFn fun i : Fin 32 => BitVec.ofNat 4 ((entries[i.val]?).getD 4)

/-- A change of residency on a core. -/
def State.residencyChanged (s : State) (c : CoreId) : State := s.modifyCore c fun k => { k with slottab := k.residentTable }

/-! ### Books (R331) -/

/-- Bytes of a book in the advice store. -/
def Book.bytes (b : Book) : Nat := 4 * b.code.length + 8 * b.index.length

/-- The books of a core leave room for another one. -/
def Core.bookFits (k : Core) (b : Book) : Bool := decide ((k.books.map Book.bytes).sum + b.bytes ≤ 65536)

/-- A launch's book on a core, if there is one and it fits; harts of one launch share a copy. -/
def Core.loadBook (k : Core) (b : Option Book) : Core :=
  match b with
  | none => k
  | some b =>
    if k.books.any fun o => o.launch == b.launch && o.version == b.version then k
    else if k.bookFits b then { k with books := k.books ++ [b] } else k

/-! ### Completion records (R353) -/

/-- HARTS are added to OUT at the four levels. -/
def Device.enterLaunch (d : Device) (l : LaunchLink) : Device :=
  { d with records :=
      (d.records.map fun r => if l.names r then { r with out := r.out + l.harts } else r)
        ++ (d.newRecords l).map fun p =>
          { level := p.1, id := p.2, job := l.job, out := l.harts, failed := 0, cancelled := false } }

/-! ### Switched-out contexts (R361) -/

/-- Whether a promise class is full, without relinking: a search of the cells from one of them. -/
def State.classFull (s : State) (root : Word) : Nat → Word → Bool
  | 0, _ => true
  | fuel + 1, va =>
    match translate s.dev root 0 false .promise .rmw va with
    | .ok (.main pa) =>
      let m := s.getWord (pa + 8)
      if metaState m = 1 then s.classFull root fuel (metaLink m) else metaState m == 2
    | _ => true

/-- The state in which a switched-out hart waits where it left. -/
def State.reseated (s : State) (o : SwitchedOut) (h : Hart) : State :=
  s.modifyCore o.core fun k => { k with ctxs := k.ctxs.set o.ctx.val { k.ctxs[o.ctx.val] with hart := h } }

/-- The wait that a switched-out context abandoned is over (R361): as it would be where it left.  What a home slice or an
engine does for a resident hart alone is looked up afresh: the grant or the state of an object, the notify register, the
cells of pending PWAITs, the condition word of an armed stream, and the partner's GANG. -/
def State.abandonedOver (s : State) (o : SwitchedOut) (w : Wait) : Bool :=
  let x := userId o.ctx
  let armed (i : StreamId) : Bool :=
    let t := (s.reseated o o.hart).actingAs o.core x
    let st := o.hart.stream i
    let h := if st.phase = .armed ∧ st.condFault.isNone then o.hart.setStream i (t.conditionRead st) else o.hart
    (s.reseated o h).waitOver o.core x w
  match w with
  | .acq va pa =>
    o.hart.grant.any (·.1 == va) || s.dev.acqWaiters.any (fun w => w.hart == o.id && w.pa == pa && w.granted.isSome)
      || !bitAt (s.getWord pa) 63
  | .waitn n => vget (s.core o.core).notify n.toNat 0 != 0
  | .promises => decide (o.hart.promises.length < 8) || o.hart.promises.any fun p => s.classFull o.link.root searchFuel p.cell
  | .swait i => armed i
  | .pop i => armed i
  | .gang => (s.reseated o o.hart).waitOver o.core x .gang || s.status (otherCore o.core) x == .waiting .gang
  | w => (s.reseated o o.hart).waitOver o.core x w

/-- A switched-out context could go on: a cancel or a fence that is due ends its wait (R276). -/
def State.couldRestore (s : State) (o : SwitchedOut) : Bool :=
  match o.wait with
  | none => true
  | some w => s.abandonedOver o w || ((o.hart.cancelled.isSome || o.hart.fenceDue) && w != .parked)

/-- A switched-out context is eligible for selection: no selection holds it already (R361). -/
def State.eligible (s : State) (o : SwitchedOut) : Bool := !o.selected && s.couldRestore o

/-- A queue has work, or a resident context; a context that a selection holds is eligible still (R361, R363). -/
def State.queueBusy (s : State) (q : QueueId) : Bool :=
  s.dev.pool.any (fun e => e.launch.link.queue == q) || s.dev.selected.any (fun e => e.launch.link.queue == q)
    || s.dev.unaccepted.any (·.1 == q)
    || s.dev.switchedOut.any (fun o => o.link.queue == q && s.couldRestore o)
    || s.cores.toList.any fun (k : Core) => k.ctxs.toList.any fun t => t.status != .free && t.hart.link.queue == q

/-- The deficit of every queue without work and without a resident context is 0 (R363). -/
def State.settleQueues (s : State) : State :=
  ((List.finRange 256).filter fun q => s.dev.queues[q.val].deficit != 0 && !s.queueBusy q).foldl
    (fun s q => s.modifyDev fun d => { d with queues := d.queues.set q.val { d.queues[q.val] with deficit := 0 } }) s

/-! ### The end of a hart (R280, R288, R325, R374, R404) -/

/-- Every slot of a hart on a core returns to the free list (R244). -/
def Core.releaseSlots (k : Core) (owner : BitVec 48) : Core := { k with slots := k.slots.filter (·.owner != owner) }

/-- Records of engine commands of a context are discarded with its commands (R417). -/
def Core.dropCommandRecords (k : Core) (x : CtxId) : Core :=
  let keep (r : Record) : Bool := match r.of with
    | .command _ => r.regs.stat.toNat % 8 != x.val
    | _ => true
  ({ k with ordinary := k.ordinary.filter keep, outside := k.outside.filter keep, inHand := k.inHand.filter keep } : Core).enqueue

/-- The addition of 1 at COMPL, or the report that it was not made (R374). -/
def State.addCompletion (s : State) (l : LaunchLink) : State :=
  let va := l.compl
  let fail (c : BitVec 8) : State := s.modifyDev (·.report 8 [l.launch, va, word c.toNat])
  if va = 0 then s
  else if !isAligned 8 va then fail causeAlign
  else
    match translate s.dev l.root 0 false .memory .rmw va with
    | .ok (.main pa) =>
      if s.dev.isPoisoned pa then fail causeFenced else s.putWord pa ((s.getWord pa + 1) % 2 ^ 64)
    | .ok _ => fail causeAccess
    | .error c => fail c

/-- The last hart of a launch has ended: its pieces and its book are free, and COMPL is added to. -/
def State.endLaunch (s : State) (l : LaunchLink) : State :=
  let free (k : Core) : Core :=
    { k with
      pieces := k.pieces.map fun p => if p.launch = l.launch then { p with launch := 0 } else p
      books := k.books.filter (·.launch != l.launch) }
  ({ s with
      cores := s.cores.map free
      dev := { s.dev with placed := s.dev.placed.filter (·.link.launch != l.launch) } } : State).addCompletion l

/-- One hart of a launch has ended. -/
def State.countHart (s : State) (l : LaunchLink) (failed : Bool) : State :=
  let s := s.modifyDev fun d =>
    { d.countEnded l 1 failed with
      placed := d.placed.map fun p => if p.link.launch = l.launch then { p with live := p.live - 1 } else p }
  if s.dev.placed.any (fun p => p.link.launch == l.launch && p.live == 0) then s.endLaunch l else s

/-- The context is free. -/
def State.freeContext (s : State) (c : CoreId) (x : CtxId) : State :=
  if h : x.val < 4 then
    (s.modifyCore c fun k =>
      { k with ctxs := k.ctxs.set x.val {}, advice := k.advice.set x.val {} }).residencyChanged c
  else s

/-- Regions that a hart owns lazily are free (R422). -/
def State.dropLazy (s : State) (owner : BitVec 48) : State :=
  { s with cores := s.cores.map fun k => { k with lazyRegions := k.lazyRegions.filter (·.owner != owner) } }

/-- The engines' work for the hart that acts is gone, so that what was left of its strip takes effect; additions at FLAG
that are due have no SWAIT to come (R241, R318, R394, R404). -/
def State.quitEngines (s : State) : State :=
  (s.modifyMe fun h =>
    let h := { h with cmds := [], followOns := [], pace := none }
    (List.finRange 8).foldl (fun (h : Hart) i =>
      let t := h.streams[i.val]
      if t.addDue then
        { h with
          additions := h.additions ++ [{ id := i, stream := t, before := h.pushes }]
          streams := h.streams.set i.val { t with doneAdd := .made } }
      else h) h).commitStrip

/-- The hart that acts ends, by EXIT or otherwise, and its context is freed. -/
def State.endHart (s : State) (exited : Bool) : State :=
  let c := s.cur.core
  let x := s.cur.ctx
  let h := s.me
  let s := s.quitEngines
  let s := (s.endSync exited).endFabric exited
  let s := s.modifyCore c fun k => (k.releaseSlots h.id).dropCommandRecords x
  let s := match h.gang with
    | .lower => s.separate c x 2
    | .parked => s.leavePartner c h.id
    | .none => s
  (((s.dropLazy h.id)).countHart h.link (!exited)).freeContext c x

/-- A hart of a context killed by firmware (R404). -/
def State.killHart (s : State) (c : CoreId) (x : CtxId) : State :=
  { (s.actingAs c x).endHart false with cur := s.cur }

/-- A hart that firmware kills has pushes that have not performed, or additions at FLAG to make: its end, a SYSTEM release,
waits for them (R317, R374). -/
def State.killWaits (s : State) (c : CoreId) (x : CtxId) : Bool :=
  s.pushesOf c x none || (!(s.hart c x).additions.isEmpty && !s.launchFenced (s.hart c x).link.launch)

/-- The engines' work for a hart that firmware kills is gone. -/
def State.quitFor (s : State) (c : CoreId) (x : CtxId) : State := { (s.actingAs c x).quitEngines with cur := s.cur }

end Sys2Proof.Machine
end

