-- ==== Sys2Proof/Machine/Streams.lean ====
section
/-!
DEFINITION. Streams: their instructions (R175, R176), their engines, and the accesses that streams of other devices make
here (R174, R317, R405).
-/

namespace Sys2Proof.Machine

/-! ### Specs (R172) -/

/-- The used dimensions of a spec. -/
def Stream.used (t : Stream) : List Nat := List.range t.dims

/-- Whether every element address is a multiple of the element size. -/
def Stream.aligned (t : Stream) : Bool :=
  t.base % 2 ^ t.esz == 0 &&
    t.used.all fun j => specCount t.spec j ≤ 1 || specStride t.spec j % (2 ^ t.esz : Nat) == 0

/-- A spec keeps R172. -/
def Stream.wfSpec (t : Stream) : Bool :=
  let w := specWord t.spec 1
  fieldOf w 2 2 == 0 && fieldOf w 9 7 == 0 && fieldOf w 32 32 == 0
    && (if t.remote then decide (t.device.toNat ≤ 36863) else t.device == 0)
    && t.used.all (fun j => specCount t.spec j != 0)
    && ((List.range 4).drop t.dims).all (fun j => specWord t.spec (2 + j) == 0)
    && (if t.hasDoneAdd then isAligned 8 t.flag else t.flag == 0)
    && specWord t.spec 7 == 0
    && decide (t.total < 2 ^ 63)
    && t.aligned

/-! ### Instructions -/

/-- A stream operand (R39, R171). -/
def Hart.isStream (h : Hart) (r : Reg) : Bool := isBelow h.streamCount r

/-- The stream that a field names. -/
def streamId (r : Reg) : StreamId := Fin.ofNat 8 r.toNat

/-- The stream of the hart that acts, changed. -/
def State.modifyStream (s : State) (i : StreamId) (f : Stream → Stream) : State :=
  s.modifyMe fun h => h.setStream i (f (h.stream i))

/-- The stream that a field names is UNSET: the word is ILLEGAL (R51, R175). -/
def Hart.namesUnset (h : Hart) (r : Reg) : Bool := h.isStream r && (h.stream (streamId r)).phase == .unset

/-- The hart with the addition at FLAG of a stream that is replaced, if it is due: no SWAIT can wait for it any more. -/
def Hart.oweAdd (h : Hart) (i : StreamId) : Hart :=
  if (h.stream i).addDue then { h with additions := h.additions ++ [{ id := i, stream := h.stream i, before := h.pushes }] } else h

/-- SSPEC: the stream is stopped and LOADED; its binding is kept. -/
def execSspec (d a : Reg) (fa : Bool) (s : State) : Host.Outcome State Fault Refusal :=
  issue s
    { regs := [⟨2, d, s.me.isStream d⟩, ⟨0, a, isAddress a⟩]
      sources := [⟨0, .x, a, fa⟩]
      commits := true } fun s =>
    let va := s.me.readX a
    if !isAligned 64 va then raise s causeAlign va
    else
      match s.loadBytes .memory va 64 with
      | .error e => .error e
      | .ok (x, s) =>
        let t : Stream := { spec := BitVec.ofNat 512 x, bound := (s.me.stream (streamId d)).bound, phase := .loaded }
        if t.wfSpec then .ok (s.modifyMe fun h => (h.oweAdd (streamId d)).setStream (streamId d) t)
        else raise s causeIllegal (word (specWord t.spec 1))

/-- The hart with no stream bound to a name. -/
def Hart.unbindName (h : Hart) (r : Reg) : Hart :=
  { h with streams := h.streams.map fun t => if t.bound = some r then { t with bound := none } else t }

/-- SBIND: A is a name whose content is not read, so that FA selects nothing. -/
def execSbind (d a : Reg) (_fa : Bool) (s : State) : Host.Outcome State Fault Refusal :=
  issue s { regs := [⟨2, d, s.me.isStream d⟩, ⟨0, a, s.me.isVector a⟩] } fun s =>
    .ok (s.modifyMe fun h =>
      let h := h.unbindName a
      h.setStream (streamId d) { h.stream (streamId d) with bound := some a })

def execSunbind (d : Reg) (s : State) : Host.Outcome State Fault Refusal :=
  issue s { regs := [⟨2, d, s.me.isStream d⟩] } fun s => .ok (s.modifyStream (streamId d) fun t => { t with bound := none })

/-- SBAR (R176): the strip has committed; what the masked input streams fetched ahead is dropped, and their fetching waits
for the pushes that the hart has sent so far. -/
def execSbar (a : Reg) (fa : Bool) (s : State) : Host.Outcome State Fault Refusal :=
  issue s { regs := [⟨0, a, isScalar a⟩], sources := [⟨0, .x, a, fa⟩], commits := true } fun s =>
    .ok (s.modifyMe fun h =>
      { h with streams := h.streams.mapIdx fun i t =>
          if bitAt (h.readX a).toNat i && !t.isOutput then { t with ahead := [], after := h.pushes } else t })

/-- SCOND: the condition word is translated as a load.  What was fetched before the stream starts again is dropped
(R176). -/
def execScond (d a : Reg) (b : Src) (fa : Bool) (s : State) : Host.Outcome State Fault Refusal :=
  issue s
    { len := srcBytes b
      illegal := s.me.namesUnset d
      regs := [⟨2, d, s.me.isStream d⟩, ⟨0, a, isAddress a⟩] ++ srcField isScalar b
      sources := ⟨0, .x, a, fa⟩ :: srcSource .x b
      commits := true } fun s =>
    let va := s.me.readX a
    if !isAligned 8 va then raise s causeAlign va
    else
      match s.place .memory .load va with
      | .error e => .error e
      | .ok _ => .ok (s.modifyStream (streamId d) fun t =>
          { t with cond := va, threshold := s.me.srcWord b, phase := .armed, condFault := none, ahead := [] })

def execSpos (d a : Reg) (s : State) : Host.Outcome State Fault Refusal :=
  issue s { regs := [⟨2, d, isScalar d⟩, ⟨0, a, s.me.isStream a⟩], dests := [(.x, d)] } fun s =>
    let t := s.me.stream (streamId a)
    .ok (s.modifyMe fun h => h.writeX d (if t.phase = .unset then 0 else t.position))

/-- SSTART: every element is read after this start (R176). -/
def execSstart (d : Reg) (s : State) : Host.Outcome State Fault Refusal :=
  issue s { illegal := s.me.namesUnset d, regs := [⟨2, d, s.me.isStream d⟩], commits := true } fun s =>
    .ok (s.modifyStream (streamId d) fun t => { t with phase := .running, condFault := none, ahead := [] })

/-- SWAIT (R175): it raises what is held for it, and otherwise waits until the stream has settled. -/
def execSwait (d : Reg) (s : State) : Host.Outcome State Fault Refusal :=
  issue s { illegal := s.me.namesUnset d, regs := [⟨2, d, s.me.isStream d⟩], commits := true } fun s =>
    let i := streamId d
    let t := s.me.stream i
    match t.condFault with
    | some f => raise (s.modifyStream i fun t => { t with condFault := none }) f.cause f.val
    | none =>
      if !s.streamSettled s.cur.core s.cur.ctx i then .error (.wait (.swait i) s)
      else
        match t.isOutput && t.hasDoneAdd, t.doneAdd with
        | true, .failed f => raise (s.modifyStream i fun t => { t with doneAdd := .due }) f.cause f.val
        | _, _ => .ok s

/-! ### Targets on other devices (R443) -/

/-- What the fabric answers, where the target is reachable at all. -/
def Device.answer (d : Device) (device : BitVec 16) (r : RemoteReply) : RemoteReply :=
  if d.reaches device then r else .unreachable

/-! ### The engines -/

/-- An element of a remote stream as its answer leaves it (R174); none while there is no answer. -/
def remoteElement (va : Word) (n : Nat) : RemoteReply → Option Fetched
  | .none => none
  | .data x => some (.value (x.toNat % 2 ^ (8 * n)))
  | .promiseType => some (.fault { cause := causeAccess, val := va })
  | .rejected => some (.fault { cause := causeAccess, val := va })
  | .poisoned => some .poisoned
  | .unreachable => some (.fault { cause := causeFenced, val := va })

/-- The elements held, with one more read. -/
def Stream.hold (t : Stream) (f : Fetched) : Stream := { t with ahead := t.ahead.take t.nextFetch ++ [f] ++ t.ahead.drop (t.nextFetch + 1) }

/-- What the engine of a running input stream meets at its next element; nothing while its fetching waits for earlier
stores of the hart (R176). -/
def State.engineFetch (s : State) (t : Stream) (reply : RemoteReply) : Option Fetched :=
  let va := t.address (t.position.toNat + t.nextFetch)
  if s.fetchHeld t then none
  else if t.remote then remoteElement va (2 ^ t.esz) (s.dev.answer t.device reply)
  else
    match s.fetchElement va (2 ^ t.esz) with
    | .ok f => some f
    | .error _ => none

/-- The element that the engine has read from this device is counted (R128). -/
def State.countElement (s : State) (t : Stream) : Fetched → State
  | .value _ =>
    if t.remote then s
    else
      let va := t.address (t.position.toNat + t.nextFetch)
      s.countAll ((s.locate .reader .load va).toOption.toList ++ s.guardPlaces va)
  | _ => s

/-- STREAM_ELEMENT_FETCH (R176). -/
def execStreamElementFetch (core : CoreId) (ctx : ContextId) (stream : StreamId) (reply : RemoteReply) (s : State) :
    Host.Outcome State Fault Refusal :=
  let s' := s.actingAs core ctx
  let t := s'.me.stream stream
  if t.phase = .running && !t.isOutput && decide (t.position.toNat + t.nextFetch < t.total) then
    match s'.engineFetch t reply with
    | some f => .next ((s'.countElement t f).modifyStream stream fun t => t.hold f)
    | none => .next s
  else .next s

/-- STREAM_CONDITION_READ (R175). -/
def execStreamConditionRead (core : CoreId) (ctx : ContextId) (stream : StreamId) (s : State) :
    Host.Outcome State Fault Refusal :=
  let s' := s.actingAs core ctx
  let t := s'.me.stream stream
  if t.phase = .armed && t.condFault.isNone then
    .next ((s'.countAll (s'.locate .memory .load t.cond).toOption.toList).modifyStream stream s'.conditionRead)
  else .next s

/-- The addition at FLAG of a local stream: as rmw under the hart's own root. -/
def State.localDoneAdd (s : State) (t : Stream) : State × DoneAdd :=
  match s.locate .memory .rmw t.flag with
  | .error c => (s, .failed { cause := c, val := t.flag })
  | .ok (.main pa) =>
    if s.dev.isPoisoned pa then (s, .failed { cause := causeFenced, val := t.flag })
    else ((s.count (.main pa)).putWord pa ((s.getWord pa + 1) % 2 ^ 64), .made)
  | .ok _ => (s, .failed { cause := causeAccess, val := t.flag })

/-- How the target answers the addition at FLAG of a remote stream. -/
def remoteDoneAdd (flag : Word) : RemoteReply → DoneAdd
  | .none => .due
  | .data _ => .made
  | .promiseType => .failed { cause := causePromtype, val := flag }
  | .rejected => .failed { cause := causeAccess, val := flag }
  | .poisoned => .failed { cause := causeFenced, val := flag }
  | .unreachable => .failed { cause := causeFenced, val := flag }

/-- The addition at FLAG, a SYSTEM release, has still to wait: for the hart's strip and its reads, for its follow-ons, and
for its pushes of every stream (R317, R318, R326). -/
def State.doneAddWaits (s : State) : Bool :=
  !s.me.strip.isEmpty || s.me.fills.any (fun f => !f.reads.isEmpty) || s.releaseWaits true

/-- An addition that no SWAIT is to wait for follows the pushes of its stream alone. -/
def State.earlyWaits (s : State) (i : StreamId) : Bool := !s.me.strip.isEmpty || s.pushesOf s.cur.core s.cur.ctx (some i)

/-- What has become of an addition that was made before any SWAIT waited for it. -/
def DoneAdd.unawaited : DoneAdd → DoneAdd
  | .made => .early
  | r => r

/-- An addition that no SWAIT waits for still follows the pushes of its stream. -/
def State.owedWaits (s : State) (a : OwedAdd) : Bool :=
  s.dev.outgoing.any fun o => match o with
    | .push _ q st n _ _ _ => q.core == s.cur.core && q.hart == s.me.id && st == a.id && decide (n < a.before)
    | _ => false

/-- The addition at FLAG of a stream, at the device that it names. -/
def State.makeAdd (s : State) (t : Stream) (reply : RemoteReply) : State × DoneAdd :=
  if t.remote then (s, remoteDoneAdd t.flag (s.dev.answer t.device reply)) else s.localDoneAdd t

/-- STREAM_DONEADD (R175, R318): the addition at FLAG, once, after every access of the hart that it covers: the pushes of the
stream, and the hart's accesses up to the SWAIT that waits for it.  So it comes while SWAIT waits, or when none can; an act
may also make it early, in a run in which no SWAIT of the stream completes (log 74).  The pushes of a fenced launch have been discarded, and it makes no addition (R417). -/
def execStreamDoneadd (core : CoreId) (ctx : ContextId) (stream : StreamId) (reply : RemoteReply) (s : State) :
    Host.Outcome State Fault Refusal :=
  let s' := s.actingAs core ctx
  let t := s'.me.stream stream
  if s'.launchFenced s'.me.link.launch then .next s
  else
    match s'.me.additions.find? fun a => a.id == stream && !s'.owedWaits a with
    | some a =>
      match s'.makeAdd a.stream reply with
      | (_, .due) => .next s
      | (s'', _) => .next (s''.modifyMe fun h => { h with additions := eraseFirst (· == a) h.additions })
    | none =>
      if t.addDue && s'.addAwaited core ctx stream && !s'.doneAddWaits then
        let (s'', r) := s'.makeAdd t reply
        .next (s''.modifyStream stream fun t => { t with doneAdd := r })
      else if t.addDue && !s'.addAwaited core ctx stream && !s'.earlyWaits stream then
        let (s'', r) := s'.makeAdd t reply
        .next (s''.modifyStream stream fun t => { t with doneAdd := r.unawaited })
      else .next s

/-! ### Accesses between devices -/

/-- The translation root that system software has installed for a job (R438). -/
def Device.remoteRoot (d : Device) (job : Word) : Option Word := (d.remoteRoots.find? (·.1 == job)).map (·.2)

/-- The place of a remote element at this device, its target; none where the job has no root (R174, R438). -/
def State.remotePlace (s : State) (r : RemoteRequest) (k : Access) : Except (BitVec 8) Place :=
  match s.dev.remoteRoot r.job with
  | none => .error causeAccess
  | some root => translate s.dev root 0 false .memory k r.va

/-- How a refusal is answered. -/
def refusal (c : BitVec 8) : RemoteReply :=
  if c = causePromtype then .promiseType else if c = causeFenced then .unreachable else .rejected

/-- The table entry at which the walk of an address ends, by its address (R121, R123). -/
def lastEntry (d : Device) (va : Nat) : Nat → Nat → Nat
  | 0, t => t
  | left + 1, t =>
    let at_ := t + 8 * fieldOf va (42 - 13 * (2 - left)) 13
    let pte := d.mem.read at_ 8
    if pte % 4 = 1 then lastEntry d va left (fieldOf pte 16 36 * 65536) else at_

/-- The lowest-numbered core in service on the die of a slice, where the model holds it (R405, log 1). -/
def State.lowestCore (s : State) (slice : SliceId) : Option CoreId :=
  if dieOf slice ≠ Config.die then none
  else allCores.find? fun c => !(s.core c).fenced

/-- A PFAULT of a remote element at its target: the record of SRC 3 (R405).  An element that no entry maps has no home
slice, and that of the invalid entry stands for it (log 65).  Where the record goes to a core that the model does not
hold, its firmware serves the fault, and the request comes again. -/
def State.postRemoteFault (s : State) (r : RemoteRequest) (data : Option Word) : State :=
  let root := (s.dev.remoteRoot r.job).getD 0
  match s.lowestCore (s.dev.homeOf (lastEntry s.dev r.va.toNat 3 (fieldOf root.toNat 16 36 * 65536))) with
  | some c => s.post c
      { regs := { cause := causePfault, val := r.va, stat := tstat false false 3 true 0 4 }, of := .request r data }
  | none => s

/-- An answer on its way to the device that asked. -/
def State.replyTo (s : State) (r : RemoteRequest) (x : RemoteReply) : State :=
  s.modifyDev fun d => { d with outgoing := d.outgoing ++ [.reply r x] }

/-- A remote stream's read served at this device. -/
def State.serveRead (s : State) (r : RemoteRequest) : State :=
  match s.remotePlace r .load with
  | .error c => if c = causePfault then s.postRemoteFault r none else s.replyTo r (refusal c)
  | .ok p =>
    if s.isPoisonedAt p (2 ^ r.log2Size.val) then s.replyTo r .poisoned
    else s.replyTo r (.data (word (s.readPlace p (2 ^ r.log2Size.val))))

/-- The addition of 1 at FLAG for a stream of another device, an rmw at this device's home slice (R175, R314). -/
def State.serveAdd (s : State) (r : RemoteRequest) : State :=
  match s.remotePlace r .rmw with
  | .error c => if c = causePfault then s.postRemoteFault r none else s.replyTo r (refusal c)
  | .ok (.main pa) =>
    if s.dev.isPoisoned pa then s.replyTo r .poisoned
    else (s.putWord pa ((s.getWord pa + 1) % 2 ^ 64)).replyTo r (.data 0)
  | .ok _ => s.replyTo r .rejected

/-- A request of another device served at this one: a read, or the addition at FLAG. -/
def State.serveRequest (s : State) (r : RemoteRequest) : State := if r.isAdd then s.serveAdd r else s.serveRead r

/-- A remote push performed at this device (R317). -/
def State.servePush (s : State) (r : RemoteRequest) (x : Word) : State :=
  match s.remotePlace r .store with
  | .error c => if c = causePfault then s.postRemoteFault r (some x) else s.replyTo r (refusal c)
  | .ok p => (s.performStore p (2 ^ r.log2Size.val) (x.toNat % 2 ^ (8 * 2 ^ r.log2Size.val))).replyTo r (.data 0)

/-- The removal of a job's root waits: its later elements are rejected (R445). -/
def Device.rootLeaving (d : Device) (job : Word) : Bool := d.rrLeaving == some job

/-- REMOTE_STREAM_REQUEST (R174). -/
def execRemoteStreamRequest (request : RemoteRequest) (s : State) : Host.Outcome State Fault Refusal :=
  if s.dev.rootLeaving request.job then .next (s.replyTo request .rejected) else .next (s.serveRequest request)

/-- A push of a stream to the address given. -/
def isPushTo (p : Pusher) (va : Word) : Outgoing → Bool
  | .push dev q st _ v _ _ => dev == p.device && q.core == p.core && q.hart == p.hart && st == p.stream && v == va
  | _ => false

/-- A push of a hart has failed: no addition at FLAG is made for its stream (R328), and SWAIT raises the fault, unless the
stream's place has been given to another. -/
def Hart.failPush (h : Hart) (st : StreamId) (seq : Nat) (f : Held) : Hart :=
  let old (a : OwedAdd) : Bool := a.id == st && decide (seq < a.before)
  if h.additions.any old then { h with additions := h.additions.filter fun a => !old a }
  else h.setStream st { h.stream st with condFault := some f, doneAdd := .never }

/-- The context of a core where a sender of pushes still stands. -/
def State.seatOf (s : State) (q : Sender) : Option CtxId :=
  (List.finRange 5).find? fun x => s.status q.core x != .free && (s.hart q.core x).id == q.hart

/-- A push of this device that has been answered, of those to the same bytes the earliest (R318): its stream, and the
fault that SWAIT raises for it. -/
def State.pushAnswered (s : State) (p : Pusher) (va : Word) (reply : RemoteReply) : State :=
  match s.dev.outgoing.find? (isPushTo p va) with
  | some (.push dev q st n v _ _) =>
    let s := s.modifyDev fun d => { d with outgoing := eraseFirst (isPushTo p va) d.outgoing }
    let fail (c : BitVec 8) : State :=
      match s.seatOf q with
      | some x => s.setHart q.core x ((s.hart q.core x).failPush st n { cause := c, val := v })
      | none => s
    match s.dev.answer dev reply with
    | .unreachable => (fail causeFenced).fenceLaunch q.launch causeFenced
    | .promiseType => fail causeAccess
    | .rejected => fail causeAccess
    | _ => s
  | _ => s

/-- REMOTE_PUSH_PERFORM (R317): a push of another device performs here, or a push of this device has been answered by its
target. -/
def execRemotePushPerform (request : RemoteRequest) (data : BitVec 64) (stage : PushStage) (s : State) :
    Host.Outcome State Fault Refusal :=
  match stage with
  | .performs =>
    if s.dev.rootLeaving request.job then .next (s.replyTo request .rejected) else .next (s.servePush request data)
  | .answered pusher reply => .next (s.pushAnswered pusher request.va reply)

/-- SCATTER_ADD_PERFORM (R327): an addition of another core at its home slice; none is made on a poisoned line.  Float
additions of other cores are unordered with every other at the address (R75, R169). -/
def execScatterAddPerform (add : ScatterAdd) (s : State) : Host.Outcome State Fault Refusal :=
  if !s.dev.addable add then .next s
  else if add.isFloat then .next (s.addUnordered add)
  else .next (s.modifyDev (·.scatter add))

/-- LONG_LATENCY_RESULT (R32, R304, R305): one read of an outstanding result of a context performs, with the earlier reads
that must precede it; a result whose reads have all performed reaches its register. -/
def execLongLatencyResult (core : CoreId) (turn : ResultTurn) (s : State) : Host.Outcome State Fault Refusal :=
  let s' := s.actingAs core turn.ctx
  .next (s'.performOne (turn.result.toNat % s'.me.fills.length) turn.read.toNat)

/-- The wait is that of GANG, before its partner has come or after. -/
def Wait.isGang : Wait → Bool
  | .gang => true
  | .parked => true
  | _ => false

/-- STRIP_COMMIT_COMPLETE (R179): the loads of a strip that STRIPC has closed arrive, and STRIPC completes, or waits for
the rest of its effects; the rest of a strip that a hart waiting in GANG has committed takes effect (R308, R448). -/
def execStripCommitComplete (core : CoreId) (ctx : ContextId) (s : State) : Host.Outcome State Fault Refusal :=
  let s' := s.actingAs core ctx
  if s'.me.closing then
    let t := s'.landVectors.commitStrip
    if t.me.strip.isEmpty then .next (t.complete { commits := true } (s'.me.pc + 4))
    else .next (t.setStatus core ctx (.waiting .strip))
  else
    match s.status core ctx with
    | .waiting w => if w.isGang then .next { s'.commitStrip with cur := s.cur } else .next s
    | _ => .next s

/-- A strip of which nothing has reached memory can be discarded: it is open, and its commit has not begun (R182). -/
def State.stripIsWhole (s : State) (c : CoreId) (x : CtxId) : Bool :=
  !(s.hart c x).strip.isEmpty && (s.hart c x).trapDue.isNone &&
    match s.status c x with
    | .running => true
    | .waiting w => w != .strip && !w.isGang
    | _ => false

/-- STRIPLOST (R182): an uncorrectable error in the store buffer of an open strip; TVAL is the instruction at the program
counter. -/
def execStriplost (core : CoreId) (ctx : ContextId) (s : State) : Host.Outcome State Fault Refusal :=
  let s' := s.actingAs core ctx
  if s.stripIsWhole core ctx then .next (s'.loseStrip s'.me.pc) else .next s

end Sys2Proof.Machine
end

