-- ==== Sys2Proof/Machine/Launch.lean ====
section
/-!
DEFINITION. Launches: descriptors, the tables they name, acceptance, and the instructions of major 0x39 (R102, R353-R359,
R369-R375).
-/

namespace Sys2Proof.Machine

/-! ### Descriptors (R356) -/

/-- A launch descriptor, by its bits. -/
abbrev Desc := BitVec 2048

/-- Bits [hi:lo] of the word at an offset. -/
def Desc.field (d : Desc) (off lo width : Nat) : Nat := fieldOf d.toNat (8 * off + lo) width

/-- The word at an offset. -/
def Desc.word (d : Desc) (off : Nat) : Word := BitVec.ofNat 64 (d.field off 0 64)

def Desc.part (d : Desc) : Part :=
  match d.field 56 24 2 with
  | 0 => .whole
  | 1 => .half
  | _ => .quarter

def Desc.repl (d : Desc) : Bool := bitAt (d.field 56 0 64) 22
def Desc.paired (d : Desc) : Bool := bitAt (d.field 56 0 64) 23
def Desc.harts (d : Desc) : Nat := d.field 56 32 16
def Desc.root (d : Desc) : Word := d.word 16
def Desc.regn (d : Desc) : Nat := d.field 88 0 8
def Desc.specMask (d : Desc) : Nat := d.field 112 0 8
def Desc.wmMask (d : Desc) : Nat := d.field 128 0 8

/-- Every reserved bit is 0. -/
def Desc.reservedClear (d : Desc) : Bool :=
  d.field 56 0 8 == 0 && d.field 56 13 3 == 0 && d.field 56 19 3 == 0 && d.field 56 26 6 == 0 && d.field 56 48 16 == 0
    && d.field 64 6 2 == 0 && d.field 64 14 50 == 0
    && d.field 88 8 56 == 0 && d.field 112 8 56 == 0 && d.field 128 8 56 == 0
    && d.field 144 0 896 == 0

/-- HARTS is in range. -/
def Desc.hartsOk (d : Desc) : Bool :=
  if d.repl then d.harts == 0 else decide (1 ≤ d.harts) && decide (d.harts ≤ 384 * d.part.inverse)

/-- The layout of R356; `srh` tells whether RM = 5 may be selected (R28). -/
def Desc.valid (d : Desc) (srh : Bool) : Bool :=
  d.reservedClear
    && [24, 32, 40, 48].all (fun o => d.word o != 0)
    && d.field 56 24 2 != 3 && d.hartsOk
    && (!d.paired || (d.field 56 24 2 == 0 && d.harts % 2 == 0))
    && decide (1 ≤ d.field 56 8 5)
    && decide (d.field 64 8 6 ≤ 32) && decide (d.field 64 0 6 ≤ 48)
    && (vcfgFault (d.word 72) srh).isNone
    && decide (d.regn ≤ 64)
    && decide (d.specMask < 2 ^ (8 / d.part.inverse))

/-- What a launch keeps of its descriptor, charged to a queue (R352, R356). -/
def Desc.link (d : Desc) (q : QueueId) (level : BitVec 3) : LaunchLink :=
  { launch := d.word 24, graph := d.word 32, phase := d.word 40, job := d.word 48, index := 0, harts := d.harts
    root := d.root, part := d.part, prio := BitVec.ofNat 3 (min (d.field 56 16 3) level.toNat)
    slotw := BitVec.ofNat 5 (d.field 56 8 5), queue := q, compl := d.word 136 }

/-! ### Tables (R102, R357, R370) -/

/-- The reading of tables: a value with the places read so far, or the cause and VA of a fault.  An inner none is a table
whose check fails. -/
abbrev Reading := StateT (List Place) (Except (BitVec 8 × Word))

/-- n bytes under a root, read as a load. -/
def State.readUnder (s : State) (root va : Word) (n : Nat) : Reading Nat :=
  (runsOf va n).foldlM (fun x r =>
    match translate s.dev root s.cur.core false .memory .load r.1 with
    | .error c => throw (c, r.1)
    | .ok p =>
      match s.poisonedVa r.1 [(p, 0, r.2.2)] with
      | some w => throw (causeFenced, w)
      | none => do
        modify (· ++ [p])
        return x + s.readPlace p r.2.2 * 2 ^ (8 * r.2.1)) 0

/-- A record of an image: type, load address, and the payload of the types that are copied. -/
structure ImageRecord where
  type : Nat
  addr : Word
  len : Nat
  payload : Nat
  deriving DecidableEq, Repr

/-- The records of an image up to its type 0 record; text and data are not read (R357). -/
def State.readRecords (s : State) (root : Word) : Nat → Word → Reading (Option (List ImageRecord))
  | 0, _ => return none
  | fuel + 1, va => do
    let hd ← s.readUnder root va 16
    let type := fieldOf hd 0 32
    let len := fieldOf hd 32 32
    if type = 0 then return some []
    else if 7 < type then return none
    else
      let payload ← if type ≤ 2 then pure 0 else s.readUnder root (va + 16) len
      let rest ← s.readRecords root fuel (va + 16 + word (ceilDiv len 8 * 8))
      return rest.map fun rs => { type, addr := word (fieldOf hd 64 64), len, payload } :: rs

/-- The headers that the address space has room for: an image of more runs out of it, and its reading faults (R120). -/
def recordFuel : Nat := 2 ^ 51 + 1

/-- How many records of a type an image holds. -/
def countType (rs : List ImageRecord) (t : Nat) : Nat := rs.countP (·.type == t)

/-- Register pairs from a payload of n bytes: code and value. -/
def pairsOf (payload n : Nat) : List (Nat × Word) :=
  (List.range (n / 16)).map fun i => (fieldOf payload (128 * i) 64, word (fieldOf payload (128 * i + 64) 64))

/-- A register code of R102 that is not reserved. -/
def isRegCode (c : Nat) : Bool := c < 48 || (64 ≤ c && c < 88)

/-- A semantic image keeps its layout and holds text. -/
def semanticOk (rs : List ImageRecord) : Bool :=
  rs.all (fun r => 1 ≤ r.type && r.type ≤ 5) && decide (1 ≤ countType rs 1)
    && [3, 4, 5].all (fun t => countType rs t ≤ 1)
    && rs.all fun r => (r.type != 3 || r.len == 512) &&
        (r.type != 4 || (r.len % 16 == 0 && (pairsOf r.payload r.len).all fun p => isRegCode p.1))

/-- The record of a type. -/
def recordOf (rs : List ImageRecord) (t : Nat) : Option ImageRecord := rs.find? (·.type == t)

/-- The semantic image at a VA. -/
def State.readSemantic (s : State) (root va : Word) : Reading (Option (List ImageRecord)) := do
  let rs ← s.readRecords root recordFuel va
  return rs.filter semanticOk

/-- The code and the index of a book's records, one of each. -/
def bookOfRecords (rs : List ImageRecord) : Option (List (BitVec 32) × List (Nat × Nat)) :=
  match recordOf rs 6, recordOf rs 7 with
  | some code, some index =>
    if rs.length = 2 then
      some ((wordsOf 32 (code.len / 4) code.payload).map (BitVec.ofNat 32),
        (wordsOf 64 (index.len / 8) index.payload).map fun e => (fieldOf e 0 20, fieldOf e 32 16))
    else none
  | _, _ => none

/-- The book at a VA: its code and its index; none in the inner option where VA is 0. -/
def State.readBook (s : State) (root va : Word) : Reading (Option (Option (List (BitVec 32) × List (Nat × Nat)))) := do
  if va = 0 then return some none
  else
    let rs ← s.readRecords root recordFuel va
    return (rs.bind bookOfRecords).map some

/-- The overrides of registers that a descriptor names. -/
def State.readOverrides (s : State) (d : Desc) : Reading (Option (List (Nat × Word))) := do
  if d.word 80 = 0 then return some []
  else
    let x ← s.readUnder d.root (d.word 80) (16 * d.regn)
    let ps := pairsOf x (16 * d.regn)
    return if ps.all fun p => isRegCode p.1 then some ps else none

/-- The constant bank: CONSTOVR, or the image's type 3 record. -/
def State.readConstants (s : State) (d : Desc) (rs : List ImageRecord) : Reading (Vector Word 64) := do
  let x ← if d.word 96 = 0 then pure (((recordOf rs 3).map (·.payload)).getD 0) else s.readUnder d.root (d.word 96) 512
  return Vector.ofFn fun i : Fin 64 => word (fieldOf x (64 * i.val) 64)

/-- The streams that SPECMASK preloads, running (R175, R356); a spec stands at a multiple of 64 bytes (R172). -/
def State.readSpecs (s : State) (d : Desc) : Reading (Option (Vector Stream 8)) :=
  (List.range 8).foldlM (m := Reading) (fun acc n => do
    if !bitAt d.specMask n then return acc
    else
      let va := d.word 104 + word (64 * n)
      let x ← s.readUnder d.root va 64
      let t : Stream := { spec := BitVec.ofNat 512 x, phase := .running }
      return if isAligned 64 va && t.wfSpec then acc.map fun v => vset v n t else none) (some (Vector.replicate 8 {}))

/-- The link descriptor at a VA. -/
def State.readLink (s : State) (root va : Word) : Reading (Option Watermark) := do
  let x ← s.readUnder root va 32
  let at_ (n : Nat) : Word := word (fieldOf x (64 * n) 64)
  let w : Watermark := { word := at_ 0, base := at_ 1, limit := at_ 2, unit := at_ 3 }
  return if isAligned 32 va && w.valid then some w else none

/-- The watermarks: from the register pairs, each the VA of a link descriptor, then from WMLINKS under WMMASK.  A pair
of value 0 links nothing (log 32). -/
def State.readLinks (s : State) (d : Desc) (pairs : List (Nat × Word)) : Reading (Option (Vector Watermark 8)) :=
  (List.range 8).foldlM (m := Reading) (fun acc n => do
    let va := if bitAt d.wmMask n then d.word 120 + word (32 * n)
      else ((pairs.filter fun p => p.1 == 80 + n).getLast?.map (·.2)).getD 0
    if va = 0 && !bitAt d.wmMask n then return acc
    else
      let w ← s.readLink d.root va
      return acc.bind fun v => w.map fun w => vset v n w) (some (Vector.replicate 8 {}))

/-- The last value that the pairs give a code. -/
def lastPair (pairs : List (Nat × Word)) (c : Nat) : Word := ((pairs.filter (·.1 == c)).getLast?.map (·.2)).getD 0

/-- Every table that a descriptor names, read in order: the launch it makes (R357). -/
def State.readTables (s : State) (d : Desc) (link : LaunchLink) : Reading (Option Launch) := do
  let image ← s.readSemantic d.root (d.word 0)
  let book ← s.readBook d.root (d.word 8)
  let overrides ← s.readOverrides d
  let consts ← s.readConstants d (image.getD [])
  let specs ← s.readSpecs d
  let pairs := (match recordOf (image.getD []) 4 with
    | some r => pairsOf r.payload r.len
    | none => []) ++ overrides.getD []
  let links ← s.readLinks d pairs
  match image, book, overrides, specs, links with
  | some rs, some book, some _, some streams, some w =>
    let m : Launch :=
      { link
        entry := ((recordOf rs 1).map (·.addr)).getD 0
        paired := d.paired
        wpc := d.field 64 0 6
        xpc := d.field 64 8 6
        x := Vector.ofFn fun i : Fin 48 => if i.val = 0 then 0 else lastPair pairs i.val
        md := Vector.ofFn fun i : Fin 8 => { va := lastPair pairs (64 + i.val), stride := lastPair pairs (72 + i.val) }
        w, c := consts, vcfg := d.word 72, streams, book }
    return some m
  | _, _, _, _, _ => return none

/-- The launch that a descriptor's tables make, with the places read; none where a table's check fails. -/
def State.launchOf (s : State) (d : Desc) (link : LaunchLink) : Except (BitVec 8 × Word) (Option Launch × List Place) :=
  (s.readTables d link).run []

/-! ### LAUNCH and LAUNCHNB (R370) -/

/-- A launch accepted into the pool: HARTS are added to OUT at its four levels. -/
def State.acceptLaunch (s : State) (m : Launch) (fromRing : Bool) : State :=
  s.modifyDev fun d => { d.enterLaunch m.link with pool := d.pool ++ [{ launch := m, fromRing }] }

/-- LAUNCH waits while the pool is full; LAUNCHNB answers POOLFULL. -/
def launchWith (waits : Bool) (d a : Reg) (fa : Bool) (s : State) : Host.Outcome State Fault Refusal :=
  issue s
    { userOnly := true
      regs := [⟨2, d, isScalar d⟩, ⟨0, a, isAddress a⟩]
      sources := [⟨0, .x, a, fa⟩]
      dests := [(.x, d)]
      commits := true
      releases := some true } fun s =>
    let va := s.me.readX a
    if !isAligned 64 va then raise s causeAlign va
    else
      match s.place .memory .load va with
      | .error e => .error e
      | .ok p =>
        match s.readImage .memory va 256 with
        | .error e => .error e
        | .ok x =>
          let s := s.count p
          let q := s.me.link.queue
          let desc : Desc := BitVec.ofNat 2048 x
          let link := desc.link q s.dev.queues[q.val].level
          match s.launchOf desc link with
          | .error (c, w) => raise s c w
          | .ok (none, _) => raise s causeIllegal va
          | .ok (some m, ps) =>
            let s := s.countAll ps
            if !desc.valid s.myCore.srhEnabled || desc.repl || link.job != s.me.link.job then raise s causeIllegal va
            else if (s.dev.cancelledId link).isSome then .ok (s.modifyMe fun h => h.writeX d 2)
            else if s.dev.canAccept link then .ok ((s.acceptLaunch m false).modifyMe fun h => h.writeX d 0)
            else if waits then .error (.wait (.launch link) s)
            else .ok (s.modifyMe fun h => h.writeX d 1)

def execLaunch (d a : Reg) (fa : Bool) (s : State) : Host.Outcome State Fault Refusal := launchWith true d a fa s
def execLaunchnb (d a : Reg) (fa : Bool) (s : State) : Host.Outcome State Fault Refusal := launchWith false d a fa s

/-! ### CANCEL, CWAIT, CNTRD, SELF and EXIT (R369-R375) -/

/-- An identifier and its level as source operands. -/
def levelUses (d a b : Reg) (fa commits : Bool) : Uses :=
  { userOnly := true
    illegal := !isLevelCode b
    regs := [⟨2, d, isScalar d⟩, ⟨0, a, isG a⟩]
    sources := [⟨0, .x, a, fa⟩]
    dests := [(.x, d)]
    commits }

/-- The identifier that A names; g0 is the caller's own at that level. -/
def Hart.identifier (h : Hart) (a b : Reg) : Word := if a = 0 then h.link.idAt b.toNat else h.readX a

/-- A hart that carries an identifier at a level. -/
def LaunchLink.carries (l : LaunchLink) (level : Nat) (id : Word) : Bool := l.idAt level == id

/-- A resident hart is told of a cancel (R372): its queued commands are discarded (R151), and a GANG that still waits
completes with 2 first (R214). -/
def Ctx.cancel (level : Nat) (id : Word) (name : LaunchLink → Option Word) (t : Ctx) : Ctx :=
  if t.status ≠ .free ∧ t.hart.link.carries level id then
    { t with hart := { t.hart.endCommands with
        cancelled := name t.hart.link
        verdict := if t.status = .waiting .gang ∧ t.hart.verdict.isNone then some 2 else t.hart.verdict } }
  else t

/-- The record of an identifier is CANCELLED (R372): pool entries that carry it, one that has been selected and not placed
among them, are dropped and count as failed. -/
def State.cancel (s : State) (level : Nat) (id : Word) : State :=
  let s := s.modifyDev fun d => { d with records := d.records.map fun r =>
    if r.level.toNat = level ∧ r.id = id then { r with cancelled := true } else r }
  let s := s.modifyDev fun d => d.unselect.dropPool fun l => l.carries level id
  let name := s.dev.cancelledId
  let tell (o : SwitchedOut) : SwitchedOut :=
    if o.link.carries level id then { o with hart := { o.hart with cancelled := name o.link } } else o
  { s with
    cores := s.cores.map fun k => { k with ctxs := k.ctxs.map (Ctx.cancel level id name) }
    dev := { s.dev with switchedOut := s.dev.switchedOut.map tell } }

/-- An identifier is active in a job. -/
def Device.activeIn (d : Device) (level : Nat) (id job : Word) : Bool :=
  match d.record level id with
  | some r => r.job == job
  | none => false

def execCancel (d a b : Reg) (fa : Bool) (s : State) : Host.Outcome State Fault Refusal :=
  issue s { levelUses d a b fa true with releases := some true } fun s =>
    let id := s.me.identifier a b
    if s.dev.activeIn b.toNat id s.me.link.job then .ok ((s.cancel b.toNat id).modifyMe fun h => h.writeX d 0)
    else .ok (s.modifyMe fun h => h.writeX d 1)

/-- FAILED of an identifier's record. -/
def Device.failedOf (d : Device) (level : Nat) (id : Word) : Nat := ((d.record level id).map (·.failed)).getD 0

/-- CWAIT (R373). -/
def execCwait (d a b : Reg) (fa : Bool) (s : State) : Host.Outcome State Fault Refusal :=
  issue s (levelUses d a b fa true) fun s =>
    let id := s.me.identifier a b
    if s.dev.outOf b.toNat id s.me.link = 0 then
      .ok (s.modifyMe fun h => h.writeX d (word (s.dev.failedOf b.toNat id)))
    else .error (.wait (.cwait (b.setWidth 3) id) s)

/-- FAILED and OUT of a record, each saturating at 32 bits. -/
def Device.counts (d : Device) (level : Nat) (id : Word) : Nat :=
  match d.record level id with
  | some r => min (2 ^ 32 - 1) r.failed * 2 ^ 32 + min (2 ^ 32 - 1) r.out
  | none => 0

def execCntrd (d a b : Reg) (fa : Bool) (s : State) : Host.Outcome State Fault Refusal :=
  issue s (levelUses d a b fa false) fun s =>
    .ok (s.modifyMe fun h => h.writeX d (word (s.dev.counts b.toNat (s.me.identifier a b))))

/-- The item that SELF selects (R375). -/
def State.selfItem (s : State) (sel : Reg) : Word :=
  let h := s.me
  match sel.toNat with
  | 0 => word h.id.toNat
  | 1 => h.link.launch
  | 2 => h.link.graph
  | 3 => h.link.phase
  | 4 => h.link.job
  | 5 => word h.link.index
  | 6 => word h.link.harts
  | 7 => word s.cur.core.val
  | 8 => word s.cur.ctx.val
  | _ => word h.link.prio.toNat

def execSelf (d b : Reg) (s : State) : Host.Outcome State Fault Refusal :=
  issue s { userOnly := true, illegal := decide (9 < b.toNat), regs := [⟨2, d, isScalar d⟩], dests := [(.x, d)] } fun s =>
    .ok (s.modifyMe fun h => h.writeX d (s.selfItem b))

/-- EXIT (R374): it waits for the hart's engines and ends the hart; in the firmware context it has no effect. -/
def execExit (s : State) : Host.Outcome State Fault Refusal :=
  if s.isFirmware then issue s { commits := true } fun s => .ok s
  else
    match s.prepare { commits := true, orders := true } with
    | .error e => finish (.error e)
    | .ok s =>
      if s.waitOver s.cur.core s.cur.ctx .exit then .next ((s.charge [(.scal, 1)]).endHart true)
      else finish (.error (.wait .exit s))

/-! ### Host queues (R354, R355, R359, R436) -/

/-- The slot after one, in a queue's ring. -/
def HostQueue.next (q : HostQueue) (slot : BitVec 16) : BitVec 16 := BitVec.ofNat 16 ((slot.toNat + 1) % 2 ^ q.log2n.toNat)

/-- TAIL within the ring. -/
def HostQueue.end_ (q : HostQueue) : BitVec 16 := BitVec.ofNat 16 (q.tail.toNat % 2 ^ q.log2n.toNat)

/-- A descriptor is dropped and reported. -/
def State.dropDescriptor (s : State) (q : QueueId) (slot : Nat) : State :=
  s.modifyDev (·.report 4 [word q.val, word slot])

/-- Some core in service allows RM = 5: what the VCFG of a host launch is held against (R28, R356). -/
def State.anySrh (s : State) : Bool := s.cores.toList.any fun k => !k.fenced && k.srhEnabled

/-- A hart of a launch is resident on a core. -/
def Core.runs (k : Core) (launch : Word) : Bool := k.ctxs.toList.any fun t => t.status != .free && t.hart.link.launch == launch

/-- The newest version of a launch's book. -/
def State.bookVersion (s : State) (launch : Word) : Nat :=
  (s.cores.toList.flatMap fun k => (k.books.filter (·.launch == launch)).map (·.version)).foldl max 0

/-- Books of a launch that no hart of the core runs any more are dropped. -/
def Core.pruneBooks (k : Core) (launch : Word) : Core :=
  let used (v : Nat) : Bool := k.ctxs.toList.any fun t =>
    t.status != .free && t.hart.link.launch == launch && decide (t.hart.bookVersion ≤ v)
  { k with books := k.books.filter fun b => b.launch != launch || used b.version }

/-- A core takes a staged book: it runs a hart of the launch, and the book fits beside those that harts there still run
(R344). -/
def Core.takesBook (k : Core) (b : Book) : Bool := k.runs b.launch && (k.pruneBooks b.launch).bookFits b

/-- A core with a staged book, where it takes it. -/
def Core.stage (k : Core) (b : Book) : Core :=
  if k.takesBook b then { k.pruneBooks b.launch with books := (k.pruneBooks b.launch).books ++ [b] } else k

/-- A book staged for a running launch on every core that runs a hart of it, or refused and reported there: where each of
them refuses it, the old book stays the launch's (R344). -/
def State.stageBook (s : State) (b : Book) : State :=
  let refused := allCores.filter fun c => (s.core c).runs b.launch && !(s.core c).takesBook b
  let stays := !refused.isEmpty && !s.cores.toList.any (·.takesBook b)
  let s := { s with cores := s.cores.map (·.stage b) }
  let s := refused.foldl (fun s c => s.modifyDev (·.report 5 [b.launch, word c.val])) s
  if stays then s
  else s.modifyDev fun d => { d with placed := d.placed.map fun p =>
    if p.link.launch = b.launch then { p with book := some b } else p }

/-- A REPL descriptor (R359): the book it names, or its drop. -/
def State.replaceBook (s : State) (q : QueueId) (slot : Nat) (d : Desc) : State :=
  match (s.readBook d.root (d.word 8)).run [] with
  | .ok (some (some (code, index)), _) =>
    if s.dev.placed.any (·.link.launch == d.word 24) then
      s.stageBook { launch := d.word 24, version := s.bookVersion (d.word 24) + 1, code, index }
    else s.dropDescriptor q slot
  | _ => s.dropDescriptor q slot

/-- A launch of more harts than the contexts in service hold is dropped (R418).  The cores that the model does not
hold are in service (log 1). -/
def State.fitsService (s : State) (l : LaunchLink) : Bool :=
  decide (l.harts ≤ (384 - coreCount - s.dev.fencedElsewhere.length + s.cores.toList.countP fun k => !k.fenced) * l.part.inverse)

/-- An arrived descriptor is dropped, waits for a record, or is accepted (R353, R355). -/
def State.takeDescriptor (s : State) (q : QueueId) (slot : Nat) (d : Desc) : State :=
  let link := d.link q s.dev.queues[q.val].level
  if !d.valid s.anySrh || (s.dev.cancelledId link).isSome then s.dropDescriptor q slot
  else if d.repl then s.replaceBook q slot d
  else
    if !s.fitsService link then s.dropDescriptor q slot
    else
      match s.launchOf d link with
      | .ok (some m, _) =>
        if s.dev.unaccepted.any (·.1 == q) || !s.dev.recordsFree link then
          s.modifyDev fun dev => { dev with unaccepted := dev.unaccepted ++ [(q, slot, d)] }
        else s.acceptLaunch m true
      | _ => s.dropDescriptor q slot

/-- DESCRIPTOR_ARRIVAL (R355): HEAD advances as a slot of the ring arrives. -/
def execDescriptorArrival (queue : QueueId) (descriptor : BitVec 2048) (s : State) : Host.Outcome State Fault Refusal :=
  let q := s.dev.queues[queue.val]
  if s.dev.ready && (q.en || q.inFlight) && q.head != q.end_ then
    let s := s.modifyDev fun d =>
      { d with queues := d.queues.set queue.val { q with head := q.next q.head, inFlight := false } }
    .next (s.takeDescriptor queue q.head.toNat descriptor)
  else .next s

/-- QTAIL_WRITE (R436). -/
def execQtailWrite (queue : QueueId) (value : BitVec 64) (s : State) : Host.Outcome State Fault Refusal :=
  .next (s.modifyDev fun d =>
    { d with queues := d.queues.set queue.val { d.queues[queue.val] with tail := value.setWidth 16 } })

/-- QCTL_WRITE (R436): LOG2N takes effect only while EN = 0. -/
def execQctlWrite (queue : QueueId) (value : BitVec 64) (s : State) : Host.Outcome State Fault Refusal :=
  .next (s.modifyDev fun d =>
    let q := d.queues[queue.val]
    let en := bitAt value.toNat 31
    let n := fieldOf value.toNat 0 5
    { d with queues := d.queues.set queue.val { q with
        en
        level := BitVec.ofNat 3 (fieldOf value.toNat 8 3)
        log2n := if q.en then q.log2n else if 1 ≤ n ∧ n ≤ 16 then BitVec.ofNat 5 n else 16
        inFlight := (q.en || q.inFlight) && !en && q.head != q.end_ } })

/-- The first unaccepted descriptors of the queues are taken again, in their order, as records fall free. -/
def State.retryUnaccepted (s : State) : State :=
  let waiting := s.dev.unaccepted
  let s := s.modifyDev fun d => { d with unaccepted := [] }
  waiting.foldl (fun s e => s.takeDescriptor e.1 e.2.1 e.2.2) s

/-- JOB_RETIRED (R353): the records of a job whose OUT is 0 are released. -/
def execJobRetired (job : BitVec 64) (s : State) : Host.Outcome State Fault Refusal :=
  match s.dev.record 4 job with
  | some r =>
    if r.out = 0 then
      .next (s.modifyDev fun d => { d with records := d.records.filter (·.job != job) }).retryUnaccepted
    else .next s
  | none => .next s

/-! ### Cancel and fence reach a hart (R372, R417) -/

/-- A GANG that waits with its status is complete (R199, R201, R202). -/
def Hart.finishGang (h : Hart) : Hart :=
  match h.verdict with
  | some v => ({ h with verdict := none, pc := h.pc + 4 } : Hart).writeX (BitVec.ofNat 6 h.waitDest) v
  | none => h

/-- The hart of a context takes the trap of a cause that is due to it, at an instruction boundary or in its wait.  On a
fenced core, which issues no user instruction, a GANG that waits with its status completes first (R449), and a trap whose
entry waited for the strip is taken here (R394). -/
def State.deliverDue (s : State) (c : CoreId) (x : CtxId) (cause : BitVec 8) : State :=
  let open_ : Bool := match s.status c x with
    | .running => true
    | .waiting _ => true
    | _ => false
  let t := s.actingAs c x
  let t := if (s.core c).fenced then t.modifyMe Hart.finishGang else t
  match t.me.dueTrap with
  | some trap =>
    let now := if t.me.trapDue.isSome then (s.core c).fenced && !t.commitWaits else trap.cause == cause
    if open_ && now then { t.takeDue trap with cur := s.cur } else s
  | none => s

/-- HART_CANCELLED (R372). -/
def execHartCancelled (core : CoreId) (ctx : UserCtx) (s : State) : Host.Outcome State Fault Refusal :=
  .next (s.deliverDue core (userId ctx) causeCancelled)

/-- HART_FENCED (R417): a cancel that is due is taken first. -/
def execHartFenced (core : CoreId) (ctx : UserCtx) (s : State) : Host.Outcome State Fault Refusal :=
  .next (s.deliverDue core (userId ctx) causeFenced)

end Sys2Proof.Machine
end

