-- ==== Sys2Proof/Machine/Arbiter.lean ====
section
/-!
DEFINITION. The Arbiter and the launch scheduler (R358-R366): selection by level and deficit round robin, placement of
whole launches, eviction and the restore of switched-out contexts.  Where R13 and R360 leave the choice of cores to the
device, the lowest numbers are taken.
-/

namespace Sys2Proof.Machine

/-! ### Levels and work (R281, R363) -/

/-- The boost that a hart gets from the objects it holds. -/
def State.boostOf (s : State) (id : BitVec 48) : Nat :=
  ((s.dev.held.filter fun e => e.1 == id && s.isHolder e.2 id).map fun e => fieldOf (s.getWord e.2) 56 3).foldl max 0

/-- The level of a hart: its priority or its boost. -/
def State.levelOf (s : State) (id : BitVec 48) (l : LaunchLink) : Nat := max l.prio.toNat (s.boostOf id)

/-- Work that waits for resources: a context to restore, or a launch to place. -/
inductive Work where
  | context (o : SwitchedOut)
  | entry (e : PoolEntry)
  deriving DecidableEq, Repr

def Work.link : Work → LaunchLink
  | .context o => o.link
  | .entry e => e.launch.link

/-- The weight of a queue. -/
def Device.weightOf (d : Device) (q : QueueId) : Nat := d.queues[q.val].weight.toNat

/-- The level at which work waits; the contexts of a queue of WEIGHT 0 wait at its LEVEL. -/
def State.workLevel (s : State) : Work → Nat
  | .context o => if s.dev.weightOf o.link.queue = 0 then s.dev.queues[o.link.queue.val].level.toNat else s.levelOf o.id o.link
  | .entry e => e.launch.link.prio.toNat

/-- The work of a queue, in the order of step 4 of R363: eligible contexts, pool entries, and the ring's head. -/
def State.workOf (s : State) (q : QueueId) : List Work :=
  let contexts := (s.dev.switchedOut.filter fun o => o.link.queue == q && s.eligible o).map Work.context
  if s.dev.weightOf q = 0 then contexts
  else
    let mine := s.dev.pool.filter (·.launch.link.queue == q)
    contexts ++ (mine.filter fun e => !e.fromRing).map Work.entry ++ ((mine.filter (·.fromRing)).take 1).map Work.entry

/-- The work of a queue at a level. -/
def State.workAt (s : State) (level : Nat) (q : QueueId) : List Work := (s.workOf q).filter fun w => s.workLevel w == level

/-- The queues, from the one after the queue served last, wrapping (step 2). -/
def Device.scanOrder (d : Device) : List QueueId :=
  let first := match d.lastQueue with
    | some q => q.val + 1
    | none => 0
  (List.range 256).map fun i => Fin.ofNat 256 (first + i)

/-- The queues with work at a level, in scan order; the one served last stands first while it has credit. -/
def State.queuesAt (s : State) (level : Nat) (blocked : List QueueId) : List QueueId :=
  let qs := s.dev.scanOrder.filter fun q => !blocked.contains q && !(s.workAt level q).isEmpty
  match s.dev.lastQueue with
  | some q => if qs.contains q ∧ 0 < s.dev.queues[q.val].deficit then q :: qs.filter (· != q) else qs
  | none => qs

/-- The first queue with credit. -/
def Device.withCredit (d : Device) (qs : List QueueId) : Option QueueId := qs.find? fun q => decide (0 < d.queues[q.val].deficit)

/-- DEFICIT_REPLENISH (step 3): WEIGHT x 4,096 for each queue, up to twice its quantum. -/
def Device.replenish (d : Device) (qs : List QueueId) : Device :=
  { d with queues := qs.foldl (fun v q =>
      let t := v[q.val]
      let quantum : Int := (t.weight.toNat * 4096 : Nat)
      v.set q.val { t with deficit := min (t.deficit + quantum) (2 * quantum) }) d.queues }

/-- Steps 1 to 4: the queue chosen and its work, with the deficits as the choice leaves them. -/
def State.select (s : State) (blocked : List QueueId) : Option (QueueId × Work) × State :=
  let s := s.settleQueues
  match [7, 6, 5, 4, 3, 2, 1, 0].find? fun l => !(s.queuesAt l blocked).isEmpty with
  | none => (none, s)
  | some level =>
    let qs := s.queuesAt level blocked
    let s' := match s.dev.withCredit qs with
      | some _ => s
      | none => s.modifyDev (·.replenish (s.queuesAt level []))
    let q := match s'.dev.withCredit qs with
      | some q => some q
      | none => qs.head?
    (q.bind fun q => ((s.workAt level q).head?).map fun w => (q, w), s')

/-! ### Room (R360) -/

/-- A record of a code that firmware has not finished with on a core. -/
def Core.holdsRecord (k : Core) (p : Record → Bool) : Bool := (k.ordinary ++ k.outside ++ k.inHand.toList).any p

/-- A RESTORE is unserved on a core: the room it needs is taken (R361). -/
def State.restorePending (s : State) (c : CoreId) : Bool :=
  (s.core c).holdsRecord fun r => match r.of with
    | .restore id => s.dev.switchedOut.any fun o => o.id == id && o.selected
    | _ => false

/-- A core takes work: it is in service, no restore is unserved there, and no ganged hart fills it from below. -/
def State.takesWork (s : State) (c : CoreId) : Bool :=
  !(s.core c).fenced && !s.restorePending c && !(isUpper c && s.gangHolds c)

/-- Pieces of a buffer that a launch holds on a core. -/
def Core.piecesTaken (k : Core) (b : BufId) : Nat := k.pieces.countP fun p => p.buf == b && p.launch != 0

/-- WPC and XPC free pieces on a core. -/
def Core.hasPieces (k : Core) (wpc xpc : Nat) : Bool :=
  decide (k.piecesTaken .w + wpc ≤ 48) && decide (k.piecesTaken .x + xpc ≤ 32)

/-- The lowest free context of a core, among those allowed. -/
def Core.freeCtx (k : Core) (ok : UserCtx → Bool) : Option UserCtx :=
  (List.finRange 4).find? fun x => ok x && k.ctxs[x.val].status == .free

/-- A place for a hart: core, context and first quarter. -/
structure Seat where
  core : CoreId
  ctx : UserCtx
  quarter : Fin 4
  deriving DecidableEq, Repr

/-- The core with a seat taken, for planning. -/
def Core.reserve (k : Core) (x : UserCtx) (p : Part) (a : Fin 4) : Core :=
  { k with ctxs := k.ctxs.set x.val { status := .running, hart := { quarter := a, link := { part := p } } } }

/-- Seats for n harts of a partition size on the cores allowed. -/
def planHarts (ok : CoreId → Bool) (p : Part) : Nat → Vector Core 4 → Option (List Seat)
  | 0, _ => some []
  | n + 1, ks =>
    let seat (c : CoreId) : Option Seat :=
      if !ok c then none
      else
        match ks[c.val].freeCtx (fun _ => true), ks[c.val].regionFor p with
        | some x, some a => some { core := c, ctx := x, quarter := a }
        | _, _ => none
    match allCores.findSome? seat with
    | none => none
    | some t =>
      (planHarts ok p n (ks.set t.core.val (ks[t.core.val].reserve t.ctx p t.quarter))).map (t :: ·)

/-- Seats for n gang pairs: one context number on both cores. -/
def planPairs (ok : CoreId → Bool) : Nat → Vector Core 4 → Option (List Seat)
  | 0, _ => some []
  | n + 1, ks =>
    let seats (c : CoreId) : Option (Seat × Seat) :=
      let d := upperCore c
      if isUpper c || !ok c || !ok d then none
      else
        match ks[c.val].freeCtx (fun x => ks[d.val].ctxs[x.val].status == .free), ks[c.val].regionFor .whole,
          ks[d.val].regionFor .whole with
        | some x, some a, some b => some ({ core := c, ctx := x, quarter := a }, { core := d, ctx := x, quarter := b })
        | _, _, _ => none
    match allCores.findSome? seats with
    | none => none
    | some (t, u) =>
      let ks := ks.set t.core.val (ks[t.core.val].reserve t.ctx .whole t.quarter)
      (planPairs ok n (ks.set u.core.val (ks[u.core.val].reserve u.ctx .whole u.quarter))).map fun ts => t :: u :: ts

/-- The harts of a launch that the cores of the model take: the lowest, as many as its cores in service hold.  The cores that the model
does not hold take the others (R13, R360, log 1). -/
def State.shareOf (s : State) (m : Launch) : Nat :=
  let serving := allCores.filter fun c => !(s.core c).fenced
  let pairs := serving.countP fun c => !isUpper c && !(s.core (upperCore c)).fenced
  min m.link.harts (if m.paired then 2 * pairs else serving.length * m.link.part.inverse)

/-- Where every hart of a launch that the cores of the model take can be placed at once, by hart index. -/
def State.plan (s : State) (m : Launch) : Option (List Seat) :=
  let ok (c : CoreId) : Bool := s.takesWork c && (s.core c).hasPieces m.wpc m.xpc
  if m.paired then planPairs ok (s.shareOf m / 2) s.cores else planHarts ok m.link.part (s.shareOf m) s.cores

/-- The core and context where a switched-out context can be restored; a ganged one goes to a lower core (R200). -/
def State.restoreSeat (s : State) (o : SwitchedOut) : Option (CoreId × UserCtx) :=
  let on (c : CoreId) : Option (CoreId × UserCtx) :=
    if s.takesWork c && ((s.core c).lowestRegion o.link.part).isSome then
      ((s.core c).freeCtx fun _ => true).map fun x => (c, x)
    else none
  allCores.findSome? fun c => if o.hart.gang = .lower ∧ isUpper c then none else on c

/-! ### Placement and the start of harts (R357-R360) -/

/-- Numbers of the free pieces of a buffer on a core, lowest first. -/
def Core.freePieces (k : Core) (b : BufId) : List Nat :=
  (List.range (match b with
    | .w => 48
    | .x => 32)).filter fun n => !k.pieces.any fun p => p.buf == b && p.number == n && p.launch != 0

/-- A piece zeroed, its marks cleared (R140). -/
def Core.zeroPiece (k : Core) (b : BufId) (n : Nat) : Core :=
  let keep (a : Nat) : Bool := !overlap a 1 (n * 65536) 65536
  (k.setBuffer b ((k.buffer b).filter fun e => keep e.1)).setPoison b ((k.poisonOf b).filter fun w => keep (w * 8))

/-- A piece given to a launch: zeroed where a launch of another ASN had it last. -/
def Core.givePiece (k : Core) (b : BufId) (launch : Word) (asn : BitVec 16) (n : Nat) : Core :=
  let mine (p : Piece) : Bool := p.buf == b && p.number == n
  let k := if k.pieces.any fun p => mine p && p.asn != asn then k.zeroPiece b n else k
  { k with pieces := k.pieces.filter (fun p => !mine p) ++ [{ buf := b, number := n, launch, asn }] }

/-- The pieces of a launch on a core. -/
def Core.givePieces (k : Core) (m : Launch) : Core :=
  let asn := m.link.root.setWidth 16
  let k := ((k.freePieces .w).take m.wpc).foldl (fun k n => k.givePiece .w m.link.launch asn n) k
  ((k.freePieces .x).take m.xpc).foldl (fun k n => k.givePiece .x m.link.launch asn n) k

/-- A hart at its start (R25, R357): `lanes` active lanes, `lazy_` where its region is owned lazily (R416). -/
def startHart (m : Launch) (index : Nat) (id : BitVec 48) (quarter : Fin 4) (lanes : Nat) (lazy_ : Bool)
    (cancelled : Option Word) : Hart :=
  let vmax := vlmaxOf lanes m.link.part 32
  let vec : VecState := {}
  let h : Hart :=
    { pc := m.entry, x := m.x, md := m.md, w := m.w, c := m.c, vcfg := m.vcfg, streams := m.streams
      vec := vec.cleared vmax, vlmax := BitVec.ofNat 16 vmax, vlazy := lazy_
      id, link := { m.link with index }, quarter, cancelled }
  h.beginStrip m.entry

/-- The book of a launch as its first version. -/
def Launch.book0 (m : Launch) : Option Book :=
  m.book.map fun b => { launch := m.link.launch, version := 0, code := b.1, index := b.2 }

/-- One hart of a launch placed on its seat. -/
def State.placeHart (s : State) (m : Launch) (index : Nat) (t : Seat) : State :=
  let id := BitVec.ofNat 48 (s.dev.devnum.toNat * 2 ^ 32 + s.dev.serial.toNat)
  let cancelled := s.dev.cancelledId m.link
  (s.modifyCore t.core fun k =>
    let k := k.loadBook m.book0
    let h := startHart m index id t.quarter k.lanes (!(k.lazyIn m.link.part t.quarter).isEmpty) cancelled
    let k := { k with ctxs := k.ctxs.set t.ctx.val { status := .running, hart := h, since := k.cycles.toNat } }
    { k with advice := k.advice.set t.ctx.val { running := (k.bookOf t.ctx).isSome } }).modifyDev fun d =>
      { d with serial := d.serial + 1 }

/-- The launch among those placed. -/
def Device.addPlaced (d : Device) (m : Launch) : Device :=
  if d.placed.any (·.link.launch == m.link.launch) then
    { d with placed := d.placed.map fun p =>
        if p.link.launch = m.link.launch then { p with live := p.live + m.link.harts } else p }
  else { d with placed := d.placed ++ [{ link := m.link, book := m.book0, live := m.link.harts, fenced := false }] }

/-- A launch placed whole on its seats. -/
def State.placeLaunch (s : State) (m : Launch) (seats : List Seat) : State :=
  let used := allCores.filter fun c => seats.any (·.core == c)
  let s := used.foldl (fun s c => s.modifyCore c fun k => k.givePieces m) s
  let s := seats.zipIdx.foldl (fun s t => s.placeHart m t.2 t.1) s
  let s := s.modifyDev (·.addPlaced m)
  used.foldl (fun s c => (s.residencyChanged c).wakeCore c) s

/-- A hart of a placed launch ends on a core that the model does not hold, if any runs there (R353, log 1). -/
def State.endElsewhere (s : State) (launch : Word) (failed : Bool) : State :=
  match s.dev.placed.find? fun p => p.link.launch == launch with
  | none => s
  | some p =>
    let here := (s.cores.toList.map fun k => k.ctxs.toList.countP fun t => t.status != .free && t.hart.link.launch == launch).sum
      + s.dev.switchedOut.countP fun o => o.link.launch == launch
    if here < p.live then s.countHart p.link failed else s

/-- LAUNCH_PLACEMENT (R360): the launch that the Arbiter has selected, or its return to the pool. -/
def execLaunchPlacement (s : State) : Host.Outcome State Fault Refusal :=
  match s.dev.selected with
  | none => .next s
  | some e =>
    let s := s.modifyDev fun d => { d with selected := none }
    match s.plan e.launch with
    | some seats => .next (s.placeLaunch e.launch seats)
    | none => .next (s.modifyDev fun d => { d with pool := e :: d.pool })

/-! ### Eviction (R362, R366, R400) -/

/-- A wait under R276, a stall in LAUNCH, or a parked GANG (R362): on the upper core a GANG parks from its start (R199). -/
def Wait.isEvictable (c : CoreId) : Wait → Bool
  | .acq _ _ | .bar _ _ _ | .waitn _ | .watermark _ _ | .launch _ | .cwait _ _ | .promises | .xwait _ _ _ | .arrivals
  | .parked => true
  | .gang => isUpper c
  | .cpywait _ | .copyQueue | .cbwait _ | .cbinit _ | .swait _ | .pop _ | .exit | .wfn | .fills | .followOns | .strip
  | .release _ | .cbrel _ | .copyRange _ => false

/-- A context that waits and is evictable. -/
def State.isEvictable (s : State) (c : CoreId) (x : UserCtx) : Bool :=
  match s.status c (userId x) with
  | .waiting w => w.isEvictable c && !s.canIssue c x
  | _ => false

/-- A context stops for a service record (R400): steps 1 to 4 of R394, with its record left empty.  A trapped or a
stopped one stays as it is, and so does one whose trap is due.  Effects of the strip that follow a follow-on MMA are left
to its end (R241). -/
def State.stopContext (s : State) (c : CoreId) (x : UserCtx) : State :=
  let t := s.actingAs c (userId x)
  let stop (w : Option Wait) : State :=
    let t := t.quiesce.resetAdvice c (userId x)
    let t := t.modifyMe fun h =>
      { h with
        links := []
        abandoned := w
        trap := { epc := h.pc, elt := word h.eltDone, row := BitVec.ofNat 5 h.rowDone } }
    let id := t.me.id
    let t := t.modifyDev fun d =>
      { d with
        barWaiters := d.barWaiters.filter (·.hart != id)
        notifyWaiters := d.notifyWaiters.filter fun q => !(q.hart == id && q.core == c) }
    let t := t.modifyCore c fun k => { k with ctxs := k.ctxs.set x.val { k.ctxs[x.val] with status := .stopped, restored := false } }
    { t with cur := s.cur }
  match s.status c (userId x) with
  | .running => if t.me.trapDue.isSome then s else stop none
  | .waiting w => if t.me.trapDue.isSome then s else stop (some w)
  | _ => s

/-- The user contexts of a core that a service record can stop. -/
def State.stoppable (s : State) (c : CoreId) : List UserCtx :=
  (List.finRange 4).filter fun x => (s.hart c (userId x)).trapDue.isNone && match s.status c (userId x) with
    | .running => true
    | .waiting _ => true
    | _ => false

/-- An EVICT is unserved on a core. -/
def State.evictPending (s : State) (c : CoreId) : Bool := (s.core c).holdsRecord fun r => r.regs.stat.toNat / 2 ^ 40 % 256 == 1

/-- The device posts EVICT for a context. -/
def State.evict (s : State) (c : CoreId) (x : UserCtx) : State :=
  let stopped := (s.stoppable c).filter (· == x)
  (s.stopContext c x).post c { regs := { stat := tstat false true 4 false 1 x.val }, of := .stops stopped }

/-- The resident contexts of the cores in service that no service record has stopped. -/
def State.residents (s : State) : List (CoreId × UserCtx) :=
  (allCores.filter fun c => !(s.core c).fenced).flatMap fun c =>
    ((List.finRange 4).filter fun x => s.status c (userId x) != .free && s.status c (userId x) != .stopped).map
      fun x => (c, x)

/-- Cycles for which a context has been resident. -/
def State.residence (s : State) (p : CoreId × UserCtx) : Nat :=
  (s.core p.1).cycles.toNat - (s.core p.1).ctxs[p.2.val].since

/-- The context of a list that has been resident longest. -/
def State.oldest (s : State) (ps : List (CoreId × UserCtx)) : Option (CoreId × UserCtx) :=
  ps.foldl (fun acc p => match acc with
    | none => some p
    | some q => if s.residence q < s.residence p then some p else some q) none

/-- The level of a resident context. -/
def State.residentLevel (s : State) (p : CoreId × UserCtx) : Nat :=
  let h := s.hart p.1 (userId p.2)
  s.levelOf h.id h.link

/-- The victim of classes 1 and 2 for work of a level. -/
def State.victim (s : State) (level : Nat) : Option (CoreId × UserCtx) :=
  match s.oldest (s.residents.filter fun p => s.isEvictable p.1 p.2) with
  | some p => some p
  | none => s.oldest (s.residents.filter fun p => decide (s.residentLevel p < level))

/-- The victim of class 3 on a core: the same level, from a queue without credit. -/
def State.victimAtBoundary (s : State) (c : CoreId) (level : Nat) : Option (CoreId × UserCtx) :=
  s.oldest (s.residents.filter fun p =>
    p.1 == c && s.residentLevel p == level && decide (s.dev.queues[(s.hart p.1 (userId p.2)).link.queue.val].deficit ≤ 0))

/-! ### Selection (R363) -/

/-- A switched-out context selected for restore on a core (R400): TSTAT.CTX names the free context. -/
def State.postRestore (s : State) (o : SwitchedOut) (c : CoreId) (x : UserCtx) : State :=
  (s.modifyDev fun d =>
    { d with switchedOut := d.switchedOut.map fun p => if p.id = o.id then { p with selected := true } else p }).post c
      { regs := { val := o.image, stat := tstat false true 4 false 2 x.val }, of := .restore o.id }

/-- The queue that was served. -/
def State.serve (s : State) (q : QueueId) : State := s.modifyDev fun d => { d with lastQueue := some q }

/-- Selected work given its room, if there is any: a launch goes to the launch scheduler, a context to firmware. -/
def State.give (s : State) (q : QueueId) : Work → Option State
  | .context o => (s.restoreSeat o).map fun p => (s.postRestore o p.1 p.2).serve q
  | .entry e =>
    if (s.plan e.launch).isSome then
      some ((s.modifyDev fun d => { d with pool := eraseFirst (· == e) d.pool, selected := some e }).serve q)
    else none

/-- The selection, and the work of other queues where a queue's work has no room: one victim is asked for it. -/
def State.arbitrate (s : State) : Nat → List QueueId → State
  | 0, _ => s
  | n + 1, blocked =>
    match s.select blocked with
    | (none, s) => s
    | (some (q, w), s) =>
      match s.give q w with
      | some s => s
      | none =>
        let s := if allCores.any s.evictPending then s
          else match s.victim (s.workLevel w) with
            | some p => s.evict p.1 p.2
            | none => s
        s.arbitrate n (q :: blocked)

/-- ARBITER_SELECTION (R363). -/
def execArbiterSelection (s : State) : Host.Outcome State Fault Refusal :=
  if s.dev.selected.isSome then .next s else .next (s.arbitrate 256 [])

/-- ARBITER_BOUNDARY (R366): a core's clock is at a multiple of 4,096 cycles. -/
def execArbiterBoundary (core : CoreId) (s : State) : Host.Outcome State Fault Refusal :=
  if (s.core core).cycles.toNat % 4096 ≠ 0 ∨ s.dev.selected.isSome then .next s
  else
    match s.select [] with
    | (none, _) => .next s
    | (some (q, w), s) =>
      if (s.give q w).isSome || allCores.any s.evictPending || decide (s.dev.queues[q.val].deficit ≤ 0) then .next s
      else
        match (s.victim (s.workLevel w)).or (s.victimAtBoundary core (s.workLevel w)) with
        | some p => .next (s.evict p.1 p.2)
        | none => .next s

/-- QUEUE_WEIGHT_WRITE (R365): what an STD to the queue window writes. -/
def execQueueWeightWrite (queue : QueueId) (value : BitVec 64) (s : State) : Host.Outcome State Fault Refusal :=
  .next (s.performStore (.weight queue) 8 value.toNat)

end Sys2Proof.Machine
end

