-- ==== Sys2Proof/Machine/Context.lean ====
section
/-!
DEFINITION. Context images and CTXSW (R410, R413-R416).  Where R413 names contents without their bits (the recorded wait
and the MMA restart record), the layout is the model's own (log 15).
-/

namespace Sys2Proof.Machine

/-! ### ADVSTAT (R345) -/

/-- ADVSTAT as SYSRD reads it: IDLING and BOOKV stand with the advice context. -/
def AdvStat.word (a : AdvStat) (idling booked : Bool) : Nat :=
  pack [(1, if booked then 1 else 0), (1, if idling then 1 else 0), (6, 0), (8, a.reset.toNat), (8, a.idle.toNat),
    (8, a.realign.toNat), (8, a.marklost.toNat), (8, a.dropop.toNat), (16, a.dropf.toNat)]

/-- The counters of an ADVSTAT word. -/
def AdvStat.ofWord (x : Nat) : AdvStat :=
  { dropf := BitVec.ofNat 16 (fieldOf x 48 16), dropop := BitVec.ofNat 8 (fieldOf x 40 8)
    marklost := BitVec.ofNat 8 (fieldOf x 32 8), realign := BitVec.ofNat 8 (fieldOf x 24 8)
    idle := BitVec.ofNat 8 (fieldOf x 16 8), reset := BitVec.ofNat 8 (fieldOf x 8 8) }

/-- ADVSTAT of a context. -/
def Core.advstat (k : Core) (x : UserCtx) : Nat :=
  k.ctxs[x.val].hart.adv.word (!k.advice[x.val].running) (k.bookOf x).isSome

/-! ### The parts of a scalar image -/

def Part.code : Part → Nat
  | .whole => 0
  | .half => 1
  | .quarter => 2

def Part.ofCode (c : Nat) : Part :=
  match c with
  | 0 => .whole
  | 1 => .half
  | _ => .quarter

def Phase.code : Phase → Nat
  | .unset => 0
  | .loaded => 1
  | .armed => 2
  | .running => 3
  | .done => 4

def Phase.ofCode (c : Nat) : Phase :=
  match c with
  | 0 => .unset
  | 1 => .loaded
  | 2 => .armed
  | 3 => .running
  | _ => .done

/-- Kind and VA of a recorded wait. -/
def Wait.record : Wait → Nat × Word
  | .acq va _ => (1, va)
  | .bar va _ _ => (2, va)
  | .waitn n => (3, word n.toNat)
  | .watermark va _ => (4, va)
  | .launch _ => (5, 0)
  | .cwait _ id => (6, id)
  | .cpywait t => (7, t)
  | .copyQueue => (8, 0)
  | .cbwait n => (9, word n.toNat)
  | .cbinit n => (10, word n.toNat)
  | .promises => (11, 0)
  | .swait i => (12, word i.val)
  | .pop i => (13, word i.val)
  | .xwait va _ _ => (14, va)
  | .arrivals => (15, 0)
  | .gang => (16, 0)
  | .parked => (17, 0)
  | .exit => (18, 0)
  | .wfn => (19, 0)
  | .fills => (20, 0)
  | .followOns => (21, 0)
  | .strip => (22, 0)
  | .release _ => (23, 0)
  | .cbrel n => (24, word n.toNat)
  | .copyRange t => (25, t)

/-- The fields of a stream (96 bytes). -/
def packStream (t : Stream) : List (Nat × Nat) :=
  [(512, t.spec.toNat), (64, t.position.toNat), (64, t.cond.toNat), (64, t.threshold.toNat), (3, t.phase.code), (5, 0),
    (6, (t.bound.map (·.toNat)).getD 0), (1, 0), (1, if t.bound.isSome then 1 else 0), (48, 0)]

/-- A list of (VA, generation) pairs in n entries of 16 bytes. -/
def packPairs (n : Nat) (ps : List (Word × Word)) : List (Nat × Nat) :=
  (List.range n).flatMap fun i => match ps[i]? with
    | some p => [(64, p.1.toNat), (64, p.2.toNat)]
    | none => [(128, 0)]

/-- An operand of the MMA restart record (2,368 bits): its kind, then a descriptor or a generator and its table. -/
def packOperand : MmaOperand → List (Nat × Nat)
  | .descriptor d => [(64, 0), (64, d.va.toNat), (64, d.stride.toNat), (2176, 0)]
  | .generator k t => [(64, 1), (256, k.toNat), (2048, t.toNat)]

/-- The MMA restart record (1,024 bytes): the word of the MMA, 0 where there is none, then SA and SB. -/
def packMma (m : Option MmaWork) : List (Nat × Nat) :=
  match m with
  | none => [(8192, 0)]
  | some w => [(64, w.word.toNat)] ++ packOperand w.a ++ packOperand w.b ++ [(3392, 0)]

def packTrap (t : TrapRegs) : List (Nat × Nat) :=
  [(64, t.cause.toNat), (64, t.val.toNat), (64, t.epc.toNat), (64, t.elt.toNat), (64, t.stat.toNat), (64, t.row.toNat)]

def packPromise (p : PendingPromise) : List (Nat × Nat) :=
  [(64, p.cell.toNat), (6, p.dest.toNat), (57, 0), (1, 1), (128, 0)]

/-- Entries of a table of n, each `w` bits, the rest 0. -/
def packTable {α : Type} (n w : Nat) (f : α → List (Nat × Nat)) (xs : List α) : List (Nat × Nat) :=
  (xs.take n).flatMap f ++ [((n - (xs.take n).length) * w, 0)]

/-- The scalar image of a hart (R413), with its ADVSTAT. -/
def Hart.scalarImage (h : Hart) (advstat : Nat) : Nat :=
  let wait := (h.abandoned.map Wait.record).getD (0, 0)
  pack (
    [(8, 1), (8, 1), (2, h.link.part.code), (1, if h.gang = .lower then 1 else 0), (1, if h.zsaved then 1 else 0), (44, 0),
      (64, h.id.toNat), (64, h.pc.toNat)]
    ++ (h.x.toList.drop 1).map (fun r => (64, r.toNat))
    ++ [(64, h.full.toNat), (64, h.vcfg.toNat), (64, h.vl.toNat), (64, h.vrows.toNat), (64, h.vst.toNat), (64, h.names.toNat)]
    ++ h.md.toList.flatMap (fun d => [(64, d.va.toNat), (64, d.stride.toNat)])
    ++ h.k.toList.map (fun k => (256, k.toNat))
    ++ h.freq.toList.map (fun f => (2048, f.toNat))
    ++ h.streams.toList.flatMap packStream
    ++ h.w.toList.flatMap (fun w => [(64, w.word.toNat), (64, w.base.toNat), (64, w.limit.toNat), (64, w.unit.toNat)])
    ++ packTable 16 192 (fun b => [(64, b.object.toNat), (64, b.base.toNat), (64, b.length.toNat)]) h.bindings
    ++ packPairs 8 (h.barriers.map fun m => (m.va, m.gen))
    ++ packPairs 8 (h.arrivals.map fun m => (m.va, m.gen))
    ++ [(64, h.seq.toNat), (64, h.elemBase.toNat), (64, advstat), (64, h.nrg.toNat), (3, h.link.prio.toNat), (5, 0),
      (5, h.link.slotw.toNat), (51, 0)]
    ++ [(64, wait.1), (64, wait.2.toNat), (64, if h.abandoned.isSome then h.waitDest else 0),
      (64, match h.grant with
        | some g => g.2.toNat + 1
        | none => 0)]
    ++ [(64, h.link.launch.toNat), (64, h.link.graph.toNat), (64, h.link.phase.toNat), (64, h.link.job.toNat),
      (64, h.link.root.toNat)]
    ++ packTrap h.trap
    ++ [(64, h.vimage.toNat), (64, h.zimage.toNat)]
    ++ packMma h.mma
    ++ h.c.toList.map (fun c => (64, c.toNat))
    ++ packTable 8 256 packPromise h.promises
    ++ [(64, h.vstat), (64, h.vlmax.toNat)])

/-- Bytes of a scalar image. -/
def scalarImageBytes : Nat := 8192

/-- The word at a byte offset of an image. -/
def imageWord (x off : Nat) : Nat := fieldOf x (8 * off) 64

/-- The fourth word of a stream in an image has no reserved bit set: phase, bound name and BOUND (R413). -/
def streamWordOk (w : Nat) : Bool :=
  decide (fieldOf w 0 3 ≤ 4) && fieldOf w 3 5 == 0 && fieldOf w 14 1 == 0 && fieldOf w 16 48 == 0

/-- An entry of the pending-promise table: its second word, and two words of zero (R413). -/
def promiseEntryOk (x off : Nat) : Bool :=
  let w := imageWord x (off + 8)
  fieldOf w 6 57 == 0 && imageWord x (off + 16) == 0 && imageWord x (off + 24) == 0

/-- TSTAT with no reserved bit set (R412). -/
def tstatOk (w : Nat) : Bool := fieldOf w 3 37 == 0 && fieldOf w 48 9 == 0

/-- The streams beyond those of a partition are zero in an image (R171, R413). -/
def spareStreamsOk (x : Nat) : Bool :=
  let n := 8 / (Part.ofCode (fieldOf x 16 2)).inverse
  fieldOf x (8 * (2880 + 96 * n)) (8 * 96 * (8 - n)) == 0

/-- An image keeps the layout of R413 where that numbers bits, with the reserved bits of the registers it holds (R27, R345,
R390, R412): header, full/empty bits, VCFG, vl, N, vrows, streams, ADVSTAT, NRG, priority and weight, trap record, pending
promises, VSTAT, VLMAX and the reserved bytes at its end. -/
def scalarImageOk (x : Nat) : Bool :=
  let w := imageWord x 0
  let n := imageWord x 440
  let vcfg := imageWord x 408
  let prio := imageWord x 4576
  fieldOf w 0 16 == 0x101 && fieldOf w 16 2 != 3 && fieldOf w 20 44 == 0
    && decide (imageWord x 8 < 2 ^ 48) && decide (imageWord x 400 < 2 ^ 48)
    && decide (vcfg < 2 ^ 11) && !bitAt vcfg 3
    && (n == 8 || n == 16 || n == 32 || n == 64)
    && decide (imageWord x 416 < 2 ^ 32) && decide (1 ≤ imageWord x 424) && decide (imageWord x 424 ≤ 32)
    && (List.range 8).all (fun i => streamWordOk (imageWord x (2880 + 96 * i + 88))) && spareStreamsOk x
    && fieldOf (imageWord x 4560) 2 6 == 0 && decide (imageWord x 4568 < 2 ^ 48)
    && fieldOf prio 3 5 == 0 && fieldOf prio 13 51 == 0
    && decide (imageWord x 4656 < 2 ^ 8) && tstatOk (imageWord x 4688) && decide (imageWord x 4696 < 2 ^ 5)
    && (List.range 8).all (fun i => promiseEntryOk x (6256 + 32 * i))
    && decide (imageWord x 6512 < 8) && decide (imageWord x 6520 < 2 ^ 16)
    && x / 2 ^ (8 * 6528) == 0

/-- The entries of a table of (VA, generation) pairs; a pair of zeros is no entry. -/
def unpackPairs (x off n : Nat) : List (Word × Word) :=
  ((List.range n).map fun i => (word (imageWord x (off + 16 * i)), word (imageWord x (off + 16 * i + 8)))).filter fun p =>
    !(p.1 == 0 && p.2 == 0)

def unpackStream (x off : Nat) : Stream :=
  let w := imageWord x (off + 88)
  { spec := BitVec.ofNat 512 (x / 2 ^ (8 * off))
    position := word (imageWord x (off + 64))
    cond := word (imageWord x (off + 72))
    threshold := word (imageWord x (off + 80))
    phase := Phase.ofCode (fieldOf w 0 3)
    bound := if bitAt w 15 then some (BitVec.ofNat 6 (fieldOf w 8 6)) else none }

def unpackOperand (x off : Nat) : MmaOperand :=
  if imageWord x off = 0 then .descriptor { va := word (imageWord x (off + 8)), stride := word (imageWord x (off + 16)) }
  else .generator (BitVec.ofNat 256 (x / 2 ^ (8 * (off + 8)))) (BitVec.ofNat 2048 (x / 2 ^ (8 * (off + 40))))

def unpackMma (x off : Nat) : Option MmaWork :=
  let w := imageWord x off
  if w / 2 ^ 26 = 0x30 then
    some
      { word := BitVec.ofNat 32 w
        acc := bitAt w 1, kn := BitVec.ofNat 2 (fieldOf w 2 2), fmt := BitVec.ofNat 4 (fieldOf w 4 4)
        z := BitVec.ofNat 4 (fieldOf w 20 4), a := unpackOperand x (off + 8), b := unpackOperand x (off + 304) }
  else none

def unpackTrap (x off : Nat) : TrapRegs :=
  { cause := BitVec.ofNat 8 (imageWord x off), val := word (imageWord x (off + 8)), epc := word (imageWord x (off + 16))
    elt := word (imageWord x (off + 24)), stat := word (imageWord x (off + 32))
    row := BitVec.ofNat 5 (imageWord x (off + 40)) }

/-- The hart that a scalar image describes; a hart switched out while trapped resumes at its TEPC, any other at the
resume address (R404). -/
def unpackScalar (x : Nat) : Hart :=
  let at_ (off : Nat) : Word := word (imageWord x off)
  let trap := unpackTrap x 4656
  let kind := imageWord x 4584
  let waitVa := at_ 4592
  let grant := imageWord x 4608
  let link : LaunchLink :=
    { launch := at_ 4616, graph := at_ 4624, phase := at_ 4632, job := at_ 4640, root := at_ 4648
      part := Part.ofCode (fieldOf x 16 2), prio := BitVec.ofNat 3 (imageWord x 4576)
      slotw := BitVec.ofNat 5 (imageWord x 4576 / 256) }
  { pc := at_ 16, first := false
    x := Vector.ofFn fun i : Fin 48 => if i.val = 0 then 0 else at_ (16 + 8 * i.val)
    full := setFlag (BitVec.ofNat 48 (imageWord x 400)) 0 true
    vcfg := at_ 408, vl := BitVec.ofNat 32 (imageWord x 416), vrows := BitVec.ofNat 6 (imageWord x 424)
    vst := at_ 432, names := BitVec.ofNat 7 (imageWord x 440)
    md := Vector.ofFn fun i : Fin 8 => { va := at_ (448 + 16 * i.val), stride := at_ (456 + 16 * i.val) }
    k := Vector.ofFn fun i : Fin 8 => BitVec.ofNat 256 (x / 2 ^ (8 * (576 + 32 * i.val)))
    freq := Vector.ofFn fun i : Fin 8 => BitVec.ofNat 2048 (x / 2 ^ (8 * (832 + 256 * i.val)))
    streams := Vector.ofFn fun i : Fin 8 => unpackStream x (2880 + 96 * i.val)
    w := Vector.ofFn fun i : Fin 8 =>
      let o := 3648 + 32 * i.val
      { word := at_ o, base := at_ (o + 8), limit := at_ (o + 16), unit := at_ (o + 24) }
    bindings := ((List.range 16).map fun i =>
      let o := 3904 + 24 * i
      ({ object := at_ o, base := at_ (o + 8), length := at_ (o + 16) } : Binding)).filter (·.length != 0)
    barriers := (unpackPairs x 4288 8).map fun p => { va := p.1, gen := p.2, pending := kind == 2 && waitVa == p.1 }
    arrivals := (unpackPairs x 4416 8).map fun p => { va := p.1, gen := p.2 }
    seq := at_ 4544, elemBase := at_ 4552, adv := AdvStat.ofWord (imageWord x 4560), nrg := BitVec.ofNat 48 (imageWord x 4568)
    grant := if grant = 0 then none else some (waitVa, word (grant - 1))
    link, id := BitVec.ofNat 48 (imageWord x 8)
    trap := if trap.cause = 0 then { trap with epc := at_ 16 } else trap
    vimage := at_ 4704, zimage := at_ 4712, mma := unpackMma x 4720
    c := Vector.ofFn fun i : Fin 64 => at_ (5744 + 8 * i.val)
    reloc := bitAt (imageWord x 6512) 1, shrunk := bitAt (imageWord x 6512) 0
    vlmax := BitVec.ofNat 16 (imageWord x 6520)
    zsaved := bitAt x 19, gang := if bitAt x 18 then .lower else .none }

/-- The pending-promise table of an image, in issue order. -/
def unpackPromises (x : Nat) : List PendingPromise :=
  (List.range 8).filterMap fun i =>
    let w := imageWord x (6264 + 32 * i)
    if bitAt w 63 then some { cell := word (imageWord x (6256 + 32 * i)), dest := BitVec.ofNat 6 w } else none

/-! ### SOUT (R410) -/

/-- The user context that CTXSEL names. -/
def Core.selected (k : Core) : UserCtx := Fin.ofNat 4 (k.ctxsel.toNat % 4)

/-- The engines have nothing of a context left to do (R161, R253), its strip has committed, and no trap of it is due. -/
def State.drained (s : State) (c : CoreId) (x : CtxId) : Bool :=
  let h := s.hart c x
  h.cmds.isEmpty && h.followOns.isEmpty && !s.pushesOf c x none && !s.addPending c x && h.strip.isEmpty && h.trapDue.isNone

/-- The device's record of a context that leaves its core; its vector contents stay in its region. -/
def Hart.leave (h : Hart) (c : CoreId) (x : UserCtx) (image : Word) : SwitchedOut :=
  { hart := { h with vec := { bufs := h.vec.bufs } }, image, core := c, ctx := x }

/-- The region that a hart leaves behind, owned lazily; a hart whose own region is another's, or whose half serves a
gang, leaves none. -/
def Hart.leftRegion (h : Hart) (image : Word) : List LazyRegion :=
  if h.vlazy ∨ h.gang = .parked then []
  else
    [{ owner := h.id, part := h.link.part, quarter := h.quarter, vec := h.vec, names := h.names, vlmax := h.vlmax
       shrunk := h.shrunk, image }]

/-- A hart's queued record leaves with it: it is in its image (R422). -/
def Core.takeRecords (k : Core) (x : CtxId) : Core :=
  let keep (r : Record) : Bool := !(r.of == .hart && r.regs.stat.toNat % 8 == x.val)
  ({ k with ordinary := k.ordinary.filter keep, outside := k.outside.filter keep } : Core).enqueue

/-- A stopped or trapped context leaves its core. -/
def State.switchOut (s : State) (c : CoreId) (x : UserCtx) (image : Word) : State :=
  let t := s.actingAs c (userId x)
  let h := t.me
  let regions := h.leftRegion image
  let t := t.withdrawPromises
  let t := t.modifyDev fun d => { d with switchedOut := d.switchedOut ++ [h.leave c x image] }
  let t := t.modifyCore c fun k => { k.takeRecords (userId x) with lazyRegions := k.lazyRegions ++ regions }
  let t := if h.gang = .lower then t.modifyCore (upperCore c) fun k => { k with lazyRegions := k.lazyRegions ++ regions } else t
  { t.freeContext c (userId x) with cur := s.cur }

/-- What an earlier stop left of a context's strip takes effect as far as it can (R241). -/
def State.commitRest (s : State) (c : CoreId) (x : CtxId) : State :=
  if (s.hart c x).strip.isEmpty || (s.hart c x).trapDue.isSome then s else { (s.actingAs c x).commitStrip with cur := s.cur }

/-- A switch-out resets the advice context (R343).  Where a service record or SOUT itself has stopped the context, that
pre-emption has counted it; a trapped context, and one that SIN has placed and nothing has stopped since, count it here. -/
def State.countSwitch (s : State) (c : CoreId) (x : UserCtx) : State :=
  let t := (s.core c).ctxs[x.val]
  if t.status = .trapped ∨ (t.status = .stopped ∧ t.restored) then s.resetAdvice c (userId x) else s

/-- The outcome of a CTXSW that is done or refused. -/
def State.answer (s : State) (d : Reg) (x : Nat) : Except Stop State := .ok (s.modifyMe fun h => h.writeX d (word x))

def switchOutOp (d : Reg) (va : Word) (s : State) : Except Stop State :=
  let c := s.cur.core
  let x := s.myCore.selected
  if s.status c (userId x) = .free then s.answer d 0xFF
  else
    let s := (s.stopContext c x).commitRest c (userId x)
    if !s.drained c (userId x) then .error (.stall s.stall)
    else
      let s := (s.countSwitch c x).takeShare c x
      let image := (s.hart c (userId x)).scalarImage ((s.core c).advstat x)
      match s.writeImage .memory va scalarImageBytes image with
      | .error e => .error e
      | .ok s => (s.switchOut c x va).answer d 0

/-! ### SIN (R410) -/

/-- Vector contents that nobody has given: free values (log 5).  The circular buffers stand uninitialised (log 30). -/
def State.freeVector (s : State) (vlmax : Nat) : VecState × State :=
  let ring (n : Nat) : Ring :=
    { entries := Vector.ofFn fun i => (Config.freeWord s.fresh (2 ^ 21 + 32 * n + i.val)).setWidth 32
      head := (Config.freeWord s.fresh (2 ^ 21 + 32 * n + 16)).setWidth 4 }
  ({ rings := Vector.ofFn fun n => ring n.val
     v := Vector.ofFn fun i : Fin 64 => ofWords 64 ((List.range vlmax).map fun j => (Config.freeWord s.fresh (i.val * 4096 + j)).toNat)
     m := Vector.ofFn fun i : Fin 8 =>
       ofWords 64 ((List.range (ceilDiv vlmax 8)).map fun j => (Config.freeWord s.fresh (2 ^ 20 + i.val * 4096 + j)).toNat) },
    s.takeFresh)

/-- A pending PWAIT registers again from its cell (R299); a cell that cannot be reached is polled. -/
def State.rearmPromise (s : State) (p : PendingPromise) : State :=
  let register (s : State) (root : Nat) (polls : Bool) : State :=
    (s.modifyDev fun d => { d with promiseWaiters := d.promiseWaiters ++
        [{ hart := s.me.id, cell := p.cell, root, dest := p.dest, polls }] }).modifyMe
      fun h => { h with promises := h.promises ++ [p] }
  match s.searchFor p with
  | .ok (c, s) =>
    if c.full then s.modifyMe fun h => h.completePromise p.cell p.dest (word (s.getWord c.pa))
    else register s c.pa (s.dev.poolIsFull c.pa)
  | .error (_, s) => register s 0 true

/-- What the device kept of a switched-out hart joins what its image holds. -/
def Hart.rejoin (h : Hart) (o : SwitchedOut) : Hart :=
  { h with
    link := { h.link with index := o.link.index, harts := o.link.harts, queue := o.link.queue, compl := o.link.compl }
    partner := if h.gang = .lower ∧ !o.hart.split then o.hart.partner else 0
    soloNames := o.hart.soloNames, bookVersion := o.hart.bookVersion, copyReports := o.hart.copyReports
    streams := Vector.ofFn fun i : Fin 8 =>
      { h.streams[i.val] with condFault := o.hart.streams[i.val].condFault, doneAdd := o.hart.streams[i.val].doneAdd }
    barriers := h.barriers.map fun m =>
      { m with pending := o.hart.barriers.any fun n => n.va == m.va && n.gen == m.gen && n.pending }
    arrivals := h.arrivals.map fun m =>
      { m with pending := o.hart.arrivals.any fun n => n.va == m.va && n.gen == m.gen && n.pending }
    grant := o.hart.grant, popFault := o.hart.popFault, appending := o.hart.appending
    cancelled := o.hart.cancelled, fenceDue := o.hart.fenceDue, verdict := o.hart.verdict
    nrg := satEnergy h.nrg o.carry
    names := if o.hart.split then o.hart.soloNames else h.names
    gang := if o.hart.gang = .parked ∧ o.hart.verdict.isNone then .parked else if o.hart.split then .none else h.gang }

/-- The lazily owned regions that the region of a hart meets, on both cores for a ganged hart. -/
def State.lazyFor (s : State) (c : CoreId) (h : Hart) : List LazyRegion :=
  (s.core c).lazyIn h.link.part h.quarter ++ (if h.gang = .lower then (s.core (upperCore c)).lazyIn .whole 0 else [])

/-- The upper core of a ganged image holds nobody but its parked partner (R200). -/
def Core.upperVacant (k : Core) (partner : BitVec 48) : Bool :=
  k.ctxs.toList.all fun t => t.status == .free || t.hart.id == partner

/-- The region that SIN assigns, if there is one. -/
def State.regionForImage (s : State) (c : CoreId) (h : Hart) : Option (Fin 4) :=
  if isUpper c ∧ s.gangHolds c then none
  else if h.gang = .lower ∧ (isUpper c ∨ !(s.core (upperCore c)).upperVacant h.partner) then none
  else (s.core c).lowestRegion h.link.part

/-- The hart of an image, with what the device kept of it. -/
def State.hartOfImage (s : State) (image : Nat) : Hart :=
  let h := unpackScalar image
  match s.dev.switchedOut.find? fun o => o.id == h.id with
  | some o => h.rejoin o
  | none => h

/-- The hart of an image placed in a free context and a region, stopped until RTE (R404).  Its own contents stand in its
region where it has left them and nobody has claimed them; elsewhere the rules give none. -/
def State.switchIn (s : State) (c : CoreId) (x : UserCtx) (image : Nat) (quarter : Fin 4) : State :=
  let h := { s.hartOfImage image with quarter }
  let regions := s.lazyFor c h
  let separated := s.dev.switchedOut.any fun o => o.id == h.id && ((o.hart.gang == .parked && o.hart.verdict.isSome) || o.hart.split)
  let own := (s.core c).lazyRegions.find? fun r => r.owner == h.id && r.part == h.link.part && r.quarter == quarter
  let (vec, s) := match own with
    | some r => (r.vec, s)
    | none => s.freeVector h.vlmax.toNat
  let h := { h with vec, vlazy := regions.any fun r => r.owner != h.id }
  let book := ((s.dev.placed.find? fun p => p.link.launch == h.link.launch).map (·.book)).join
  let s := (s.dropLazy h.id).modifyCore c fun k =>
    let k := k.loadBook book
    { k with
      ctxs := k.ctxs.set x.val { status := .stopped, hart := h.beginStrip h.pc, since := k.cycles.toNat, restored := true }
      advice := k.advice.set x.val {} }
  let s := s.modifyDev fun d => { d with switchedOut := d.switchedOut.filter fun o => o.id != h.id }
  let s := s.residencyChanged c
  let s := if separated then s.clearVectorOf c (userId x) else s
  let s' := (unpackPromises image).foldl State.rearmPromise (s.actingAs c (userId x))
  { s' with cur := s.cur }

/-- SIN.  A VCFG with a reserved RM or SCOPE, or with RM = 5 while SRHEN is clear, is no break of the layout: placing it
raises the trap of R28. -/
def switchInOp (d : Reg) (va : Word) (s : State) : Except Stop State :=
  let c := s.cur.core
  let x := s.myCore.selected
  match s.readImage .memory va scalarImageBytes with
  | .error e => .error e
  | .ok image =>
    let s := s.countImage .memory va scalarImageBytes
    if !scalarImageOk image then s.answer d 1
    else if s.status c (userId x) ≠ .free then s.answer d 0xFF
    else
      let vcfg := word (imageWord image 408)
      match vcfgFault vcfg s.myCore.srhEnabled with
      | some e => raise s e (if e = causePriv then s.wordVal else vcfg)
      | none =>
      match s.regionForImage c (s.hartOfImage image) with
      | none => s.answer d 0xFF
      | some q => (s.switchIn c x image q).answer d 0

/-! ### VOUT and VIN (R410, R416) -/

def vectorOutOp (d : Reg) (va : Word) (s : State) : Except Stop State :=
  let c := s.cur.core
  let x := userId s.myCore.selected
  if s.status c x = .free then s.answer d 0xFF
  else
    match (s.lazyFor c (s.hart c x)).find? fun r => r.owner != (s.hart c x).id with
    | none => s.answer d 0xFF
    | some r =>
      let image := vectorImage r.vec r.vlmax.toNat r.names.toNat r.shrunk
      match s.writeImage .memory va (vectorImageBytes r.vlmax.toNat r.names.toNat) image with
      | .error e => .error e
      | .ok s =>
        match s.writeImage .memory (r.image + 4704) 8 va.toNat with
        | .error e => .error e
        | .ok s => (s.dropLazy r.owner).answer d 0

/-- A hart's region with contents, its own from now on. -/
def State.claimRegion (s : State) (c : CoreId) (x : CtxId) (vec : VecState) : State :=
  let h := s.hart c x
  let others := ((s.lazyFor c h).map (·.owner)).filter fun o => o != h.id
  (others.foldl State.dropLazy s).setHart c x { h with vec, vlazy := false, vfull := BitVec.allOnes 64 }

def vectorInOp (d : Reg) (va : Word) (s : State) : Except Stop State :=
  let c := s.cur.core
  let x := userId s.myCore.selected
  let vmax := (s.hart c x).vlmax.toNat
  let fresh : VecState := {}
  if s.status c x = .free then s.answer d 0xFF
  else if va = 0 then (s.claimRegion c x (fresh.cleared vmax)).answer d 0
  else
    match s.readVectorImage va with
    | .error e => .error e
    | .ok (_, some _, s) => s.answer d 1
    | .ok (image, none, s) => (s.claimRegion c x (unpackVector image vmax)).answer d 0

/-! ### ZOUT and ZIN (R410, R415) -/

/-- The slots of a hart by handle. -/
def Core.slotsOf (k : Core) (owner : BitVec 48) : List Slot := (List.range 16).filterMap fun z => k.slotOf owner z

/-- Bytes of an accumulator image of n tiles. -/
def accImageBytes (n : Nat) : Nat := 64 + tileImageBytes * n

/-- The accumulator image of the slots of a hart. -/
def accImage (qs : List Slot) : Nat :=
  pack ((512, (qs.map fun q => 2 ^ q.handle.toNat).sum) :: qs.map fun q => (8 * tileImageBytes, q.image))

def accumOutOp (d : Reg) (va : Word) (s : State) : Except Stop State :=
  let c := s.cur.core
  match s.readImage .memory va scalarImageBytes with
  | .error e => .error e
  | .ok image =>
    let s := s.countImage .memory va scalarImageBytes
    let at_ := word (imageWord image 4712)
    let id := BitVec.ofNat 48 (imageWord image 8)
    let qs := s.myCore.slotsOf id
    if !scalarImageOk image || at_ == 0 || !isAligned 64 at_ then s.answer d 1
    else
      match s.writeImage .memory at_ (accImageBytes qs.length) (accImage qs) with
      | .error e => .error e
      | .ok s =>
        match s.writeImage .memory va 8 (setBit (imageWord image 0) 19 true) with
        | .error e => .error e
        | .ok s =>
          let s := s.modifyCore c (·.releaseSlots id)
          let lost := s.dev.switchedOut.find? fun o => o.id == id && qs.any fun q => !q.poison.isEmpty
          (match lost with
            | some o => s.fenceLaunch o.link.launch causeFenced
            | none => s).answer d 0

/-- The saved tiles of an accumulator image: handle and tile image. -/
def savedTiles (image : Nat) : List (Nat × Nat) :=
  (((List.range 16).filter fun z => bitAt image z).zipIdx).map fun p =>
    (p.1, image / 2 ^ (8 * accImageBytes p.2) % 2 ^ (8 * tileImageBytes))

/-- The saved tiles bound and loaded in turn; the first handle for which no slot is free. -/
def State.bindSaved (s : State) (c : CoreId) (id : BitVec 48) : List (Nat × Nat) → State × Option Nat
  | [] => (s, none)
  | (z, x) :: ts =>
    if ((s.core c).slotOf id z).isSome then s.bindSaved c id ts
    else
      match (s.core c).freeSlots with
      | [] => (s, some z)
      | n :: _ =>
        let q : Slot := { number := BitVec.ofNat 7 n, owner := id, handle := BitVec.ofNat 4 z, kind := .fp64, tile := 0 }
        (s.modifyCore c fun k => { k with slots := k.slots ++ [q.ofImage x] }).bindSaved c id ts

/-- An accumulator image read whole: none where it breaks its layout. -/
def State.readAccImage (s : State) (va : Word) : Except Stop (Option Nat × State) :=
  match s.readImage .memory va 64 with
  | .error e => .error e
  | .ok hd =>
    if hd / 2 ^ 16 ≠ 0 then .ok (none, s.countImage .memory va 64)
    else
      let n := accImageBytes (popCount 16 hd)
      match s.readImage .memory va n with
      | .error e => .error e
      | .ok image =>
        .ok (if (savedTiles image).all fun t => (badTileWord t.2).isNone then some image else none, s.countImage .memory va n)

def accumInOp (d : Reg) (s : State) : Except Stop State :=
  let c := s.cur.core
  let x := userId s.myCore.selected
  let h := s.hart c x
  if s.status c x = .free then s.answer d 0xFF
  else if !h.zsaved then s.answer d 0
  else if h.zimage = 0 ∨ !isAligned 64 h.zimage then s.answer d 1
  else
    match s.readAccImage h.zimage with
    | .error e => .error e
    | .ok (none, s) => s.answer d 1
    | .ok (some image, s) =>
      match s.bindSaved c h.id (savedTiles image) with
      | (s, some z) => s.answer d (0x0D + 256 * z)
      | (s, none) => (s.setHart c x { s.hart c x with zsaved := false }).answer d 0

/-! ### CTXSW -/

/-- What CTXSW asks of its context, the firmware context (R401). -/
def ctxswUses (d a : Reg) (fa : Bool) : Uses :=
  { priv := true
    regs := [⟨2, d, isScalar d⟩, ⟨0, a, isAddress a⟩]
    sources := [⟨0, .x, a, fa⟩]
    dests := [(.x, d)]
    commits := true
    orders := true }

/-- An op of CTXSW on an image address, which is a multiple of 64. -/
def contextOp (d a : Reg) (fa : Bool) (op : Word → State → Except Stop State) (s : State) :
    Host.Outcome State Fault Refusal :=
  issue s (ctxswUses d a fa) fun s =>
    let va := s.me.readX a
    if !isAligned 64 va then s.answer d 1 else op va s

def execCtxswSout (d a : Reg) (fa : Bool) (s : State) : Host.Outcome State Fault Refusal := contextOp d a fa (switchOutOp d) s
def execCtxswSin (d a : Reg) (fa : Bool) (s : State) : Host.Outcome State Fault Refusal := contextOp d a fa (switchInOp d) s
def execCtxswVout (d a : Reg) (fa : Bool) (s : State) : Host.Outcome State Fault Refusal := contextOp d a fa (vectorOutOp d) s
def execCtxswVin (d a : Reg) (fa : Bool) (s : State) : Host.Outcome State Fault Refusal := contextOp d a fa (vectorInOp d) s
def execCtxswZout (d a : Reg) (fa : Bool) (s : State) : Host.Outcome State Fault Refusal := contextOp d a fa (accumOutOp d) s
def execCtxswZin (d a : Reg) (fa : Bool) (s : State) : Host.Outcome State Fault Refusal :=
  contextOp d a fa (fun _ s => accumInOp d s) s

end Sys2Proof.Machine
end

