-- ==== Sys2Proof/Machine/System.lean ====
section
/-!
DEFINITION. The system instructions and the system registers (R401-R412), and the errors that post records (R398, R419-R421).
-/

namespace Sys2Proof.Machine

/-! ### Requests to firmware (R402) -/

def execTrap (b : Src) (s : State) : Host.Outcome State Fault Refusal :=
  let u : Uses := { len := srcBytes b, regs := srcField isScalar b, sources := srcSource .x b, commits := true }
  issue s u fun s =>
    .error (.trap { cause := causeTrapi, val := s.me.srcWord b, epc := some (s.me.pc + word u.len) } (s.chargeUses u))

def execBrk (s : State) : Host.Outcome State Fault Refusal :=
  let u : Uses := { commits := true }
  issue s u fun s => .error (.trap { cause := causeBreak } (s.chargeUses u))

/-! ### Cycle and energy counters (R408, R409) -/

/-- The context whose copy of a per-context register is meant: its own, or the one that CTXSEL names (R406). -/
def State.subject (s : State) : CtxId := if s.isFirmware then userId s.myCore.selected else s.cur.ctx

/-- The hart whose copy of a per-context register is meant. -/
def State.subjectHart (s : State) : Hart := s.hart s.cur.core s.subject

def scalarDest (d : Reg) : Uses := { regs := [⟨2, d, isScalar d⟩], dests := [(.x, d)] }

def execRdcyc (d : Reg) (s : State) : Host.Outcome State Fault Refusal :=
  issue s (scalarDest d) fun s => .ok (s.modifyMe fun h => h.writeX d s.myCore.cycles)

/-- RDNRG: a resident context has no pending carry, which SIN has added (R391). -/
def execRdnrg (d : Reg) (s : State) : Host.Outcome State Fault Refusal :=
  issue s (scalarDest d) fun s => .ok (s.modifyMe fun h => h.writeX d (word s.subjectHart.nrg.toNat))

/-! ### The trap-record registers (R403, R406, R412) -/

/-- The record in hand that stands in the trap-record registers while CTXSEL names its context: one that no user hart
took as its own trap, and no SIN has placed the hart of. -/
def Core.recordShown (k : Core) : Option Record :=
  match k.inHand with
  | none => none
  | some r =>
    let x := r.regs.stat.toNat % 8
    let t := k.ctxs[k.selected.val]
    let own := r.of == .hart && decide (x < 4)
    let placed := match r.of with
      | .restore id => t.status != .free && t.hart.id == id
      | _ => false
    if own || placed || k.ctxsel.toNat != (if x < 4 then x else 0) then none else some r

/-- The trap-record registers as firmware reads them.  The contexts that a service record stopped keep their own
resume address, element and row. -/
def Core.trapRegs (k : Core) : TrapRegs :=
  let own := k.ctxs[k.selected.val].hart.trap
  match k.recordShown with
  | none => own
  | some r => match r.of with
    | .stops _ => { r.regs with epc := own.epc, elt := own.elt, row := own.row }
    | _ => r.regs

/-- A write of TEPC, TELT or ROWPROG. -/
def Core.setTrapRegs (k : Core) (f : TrapRegs → TrapRegs) : Core :=
  let own (k : Core) : Core := k.modifyHart k.selected fun h => { h with trap := f h.trap }
  match k.recordShown with
  | none => own k
  | some r => match r.of with
    | .stops _ => own k
    | _ => { k with inHand := some { r with regs := f r.regs } }

/-- A write of TEPC.  A hart sent elsewhere than to the instruction that it stands at has none in hand (R170, R239). -/
def Core.writeTepc (k : Core) (x : Word) : Core :=
  let k := k.setTrapRegs fun t => { t with epc := x }
  k.modifyHart k.selected fun h => if h.pc = h.trap.epc then h else { h with mma := none, popFault := false, appending := none }

/-! ### Values of the system registers (R411, R412) -/

/-- TQSTAT. -/
def Core.tqstat (k : Core) : Nat := k.ordinary.length * 2 ^ 8 + k.fatal.length

/-- LGON: the powered lane groups (R382). -/
def Core.lgon (k : Core) : Nat := ofWords 1 (k.groups.toList.map fun g => if g.runs then 1 else 0)

/-- A half of SLOTTAB. -/
def Core.slottabHalf (k : Core) (half : Nat) : Nat := ofWords 4 (((k.slottab.toList.drop (16 * half)).take 16).map (·.toNat))

/-- A system register by its number (R411). -/
def State.systemRegister (s : State) (n : Nat) : Word :=
  let k := s.myCore
  let h := s.subjectHart
  match n with
  | 0 => k.tvec
  | 1 => word k.trapRegs.cause.toNat
  | 2 => k.trapRegs.val
  | 3 => k.trapRegs.epc
  | 4 => k.trapRegs.elt
  | 5 => k.trapRegs.stat
  | 6 => word k.trapRegs.row.toNat
  | 7 => k.fatalrec
  | 8 => word k.tqstat
  | 9 => word k.ctxsel.toNat
  | 10 => word h.vstat
  | 11 => k.lanemap
  | 12 => word (h.vlmax.toNat + s.vlmaxNow s.cur.core s.subject * 2 ^ 16)
  | 13 => word (k.grant.toNat + k.gcap.toNat * 2 ^ 16 + k.lgon * 2 ^ 40)
  | 14 => word (k.allow.toNat + (k.allow &&& ~~~k.withdrawn).toNat * 2 ^ 8)
  | 15 => k.actw
  | 16 => word k.meter.toNat
  | 17 => word h.nrg.toNat
  | 18 => k.nrgw
  | 19 => word k.nrgs.toNat
  | 20 => if h4 : s.subject.val < 4 then word (k.advstat ⟨s.subject.val, h4⟩) else 0
  | 21 => k.srhen
  | 22 => word (k.slottabHalf 0)
  | 23 => word (k.slottabHalf 1)
  | 24 => word h.id.toNat
  | 25 => k.fwroot
  | _ => 0

/-- The registers that user contexts read (R411). -/
def userReadable (n : Nat) : Bool := (10 ≤ n && n ≤ 21) || n == 24

/-- SYSRD (R406). -/
def execSysrd (d a : Reg) (s : State) : Host.Outcome State Fault Refusal :=
  issue s { scalarDest d with priv := !userReadable a.toNat, commits := true } fun s =>
    .ok (s.modifyMe fun h => h.writeX d (s.systemRegister a.toNat))

/-! ### Writes of the system registers -/

/-- ACTW as it is stored: the clamps of DRAIN and CEIL (R378). -/
def storedActw (x : Word) : Word :=
  let y := setField (x.toNat % 2 ^ 52) 48 4 (max 1 (fieldOf x.toNat 48 4))
  word (setField y 40 8 (max 16 (fieldOf x.toNat 40 8)))

/-- GCAP written, and GRANT clamped (R382). -/
def Core.writeGcap (k : Core) (x : Word) : Core :=
  let gcap := BitVec.ofNat 13 (fieldOf x.toNat 16 13)
  { k with gcap, grant := BitVec.ofNat 13 (min k.grant.toNat (max gcap.toNat 8)) }

/-- The hart of a context whose registers a lane held: its vector results on their way arrive, and it goes on in
relocation mode (R195, R421). -/
def State.relocate (s : State) (c : CoreId) (x : CtxId) : State :=
  { ((s.actingAs c x).landVectors.modifyMe fun h => { h with reloc := true }) with cur := s.cur }

/-- The harts resident on a core relocate: all of them, or the ganged ones. -/
def State.relocateAll (s : State) (c : CoreId) (ganged : Bool) : State :=
  ((List.finRange 4).filter fun x =>
    s.status c (userId x) != .free && (!ganged || (s.hart c (userId x)).gang == .lower)).foldl
      (fun s x => s.relocate c (userId x)) s

/-- LANEMAP written (R421): bits are only cleared.  In-flight vector work completes, the resident harts relocate, the
advice contexts are reset, and a core of fewer than 32 lanes is fenced (R188, R418). -/
def State.writeLanemap (s : State) (c : CoreId) (x : Word) : State :=
  let lanes := (s.core c).lanemap &&& x
  if lanes = (s.core c).lanemap then s
  else
    let s := (s.relocateAll c false).modifyCore c fun k => { k with lanemap := lanes }
    let s := if isUpper c then s.relocateAll (lowerCore c) true else s
    let s := (List.finRange 4).foldl (fun s x => s.resetAdvice c (userId x)) s
    if (s.core c).lanes < 32 then s.fenceCore c else s

/-- A system register written by its number; read-only registers and fields keep their values (R17, R406). -/
def State.writeSystemRegister (s : State) (c : CoreId) (n : Nat) (x : Word) : State :=
  match n with
  | 0 => s.modifyCore c fun k => { k with tvec := word (x.toNat / 4 * 4) }
  | 3 => s.modifyCore c (·.writeTepc x)
  | 4 => s.modifyCore c (·.setTrapRegs fun t => { t with elt := x })
  | 6 => s.modifyCore c (·.setTrapRegs fun t => { t with row := x.setWidth 5 })
  | 9 => s.modifyCore c fun k => { k with ctxsel := if fieldOf x.toNat 0 3 < 4 then x.setWidth 3 else 0 }
  | 11 => s.writeLanemap c x
  | 13 => s.modifyCore c (·.writeGcap x)
  | 14 => s.modifyCore c fun k => { k with allow := x.setWidth 8 }
  | 15 => s.modifyCore c fun k => { k with actw := storedActw x }
  | 17 => s.modifyCore c fun k => k.modifyHart k.selected fun h => { h with nrg := x.setWidth 48 }
  | 18 => s.modifyCore c fun k => { k with nrgw := word (x.toNat % 2 ^ 60) }
  | 19 => s.modifyCore c fun k => { k with nrgs := x.setWidth 16 }
  | 20 => s.modifyCore c fun k => k.modifyHart k.selected fun h => { h with adv := AdvStat.ofWord x.toNat }
  | 21 => s.modifyCore c fun k => { k with srhen := word (x.toNat / 256 * 256 + x.toNat % 2) }
  | 25 => s.modifyCore c fun k => { k with fwroot := word (x.toNat % 2 ^ 52) }
  | _ => s

/-- SYSWR (R406). -/
def execSyswr (d : Reg) (b : Src) (s : State) : Host.Outcome State Fault Refusal :=
  issue s
    { len := srcBytes b
      priv := true
      regs := srcField isScalar b
      sources := srcSource .x b
      commits := true } fun s => .ok (s.writeSystemRegister s.cur.core d.toNat (s.me.srcWord b))

/-- LANEMAP_WRITE, FWROOT_WRITE, GCAP_WRITE and ACTW_WRITE: what a SYSWR of these registers does at the core. -/
def execLanemapWrite (core : CoreId) (value : BitVec 64) (s : State) : Host.Outcome State Fault Refusal :=
  .next (s.writeSystemRegister core 11 value)
def execGcapWrite (core : CoreId) (value : BitVec 64) (s : State) : Host.Outcome State Fault Refusal :=
  .next (s.writeSystemRegister core 13 value)
def execActwWrite (core : CoreId) (value : BitVec 64) (s : State) : Host.Outcome State Fault Refusal :=
  .next (s.writeSystemRegister core 15 value)
def execFwrootWrite (core : CoreId) (value : BitVec 64) (s : State) : Host.Outcome State Fault Refusal :=
  .next (s.writeSystemRegister core 25 value)

/-! ### SLOTSET (R407) -/

/-- An entry of the new table that may not stand there. -/
def badSlot (e c : Nat) : Bool := c == 5 || c == 6 || decide (8 ≤ c) || (e == 31 && c != 4)

def execSlotset (a : Reg) (fa : Bool) (s : State) : Host.Outcome State Fault Refusal :=
  issue s
    { priv := true
      regs := [⟨0, a, isBelow 31 a⟩]
      sources := [⟨0, .xs 2, a, fa⟩]
      commits := true } fun s =>
    let lo := s.me.readX a
    let hi := s.me.readX (a + 1)
    let code (e : Nat) : Nat := fieldOf (if e < 16 then lo else hi).toNat (4 * (e % 16)) 4
    match (List.range 32).find? fun e => badSlot e (code e) with
    | some e => raise s causeIllegal (if e < 16 then lo else hi)
    | none =>
      .ok (s.modifyCore s.cur.core fun k => { k with slottab := Vector.ofFn fun i : Fin 32 => BitVec.ofNat 4 (code i.val) })

/-! ### WFN (R403) -/

/-- A record in the trap-record registers: its context is selected, and a hart's own record stands in its copy. -/
def Core.takeInHand (k : Core) (r : Record) : Core :=
  let x := r.regs.stat.toNat % 8
  let k := { k with inHand := some r, ctxsel := if x < 4 then BitVec.ofNat 3 x else 0 }
  if r.of == .hart && decide (x < 4) then k.modifyHart k.selected fun h => { h with trap := r.regs } else k

/-- The next record of a core: fatal ones first. -/
def Core.nextRecord (k : Core) : Option (Record × Core) :=
  match k.fatal, k.ordinary with
  | r :: rest, _ => some (r, { k with fatal := rest })
  | [], r :: rest => some (r, { k with ordinary := rest })
  | [], [] => none

/-- A staged firmware image is taken (R442): the record in hand is finished, the image's cells stand in memory, its digest
counts for the quote, and no block fetched before stays (log 11). -/
def State.takeStaged (s : State) (i : StagedImage) : State :=
  let c := s.cur.core
  (((s.finishRecord c).modifyDev fun d =>
    { d.placeImage i.cells with fwDigests := d.fwDigests.mapIdx fun n x => if n = c.val then i.digest else x }).modifyCore c
      fun k => { k with stagedFw := none }).modifyMe fun h => { h with blocks := [] }

/-- WFN takes the next record, if there is one, and finishes the one in hand. -/
def State.takeRecord (s : State) (d : Reg) : Option State :=
  match s.myCore.nextRecord with
  | none => none
  | some _ =>
    let s := s.finishRecord s.cur.core
    (s.myCore.nextRecord).map fun (r, k) =>
      (s.modifyCore s.cur.core fun _ => (k.takeInHand r).enqueue).modifyMe fun h => h.writeX d (word k.tqstat)

/-- WFN (R403): a staged image starts at TVEC in its place (log 11). -/
def execWfn (d : Reg) (s : State) : Host.Outcome State Fault Refusal :=
  issueTo s { scalarDest d with priv := true, commits := true } fun s =>
    match s.myCore.stagedFw with
    | some i => .ok (s.takeStaged i, s.myCore.fwEntry)
    | none =>
      match s.takeRecord d with
      | none => .error (.wait .wfn s)
      | some t => .ok (t, s.me.pc + 4)

/-- A WFN that waits completes when a record comes, with no entry of its own (R403, R428). -/
def State.completeWfn (s : State) (c : CoreId) : State :=
  let k := s.core c
  if k.fwStatus == .waiting .wfn && k.power.runs && k.clock then
    let t := s.actingAs c 4
    match t.takeRecord (BitVec.ofNat 6 t.me.waitDest) with
    | none => s
    | some t =>
      { (t.setStatus c 4 .running).modifyMe (fun h => ({ h with pc := h.pc + 4 } : Hart).beginStrip (h.pc + 4)) with cur := s.cur }
  else s

/-- A cycle of a core begins (R367): the queues without work have no deficit (R363), a WFN that waits has its record, and
the cycle lets an instruction issue. -/
def State.beginCycle (s : State) (c : CoreId) : State := (s.settleQueues.completeWfn c).issueCycle c

def execIssueCycle (core : CoreId) (s : State) : Host.Outcome State Fault Refusal := .next (s.beginCycle core)

/-! ### RTE (R404, R405) -/

/-- A trapped or stopped hart waits for firmware in a context. -/
def Status.held : Status → Bool
  | .trapped => true
  | .stopped => true
  | _ => false

/-- TEPC may be resumed at; a fault of its fetch is the resumed hart's own. -/
def State.resumable (s : State) (c : CoreId) (x : CtxId) (pc : Word) : Except Stop Unit :=
  if pc.toNat % 4 ≠ 0 then raise s causeAlign pc
  else
    match (s.actingAs c x).fetchBlock pc with
    | .ok (ws, _) => if isLiteralAt ws pc then raise s causeLitland pc else .ok ()
    | .error _ => .ok ()

/-- The row at which a hart goes on (R239): that of an MMA which a PFAULT or a service record stopped, else 0. -/
def Hart.resumeRow (h : Hart) : Nat :=
  if h.mma.isSome && (h.trap.cause == causePfault || h.trap.cause == 0) then h.trap.row.toNat else 0

/-- A hart goes on at its TEPC, with the element and the row that its registers hold; after STRIPLOST it starts its
strip afresh (R182). -/
def Hart.resume (h : Hart) : Hart :=
  let lost := h.trap.cause == 0x14
  ({ h with
    pc := h.trap.epc
    first := false
    eltDone := if lost then 0 else h.trap.elt.toNat
    rowDone := h.resumeRow
    abandoned := none } : Hart).beginStrip h.trap.epc

/-- The effect of RTE n on a context that holds a trapped or stopped hart.  The parked hart of a fused pair goes back to its
wait: it issues nothing (R449).  What a service record's stop left of its strip takes effect first: while a follow-on holds
it back, RTE waits (R241).  It also waits for the pushes of a hart that it kills (R374). -/
def State.returnTo (s : State) (kill : Bool) (x : CtxId) : Except Stop State :=
  let c := s.cur.core
  let h := s.hart c x
  if kill || h.trap.cause == causeCancelled || h.trap.cause == causeFenced then
    let s := s.quitFor c x
    if s.killWaits c x then .error (.stall s.stall) else .ok (s.killHart c x)
  else
    match s.resumable c x h.trap.epc with
    | .error e => .error e
    | .ok () =>
      let s := s.commitRest c x
      if (s.hart c x).strip.isEmpty then
        let parked := h.gang == .parked && h.verdict.isNone
        .ok ((s.setHart c x (s.hart c x).resume).setStatus c x (if parked then .waiting .parked else .running))
      else .error (.stall s.stall)

def State.returnToAll (s : State) (kill : Bool) : List CtxId → Except Stop State
  | [] => .ok s
  | x :: xs =>
    match s.returnTo kill x with
    | .error e => .error e
    | .ok s => s.returnToAll kill xs

/-- What RTE acts on for the record in hand. -/
def Core.inHandOf (k : Core) : Option RecordOf := k.inHand.map fun r : Record => r.of

/-- The context that CTXSEL names. -/
def State.selectedId (s : State) : CtxId := userId s.myCore.selected

/-- CTXSEL names a context that holds a trapped or a stopped hart. -/
def State.selectedHeld (s : State) : Bool := (s.status s.cur.core s.selectedId).held

/-- The contexts that RTE acts on for the record in hand, the one that CTXSEL names among them while it is held. -/
def State.returnees (s : State) : List CtxId :=
  let c := s.cur.core
  let sel := s.selectedId
  let selHeld : List CtxId := if s.selectedHeld then [sel] else []
  let stoppedSel : List CtxId := if s.status c sel = .stopped then [sel] else []
  match s.myCore.inHandOf with
  | some (.stops xs) =>
    let ys := (xs.map userId).filter fun x => s.status c x == .stopped
    ys ++ stoppedSel.filter fun x => !ys.contains x
  | some (.restore id) =>
    let ys := ((List.finRange 4).map userId).filter fun x => s.status c x == .stopped && (s.hart c x).id == id
    ys ++ stoppedSel.filter fun x => !ys.contains x
  | _ => selHeld

/-- RTE on a record of an engine command, which acts on the command alone. -/
def State.returnToCommand (s : State) (kill : Bool) (ticket : Word) (regs : TrapRegs) : State :=
  let c := s.cur.core
  let x : CtxId := Fin.ofNat 5 (regs.stat.toNat % 8)
  if kill then { (s.actingAs c x).abortCommand ticket regs with cur := s.cur }
  else s.setHart c x ((s.hart c x).resumeCommand ticket)

/-- RTE on the fault of a remote element: it is served again, or refused (R174, R405). -/
def State.returnToRequest (s : State) (kill : Bool) (r : RemoteRequest) (data : Option Word) : State :=
  if kill then s.replyTo r .rejected
  else match data with
    | none => s.serveRequest r
    | some x => s.servePush r x

/-- CTXSEL names a stopped hart other than the one that the WFN of an engine record selected: RTE acts on that hart, and
the record stays in hand (R404, log 66). -/
def State.selectsStopped (s : State) (regs : TrapRegs) : Bool :=
  let x := regs.stat.toNat % 8
  s.status s.cur.core s.selectedId == .stopped && s.selectedId.val != (if x < 4 then x else 0)

/-- RTE with no context to act on (R404, R421): a RESTORE record whose hart SIN has not placed, and a record that stopped
nobody where CTXSEL names a held hart, or a LANE record, are finished with; otherwise RTE is ILLEGAL. -/
def State.returnsToNobody (s : State) : Bool :=
  match s.myCore.inHand with
  | some { of := .restore _, .. } => true
  | some { of := .stops _, regs } => s.selectedHeld || fieldOf regs.stat.toNat 40 8 == 3
  | _ => false

/-- RTE n on an engine record. -/
def State.returnToEngine (s : State) (kill : Bool) (regs : TrapRegs) (act : State → State) : Except Stop State :=
  if s.selectsStopped regs then s.returnTo kill s.selectedId else .ok ((act s).finishRecord s.cur.core)

/-- RTE n: the record in hand is finished with. -/
def rte (kill : Bool) (s : State) : Host.Outcome State Fault Refusal :=
  issue s { priv := true, commits := true, orders := true } fun s =>
    match s.myCore.inHand with
    | some { of := .command t, regs } => s.returnToEngine kill regs fun s => s.returnToCommand kill t regs
    | some { of := .request r data, regs } => s.returnToEngine kill regs fun s => s.returnToRequest kill r data
    | _ =>
      if s.returnees.isEmpty && !s.returnsToNobody then raise s causeIllegal s.wordVal
      else
        match s.returnToAll kill s.returnees with
        | .error e => .error e
        | .ok s => .ok (s.finishRecord s.cur.core)

def execRteResume (s : State) : Host.Outcome State Fault Refusal := rte false s
def execRteKill (s : State) : Host.Outcome State Fault Refusal := rte true s

/-! ### Errors (R398, R419, R420) -/

/-- What an uncorrectable error can strike, as TVAL names it: a core control register, the trap queue, or the registers
of the firmware context. -/
def isStruck (n : Nat) : Bool := [0, 9, 11, 13, 14, 15, 18, 19, 21, 22, 23, 25, 64, 65].contains n

/-- FATAL_ERROR (R398). -/
def execFatalError (core : CoreId) (struck : BitVec 7) (s : State) : Host.Outcome State Fault Refusal :=
  if isStruck struck.toNat then
    .next (s.postFatal core
      { regs := { cause := causeFenced, val := word struck.toNat, stat := tstat true false 4 false 0 4 }, of := .device })
  else .next s

/-- A LANE record: every user context of the core stops at its boundary (R400). -/
def State.postLane (s : State) (c : CoreId) (lane : Nat) : State :=
  let xs := s.stoppable c
  (xs.foldl (fun s x => s.stopContext c x) s).post c
    { regs := { val := word lane, stat := tstat false true 4 false 3 4 }, of := .stops xs }

/-- The launches of switched-out harts that own regions over the quarters given (R410, R420). -/
def State.lazyLaunches (s : State) (c : CoreId) (quarters : BitVec 4) : List Word :=
  let regions := (s.core c).lazyRegions.filter fun r =>
    (List.finRange 4).any fun q => quarters.getLsbD q.val && regionsMeet r.part r.quarter .quarter q
  (s.dev.switchedOut.filter fun o => regions.any (·.owner == o.id)).map (·.link.launch)

/-- LANE_ERROR (R420): an uncorrectable error in a lane's registers fences the launches whose registers it struck: those of
resident contexts, and those of switched-out harts whose contents stand in the struck quarters. -/
def execLaneError (core : CoreId) (lane : Lane) (struck : Struck) (s : State) : Host.Outcome State Fault Refusal :=
  let hit := (List.finRange 4).filter fun x => struck.ctxs.getLsbD x.val && s.status core (userId x) != .free
  let launches := hit.map (fun x => (s.hart core (userId x)).link.launch) ++ s.lazyLaunches core struck.quarters
  .next ((launches.foldl (fun s l => s.fenceLaunch l causeFenced) s).postLane core lane.val)

/-- CORRECTED_ERROR (R419, R420): no value changes; the fourth in a lane within 2^28 cycles posts a LANE record. -/
def execCorrectedError (core : CoreId) (lane : Option Lane) (s : State) : Host.Outcome State Fault Refusal :=
  match lane with
  | none => .next s
  | some l =>
    let now := (s.core core).cycles.toNat
    let recent := (s.core core).corrected.filter fun e => decide (now < e.2 + 2 ^ 28)
    if 3 ≤ recent.countP fun e => e.1 == l then
      .next ((s.modifyCore core fun k => { k with corrected := recent.filter fun e => e.1 != l }).postLane core l.val)
    else .next (s.modifyCore core fun k => { k with corrected := recent ++ [(l, now)] })

end Sys2Proof.Machine
end

