-- ==== Sys2Proof/Machine/Power.lean ====
section
/-!
DEFINITION. The power controller, the stages of powering down, the in-rush arbiter and the cluster's clock (R382-R388, R408).
-/

namespace Sys2Proof.Machine

/-! ### What may be gated (R383, R387) -/

/-- The lane groups of a core that the current tile of some hart reaches; a ganged hart's tile lies on both cores. -/
def State.groupsInUse (s : State) (c : CoreId) : List Nat :=
  ((allCores.flatMap fun d => ((s.core d).ctxs.toList.filter (·.status != .free)).flatMap fun t =>
    s.tileGroups d t.hart).filter (·.1 == c)).map (·.2)

/-- Hold begins for a powered part. -/
def Power.startHold : Power → Power
  | .on => .hold
  | p => p

/-- POWER_CONTROLLER_UPDATE (R382): a grant within its bounds, parts that may be gated, and chaining withdrawn. -/
def execPowerControllerUpdate (core : CoreId) (grant : BitVec 13) (gate : BitVec 8) (gateCore : Bool) (withdraw : BitVec 8)
    (s : State) : Host.Outcome State Fault Refusal :=
  let used := s.groupsInUse core
  let idle := s.coreIdle core
  .next (s.modifyCore core fun k =>
    { k with
      grant := BitVec.ofNat 13 (max 8 (min grant.toNat (max k.gcap.toNat 8)))
      withdrawn := withdraw
      groups := Vector.ofFn fun g : Fin 8 =>
        if gate.getLsbD g.val && !used.contains g.val then k.groups[g.val].startHold else k.groups[g.val]
      power := if gateCore && idle then k.power.startHold else k.power })

/-! ### Powering down (R385) -/

/-- The switches of a part in hold start to open. -/
def Power.startOpening : Power → Power
  | .hold => .opening false
  | p => p

/-- A part in hold stays powered. -/
def Power.keep : Power → Power
  | .hold => .on
  | p => p

/-- POWER_HOLD_EXPIRE: a part stays powered unless the conditions of R383 or R387 still hold. -/
def execPowerHoldExpire (core : CoreId) (part : PowerPart) (s : State) : Host.Outcome State Fault Refusal :=
  match part with
  | .group g =>
    let used := (s.groupsInUse core).contains g.val
    .next (s.modifyCore core fun k =>
      { k with groups := k.groups.set g.val (if used then k.groups[g.val].keep else k.groups[g.val].startOpening) })
  | .core =>
    match (s.core core).power with
    | .hold => .next (s.modifyCore core fun k => { k with power := if s.coreIdle core then .opening false else .on })
    | _ => .next s

/-- A lane group of a core that gates is gated with it, unless its wake is queued. -/
def Power.gatedWithCore : Power → Power
  | .waking => .waking
  | _ => .gated

/-- SWITCH_OPENING_COMPLETE: the part is gated; a wake that came meanwhile, for it or for a group that gates with it, enters
the in-rush arbiter's queue. -/
def execSwitchOpeningComplete (core : CoreId) (part : PowerPart) (s : State) : Host.Outcome State Fault Refusal :=
  match part with
  | .group g =>
    match (s.core core).groups[g.val] with
    | .opening wake =>
      let t := s.modifyCore core fun k => { k with groups := k.groups.set g.val .gated }
      .next (if wake then t.wakeGroup core g.val else t)
    | _ => .next s
  | .core =>
    match (s.core core).power with
    | .opening wake =>
      let waking := (List.finRange 8).filter fun g => (s.core core).groups[g.val] == .opening true
      let t := s.modifyCore core fun k => { k with power := .gated, groups := k.groups.map Power.gatedWithCore }
      let t := if wake then t.wakeCore core else t
      .next (t.wakeGroups (waking.map fun g => (core, g.val)))
    | _ => .next s

/-! ### Waking (R386-R388) -/

/-- INRUSH_GRANT: the oldest request, while fewer than 8 parts turn on. -/
def execInrushGrant (s : State) : Host.Outcome State Fault Refusal :=
  match s.dev.inrush with
  | w :: rest =>
    if s.dev.turningOn.length < 8 then
      .next (s.modifyDev fun d => { d with inrush := rest, turningOn := d.turningOn ++ [w] })
    else .next s
  | [] => .next s

/-- A core has power: what its latches caught is in the notify registers before anything issues (R388). -/
def Core.powerUp (k : Core) : Core :=
  match k.power with
  | .waking =>
    { k with
      power := .on
      notify := Vector.ofFn fun i : Fin 16 => k.notify[i.val] ||| k.latch[i.val]
      latch := Vector.replicate 16 0 }
  | _ => k

/-- TURN_ON_COMPLETE: a core turns on at the head of the chain of its lane group 0 (R387). -/
def execTurnOnComplete (core : CoreId) (group : BitVec 3) (s : State) : Host.Outcome State Fault Refusal :=
  let w : Wake := { core, group := Fin.ofNat 8 group.toNat }
  if s.dev.turningOn.contains w then
    let s := s.modifyDev fun d => { d with turningOn := d.turningOn.filter (· != w) }
    .next (s.modifyCore core fun k =>
      let k := { k with groups := vset k.groups group.toNat .on }
      if group = 0 then k.powerUp else k)
  else .next s

/-- CLUSTER_CLOCK_CHANGE (R408): the cores that the model holds are of one cluster (R1). -/
def execClusterClockChange (_core : CoreId) (running : Bool) (s : State) : Host.Outcome State Fault Refusal :=
  .next { s with cores := s.cores.map fun k => { k with clock := running } }

end Sys2Proof.Machine
end

