-- ==== Sys2Proof/Machine/Frames.lean ====
section
/-!
DEFINITION. Frames, modules and links: page epochs and moves, errors of lines and words, links and modules that leave
service, the frame reserve, and device reset (R116-R119, R128-R130, R134-R136, R140, R418).
-/

namespace Sys2Proof.Machine

/-! ### Slots (R116, R129) -/

/-- The Sobry link that a slice is served by: slices 4j to 4j + 3 of a die serve its link j. -/
def linkOf (s : SliceId) : LinkId := Fin.ofNat 24 (s.val / 4)

/-- A link and its module are in service and not being retired. -/
def Device.linkServes (d : Device) (l : LinkId) : Bool := d.linkmap.getLsbD l.val && !d.retiring.contains l

/-- Frames that live behind a link: those of the initial placement, corrected by the records of frames. -/
def Device.framesBehind (d : Device) (l : LinkId) : Nat :=
  let n := d.frames.toNat
  let initial := n / 96 * 4 + min 4 (n % 96 - 4 * l.val)
  let left := d.homes.countP fun i => decide (i.frame < n) && linkOf (Config.initialHome i.frame) == l && linkOf i.home != l
  let came := d.homes.countP fun i => decide (i.frame < n) && linkOf (Config.initialHome i.frame) != l && linkOf i.home == l
  let lost := d.lost.countP fun f => decide (f < n) && linkOf (d.frameInfo f).home == l
  initial + came - left - lost

/-- Slots that moves in progress have taken behind a link. -/
def Device.slotsTaken (d : Device) (l : LinkId) : Nat := d.homes.countP fun i => i.move.any fun t => linkOf t == l

/-- Free slots behind a link. -/
def Device.freeSlots (d : Device) (l : LinkId) : Nat :=
  if d.linkServes l then Config.moduleSlots - d.framesBehind l - d.slotsTaken l else 0

/-- The slice for a frame among those given: the one whose module has the most free slots, the lowest on a tie. -/
def Device.targetSlice (d : Device) (among : List SliceId) : Option SliceId :=
  let open_ := among.filter fun t => !d.fencedSlices.contains t && decide (0 < d.freeSlots (linkOf t))
  open_.foldl (fun acc t => match acc with
    | none => some t
    | some u => if d.freeSlots (linkOf u) < d.freeSlots (linkOf t) then some t else some u) none

/-! ### Epochs and moves (R128-R130) -/

/-- The die with the largest count, the lowest on a tie. -/
def busiestDie (counts : Vector (BitVec 16) 4) : Fin 4 :=
  (List.finRange 4).foldl (fun d e => if counts[d.val] < counts[e.val] then e else d) 0

/-- Whether a frame is to move, and to which die. -/
def FrameInfo.wanted (i : FrameInfo) : Option (Fin 4) :=
  let d := busiestDie i.counts
  let n := i.counts[d.val].toNat
  let others := (i.counts.toList.map (·.toNat)).sum - n
  let factor := match i.hint with
    | some (e, left) => if e = d ∧ 0 < left then 1 else 2
    | none => 2
  if dieOf i.home ≠ d.val ∧ 64 ≤ n ∧ factor * others ≤ n ∧ !i.promise ∧ i.move.isNone then some d else none

/-- The counters are halved and a hint has one epoch less. -/
def FrameInfo.age (i : FrameInfo) : FrameInfo :=
  { i with
    counts := i.counts.map fun c : BitVec 16 => BitVec.ofNat 16 (c.toNat / 2)
    hint := match i.hint with
      | some (e, n + 2) => some (e, n + 1)
      | _ => none }

/-- Moves that a slice has in progress. -/
def Device.movesOf (d : Device) (t : SliceId) : Nat := d.homes.countP fun i => i.home == t && i.move.isSome

/-- The slices of a die. -/
def slicesOf (die : Nat) : List SliceId := (List.finRange 96).filter fun t => dieOf t == die

/-- One frame at the end of its slice's epoch. -/
def Device.endEpoch (d : Device) (i : FrameInfo) : Device :=
  let target := match i.wanted with
    | some die => if d.movesOf i.home < 4 then d.targetSlice (slicesOf die.val) else none
    | none => none
  d.setFrame { i.age with move := target.or i.move }

/-- PAGE_EPOCH (R128): frames without a record have no access counted, and stay. -/
def execPageEpoch (slice : SliceId) (s : State) : Host.Outcome State Fault Refusal :=
  let mine := s.dev.homes.filter fun i => i.home == slice && !s.dev.lost.contains i.frame
  .next (s.modifyDev fun d => mine.foldl Device.endEpoch d)

/-- A frame lives in another slice: links to its lines are cleared. -/
def Device.rehome (d : Device) (frame : Nat) (t : SliceId) : Device :=
  { d.setFrame { d.frameInfo frame with home := t, move := none } with gens := bumpRange (frame * 65536) 65536 d.gens }

/-- FRAME_MOVE_SWITCH (R130). -/
def execFrameMoveSwitch (frame : BitVec 36) (s : State) : Host.Outcome State Fault Refusal :=
  match (s.dev.frameInfo frame.toNat).move with
  | some t => .next (s.modifyDev (·.rehome frame.toNat t))
  | none => .next s

/-! ### Errors of lines and words (R136, R140) -/

/-- Every read that is on its way has obtained its bytes: an error comes after them (log 67). -/
def State.performAllReads (s : State) : State :=
  { (allCores.flatMap fun c => (List.finRange 5).map fun x => (c, x)).foldl
      (fun s p => (s.actingAs p.1 p.2).performReads) s with cur := s.cur }

/-- MODULE_UNCORRECTABLE_ERROR: the line is poisoned at its home. -/
def execModuleUncorrectableError (line : BitVec 46) (s : State) : Host.Outcome State Fault Refusal :=
  let l := line.toNat
  if s.dev.frames.toNat ≤ l / 1024 ∨ s.dev.lost.contains (l / 1024) ∨ s.dev.poison.contains l then .next s
  else .next (s.performAllReads.modifyDev fun d => { d with poison := d.poison ++ [l] })

/-- 8-byte words of the W and X buffers. -/
def bufferWordCount : BufId → Nat
  | .w => 393216
  | .x => 262144

/-- An entry of an accumulator slot is poisoned. -/
def Slot.poisoned (q : Slot) (entry : Nat) : Slot :=
  { q with poison := if q.poison.contains entry then q.poison else q.poison ++ [entry] }

/-- BUFFER_WORD_ERROR: the word is poisoned.  Word 1,024n + 32i + j of Z is entry (i, j) of slot n; a slot that is not bound
is zeroed when it is (R242). -/
def execBufferWordError (core : CoreId) (buf : TypedBuf) (word : BitVec 19) (s : State) :
    Host.Outcome State Fault Refusal :=
  let n := word.toNat
  match buf with
  | .wx b =>
    let marks := (s.core core).poisonOf b
    if bufferWordCount b ≤ n ∨ marks.contains n then .next s
    else .next (s.performAllReads.modifyCore core fun k => k.setPoison b (marks ++ [n]))
  | .z => .next (s.modifyCore core fun k =>
      { k with slots := k.slots.map fun q => if q.number.toNat = n / 1024 then q.poisoned (n % 1024) else q })

/-! ### Links and modules (R134, R135) -/

/-- The frames that live behind some slices, in rising order. -/
def Device.framesAt (d : Device) (at_ : SliceId → Bool) : List Nat :=
  (List.range d.frames.toNat).filter fun f => at_ (d.frameInfo f).home && !d.lost.contains f

/-- Runs of consecutive frames: the first frame and the count of each. -/
def runsOfFrames : List Nat → List (Nat × Nat)
  | [] => []
  | f :: fs => match runsOfFrames fs with
    | (g, n) :: rest => if g = f + 1 then (f, n + 1) :: rest else (f, 1) :: (g, n) :: rest
    | [] => [(f, 1)]

/-- Frames become lost: their contents are gone, and their ranges are reported. -/
def Device.lose (d : Device) (fs : List Nat) : Device :=
  let d := { d with
    lost := d.lost ++ fs
    mem := d.mem.filter fun e => !fs.contains (frameOf e.1)
    poison := d.poison.filter fun l => !fs.contains (l / 1024) }
  (runsOfFrames fs).foldl (fun d r => d.report 3 [word r.1, word r.2]) d

/-- Each frame in turn finds a free slot elsewhere, or is left behind; those left behind. -/
def Device.rehomeAll : List Nat → Device → Device × List Nat
  | [], d => (d, [])
  | f :: fs, d =>
    match d.targetSlice (List.finRange 96) with
    | some t => Device.rehomeAll fs (d.rehome f t)
    | none =>
      let (d, left) := Device.rehomeAll fs d
      (d, f :: left)

/-- A link leaves service, and moves towards it are given up. -/
def Device.dropLink (d : Device) (l : LinkId) : Device :=
  { d with
    linkmap := d.linkmap &&& ~~~(BitVec.ofNat 24 (2 ^ l.val))
    retiring := d.retiring.filter (· != l)
    homes := d.homes.map fun i => if i.move.any fun t => linkOf t == l then { i with move := none } else i }

/-- Lanes of a link or port outside any RECAL; one that has all of them keeps no record. -/
def Device.setLanes (d : Device) (quinsia : Bool) (n : BitVec 16) (lanes : Nat) : Device :=
  let others := d.narrow.filter fun e => !(e.1 == quinsia && e.2.1 == n)
  { d with narrow := if lanes < (if quinsia then 4 else 8) then others ++ [(quinsia, n, BitVec.ofNat 4 lanes)] else others }

/-- A service command ends with a result, which is reported (R439, R442). -/
def Device.endCommand (d : Device) (code result : Nat) : Device :=
  { d with svcBusy := false, svcResult := BitVec.ofNat 8 result }.report 7 [word code, word (result * 256)]

/-- A RETIREMOD of a link that has been dropped is done (R442). -/
def Device.endRetire (d : Device) (l : LinkId) : Device :=
  if d.svcBusy && d.svccmd == 2 && d.retiremod == some l then { d with retiremod := none : Device }.endCommand 2 0 else d

/-- A link leaves service: the frames left behind it are lost, and both are reported (R134, R135, R439). -/
def Device.leaveService (d : Device) (l : LinkId) (gone : List Nat) : Device :=
  ((((d.dropLink l).setLanes false (BitVec.ofNat 16 l.val) 0).lose gone).report 6 [0, word l.val, 0]).endRetire l

/-- Launches with a request outstanding to some slices: a read that has not obtained its bytes there (R135). -/
def State.launchesWaitingAt (s : State) (at_ : SliceId → Bool) : List Word :=
  let waits (h : Hart) : Bool := h.fills.any fun f => f.reads.any fun r => match r.place with
    | .main pa => at_ (s.dev.homeOf pa)
    | _ => false
  (s.cores.toList.flatMap fun k => k.ctxs.toList.filter fun t => t.status != .free && waits t.hart).map (·.hart.link.launch)

/-- LINK_FAILURE (R134, R135): a module that can be read is retired, and one that cannot takes its frames with it, one that
is being retired too; the launches that wait for it are fenced. -/
def execLinkFailure (link : LinkId) (readable : Bool) (s : State) : Host.Outcome State Fault Refusal :=
  if !s.dev.linkmap.getLsbD link.val ∨ (readable ∧ s.dev.retiring.contains link) then .next s
  else if readable then
    .next (s.modifyDev fun d => { d with retiring := d.retiring ++ [link], fencedLinks := d.fencedLinks ++ [link] })
  else
    let s := (s.launchesWaitingAt fun t => linkOf t == link).foldl (fun s l => s.fenceLaunch l causeFenced) s
    .next (s.modifyDev fun d =>
      let gone := d.framesAt fun t => linkOf t == link
      { d with fencedLinks := link :: d.fencedLinks.filter (· != link) : Device }.leaveService link gone)

/-- Lanes of a Sobry link are in recalibration. -/
def Device.recalibrating (d : Device) (quinsia : Bool) (n : Nat) : Bool :=
  d.recal.any fun e => e.1 == quinsia && e.2.1.toNat == n

/-- The command that runs is a RECAL of a Sobry link (R445). -/
def Device.recalibrates (d : Device) (l : LinkId) : Bool := d.svcBusy && d.svccmd == 4 && d.recalibrating false l.val

/-- MODULE_RETIRE_COMPLETE (R134, R445): the last frame has left, once a recalibration of the link has ended. -/
def execModuleRetireComplete (link : LinkId) (s : State) : Host.Outcome State Fault Refusal :=
  if !s.dev.retiring.contains link || s.dev.recalibrating false link.val then .next s
  else
    .next (s.modifyDev fun d =>
      let (d, left) := Device.rehomeAll (d.framesAt fun t => linkOf t == link) d
      d.leaveService link left)

/-- SLICE_UNCORRECTABLE_ERROR (R418): the slice is fenced and its homed frames are lost. -/
def execSliceUncorrectableError (slice : SliceId) (s : State) : Host.Outcome State Fault Refusal :=
  if s.dev.fencedSlices.contains slice then .next s
  else
    let s := (s.launchesWaitingAt (· == slice)).foldl (fun s l => s.fenceLaunch l causeFenced) s
    .next (s.modifyDev fun d =>
      let gone := d.framesAt (· == slice)
      { d with
        fencedSlices := d.fencedSlices ++ [slice]
        homes := d.homes.map fun (i : FrameInfo) => if i.move = some slice then { i with move := none } else i }.lose gone)

/-! ### The reserve and device reset (R116, R117) -/

/-- Slots of the modules in service. -/
def Device.slotsInService (d : Device) : Nat := popCount 24 d.linkmap.toNat * Config.moduleSlots

/-- No launch is resident on the device. -/
def Device.noLaunch (d : Device) : Bool := d.placed.isEmpty

/-- Frames whose first home is behind a link that is not in service live elsewhere (R116). -/
def Device.housed (d : Device) : Device :=
  if d.linkmap = BitVec.allOnes 24 then d
  else (Device.rehomeAll (d.framesAt fun t => !d.linkmap.getLsbD (linkOf t).val) d).1

/-- Frames that enter the space, each in a slot: that of its first home where its link serves it and has one left, else a
free slot elsewhere (R116, log 9). -/
def Device.house : List Nat → Device → Device
  | [], d => d
  | f :: fs, d =>
    let t := Config.initialHome f
    let e := { d with frames := BitVec.ofNat 27 (f + 1) }
    let fits := e.linkServes (linkOf t) && !e.fencedSlices.contains t
      && decide (e.framesBehind (linkOf t) + e.slotsTaken (linkOf t) ≤ Config.moduleSlots)
    match if fits then none else d.targetSlice (List.finRange 96) with
    | none => Device.house fs e
    | some u => Device.house fs (e.rehome f u)

/-- Every frame is where it was first, and every slice serves. -/
def Device.isFresh (d : Device) : Bool :=
  decide (d.linkmap = BitVec.allOnes 24) && d.retiring.isEmpty && d.fencedSlices.isEmpty
    && d.homes.all fun i => i.home == Config.initialHome i.frame && i.move.isNone

/-- The space has n frames: those that leave it are forgotten, those that enter it get a slot each. -/
def Device.resize (d : Device) (n : Nat) : Device :=
  if d.isFresh || decide (n ≤ d.frames.toNat) then
    { d with frames := BitVec.ofNat 27 n, homes := d.homes.filter fun i => decide (i.frame < n) }
  else d.house ((List.range (n - d.frames.toNat)).map (d.frames.toNat + ·))

/-- MRSV_WRITE (R117): FRAMES is computed again, and every frame that the space now has lives in a slot at a slice in
service (R116). -/
def execMrsvWrite (value : BitVec 64) (s : State) : Host.Outcome State Fault Refusal :=
  if !s.dev.noLaunch then .next s
  else
    .next (s.modifyDev fun d =>
      let rsv := min (fieldOf value.toNat 0 27) (d.slotsInService - Config.moduleSlots)
      { d with rsv := BitVec.ofNat 27 rsv : Device }.resize (d.slotsInService - rsv))

/-- DEVICE_RESET (R116): every register and table at its reset value, the links found as they are, and no mark left.
What memory holds is as after power-on (log 4). -/
def execDeviceReset (s : State) : Host.Outcome State Fault Refusal :=
  let fresh := State.reset
  let d : Device := { fresh.dev with linkmap := s.dev.linkmap, narrow := s.dev.narrow, dommap := s.dev.dommap }
  let d := ({ d with frames := BitVec.ofNat 27 (d.slotsInService - d.rsv.toNat) } : Device).housed
  .next { fresh with dev := d, agenda := s.agenda, fresh := s.fresh }

end Sys2Proof.Machine
end

