-- ==== Sys2Proof/Machine/Permute.lean ====
section
/-!
DEFINITION. Masks (R211, R212) and permutations (R213).
-/

namespace Sys2Proof.Machine

/-! ### Masks -/

/-- What a mask instruction asks of the hart. -/
def State.maskUses (s : State) (regs : List Field) : Uses :=
  { regs, vown := true, lanes := true, work := [(.vint, s.tileCycles s.me.tile)] }

/-- A mask instruction: bit i of D, for i < T, from the hart as it stands. -/
def maskOp (regs : List Field) (d : Reg) (f : Hart → Nat → Bool) (s : State) : Host.Outcome State Fault Refusal :=
  issue s (s.maskUses (⟨2, d, isMask d⟩ :: regs)) fun s =>
    .ok (s.modifyMe fun h => h.writeM d (h.maskOf (h.readM d) fun i => some (f h i)))

/-- Bit i of a mask register. -/
def Hart.mbit (h : Hart) (m : Reg) (i : Nat) : Bool := bitAt (h.readM m) i

/-- A mask instruction of two sources. -/
def maskBinary (op : Bool → Bool → Bool) (d a b : Reg) (s : State) : Host.Outcome State Fault Refusal :=
  maskOp [⟨0, a, isMask a⟩, ⟨1, b, isMask b⟩] d (fun h i => op (h.mbit a i) (h.mbit b i)) s

/-- A mask instruction of one source. -/
def maskUnary (f : Hart → Nat → Bool) (d a : Reg) (s : State) : Host.Outcome State Fault Refusal :=
  maskOp [⟨0, a, isMask a⟩] d f s

/-- f_r of the row of a linear index: the first set position, or vl. -/
def Hart.rowSet (h : Hart) (m : Reg) (i : Nat) : Nat := rowFirst (h.readM m) (h.row i * h.vl.toNat) h.vl.toNat

def execMand (d a b : Reg) (s : State) := maskBinary (· && ·) d a b s
def execMor (d a b : Reg) (s : State) := maskBinary (· || ·) d a b s
def execMxor (d a b : Reg) (s : State) := maskBinary (fun x y => x != y) d a b s
def execMandn (d a b : Reg) (s : State) := maskBinary (fun x y => x && !y) d a b s
def execMnot (d a : Reg) (s : State) := maskUnary (fun h i => !h.mbit a i) d a s
def execMmov (d a : Reg) (s : State) := maskUnary (fun h i => h.mbit a i) d a s
def execMsbf (d a : Reg) (s : State) := maskUnary (fun h i => decide (h.col i < h.rowSet a i)) d a s
def execMsif (d a : Reg) (s : State) := maskUnary (fun h i => decide (h.col i ≤ h.rowSet a i)) d a s
def execMsof (d a : Reg) (s : State) := maskUnary (fun h i => decide (h.col i = h.rowSet a i)) d a s
def execMshup (d a : Reg) (s : State) := maskUnary (fun h i => decide (h.col i ≠ 0) && h.mbit a (i - 1)) d a s
def execMshdn (d a : Reg) (s : State) :=
  maskUnary (fun h i => decide (h.col i + 1 < h.vl.toNat) && h.mbit a (i + 1)) d a s
def execMset (d : Reg) (s : State) := maskOp [] d (fun _ _ => true) s
def execMclr (d : Reg) (s : State) := maskOp [] d (fun _ _ => false) s

/-- MPOP and MFIRST: a scalar from a mask. -/
def maskScan (f : Hart → Nat → Word) (d a : Reg) (s : State) : Host.Outcome State Fault Refusal :=
  issue s { s.maskUses [⟨2, d, isScalar d⟩, ⟨0, a, isMask a⟩] with dests := [(.x, d)] } fun s =>
    .ok (s.modifyMe fun h => h.writeX d (f h (h.readM a)))

def execMpop (d a : Reg) (s : State) := maskScan (fun h m => word (popCount h.tile m)) d a s
def execMfirst (d a : Reg) (s : State) :=
  maskScan (fun h m => if firstSet h.tile m = h.tile then BitVec.allOnes 64 else word (firstSet h.tile m)) d a s

/-! ### Permutations -/

/-- Element (r, e) of a register content. -/
def Hart.at2 (h : Hart) (x r e : Nat) : Nat := elem h.sew x (r * h.vl.toNat + e)

/-- Element i of a register content, 0 outside the tile. -/
def Hart.inTile (h : Hart) (x i : Nat) : Nat := if i < h.tile then elem h.sew x i else 0

/-- What a permutation that m0 masks reads of its sources: the whole tile, and nothing where no element is active (R50). -/
def Hart.ifAnyActive (h : Hart) : Nat → Bool := fun _ => (List.range h.tile).any h.masked

/-- A permutation of one vector and a scalar B: what element i of D receives, from the content of A and u64 B. -/
def permuteBy (f : Hart → Nat → Word → Nat → Option Nat) (d a : Reg) (b : Src) (fa : Bool) (s : State) :
    Host.Outcome State Fault Refusal :=
  issue s (s.elemUses .vint d a b fa false) fun s =>
    s.withWhole s.me.ifAnyActive [a] fun xs s =>
      let h := s.me
      s.writeTile d (f h (tileOfName xs a) (h.srcWord b))

/-- A permutation of one vector, `whole` if m0 does not mask it. -/
def permuteOne (whole : Bool) (f : Hart → Nat → Nat → Option Nat) (d a : Reg) (fa : Bool) (s : State) :
    Host.Outcome State Fault Refusal :=
  issue s (s.unaryUses .vint d a fa) fun s =>
    s.withWhole (if whole then everyElement else s.me.ifAnyActive) [a] fun xs s => s.writeTile d (f s.me (tileOfName xs a))

/-- A permutation of two vectors: what an active element i of D receives. -/
def permuteTwo (f : Hart → Nat → Nat → Nat → Nat) (d a b : Reg) (fa fb : Bool) (s : State) :
    Host.Outcome State Fault Refusal :=
  issue s (s.elemUses .vint d a (.reg b fb) fa false) fun s =>
    s.withWhole s.me.ifAnyActive [a, b] fun xs s => s.writeMasked d (f s.me (tileOfName xs a) (tileOfName xs b))

/-- VSLIDEUP: elements before the slide keep their values. -/
def execVslideup (d a : Reg) (b : Src) (fa : Bool) (s : State) :=
  permuteBy (fun h x n i =>
    if h.masked i && decide (n.toNat ≤ h.col i) then some (elem h.sew x (i - n.toNat)) else none) d a b fa s

def execVslidedn (d a : Reg) (b : Src) (fa : Bool) (s : State) :=
  permuteBy (fun h x n i =>
    if h.masked i then some (if h.col i + n.toNat < h.vl.toNat then elem h.sew x (i + n.toNat) else 0) else none)
    d a b fa s

def execVperm (d a b : Reg) (fa fb : Bool) (s : State) :=
  permuteTwo (fun h x y i => h.inTile x (elem h.sew y i)) d a b fa fb s

/-- The active positions of a row, in rising order. -/
def Hart.activeInRow (h : Hart) (r : Nat) : List Nat :=
  (List.range h.vl.toNat).filter fun e => h.masked (r * h.vl.toNat + e)

/-- VCOMPRESS: position k of a row receives its k-th active element. -/
def execVcompress (d a : Reg) (fa : Bool) (s : State) :=
  permuteOne false (fun h x i => ((h.activeInRow (h.row i))[h.col i]?).map fun e => h.at2 x (h.row i) e) d a fa s

/-- Set bits of a mask before position e of a row. -/
def Hart.countBefore (h : Hart) (m i : Nat) : Nat := popCount (h.col i) (m / 2 ^ (h.row i * h.vl.toNat))

/-- VEXPAND: the k-th active element of a row receives position k of A's row. -/
def execVexpand (d a : Reg) (fa : Bool) (s : State) :=
  permuteOne false (fun h x i =>
    if h.masked i then some (h.at2 x (h.row i) (h.countBefore (h.readM 0) i)) else none) d a fa s

/-- VIOTA: A in mask use. -/
def execViota (d a : Reg) (s : State) : Host.Outcome State Fault Refusal :=
  issue s
    { s.maskUses [⟨2, d, s.me.isVector d⟩, ⟨0, a, isMask a⟩] with dests := [(.v, d)], writes := [d] } fun s =>
    s.writeActive d fun i => s.me.countBefore (s.me.readM a) i

/-- VBCAST: the one value of B in every active element. -/
def execVbcast (d : Reg) (b : Src) (s : State) : Host.Outcome State Fault Refusal :=
  issue s
    { s.maskUses (⟨2, d, s.me.isVector d⟩ :: srcField s.me.isVector b) with
      len := srcBytes b
      sources := srcSource .v b
      dests := [(.v, d)]
      writes := [d] } fun s =>
    s.writeActive d fun _ => s.me.srcElem b

/-- VEXTRACT: a long-latency result (R32); an index outside the tile reads as 0. -/
def execVextract (d a : Reg) (b : Src) (fa : Bool) (s : State) : Host.Outcome State Fault Refusal :=
  issue s
    { s.elemUses .vint d a b fa false with
      regs := [⟨2, d, isScalar d⟩, ⟨0, a, s.me.isVector a⟩] ++ srcField s.me.isVector b
      dests := [(.x, d)]
      writes := [] } fun s =>
    s.withWhole everyElement [a] fun xs s =>
      .ok (s.modifyMe fun h => h.produceX d (word (h.inTile (tileOfName xs a) (h.srcWord b).toNat)))

/-- VINSERT: scalar A in one element, whatever m0 holds. -/
def execVinsert (d a : Reg) (b : Src) (fa : Bool) (s : State) : Host.Outcome State Fault Refusal :=
  issue s
    { s.maskUses ([⟨2, d, s.me.isVector d⟩, ⟨0, a, isScalar a⟩] ++ srcField s.me.isVector b) with
      len := srcBytes b
      sources := ⟨0, .x, a, fa⟩ :: srcSource .v b
      dests := [(.v, d)]
      writes := [d] } fun s =>
    let n := (s.me.srcWord b).toNat
    if n < s.me.tile then s.writeOne d n (s.me.readX a).toNat else s.writeTile d fun _ => none

/-- VTRANS: D[e·vrows + r] := A[r·vl + e]. -/
def execVtrans (d a : Reg) (fa : Bool) (s : State) :=
  permuteOne true (fun h x i => some (h.at2 x (i % h.vrows.toNat) (i / h.vrows.toNat))) d a fa s

def execVzip (d a b : Reg) (fa fb : Bool) (s : State) :=
  permuteTwo (fun h x y i => elem h.sew (if i % 2 = 0 then x else y) (i / 2)) d a b fa fb s

def execVunzip (d a : Reg) (b : Src) (fa : Bool) (s : State) :=
  permuteBy (fun h x n i => if h.masked i then some (h.inTile x (2 * i + n.toNat % 2)) else none) d a b fa s

end Sys2Proof.Machine
end

