-- ==== Sys2Proof/Machine/Digest.lean ====
section
/-!
DEFINITION. SHAKE256, by which images and quotes are digested (R441, R444).  The spec names the function; its definition
is that of FIPS 202, with lanes of 64 bits (log 76).
-/

namespace Sys2Proof.Machine

/-- Rotation of a lane to the left. -/
def rotateLane (x n : Nat) : Nat := (x <<< n ||| x >>> (64 - n)) % 2 ^ 64

/-- The rotation of each lane, by x + 5y. -/
def laneOffsets : List Nat :=
  [0, 1, 62, 28, 27, 36, 44, 6, 55, 20, 3, 10, 43, 25, 39, 41, 45, 15, 21, 8, 18, 2, 61, 56, 14]

/-- The constant of each round. -/
def roundConstants : List Nat :=
  [0x0000000000000001, 0x0000000000008082, 0x800000000000808A, 0x8000000080008000, 0x000000000000808B, 0x0000000080000001,
    0x8000000080008081, 0x8000000000008009, 0x000000000000008A, 0x0000000000000088, 0x0000000080008009, 0x000000008000000A]
  ++ [0x000000008000808B, 0x800000000000008B, 0x8000000000008089, 0x8000000000008003, 0x8000000000008002, 0x8000000000000080,
    0x000000000000800A, 0x800000008000000A, 0x8000000080008081, 0x8000000000008080, 0x0000000080000001, 0x8000000080008008]

/-- Lane i of a state of 25 lanes. -/
def lane (a i : Nat) : Nat := fieldOf a (64 * (i % 25)) 64

/-- The parity of a column. -/
def columnParity (a x : Nat) : Nat :=
  lane a x ^^^ lane a (x + 5) ^^^ lane a (x + 10) ^^^ lane a (x + 15) ^^^ lane a (x + 20)

/-- The columns' parities spread to their neighbours. -/
def spreadParity (a : Nat) : Nat :=
  let d := ofWords 64 ((List.range 5).map fun x => columnParity a ((x + 4) % 5) ^^^ rotateLane (columnParity a ((x + 1) % 5)) 1)
  a ^^^ (d ||| d <<< 320 ||| d <<< 640 ||| d <<< 960 ||| d <<< 1280)

/-- The lanes rotated and moved: the lane at (x, y) goes to (y, 2x + 3y). -/
def moveLanes (a : Nat) : Nat :=
  ofWords 64 ((List.range 25).map fun i =>
    let y := i / 5
    let x := (i % 5 + 3 * y) % 5
    rotateLane (lane a (x + 5 * (i % 5))) ((laneOffsets[x + 5 * (i % 5)]?).getD 0))

/-- Each lane joined with the next two of its row. -/
def mixRows (a : Nat) : Nat :=
  ofWords 64 ((List.range 25).map fun i =>
    let at_ (n : Nat) : Nat := lane a (i / 5 * 5 + (i + n) % 5)
    at_ 0 ^^^ ((2 ^ 64 - 1 - at_ 1) &&& at_ 2))

/-- The permutation of 24 rounds. -/
def permuteLanes (a : Nat) : Nat := roundConstants.foldl (fun a c => mixRows (moveLanes (spreadParity a)) ^^^ c) a

/-- Blocks of 136 bytes absorbed, the last one padded. -/
def absorbBlocks : Nat → Nat → List Nat → Nat
  | 0, a, _ => a
  | n + 1, a, bytes =>
    let block := bytes.take 136
    if block.length < 136 then
      permuteLanes (a ^^^ ofWords 8 block ^^^ 0x1F <<< (8 * block.length) ^^^ 0x80 <<< (8 * 135))
    else absorbBlocks n (permuteLanes (a ^^^ ofWords 8 block)) (bytes.drop 136)

/-- The first 512 bits that SHAKE256 gives for a message. -/
def shake256 (bytes : List Byte) : BitVec 512 :=
  BitVec.ofNat 512 (absorbBlocks (bytes.length / 136 + 1) 0 (bytes.map (·.toNat)))

end Sys2Proof.Machine
end

