-- ==== Sys2Proof/Machine/Service.lean ====
section
/-!
DEFINITION. The host interface: management registers, BAR2, boot, and service commands (R127, R433-R445).
-/

namespace Sys2Proof.Machine

/-! ### Reads of the management registers (R434-R443) -/

/-- Some core, slice or link is fenced (R435). -/
def State.anyFenced (s : State) : Bool :=
  s.cores.toList.any (fun k : Core => k.fenced) || !s.dev.fencedElsewhere.isEmpty || !s.dev.fencedSlices.isEmpty
    || !s.dev.fencedLinks.isEmpty

/-- MCAP (R117). -/
def Device.mcap (d : Device) : Nat := d.frames.toNat + d.linkmap.toNat * 2 ^ 32

/-- QCTL of a queue. -/
def HostQueue.control (q : HostQueue) : Nat := q.log2n.toNat + q.level.toNat * 2 ^ 8 + (if q.en then 2 ^ 31 else 0)

/-- A management register at its BAR0 offset; any other offset reads as zero. -/
def State.managementRegister (s : State) (off : Nat) : Word :=
  let d := s.dev
  let flag (b : Bool) (n : Nat) : Nat := if b then 2 ^ n else 0
  if 0x10000 ≤ off ∧ off < 0x12000 then
    let q := vget d.queues ((off - 0x10000) / 32) {}
    match (off - 0x10000) % 32 with
    | 0 => q.qbase
    | 8 => word q.control
    | 16 => word q.tail.toNat
    | 24 => word q.head.toNat
    | _ => 0
  else
    match off with
    | 0x00 => word (d.step.toNat + 384 * 2 ^ 16)
    | 0x08 => word d.devnum.toNat
    | 0x10 => word (flag d.ready 0 + flag d.repovf 1 + flag s.anyFenced 2)
    | 0x18 => d.dommap
    | 0x20 => word d.mcap
    | 0x28 => word d.rsv.toNat
    | 0x30 => d.winbase
    | 0x40 => word d.tinvasn.toNat
    | 0x48 => d.tinvva
    | 0x50 => d.tinvlen
    | 0x58 => word (flag d.tinv.isSome 1)
    | 0x60 => d.rrjob
    | 0x68 => d.rrroot
    | 0x70 => word (flag d.rrErr 8 + flag d.rrLeaving.isSome 9)
    | 0x80 => d.repbase
    | 0x88 => word (d.replog.toNat + flag d.repen 31)
    | 0x90 => d.rephead
    | 0x98 => d.reptail
    | 0xA0 => d.svcarg0
    | 0xA8 => d.svcarg1
    | 0xB0 => word d.svccmd.toNat
    | 0xB8 => word (flag d.svcBusy 0 + d.svcResult.toNat * 2 ^ 8)
    | _ => 0

/-! ### Device number, invalidation, remote roots, reports -/

/-- DEVNUM_WRITE (R435). -/
def execDevnumWrite (value : BitVec 64) (s : State) : Host.Outcome State Fault Refusal :=
  let n := fieldOf value.toNat 0 16
  if s.dev.noLaunch && decide (n ≤ 36863) then .next (s.modifyDev fun d => { d with devnum := BitVec.ofNat 16 n })
  else .next s

/-- TINV_GO (R437): the command takes the ASN and the range as the registers stand. -/
def execTinvGo (value : BitVec 64) (s : State) : Host.Outcome State Fault Refusal :=
  if bitAt value.toNat 0 && s.dev.tinv.isNone then
    .next (s.modifyDev fun d => { d with tinv := some { asn := d.tinvasn, va := d.tinvva, len := d.tinvlen } })
  else .next s

/-- A hart holds places that it has translated and not used yet: stores of its open strip, reads that have not obtained
their bytes, or a copy command's side in a buffer. -/
def Hart.holdsPlaces (h : Hart) : Bool :=
  !h.strip.isEmpty || h.fills.any (fun f => !f.reads.isEmpty) || h.cmds.any fun q => q.srcBuf.isSome || q.dstBuf.isSome

/-- A page of 64 KiB belongs to the range of a TINV command, which is widened to whole pages; length 0 names every page of
the ASN (R437). -/
def pageInRange (base len : Word) (page : Nat) : Bool :=
  len == 0 || (decide (base.toNat / 65536 ≤ page) && decide (page ≤ (base.toNat + len.toNat - 1) / 65536))

/-- The links of a hart to addresses of a range are evicted (log 10). -/
def Hart.dropLinksIn (base : Word) (len : Word) (h : Hart) : Hart :=
  { h with links := h.links.map fun l => if pageInRange base len (l.va.toNat / 65536) then { l with active := false } else l }

/-- The links under an ASN to addresses of a range are evicted. -/
def State.dropLinksOf (s : State) (asn : BitVec 16) (base len : Word) : State :=
  { s with cores := s.cores.map fun k =>
      { k with
        ctxs := k.ctxs.map fun t => if t.hart.link.root.setWidth 16 = asn then { t with hart := t.hart.dropLinksIn base len } else t
        fw := if k.fwroot.setWidth 16 = asn then k.fw.dropLinksIn base len else k.fw } }

/-- No access translated under an ASN waits to commit (R127). -/
def State.asnSettled (s : State) (asn : BitVec 16) : Bool :=
  s.cores.toList.all fun (k : Core) =>
    k.ctxs.toList.all (fun t => t.status == .free || t.hart.link.root.setWidth 16 != asn || !t.hart.holdsPlaces)
      && (k.fwroot.setWidth 16 != asn || !k.fw.holdsPlaces)

/-- The cached translations of a range under an ASN leave every core (R127). -/
def State.dropCached (s : State) (asn : BitVec 16) (base len : Word) : State :=
  { s with cores := s.cores.map fun k =>
      { k with tlb := k.tlb.filter fun t => !(t.asn == asn && pageInRange base len t.page.toNat) } }

/-- Some frame is moving (R130). -/
def Device.isMoving (d : Device) : Bool := d.homes.any fun i => i.move.isSome

/-- TINV_COMPLETE (R127, R445): no frame moves, and no cache holds a translation of the range any more; the links of VLDL,
which VSTC uses without a walk, are evicted (log 10). -/
def execTinvComplete (s : State) : Host.Outcome State Fault Refusal :=
  match s.dev.tinv with
  | none => .next s
  | some t =>
    if s.asnSettled t.asn && !s.dev.isMoving then
      .next (((s.dropLinksOf t.asn t.va t.len).dropCached t.asn t.va t.len).modifyDev fun d => { d with tinv := none })
    else .next s

/-- RR_INSTALL (R438). -/
def execRrInstall (s : State) : Host.Outcome State Fault Refusal :=
  let d := s.dev
  let others := d.remoteRoots.filter fun e => e.1 != d.rrjob
  if d.rrLeaving.isSome then .next s
  else if others.length < 64 then
    .next { s with dev := { d with remoteRoots := others ++ [(d.rrjob, d.rrroot)], rrErr := false } }
  else .next { s with dev := { d with rrErr := true } }

/-- A remote access of a job is still in hand: its fault is with firmware. -/
def State.remoteInUse (s : State) (job : Word) : Bool :=
  s.cores.toList.any fun (k : Core) => k.holdsRecord fun r => match r.of with
    | .request q _ => q.job == job
    | _ => false

/-- RR_REMOVE (R438): the removal of the job that RRJOB names is BUSY while an access uses the entry; it keeps its job. -/
def execRrRemove (s : State) : Host.Outcome State Fault Refusal :=
  let d := s.dev
  let job := d.rrLeaving.getD d.rrjob
  if (d.remoteRoot job).isNone then .next { s with dev := { d with rrErr := true, rrLeaving := none } }
  else if s.remoteInUse job then .next { s with dev := { d with rrLeaving := some job, rrErr := false } }
  else
    .next { s with dev :=
      { d with remoteRoots := d.remoteRoots.filter fun e => e.1 != job, rrLeaving := none, rrErr := false } }

/-- Reports that wait inside the device are written while the ring has room (R439). -/
def Device.flushReports : Nat → Device → Device
  | 0, d => d
  | n + 1, d =>
    match d.waitingReports with
    | r :: rest => if d.ringFull then d else Device.flushReports n ({ d with waitingReports := rest }.writeReport r)
    | [] => d

/-- REPHEAD_WRITE (R439). -/
def execRepheadWrite (value : BitVec 64) (s : State) : Host.Outcome State Fault Refusal :=
  .next (s.modifyDev fun d => Device.flushReports 1024 { d with rephead := value })

/-! ### Service commands (R442-R444) -/

/-- A service command that ends at once with a result. -/
def State.service (s : State) (code : Nat) (result : State → Nat × State) : Host.Outcome State Fault Refusal :=
  if s.dev.svcBusy then .next s
  else
    let s := s.modifyDev fun d => { d with svccmd := BitVec.ofNat 8 code }
    let (r, s) := result s
    .next (s.modifyDev (·.endCommand code r))

/-- Harts of a launch that are on no core of the model and not switched out from one: they run elsewhere (log 1). -/
def State.elsewhere (s : State) (p : Placed) : Nat :=
  p.live - (s.cores.toList.map fun k => k.ctxs.toList.countP fun t => t.status != .free && t.hart.link.launch == p.link.launch).sum
    - s.dev.switchedOut.countP fun o => o.link.launch == p.link.launch

/-- A core that the model does not hold is fenced (R418): which launches have a hart there is free, among those with harts
elsewhere, and so is its FATALREC (log 1). -/
def State.fenceOther (s : State) (n : Nat) : State :=
  if s.dev.fencedElsewhere.contains n then s
  else
    let there := ((s.dev.placed.filter fun p => s.elsewhere p != 0).mapIdx fun i p => (p.link.launch, bitAt (s.pick (i + 1)) 0)).filter (·.2)
    let s := (there.foldl (fun s e => s.fenceLaunch e.1 causeFenced) s).takeFresh
    s.modifyDev fun d => { d with fencedElsewhere := d.fencedElsewhere ++ [n] }.report 2 [word n, word (s.pick 0)]

/-- SVC_FENCECORE (R418, R442). -/
def execSvcFencecore (s : State) : Host.Outcome State Fault Refusal :=
  s.service 1 fun s =>
    let n := s.dev.svcarg0.toNat
    if h : n < 4 then (0, s.fenceCore ⟨n, h⟩) else if n < 384 then (0, s.fenceOther n) else (3, s)

/-- The Sobry link that SVCARG0 names. -/
def Device.argLink (d : Device) : Option LinkId :=
  let n := d.svcarg0.toNat
  if h : n < 24 then some ⟨n, h⟩ else none

/-- The retirement of a link that a RETIREMOD names begins, or is refused where the link does not serve (R134). -/
def Device.startRetire (d : Device) (l : LinkId) : Device :=
  if d.linkServes l then { d with svccmd := 2, svcBusy := true, retiring := d.retiring ++ [l], retiremod := some l }
  else { d with svccmd := 2 : Device }.endCommand 2 1

/-- SVC_RETIREMOD (R134): it completes when the link is dropped; during a RECAL of the link it waits for that (R445). -/
def execSvcRetiremod (s : State) : Host.Outcome State Fault Refusal :=
  match s.dev.argLink with
  | none => s.service 2 fun s => (3, s)
  | some l =>
    if s.dev.recalibrates l then .next (s.modifyDev fun d => { d with retiremod := some l })
    else if s.dev.svcBusy then .next s
    else .next (s.modifyDev (·.startRetire l))

/-- SVC_RETURNMOD (R134): the slots of the replaced module are free again, and its link is reported (R439). -/
def execSvcReturnmod (s : State) : Host.Outcome State Fault Refusal :=
  s.service 3 fun s =>
    match s.dev.argLink with
    | none => (3, s)
    | some l =>
      if s.dev.linkmap.getLsbD l.val then (1, s)
      else (0, s.modifyDev fun d =>
        ({ d with
            linkmap := d.linkmap ||| BitVec.ofNat 24 (2 ^ l.val)
            fencedLinks := d.fencedLinks.filter (· != l) : Device }.setLanes false (BitVec.ofNat 16 l.val) 8).report 6
          [0, word l.val, 8])

/-- SVC_RECAL (R443): the lanes of the mask leave service, one by one to return. -/
def execSvcRecal (s : State) : Host.Outcome State Fault Refusal :=
  let quinsia := bitAt s.dev.svcarg0.toNat 16
  let n := fieldOf s.dev.svcarg0.toNat 0 16
  let width := if quinsia then 4 else 8
  let mask := s.dev.svcarg1.toNat
  let lanes := (List.range width).filter fun i => bitAt mask i
  if s.dev.svcBusy then .next s
  else if s.dev.svcarg0.toNat / 2 ^ 17 ≠ 0 ∨ (if quinsia then 36 else 24) ≤ n ∨ mask / 2 ^ width ≠ 0 ∨ lanes.isEmpty then
    s.service 4 fun s => (3, s)
  else if s.dev.lanesOf quinsia n = 0 ∨ (!quinsia ∧ !s.dev.linkmap.getLsbD n) then s.service 4 fun s => (1, s)
  else
    .next (s.modifyDev fun d =>
      { d with
        svccmd := 4
        svcBusy := true
        recal := d.recal ++ lanes.map fun i => (quinsia, BitVec.ofNat 16 n, BitVec.ofNat 3 i) })

/-- RECAL ends, and a RETIREMOD that waited for it proceeds (R445). -/
def Device.endRecal (d : Device) : Device :=
  let e := { d with retiremod := none : Device }.endCommand 4 0
  match d.retiremod with
  | some l => e.startRetire l
  | none => e

/-- RECAL_LANE_RETURN (R443): the command ends with its last lane. -/
def execRecalLaneReturn (quinsia : Bool) (link : BitVec 16) (lane : BitVec 3) (s : State) : Host.Outcome State Fault Refusal :=
  if s.dev.recal.contains (quinsia, link, lane) then
    .next (s.modifyDev fun d =>
      let d := { d with recal := d.recal.filter fun e => e != (quinsia, link, lane) }
      if d.recal.isEmpty && d.svcBusy && d.svccmd == 4 then d.endRecal else d)
  else .next s

/-! ### Signed images (R441) -/

/-- The fields of a signed image that its header gives: its digest, and the version for the fused floor of its KIND. -/
def imageDigest (header : Nat) : BitVec 512 := BitVec.ofNat 512 (fieldOf header 512 512)
def imageVersion (header : Nat) : Nat := fieldOf header 96 32

/-- An image of a KIND is sound but for its version and its signature: the fixed fields hold what they must, the length is
that of the payload, and the digest is that of bytes 0 to 63 of the header and the payload (R441). -/
def imageSound (kind header : Nat) (payload : List Byte) : Bool :=
  fieldOf header 0 64 == 0x4D49514B34383356 && fieldOf header 64 8 == kind && fieldOf header 128 64 == payload.length
    && fieldOf header 192 320 == 0 && imageDigest header == shake256 (bytesOf 64 header ++ payload)
    && decide (fieldOf header 1024 16 ≤ 1280) && fieldOf header 1040 48 == 0 && fieldOf header 11328 5056 == 0

/-- An image is accepted (R441): it is sound, its version is not below the floor, and its signature verifies, which the act
says (log 11). -/
def imageOk (kind header : Nat) (payload : List Byte) (signed : Bool) : Bool :=
  signed && decide ((Config.versionFloor kind).toNat ≤ imageVersion header) && imageSound kind header payload

/-- The header of an image in main memory, and its payload, which follows it. -/
def Device.imageHeader (d : Device) (pa : Nat) : Nat := d.load pa 2048
def Device.imagePayload (d : Device) (pa : Nat) : List Byte :=
  (List.range (fieldOf (d.imageHeader pa) 128 64)).map fun i => BitVec.ofNat 8 (d.load (pa + 2048 + i) 1)

/-- SVC_STAGEFW (R441, R442). -/
def execSvcStagefw (image : FirmwareImage) (s : State) : Host.Outcome State Fault Refusal :=
  s.service 5 fun s =>
    let pa := s.dev.svcarg0.toNat
    let first := fieldOf s.dev.svcarg1.toNat 0 9
    let count := fieldOf s.dev.svcarg1.toNat 16 9
    let header := s.dev.imageHeader pa
    if 384 < first + count ∨ !s.dev.holdsBytes pa 2048 ∨ !s.dev.holdsBytes (pa + 2048) (fieldOf header 128 64) then (3, s)
    else if !imageOk 1 header (s.dev.imagePayload pa) image.signed then (2, s)
    else
      let named (c : Nat) : Bool := decide (first ≤ c) && decide (c < first + count)
      let staged : StagedImage := { digest := imageDigest header, cells := image.cells }
      let digests := s.dev.fwDigests.mapIdx fun c d =>
        if named c && decide (coreCount ≤ c) && !s.dev.fencedElsewhere.contains c then staged.digest else d
      let s := s.modifyDev fun d => { d with fwDigests := digests }
      (0, allCores.foldl (fun s c =>
        if named c.val && !(s.core c).fenced then s.modifyCore c fun k => { k with stagedFw := some staged } else s) s)

/-- What a quote is the digest of (R444), with the registers as 8 bytes (log 11). -/
def Device.quoted (d : Device) (nonce : Nat) : List Byte :=
  bytesOf 32 (d.load nonce 32) ++ bytesOf 8 d.devnum.toNat ++ bytesOf 64 d.bootDigest.toNat
    ++ d.fwDigests.flatMap (fun x => bytesOf 64 x.toNat) ++ bytesOf 8 d.mcap

/-- The longest quote: digest, signature length in 2 bytes and 6 of zero as R441 has it, and signature. -/
def quoteBytes : Nat := 1352

/-- A quote as it is written (R444): what the identity key makes of the digest is free (log 11). -/
def quoteOf (digest : BitVec 512) : Nat :=
  let len := Config.signatureLength digest % 1281
  digest.toNat + len * 2 ^ 512
    + ofWords 8 ((List.range len).map fun i => (Config.signatureByte digest i).toNat) * 2 ^ 576

/-- SVC_ATTEST (R444). -/
def execSvcAttest (s : State) : Host.Outcome State Fault Refusal :=
  s.service 6 fun s =>
    let nonce := s.dev.svcarg0.toNat
    let out := s.dev.svcarg1.toNat
    if !s.dev.holdsBytes nonce 32 || !s.dev.holdsBytes out quoteBytes then (3, s)
    else
      (0, s.modifyDev fun d =>
        { d.store out quoteBytes (quoteOf (shake256 (d.quoted nonce))) with poison := clearCovered 64 [(out, quoteBytes)] d.poison })

/-! ### Register writes (R17, R434) -/

/-- Writable fields of the registers that have no row of their own. -/
def Device.writePlain (d : Device) (off : Nat) (x : Word) : Device :=
  match off with
  | 0x10 => if bitAt x.toNat 1 then { d with repovf := false } else d
  | 0x30 => { d with winbase := word (x.toNat / 2 ^ 36 * 2 ^ 36) }
  | 0x40 => { d with tinvasn := x.setWidth 16 }
  | 0x48 => { d with tinvva := x }
  | 0x50 => { d with tinvlen := x }
  | 0x60 => { d with rrjob := x }
  | 0x68 => { d with rrroot := x }
  | 0x80 => { d with repbase := x }
  | 0x88 => Device.flushReports 1024 { d with repen := bitAt x.toNat 31, replog := x.setWidth 5 }
  | 0xA0 => { d with svcarg0 := x }
  | 0xA8 => { d with svcarg1 := x }
  | _ => d

/-- QBASE takes effect only while EN = 0 (R436). -/
def Device.writeQbase (d : Device) (q : QueueId) (x : Word) : Device :=
  if d.queues[q.val].en then d else { d with queues := d.queues.set q.val { d.queues[q.val] with qbase := x } }

/-- A write of SVCCMD starts the command that its code names; whether the signature of STAGEFW's image verifies is free
(log 11). -/
def State.writeCommand (s : State) (x : Word) : Host.Outcome State Fault Refusal :=
  match fieldOf x.toNat 0 8 with
  | 1 => execSvcFencecore s
  | 2 => execSvcRetiremod s
  | 3 => execSvcReturnmod s
  | 4 => execSvcRecal s
  | 5 => execSvcStagefw { signed := bitAt (s.pick 0) 0, cells := [] } s.takeFresh
  | 6 => execSvcAttest s
  | n => s.service n fun s => (3, s)

/-- REGISTER_WRITE (R17, R434): a register with a row of its own is written as that row says. -/
def execRegisterWrite (offset : BitVec 20) (value : BitVec 64) (s : State) : Host.Outcome State Fault Refusal :=
  let off := offset.toNat
  if 0x10000 ≤ off ∧ off < 0x12000 then
    let q : QueueId := Fin.ofNat 256 ((off - 0x10000) / 32)
    match (off - 0x10000) % 32 with
    | 0 => .next (s.modifyDev (·.writeQbase q value))
    | 8 => execQctlWrite q value s
    | 16 => execQtailWrite q value s
    | _ => .next s
  else
    match off with
    | 0x08 => execDevnumWrite value s
    | 0x28 => execMrsvWrite value s
    | 0x58 => execTinvGo value s
    | 0x70 =>
      match fieldOf value.toNat 0 2 with
      | 1 => execRrInstall s
      | 2 => execRrRemove s
      | _ => .next s
    | 0x90 => execRepheadWrite value s
    | 0xB0 => s.writeCommand value
    | _ => .next (s.modifyDev fun d => d.writePlain off value)

/-! ### BAR2, boot, links and domains -/

/-- HOST_BAR2_ACCESS (R433): one to eight bytes from an offset of the window, written or read; what a read gives goes to the
host.  Before boot has completed the interface answers management accesses only (R440). -/
def execHostBar2Access (offset : BitVec 36) (access : HostAccess) (data : BitVec 64) (s : State) :
    Host.Outcome State Fault Refusal :=
  let pa := s.dev.winbase.toNat + offset.toNat
  let n := access.last.toNat + 1
  if !s.dev.ready then .next s
  else if !s.dev.holdsBytes pa n then .fault .absentFrame
  else if !access.write then
    .next (s.modifyDev fun d => { d with outgoing := d.outgoing ++ [.bar2 offset n (d.load pa n)] })
  else
    -- the bytes of each frame that the access touches
    let k := min n (65536 - pa % 65536)
    .next (s.performStores (([(pa, k, data.toNat % 2 ^ (8 * k)), (pa + k, n - k, data.toNat / 2 ^ (8 * k) % 2 ^ (8 * (n - k)))].filter
      fun e => decide (e.2.1 ≠ 0) && !s.dev.isLost e.1).map fun e => (.main e.1, e.2)))

/-- POWER_ON_BOOT (R440): a boot image that R441 accepts has run, and has put its cells into memory, firmware of one digest
into every core, and TVEC and FWROOT (log 11). -/
def execPowerOnBoot (boot : BootImage) (tvec fwroot : BitVec 64) (image : List Host.Cell) (s : State) :
    Host.Outcome State Fault Refusal :=
  if !imageOk 0 boot.header.toNat boot.payload boot.signed || s.dev.ready then .next s
  else
    let start (k : Core) : Core :=
      let k := { k with tvec := word (tvec.toNat / 4 * 4), fwroot := word (fwroot.toNat % 2 ^ 52) }
      { k with fw := ({ k.fw with pc := k.fwEntry } : Hart).beginStrip k.fwEntry, fwStatus := .running }
    .next { s with
      cores := s.cores.map start
      dev := { s.dev.placeImage image with
        ready := true, bootDigest := imageDigest boot.header.toNat, fwDigests := List.replicate 384 boot.firmware } }

/-- LINK_STATE_CHANGED (R439, R443). -/
def execLinkStateChanged (quinsia : Bool) (link : BitVec 16) (lanes : BitVec 4) (s : State) : Host.Outcome State Fault Refusal :=
  if (if quinsia then 36 else 24) ≤ link.toNat then .next s
  else
    let n := min lanes.toNat (if quinsia then 4 else 8)
    .next (s.modifyDev fun d =>
      (d.setLanes quinsia link n).report 6 [word (if quinsia then 1 else 0), word link.toNat, word n])

/-- DOMAIN_REACHABILITY_CHANGE (R443). -/
def execDomainReachabilityChange (domain : BitVec 6) (reachable : Bool) (s : State) : Host.Outcome State Fault Refusal :=
  .next (s.modifyDev fun d => { d with dommap := setFlag d.dommap domain.toNat reachable })

end Sys2Proof.Machine
end

