-- ==== Sys2Proof/Machine/Dispatch.lean ====
section
/-!
DEFINITION. The meaning of every instruction, by name.
-/

namespace Sys2Proof.Machine

def exec (i : Instr) (s : State) : Host.Outcome State Fault Refusal :=
  match i with
  | .add d a b fa => Sys2Proof.Machine.execAdd d a b fa s
  | .sub d a b fa => Sys2Proof.Machine.execSub d a b fa s
  | .mul d a b fa => Sys2Proof.Machine.execMul d a b fa s
  | .mulhs d a b fa => Sys2Proof.Machine.execMulhs d a b fa s
  | .mulhu d a b fa => Sys2Proof.Machine.execMulhu d a b fa s
  | .divs d a b fa => Sys2Proof.Machine.execDivs d a b fa s
  | .divu d a b fa => Sys2Proof.Machine.execDivu d a b fa s
  | .rems d a b fa => Sys2Proof.Machine.execRems d a b fa s
  | .remu d a b fa => Sys2Proof.Machine.execRemu d a b fa s
  | .and d a b fa => Sys2Proof.Machine.execAnd d a b fa s
  | .or d a b fa => Sys2Proof.Machine.execOr d a b fa s
  | .xor d a b fa => Sys2Proof.Machine.execXor d a b fa s
  | .andn d a b fa => Sys2Proof.Machine.execAndn d a b fa s
  | .shl d a b fa => Sys2Proof.Machine.execShl d a b fa s
  | .shr d a b fa => Sys2Proof.Machine.execShr d a b fa s
  | .sra d a b fa => Sys2Proof.Machine.execSra d a b fa s
  | .rotl d a b fa => Sys2Proof.Machine.execRotl d a b fa s
  | .clz d a fa => Sys2Proof.Machine.execClz d a fa s
  | .ctz d a fa => Sys2Proof.Machine.execCtz d a fa s
  | .popc d a fa => Sys2Proof.Machine.execPopc d a fa s
  | .mins d a b fa => Sys2Proof.Machine.execMins d a b fa s
  | .maxs d a b fa => Sys2Proof.Machine.execMaxs d a b fa s
  | .minu d a b fa => Sys2Proof.Machine.execMinu d a b fa s
  | .maxu d a b fa => Sys2Proof.Machine.execMaxu d a b fa s
  | .slt d a b fa => Sys2Proof.Machine.execSlt d a b fa s
  | .sltu d a b fa => Sys2Proof.Machine.execSltu d a b fa s
  | .seq d a b fa => Sys2Proof.Machine.execSeq d a b fa s
  | .cmov d a b fa => Sys2Proof.Machine.execCmov d a b fa s
  | .exts d a b fa => Sys2Proof.Machine.execExts d a b fa s
  | .addi d a imm => Sys2Proof.Machine.execAddi d a imm s
  | .li d imm => Sys2Proof.Machine.execLi d imm s
  | .fli d imm => Sys2Proof.Machine.execFli d imm s
  | .lc d n => Sys2Proof.Machine.execLc d n s
  | .fadd d a b fa => Sys2Proof.Machine.execFadd d a b fa s
  | .fsub d a b fa => Sys2Proof.Machine.execFsub d a b fa s
  | .fmul d a b fa => Sys2Proof.Machine.execFmul d a b fa s
  | .fdiv d a b fa => Sys2Proof.Machine.execFdiv d a b fa s
  | .fsqrt d a fa => Sys2Proof.Machine.execFsqrt d a fa s
  | .fmin d a b fa => Sys2Proof.Machine.execFmin d a b fa s
  | .fmax d a b fa => Sys2Proof.Machine.execFmax d a b fa s
  | .ffma d a b fa => Sys2Proof.Machine.execFfma d a b fa s
  | .feq d a b fa => Sys2Proof.Machine.execFeq d a b fa s
  | .flt d a b fa => Sys2Proof.Machine.execFlt d a b fa s
  | .fle d a b fa => Sys2Proof.Machine.execFle d a b fa s
  | .fcvtif d a fa => Sys2Proof.Machine.execFcvtif d a fa s
  | .fcvtfi d a fa => Sys2Proof.Machine.execFcvtfi d a fa s
  | .fsgnj d a b fa => Sys2Proof.Machine.execFsgnj d a b fa s
  | .fclass d a fa => Sys2Proof.Machine.execFclass d a fa s
  | .br a cond off => Sys2Proof.Machine.execBr a cond off s
  | .jal d imm => Sys2Proof.Machine.execJal d imm s
  | .jr d a fa => Sys2Proof.Machine.execJr d a fa s
  | .jtab d a b fa fb => Sys2Proof.Machine.execJtab d a b fa fb s
  | .mark imm => Sys2Proof.Machine.execMark imm s
  | .strip cnt asel off => Sys2Proof.Machine.execStrip cnt asel off s
  | .ldb d a off fa => Sys2Proof.Machine.execLdb d a off fa s
  | .ldh d a off fa => Sys2Proof.Machine.execLdh d a off fa s
  | .ldw d a off fa => Sys2Proof.Machine.execLdw d a off fa s
  | .ldd d a off fa => Sys2Proof.Machine.execLdd d a off fa s
  | .ldbs d a off fa => Sys2Proof.Machine.execLdbs d a off fa s
  | .ldhs d a off fa => Sys2Proof.Machine.execLdhs d a off fa s
  | .ldws d a off fa => Sys2Proof.Machine.execLdws d a off fa s
  | .stb d a off fa fb => Sys2Proof.Machine.execStb d a off fa fb s
  | .sth d a off fa fb => Sys2Proof.Machine.execSth d a off fa fb s
  | .stw d a off fa fb => Sys2Proof.Machine.execStw d a off fa fb s
  | .std d a off fa fb => Sys2Proof.Machine.execStd d a off fa fb s
  | .amoadd d a b ord fa fb => Sys2Proof.Machine.execAmoadd d a b ord fa fb s
  | .amoand d a b ord fa fb => Sys2Proof.Machine.execAmoand d a b ord fa fb s
  | .amoor d a b ord fa fb => Sys2Proof.Machine.execAmoor d a b ord fa fb s
  | .amoxor d a b ord fa fb => Sys2Proof.Machine.execAmoxor d a b ord fa fb s
  | .amomins d a b ord fa fb => Sys2Proof.Machine.execAmomins d a b ord fa fb s
  | .amomaxs d a b ord fa fb => Sys2Proof.Machine.execAmomaxs d a b ord fa fb s
  | .amominu d a b ord fa fb => Sys2Proof.Machine.execAmominu d a b ord fa fb s
  | .amomaxu d a b ord fa fb => Sys2Proof.Machine.execAmomaxu d a b ord fa fb s
  | .amoswap d a b ord fa fb => Sys2Proof.Machine.execAmoswap d a b ord fa fb s
  | .amocas d a b ord fa fb => Sys2Proof.Machine.execAmocas d a b ord fa fb s
  | .amofadd d a b ord fa fb => Sys2Proof.Machine.execAmofadd d a b ord fa fb s
  | .vadd d a b fa => Sys2Proof.Machine.execVadd d a b fa s
  | .vsub d a b fa => Sys2Proof.Machine.execVsub d a b fa s
  | .vmul d a b fa => Sys2Proof.Machine.execVmul d a b fa s
  | .vmulhs d a b fa => Sys2Proof.Machine.execVmulhs d a b fa s
  | .vmulhu d a b fa => Sys2Proof.Machine.execVmulhu d a b fa s
  | .vmadd d a b fa => Sys2Proof.Machine.execVmadd d a b fa s
  | .vand d a b fa => Sys2Proof.Machine.execVand d a b fa s
  | .vor d a b fa => Sys2Proof.Machine.execVor d a b fa s
  | .vxor d a b fa => Sys2Proof.Machine.execVxor d a b fa s
  | .vshl d a b fa => Sys2Proof.Machine.execVshl d a b fa s
  | .vshr d a b fa => Sys2Proof.Machine.execVshr d a b fa s
  | .vsra d a b fa => Sys2Proof.Machine.execVsra d a b fa s
  | .vmins d a b fa => Sys2Proof.Machine.execVmins d a b fa s
  | .vmaxs d a b fa => Sys2Proof.Machine.execVmaxs d a b fa s
  | .vminu d a b fa => Sys2Proof.Machine.execVminu d a b fa s
  | .vmaxu d a b fa => Sys2Proof.Machine.execVmaxu d a b fa s
  | .vadc d a b fa => Sys2Proof.Machine.execVadc d a b fa s
  | .vsbc d a b fa => Sys2Proof.Machine.execVsbc d a b fa s
  | .vcmpeq d a b fa => Sys2Proof.Machine.execVcmpeq d a b fa s
  | .vcmplt d a b fa => Sys2Proof.Machine.execVcmplt d a b fa s
  | .vcmpltu d a b fa => Sys2Proof.Machine.execVcmpltu d a b fa s
  | .vcmple d a b fa => Sys2Proof.Machine.execVcmple d a b fa s
  | .vcmpleu d a b fa => Sys2Proof.Machine.execVcmpleu d a b fa s
  | .vmerge d a b fa => Sys2Proof.Machine.execVmerge d a b fa s
  | .vabs d a fa => Sys2Proof.Machine.execVabs d a fa s
  | .vclz d a fa => Sys2Proof.Machine.execVclz d a fa s
  | .vpopc d a fa => Sys2Proof.Machine.execVpopc d a fa s
  | .vnarrow d a b fa => Sys2Proof.Machine.execVnarrow d a b fa s
  | .vwidens d a fa => Sys2Proof.Machine.execVwidens d a fa s
  | .vwidenu d a fa => Sys2Proof.Machine.execVwidenu d a fa s
  | .vfadd d a b fa => Sys2Proof.Machine.execVfadd d a b fa s
  | .vfsub d a b fa => Sys2Proof.Machine.execVfsub d a b fa s
  | .vfmul d a b fa => Sys2Proof.Machine.execVfmul d a b fa s
  | .vfdiv d a b fa => Sys2Proof.Machine.execVfdiv d a b fa s
  | .vfsqrt d a fa => Sys2Proof.Machine.execVfsqrt d a fa s
  | .vfmin d a b fa => Sys2Proof.Machine.execVfmin d a b fa s
  | .vfmax d a b fa => Sys2Proof.Machine.execVfmax d a b fa s
  | .vffma d a b fa => Sys2Proof.Machine.execVffma d a b fa s
  | .vffms d a b fa => Sys2Proof.Machine.execVffms d a b fa s
  | .vfcmpeq d a b fa => Sys2Proof.Machine.execVfcmpeq d a b fa s
  | .vfcmplt d a b fa => Sys2Proof.Machine.execVfcmplt d a b fa s
  | .vfcmple d a b fa => Sys2Proof.Machine.execVfcmple d a b fa s
  | .vfabs d a fa => Sys2Proof.Machine.execVfabs d a fa s
  | .vfneg d a fa => Sys2Proof.Machine.execVfneg d a fa s
  | .vfclass d a fa => Sys2Proof.Machine.execVfclass d a fa s
  | .vfcvt d a fd fs fa => Sys2Proof.Machine.execVfcvt d a fd fs fa s
  | .vcvtif d a fd fs fa => Sys2Proof.Machine.execVcvtif d a fd fs fa s
  | .vcvtfi d a fd fs fa => Sys2Proof.Machine.execVcvtfi d a fd fs fa s
  | .vquant d a b fa fb => Sys2Proof.Machine.execVquant d a b fa fb s
  | .vdequant d a b fa fb => Sys2Proof.Machine.execVdequant d a b fa fb s
  | .vamax a b fa => Sys2Proof.Machine.execVamax a b fa s
  | .amscl d a b => Sys2Proof.Machine.execAmscl d a b s
  | .vredsum d a b fa => Sys2Proof.Machine.execVredsum d a b fa s
  | .vredfsum d a b fa => Sys2Proof.Machine.execVredfsum d a b fa s
  | .vredmax d a b fa => Sys2Proof.Machine.execVredmax d a b fa s
  | .vredmin d a b fa => Sys2Proof.Machine.execVredmin d a b fa s
  | .vredfmax d a b fa => Sys2Proof.Machine.execVredfmax d a b fa s
  | .vredfmin d a b fa => Sys2Proof.Machine.execVredfmin d a b fa s
  | .vredand d a b fa => Sys2Proof.Machine.execVredand d a b fa s
  | .vredor d a b fa => Sys2Proof.Machine.execVredor d a b fa s
  | .vslideup d a b fa => Sys2Proof.Machine.execVslideup d a b fa s
  | .vslidedn d a b fa => Sys2Proof.Machine.execVslidedn d a b fa s
  | .vperm d a b fa fb => Sys2Proof.Machine.execVperm d a b fa fb s
  | .vcompress d a fa => Sys2Proof.Machine.execVcompress d a fa s
  | .vexpand d a fa => Sys2Proof.Machine.execVexpand d a fa s
  | .viota d a => Sys2Proof.Machine.execViota d a s
  | .vbcast d b => Sys2Proof.Machine.execVbcast d b s
  | .vextract d a b fa => Sys2Proof.Machine.execVextract d a b fa s
  | .vinsert d a b fa => Sys2Proof.Machine.execVinsert d a b fa s
  | .vtrans d a fa => Sys2Proof.Machine.execVtrans d a fa s
  | .vzip d a b fa fb => Sys2Proof.Machine.execVzip d a b fa fb s
  | .vunzip d a b fa => Sys2Proof.Machine.execVunzip d a b fa s
  | .mand d a b => Sys2Proof.Machine.execMand d a b s
  | .mor d a b => Sys2Proof.Machine.execMor d a b s
  | .mxor d a b => Sys2Proof.Machine.execMxor d a b s
  | .mandn d a b => Sys2Proof.Machine.execMandn d a b s
  | .mnot d a => Sys2Proof.Machine.execMnot d a s
  | .mmov d a => Sys2Proof.Machine.execMmov d a s
  | .msbf d a => Sys2Proof.Machine.execMsbf d a s
  | .msif d a => Sys2Proof.Machine.execMsif d a s
  | .msof d a => Sys2Proof.Machine.execMsof d a s
  | .mshup d a => Sys2Proof.Machine.execMshup d a s
  | .mshdn d a => Sys2Proof.Machine.execMshdn d a s
  | .mset d => Sys2Proof.Machine.execMset d s
  | .mclr d => Sys2Proof.Machine.execMclr d s
  | .mpop d a => Sys2Proof.Machine.execMpop d a s
  | .mfirst d a => Sys2Proof.Machine.execMfirst d a s
  | .vld d a off fa => Sys2Proof.Machine.execVld d a off fa s
  | .vlds d a off fa => Sys2Proof.Machine.execVlds d a off fa s
  | .vldff d a off fa => Sys2Proof.Machine.execVldff d a off fa s
  | .vst d a off fa fb => Sys2Proof.Machine.execVst d a off fa fb s
  | .vsts d a off fa fb => Sys2Proof.Machine.execVsts d a off fa fb s
  | .vldx d a b fa fb => Sys2Proof.Machine.execVldx d a b fa fb s
  | .vstx d a b fa fb => Sys2Proof.Machine.execVstx d a b fa fb s
  | .vldl d a b fa fb => Sys2Proof.Machine.execVldl d a b fa fb s
  | .vstc d a fa => Sys2Proof.Machine.execVstc d a fa s
  | .vscadd d a b fa fb => Sys2Proof.Machine.execVscadd d a b fa fb s
  | .cappend d a b fa fb => Sys2Proof.Machine.execCappend d a b fa fb s
  | .sspec d a fa => Sys2Proof.Machine.execSspec d a fa s
  | .sbind d a fa => Sys2Proof.Machine.execSbind d a fa s
  | .sunbind d => Sys2Proof.Machine.execSunbind d s
  | .sbar a fa => Sys2Proof.Machine.execSbar a fa s
  | .scond d a b fa => Sys2Proof.Machine.execScond d a b fa s
  | .spos d a => Sys2Proof.Machine.execSpos d a s
  | .sstart d => Sys2Proof.Machine.execSstart d s
  | .swait d => Sys2Proof.Machine.execSwait d s
  | .vconf d b => Sys2Proof.Machine.execVconf d b s
  | .vsetl d b => Sys2Proof.Machine.execVsetl d b s
  | .vsetr d b => Sys2Proof.Machine.execVsetr d b s
  | .vsetcfg d b => Sys2Proof.Machine.execVsetcfg d b s
  | .vsetst d b => Sys2Proof.Machine.execVsetst d b s
  | .gang d => Sys2Proof.Machine.execGang d s
  | .ungang d => Sys2Proof.Machine.execUngang d s
  | .vsave a fa => Sys2Proof.Machine.execVsave a fa s
  | .vrestore a fa => Sys2Proof.Machine.execVrestore a fa s
  | .vcfgrd d sel => Sys2Proof.Machine.execVcfgrd d sel s
  | .mma z a b fmt kn acc => Sys2Proof.Machine.execMma z a b fmt kn acc s
  | .zscacc d a b fb => Sys2Proof.Machine.execZscacc d a b fb s
  | .zzero d a => Sys2Proof.Machine.execZzero d a s
  | .zrel d => Sys2Proof.Machine.execZrel d s
  | .zext d a b => Sys2Proof.Machine.execZext d a b s
  | .zins d a b fa => Sys2Proof.Machine.execZins d a b fa s
  | .zsave d a fa => Sys2Proof.Machine.execZsave d a fa s
  | .zload d a fa => Sys2Proof.Machine.execZload d a fa s
  | .zamax a b => Sys2Proof.Machine.execZamax a b s
  | .mdset d a b fa => Sys2Proof.Machine.execMdset d a b fa s
  | .mdadv d b => Sys2Proof.Machine.execMdadv d b s
  | .zstat d a => Sys2Proof.Machine.execZstat d a s
  | .kset d a b fa => Sys2Proof.Machine.execKset d a b fa s
  | .kseed d b => Sys2Proof.Machine.execKseed d b s
  | .korg d a b fa => Sys2Proof.Machine.execKorg d a b fa s
  | .vgen d a => Sys2Proof.Machine.execVgen d a s
  | .kget d a b => Sys2Proof.Machine.execKget d a b s
  | .cpy d a b fa fb => Sys2Proof.Machine.execCpy d a b fa fb s
  | .cpymma d a fa z sa sb fmt kn acc => Sys2Proof.Machine.execCpymma d a fa z sa sb fmt kn acc s
  | .cpywait d a fa => Sys2Proof.Machine.execCpywait d a fa s
  | .cbinit d a b fa fb => Sys2Proof.Machine.execCbinit d a b fa fb s
  | .cbwait d a => Sys2Proof.Machine.execCbwait d a s
  | .cbrel d a b => Sys2Proof.Machine.execCbrel d a b s
  | .cbstat d a => Sys2Proof.Machine.execCbstat d a s
  | .acq d a fa => Sys2Proof.Machine.execAcq d a fa s
  | .rel a fa => Sys2Proof.Machine.execRel a fa s
  | .bind d a b fa => Sys2Proof.Machine.execBind d a b fa s
  | .unbind d a fa => Sys2Proof.Machine.execUnbind d a fa s
  | .wmpub d b => Sys2Proof.Machine.execWmpub d b s
  | .wmlink d a fa => Sys2Proof.Machine.execWmlink d a fa s
  | .bar d a fa => Sys2Proof.Machine.execBar d a fa s
  | .barjoin d a fa => Sys2Proof.Machine.execBarjoin d a fa s
  | .barleave a fa => Sys2Proof.Machine.execBarleave a fa s
  | .notify a b fa => Sys2Proof.Machine.execNotify a b fa s
  | .waitn d a => Sys2Proof.Machine.execWaitn d a s
  | .pinit a fa => Sys2Proof.Machine.execPinit a fa s
  | .pfill d a b fa => Sys2Proof.Machine.execPfill d a b fa s
  | .peq d a b fa fb => Sys2Proof.Machine.execPeq d a b fa fb s
  | .pwait d a fa => Sys2Proof.Machine.execPwait d a fa s
  | .ptest d a fa => Sys2Proof.Machine.execPtest d a fa s
  | .xred d a b fa => Sys2Proof.Machine.execXred d a b fa s
  | .xbar d => Sys2Proof.Machine.execXbar d s
  | .xwait d a fa => Sys2Proof.Machine.execXwait d a fa s
  | .launch d a fa => Sys2Proof.Machine.execLaunch d a fa s
  | .launchnb d a fa => Sys2Proof.Machine.execLaunchnb d a fa s
  | .cancel d a b fa => Sys2Proof.Machine.execCancel d a b fa s
  | .cwait d a b fa => Sys2Proof.Machine.execCwait d a b fa s
  | .self d b => Sys2Proof.Machine.execSelf d b s
  | .cntrd d a b fa => Sys2Proof.Machine.execCntrd d a b fa s
  | .trap b => Sys2Proof.Machine.execTrap b s
  | .sysrd d a => Sys2Proof.Machine.execSysrd d a s
  | .rdcyc d => Sys2Proof.Machine.execRdcyc d s
  | .rdnrg d => Sys2Proof.Machine.execRdnrg d s
  | .kfreq d a fa => Sys2Proof.Machine.execKfreq d a fa s
  | .syswr d b => Sys2Proof.Machine.execSyswr d b s
  | .slotset a fa => Sys2Proof.Machine.execSlotset a fa s
  | .ctxswSout d a fa => Sys2Proof.Machine.execCtxswSout d a fa s
  | .ctxswSin d a fa => Sys2Proof.Machine.execCtxswSin d a fa s
  | .ctxswVout d a fa => Sys2Proof.Machine.execCtxswVout d a fa s
  | .ctxswVin d a fa => Sys2Proof.Machine.execCtxswVin d a fa s
  | .ctxswZout d a fa => Sys2Proof.Machine.execCtxswZout d a fa s
  | .ctxswZin d a fa => Sys2Proof.Machine.execCtxswZin d a fa s
  | .wfn d => Sys2Proof.Machine.execWfn d s
  | .apf d a b => Sys2Proof.Machine.execApf d a b s
  | .ahome a b => Sys2Proof.Machine.execAhome a b s
  | .aprio b => Sys2Proof.Machine.execAprio b s
  | .aorder b => Sys2Proof.Machine.execAorder b s
  | .awake b => Sys2Proof.Machine.execAwake b s
  | .aj d a b => Sys2Proof.Machine.execAj d a b s
  | .aloop a b => Sys2Proof.Machine.execAloop a b s
  | .aadd d a b => Sys2Proof.Machine.execAadd d a b s
  | .ali d b => Sys2Proof.Machine.execAli d b s
  | .asnap d a => Sys2Proof.Machine.execAsnap d a s
  | .await imm => Sys2Proof.Machine.execAwait imm s
  | .stripc => Sys2Proof.Machine.execStripc s
  | .fenceFull => Sys2Proof.Machine.execFenceFull s
  | .fenceRel => Sys2Proof.Machine.execFenceRel s
  | .fenceAcq => Sys2Proof.Machine.execFenceAcq s
  | .fenceIfetch => Sys2Proof.Machine.execFenceIfetch s
  | .exit => Sys2Proof.Machine.execExit s
  | .rteResume => Sys2Proof.Machine.execRteResume s
  | .rteKill => Sys2Proof.Machine.execRteKill s
  | .brk => Sys2Proof.Machine.execBrk s
  | .aend => Sys2Proof.Machine.execAend s
  | .secondMarkConsume core ctx => Sys2Proof.Machine.execSecondMarkConsume core ctx s
  | .adviceActionAccept core ctx => Sys2Proof.Machine.execAdviceActionAccept core ctx s
  | .fatalError core struck => Sys2Proof.Machine.execFatalError core struck s
  | .laneError core lane struck => Sys2Proof.Machine.execLaneError core lane struck s
  | .correctedError core lane => Sys2Proof.Machine.execCorrectedError core lane s
  | .arbiterSelection => Sys2Proof.Machine.execArbiterSelection s
  | .arbiterBoundary core => Sys2Proof.Machine.execArbiterBoundary core s
  | .launchPlacement => Sys2Proof.Machine.execLaunchPlacement s
  | .descriptorArrival queue descriptor => Sys2Proof.Machine.execDescriptorArrival queue descriptor s
  | .qtailWrite queue value => Sys2Proof.Machine.execQtailWrite queue value s
  | .qctlWrite queue value => Sys2Proof.Machine.execQctlWrite queue value s
  | .hartCancelled core ctx => Sys2Proof.Machine.execHartCancelled core ctx s
  | .hartFenced core ctx => Sys2Proof.Machine.execHartFenced core ctx s
  | .issueCycle core => Sys2Proof.Machine.execIssueCycle core s
  | .activityMeterCycle core => Sys2Proof.Machine.execActivityMeterCycle core s
  | .pageEpoch slice => Sys2Proof.Machine.execPageEpoch slice s
  | .frameMoveSwitch frame => Sys2Proof.Machine.execFrameMoveSwitch frame s
  | .moduleUncorrectableError line => Sys2Proof.Machine.execModuleUncorrectableError line s
  | .bufferWordError core buf word => Sys2Proof.Machine.execBufferWordError core buf word s
  | .striplost core ctx => Sys2Proof.Machine.execStriplost core ctx s
  | .linkFailure link readable => Sys2Proof.Machine.execLinkFailure link readable s
  | .moduleRetireComplete link => Sys2Proof.Machine.execModuleRetireComplete link s
  | .copyCommandStart core turn => Sys2Proof.Machine.execCopyCommandStart core turn s
  | .copyCommandComplete core ctx => Sys2Proof.Machine.execCopyCommandComplete core ctx s
  | .mmaComplete core turn => Sys2Proof.Machine.execMmaComplete core turn s
  | .longLatencyResult core turn => Sys2Proof.Machine.execLongLatencyResult core turn s
  | .stripCommitComplete core ctx => Sys2Proof.Machine.execStripCommitComplete core ctx s
  | .scatterAddPerform add => Sys2Proof.Machine.execScatterAddPerform add s
  | .streamElementFetch core ctx stream reply => Sys2Proof.Machine.execStreamElementFetch core ctx stream reply s
  | .streamConditionRead core ctx stream => Sys2Proof.Machine.execStreamConditionRead core ctx stream s
  | .streamDoneadd core ctx stream reply => Sys2Proof.Machine.execStreamDoneadd core ctx stream reply s
  | .remotePushPerform request data stage => Sys2Proof.Machine.execRemotePushPerform request data stage s
  | .remoteStreamRequest request => Sys2Proof.Machine.execRemoteStreamRequest request s
  | .xredPacketArrival message => Sys2Proof.Machine.execXredPacketArrival message s
  | .acqGrant core ctx => Sys2Proof.Machine.execAcqGrant core ctx s
  | .waiterPoll core ctx => Sys2Proof.Machine.execWaiterPoll core ctx s
  | .watermarkRelease core ctx => Sys2Proof.Machine.execWatermarkRelease core ctx s
  | .queueWeightWrite queue value => Sys2Proof.Machine.execQueueWeightWrite queue value s
  | .powerControllerUpdate core grant gate gateCore withdraw => Sys2Proof.Machine.execPowerControllerUpdate core grant gate gateCore withdraw s
  | .powerHoldExpire core part => Sys2Proof.Machine.execPowerHoldExpire core part s
  | .switchOpeningComplete core part => Sys2Proof.Machine.execSwitchOpeningComplete core part s
  | .inrushGrant => Sys2Proof.Machine.execInrushGrant s
  | .turnOnComplete core group => Sys2Proof.Machine.execTurnOnComplete core group s
  | .gcapWrite core value => Sys2Proof.Machine.execGcapWrite core value s
  | .actwWrite core value => Sys2Proof.Machine.execActwWrite core value s
  | .lanemapWrite core value => Sys2Proof.Machine.execLanemapWrite core value s
  | .mrsvWrite value => Sys2Proof.Machine.execMrsvWrite value s
  | .fwrootWrite core value => Sys2Proof.Machine.execFwrootWrite core value s
  | .devnumWrite value => Sys2Proof.Machine.execDevnumWrite value s
  | .tinvGo value => Sys2Proof.Machine.execTinvGo value s
  | .tinvComplete => Sys2Proof.Machine.execTinvComplete s
  | .rrInstall => Sys2Proof.Machine.execRrInstall s
  | .rrRemove => Sys2Proof.Machine.execRrRemove s
  | .repheadWrite value => Sys2Proof.Machine.execRepheadWrite value s
  | .svcFencecore => Sys2Proof.Machine.execSvcFencecore s
  | .svcRetiremod => Sys2Proof.Machine.execSvcRetiremod s
  | .svcReturnmod => Sys2Proof.Machine.execSvcReturnmod s
  | .svcRecal => Sys2Proof.Machine.execSvcRecal s
  | .recalLaneReturn quinsia link lane => Sys2Proof.Machine.execRecalLaneReturn quinsia link lane s
  | .svcStagefw image => Sys2Proof.Machine.execSvcStagefw image s
  | .svcAttest => Sys2Proof.Machine.execSvcAttest s
  | .registerWrite offset value => Sys2Proof.Machine.execRegisterWrite offset value s
  | .hostBar2Access offset access data => Sys2Proof.Machine.execHostBar2Access offset access data s
  | .powerOnBoot boot tvec fwroot image => Sys2Proof.Machine.execPowerOnBoot boot tvec fwroot image s
  | .deviceReset => Sys2Proof.Machine.execDeviceReset s
  | .linkStateChanged quinsia link lanes => Sys2Proof.Machine.execLinkStateChanged quinsia link lanes s
  | .domainReachabilityChange domain reachable => Sys2Proof.Machine.execDomainReachabilityChange domain reachable s
  | .sliceUncorrectableError slice => Sys2Proof.Machine.execSliceUncorrectableError slice s
  | .clusterClockChange core running => Sys2Proof.Machine.execClusterClockChange core running s
  | .jobRetired job => Sys2Proof.Machine.execJobRetired job s

end Sys2Proof.Machine
end

