-- ==== Sys2Proof/Machine/Run.lean ====
section
/-!
DEFINITION. The next instruction of the hart that issues, and the next word of a Second, with every check that comes
before the instruction's own (R42-R44, R47-R51, R333, R340, R372, R417).
-/

namespace Sys2Proof.Machine

/-- A word of the advice majors (R46). -/
def isAdviceWord (w : Nat) : Bool := w / 2 ^ 26 == 0x3C || w / 2 ^ 26 == 0x3D

/-- The word that TVAL of ILLEGAL holds: the literal word where that is what R153 forbids. -/
def illegalWord (e : DecodeError) (w lit : Nat) : Nat := if e = .followOn then lit else w

/-- The instruction at the program counter, or the trap of R51 that comes before its own checks.  An entry point that is
not a multiple of 4 raises ALIGN before the fetch of its block (log 78). -/
noncomputable def State.nextInstr (s : State) : Except Stop (Instr × State) :=
  match s.me.dueTrap with
  | some t => .error (.trap t (s.leaveQueues.modifyMe Hart.clearDue))
  | none =>
    let pc := s.me.pc
    if s.me.first && pc.toNat % 4 ≠ 0 then raise s causeAlign pc
    else
      match s.fetchBlock pc with
      | .error c => raiseAhead s c pc
      | .ok (ws, s) =>
        if s.me.first && isLiteralAt ws pc then raise s causeLitland pc
        else
          let n := wordIndex pc
          let w := ((ws[n]?).getD 0#32).toNat
          let lit := ((ws[n + 1]?).getD 0#32).toNat
          let s := { s.modifyMe fun h => { h with first := false } with cur := { s.cur with word := BitVec.ofNat 32 w } }
          if isAdviceWord w || (n == 15 && literalBearing w) then raise s causeIllegal (word w)
          else
            match decodeWord w lit with
            | .error e => raise s causeIllegal (word (illegalWord e w lit))
            | .ok i => if i.wf then .ok (i, s) else raise s causeIllegal (word w)

/-- The advice instruction at the Second's program counter, or what becomes of the Second without one (R48, R333,
R340). -/
noncomputable def State.nextAdvice (s : State) : Except State Instr :=
  if !s.advice.running then .error s
  else
    match s.myCore.bookOf s.advisee with
    | none => .error s.adviceIdle
    | some book =>
      let n := s.advice.pc
      match book.code[n]? with
      | none => .error s.adviceIdle
      | some wd =>
        let w := wd.toNat
        let words := if literalBearing w then 2 else 1
        if n % 16 = 15 ∧ literalBearing w then .error (s.dropWord 1)
        else if !isAdviceWord w then .error (s.dropWord words)
        else
          match decodeWord w ((book.code[n + 1]?).getD 0#32).toNat with
          | .error _ => .error (s.dropWord words)
          | .ok i => if i.wf then .ok i else .error (s.dropWord words)

end Sys2Proof.Machine
end

