-- ==== Sys2Proof/Machine/Load.lean ====
section
/-!
DEFINITION. A program placed where the next step runs it (log 12): the load that firmware and system software make
with the boot image, a launch or a book.
-/

namespace Sys2Proof.Machine

/-- Where the placed words stand: a virtual address, and the physical address its page leads to. -/
def loadVa : Nat := 0x10000
def loadPa : Nat := 0x50000

/-- The root word of the tables at frames 1 to 3, ASN 0 (R120). -/
def loadRoot : Word := 0x10000

/-- Three levels of tables (R121, R122): the pages at 0 and 0x10000, readable, writable and executable. -/
def Mem.withTables (m : Mem) : Mem :=
  (((m.write 0x10000 8 0x20001).write 0x20000 8 0x30001).write 0x30000 8 0x4001F).write 0x30008 8 0x5001F

/-- The words of an instruction in its block; the words after them are 0. -/
def Mem.withWords (m : Mem) (w0 w1 : Nat) : Mem := (m.write loadPa 64 0).write loadPa 8 (w0 % 2 ^ 32 + w1 % 2 ^ 32 * 2 ^ 32)

/-- The state ready to issue: booted, core 0 powered, in service and clocked, and its next cycle the first act. -/
noncomputable def State.readyToIssue (s : State) : State :=
  { (s.modifyCore 0 fun k => { k with power := .on, clock := true, fenced := false, busy := [], tlb := [] }).modifyDev fun d =>
      { d with ready := true } with agenda := [.event (.issueCycle 0)] }

/-- Every entry of core 0's issue table names one context. -/
def State.giveSlots (s : State) (code : BitVec 4) : State :=
  s.modifyCore 0 fun k => { k with slottab := Vector.replicate 32 code }

/-- The words at the program counter of user context 0 of core 0. -/
noncomputable def State.loadUser (s : State) (w0 w1 : Nat) : State :=
  ((s.readyToIssue.giveSlots 0).modifyDev fun d => { d with mem := d.mem.withTables.withWords w0 w1 }).modifyCore 0
    fun k => { k with ctxs := k.ctxs.set 0 (
      let x := k.ctxs[0]
      { x with
        status := .running
        hart := { x.hart with
          pc := word loadVa
          first := true
          blocks := []
          cancelled := none
          fenceDue := false
          link := { x.hart.link with root := loadRoot } } }) }

/-- The words at the program counter of the firmware context of core 0. -/
noncomputable def State.loadFirmware (s : State) (w0 w1 : Nat) : State :=
  ((s.readyToIssue.giveSlots 4).modifyDev fun d => { d with mem := d.mem.withTables.withWords w0 w1 }).modifyCore 0
    fun k => { k with
      fwStatus := .running
      fwroot := loadRoot
      fw := { k.fw with pc := word loadVa, first := true, blocks := [], cancelled := none, fenceDue := false } }

/-- The words as the book that the Second of user context 0 of core 0 runs next. -/
noncomputable def State.loadBook (s : State) (w0 w1 : Nat) : State :=
  let s := s.readyToIssue.modifyCore 0 fun k =>
    let h := k.ctxs[0].hart
    { k with
      books := [{ launch := h.link.launch, version := h.bookVersion
                  code := [BitVec.ofNat 32 w0, BitVec.ofNat 32 w1], index := [] }]
      advice := k.advice.set 0 { k.advice[0] with running := true, pc := 0 } }
  { s with agenda := [.second 0 0] }

/-- A word of the forms that only the firmware context runs (R401). -/
def isFirmwareWord (w : Nat) : Bool :=
  w / 2 ^ 26 == 0x3A && [1, 3, 7, 8, 9].contains (w % 16)

/-- Every word goes to the context that can run it. -/
noncomputable def State.loadWord (s : State) (w0 w1 : Nat) : State :=
  if isAdviceWord w0 then s.loadBook w0 w1
  else if isFirmwareWord w0 then s.loadFirmware w0 w1
  else s.loadUser w0 w1

end Sys2Proof.Machine
end

