-- ==== Sys2Proof/Machine/Cycle.lean ====
section
/-!
DEFINITION. One step: the next act of an agent, and the instruction that it lets issue (log 2).
-/

namespace Sys2Proof.Machine

/-- A step of the opcode table that no word encodes. -/
def isEvent (i : Instr) : Bool := (encodeNat i).isEmpty

/-- The instruction of the hart that the issue cycle has chosen; a hart whose work is withheld keeps its entry and waits
(R381), unless a cancel or a fence of it is due. -/
noncomputable def State.runIssued (s : State) : Host.Outcome State Fault Refusal :=
  if s.heldBack && s.me.dueTrap.isNone then .next s.stall
  else
  match s.nextInstr with
  | .error e => finish (.error e)
  | .ok (i, s') => exec i s'

/-- The next word of a Second. -/
noncomputable def State.runSecond (s : State) : Host.Outcome State Fault Refusal :=
  match s.nextAdvice with
  | .error s' => .next s'
  | .ok i => exec i s

/-- An act.  Only a step that no word encodes can stand in the agenda: words are fetched. -/
noncomputable def State.perform (s : State) : Act → Host.Outcome State Fault Refusal
  | .event i => if isEvent i then exec i s else .next s
  | .second c x => (s.actingAs c (userId x)).runSecond
  | .ended l failed => .next (s.endElsewhere l failed)
  | .translationKept c x va => .next { (s.actingAs c x).keepTranslation va with cur := s.cur }
  | .translationDropped c n => .next (s.modifyCore c fun k => { k with tlb := k.tlb.eraseIdx n })
  | .commitPace c x n => .next (s.setHart c x { s.hart c x with pace := some n })

/-- The instruction of the hart that an act has let issue. -/
noncomputable def State.runIfIssued (s : State) : Host.Outcome State Fault Refusal :=
  if s.cur.issues then ({ s with cur := { s.cur with issues := false } } : State).runIssued else .next s

/-- An act, and the instruction of the hart that it lets issue. -/
noncomputable def State.performAndIssue (s : State) (a : Act) : Host.Outcome State Fault Refusal :=
  match s.perform a with
  | .next s' => s'.runIfIssued
  | .fault f => .fault f
  | .refused r => .refused r

/-! ### The model's own order, with no act in the agenda (log 2) -/

/-- A thing that an agent may do. -/
abbrev Deed := State → Host.Outcome State Fault Refusal

/-- The model's own order makes an addition at FLAG when it is awaited or owed (log 74). -/
def addWhenDue (c : CoreId) (x : CtxId) (i : StreamId) : Deed := fun s =>
  if (s.hart c x).additions.any (·.id == i) || s.addAwaited c x i then execStreamDoneadd c x i .none s else .next s

/-- The deeds of the engines of a context. -/
def contextDeeds (c : CoreId) (x : CtxId) : List Deed :=
  [execCopyCommandStart c ⟨x, BitVec.allOnes 48⟩, execCopyCommandComplete c x, execMmaComplete c ⟨x, 32⟩,
    execStripCommitComplete c x,
    execLongLatencyResult c ⟨x, 0, 0⟩]
    ++ (List.finRange 8).flatMap fun i =>
      [execStreamConditionRead c x i, execStreamElementFetch c x i .none, addWhenDue c x i]

/-- The deeds for a user context: grants, polls, a cancel or a fence that is due, and its Second. -/
noncomputable def userDeeds (c : CoreId) (x : UserCtx) : List Deed :=
  [execAcqGrant c x, execWaiterPoll c x, execHartCancelled c x, execHartFenced c x, execSecondMarkConsume c x,
    execAdviceActionAccept c x,
    fun s => (s.actingAs c (userId x)).runSecond]

/-- The deeds of a core's power stages. -/
def powerDeeds (c : CoreId) : List Deed :=
  let parts := PowerPart.core :: (List.finRange 8).map PowerPart.group
  parts.flatMap (fun p => [execPowerHoldExpire c p, execSwitchOpeningComplete c p])
    ++ (List.finRange 8).map fun g => execTurnOnComplete c (BitVec.ofNat 3 g.val)

/-- The deeds of the device as its tables stand. -/
def State.deviceDeeds (s : State) : List Deed :=
  [execArbiterSelection, execLaunchPlacement, execInrushGrant, execTinvComplete]
    ++ allCores.map execArbiterBoundary
    ++ (if s.dev.rrLeaving.isSome then [execRrRemove] else [])
    ++ s.dev.outgoing.filterMap (fun o => match o with
      | .packet device p => if device = s.dev.devnum then some (execXredPacketArrival (.packet p)) else none
      | _ => none)
    ++ (if s.dev.poisonDue.isEmpty then [] else [execXredPacketArrival .poisonRetry])
    ++ (s.dev.homes.filter fun i => i.move.isSome).map (fun i => execFrameMoveSwitch (BitVec.ofNat 36 i.frame))
    ++ s.dev.retiring.map execModuleRetireComplete
    ++ s.dev.recal.map fun e => execRecalLaneReturn e.1 e.2.1 e.2.2

/-- Every deed that may come next, in turn from another one at each cycle. -/
noncomputable def State.deeds (s : State) : List Deed :=
  let ds := s.deviceDeeds ++ allCores.flatMap fun c =>
    (List.finRange 5).flatMap (contextDeeds c) ++ (List.finRange 4).flatMap (userDeeds c) ++ powerDeeds c
  ds.rotateLeft ((s.core 0).cycles.toNat % ds.length)

/-- The first deed that changes something. -/
noncomputable def State.firstDeed (s : State) : List Deed → State
  | [] => s
  | d :: ds =>
    match d s with
    | .next t => let t := { t with cur := s.cur }
      if t = s then s.firstDeed ds else t
    | _ => s.firstDeed ds

/-- The core whose cycle comes next: the one that has counted fewer, among those whose clock runs. -/
def State.nextCore (s : State) : CoreId :=
  allCores.foldl (fun d c => if (s.core c).clock && (!(s.core d).clock || decide ((s.core c).cycles < (s.core d).cycles)) then c
    else d) 0

/-- With no act in the agenda: a deed of another agent, then a cycle of a core. -/
noncomputable def State.freeStep (s : State) : Host.Outcome State Fault Refusal :=
  let s := s.firstDeed s.deeds
  ((s.meterCycle s.nextCore).beginCycle s.nextCore).runIfIssued

/-- One step. -/
noncomputable def State.advance (s : State) : Host.Outcome State Fault Refusal :=
  let s := { s with cur := { s.cur with issues := false } }
  match s.agenda with
  | a :: rest => ({ s with agenda := rest } : State).performAndIssue a
  | [] => s.freeStep

end Sys2Proof.Machine
end

