-- ==== Sys2Proof/Machine/Step.lean ====
section
/-!
DEFINITION. One step of the machine, and a word placed where the next step runs it.
-/

namespace Sys2Proof.Machine

/-- One step of the machine. -/
noncomputable def step (s : State) : Host.Outcome State Fault Refusal := s.advance

/-- The state in which the next step fetches and runs the instruction whose bits are w (log 12). -/
noncomputable def State.withFetchWord (s : State) (nbits w : Nat) : State :=
  s.loadWord (w % 2 ^ nbits % 2 ^ 32) (w % 2 ^ nbits / 2 ^ 32 % 2 ^ 32)

end Sys2Proof.Machine
end

