-- ==== Sys2Proof/Safety.lean ====
section
/-!
DEFINITION. What counts as a safe run: an instruction that the hart may issue, one that goes on without a trap or a
wait, the canonical form of memory, and what an instruction leaves as it was.  Claims are stated in these terms.
-/

namespace Sys2Proof.Machine

/-! ### An instruction issues and goes on (R33, R34, R39, R51, R173, R181, R383, R416) -/

/-- The state in which an instruction's own effect begins: one that commits finds the open strip committed and a new
strip begun (R180, R181). -/
def State.begun (s : State) (u : Uses) : State := if u.commits then s.committed u else s

/-- The hart that acts has what an instruction asks of it: none of the traps of R51 applies that come before the
instruction's own, and none of the waits of R33, R34, R173, R181, R241, R317, R326 and R383. -/
structure State.Admits (s : State) (u : Uses) : Prop where
  legal : u.illegal = false
  reads : ∀ r ∈ u.reads, s.me.badRead r = false
  writes : ∀ r ∈ u.writes, s.me.badWrite r = false
  mode : u.priv = true → s.isFirmware = true
  user : u.userOnly = true → s.isFirmware = false
  fields : ∀ f ∈ u.regs, f.ok = true
  owned : u.vown = true → s.me.vlazy = false
  sources : ∀ q ∈ u.sources, s.me.isEmptySource q = false
  dests : ∀ d ∈ u.dests, s.me.holds d.1 d.2 = true
  started : s.me.unstarted (u.reads ++ u.writes) = none
  awake : u.lanes = true → s.sleepingGroups = []
  arrived : u.commits = true → ∀ f ∈ s.me.fills, f.vector = false
  commits : u.commits = true → (s.committed u).me.strip = []
  released : u.commits = true → ∀ r, u.releases = some r → (s.begun u).releaseWaits r = false

/-- The state after an instruction whose own effect changes the hart by `f` and nothing else: the hart goes on at the
next instruction, and the busy cycles of the instruction are queued. -/
def State.after (s : State) (u : Uses) (f : Hart → Hart) : State := (s.modifyMe f).complete u (s.me.pc + word u.len)

/-! ### What the shapes of scalar instructions ask (R39, R40, R80, R86, R131, R273) -/

/-- D, A and source B in scalar use. -/
def binaryUses (d a : Reg) (b : Src) (fa : Bool) : Uses :=
  { len := srcBytes b
    regs := [⟨2, d, isScalar d⟩, ⟨0, a, isScalar a⟩] ++ srcField isScalar b
    sources := ⟨0, .x, a, fa⟩ :: srcSource .x b
    dests := [(.x, d)] }

/-- The same with D read as well. -/
def ternaryUses (d a : Reg) (b : Src) (fa : Bool) : Uses :=
  { binaryUses d a b fa with sources := ⟨0, .x, a, fa⟩ :: srcSource .x b ++ [⟨2, .x, d, false⟩] }

/-- D and A in scalar use. -/
def unaryUses (d a : Reg) (fa : Bool) : Uses :=
  { regs := [⟨2, d, isScalar d⟩, ⟨0, a, isScalar a⟩], sources := [⟨0, .x, a, fa⟩], dests := [(.x, d)] }

/-- D alone in scalar use. -/
def constUses (d : Reg) : Uses := { regs := [⟨2, d, isScalar d⟩], dests := [(.x, d)] }

/-- D in scalar use and the address register A, of a load. -/
def loadUses (d a : Reg) (fa : Bool) : Uses :=
  { regs := [⟨2, d, isScalar d⟩, ⟨0, a, isAddress a⟩], sources := [⟨0, .x, a, fa⟩], dests := [(.x, d)] }

/-- The datum D and the address register A, of a store. -/
def storeUses (d a : Reg) (fa fd : Bool) : Uses :=
  { regs := [⟨2, d, isScalar d⟩, ⟨0, a, isAddress a⟩], sources := [⟨0, .x, a, fa⟩, ⟨2, .x, d, fd⟩] }

/-- D, the address register A and the operand B of an atomic; it commits the open strip and orders earlier reads, and as a
release it waits for what it covers. -/
def atomicUses (readsD : Bool) (d a b : Reg) (fa fb : Bool) (releases : Option Bool) : Uses :=
  { regs := [⟨2, d, isScalar d⟩, ⟨0, a, isAddress a⟩, ⟨1, b, isScalar b⟩]
    sources := [⟨0, .x, a, fa⟩, ⟨1, .x, b, fb⟩] ++ if readsD then [⟨2, .x, d, false⟩] else []
    dests := [(.x, d)]
    commits := true
    orders := true
    releases }

end Sys2Proof.Machine
end

