-- ==== Sys2Proof/Certificates/Slice0/Obligations.lean ====
section
/-!
DEFINITION. The statements for the provers, in the order of the chapters of spec/.
-/

namespace Sys2Proof.Stated
end Sys2Proof.Stated

open Sys2Proof Sys2Proof.Machine Sys2Proof.Stated

namespace Sys2Proof.Stated

open Sys2Proof.Machine

/-! ### Scalar instructions (03_scalar_control) -/

/-- sh of R80. -/
def sh (y : Word) : Nat := y.toNat % 64

/-- The quotient of R80 and R81. -/
def quotient (x y : Word) : Word :=
  if y = 0 then BitVec.allOnes 64 else BitVec.ofInt 64 (x.toInt.tdiv y.toInt)

/-- The instructions of R80 that name D, A and B, with what each writes to D, computed in whole numbers. -/
def integerTable : List ((Reg → Reg → Src → Bool → Instr) × (Word → Word → Word)) :=
  [(.add, fun x y => word (x.toNat + y.toNat)),
   (.sub, fun x y => BitVec.ofInt 64 (x.toInt - y.toInt)),
   (.mul, fun x y => word (x.toNat * y.toNat)),
   (.mulhs, fun x y => BitVec.ofInt 64 (x.toInt * y.toInt / 2 ^ 64)),
   (.mulhu, fun x y => word (x.toNat * y.toNat / 2 ^ 64)),
   (.divs, quotient),
   (.divu, fun x y => if y = 0 then BitVec.allOnes 64 else word (x.toNat / y.toNat)),
   (.rems, fun x y => x - y * quotient x y),
   (.remu, fun x y => if y = 0 then x else word (x.toNat % y.toNat)),
   (.and, fun x y => x &&& y),
   (.or, fun x y => x ||| y),
   (.xor, fun x y => x ^^^ y),
   (.andn, fun x y => x &&& ~~~y),
   (.shl, fun x y => word (x.toNat * 2 ^ sh y)),
   (.shr, fun x y => word (x.toNat / 2 ^ sh y)),
   (.sra, fun x y => BitVec.ofInt 64 (x.toInt / 2 ^ sh y)),
   (.rotl, fun x y => (x <<< sh y) ||| (x >>> (64 - sh y))),
   (.mins, fun x y => if x.toInt < y.toInt then x else y),
   (.maxs, fun x y => if x.toInt < y.toInt then y else x),
   (.minu, fun x y => if x.toNat < y.toNat then x else y),
   (.maxu, fun x y => if x.toNat < y.toNat then y else x),
   (.slt, fun x y => if x.toInt < y.toInt then 1 else 0),
   (.sltu, fun x y => if x.toNat < y.toNat then 1 else 0),
   (.seq, fun x y => if x = y then 1 else 0),
   (.exts, fun x y => BitVec.ofInt 64 ((x.toNat : Int).bmod (2 ^ (sh y + 1))))]

/-- Round of R62 and R65 for a scalar: to FP64 under VCFG.RM, at coordinate (0, 0). -/
def roundScalar (rd : Rounding) (v : FVal) : Word := word (roundF .fp64 rd v)

/-- The instructions of R86 that name D, A and B. -/
def floatTable : List ((Reg → Reg → Src → Bool → Instr) × (Rounding → Word → Word → Word)) :=
  [(.fadd, fun rd x y => roundScalar rd ((f64 x).add (rd.mode == .rdn) (f64 y))),
   (.fsub, fun rd x y => roundScalar rd ((f64 x).add (rd.mode == .rdn) (f64 y).neg)),
   (.fmul, fun rd x y => roundScalar rd ((f64 x).mul (f64 y))),
   (.fdiv, fun rd x y => roundScalar rd ((f64 x).div (f64 y))),
   (.fmin, fun _ x y => word (minBits .fp64 x.toNat y.toNat)),
   (.fmax, fun _ x y => word (maxBits .fp64 x.toNat y.toNat)),
   (.feq, fun _ x y => if (f64 x).eq (f64 y) then 1 else 0),
   (.flt, fun _ x y => if (f64 x).lt (f64 y) then 1 else 0),
   (.fle, fun _ x y => if (f64 x).le (f64 y) then 1 else 0),
   (.fsgnj, fun _ x y => (x &&& ~~~((1 : Word) <<< 63)) ||| (y &&& ((1 : Word) <<< 63)))]

/-- The scalar loads of R131: the bytes of each, and how its value fills D. -/
def loadTable : List ((Reg → Reg → BitVec 8 → Bool → Instr) × Nat × (Nat → Word)) :=
  [(.ldb, 1, word), (.ldh, 2, word), (.ldw, 4, word), (.ldd, 8, word),
   (.ldbs, 1, fun x => (BitVec.ofNat 8 x).signExtend 64),
   (.ldhs, 2, fun x => (BitVec.ofNat 16 x).signExtend 64),
   (.ldws, 4, fun x => (BitVec.ofNat 32 x).signExtend 64)]

/-- The scalar stores of R131, with the bytes of each. -/
def storeTable : List ((Reg → Reg → BitVec 8 → Bool → Bool → Instr) × Nat) :=
  [(.stb, 1), (.sth, 2), (.stw, 4), (.std, 8)]

/-- The atomics of R273 that always write, with the new word from the old one and B. -/
def atomicTable : List ((Reg → Reg → Reg → BitVec 2 → Bool → Bool → Instr) × (Word → Word → Word)) :=
  [(.amoadd, fun x y => x + y), (.amoand, fun x y => x &&& y), (.amoor, fun x y => x ||| y),
   (.amoxor, fun x y => x ^^^ y),
   (.amomins, fun x y => if x.toInt ≤ y.toInt then x else y), (.amomaxs, fun x y => if x.toInt ≤ y.toInt then y else x),
   (.amominu, fun x y => if x.toNat ≤ y.toNat then x else y), (.amomaxu, fun x y => if x.toNat ≤ y.toNat then y else x),
   (.amoswap, fun _ y => y)]

/-- The bit of R87 for the class of an FP64 pattern. -/
def classBit (x : Word) : Nat :=
  let neg := x.getLsbD 63
  let e := x.toNat / 2 ^ 52 % 2 ^ 11
  let f := x.toNat % 2 ^ 52
  if e = 2047 ∧ f ≠ 0 then (if f / 2 ^ 51 = 1 then 8 else 9)
  else (if neg then 4 else 0) + (if e = 0 ∧ f = 0 then 0 else if e = 0 then 1 else if e = 2047 then 3 else 2)

/-- An operation of a meaning ends without a trap or a wait, as the state and the operands decide. -/
def Succeeds {ε α : Type} (r : Except ε α) : Prop := ∃ x, r = .ok x

/-- What it gives then. -/
def given {ε α : Type} (otherwise : α) : Except ε α → α
  | .ok x => x
  | .error _ => otherwise

/-- A transfer to an address may take effect: its block can be fetched, and the word there is no literal (R79). -/
def Lands (s : State) (target : Word) : Prop := Succeeds (s.land target)

/-- The state in which the block of the target has been fetched. -/
def landed (s : State) (target : Word) : State := given s (s.land target)

/-- The values of the full binary trees whose leaves are the values listed, in any order (R75). -/
inductive TreeOf (op : Nat → Nat → Nat) : List Nat → Nat → Prop where
  | leaf (x : Nat) : TreeOf op [x] x
  | node {xs ys zs : List Nat} {x y : Nat} : TreeOf op xs x → TreeOf op ys y → zs.Perm (xs ++ ys) → TreeOf op zs (op x y)

end Sys2Proof.Stated

/-- The integer instructions of R80 with D, A and B: D := the result, the hart goes on, and nothing else changes. -/
def Obligations.IntegerResults : Prop :=
  ∀ e ∈ integerTable, ∀ (s : State) (d a : Reg) (b : Src) (fa : Bool), s.Admits (binaryUses d a b fa) →
    exec (e.1 d a b fa) s =
      .next (s.after (binaryUses d a b fa) fun h => h.writeX d (e.2 (h.readX a) (h.srcWord b)))

/-- Division never traps (R81): whatever its operands, the hart goes on at the next instruction; its boundary cases are
division by zero, the quotient that overflows, and the signs of R81's table.  g0 as D discards the result. -/
def Obligations.DivisionNeverTraps : Prop :=
  ∀ (s : State) (d a : Reg) (b : Src) (fa : Bool), s.Admits (binaryUses d a b fa) →
    let x := s.me.readX a
    let y := s.me.srcWord b
    let gives (i : Instr) (v : Word) : Prop :=
      ∃ t, exec i s = .next t ∧ t.me.pc = s.me.pc + word (srcBytes b) ∧ t.me.readX d = if d = 0 then 0 else v
    (∀ i ∈ [Instr.divs d a b fa, .divu d a b fa, .rems d a b fa, .remu d a b fa], ∃ v, gives i v) ∧
    (y = 0 → gives (.divs d a b fa) (BitVec.allOnes 64) ∧ gives (.divu d a b fa) (BitVec.allOnes 64) ∧
      gives (.rems d a b fa) x ∧ gives (.remu d a b fa) x) ∧
    (x = BitVec.intMin 64 → y = BitVec.allOnes 64 →
      gives (.divs d a b fa) (BitVec.intMin 64) ∧ gives (.rems d a b fa) 0) ∧
    (x = 7 → y = -2 → gives (.divs d a b fa) (-3) ∧ gives (.rems d a b fa) 1) ∧
    (x = -7 → y = 2 → gives (.divs d a b fa) (-3) ∧ gives (.rems d a b fa) (-1))

/-- The other integer instructions (R80, R82, R83, R84): counts of bits, CMOV, ADDI, LI and LC. -/
def Obligations.UnaryAndConstantResults : Prop :=
  ∀ (s : State) (d a n : Reg) (b : Src) (fa : Bool) (imm : BitVec 14) (imm20 : BitVec 20),
    (s.Admits (unaryUses d a fa) →
      (∃ k, k ≤ 64 ∧ (∀ i, 64 - k ≤ i → i < 64 → (s.me.readX a).getLsbD i = false) ∧
        (k < 64 → (s.me.readX a).getLsbD (63 - k) = true) ∧
        exec (.clz d a fa) s = .next (s.after (unaryUses d a fa) fun h => h.writeX d (word k))) ∧
      (∃ k, k ≤ 64 ∧ (∀ i, i < k → (s.me.readX a).getLsbD i = false) ∧
        (k < 64 → (s.me.readX a).getLsbD k = true) ∧
        exec (.ctz d a fa) s = .next (s.after (unaryUses d a fa) fun h => h.writeX d (word k))) ∧
      exec (.popc d a fa) s = .next (s.after (unaryUses d a fa) fun h =>
        h.writeX d (word ((List.range 64).countP (h.readX a).getLsbD)))) ∧
    (s.Admits (ternaryUses d a b fa) →
      exec (.cmov d a b fa) s = .next (s.after (ternaryUses d a b fa) fun h =>
        h.writeX d (if h.srcWord b ≠ 0 then h.readX a else h.readX d))) ∧
    (s.Admits (unaryUses d a false) →
      exec (.addi d a imm) s = .next (s.after (unaryUses d a false) fun h =>
        h.writeX d (BitVec.ofInt 64 ((h.readX a).toInt + imm.toInt)))) ∧
    (s.Admits (constUses d) →
      exec (.li d imm20) s = .next (s.after (constUses d) fun h => h.writeX d (BitVec.ofInt 64 imm20.toInt)) ∧
      exec (.lc d n) s = .next (s.after (constUses d) fun h => h.writeX d (vget h.c n.toNat 0)))

/-- The scalar float instructions (R85, R86, R87). -/
def Obligations.FloatResults : Prop :=
  ∀ (s : State) (d a : Reg) (b : Src) (fa : Bool) (imm : BitVec 20),
    (s.Admits (binaryUses d a b fa) → ∀ e ∈ floatTable,
      exec (e.1 d a b fa) s = .next (s.after (binaryUses d a b fa) fun h =>
        h.writeX d (e.2 s.scalarRounding (h.readX a) (h.srcFloat b)))) ∧
    (s.Admits (unaryUses d a fa) →
      exec (.fsqrt d a fa) s = .next (s.after (unaryUses d a fa) fun h =>
        h.writeX d (roundScalar s.scalarRounding (f64 (h.readX a)).sqrt)) ∧
      exec (.fcvtif d a fa) s = .next (s.after (unaryUses d a fa) fun h =>
        h.writeX d (roundScalar s.scalarRounding (ofInt (h.readX a).toInt))) ∧
      exec (.fcvtfi d a fa) s = .next (s.after (unaryUses d a fa) fun h =>
        h.writeX d (BitVec.ofInt 64 (toInt 64 s.scalarRounding (f64 (h.readX a))))) ∧
      exec (.fclass d a fa) s = .next (s.after (unaryUses d a fa) fun h =>
        h.writeX d (word (2 ^ classBit (h.readX a))))) ∧
    (s.Admits (ternaryUses d a b fa) →
      exec (.ffma d a b fa) s = .next (s.after (ternaryUses d a b fa) fun h =>
        h.writeX d (roundScalar s.scalarRounding
          (((f64 (h.readX a)).mul (f64 (h.srcFloat b))).add (s.scalarRounding.mode == .rdn) (f64 (h.readX d)))))) ∧
    (s.Admits (constUses d) →
      exec (.fli d imm) s = .next (s.after (constUses d) fun h =>
        h.writeX d (roundScalar .nearest (Fmt.fp32.value (imm.toNat * 2 ^ 12)))))



/-- BR (R88), on a scalar register and on a mask; not taken, and taken to a word where a transfer may land (R79).
JAL, JR and JTAB (R89, R90, R91): to a word where a transfer may land; JTAB beyond its table goes on.  STRIP (R92):
CNT loses T down to 0, the selected address registers advance by T elements, the strip element base advances, and the
hart branches while elements remain. -/
def Obligations.ControlTransfers : Prop :=
  (∀ (s : State) (a : Reg) (cond : BitVec 3) (off : BitVec 17) (taken : Bool),
     let u : Uses := if cond.toNat < 6 then { regs := [⟨0, a, isScalar a⟩], sources := [⟨0, .x, a, false⟩] }
       else { regs := [⟨0, a, isMask a⟩], vown := true }
     let target := BitVec.ofInt 64 (s.me.pc.toInt + 4 * off.toInt)
     s.Admits u →
     (taken = true ↔
       (cond = 0 ∧ s.me.readX a = 0) ∨ (cond = 1 ∧ s.me.readX a ≠ 0) ∨
       (cond = 2 ∧ (s.me.readX a).toInt < 0) ∨ (cond = 3 ∧ 0 ≤ (s.me.readX a).toInt) ∨
       (cond = 4 ∧ 0 < (s.me.readX a).toInt) ∨ (cond = 5 ∧ (s.me.readX a).toInt ≤ 0) ∨
       (cond = 6 ∧ ∃ i, i < s.me.tile ∧ bitAt (s.me.readM a) i = true) ∨
       (cond = 7 ∧ ∀ i, i < s.me.tile → bitAt (s.me.readM a) i = false)) →
     (taken = false → exec (.br a cond off) s = .next (s.complete u (s.me.pc + 4))) ∧
     (taken = true → Lands s target → exec (.br a cond off) s = .next ((landed s target).complete u target))) ∧
  (∀ (s : State) (d a b : Reg) (imm : BitVec 20) (fa fb : Bool),
     (let target := BitVec.ofInt 64 (s.me.pc.toInt + 4 * imm.toInt)
      s.Admits (constUses d) → Lands s target →
       exec (.jal d imm) s =
         .next (((landed s target).modifyMe fun h => h.writeX d (s.me.pc + 4)).complete (constUses d) target)) ∧
     (let target := s.me.readX a
      s.Admits (unaryUses d a fa) → target.toNat % 4 = 0 → Lands s target →
       exec (.jr d a fa) s =
         .next (((landed s target).modifyMe fun h => h.writeX d (s.me.pc + 4)).complete (unaryUses d a fa) target)) ∧
     (let u : Uses :=
       { regs := [⟨2, d, isG d⟩, ⟨0, a, isG a⟩, ⟨1, b, isAddress b⟩]
         sources := [⟨0, .x, a, fa⟩, ⟨1, .x, b, fb⟩, ⟨2, .x, d, false⟩] }
      s.Admits u →
       ((s.me.readX d).toNat ≤ (s.me.readX a).toNat →
         exec (.jtab d a b fa fb) s = .next (s.complete u (s.me.pc + 4))) ∧
       (let word := s.loadBytes (.scalar false) (s.me.readX b + 4 * s.me.readX a) 4
        let (n, s1) := given (0, s) word
        let target := s.me.pc + 4 * (BitVec.ofNat 32 n).signExtend 64
        (s.me.readX a).toNat < (s.me.readX d).toNat → (s.me.readX b).toNat % 4 = 0 → Succeeds word → Lands s1 target →
         exec (.jtab d a b fa fb) s = .next ((landed s1 target).complete u target)))) ∧
  (∀ (s : State) (cnt : Reg) (asel : BitVec 4) (off : BitVec 16),
     let u : Uses :=
       { regs := [⟨3, cnt, isG cnt⟩]
         sources := ⟨3, .x, cnt, false⟩ ::
           (((List.range 4).filter asel.getLsbD).map fun j => ⟨3, .x, BitVec.ofNat 6 (32 + j), false⟩)
         dests := [(.x, cnt)] }
     let t := s.me.tile
     let n := (s.me.readX cnt).toNat - t
     let target := BitVec.ofInt 64 (s.me.pc.toInt + 4 * off.toInt)
     s.Admits u → (n ≠ 0 → Lands s target) →
     ∃ r, exec (.strip cnt asel off) s = .next r ∧
       r.me.pc = (if n = 0 then s.me.pc + 4 else target) ∧
       (cnt ≠ 0 → r.me.readX cnt = word n) ∧
       (∀ j, j < 4 → r.me.readX (BitVec.ofNat 6 (32 + j)) =
         s.me.readX (BitVec.ofNat 6 (32 + j)) + if asel.getLsbD j then word (t * s.me.esize) else 0) ∧
       (∀ g : Reg, g ≠ cnt → (g.toNat < 32 ∨ 36 ≤ g.toNat) → r.me.readX g = s.me.readX g) ∧
       r.me.elemBase = s.me.elemBase + word t ∧
       r.me.vec = s.me.vec ∧ r.dev.mem = s.dev.mem)

/-- MARK in a user context whose book is not replaced (R93, R94, R331): a mark with the registers as they stand joins
the queue of the hart's Second, a full queue loses its oldest, and without a book the mark is consumed at once. -/
def Obligations.MarkCompletes : Prop :=
  ∀ (s : State) (x : UserCtx) (imm : BitVec 20), s.cur.ctx = userId x →
    let k := s.core s.cur.core
    let v := k.advice[x.val]
    let m : Mark := { id := imm, snap := s.me.snapshotRegs }
    ∀ b, k.newestBook s.me.link.launch = b → (∀ bk, b = some bk → bk.version ≤ s.me.bookVersion) →
    ∃ t, exec (.mark imm) s = .next t ∧ t.me.pc = s.me.pc + 4 ∧ t.me.x = s.me.x ∧ t.dev = s.dev ∧
      (t.core s.cur.core).advice[x.val] =
        (match b with
         | none => { v with snap := some m.snap, lastId := some imm }
         | some _ => { v with marks := (if v.marks.length < 16 then v.marks else v.marks.tail) ++ [m] })

/-- Scalar loads (R131, R132, R32): D is empty until the read has performed and its value arrives; nothing else of the
hart changes.  A read that performs next, with no other result on the way, gives D the bytes at the address, the hart's
own open strip included, zero or sign extended. -/
def Obligations.LoadsComplete : Prop :=
  ∀ e ∈ loadTable, ∀ (s : State) (d a : Reg) (off : BitVec 8) (fa : Bool) (p : Place),
    let n := e.2.1
    let va := BitVec.ofInt 64 ((s.me.readX a).toInt + off.toInt * n)
    s.Admits (loadUses d a fa) → va.toNat % n = 0 → s.place (.scalar (n == 8)) .load va = .ok p →
    s.meetsPoison p n = false →
    ∃ t, exec (e.1 d a off fa) s = .next t ∧
      (∃ read : PendingRead, read.place = p ∧ read.bytes = n ∧
        t = (s.count p).after (loadUses d a fa) fun h =>
          h.await { vector := false, reg := d, value := 0, reads := [read] }) ∧
      (d ≠ 0 → t.me.isFull d = false) ∧
      (d ≠ 0 → s.me.fills = [] → t.deliverFirst.me.isFull d = true ∧
        t.deliverFirst.me.readX d = e.2.2 (s.viewed.readPlace p n))

/-- Scalar stores (R131, R177): the low bytes of D join the open strip at the address; memory itself does not change
before the strip commits. -/
def Obligations.StoresComplete : Prop :=
  ∀ e ∈ storeTable, ∀ (s : State) (d a : Reg) (off : BitVec 8) (fa fd : Bool) (p : Place),
    let n := e.2
    let va := BitVec.ofInt 64 ((s.me.readX a).toInt + off.toInt * n)
    s.Admits (storeUses d a fa fd) → va.toNat % n = 0 → s.place (.scalar (n == 8)) .store va = .ok p →
    exec (e.1 d a off fa fd) s =
      .next ((s.count p).after (storeUses d a fa fd) fun h =>
        { h with strip := h.strip ++ [.stores [(p, n, (h.readX d).toNat % 2 ^ (8 * n))]] })

/-- The atomics (R273) at an aligned word of main memory that is not poisoned and that no follow-on of the hart has still
to read (R241): the strip is committed first (R181), D takes the old word, and the new word is stored; AMOCAS stores only
where the old word equals D.  AMOFADD with DET stores the one sum; without it the word takes the value of a tree over
what the word stands for and B (R75, R274). -/
def Obligations.AtomicsComplete : Prop :=
  ∀ (s : State) (d a b : Reg) (ord : BitVec 2) (fa fb : Bool) (pa : Nat),
    let release := if ord.getLsbD 1 then some s.me.systemScope else none
    let free (s1 : State) : Prop := (s1.me.readX a).toNat % 8 = 0 ∧ s1.place .memory .rmw (s1.me.readX a) = .ok (.main pa) ∧
      s1.dev.isPoisoned pa = false ∧ s1.blocksWrite [(.main pa, 8)] = false
    (∀ e ∈ atomicTable,
      let u := atomicUses false d a b fa fb release
      let s1 := s.begun u
      let old := word (s1.getWord pa)
      let s2 := (s1.count (.main pa)).modifyMe fun h => h.writeX d old
      let add : ScatterAdd :=
        { pa := BitVec.ofNat 52 pa, log2Size := 3, isFloat := true, bf := false, addend := s1.me.readX b }
      s.Admits u → free s1 →
      exec (e.1 d a b ord fa fb) s = .next ((s2.putWord pa (e.2 old (s1.me.readX b)).toNat).complete u (s.me.pc + 4)) ∧
      (s1.me.det = true → s1.me.scope = 0 →
        exec (.amofadd d a b ord fa fb) s =
          .next ((s2.putWord pa (addBits .fp64 .nearest old.toNat (s1.me.readX b).toNat)).complete u (s.me.pc + 4))) ∧
      (s1.me.det = false → pa < 2 ^ 52 → s1.dev.mem.wf = true →
        ∃ r : State, exec (.amofadd d a b ord fa fb) s = .next (r.complete u (s.me.pc + 4)) ∧ r.me = s2.me ∧
          (∀ x, x < pa ∨ pa + 8 ≤ x → r.dev.mem.byte x = s1.dev.mem.byte x) ∧
          ∃ y, TreeOf (addBits .fp64 .nearest) (s1.dev.leavesAt add ++ [(s1.me.readX b).toNat]) y ∧
            r.getWord pa = y % 2 ^ 64)) ∧
    (let u := atomicUses true d a b fa fb release
     let s1 := s.begun u
     let old := word (s1.getWord pa)
     s.Admits u → free s1 →
     exec (.amocas d a b ord fa fb) s =
       .next ((if old = s1.me.readX d
         then ((s1.count (.main pa)).modifyMe fun h => h.writeX d old).putWord pa (s1.me.readX b).toNat
         else (s1.count (.main pa)).modifyMe fun h => h.writeX d old).complete u (s.me.pc + 4)))

namespace Sys2Proof.Stated

open Sys2Proof.Machine

/-! ### Vector instructions (08_vector_integer_and_masks, 10_vector_float_and_reductions) -/

/-- Element j of a vector register under SEW. -/
def vElem (h : Hart) (r : Reg) (j : Nat) : Nat := elem h.sew (h.readV r) j

/-- Element j of source B (R41): of the vector register, or the one value that every element takes. -/
def bElem (h : Hart) (isFloat : Bool) (b : Src) (j : Nat) : Nat :=
  match b with
  | .reg r _ => vElem h r j
  | _ => if isFloat then h.srcFloatElem b else (h.srcWord b).toNat % 2 ^ h.sew

/-- No stream is bound to one of the names. -/
def Unbound (h : Hart) (rs : List Reg) : Prop := ∀ r ∈ rs, h.streamOf r = none

/-- An instruction goes on with element j of the tile of D holding `f j`, or its old value where `f j` is none; every
element outside the tile, and everything but D, is as it was. -/
def WritesTile (i : Instr) (s : State) (u : Uses) (d : Reg) (f : Nat → Option Nat) : Prop :=
  ∃ x, exec i s = .next (s.after u fun h => h.writeV d x) ∧
    ∀ j, elem s.me.sew x j =
      if j < s.me.tile then ((f j).map (· % 2 ^ s.me.sew)).getD (vElem s.me d j) else vElem s.me d j

/-- The same for the active elements alone (R204). -/
def WritesActive (i : Instr) (s : State) (u : Uses) (d : Reg) (f : Nat → Nat) : Prop :=
  WritesTile i s u d fun j => if s.me.active j then some (f j) else none

/-- An instruction goes on with bit j of the mask D holding `f j` for the elements of the tile that `on` selects. -/
def WritesMask (i : Instr) (s : State) (u : Uses) (d : Reg) (on : Nat → Bool) (f : Nat → Prop) : Prop :=
  ∃ x, exec i s = .next (s.after u fun h => h.writeM d x) ∧
    ∀ j, (bitAt x j = true ↔ if j < s.me.tile ∧ on j = true then f j else bitAt (s.me.readM d) j = true)

/-- The instructions of R205 that name D, A and B: the element of D from SEW and the elements of A and B. -/
def vectorIntegerTable : List ((Reg → Reg → Src → Bool → Instr) × (Nat → Nat → Nat → Nat)) :=
  [(.vadd, fun w x y => wrap w ((x : Int) + y)), (.vsub, fun w x y => wrap w ((x : Int) - y)),
   (.vmul, fun w x y => wrap w ((x : Int) * y)),
   (.vmulhs, fun w x y => wrap w (signed w x * signed w y / (2 ^ w : Nat))),
   (.vmulhu, fun w x y => x * y / 2 ^ w),
   (.vand, fun _ x y => x &&& y), (.vor, fun _ x y => x ||| y), (.vxor, fun _ x y => x ^^^ y),
   (.vshl, fun w x y => x * 2 ^ (y % w)), (.vshr, fun w x y => x / 2 ^ (y % w)),
   (.vsra, fun w x y => wrap w (signed w x / (2 ^ (y % w) : Nat))),
   (.vmins, fun w x y => wrap w (min (signed w x) (signed w y))),
   (.vmaxs, fun w x y => wrap w (max (signed w x) (signed w y))),
   (.vminu, fun _ x y => min x y), (.vmaxu, fun _ x y => max x y)]

/-- The compares of R207. -/
def vectorCompareTable : List ((Reg → Reg → Src → Bool → Instr) × (Nat → Nat → Nat → Prop)) :=
  [(.vcmpeq, fun _ x y => x = y), (.vcmplt, fun w x y => signed w x < signed w y), (.vcmpltu, fun _ x y => x < y),
   (.vcmple, fun w x y => signed w x ≤ signed w y), (.vcmpleu, fun _ x y => x ≤ y)]

/-- The instructions of R219 that name D, A and B and round once. -/
def vectorFloatTable : List ((Reg → Reg → Src → Bool → Instr) × (Fmt → Rounding → Nat → Nat → Nat)) :=
  [(.vfadd, fun f rd x y => roundF f rd ((f.value x).add (rd.mode == .rdn) (f.value y))),
   (.vfsub, fun f rd x y => roundF f rd ((f.value x).add (rd.mode == .rdn) (f.value y).neg)),
   (.vfmul, fun f rd x y => roundF f rd ((f.value x).mul (f.value y))),
   (.vfdiv, fun f rd x y => roundF f rd ((f.value x).div (f.value y))),
   (.vfmin, fun f _ x y => minBits f x y), (.vfmax, fun f _ x y => maxBits f x y)]

/-- The unary float instructions of R219 and R220. -/
def vectorFloatUnaryTable : List ((Reg → Reg → Bool → Instr) × (Fmt → Rounding → Nat → Nat)) :=
  [(.vfsqrt, fun f rd x => roundF f rd (f.value x).sqrt),
   (.vfabs, fun f _ x => x % 2 ^ (f.width - 1)),
   (.vfneg, fun f _ x => x % 2 ^ (f.width - 1) + if bitAt x (f.width - 1) then 0 else 2 ^ (f.width - 1)),
   (.vfclass, fun f _ x => classMask f x)]

/-- The float compares of R220. -/
def vectorFloatCompareTable : List ((Reg → Reg → Src → Bool → Instr) × (FVal → FVal → Bool)) :=
  [(.vfcmpeq, FVal.eq), (.vfcmplt, FVal.lt), (.vfcmple, FVal.le)]

/-- The row and the column of a linear index (R21). -/
def rowOf (h : Hart) (j : Nat) : Nat := j / h.vl.toNat
def colOf (h : Hart) (j : Nat) : Nat := j % h.vl.toNat

/-- The present values of a reduction: the active elements of A below n. -/
def present (h : Hart) (a : Reg) (n : Nat) : List Nat := ((List.range n).filter h.masked).map (vElem h a)

end Sys2Proof.Stated

/-- Vector integer arithmetic (R203, R204, R205, R208, R209): each active element of D takes the result of its elements
of A and B; VMADD reads D as well, and VMERGE writes every element of the tile. -/
def Obligations.VectorIntegerResults : Prop :=
  ∀ (s : State) (d a : Reg) (b : Src) (fa : Bool),
    let h := s.me
    (s.Admits (s.elemUses .vint d a b fa false) → Unbound h ([d, a] ++ srcTiles b) →
      (∀ e ∈ vectorIntegerTable, WritesActive (e.1 d a b fa) s (s.elemUses .vint d a b fa false) d fun j =>
        e.2 h.sew (vElem h a j) (bElem h false b j)) ∧
      WritesTile (.vmerge d a b fa) s (s.elemUses .vint d a b fa false) d fun j =>
        if h.inRange j then some (if h.masked j then vElem h a j else bElem h false b j) else none) ∧
    (s.Admits (s.elemUses .vint d a b fa true) → Unbound h ([d, a] ++ srcTiles b) →
      WritesActive (.vmadd d a b fa) s (s.elemUses .vint d a b fa true) d fun j =>
        vElem h a j * bElem h false b j + vElem h d j) ∧
    (s.Admits (s.unaryUses .vint d a fa) → Unbound h [d, a] →
      WritesActive (.vabs d a fa) s (s.unaryUses .vint d a fa) d (fun j => (signed h.sew (vElem h a j)).natAbs) ∧
      WritesActive (.vclz d a fa) s (s.unaryUses .vint d a fa) d (fun j => leadingZeros h.sew (vElem h a j)) ∧
      WritesActive (.vpopc d a fa) s (s.unaryUses .vint d a fa) d
        (fun j => (List.range h.sew).countP (bitAt (vElem h a j))))

/-- Compares (R207) and the carries and borrows of VADC and VSBC (R206): m1 gives the carries in, m2 takes the carries
out. -/
def Obligations.VectorCompareAndCarry : Prop :=
  ∀ (s : State) (d a : Reg) (b : Src) (fa : Bool),
    let h := s.me
    (s.Admits (s.compareUses .vint d a b fa) → Unbound h (a :: srcTiles b) →
      ∀ e ∈ vectorCompareTable, WritesMask (e.1 d a b fa) s (s.compareUses .vint d a b fa) d h.active fun j =>
        e.2 h.sew (vElem h a j) (bElem h false b j)) ∧
    (s.Admits (s.elemUses .vint d a b fa false) → Unbound h ([d, a] ++ srcTiles b) →
      let u := s.elemUses .vint d a b fa false
      let cin (j : Nat) : Nat := if bitAt (h.readM 1) j then 1 else 0
      (∃ x m, exec (.vadc d a b fa) s = .next (s.after u fun h => (h.writeV d x).writeM 2 m) ∧
        ∀ j, if j < h.tile ∧ h.active j = true then
            let sum := vElem h a j + bElem h false b j + cin j
            elem h.sew x j = sum % 2 ^ h.sew ∧ (bitAt m j = true ↔ 2 ^ h.sew ≤ sum)
          else elem h.sew x j = vElem h d j ∧ bitAt m j = bitAt (h.readM 2) j) ∧
      (∃ x m, exec (.vsbc d a b fa) s = .next (s.after u fun h => (h.writeV d x).writeM 2 m) ∧
        ∀ j, if j < h.tile ∧ h.active j = true then
            elem h.sew x j = wrap h.sew ((vElem h a j : Int) - bElem h false b j - cin j) ∧
              (bitAt m j = true ↔ vElem h a j < bElem h false b j + cin j)
          else elem h.sew x j = vElem h d j ∧ bitAt m j = bitAt (h.readM 2) j))

/-- VNARROW, VWIDENS and VWIDENU (R210): the wide element i of a pair lies in its first register below VLMAX of the wide
width, and in its second from there on. -/
def Obligations.VectorPairResults : Prop :=
  ∀ (s : State) (d a : Reg) (b : Src) (fa : Bool),
    let h := s.me
    let w := 2 * h.sew
    let k := h.vlmax.toNat * 64 / w
    let wide (t : Hart) (r : Reg) (j : Nat) : Nat :=
      if j < k then elem w (t.readV r) j else elem w (t.readV (r + 1)) (j - k)
    h.sewCode ≠ 3 → h.names.toNat ≤ 64 →
    (let u : Uses := { s.elemUses .vint d a b fa false with
       regs := [⟨2, d, h.isVector d⟩, ⟨0, a, decide (a.toNat + 1 < h.names.toNat)⟩] ++ srcField h.isVector b
       sources := ⟨0, .vs 2, a, fa⟩ :: srcSource .v b
       reads := srcTiles b }
     s.Admits u → Unbound h ([d, a, a + 1] ++ srcTiles b) →
      WritesActive (.vnarrow d a b fa) s u d fun j =>
        wrap h.sew (saturate h.sew (signed w (wide h a j) / (2 ^ (bElem h false b j % 64) : Nat)))) ∧
    (let u : Uses := { s.unaryUses .vint d a fa with
       regs := [⟨2, d, decide (d.toNat + 1 < h.names.toNat)⟩, ⟨0, a, h.isVector a⟩]
       dests := [(.vs 2, d)]
       writes := [] }
     s.Admits u → Unbound h [d, d + 1, a] → ∀ sgn : Bool,
      ∃ x y, exec (if sgn then .vwidens d a fa else .vwidenu d a fa) s =
          .next (s.after u fun h => (h.writeV d x).writeV (d + 1) y) ∧
        ∀ j, (if j < k then elem w x j else elem w y (j - k)) =
          if j < h.tile ∧ h.active j = true then
            wrap w (if sgn then signed h.sew (vElem h a j) else vElem h a j)
          else wide h d j)

/-- Mask instructions (R211, R212) on the bits of the tile, by row and column. -/
def Obligations.MaskResults : Prop :=
  ∀ (s : State) (d a b : Reg),
    let h := s.me
    let bit (m : Reg) (j : Nat) : Bool := bitAt (h.readM m) j
    let all (_ : Nat) : Bool := true
    let rowBit (j e : Nat) : Bool := bit a (rowOf h j * h.vl.toNat + e)
    let u2 := s.maskUses [⟨2, d, isMask d⟩, ⟨0, a, isMask a⟩, ⟨1, b, isMask b⟩]
    let u1 := s.maskUses [⟨2, d, isMask d⟩, ⟨0, a, isMask a⟩]
    let u0 := s.maskUses [⟨2, d, isMask d⟩]
    let us : Uses := { s.maskUses [⟨2, d, isScalar d⟩, ⟨0, a, isMask a⟩] with dests := [(.x, d)] }
    (s.Admits u2 →
      WritesMask (.mand d a b) s u2 d all (fun j => bit a j = true ∧ bit b j = true) ∧
      WritesMask (.mor d a b) s u2 d all (fun j => bit a j = true ∨ bit b j = true) ∧
      WritesMask (.mxor d a b) s u2 d all (fun j => bit a j ≠ bit b j) ∧
      WritesMask (.mandn d a b) s u2 d all (fun j => bit a j = true ∧ bit b j = false)) ∧
    (s.Admits u1 →
      WritesMask (.mnot d a) s u1 d all (fun j => bit a j = false) ∧
      WritesMask (.mmov d a) s u1 d all (fun j => bit a j = true) ∧
      WritesMask (.msbf d a) s u1 d all (fun j => ∀ e, e ≤ colOf h j → rowBit j e = false) ∧
      WritesMask (.msif d a) s u1 d all (fun j => ∀ e, e < colOf h j → rowBit j e = false) ∧
      WritesMask (.msof d a) s u1 d all
        (fun j => rowBit j (colOf h j) = true ∧ ∀ e, e < colOf h j → rowBit j e = false) ∧
      WritesMask (.mshup d a) s u1 d all (fun j => colOf h j ≠ 0 ∧ bit a (j - 1) = true) ∧
      WritesMask (.mshdn d a) s u1 d all (fun j => colOf h j + 1 < h.vl.toNat ∧ bit a (j + 1) = true)) ∧
    (s.Admits u0 →
      WritesMask (.mset d) s u0 d all (fun _ => True) ∧ WritesMask (.mclr d) s u0 d all (fun _ => False)) ∧
    (s.Admits us →
      exec (.mpop d a) s = .next (s.after us fun h => h.writeX d (word ((List.range h.tile).countP (bit a)))) ∧
      exec (.mfirst d a) s = .next (s.after us fun h => h.writeX d
        (match (List.range h.tile).find? (bit a) with
         | some j => word j
         | none => BitVec.allOnes 64)))

/-- Permutations (R213), by the position of an element in its row, over whole tiles (log 60): the active elements are those
whose bit of m0 is set. -/
def Obligations.PermutationResults : Prop :=
  ∀ (s : State) (d a c : Reg) (b : Src) (fa fb : Bool),
    let h := s.me
    let n := (h.srcWord b).toNat
    let vl := h.vl.toNat
    let el (r : Reg) (j : Nat) : Nat := vElem h r j
    let inTile (r : Reg) (j : Nat) : Nat := if j < h.tile then el r j else 0
    let onlyActive (f : Nat → Nat) (j : Nat) : Option Nat := if h.masked j then some (f j) else none
    let ub := s.elemUses .vint d a b fa false
    let u1 := s.unaryUses .vint d a fa
    let u2 := s.elemUses .vint d a (.reg c fb) fa false
    b.isNumberKind = true →
    (s.Admits ub → Unbound h [d, a] →
      WritesTile (.vslideup d a b fa) s ub d (fun j =>
        if h.masked j = true ∧ n ≤ colOf h j then some (el a (j - n)) else none) ∧
      WritesTile (.vslidedn d a b fa) s ub d (onlyActive fun j => if colOf h j + n < vl then el a (j + n) else 0) ∧
      WritesTile (.vunzip d a b fa) s ub d (onlyActive fun j => inTile a (2 * j + n % 2))) ∧
    (s.Admits u1 → Unbound h [d, a] →
      WritesTile (.vcompress d a fa) s u1 d (fun j =>
        (((List.range vl).filter fun e => h.masked (rowOf h j * vl + e))[colOf h j]?).map fun e =>
          el a (rowOf h j * vl + e)) ∧
      WritesTile (.vexpand d a fa) s u1 d (onlyActive fun j =>
        el a (rowOf h j * vl + (List.range (colOf h j)).countP fun e => h.masked (rowOf h j * vl + e))) ∧
      WritesTile (.vtrans d a fa) s u1 d (fun j =>
        some (el a (j % h.vrows.toNat * vl + j / h.vrows.toNat)))) ∧
    (s.Admits u2 → Unbound h [d, a, c] →
      WritesTile (.vperm d a c fa fb) s u2 d (onlyActive fun j => inTile a (el c j)) ∧
      WritesTile (.vzip d a c fa fb) s u2 d (onlyActive fun j => el (if j % 2 = 0 then a else c) (j / 2))) ∧
    (let u : Uses := { s.maskUses [⟨2, d, h.isVector d⟩, ⟨0, a, isMask a⟩] with dests := [(.v, d)], writes := [d] }
     s.Admits u → Unbound h [d] →
      WritesActive (.viota d a) s u d fun j =>
        (List.range (colOf h j)).countP fun e => bitAt (h.readM a) (rowOf h j * vl + e)) ∧
    (let u : Uses := { s.maskUses (⟨2, d, h.isVector d⟩ :: srcField h.isVector b) with
       len := srcBytes b, sources := srcSource .v b, dests := [(.v, d)], writes := [d] }
     s.Admits u → Unbound h [d] → WritesActive (.vbcast d b) s u d fun _ => bElem h false b 0) ∧
    (let u : Uses := { s.elemUses .vint d a b fa false with
       regs := [⟨2, d, isScalar d⟩, ⟨0, a, h.isVector a⟩] ++ srcField h.isVector b, dests := [(.x, d)], writes := [] }
     s.Admits u → Unbound h [a] →
      exec (.vextract d a b fa) s = .next (s.after u fun h => h.produceX d (word (inTile a n)))) ∧
    (let u : Uses := { s.maskUses ([⟨2, d, h.isVector d⟩, ⟨0, a, isScalar a⟩] ++ srcField h.isVector b) with
       len := srcBytes b, sources := ⟨0, .x, a, fa⟩ :: srcSource .v b, dests := [(.v, d)], writes := [d] }
     s.Admits u → Unbound h [d] →
      WritesTile (.vinsert d a b fa) s u d (fun j => if j = n then some (h.readX a).toNat else none))

/-- Vector float arithmetic, multiply-adds, compares and unary forms (R218, R219, R220): each result is rounded once,
with the rounding of its own element (R62, R65). -/
def Obligations.VectorFloatResults : Prop :=
  ∀ (s : State) (d a : Reg) (b : Src) (fa : Bool),
    let h := s.me
    let f := h.fmt
    (s.Admits (s.floatUses d a b fa false) → Unbound h ([d, a] ++ srcTiles b) →
      ∀ e ∈ vectorFloatTable, WritesActive (e.1 d a b fa) s (s.floatUses d a b fa false) d fun j =>
        e.2 f (s.rounding j) (vElem h a j) (bElem h true b j)) ∧
    (s.Admits (s.floatUses d a b fa true) → Unbound h ([d, a] ++ srcTiles b) →
      let fused (neg : Bool) (j : Nat) : Nat :=
        let z := f.value (vElem h d j)
        roundF f (s.rounding j) (((f.value (vElem h a j)).mul (f.value (bElem h true b j))).add
          ((s.rounding j).mode == .rdn) (if neg then z.neg else z))
      WritesActive (.vffma d a b fa) s (s.floatUses d a b fa true) d (fused false) ∧
      WritesActive (.vffms d a b fa) s (s.floatUses d a b fa true) d (fused true)) ∧
    (let u : Uses := { s.compareUses h.floatClass d a b fa with illegal := h.sewCode == 0 }
     s.Admits u → Unbound h (a :: srcTiles b) → ∀ e ∈ vectorFloatCompareTable,
      WritesMask (e.1 d a b fa) s u d h.active fun j =>
        e.2 (f.value (vElem h a j)) (f.value (bElem h true b j)) = true) ∧
    (s.Admits (s.floatUnaryUses d a fa) → Unbound h [d, a] →
      ∀ e ∈ vectorFloatUnaryTable, WritesActive (e.1 d a fa) s (s.floatUnaryUses d a fa) d fun j =>
        e.2 f (s.rounding j) (vElem h a j))

namespace Sys2Proof.Stated

open Sys2Proof.Machine

/-- Element j of a group of registers whose elements are `width` bits wide (R222): the registers from r on hold them in
order, VLMAX of that width to a register. -/
def groupElem (h : Hart) (width : Nat) (r : Reg) (j : Nat) : Nat :=
  let k := h.vlmax.toNat * 64 / width
  elem width (h.readV (r + BitVec.ofNat 6 (j / k))) (j % k)

/-- The value that 0x24 FN 0-7 combine to (R227) for the integer reductions: the list holds the present elements. -/
def integerReductionTable : List ((Reg → Reg → Src → Bool → Instr) × (Nat → List Nat → Nat)) :=
  [(.vredsum, fun w xs => xs.sum % 2 ^ w),
   (.vredmax, fun w xs => wrap w ((xs.map (signed w)).foldl max (-(2 ^ (w - 1) : Nat)))),
   (.vredmin, fun w xs => wrap w ((xs.map (signed w)).foldl min ((2 ^ (w - 1) : Nat) - 1))),
   (.vredand, fun w xs => xs.foldl (· &&& ·) (2 ^ w - 1)),
   (.vredor, fun _ xs => xs.foldl (· ||| ·) 0)]

/-- A maximum or a minimum: the canonical NaN where nothing is present, and for a NaN. -/
def canonical (f : Fmt) : Option Nat → Nat
  | some x => if (f.value x).isNaN then f.nan else x
  | none => f.nan

/-- The float reductions: HalvingSum of R73 over the elements below n, a missing one where m0 is clear. -/
def floatReductionTable :
    List ((Reg → Reg → Src → Bool → Instr) × (Fmt → Rounding → Nat → Nat → Nat) × (Fmt → Option Nat → Nat)) :=
  [(.vredfsum, addBits, fun _ x => x.getD 0), (.vredfmax, fun f _ x y => maxBits f x y, canonical),
   (.vredfmin, fun f _ x y => minBits f x y, canonical)]

end Sys2Proof.Stated


/-- VFCVT, VCVTIF and VCVTFI (R221, R222, R223) between formats whose narrower width is SEW: each active element of
the destination group takes its source element's value, rounded once and, towards an integer, saturated.  VQUANT and
VDEQUANT (R224): code 0 and 1 pack E4M3 and E5M2 bytes, code 2 and 3 whole blocks of 32 elements. -/
def Obligations.ConversionAndBlockResults : Prop :=
  (∀ (s : State) (d a : Reg) (fd fs : BitVec 3) (fa : Bool) (i : Instr) (dst src : Side),
     let h := s.me
     ((i = .vfcvt d a fd fs fa ∧ ∃ f g, fmtOfCode fd = some f ∧ fmtOfCode fs = some g ∧ dst = .float f ∧ src = .float g) ∨
      (i = .vcvtif d a fd fs fa ∧ ∃ f, fmtOfCode fd = some f ∧ dst = .float f ∧
        src = .int (fs.getLsbD 2) (8 * 2 ^ (fs.toNat % 4))) ∨
      (i = .vcvtfi d a fd fs fa ∧ ∃ g, fmtOfCode fs = some g ∧ src = .float g ∧
        dst = .int (fd.getLsbD 2) (8 * 2 ^ (fd.toNat % 4)))) →
     h.sew = min dst.width src.width → h.names.toNat ≤ 64 → h.vlmax ≠ 0 →
     let names (w : Nat) (r : Reg) : List Reg := (List.range (w / h.sew)).map fun n => r + BitVec.ofNat 6 n
     let u : Uses :=
       { regs := [⟨2, d, decide (d.toNat + dst.width / h.sew - 1 < h.names.toNat)⟩,
                  ⟨0, a, decide (a.toNat + src.width / h.sew - 1 < h.names.toNat)⟩]
         vown := true
         sources := [⟨0, if src.width = h.sew then .v else .vs (src.width / h.sew), a, fa⟩]
         dests := [(if dst.width = h.sew then .v else .vs (dst.width / h.sew), d)]
         lanes := true
         work := [(h.floatClass, s.tileCycles h.tile)] }
     s.Admits u → Unbound h (names dst.width d ++ names src.width a) →
     ∃ t, exec i s = .next t ∧ t.me.pc = s.me.pc + 4 ∧ t.me.x = h.x ∧ t.me.vec.m = h.vec.m ∧ t.dev = s.dev ∧
       (∀ r, r ∉ names dst.width d → t.me.readV r = h.readV r) ∧
       ∀ j, j / (h.vlmax.toNat * 64 / dst.width) < dst.width / h.sew →
         groupElem t.me dst.width d j =
           if j < h.tile ∧ h.active j = true then
             dst.encode (s.rounding j) (src.value (groupElem h src.width a j)) % 2 ^ dst.width
           else groupElem h dst.width d j) ∧
  (∀ (s : State) (d a b : Reg) (fa fb : Bool) (code : Nat),
     let h := s.me
     let scale := Fmt.fp64.value (h.readX b).toNat
     (h.readX (b + 1)).toNat = code → code < 4 → (2 ≤ code → h.tile % 32 = 0) → Unbound h [d, a] →
     let peb : Peb := if code = 2 then peb8 else peb4
     let narrow : Fmt := if code = 0 then .e4m3 else .e5m2
     (let u := s.quantUses d a b fa fb d [a] []
      let product (j : Nat) : FVal := (h.fmt.value (vElem h a j)).mul scale
      s.Admits u →
       ∃ x, exec (.vquant d a b fa fb) s = .next (s.after u fun h => h.writeV d x) ∧
         (code < 2 → ∀ j, elem 8 x j =
           if j < h.tile ∧ h.active j = true then roundF narrow (s.rounding j) (product j) % 2 ^ 8
           else elem 8 (h.readV d) j) ∧
         (2 ≤ code → ∀ n, elem (8 * peb.size) x n =
           if n < h.tile / 32 then
             peb.encode ((List.range 32).map fun j => (product (32 * n + j), s.rounding (32 * n + j)))
               % 2 ^ (8 * peb.size)
           else elem (8 * peb.size) (h.readV d) n)) ∧
     (let u := s.quantUses d a b fa fb a [] [d]
      s.Admits u → WritesActive (.vdequant d a b fa fb) s u d fun j =>
        roundF h.fmt (s.rounding j) ((if code < 2 then narrow.value (elem 8 (h.readV a) j)
          else peb.value (elem (8 * peb.size) (h.readV a) (j / 32)) (j % 32)).mul scale)))


/-- Reductions (R227): the elements of A below n, whatever vl is, combined into element 0 of D; a missing element
contributes nothing, and with none present an integer reduction gives its identity.  VAMAX and AMSCL (R71, R72, R225,
R226): the largest magnitude of the active elements joins the ring at its head, and a scale of a power of two is taken
from the ring's largest entry by value.  Two of these clauses state choices of the model, which no rule gives: the sum of a
single element is that element (log 23), and AMSCL over negative entries or NaN of the ring takes the largest of the values
that are not NaN (log 63). -/
def Obligations.ReductionAndAbsmaxResults : Prop :=
  (∀ (s : State) (d a : Reg) (b : Src) (fa : Bool),
     let h := s.me
     let n := (h.srcWord b).toNat
     n ≤ h.vlmaxSew → b.isNumberKind = true → Unbound h [d, a] →
     (let u : Uses := { s.elemUses .vint d a b fa false with work := [(.vint, s.tileCycles n)] }
      s.Admits u → ∀ e ∈ integerReductionTable,
       ∃ x, exec (e.1 d a b fa) s = .next (s.after u fun h => h.writeV d x) ∧
         elem h.sew x 0 = e.2 h.sew (present h a n) ∧ ∀ j, j ≠ 0 → elem h.sew x j = vElem h d j) ∧
     (let u : Uses := { s.elemUses .vint d a b fa false with
        illegal := h.sewCode == 0, work := [(h.floatClass, s.tileCycles n)] }
      s.Admits u → ∀ e ∈ floatReductionTable,
       ∃ x, exec (e.1 d a b fa) s = .next (s.after u fun h => h.writeV d x) ∧
         elem h.sew x 0 = e.2.2 h.fmt (fixedSum (fun i x y => e.2.1 h.fmt { s.rounding 0 with r := 0, e := i } x y)
           ((List.range n).map fun j => if h.masked j then some (vElem h a j) else none)) % 2 ^ h.sew ∧
         ∀ j, j ≠ 0 → elem h.sew x j = vElem h d j)) ∧
  (∀ (s : State) (d a b : Reg) (fa : Bool),
     (let u : Uses :=
       { illegal := s.me.sewCode == 0
         regs := [⟨0, a, s.me.isVector a⟩, ⟨1, b, isBelow s.me.ringCount b⟩]
         vown := true, sources := [⟨0, .v, a, fa⟩], reads := [a], lanes := true, commits := true
         work := [(s.me.floatClass, s.tileCycles s.me.tile)] }
      let h := (s.begun u).me
      s.Admits u → Unbound h [a] → b.toNat < 16 →
       ∃ t, exec (.vamax a b fa) s = .next t ∧ t.me.pc = s.me.pc + 4 ∧ t.me.x = h.x ∧ t.me.vec.v = h.vec.v ∧
         (vget t.me.vec.rings b.toNat {}).head = (vget h.vec.rings b.toNat {}).head + 1 ∧
         (∀ k, k ≠ b.toNat → vget t.me.vec.rings k {} = vget h.vec.rings k {}) ∧
         ∀ k : BitVec 4, vget (vget t.me.vec.rings b.toNat {}).entries k.toNat 0 =
           if k = (vget h.vec.rings b.toNat {}).head then
             BitVec.ofNat 32 (ringEntry (((List.range h.tile).filter h.masked).map fun j => h.fmt.value (vElem h a j)))
           else vget (vget h.vec.rings b.toNat {}).entries k.toNat 0) ∧
     (let u : Uses :=
       { illegal := decide (7 ≤ b.toNat)
         regs := [⟨2, d, isScalar d⟩, ⟨0, a, isBelow s.me.ringCount a⟩]
         vown := true, dests := [(.x, d)], work := [(s.me.floatClass, s.tileCycles s.me.tile)] }
      let entries := (vget s.me.vec.rings a.toNat {}).entries.toList.map fun e => Fmt.fp32.value e.toNat
      s.Admits u → ∀ m ∈ entries, m.isNaN = false → (∀ v ∈ entries, v.isNaN = false → v.le m = true) →
       exec (.amscl d a b) s = .next (s.after u fun h => h.writeX d (ringScale m b.toNat))))


namespace Sys2Proof.Stated

open Sys2Proof.Machine

/-! ### Vector memory and streams (07_streams_and_vector_memory) -/

/-- An instruction completes with its own effect, which leaves the state `t`: the hart goes on at the next instruction. -/
def Goes (i : Instr) (s : State) (u : Uses) (t : State) : Prop :=
  exec i s = .next (t.complete u (s.me.pc + word u.len))

/-- The active elements of the tile, in increasing linear index. -/
def actives (h : Hart) : List Nat := (List.range h.tile).filter h.active

/-- Every active element of a tile can be accessed at `addr`: aligned, and leading to `p` (R162). -/
structure Reachable (s : State) (g : Agent) (k : Access) (addr : Nat → Word) (p : Nat → Place) (js : List Nat) : Prop where
  aligned : ∀ j ∈ js, (addr j).toNat % s.me.esize = 0
  placed : ∀ j ∈ js, s.locate g k (addr j) = .ok (p j)

/-- The elements listed can be loaded: no watermark holds them back, and none is poisoned (R136, R285). -/
structure Loadable (s : State) (addr : Nat → Word) (p : Nat → Place) (js : List Nat) : Prop
    extends Reachable s .reader .load addr p js where
  passed : ∀ j ∈ js, s.watermarkStall (addr j) = .ok none
  clean : ∀ j ∈ js, s.meetsPoison (p j) s.me.esize = false

/-- No copy command of the hart is in the way of its elements, none of which has been done yet (R150, R162). -/
def Begins (s : State) (g : Agent) (k : Access) (addr : Nat → Word) : Prop :=
  s.me.eltDone = 0 ∧ s.copyBlocks g k (s.pendingAddresses addr) s.me.esize = false

/-- The state with the accesses of a vector load counted, those of its watermark words included, and its passes queued. -/
def accessed (s : State) (addr : Nat → Word) (p : Nat → Place) (js : List Nat) : State :=
  let t := s.countAll (js.map p)
  (t.countAll (js.flatMap fun j => t.guardPlaces (addr j))).chargePasses (js.map p)

/-- A result of a vector load is on its way to D, with one read for each element listed.  As its reads find memory now,
the hart's own open strip included, it brings those elements, and the others as they were. -/
def Arrives (s : State) (d : Reg) (p : Nat → Place) (js : List Nat) (f : Fill) : Prop :=
  f.vector = true ∧ f.reg = d ∧ f.reads.map (fun r => (r.place, r.bytes)) = js.map (fun j => (p j, s.me.esize)) ∧
    ∀ j, elem s.me.sew (s.performFill f).value j =
      if j ∈ js then s.viewed.readPlace (p j) s.me.esize % 2 ^ s.me.sew else vElem s.me d j

/-- base + r·vst + e·esize (R164). -/
def byRows (h : Hart) (base : Word) (j : Nat) : Word := base + word (rowOf h j) * h.vst + word (colOf h j * h.esize)

/-- base + e·vst + r·esize (R164). -/
def byColumns (h : Hart) (base : Word) (j : Nat) : Word := base + word (colOf h j) * h.vst + word (rowOf h j * h.esize)

/-- A + sext(index) × esize (R166). -/
def byIndex (h : Hart) (base : Word) (b : Reg) (j : Nat) : Word :=
  base + BitVec.ofInt 64 (signed h.sew (vElem h b j) * h.esize)

/-- The link of element j of the tile of a hart, where it still holds in the state σ (R168). -/
def linkAt (h : Hart) (σ : State) (j : Nat) : Option Link :=
  (h.links[j]?).filter fun l => h.active j && l.active && l.sew.toNat == h.sewCode && σ.generationOf l.place == l.gen

/-- The first n elements of a VSTC performed, each with its check: an element whose link holds is stored (R168). -/
def conditional (h : Hart) (data : Nat → Nat) (t : State) : Nat → State
  | 0 => t
  | n + 1 =>
    let σ := conditional h data t n
    match linkAt h σ n with
    | some l => (σ.performStores [(l.place, h.esize, data n)]).count l.place
    | none => σ

/-- The first n elements of a payload stored, the k-th of them at `addr k` (R170). -/
def appended (size : Nat) (addr : Nat → Word) (data : Nat → Nat) (t : State) : Nat → State
  | 0 => t
  | n + 1 =>
    let σ := appended size addr data t n
    match σ.locate .writer .store (addr n) with
    | .ok q => (σ.performStores [(q, size, data n)]).count q
    | .error _ => σ

/-- A + OFF8 × 64 (R164). -/
def vectorBase (h : Hart) (a : Reg) (off : BitVec 8) : Word := BitVec.ofInt 64 ((h.readX a).toInt + off.toInt * 64)

/-- VLMAX(64-bit) of R29: lanes × 512 ÷ (partition × 2N). -/
def vlmaxFor (s : State) (n : Nat) : Nat :=
  s.hartLanes s.cur.core s.me * 512 / (s.me.link.part.inverse * (2 * n))

end Sys2Proof.Stated

/-- VLD, VLDS, VLDX, VLDFF and VLDL (R162, R164, R165, R166, R167) with every active element loadable: D is empty until
their reads have performed and the tile arrives, and inactive elements keep their values.  VLDFF that stops past its
first active element completes with the elements before it, and m0 cleared from there on.  VLDL makes a link of every
active element. -/
def Obligations.VectorLoadsComplete : Prop :=
  ∀ (s : State) (d a b : Reg) (off : BitVec 8) (fa fb : Bool) (p : Nat → Place),
    let h := s.me
    let u : Uses := { s.vmemUses d a fa with dests := [(.v, d)], writes := [d] }
    let ux : Uses := { s.indexedUses d a b fa fb with dests := [(.v, d)], reads := [b], writes := [d] }
    let rows := byRows h (vectorBase h a off)
    let cols := byColumns h (vectorBase h a off)
    let idx := byIndex h (h.readX a) b
    let lands (i : Instr) (u : Uses) (addr : Nat → Word) : Prop :=
      ∃ f, Goes i s u ((accessed s addr p (actives h)).modifyMe fun h => h.await f) ∧ Arrives s d p (actives h) f
    Unbound h [d, b] →
    (s.Admits u → Begins s .reader .load rows → Loadable s rows p (actives h) →
      lands (.vld d a off fa) u rows ∧ lands (.vldff d a off fa) u rows) ∧
    (s.Admits u → Begins s .reader .load cols → Loadable s cols p (actives h) → lands (.vlds d a off fa) u cols) ∧
    (s.Admits ux → Begins s .reader .load idx → Loadable s idx p (actives h) →
      lands (.vldx d a b fa fb) ux idx ∧
      ∃ f ls t, Goes (.vldl d a b fa fb) s ux t ∧ Arrives s d p (actives h) f ∧
        t.me = { h.await f with links := ls } ∧ t.dev.mem = s.dev.mem ∧ ls.length = h.tile ∧
        ∀ j l, ls[j]? = some l → l.active = h.active j ∧
          (l.active = true → l.va = idx j ∧ l.place = p j ∧ l.sew.toNat = h.sewCode ∧ l.gen = t.generationOf (p j))) ∧
    (∀ k m, s.Admits u → Begins s .reader .load rows → k < h.tile → h.active k = true → (rows k).toNat % h.esize = 0 →
      (∃ c, s.locate .reader .load (rows k) = .error c ∧ (c = causePfault ∨ c = causeAccess ∨ c = causePromtype)) →
      m < k → h.active m = true →
      let js := (actives h).filter (· < k)
      Loadable s rows p js →
      ∃ f y, Goes (.vldff d a off fa) s u ((accessed s rows p js).modifyMe fun h => (h.await f).writeM 0 y) ∧
        Arrives s d p js f ∧
        ∀ j, bitAt y j = (bitAt (h.readM 0) j && !(decide (k ≤ j) && decide (j < h.tile))))


/-- VST, VSTS and VSTX (R162, R164, R166, R178): the active elements join the open strip in increasing linear index,
which has room for the store; memory itself does not change before the strip commits.  VSCADD (R169): the additions of
the active elements, on memory pages, join the open strip, integer with vst 0 and float with vst 1; without DET the
float ones are free of order among themselves. -/
def Obligations.VectorStoresAndScatterAdd : Prop :=
  (∀ (s : State) (d a b : Reg) (off : BitVec 8) (fa fb fd : Bool) (p : Nat → Place),
     let h := s.me
     let u : Uses := { s.vmemUses d a fa with sources := [⟨0, .x, a, fa⟩, ⟨2, .v, d, fd⟩], reads := [d] }
     let ux : Uses := { s.indexedUses d a b fa fb with
       sources := [⟨0, .x, a, fa⟩, ⟨1, .v, b, fb⟩, ⟨2, .v, d, false⟩], reads := [b, d] }
     let joins (i : Instr) (u : Uses) (addr : Nat → Word) : Prop :=
       Begins s .writer .store addr → Reachable s .writer .store addr p (actives h) →
       let ps := (actives h).map p
       let item : StripItem := .stores ((actives h).map fun j => (p j, h.esize, vElem h d j))
       Goes i s u ((((s.countAll ps).modifyMe fun h => { h with strip := h.strip ++ [item] }).chargePasses ps).modifyMe
         fun h => { h with stripCount := h.stripCount + 1 })
     Unbound h [d, b] → h.stripCount.toNat < 16 →
     (s.Admits u → joins (.vst d a off fa fd) u (byRows h (vectorBase h a off)) ∧
       joins (.vsts d a off fa fd) u (byColumns h (vectorBase h a off))) ∧
     (s.Admits ux → joins (.vstx d a b fa fb) ux (byIndex h (h.readX a) b))) ∧
  (∀ (s : State) (d a b : Reg) (fa fb : Bool) (pa : Nat → Nat),
     let h := s.me
     let u : Uses := { s.indexedUses d a b fa fb with
       sources := [⟨0, .x, a, fa⟩, ⟨1, .v, b, fb⟩, ⟨2, .v, d, false⟩], reads := [b, d] }
     let item (j : Nat) : StripItem := .scatter
       { pa := BitVec.ofNat 52 (pa j), log2Size := Fin.ofNat 4 h.sewCode, isFloat := h.vst == 1, bf := h.bf
         addend := word (vElem h d j) } (h.vst == 1 && !h.det)
     s.Admits u → Unbound h [d, b] → h.stripCount.toNat < 16 → h.eltDone = 0 →
     (h.vst = 0 ∨ (h.vst = 1 ∧ h.sewCode ≠ 0 ∧ (h.det = true → h.scope = 0))) →
     Reachable s .memory .rmw (byIndex h (h.readX a) b) (fun j => .main (pa j)) (actives h) →
     Goes (.vscadd d a b fa fb) s u ((s.countAll ((actives h).map fun j => .main (pa j))).modifyMe fun h =>
       { h with strip := h.strip ++ (actives h).map item, stripCount := h.stripCount + 1 }))


/-- VSTC (R168): the strip commits first; element by element, one whose link still holds is stored at once and has its
bit of the mask D set, and every other one has it cleared.  CAPPEND (R170) on a work vector with room for its active
elements: D takes TAIL, TAIL advances by their number, and the k-th of them is stored at BASE + (TAIL + k) × esize;
without room D is all ones and nothing is stored, for an empty tile too, which is the model's choice (log 89).  So in one act,
where the agenda lets no other agent act between the elements (log 2). -/
def Obligations.StoreConditionalAndAppend : Prop :=
  (∀ (s : State) (d a : Reg) (fa : Bool),
     let u : Uses :=
       { regs := [⟨2, d, isMask d⟩, ⟨0, a, s.me.isVector a⟩], vown := true, sources := [⟨0, .v, a, fa⟩], reads := [a]
         lanes := true, commits := true, orders := true, work := [(.vmem, s.tileCycles s.me.tile)] }
     let t := s.begun u
     let h := t.me
     let σ := conditional h (vElem h a) t
     s.Admits u → Unbound h [a] → h.pace = none → t.linksBusy = false →
     t.blocksWrite ((h.links.filter (·.active)).map fun l => (l.place, h.esize)) = false →
     (∀ j l, j < h.tile → linkAt h (σ j) j = some l → (∀ c n, l.place ≠ .buffer c .w n) ∧ l.place.isLost (σ j).dev = false) →
     let stored := (List.range h.tile).filterMap fun j => (linkAt h (σ j) j).map (·.place)
     ∃ x, Goes (.vstc d a fa) s u (((σ h.tile).chargePasses stored).modifyMe fun h => h.writeM d x) ∧
       ∀ j, bitAt x j = true ↔
         if j < h.tile ∧ h.inRange j = true then (linkAt h (σ j) j).isSome = true else bitAt (h.readM d) j = true) ∧
  (∀ (s : State) (d a b : Reg) (fa fb : Bool) (pa : Nat),
     let u : Uses :=
       { regs := [⟨2, d, isG d⟩, ⟨0, a, isAddress a⟩, ⟨1, b, s.me.isVector b⟩], vown := true
         sources := [⟨0, .x, a, fa⟩, ⟨1, .v, b, fb⟩], dests := [(.x, d)], reads := [b], lanes := true, commits := true
         orders := true, work := [(.vmem, s.tileCycles s.me.tile)] }
     let s1 := s.begun u
     let h := s1.me
     let base := word (s1.getWord pa)
     let tail := word (s1.getWord (pa + 8))
     let js := (List.range h.tile).filter h.masked
     let n := js.length
     let addr (k : Nat) : Word := base + (tail + word k) * word h.esize
     let s2 := s1.count (.main pa)
     s.Admits u → Unbound h [b] → h.pace = none → h.appending = none → (h.readX a).toNat % 32 = 0 →
       s1.place .memory .rmw (h.readX a) = .ok (.main pa) →
     s1.dev.isPoisoned pa = false →
     (s1.getWord (pa + 16) < tail.toNat + n → s1.blocksWrite [(.main pa, 32)] = false →
       Goes (.cappend d a b fa fb) s u (s2.modifyMe fun h => h.writeX d (BitVec.allOnes 64))) ∧
     (tail.toNat + n ≤ s1.getWord (pa + 16) →
       let slots := (List.range n).map addr
       let places := slots.filterMap fun va => (s1.locate .writer .store va).toOption
       let σ := appended h.esize addr (fun k => vElem h b ((js[k]?).getD 0))
         (((if n = 0 then s2 else s2.putWord (pa + 8) (tail.toNat + n)).chargePasses places).modifyMe fun h => h.writeX d tail)
       s1.copyBlocks .writer .store slots h.esize = false →
       s1.blocksWrite ((.main pa, 32) :: places.map fun p => (p, h.esize)) = false →
       (∀ k, k < n → (addr k).toNat % h.esize = 0 ∧ ∃ q, (σ k).locate .writer .store (addr k) = .ok q) →
       Goes (.cappend d a b fa fb) s u (σ n)))

/-- STRIPC and the fences (R179, R282, R79): the open strip commits, its effects in program order, and the count of its
stores returns to 0; FENCE_IFETCH also forgets the blocks fetched.  A full fence and an acquire fence come after every read
of the hart (R305).  A full fence and a release fence go on when what they cover has performed under VCFG.SCOPE, the operand
reads of follow-ons and, for SYSTEM, the pushes to other devices; the others do not wait for those (R317, R326).  The bytes
of main memory after a commit are those of the strip's effects in order, where no float addition stands in the strip, whose
sum is open (R75). -/
def Obligations.CommitsAndFences : Prop :=
  ∀ s : State,
    let u : Uses := { commits := true }
    let acquire : Uses := { commits := true, orders := true }
    let full : Uses := { commits := true, orders := true, releases := some s.me.systemScope }
    let release : Uses := { commits := true, releases := some s.me.systemScope }
    let commits (t : State) : Prop :=
      t.me.strip = [] ∧ t.me.stripCount = 0 ∧
      ((∀ a free, StripItem.scatter a free ∈ s.me.strip → a.isFloat = false ∧ free = false) →
        t.dev.mem = s.viewed.dev.mem)
    let ordered (t : State) : Prop := ∀ f ∈ t.me.fills, f.reads = []
    let covered (t : State) : Prop :=
      t.me.followPending = false ∧ (s.me.systemScope = true → t.pushesOf s.cur.core s.cur.ctx none = false)
    (s.Admits u →
      Goes .stripc s u (s.begun u) ∧ Goes .fenceIfetch s u ((s.begun u).modifyMe fun h => { h with blocks := [] }) ∧
      commits (s.begun u)) ∧
    (s.Admits acquire →
      Goes .fenceAcq s acquire (s.begun acquire) ∧ commits (s.begun acquire) ∧ ordered (s.begun acquire)) ∧
    (s.Admits full →
      Goes .fenceFull s full (s.begun full) ∧ commits (s.begun full) ∧ ordered (s.begun full) ∧ covered (s.begun full)) ∧
    (s.Admits release →
      Goes .fenceRel s release (s.begun release) ∧ commits (s.begun release) ∧ covered (s.begun release))

/-- The stream instructions (R171, R172, R173, R175, R176) on the stream that a field names: SSPEC from 64 bytes that keep
R172, SBIND, SUNBIND, SBAR, SCOND, SPOS, SSTART, and SWAIT on a stream that has settled.  What a stream has fetched ahead
is dropped at SBAR, whose streams then wait for the pushes sent so far, at SCOND and at SSTART (R176, R319).  An addition at
FLAG that the stream which SSPEC replaces has still to make stays owed: the model's reading of R175 (log 74). -/
def Obligations.StreamInstructionsComplete : Prop :=
  ∀ (s : State) (d a : Reg) (b : Src) (fa : Bool) (p : Place),
    let i : StreamId := Fin.ofNat 8 d.toNat
    let here (u : Uses) : State := s.begun u
    let set (i : StreamId) (f : Stream → Stream) (h : Hart) : Hart :=
      { h with streams := Vector.ofFn fun j => if j = i then f h.streams[j] else h.streams[j] }
    let uSpec : Uses :=
      { regs := [⟨2, d, isBelow s.me.streamCount d⟩, ⟨0, a, isAddress a⟩], sources := [⟨0, .x, a, fa⟩], commits := true }
    let uCond : Uses :=
      { len := srcBytes b, regs := [⟨2, d, isBelow s.me.streamCount d⟩, ⟨0, a, isAddress a⟩] ++ srcField isScalar b
        sources := ⟨0, .x, a, fa⟩ :: srcSource .x b, commits := true }
    let uPos : Uses := { regs := [⟨2, d, isScalar d⟩, ⟨0, a, isBelow s.me.streamCount a⟩], dests := [(.x, d)] }
    let uOne (commits : Bool) : Uses := { regs := [⟨2, d, isBelow s.me.streamCount d⟩], commits }
    let uBind : Uses := { regs := [⟨2, d, isBelow s.me.streamCount d⟩, ⟨0, a, s.me.isVector a⟩] }
    let uBar : Uses := { regs := [⟨0, a, isScalar a⟩], sources := [⟨0, .x, a, fa⟩], commits := true }
    (let va := (here uSpec).me.readX a
     let spec := BitVec.ofNat 512 ((here uSpec).viewed.readPlace p 64)
     let t : Stream := { spec, phase := .loaded }
     s.Admits uSpec → va.toNat % 64 = 0 → (here uSpec).place .memory .load va = .ok p →
      (here uSpec).isPoisonedAt p 64 = false → t.wfSpec = true →
      Goes (.sspec d a fa) s uSpec ((((here uSpec).performBefore [PendingRead.now p 64]).count p).modifyMe fun h =>
        set i (fun old => { t with bound := old.bound })
          { h with additions := h.additions ++
              if (h.stream i).addDue then [{ id := i, stream := h.stream i, before := h.pushes }] else [] })) ∧
    (s.Admits uBind → Goes (.sbind d a fa) s uBind (s.modifyMe fun h =>
      { h with streams := Vector.ofFn fun j =>
          { h.streams[j] with bound :=
              if j = i then some a else if h.streams[j].bound = some a then none else h.streams[j].bound } })) ∧
    (s.Admits (uOne false) → Goes (.sunbind d) s (uOne false) (s.modifyMe (set i fun t => { t with bound := none }))) ∧
    (s.Admits uBar → Goes (.sbar a fa) s uBar ((here uBar).modifyMe fun h =>
      { h with streams := Vector.ofFn fun j =>
          if (h.readX a).getLsbD j.val = true ∧ h.streams[j].isOutput = false
          then { h.streams[j] with ahead := [], after := h.pushes } else h.streams[j] })) ∧
    (let va := (here uCond).me.readX a
     s.Admits uCond → (s.me.stream i).phase ≠ .unset → va.toNat % 8 = 0 →
      (here uCond).place .memory .load va = .ok p →
      Goes (.scond d a b fa) s uCond ((here uCond).modifyMe (set i fun t =>
        { t with cond := va, threshold := (here uCond).me.srcWord b, phase := .armed, condFault := none, ahead := [] }))) ∧
    (let t := s.me.stream (Fin.ofNat 8 a.toNat)
     s.Admits uPos → Goes (.spos d a) s uPos (s.modifyMe fun h =>
       h.writeX d (if t.phase = .unset then 0 else t.position))) ∧
    (s.Admits (uOne true) → (s.me.stream i).phase ≠ .unset →
      Goes (.sstart d) s (uOne true)
        ((here (uOne true)).modifyMe (set i fun t => { t with phase := .running, condFault := none, ahead := [] }))) ∧
    (let t := (here (uOne true)).me.stream i
     s.Admits (uOne true) → (s.me.stream i).phase ≠ .unset → t.condFault = none →
      (t.isOutput = false → t.phase = .running ∨ t.phase = .done) →
      (t.isOutput = true → t.phase = .done ∧ (t.hasDoneAdd = true → t.doneAdd = .made) ∧
        (here (uOne true)).pushesOf s.cur.core s.cur.ctx (some i) = false) →
      Goes (.swait d) s (uOne true) (here (uOne true)))

/-- A pop and a push (R173) in an instruction of one source and one destination, VABS: the source name is bound to a
local input stream whose tile is held whole, and the destination name to an output stream.  The elements of the stream
stand in for the source, the results of the active elements below TOTAL join the open strip at their addresses, and both
positions advance by a tile, no further than TOTAL; no vector register changes. -/
def Obligations.StreamOperands : Prop :=
  ∀ (s : State) (d a : Reg) (fa : Bool) (i o : StreamId) (x : Nat → Nat) (p : Nat → Place),
    let h := s.me
    let u := s.unaryUses .vint d a fa
    let n := h.tile
    s.Admits u → h.streamOf a = some i → h.streamOf d = some o → i ≠ o → h.eltDone = 0 → h.cmds = [] →
    (h.stream i).remote = false → (h.stream o).remote = false →
    (h.stream i).total < 2 ^ 63 → (h.stream o).total < 2 ^ 63 →
    (∀ j, j < h.popNeed (h.stream i) → (h.stream i).ahead[j]? = some (.value (x j))) →
    (∀ j ∈ actives h, (h.stream o).position.toNat + j < (h.stream o).total →
      s.locate .writer .store ((h.stream o).address ((h.stream o).position.toNat + j)) = .ok (p j)) →
    let result (j : Nat) : Nat :=
      (signed h.sew (if (h.stream i).position.toNat + j < (h.stream i).total then x j else 0)).natAbs % 2 ^ h.sew
    let below := (actives h).filter fun j => (h.stream o).position.toNat + j < (h.stream o).total
    ∃ t, exec (.vabs d a fa) s = .next t ∧ t.me.pc = h.pc + 4 ∧ t.me.x = h.x ∧ t.me.vec = h.vec ∧
      t.dev.mem = s.dev.mem ∧
      t.me.strip = h.strip ++ [.stores (below.map fun j => (p j, 2 ^ (h.stream o).esz, result j))] ∧
      (t.me.stream i).position = word (min ((h.stream i).position.toNat + n) (h.stream i).total) ∧
      (t.me.stream o).position = word (min ((h.stream o).position.toNat + n) (h.stream o).total) ∧
      ∀ j, j ≠ i → j ≠ o → t.me.stream j = h.stream j

/-- The tile's configuration in a user context (R27, R29, R30, R185, R186, R187, R189, R190, R191, R192): VCONF, VSETL,
VSETR, VSETCFG with a valid image, VSETST and VCFGRD. -/
def Obligations.VectorConfigCompletes : Prop :=
  ∀ (s : State) (d : Reg) (b : Src) (sel : Reg), s.cur.ctx ≠ 4 →
    let uConf : Uses := { configUses d b with vown := true, commits := true }
    let u := configUses d b
    let uRead : Uses := { regs := [⟨2, d, isScalar d⟩], dests := [(.x, d)], commits := true }
    let h := s.me
    let n := h.srcWord b
    (let t := s.begun uConf
     let v := t.me.srcWord b
     let m := vlmaxFor t v.toNat
     s.Admits uConf → (v = 8 ∨ v = 16 ∨ v = 32 ∨ v = 64) →
      Goes (.vconf d b) s uConf (t.modifyMe fun h =>
        ({ h with
            names := BitVec.ofNat 7 v.toNat
            vec := { h.vec with
              v := Vector.replicate 64 0
              m := Vector.ofFn fun i : Fin 8 => if i = 0 then 2 ^ (8 * m) - 1 else 0 }
            vfull := BitVec.allOnes 64
            vl := 0
            vlmax := BitVec.ofNat 16 m
            streams := h.streams.map fun t => { t with bound := none }
            shrunk := false
            reloc := false } : Hart).writeX d (word m))) ∧
    (let m := vlmaxFor s h.names.toNat
     let vl := min n.toNat (min (m * 64 / h.sew / h.vrows.toNat) (s.myCore.grant.toNat * 64 / h.sew))
     let uSet : Uses := { u with vown := decide (m < h.vlmax.toNat) }
     s.Admits uSet →
      ∃ vec, Goes (.vsetl d b) s uSet ((s.modifyMe fun h =>
          { h with vec, shrunk := h.shrunk || decide (m < h.vlmax.toNat), vlmax := BitVec.ofNat 16 m, reloc := false
                   vl := BitVec.ofNat 32 vl }).wakeTile.modifyMe fun h => h.writeX d (word vl)) ∧
        vec.rings = h.vec.rings ∧ vec.bufs = h.vec.bufs ∧
        (h.vlmax.toNat ≤ m → vec = h.vec) ∧
        (m < h.vlmax.toNat → (∀ r : Fin 64, vec.v[r] = h.vec.v[r] % 2 ^ (64 * m)) ∧
          ∀ r : Fin 8, vec.m[r] = h.vec.m[r] % 2 ^ (8 * m))) ∧
    (s.Admits u → 1 ≤ n.toNat → n.toNat ≤ 32 → Goes (.vsetr d b) s u (s.modifyMe fun h =>
      ({ h with vrows := BitVec.ofNat 6 n.toNat, vl := 0 } : Hart).writeX d (word h.vrows.toNat))) ∧
    (s.Admits u → n.toNat < 2 ^ 11 → n.getLsbD 3 = false → n.toNat / 2 ^ 4 % 8 < 6 →
      (n.toNat / 2 ^ 8 < 5 ∨ n.toNat / 2 ^ 8 = 5 ∧ s.myCore.srhen.getLsbD 0 = true) →
      Goes (.vsetcfg d b) s u (s.modifyMe fun h =>
        ({ h with vcfg := n, vl := if n.toNat % 4 = h.vcfg.toNat % 4 then h.vl else 0 } : Hart).writeX d h.vcfg)) ∧
    (s.Admits u → Goes (.vsetst d b) s u (s.modifyMe fun h => ({ h with vst := n } : Hart).writeX d h.vst)) ∧
    (s.Admits uRead → Goes (.vcfgrd d sel) s uRead ((s.begun uRead).modifyMe fun h =>
      h.writeX d (match sel.toNat with
        | 0 => h.vcfg
        | 1 => word h.vl.toNat
        | 2 => word h.vrows.toNat
        | 3 => h.vst
        | 4 => word h.names.toNat
        | 5 => word (h.vlmax.toNat * 64 / h.sew)
        | 6 => word ((if h.vlazy then 4 else 0) + (if h.reloc then 2 else 0) + (if h.shrunk then 1 else 0))
        | _ => if h.gang = .lower then 1 else 0)))

/-- VSAVE and VRESTORE (R193, R414): a vector image of 2240 + 8V + 8NV bytes, every byte of which can be stored, is
written whole; one that can be read whole, with the header that R414 gives, is loaded under its own N, and SHRUNK is set
where the image's V exceeds the new VLMAX and stays where it was set (R198).  That the SHRUNK of the image sets it too, and
that an image counts one access on each of its pages, are the model's choices (logs 73 and 77). -/
def Obligations.VectorImagesComplete : Prop :=
  ∀ (s : State) (a : Reg) (fa : Bool),
    let u : Uses := { regs := [⟨0, a, isAddress a⟩], sources := [⟨0, .x, a, fa⟩], vown := true, commits := true }
    let bytes (v n : Nat) : Nat := 2240 + 8 * v + 8 * n * v
    (let u : Uses := { u with orders := true }
     let t := s.begun u
     let h := t.me
     let va := h.readX a
     let places := t.placeRuns .memory .store (runsOf va (bytes h.vlmax.toNat h.names.toNat))
     s.Admits u → va.toNat % 64 = 0 → places.2 = none →
      Goes (.vsave a fa) s u (t.writeRuns places.1 (vectorImage h.vec h.vlmax.toNat h.names.toNat h.shrunk))) ∧
    (let t := s.begun u
     let va := t.me.readX a
     let header := t.readImage .memory va 64
     let hd := given 0 header
     let image := t.readImage .memory va (bytes (fieldOf hd 128 64) (fieldOf hd 64 64))
     let x := given 0 image
     let n := fieldOf x 64 64
     let v := fieldOf x 128 64
     let m := vlmaxFor t (n % 128)
     s.Admits u → va.toNat % 64 = 0 → Succeeds header → badHeader hd = none → Succeeds image → s.cur.ctx ≠ 4 →
      Goes (.vrestore a fa) s u ((t.countImage .memory va (bytes (fieldOf hd 128 64) (fieldOf hd 64 64))).modifyMe fun h =>
        { h with
          names := BitVec.ofNat 7 n
          vec := unpackVector x m
          vfull := BitVec.allOnes 64
          vlmax := BitVec.ofNat 16 m
          vl := 0
          streams := h.streams.map fun t => { t with bound := none }
          shrunk := h.shrunk || bitAt x 192 || decide (m < v) }))

/-- GANG and UNGANG (R199, R200, R201): the lower hart of a rendezvous goes on ganged with N its own, D = 0, and the
upper one is parked; a hart that R199 refuses gets 1, a release answers its status, and UNGANG separates the pair. -/
def Obligations.GangCompletes : Prop :=
  ∀ (s : State) (d : Reg) (v : Word),
    let u : Uses := { regs := [⟨2, d, isScalar d⟩], dests := [(.x, d)], vown := true, commits := true }
    let uGang : Uses := { u with parks := isUpper s.cur.core }
    let t := s.begun u
    let h := t.me
    let c := s.cur.core
    let e := upperCore c
    let upper := t.hart e s.cur.ctx
    s.Admits u →
    (h.verdict = some v → Goes (.gang d) s uGang (t.modifyMe fun h => { h with verdict := none }.writeX d v)) ∧
    (h.verdict = none → h.gang ≠ .parked → t.gangRefused = true →
      Goes (.gang d) s uGang (t.modifyMe fun h => h.writeX d 1)) ∧
    (h.verdict = none → h.gang ≠ .parked → t.gangRefused = false → isUpper c = false →
      t.status e s.cur.ctx = .waiting .gang → d ≠ 0 →
      ∃ r, exec (.gang d) s = .next r ∧ r.me.pc = s.me.pc + 4 ∧ r.me.readX d = 0 ∧ r.me.gang = .lower ∧
        r.me.partner = upper.id ∧ r.me.soloNames = h.names ∧ r.me.names = h.names ∧
        r.me.vlmax = BitVec.ofNat 16
          (((t.core c).lanes + (t.core e).lanes) * 512 / (h.link.part.inverse * (2 * h.names.toNat))) ∧
        r.me.vl = 0 ∧ r.me.vec.v = Vector.replicate 64 0 ∧
        r.status e s.cur.ctx = .waiting .parked ∧ (r.hart e s.cur.ctx).gang = .parked ∧
        (r.hart e s.cur.ctx).x = upper.x ∧ (r.hart e s.cur.ctx).soloNames = upper.names) ∧
    (h.gang ≠ .lower → Goes (.ungang d) s u (t.modifyMe fun h => h.writeX d 1)) ∧
    (h.gang = .lower → s.cur.ctx ≠ 4 → isUpper c = false → d ≠ 0 →
      ∃ r, exec (.ungang d) s = .next r ∧ r.me.pc = s.me.pc + 4 ∧ r.me.readX d = 0 ∧ r.me.gang = .none ∧
        r.me.names = h.soloNames ∧
        r.me.vlmax = BitVec.ofNat 16 ((t.core c).lanes * 512 / (h.link.part.inverse * (2 * h.soloNames.toNat))) ∧
        r.me.vl = 0 ∧ r.me.vec.v = Vector.replicate 64 0)

namespace Sys2Proof.Stated

open Sys2Proof.Machine

/-! ### Matrix unit and generator (12_matrix_and_accumulators, 13_generator_unit) -/

/-- What the accumulator instructions ask beside their own fields: none of them issues before its hart's follow-ons. -/
def Settled (s : State) : Prop := s.me.followPending = false

/-- The bound slot of a handle, all of whose entries can be read. -/
def CleanSlot (s : State) (z : Reg) (q : Slot) : Prop := s.slotOf z = some q ∧ q.poison = []

/-- A handle that is unbound, and the number of the slot that the free list gives it (R242, R244). -/
def Bindable (s : State) (z : Reg) (n : Nat) : Prop := s.slotOf z = none ∧ s.myCore.freeSlots.head? = some n

/-- No copy command in hand of the hart holds a byte of an image at an address (R150, R312). -/
def CopiesClear (s : State) (g : Agent) (k : Access) (va : Word) (n : Nat) : Prop :=
  ∀ r ∈ (s.placeRuns g k (runsOf va n)).1, s.me.copyHolding r.1 r.2.2 = none

/-- The position operand of R245: row in bits 4-0, column in bits 12-8, and the hart's tile within 32 by 32 from there. -/
def At (h : Hart) (b : Src) (rb cb : Nat) : Prop :=
  h.srcWord b = word (rb + 256 * cb) ∧ rb < 32 ∧ cb < 32 ∧ rb + h.vrows.toNat ≤ 32 ∧ cb + h.vl.toNat ≤ 32

/-- What nothing but its own slot changes: memory, the registers and vector contents of the hart, and the slots of every
other handle. -/
def OnlySlot (t r : State) (z : Reg) : Prop :=
  r.dev.mem = t.dev.mem ∧ r.me.x = t.me.x ∧ r.me.vec = t.me.vec ∧ r.me.vcfg = t.me.vcfg ∧
    ∀ y : Reg, y.toNat < 16 → y ≠ z → r.slotOf y = t.slotOf y

end Sys2Proof.Stated


/-- MMA (R235, R236, R238, R239, R68, R69) with every line readable: a handle that is not bound takes a slot, the slot
takes the kind of FMT, entry (i, j) takes the block steps of A-line i with B-line j, onto its old value with ACC, and
ROWPROG is 0.  So in one act, where the agenda lets no other agent act between the rows (log 2). -/
def Obligations.MatrixMultiply : Prop :=
  ∀ (s : State) (z a b : Reg) (fmt : BitVec 4) (kn : BitVec 2) (acc : Bool),
    let u : Uses :=
      { regs := [⟨3, z, isHandle z⟩, ⟨3, a, isHandle a⟩, ⟨3, b, isHandle b⟩], commits := true
        work := [mmaCycles fmt.toNat kn.toNat (isGen a || isGen b)] }
    let t := s.begun u
    let w : MmaWork :=
      { word := s.cur.word, z := z.setWidth 4, fmt, kn, acc, a := t.me.mmaOperand a, b := t.me.mmaOperand b }
    let line (isB : Bool) (l : Nat) : List FVal := (given ([], []) (t.mmaLine w isB l)).1
    let old (i j : Nat) : Nat := (t.slotOf z).elim 0 fun q => entry q.tile i j
    s.Admits u → Settled t → t.me.rowDone = 0 → t.me.pace = none → t.me.cmds = [] →
    w.a.misaligned fmt.toNat = none → w.b.misaligned fmt.toNat = none →
    ((8 ≤ a.toNat ∨ 8 ≤ b.toNat) → fmt ≠ 7 ∧ fmt ≠ 8) →
    (if acc then ∃ q, CleanSlot t z q ∧ q.kind = mmaKind fmt.toNat
      else (t.slotOf z).isSome = true ∨ ∃ n, Bindable t z n) →
    (∀ l, l < 32 → Succeeds (t.mmaLine w false l) ∧ Succeeds (t.mmaLine w true l)) →
    ∃ r q, exec (.mma z a b fmt kn acc) s = .next r ∧ r.me.pc = s.me.pc + 4 ∧ OnlySlot t r z ∧
      r.me.trap.row = 0 ∧ r.slotOf z = some q ∧ q.kind = mmaKind fmt.toNat ∧ q.poison.all (1024 ≤ ·) = true ∧
      ∀ i j, i < 32 → j < 32 → entry q.tile i j =
        blockSteps (mmaKind fmt.toNat) (2 ^ kn.toNat) (if acc then some (old i j) else none) (line false i) (line true j)
          % 2 ^ 64

/-- ZZERO, ZREL and ZSTAT (R242, R244, R247, R251).  That ZZERO of a handle already bound leaves no mark of poison on the
entries it clears is the model's choice (log 81). -/
def Obligations.SlotInstructionsComplete : Prop :=
  ∀ (s : State) (d a : Reg) (q : Slot) (n : Nat),
    (let u : Uses := { illegal := decide (3 ≤ a.toNat), regs := [⟨2, d, isHandle d⟩], commits := true }
     let t := s.begun u
     let kind : ZKind := if a = 0 then .fp64 else if a = 1 then .fp32 else .int32
     s.Admits u → Settled t → t.slotOf d = some q ∨ Bindable t d n →
      ∃ r z, exec (.zzero d a) s = .next r ∧ r.me.pc = s.me.pc + 4 ∧ OnlySlot t r d ∧ r.slotOf d = some z ∧
        z.kind = kind ∧ z.tile = 0 ∧ z.poison = [] ∧
        (t.slotOf d = some q → z.number = q.number) ∧ (Bindable t d n → z.number = BitVec.ofNat 7 n)) ∧
    (let u : Uses := { regs := [⟨2, d, isHandle d⟩], commits := true }
     let t := s.begun u
     s.Admits u → Settled t →
      ∃ r, exec (.zrel d) s = .next r ∧ r.me.pc = s.me.pc + 4 ∧ OnlySlot t r d ∧ r.slotOf d = none ∧
        (t.slotOf d = none → r.myCore.slots = t.myCore.slots)) ∧
    (let u : Uses := { regs := [⟨2, d, isScalar d⟩, ⟨0, a, isHandle a⟩], dests := [(.x, d)], commits := true }
     let t := s.begun u
     let free := ((List.range 128).filter fun n => t.myCore.slots.all fun q => q.number.toNat ≠ n).length
     s.Admits u → Settled t → Goes (.zstat d a) s u (t.modifyMe fun h => h.writeX d
      (match t.slotOf a with
        | none => word free
        | some q => word (2 ^ 63 + (match q.kind with | .fp64 => 0 | .fp32 => 1 | .int32 => 2) * 2 ^ 56
            + q.number.toNat * 2 ^ 48 + free))))

/-- ZSCACC, ZEXT, ZINS and ZAMAX (R71, R246, R248, R249, R250); no entry that they read is poisoned (R140), and the
result of ZEXT is on its way (R32). -/
def Obligations.TileArithmetic : Prop :=
  ∀ (s : State) (d a b : Reg) (pos : Src) (fa fb : Bool) (q p : Slot) (rb cb : Nat),
    (let u : Uses :=
      { regs := [⟨2, d, isHandle d⟩, ⟨0, a, isHandle a⟩, ⟨1, b, s.me.isVector b⟩], vown := true
        sources := [⟨1, .v, b, fb⟩], reads := [b], commits := true, work := [(.zsc, 8)] }
     let t := s.begun u
     let scale (n : Nat) : FVal := Fmt.fp32.value (elem 32 (t.me.readV b) n)
     s.Admits u → Settled t → Unbound t.me [b] → CleanSlot t d q → CleanSlot t a p → q.kind = .fp32 →
      p.kind ≠ .fp64 →
      ∃ r z, exec (.zscacc d a b fb) s = .next r ∧ r.me.pc = s.me.pc + 4 ∧ OnlySlot t r d ∧ r.slotOf d = some z ∧
        z.kind = .fp32 ∧ z.number = q.number ∧
        ∀ i j, i < 32 → j < 32 → entry z.tile i j =
          roundF .fp32 .nearest ((Fmt.fp32.value (entry q.tile i j)).add false
            (((scale i).mul (p.kind.value (entry p.tile i j))).mul (scale (32 + j)))) % 2 ^ 64) ∧
    (let u : Uses :=
      { len := srcBytes pos, regs := [⟨2, d, s.me.isVector d⟩, ⟨0, a, isHandle a⟩] ++ srcField isScalar pos
        vown := true, sources := srcSource .x pos, dests := [(.v, d)], writes := [d], lanes := true, commits := true
        work := [(.vint, s.tileCycles s.me.tile)] }
     let t := s.begun u
     let h := t.me
     let extract (j : Nat) : Nat :=
       let x := entry q.tile (rb + rowOf h j) (cb + colOf h j)
       match q.kind with
       | .int32 => wrap h.sew (saturate h.sew (signed 32 x))
       | .fp32 => roundF h.fmt (t.rounding j) (Fmt.fp32.value (x % 2 ^ 32))
       | .fp64 => roundF h.fmt (t.rounding j) (Fmt.fp64.value x)
     s.Admits u → Settled t → Unbound h [d] → t.slotOf a = some q → At h pos rb cb → (q.kind ≠ .int32 → h.sewCode ≠ 0) →
      (∀ j, j < h.tile → h.masked j = true → 32 * (rb + rowOf h j) + cb + colOf h j ∉ q.poison) →
      ∃ x, Goes (.zext d a pos) s u (t.modifyMe fun h => h.produceV d x) ∧
        ∀ j, elem h.sew x j =
          if j < h.tile then (if h.masked j then extract j % 2 ^ h.sew else 0) else vElem h d j) ∧
    (let u : Uses :=
      { len := srcBytes pos, regs := [⟨2, d, isHandle d⟩, ⟨0, a, s.me.isVector a⟩] ++ srcField isScalar pos
        vown := true, sources := ⟨0, .v, a, fa⟩ :: srcSource .x pos, reads := [a], lanes := true, commits := true
        work := [(.vint, s.tileCycles s.me.tile)] }
     let t := s.begun u
     let h := t.me
     let insert (j : Nat) : Nat :=
       match q.kind with
       | .int32 => wrap 32 (signed h.sew (vElem h a j))
       | .fp32 => roundF .fp32 .nearest (h.fmt.value (vElem h a j))
       | .fp64 => roundF .fp64 .nearest (h.fmt.value (vElem h a j))
     s.Admits u → Settled t → Unbound h [a] → t.slotOf d = some q → At h pos rb cb →
      (q.kind ≠ .int32 → h.sewCode ≠ 0) →
      ∃ r z, exec (.zins d a pos fa) s = .next r ∧ r.me.pc = s.me.pc + u.len ∧ OnlySlot t r d ∧ r.slotOf d = some z ∧
        z.kind = q.kind ∧ z.number = q.number ∧
        ∀ i k, i < 32 → k < 32 →
          let j := (i - rb) * h.vl.toNat + (k - cb)
          let inside := rb ≤ i ∧ i < rb + h.vrows.toNat ∧ cb ≤ k ∧ k < cb + h.vl.toNat ∧ h.active j = true
          entry z.tile i k = (if inside then insert j % 2 ^ 64 else entry q.tile i k) ∧
            (32 * i + k ∈ z.poison ↔ 32 * i + k ∈ q.poison ∧ ¬inside)) ∧
    (let u : Uses :=
      { regs := [⟨0, a, isHandle a⟩, ⟨1, b, isBelow s.me.ringCount b⟩], vown := true, lanes := true, commits := true
        work := [(.vint, s.tileCycles s.me.tile)] }
     let t := s.begun u
     let ring := vget t.me.vec.rings b.toNat {}
     let values := (List.range 1024).map fun n => q.kind.value (entry q.tile (n / 32) (n % 32))
     let new : Ring :=
       { entries := vset ring.entries ring.head.toNat (BitVec.ofNat 32 (ringEntry values)), head := ring.head + 1 }
     s.Admits u → Settled t → CleanSlot t a q → Goes (.zamax a b) s u (t.modifyMe fun h =>
      { h with vec := { h.vec with rings := vset h.vec.rings b.toNat new } }))

/-- ZSAVE and ZLOAD (R251, R252): the exact image of a tile, 8256 bytes, written whole where every byte of it can be
stored, the high half of an FP32 or INT32 entry as zero; or read whole, where every byte can be read and the words keep
the format; neither while a copy command of the hart holds a byte of the image (R312).  That ZLOAD leaves no mark of poison
on the entries it writes is the model's choice (log 81). -/
def Obligations.TileImagesComplete : Prop :=
  ∀ (s : State) (d a : Reg) (fa : Bool) (q : Slot),
    let u : Uses :=
      { regs := [⟨2, d, isHandle d⟩, ⟨0, a, isAddress a⟩], sources := [⟨0, .x, a, fa⟩], commits := true
        work := [(.vmem, 17)] }
    (let u : Uses := { u with orders := true }
     let t := s.begun u
     let va := t.me.readX a
     let places := t.placeRuns .writer .store (runsOf va 8256)
     s.Admits u → Settled t → va.toNat % 64 = 0 → CleanSlot t d q → places.2 = none → CopiesClear t .writer .store va 8256 →
      Goes (.zsave d a fa) s u (t.writeRuns places.1
        (match q.kind with
          | .fp64 => 2 ^ 512 * q.tile
          | .fp32 => 1 + 2 ^ 512 * ofWords 64 ((List.range 1024).map fun n => entry q.tile (n / 32) (n % 32) % 2 ^ 32)
          | .int32 => 2 + 2 ^ 512 * ofWords 64 ((List.range 1024).map fun n => entry q.tile (n / 32) (n % 32) % 2 ^ 32)))) ∧
    (let t := s.begun u
     let va := t.me.readX a
     let image := t.readImage .reader va 8256
     let x := given 0 image
     s.Admits u → Settled t → va.toNat % 64 = 0 → CopiesClear t .reader .load va 8256 →
     Succeeds image → badTileWord x = none → ((t.slotOf d).isSome = true ∨ ∃ n, Bindable t d n) →
      ∃ r z, exec (.zload d a fa) s = .next r ∧ r.me.pc = s.me.pc + 4 ∧ OnlySlot t r d ∧ r.slotOf d = some z ∧
        z.kind = (if x % 4 = 0 then .fp64 else if x % 4 = 1 then .fp32 else .int32) ∧ z.tile = x / 2 ^ 512 ∧
        z.poison = [])

/-- MDSET and MDADV (R237): a descriptor takes A and B, or its address advances by B.  KSET, KSEED, KORG, KFREQ and
KGET (R255, R263, R264, R265, R266, R268), and VGEN (R256, R257, R259, R267).  That KFREQ counts one access on each page
of its table is the model's choice (log 77). -/
def Obligations.DescriptorsAndGenerators : Prop :=
  (∀ (s : State) (d a : Reg) (b : Src) (fa : Bool),
     (let u : Uses :=
       { len := srcBytes b, regs := [⟨2, d, isBelow 8 d⟩, ⟨0, a, isAddress a⟩] ++ srcField isScalar b
         sources := ⟨0, .x, a, fa⟩ :: srcSource .x b, commits := true }
      s.Admits u → Goes (.mdset d a b fa) s u ((s.begun u).modifyMe fun h =>
       { h with md := vset h.md d.toNat { va := h.readX a, stride := h.srcWord b } })) ∧
     (let u : Uses :=
       { len := srcBytes b, regs := [⟨2, d, isBelow 8 d⟩] ++ srcField isScalar b, sources := srcSource .x b
         commits := true }
      s.Admits u → Goes (.mdadv d b) s u ((s.begun u).modifyMe fun h =>
       let m := vget h.md d.toNat {}
       { h with md := vset h.md d.toNat { va := m.va + h.srcWord b, stride := m.stride } }))) ∧
  (∀ (s : State) (d a : Reg) (b : Src) (fa : Bool),
     let uSet : Uses :=
       { len := srcBytes b
         regs := [⟨2, d, decide (8 ≤ d.toNat) && decide (d.toNat < 16)⟩, ⟨0, a, isG a⟩] ++ srcField isScalar b
         sources := ⟨0, .x, a, fa⟩ :: srcSource .x b, commits := true }
     let uSeed : Uses :=
       { len := srcBytes b, regs := [⟨2, d, decide (8 ≤ d.toNat) && decide (d.toNat < 16)⟩] ++ srcField isScalar b
         sources := srcSource .x b, commits := true }
     let uFreq : Uses :=
       { regs := [⟨2, d, decide (8 ≤ d.toNat) && decide (d.toNat < 16)⟩, ⟨0, a, isAddress a⟩]
         sources := [⟨0, .x, a, fa⟩], commits := true }
     let uGet : Uses :=
       { len := srcBytes b
         regs := [⟨2, d, isG d⟩, ⟨0, a, decide (8 ≤ a.toNat) && decide (a.toNat < 16)⟩] ++ srcField isScalar b
         sources := srcSource .x b, dests := [(.x, d)] }
     let uGen : Uses :=
       { illegal := s.me.sewCode == 0
         regs := [⟨2, d, s.me.isVector d⟩, ⟨0, a, decide (8 ≤ a.toNat) && decide (a.toNat < 16)⟩], vown := true
         dests := [(.v, d)], writes := [d], lanes := true, work := [(.gen, s.tileCycles s.me.tile)] }
     let replaced (i : Instr) (u : Uses) (f : Nat → Nat → Prop) : Prop :=
       ∃ k : BitVec 256, Goes i s u ((s.begun u).modifyMe fun h => { h with k := vset h.k (d.toNat - 8) k }) ∧
         f k.toNat (vget (s.begun u).me.k (d.toNat - 8) 0).toNat
     (let w := (s.begun uSet).me.readX a
      let scale := match b with
        | .lit l => l.toNat
        | b => convert .fp64 .fp32 .nearest ((s.begun uSet).me.srcWord b).toNat
      s.Admits uSet → w.toNat / 2 ^ 8 % 2 ^ 8 = 0 → w.toNat / 2 ^ 48 = 0 → w.toNat % 16 < 8 →
       w.toNat / 2 ^ 4 % 8 < 5 → scale / 2 ^ 23 % 2 ^ 8 ≠ 255 →
       replaced (.kset d a b fa) uSet fun k old =>
         k % 2 ^ 64 = w.toNat ∧ k / 2 ^ 64 % 2 ^ 32 = scale % 2 ^ 32 ∧ k / 2 ^ 96 = old / 2 ^ 96) ∧
     (s.Admits uSeed → replaced (.kseed d b) uSeed fun k old =>
       k / 2 ^ 192 = ((s.begun uSeed).me.srcWord b).toNat ∧ k % 2 ^ 192 = old % 2 ^ 192) ∧
     (s.Admits uSet → replaced (.korg d a b fa) uSet fun k old =>
       k / 2 ^ 128 % 2 ^ 23 = ((s.begun uSet).me.readX a).toNat % 2 ^ 23 ∧
         k / 2 ^ 160 % 2 ^ 24 = ((s.begun uSet).me.srcWord b).toNat % 2 ^ 24 ∧
         k % 2 ^ 128 = old % 2 ^ 128 ∧ k / 2 ^ 192 = old / 2 ^ 192) ∧
     (let t := s.begun uFreq
      let va := t.me.readX a
      let table := t.readImage .reader va 256
      let x := given 0 table
      s.Admits uFreq → va.toNat % 64 = 0 → CopiesClear t .reader .load va 256 → Succeeds table →
       Goes (.kfreq d a fa) s uFreq ((t.countImage .reader va 256).modifyMe fun h =>
         { h with freq := vset h.freq (d.toNat - 8) (BitVec.ofNat 2048 x) })) ∧
     (let n := (s.me.srcWord b).toNat
      s.Admits uGet →
       (n < 4 → Goes (.kget d a b) s uGet (s.modifyMe fun h =>
         h.writeX d (word ((vget h.k (a.toNat - 8) 0).toNat / 2 ^ (64 * n))))) ∧
       (64 ≤ n → n < 128 → Goes (.kget d a b) s uGet (s.modifyMe fun h =>
         h.writeX d (word ((vget h.freq (a.toNat - 8) 0).toNat / 2 ^ (32 * (n - 64)) % 2 ^ 32))))) ∧
     (s.Admits uGen → Unbound s.me [d] → WritesActive (.vgen d a) s uGen d fun j =>
       let k := vget s.me.k (a.toNat - 8) 0
       roundF s.me.fmt .nearest (genAt s.me.link k (vget s.me.freq (a.toNat - 8) 0) false (rowOf s.me j) (colOf s.me j))))

namespace Sys2Proof.Stated

open Sys2Proof.Machine

/-! ### The copy engine, synchronisation and launches (06, 14 to 16, 19) -/

/-- A word of main memory that an rmw of the hart reaches (R118, R273): its address is aligned, leads to `pa`, is not
poisoned, and no follow-on of the hart has still to read it (R241). -/
def Home (t : State) (align : Nat) (va : Word) (pa : Nat) : Prop :=
  va.toNat % align = 0 ∧ t.place .memory .rmw va = .ok (.main pa) ∧ t.dev.isPoisoned pa = false ∧
    t.blocksWrite [(.main pa, 8)] = false

/-- Every byte of main memory outside the words listed is as it was. -/
def OnlyWords (t r : State) (pas : List Nat) : Prop :=
  ∀ a, (∀ pa ∈ pas, a < pa ∨ pa + 8 ≤ a) → r.dev.mem.byte a = t.dev.mem.byte a

/-- D in scalar use and the address register A, of an instruction that commits the open strip and writes memory. -/
def syncUses (d a : Reg) (fa : Bool) : Uses :=
  { regs := [⟨2, d, isScalar d⟩, ⟨0, a, isAddress a⟩], sources := [⟨0, .x, a, fa⟩], dests := [(.x, d)], commits := true
    orders := true }

/-- The address register A of an instruction that commits the open strip and writes memory. -/
def addressUses (a : Reg) (fa : Bool) : Uses :=
  { regs := [⟨0, a, isAddress a⟩], sources := [⟨0, .x, a, fa⟩], commits := true, orders := true }

/-- A command enters the queue under the next ticket; behind a store of the open strip it waits for the strip's commit
(R144, R147, R149); `age` is its place in the hand-off order of its core (R77). -/
def queued (age : Nat) (h : Hart) (src dst shape strides : Word) (follow : Option MmaWork)
    (sides : Option (BufId × Nat) × Option (BufId × Nat)) : Hart :=
  let ticket := h.seq + 1
  let held := h.strip.any holdsStore
  { h with
    seq := ticket
    cmds := h.cmds ++
      [{ ticket, pc := h.pc, src, dst, shape, strides, follow, phase := if held then .held else .queued
         srcBuf := sides.1, dstBuf := sides.2, age }]
    strip := h.strip ++ if held then [.command ticket] else [] }

end Sys2Proof.Stated

/-- CPY, CPYMMA and CPYWAIT (R144, R147, R149, R152, R153): a command that the checks pass is queued under the next
ticket, and between memory pages they pass aligned operands; the handle of a CPYMMA is bound as an MMA binds it.  CPYWAIT
answers 0, or the lowest ticket that was discarded, as a result on its way to D (R32), or traps with the lowest one that
was aborted. -/
def Obligations.CopyInstructionsComplete : Prop :=
  ∀ (s : State) (d a b z sa sb : Reg) (fa fb : Bool) (fmt : BitVec 4) (kn : BitVec 2) (acc : Bool),
    let h := s.me
    let work : MmaWork :=
      { word := mmaWord z sa sb fmt kn acc, z := z.setWidth 4, fmt, kn, acc, a := h.mmaOperand sa, b := h.mmaOperand sb }
    (∀ src dst shape strides : Word, shape.toNat / 2 ^ 40 = 0 → shape.toNat % 2 ^ 24 ≠ 0 → shape.toNat / 2 ^ 24 ≠ 0 →
      src.toNat % 8 = 0 → dst.toNat % 8 = 0 → strides.toNat % 8 = 0 → strides.toNat / 2 ^ 32 % 8 = 0 →
      shape.toNat % 8 = 0 → (∃ p, s.place .copy .load src = .ok (.main p)) →
      (∃ p, s.place .copy .store dst = .ok (.main p)) →
      s.checkCopy src dst shape strides = .ok (none, none)) ∧
    (let u : Uses :=
      { regs := [⟨2, d, isG d⟩, ⟨0, a, isAddressPair a⟩, ⟨1, b, isGPair b⟩], vown := h.isFull b && bitAt (h.readX b).toNat 63
        sources := [⟨0, .xs 2, a, fa⟩, ⟨1, .xs 2, b, fb⟩], dests := [(.x, d)] }
     let check := s.checkCopy (h.readX a) (h.readX (a + 1)) (h.readX b) (h.readX (b + 1))
     let sides := given (none, none) check
     s.Admits u → Succeeds check → s.myCore.queuedCopies < 32 →
      Goes (.cpy d a b fa fb) s u ((s.handOff s.cur.core).modifyMe fun h =>
        (queued s.myCore.handed h (h.readX a) (h.readX (a + 1)) (h.readX b) (h.readX (b + 1)) none sides).writeX d (h.seq + 1))) ∧
    (let u : Uses :=
      { len := 8
        regs := [⟨2, d, isGPair d⟩, ⟨0, a, isAddressPair a⟩, ⟨3, z, isHandle z⟩, ⟨3, sa, isHandle sa⟩,
                 ⟨3, sb, isHandle sb⟩]
        vown := h.isFull d && bitAt (h.readX d).toNat 63, sources := [⟨0, .xs 2, a, fa⟩, ⟨2, .xs 2, d, false⟩] }
     let check := s.checkCopy (h.readX a) (h.readX (a + 1)) (h.readX d) (h.readX (d + 1))
     let sides := given (none, none) check
     s.Admits u → Succeeds check → s.myCore.queuedCopies < 32 →
      (if acc then ∃ q, s.slotOf z = some q ∧ q.kind = mmaKind fmt.toNat
        else (s.slotOf z).isSome = true ∨ ∃ n, Bindable s z n) →
      work.a.misaligned fmt.toNat = none → work.b.misaligned fmt.toNat = none →
      ((8 ≤ sa.toNat ∨ 8 ≤ sb.toNat) → fmt ≠ 7 ∧ fmt ≠ 8) →
      ∃ t q, t.me = h ∧ t.dev = s.dev ∧ OnlySlot s t z ∧ t.slotOf z = some q ∧ q.kind = mmaKind fmt.toNat ∧
        (∀ o, s.slotOf z = some o → q = { o with kind := mmaKind fmt.toNat }) ∧
        Goes (.cpymma d a fa z sa sb fmt kn acc) s u ((t.handOff t.cur.core).modifyMe fun h =>
          queued t.myCore.handed h (h.readX a) (h.readX (a + 1)) (h.readX d) (h.readX (d + 1)) (some work) sides)) ∧
    (let u : Uses :=
      { regs := [⟨2, d, isScalar d⟩, ⟨0, a, isG a⟩], sources := [⟨0, .x, a, fa⟩], dests := [(.x, d)], commits := true }
     let t := s.begun u
     let n := if t.me.readX a = 0 ∨ t.me.seq < t.me.readX a then t.me.seq else t.me.readX a
     let due (r : CopyReport) : Prop := r ∈ t.me.copyReports ∧ r.ticket.toNat ≤ n.toNat
     let taken (r : CopyReport) (h : Hart) : Hart := { h with copyReports := eraseFirst (· == r) h.copyReports }
     s.Admits u → (∀ q ∈ t.me.cmds, n.toNat < q.ticket.toNat) → (∀ f ∈ t.me.followOns, n.toNat < f.ticket.toNat) →
      ((¬∃ r, due r) → Goes (.cpywait d a fa) s u (t.modifyMe fun h => h.produceX d 0)) ∧
      (∀ k, due (.discarded k) → (∀ r, due r → r.isAbort = false ∧ (r = .discarded k ∨ k.toNat < r.ticket.toNat)) →
        Goes (.cpywait d a fa) s u (t.modifyMe fun h => (taken (.discarded k) h).produceX d k)) ∧
      (∀ k f, due (.aborted k f) → (∀ r, due r → r.isAbort = true → r = .aborted k f ∨ k.toNat < r.ticket.toNat) →
        exec (.cpywait d a fa) s = .next (((t.modifyMe fun h => (taken (.aborted k f) h).writeX d k).chargeUses u).takeTrap
          { cause := f.cause, val := f.val, elt := f.elt, row := f.row, epc := some (s.me.pc + 4) })))

/-- CBINIT, CBWAIT, CBREL and CBSTAT (R155, R157, R158, R159, R160): CBINIT when no command of the hart names the buffer,
CBREL when no earlier read of the hart has still to reach it; what CBWAIT and CBSTAT answer is on its way to D (R32). -/
def Obligations.CircularBuffersComplete : Prop :=
  ∀ (s : State) (d a b : Reg) (n : Src) (fa fb : Bool),
    (let u : Uses :=
      { regs := [⟨2, d, s.me.isCirc d⟩, ⟨0, a, isAddress a⟩, ⟨1, b, isG b⟩], vown := true
        sources := [⟨0, .x, a, fa⟩, ⟨1, .x, b, fb⟩], commits := true }
     let t := s.begun u
     let slot := (t.me.readX b).toNat % 2 ^ 24
     let count := (t.me.readX b).toNat / 2 ^ 24
     let base := t.me.readX a
     let range := t.circRange base (count * slot)
     let at_ := given (.w, 0) range
     s.Admits u → (∀ q ∈ t.me.cmds, shapeBuffer q.shape ≠ some d.toNat) → 1 ≤ count → count < 2 ^ 8 → slot ≠ 0 →
      slot % 64 = 0 → base.toNat % 64 = 0 → Succeeds range →
      Goes (.cbinit d a b fa fb) s u (t.modifyMe fun h => h.setCirc d.toNat
        { init := true, base, buf := at_.1, localBase := at_.2, slot := BitVec.ofNat 24 slot, count := BitVec.ofNat 8 count
          free := BitVec.ofNat 8 count, filled := 0, held := 0, p := 0, c := 0 })) ∧
    (let u : Uses :=
      { regs := [⟨2, d, isScalar d⟩, ⟨0, a, s.me.isCirc a⟩], vown := true, dests := [(.x, d)], commits := true }
     let t := s.begun u
     let q := t.me.circ a.toNat
     s.Admits u →
      (q.init = true → q.filled ≠ 0 → Goes (.cbwait d a) s u (t.modifyMe fun h =>
        (h.setCirc a.toNat { q with filled := q.filled - 1, held := q.held + 1
                                    c := BitVec.ofNat 8 ((q.c.toNat + 1) % q.count.toNat) }).produceX d
          (q.base + word (q.c.toNat * q.slot.toNat)))) ∧
      Goes (.cbstat d a) s u (t.modifyMe fun h => h.produceX d (if q.init then
        word (2 ^ 63 + q.slot.toNat * 2 ^ 32 + q.count.toNat * 2 ^ 24 + q.held.toNat * 2 ^ 16 + q.filled.toNat * 2 ^ 8
          + q.free.toNat) else 0))) ∧
    (let u : Uses :=
      { len := srcBytes n, regs := [⟨2, d, isScalar d⟩, ⟨0, a, s.me.isCirc a⟩] ++ srcField isScalar n, vown := true
        sources := srcSource .x n, dests := [(.x, d)], commits := true }
     let t := s.begun u
     let q := t.me.circ a.toNat
     let k := min (t.me.srcWord n).toNat q.held.toNat
     s.Admits u → q.init = true → t.circReads a.toNat = false → Goes (.cbrel d a n) s u (t.modifyMe fun h =>
      (h.setCirc a.toNat { q with held := q.held - BitVec.ofNat 8 k, free := q.free + BitVec.ofNat 8 k }).writeX d
        (word k)))

/-- ACQ, REL, BIND and UNBIND (R277, R278, R279): ACQ completes with a grant of its object that has reached the hart, or
that its home slice has made to it (R301); ACQ of a free object makes the hart its holder and answers ABANDONED, which it
clears, and no entry of the hart stays in the queue.  REL, when what it covers has performed (R317, R326), advances VERSION
and frees the object or gives it to its first waiter; no other word of memory changes. -/
def Obligations.SyncObjectsComplete : Prop :=
  ∀ (s : State) (d a : Reg) (b : Src) (fa : Bool) (pa : Nat) (g : Word) (abandoned : Bool),
    (let u := syncUses d a fa
     let t := s.begun u
     let va := t.me.readX a
     let w := t.getWord pa
     let mine (q : Waiter) : Prop := q.hart = t.me.id ∧ q.pa = pa
     s.Admits u → t.dev.mem.wf = true →
      (t.me.grant = some (va, g) →
        Goes (.acq d a fa) s u (t.modifyMe fun h => ({ h with grant := none } : Hart).writeX d g)) ∧
      ((∀ g, t.me.grant ≠ some (va, g)) → Home t 16 va pa →
        ((∃ q ∈ t.dev.acqWaiters, mine q ∧ q.granted.isSome = true) →
         (∀ q ∈ t.dev.acqWaiters, mine q → q.granted.isSome = true → q.granted = some abandoned) →
          ∃ r, Goes (.acq d a fa) s u r ∧ r.me = t.me.writeX d (if abandoned then 1 else 0) ∧ OnlyWords t r [pa] ∧
            (∀ q ∈ r.dev.acqWaiters, ¬mine q)) ∧
        ((∀ q ∈ t.dev.acqWaiters, mine q → q.granted = none) → bitAt w 63 = false →
          ∃ r, Goes (.acq d a fa) s u r ∧ r.me = t.me.writeX d (if bitAt w 62 then 1 else 0) ∧ OnlyWords t r [pa] ∧
            bitAt (r.getWord pa) 63 = true ∧ bitAt (r.getWord pa) 62 = false ∧
            r.getWord pa % 2 ^ 48 = t.me.id.toNat ∧ (t.me.id, pa) ∈ r.dev.held ∧ (∀ q ∈ r.dev.acqWaiters, ¬mine q) ∧
            ((∀ q ∈ t.dev.acqWaiters, ¬mine q) →
              r.getWord pa = 2 ^ 63 + w % 2 ^ 62 / 2 ^ 48 * 2 ^ 48 + t.me.id.toNat)))) ∧
    (let u : Uses := { addressUses a fa with releases := some false }
     let t := s.begun u
     let w := t.getWord pa
     let waiting (q : Waiter) : Bool := q.pa == pa && q.granted.isNone && !q.polls
     s.Admits u → t.dev.mem.wf = true → Home t 16 (t.me.readX a) pa → t.boundPushes (t.me.readX a) = false →
      bitAt w 63 = true → w % 2 ^ 48 = t.me.id.toNat →
      ∃ r, Goes (.rel a fa) s u r ∧ r.me = t.me ∧ r.getWord (pa + 8) = (t.getWord (pa + 8) + 1) % 2 ^ 64 ∧
        OnlyWords t r [pa, pa + 8] ∧
        (match t.dev.acqWaiters.find? waiting with
         | none => bitAt (r.getWord pa) 63 = false ∧ ∀ e ∈ r.dev.held, e.2 ≠ pa
         | some q => bitAt (r.getWord pa) 63 = true ∧ r.getWord pa % 2 ^ 48 = q.hart.toNat ∧ (q.hart, pa) ∈ r.dev.held)) ∧
    (let u : Uses :=
      { len := srcBytes b, regs := [⟨2, d, isAddress d⟩, ⟨0, a, isAddress a⟩] ++ srcField isScalar b
        sources := ⟨0, .x, a, fa⟩ :: srcSource .x b ++ [⟨2, .x, d, false⟩], commits := true }
     let t := s.begun u
     let e : Binding := { object := t.me.readX d, base := t.me.readX a, length := t.me.srcWord b }
     let same (o : Binding) : Bool := o.object == e.object && o.base == e.base
     s.Admits u → e.length ≠ 0 → e.length.toNat ≤ 2 ^ 40 →
      ((∃ o ∈ t.me.bindings, same o = true) → Goes (.bind d a b fa) s u (t.modifyMe fun h =>
        { h with bindings := h.bindings.map fun o => if same o then e else o })) ∧
      ((∀ o ∈ t.me.bindings, same o = false) → t.me.bindings.length < 16 → Goes (.bind d a b fa) s u (t.modifyMe fun h =>
        { h with bindings := h.bindings ++ [e] }))) ∧
    (let u : Uses :=
      { regs := [⟨2, d, isAddress d⟩, ⟨0, a, isAddress a⟩], sources := [⟨0, .x, a, fa⟩, ⟨2, .x, d, false⟩]
        commits := true }
     s.Admits u → Goes (.unbind d a fa) s u ((s.begun u).modifyMe fun h =>
      { h with bindings := h.bindings.filter fun o => !(o.object == h.readX d && o.base == h.readX a) }))

/-- WMLINK, WMPUB, NOTIFY and WAITN (R283, R284, R289, R290): a valid link descriptor enters its watermark register, a
watermark word only rises, and a notify register collects what is ORed into it until WAITN takes it.  WMPUB and NOTIFY
are releases, and wait for what they cover. -/
def Obligations.WatermarkAndNotifyComplete : Prop :=
  ∀ (s : State) (d a : Reg) (b : Src) (fa : Bool) (pa : Nat),
    (let u : Uses :=
      { regs := [⟨2, d, isBelow 8 d⟩, ⟨0, a, isAddress a⟩], sources := [⟨0, .x, a, fa⟩], commits := true }
     let t := s.begun u
     let words := t.loadWords .memory 4 (t.me.readX a)
     let (xs, t') := given ([], t) words
     let x (n : Nat) : Word := (xs[n]?).getD 0
     s.Admits u → (t.me.readX a).toNat % 32 = 0 → Succeeds words →
      (x 0).toNat % 8 = 0 → (x 3 = 1 ∨ x 3 = 2 ∨ x 3 = 4 ∨ x 3 = 8) → (x 2).toNat % (x 3).toNat = 0 →
      Goes (.wmlink d a fa) s u (t'.modifyMe fun h =>
        { h with w := vset h.w d.toNat { word := x 0, base := x 1, limit := x 2, unit := x 3 } })) ∧
    (let u : Uses :=
      { len := srcBytes b, regs := [⟨2, d, isBelow 8 d⟩] ++ srcField isScalar b, sources := srcSource .x b
        commits := true, orders := true, releases := some s.me.systemScope }
     let t := s.begun u
     let va := (vget t.me.w d.toNat {}).word
     s.Admits u → t.dev.mem.wf = true → va ≠ 0 → Home t 1 va pa →
      ∃ r, Goes (.wmpub d b) s u r ∧ r.me = t.me ∧ OnlyWords t r [pa] ∧
        r.getWord pa = max (t.getWord pa) (t.me.srcWord b).toNat) ∧
    (let u : Uses :=
      { len := srcBytes b, regs := [⟨0, a, isG a⟩] ++ srcField isScalar b, sources := ⟨0, .x, a, fa⟩ :: srcSource .x b
        commits := true, orders := true, releases := some s.me.systemScope }
     let t := s.begun u
     let target := (t.me.readX a).toNat
     let n := target / 2 ^ 16
     s.Admits u → target % 2 ^ 16 < 384 → n < 16 →
      ∃ r, Goes (.notify a b fa) s u r ∧ r.me = t.me ∧ r.dev.mem = t.dev.mem ∧
        ∀ c : CoreId, (t.core c).power = .on → (t.core c).fenced = false →
          (r.core c).notify = if target % 2 ^ 16 = c.val then
            vset (t.core c).notify n (vget (t.core c).notify n 0 ||| t.me.srcWord b) else (t.core c).notify) ∧
    (let u : Uses :=
      { regs := [⟨2, d, isScalar d⟩, ⟨0, a, isBelow 16 a⟩], dests := [(.x, d)], commits := true }
     let t := s.begun u
     let v := vget t.myCore.notify a.toNat 0
     s.Admits u → v ≠ 0 → t.dev.notifyWaiters = [] → Goes (.waitn d a) s u
      ((t.modifyCore s.cur.core fun k => { k with notify := vset k.notify a.toNat 0 }).modifyMe fun h => h.writeX d v))

/-- BARJOIN, BAR and BARLEAVE (R286, R287): joining counts one member more; the last arrival advances GEN, clears ARRIVED and goes
on; an arrival whose generation has completed goes on; a member that leaves counts one less, and with the last one POISON
and ARRIVED are cleared and GEN stays.  An arrival is a release, and waits for what it covers.  That joining records the
generation before the present one is the model's choice (log 27). -/
def Obligations.BarriersComplete : Prop :=
  ∀ (s : State) (d a : Reg) (fa : Bool) (pa : Nat) (m : Membership),
    let u := syncUses d a fa
    let arrives : Uses := { u with releases := some s.me.systemScope }
    let t := s.begun u
    let va := t.me.readX a
    let gen := word (t.getWord (pa + 16))
    let table (h : Hart) (e : Membership) : List Membership := h.barriers.map fun o => if o.va == e.va then e else o
    Home t 32 va pa → t.dev.mem.wf = true →
    (s.Admits u → bitAt (t.getWord (pa + 24)) 0 = false →
      (t.me.membership va = some m → Goes (.barjoin d a fa) s u ((t.count (.main pa)).modifyMe fun h => h.writeX d 1)) ∧
      (t.me.membership va = none → t.me.barriers.length < 8 → t.getWord pa + 1 < 2 ^ 64 →
        t.getWord (pa + 8) ≤ t.getWord pa →
        ∃ r, Goes (.barjoin d a fa) s u r ∧ OnlyWords t r [pa] ∧ r.getWord pa = t.getWord pa + 1 ∧
          r.me = ({ t.me with barriers := t.me.barriers ++ [{ va, gen := gen - 1, pending := false }] } : Hart).writeX d 0 ∧
          r.dev.members = t.dev.members ++ [{ hart := t.me.id, va, pa }])) ∧
    (s.Admits arrives → t.me.membership va = some m →
      (m.pending = true → m.gen ≠ gen → Goes (.bar d a fa) s arrives ((t.count (.main pa)).modifyMe fun h =>
        ({ h with barriers := table h { m with pending := false } } : Hart).writeX d (m.gen + 1))) ∧
      (m.pending = false → m.gen ≠ gen → bitAt (t.getWord (pa + 24)) 0 = false →
        t.getWord (pa + 8) + 1 = t.getWord pa →
        ∃ r, Goes (.bar d a fa) s arrives r ∧ OnlyWords t r [pa + 8, pa + 16] ∧ r.getWord (pa + 8) = 0 ∧
          word (r.getWord (pa + 16)) = gen + 1 ∧ r.me.readX d = (if d = 0 then 0 else gen + 1) ∧
          (∀ w ∈ r.dev.barWaiters, w.pa ≠ pa) ∧
          r.me.barriers = table t.me { m with gen, pending := false })) ∧
    (let u := addressUses a fa
     let t := s.begun u
     let va := t.me.readX a
     s.Admits u → Home t 32 va pa → t.dev.mem.wf = true →
      (t.me.membership va = none → Goes (.barleave a fa) s u (t.count (.main pa))) ∧
      (t.me.membership va = some m → 1 ≤ t.getWord pa →
        ∃ r, Goes (.barleave a fa) s u r ∧
          OnlyWords t r ([pa, pa + 8, pa + 16] ++ if t.getWord pa = 1 then [pa + 24] else []) ∧
          r.getWord pa = t.getWord pa - 1 ∧ r.me = { t.me with barriers := t.me.barriers.filter (·.va != m.va) } ∧
          (t.getWord pa = 1 → r.getWord (pa + 8) = 0 ∧ r.getWord (pa + 16) = t.getWord (pa + 16) ∧
            bitAt (r.getWord (pa + 24)) 0 = false)))


namespace Sys2Proof.Stated

open Sys2Proof.Machine

/-- The root that the search from a cell ends at, and the state that the search leaves (R293). -/
def rootOf (t : State) (va : Word) : Cell := (given ({ va, pa := 0, m := 0 }, t) (t.find va)).1
def found (t : State) (va : Word) : State := (given ({ va, pa := 0, m := 0 }, t) (t.find va)).2

/-- A cell that a promise instruction reaches (R123, R292). -/
def CellAt (t : State) (va : Word) (pa : Nat) : Prop :=
  va.toNat % 16 = 0 ∧ t.place .promise .rmw va = .ok (.main pa) ∧ t.dev.isPoisoned pa = false ∧
    t.blocksWrite [(.main pa, 8)] = false

/-- The 64 bytes of a group descriptor can be read (R322). -/
def DescriptorReads (t : State) (va : Word) : Prop :=
  Succeeds (t.place .memory .load va) ∧ Succeeds (t.readImage .memory va 64)

/-- Word j of the descriptor, and the state in which the read is counted. -/
def groupWord (t : State) (va : Word) (j : Nat) : Nat := elem 64 (given 0 (t.readImage .memory va 64)) j
def descriptorRead (t : State) (va : Word) : State := t.count (given .device (t.place .memory .load va))

/-- What R322 asks of an arrival: a descriptor in its layout, a result that can be stored, and no arrival to wait for. -/
def ArrivalValid (t : State) (va : Word) : Prop :=
  let g := groupWord t va
  DescriptorReads t va ∧ Succeeds ((descriptorRead t va).place .memory .store (word (g 2))) ∧ va.toNat % 64 = 0 ∧
    g 2 % 64 = 0 ∧ g 1 / 2 ^ 8 % 2 ^ 24 < 8 ∧ g 1 / 2 ^ 4 % 2 ^ 4 = 0 ∧ g 1 / 2 ^ 32 % 2 ^ 16 < 2 ^ (g 1 % 2 ^ 4) ∧
    g 4 < 4 ∧ g 5 = 0 ∧ g 6 = 0 ∧ g 7 = 0 ∧ (descriptorRead t va).arrivalWait va = none

/-- The packet of an arrival without a reduction (R322, R323). -/
def packet (t : State) (va : Word) : XPacket :=
  let g := groupWord t va
  { root := word (g 0), trRoot := t.root, device := t.dev.devnum, descriptor := va, result := word (g 2)
    index := BitVec.ofNat 16 (g 1 / 2 ^ 32), generation := word (g 3) + 1, barrier := true, op := 0, sew := 0
    bf := false, n := 0, det := false, values := [] }

/-- An arrival recorded, and its packet on its way to the root's device, which word 1 of the descriptor names. -/
def sent (t : State) (word1 : Nat) (q : XPacket) : State :=
  (t.recordArrival { va := q.descriptor, gen := q.generation }).modifyDev fun dev =>
    { dev with outgoing := dev.outgoing ++ [.packet (BitVec.ofNat 16 (word1 / 2 ^ 48)) q] }

/-- The launch that a descriptor's tables make, where each of them can be read and passes its check (R357, R370). -/
def launchMade (t : State) (d : Desc) (l : LaunchLink) : Option Launch := (given (none, []) (t.launchOf d l)).1

end Sys2Proof.Stated

/-- PINIT, PFILL, PEQ, PWAIT and PTEST (R291 to R300).  A cell whose state is not LINK is its own root (R293).  A fill of
an EMPTY root stores the value with state FULL and answers 0, and of a FULL one with the same value answers 1; PWAIT on
a FULL root gives its value, and on an EMPTY one leaves D empty with the hart registered there; PEQ of two roots links
the one with the lower rank, or the higher address, to the other, which is FULL if either was.  A fill is a release, and
waits for what it covers. -/
def Obligations.PromisesComplete : Prop :=
  ∀ (s : State) (d a b : Reg) (n : Src) (fa fb : Bool) (pa : Nat),
    let rootWord (state rank : Nat) : Nat := state + rank % 64 * 4
    (∀ (t : State) (va : Word), CellAt t va pa → metaState (t.getWord (pa + 8)) ≠ 1 →
      metaState (t.getWord (pa + 8)) ≠ 3 → t.getWord (pa + 8) < 2 ^ 59 →
      t.find va = .ok ({ va, pa, m := t.getWord (pa + 8) }, (t.count (.main pa)).markPromise .promise pa)) ∧
    (let u := addressUses a fa
     let t := s.begun u
     s.Admits u → t.dev.mem.wf = true → CellAt t (t.me.readX a) pa →
      ∃ r, Goes (.pinit a fa) s u r ∧ r.me = t.me ∧ r.getWord pa = 0 ∧ r.getWord (pa + 8) = 0 ∧
        OnlyWords t r [pa, pa + 8]) ∧
    (let u : Uses := { syncUses d a fa with
       len := srcBytes n, regs := [⟨2, d, isScalar d⟩, ⟨0, a, isAddress a⟩] ++ srcField isScalar n
       sources := ⟨0, .x, a, fa⟩ :: srcSource .x n, releases := some s.me.systemScope }
     let t := s.begun u
     let v := t.me.srcWord n
     let c := rootOf t (t.me.readX a)
     let t' := found t (t.me.readX a)
     s.Admits u → t.boundPushes (t.me.readX a) = false → Succeeds (t.find (t.me.readX a)) → t'.dev.mem.wf = true →
      (c.full = false → (∀ w ∈ t'.dev.promiseWaiters, w.root ≠ c.pa) →
        ∃ r, Goes (.pfill d a n fa) s u r ∧ r.me = t'.me.writeX d 0 ∧ r.getWord c.pa = v.toNat ∧
          r.getWord (c.pa + 8) = rootWord 2 (metaRank c.m) ∧ OnlyWords t' r [c.pa, c.pa + 8]) ∧
      (c.full = true → t'.getWord c.pa = v.toNat → Goes (.pfill d a n fa) s u (t'.modifyMe fun h => h.writeX d 1))) ∧
    (let u := syncUses d a fa
     let t := s.begun u
     let c := rootOf t (t.me.readX a)
     let t' := found t (t.me.readX a)
     s.Admits u → Succeeds (t.find (t.me.readX a)) →
      Goes (.ptest d a fa) s u (t'.modifyMe fun h => h.writeX d (if c.full then 1 else 0)) ∧
      (t.me.promises.length < 8 →
        (c.full = true → Goes (.pwait d a fa) s u (t'.modifyMe fun h => h.writeX d (word (t'.getWord c.pa)))) ∧
        (c.full = false → d ≠ 0 → ∃ r, Goes (.pwait d a fa) s u r ∧ r.me.isFull d = false ∧
          r.me.promises = t'.me.promises ++ [{ cell := t.me.readX a, dest := d }] ∧
          r.dev.promiseWaiters = t'.dev.promiseWaiters ++
            [{ hart := t'.me.id, cell := t.me.readX a, root := c.pa, dest := d, polls := t'.dev.poolIsFull c.pa }] ∧
          r.dev.mem = t'.dev.mem))) ∧
    (let u : Uses := { syncUses d a fa with
       regs := [⟨2, d, isScalar d⟩, ⟨0, a, isAddress a⟩, ⟨1, b, isAddress b⟩]
       sources := [⟨0, .x, a, fa⟩, ⟨1, .x, b, fb⟩] }
     let t := s.begun u
     let va := t.me.readX a
     let vb := t.me.readX b
     let t1 := found t va
     let y := rootOf t1 vb
     let t2 := found t1 vb
     let x := rootOf t2 va
     let t' := found t2 va
     s.Admits u → Succeeds (t.find va) → Succeeds (t1.find vb) → Succeeds (t2.find va) → vb.toNat % 16 = 0 →
      t'.dev.mem.wf = true →
      (x.pa = y.pa → Goes (.peq d a b fa fb) s u (t'.modifyMe fun h => h.writeX d 1)) ∧
      (x.pa + 16 ≤ y.pa ∨ y.pa + 16 ≤ x.pa → (∀ w ∈ t'.dev.promiseWaiters, w.root ≠ x.pa ∧ w.root ≠ y.pa) →
        (x.full = true → y.full = true → t'.getWord x.pa = t'.getWord y.pa) →
        let xFirst := metaRank y.m < metaRank x.m ∨ metaRank x.m = metaRank y.m ∧ x.va.toNat < y.va.toNat
        ∃ r root other, (xFirst → root = x ∧ other = y) ∧ (¬xFirst → root = y ∧ other = x) ∧
          Goes (.peq d a b fa fb) s u r ∧ r.me = t'.me.writeX d 0 ∧
          r.getWord (root.pa + 8) = rootWord (if x.full || y.full then 2 else 0)
            (if metaRank x.m = metaRank y.m then min 63 (metaRank root.m + 1) else metaRank root.m) ∧
          r.getWord (other.pa + 8) = metaWord 1 (metaRank other.m) root.va ∧
          r.getWord root.pa = t'.getWord (if other.full && !root.full then other.pa else root.pa) ∧
          OnlyWords t' r [root.pa, x.pa + 8, y.pa + 8]))

/-- XRED, XBAR and XWAIT (R320, R322, R324) on a descriptor that can be read: when the hart's earlier accesses have
performed on every device, an arrival on a valid descriptor is recorded for the next generation and its packet is on its
way to the root; XWAIT without a pending arrival, or with one whose generation has completed, answers STATUS, and takes
the pending mark away. -/
def Obligations.FabricCompletes : Prop :=
  ∀ (s : State) (d a : Reg) (b : Src) (fa : Bool),
    (let u : Uses :=
       { regs := [⟨2, d, isAddress d⟩], sources := [⟨2, .x, d, false⟩], commits := true, releases := some true }
     let t := s.begun u
     let va := t.me.readX d
     s.Admits u → ArrivalValid t va → Goes (.xbar d) s u (sent (descriptorRead t va) (groupWord t va 1) (packet t va))) ∧
    (let u : Uses :=
      { len := srcBytes b, regs := [⟨2, d, isAddress d⟩, ⟨0, a, s.me.isVector a⟩] ++ srcField isScalar b, vown := true
        sources := ⟨0, .v, a, fa⟩ :: srcSource .x b ++ [⟨2, .x, d, false⟩], reads := [a], commits := true
        releases := some true }
     let t := s.begun u
     let va := t.me.readX d
     let n := (t.me.srcWord b).toNat
     let op := groupWord t va 1 / 2 ^ 8 % 2 ^ 4
     s.Admits u → ArrivalValid t va → Unbound t.me [a] → n ≤ t.me.vlmaxSew → n ≤ 4096 →
      (t.me.sewCode = 0 → op ≠ 1 ∧ op ≠ 4 ∧ op ≠ 5) →
      Goes (.xred d a b fa) s u (sent (descriptorRead t va) (groupWord t va 1)
        { packet t va with
          barrier := false, op := BitVec.ofNat 4 op, sew := BitVec.ofNat 2 t.me.sewCode, bf := t.me.bf, n := n
          det := t.me.det
          values := (List.range n).map fun j => if t.me.masked j then some (vElem t.me a j) else none })) ∧
    (let u := { syncUses d a fa with orders := false }
     let t := s.begun u
     let va := t.me.readX a
     let status := word (groupWord t va 4 % 4)
     s.Admits u → DescriptorReads t va →
      ((∀ m ∈ t.me.arrivals, m.va = va → m.pending = false) →
        Goes (.xwait d a fa) s u ((descriptorRead t va).modifyMe fun h => h.writeX d status)) ∧
      (∀ m, t.me.arrivals.find? (·.va == va) = some m → m.pending = true → m.gen.toNat ≤ groupWord t va 3 → status ≠ 2 →
        Goes (.xwait d a fa) s u ((descriptorRead t va).modifyMe fun h =>
          ({ h with arrivals := h.arrivals.map fun e => if e.va == va then { e with pending := false } else e } :
            Hart).writeX d status)))

/-- The launch instructions (R352, R370, R372, R373, R374, R375): LAUNCH and LAUNCHNB accept a valid descriptor of their
own job into the pool, with its harts added to OUT, when what the hart did before has performed on every device; CANCEL,
CWAIT, CNTRD and SELF; EXIT ends the hart once its engines have nothing left to do, and its context is free.  That CANCEL
leaves no entry of the pool with the identifier, the accepted heads of host rings among them, is the model's choice
(log 33): R372 speaks of pool entries, and of ring descriptors at their arrival. -/
def Obligations.LaunchInstructionsComplete : Prop :=
  ∀ (s : State) (d a b : Reg) (fa : Bool),
    let link := s.me.link
    (let u := { syncUses d a fa with userOnly := true, orders := false, releases := some true }
     let t := s.begun u
     let va := t.me.readX a
     let desc : Desc := BitVec.ofNat 2048 (given 0 (t.readImage .memory va 256))
     let l := desc.link t.me.link.queue t.dev.queues[t.me.link.queue.val].level
     let r := t.count (given .device (t.place .memory .load va))
     let c := r.countAll (given (none, []) (r.launchOf desc l)).2
     s.Admits u → va.toNat % 64 = 0 → Succeeds (t.place .memory .load va) → Succeeds (t.readImage .memory va 256) →
      Succeeds (r.launchOf desc l) → (launchMade r desc l).isSome = true → desc.valid c.myCore.srhEnabled = true →
        desc.repl = false →
      l.job = t.me.link.job →
      (c.dev.cancelledId l ≠ none →
        Goes (.launch d a fa) s u (c.modifyMe fun h => h.writeX d 2) ∧
        Goes (.launchnb d a fa) s u (c.modifyMe fun h => h.writeX d 2)) ∧
      (c.dev.cancelledId l = none → c.dev.canAccept l = true →
        let done := (c.modifyDev fun dev =>
          { dev.enterLaunch l with
            pool := dev.pool ++ (launchMade r desc l).toList.map fun m => { launch := m, fromRing := false } }).modifyMe
              fun h => h.writeX d 0
        Goes (.launch d a fa) s u done ∧ Goes (.launchnb d a fa) s u done) ∧
      (c.dev.cancelledId l = none → c.dev.canAccept l = false →
        Goes (.launchnb d a fa) s u (c.modifyMe fun h => h.writeX d 1))) ∧
    (let u (commits : Bool) : Uses :=
      { userOnly := true, illegal := !isLevelCode b, regs := [⟨2, d, isScalar d⟩, ⟨0, a, isG a⟩]
        sources := [⟨0, .x, a, fa⟩], dests := [(.x, d)], commits }
     let level := b.toNat
     let named (h : Hart) : Word := if a ≠ 0 then h.readX a else
       if level = 1 then h.link.launch else if level = 2 then h.link.graph
       else if level = 3 then h.link.phase else h.link.job
     let t := s.begun (u true)
     let id := named t.me
     let cancels : Uses := { u true with releases := some true }
     (s.Admits cancels →
      ((∃ r, t.dev.record level id = some r ∧ r.job = t.me.link.job) →
        Goes (.cancel d a b fa) s cancels ((t.cancel level id).modifyMe fun h => h.writeX d 0) ∧
        (∀ r ∈ (t.cancel level id).dev.records, r.level.toNat = level → r.id = id → r.cancelled = true) ∧
        (∀ e ∈ (t.cancel level id).dev.pool, e.launch.link.idAt level ≠ id)) ∧
      ((∀ r, t.dev.record level id = some r → r.job ≠ t.me.link.job) →
        Goes (.cancel d a b fa) s cancels (t.modifyMe fun h => h.writeX d 1))) ∧
     (s.Admits (u true) →
      (t.dev.record level id = none →
        Goes (.cwait d a b fa) s (u true) (t.modifyMe fun h => h.writeX d 0)) ∧
      (∀ r, t.dev.record level id = some r → r.out ≤ (if t.me.link.idAt level = id then 1 else 0) →
        Goes (.cwait d a b fa) s (u true) (t.modifyMe fun h => h.writeX d (word r.failed)))) ∧
     (s.Admits (u false) → Goes (.cntrd d a b fa) s (u false) (s.modifyMe fun h => h.writeX d
      (match s.dev.record level (named s.me) with
       | none => 0
       | some r => word (min (2 ^ 32 - 1) r.failed * 2 ^ 32 + min (2 ^ 32 - 1) r.out))))) ∧
    (let u : Uses :=
      { userOnly := true, illegal := decide (9 < b.toNat), regs := [⟨2, d, isScalar d⟩], dests := [(.x, d)] }
     s.Admits u → Goes (.self d b) s u (s.modifyMe fun h => h.writeX d
      (([word h.id.toNat, link.launch, link.graph, link.phase, link.job, word link.index, word link.harts,
         word s.cur.core.val, word s.cur.ctx.val, word link.prio.toNat][b.toNat]?).getD 0))) ∧
    (let u : Uses := { commits := true }
     s.Admits u → s.cur.ctx = 4 → Goes .exit s u (s.begun u)) ∧
    (let u : Uses := { commits := true, orders := true }
     let t := s.begun u
     s.Admits u → s.cur.ctx ≠ 4 → t.me.cmds = [] → t.me.followOns = [] → t.pushesOf s.cur.core s.cur.ctx none = false →
      t.me.addDue = false →
        ∃ r, exec .exit s = .next r ∧ r = (t.charge [(.scal, 1)]).endHart true ∧
          r.status s.cur.core s.cur.ctx = .free)

namespace Sys2Proof.Stated

open Sys2Proof.Machine

/-- A record joins the queue of a core (R397): behind the records that stand there and those that wait outside its 60
ordinary entries, of which as many enter as there is room for. -/
def Joins (k k' : Core) (r : Record) : Prop :=
  k'.ordinary ++ k'.outside = k.ordinary ++ k.outside ++ [r] ∧
    (k.ordinary.length ≤ 60 → k'.ordinary.length = min 60 (k.ordinary.length + k.outside.length + 1))

end Sys2Proof.Stated

/-- TRAP and BREAK (R402) are the program's requests to firmware: in a user context they post a record of cause TRAPI
with the code, or of BREAK, and the hart waits for firmware; in the firmware context both are fatal. -/
def Obligations.TrapRequests : Prop :=
  ∀ (s : State) (b : Src) (i : Instr) (cause : BitVec 8) (val epc : Word) (u : Uses),
    let uTrap : Uses := { len := srcBytes b, regs := srcField isScalar b, sources := srcSource .x b, commits := true }
    let c := s.cur.core
    let t := s.begun u
    ((i = .trap b ∧ u = uTrap ∧ cause = 0x12 ∧ val = t.me.srcWord b ∧ epc = s.me.pc + word u.len) ∨
     (i = .brk ∧ u = { commits := true } ∧ cause = 0x13 ∧ val = 0 ∧ epc = s.me.pc)) → s.Admits u →
    ∃ r regs, exec i s = .next r ∧ regs.cause = cause ∧ regs.val = val ∧ regs.epc = epc ∧ regs.elt = 0 ∧ regs.row = 0 ∧
      regs.stat.toNat % 8 = s.cur.ctx.val ∧
      (s.cur.ctx ≠ 4 →
        r.status c s.cur.ctx = .trapped ∧ (r.hart c s.cur.ctx).trap = regs ∧
        Joins (t.core c) (r.core c) { regs, of := .hart }) ∧
      (s.cur.ctx = 4 →
        (r.core c).fenced = true ∧ (r.core c).fw.pc = word ((t.core c).tvec.toNat / 4 * 4) ∧
        ((t.core c).fatal.length < 4 → (r.core c).fatal = (t.core c).fatal ++ [{ regs, of := .hart }]) ∧
        (4 ≤ (t.core c).fatal.length → (r.core c).fatal = (t.core c).fatal ∧ bitAt (r.core c).fatalrec.toNat 63 = true))

/-- The entry of a trap of a user hart (R394, R395, R397): its outstanding results arrive and its open strip commits, its
advice context and its link table are emptied, its record stands in the trap-record registers and joins the queue, behind
the records that wait outside its 60 entries, and the context waits for firmware; the launch of a hart that takes FENCED is
fenced (R417).  Where part of the strip has still to wait, the trap is due and the hart waits, with no record yet: R394 lets
the strip complete first, and that the trap stays due and the hart waits meanwhile is the model's choice (log 68). -/
def Obligations.TrapEntry : Prop :=
  ∀ (s : State) (x : UserCtx) (tr : Trap), s.cur.ctx = userId x →
    let c := s.cur.core
    let t := s.quiesce
    let r := s.takeTrap tr
    let h := r.hart c s.cur.ctx
    (t.me.strip ≠ [] →
      r.status c s.cur.ctx = .waiting .strip ∧ h = { t.me with trapDue := some tr } ∧ r.dev = t.dev ∧
        (r.core c).ordinary = (t.core c).ordinary ∧ (r.core c).outside = (t.core c).outside) ∧
    (t.me.strip = [] →
      ∃ regs : TrapRegs, regs.cause = tr.cause ∧ regs.val = tr.val ∧ regs.epc = tr.epc.getD s.me.pc ∧ regs.elt = tr.elt ∧
        regs.row = tr.row ∧ regs.stat.toNat % 8 = x.val ∧
        (bitAt regs.stat.toNat 57 = true ↔
          tr.cause = 0x04 ∨ tr.cause = 0x05 ∨ tr.cause = 0x06 ∨ tr.cause = 0x0D ∨ tr.cause = 0x14) ∧
        r.status c s.cur.ctx = .trapped ∧ h.trap = regs ∧ h.links = [] ∧ h.fills = [] ∧ h.strip = [] ∧
        h.stripCount = 0 ∧ h.x = t.me.x ∧ (tr.cause ≠ causeFenced → h.vec = t.me.vec) ∧
        (tr.cause = causeFenced → ∀ p ∈ r.dev.placed, p.link.launch = t.me.link.launch → p.fenced = true) ∧
          r.dev.mem = t.dev.mem ∧ (r.core c).advice[x.val] = {} ∧
        Joins (t.core c) (r.core c) { regs, of := .hart })

/-- What R51 checks before an instruction's own effect, in its order: one that VCFG or the streams of its names forbid
raises ILLEGAL (R28, R173, R175), one of the firmware context's in a user context, or of user contexts in that of the
firmware, PRIV (R52, R369), an invalid register field ILLREG with the field and its position (R39), a read of vector
contents that another hart owns VOWN (R416), and an empty source with its ready bit set EMPTYREG, with its field (R33); the
last two are restartable and keep the element and the row at which the instruction goes on (R395).  That the ILLEGAL of
R173 and R175 comes before PRIV and ILLREG is the model's choice (log 21). -/
def Obligations.ChecksRaiseTraps : Prop :=
  ∀ (s : State) (u : Uses) (body : State → Except Stop State),
    let traps (cause : BitVec 8) (val : Word) : Prop := issue s u body = .next (s.takeTrap { cause, val })
    let restartable (cause : BitVec 8) (val : Word) : Prop :=
      issue s u body = .next (s.takeTrap { cause, val, elt := word s.me.eltDone, row := BitVec.ofNat 5 s.me.rowDone })
    let illegal := u.illegal = true ∨ (∃ r ∈ u.reads, s.me.badRead r = true) ∨ (∃ r ∈ u.writes, s.me.badWrite r = true)
    let privileged := (u.priv = true ∧ s.cur.ctx ≠ 4) ∨ (u.userOnly = true ∧ s.cur.ctx = 4)
    (illegal → traps 0x01 (word s.cur.word.toNat)) ∧
    (¬illegal → privileged → traps 0x17 (word s.cur.word.toNat)) ∧
    (¬illegal → ¬privileged →
      (∀ f, u.regs.find? (fun f => !f.ok) = some f → traps 0x02 (word (f.reg.toNat + 256 * f.pos))) ∧
      ((∀ f ∈ u.regs, f.ok = true) →
        (u.vown = true → s.me.vlazy = true → restartable 0x05 0) ∧
        ((u.vown = true → s.me.vlazy = false) →
          ∀ q, u.sources.find? (fun q => q.ready && s.me.isEmptySource q) = some q →
            restartable 0x04 (word (q.reg.toNat + 256 * q.pos)))))

namespace Sys2Proof.Stated

open Sys2Proof.Machine

/-- The context whose copy of a per-context register is meant (R406): the hart's own, and in the firmware context the
one that CTXSEL names. -/
def subjectOf (t : State) : CtxId := if t.cur.ctx = 4 then Fin.ofNat 5 ((t.core t.cur.core).ctxsel.toNat % 4) else t.cur.ctx

/-- The system registers and what they read as (R378, R390, R411, R412), with no record in hand. -/
def systemRegisters : List (Nat × (State → Word)) :=
  let k (t : State) : Core := t.core t.cur.core
  let own (t : State) : Hart := t.hart t.cur.core (subjectOf t)
  let held (t : State) : TrapRegs := (k t).ctxs[(k t).ctxsel.toNat % 4].hart.trap
  [(0, fun t => (k t).tvec), (1, fun t => word (held t).cause.toNat), (2, fun t => (held t).val), (3, fun t => (held t).epc),
   (4, fun t => (held t).elt), (5, fun t => (held t).stat), (6, fun t => word (held t).row.toNat),
   (7, fun t => (k t).fatalrec), (8, fun t => word ((k t).ordinary.length * 2 ^ 8 + (k t).fatal.length)),
   (9, fun t => word (k t).ctxsel.toNat),
   (10, fun t => word ((if (own t).vlazy then 4 else 0) + (if (own t).reloc then 2 else 0) + (if (own t).shrunk then 1 else 0))),
   (11, fun t => (k t).lanemap),
   (14, fun t => word ((k t).allow.toNat + ((k t).allow &&& ~~~(k t).withdrawn).toNat * 2 ^ 8)),
   (15, fun t => (k t).actw), (16, fun t => word (k t).meter.toNat), (17, fun t => word (own t).nrg.toNat),
   (18, fun t => (k t).nrgw), (19, fun t => word (k t).nrgs.toNat), (21, fun t => (k t).srhen),
   (24, fun t => word (own t).id.toNat), (25, fun t => (k t).fwroot)]

/-- What a write of a system register does to the core (R17, R378, R382, R406, R411, R412). -/
def registerWrites : List (Nat × (Word → Core → Core)) :=
  [(0, fun x k => { k with tvec := x &&& ~~~3 }),
   (9, fun x k => { k with ctxsel := if x.toNat % 8 < 4 then BitVec.ofNat 3 x.toNat else 0 }),
   (13, fun x k =>
     let gcap := x.toNat / 2 ^ 16 % 2 ^ 13
     { k with gcap := BitVec.ofNat 13 gcap, grant := BitVec.ofNat 13 (min k.grant.toNat (max gcap 8)) }),
   (14, fun x k => { k with allow := BitVec.ofNat 8 x.toNat }),
   (18, fun x k => { k with nrgw := word (x.toNat % 2 ^ 60) }), (19, fun x k => { k with nrgs := BitVec.ofNat 16 x.toNat }),
   (21, fun x k => { k with srhen := x &&& ~~~0xFE }), (25, fun x k => { k with fwroot := word (x.toNat % 2 ^ 52) }),
   (1, fun _ k => k), (2, fun _ k => k), (5, fun _ k => k), (7, fun _ k => k), (8, fun _ k => k), (10, fun _ k => k),
   (12, fun _ k => k), (16, fun _ k => k), (24, fun _ k => k)]

end Sys2Proof.Stated

/-- SYSRD, SYSWR, RDCYC, RDNRG and SLOTSET (R406, R407, R408, R409, R411): a register reads as its own value, a user
context reading one of the firmware's registers gets PRIV, and a write changes what its row says and nothing else. -/
def Obligations.SystemRegisters : Prop :=
  ∀ (s : State) (d a : Reg) (b : Src) (fa : Bool),
    let c := s.cur.core
    let userReads := (10 ≤ a.toNat ∧ a.toNat ≤ 21) ∨ a.toNat = 24
    (let u : Uses := { regs := [⟨2, d, isScalar d⟩], dests := [(.x, d)], priv := !decide userReads, commits := true }
     let t := s.begun u
     (s.Admits u → (t.core c).inHand = none →
       (∀ e ∈ systemRegisters, a.toNat = e.1 → Goes (.sysrd d a) s u (t.modifyMe fun h => h.writeX d (e.2 t))) ∧
       ∃ x, Goes (.sysrd d a) s u (t.modifyMe fun h => h.writeX d x)) ∧
     (s.cur.ctx ≠ 4 → ¬userReads → exec (.sysrd d a) s = .next (s.takeTrap { cause := 0x17, val := word s.cur.word.toNat }))) ∧
    (let u : Uses := { len := srcBytes b, priv := true, regs := srcField isScalar b, sources := srcSource .x b, commits := true }
     let t := s.begun u
     let x := t.me.srcWord b
     s.Admits u → (∃ r, Goes (.syswr d b) s u r) ∧
      (∀ e ∈ registerWrites, d.toNat = e.1 → Goes (.syswr d b) s u (t.modifyCore c (e.2 x))) ∧
      (d = 15 → ∃ y : Word, Goes (.syswr d b) s u (t.modifyCore c fun k => { k with actw := y }) ∧
        y.toNat % 2 ^ 40 = x.toNat % 2 ^ 40 ∧ fieldOf y.toNat 40 8 = max 16 (fieldOf x.toNat 40 8) ∧
        fieldOf y.toNat 48 4 = max 1 (fieldOf x.toNat 48 4) ∧ y.toNat < 2 ^ 52) ∧
      (d = 11 → ∃ r, Goes (.syswr d b) s u r ∧ (r.core c).lanemap = (t.core c).lanemap &&& x ∧
        (popCount 64 ((t.core c).lanemap &&& x).toNat < 32 → (t.core c).lanemap &&& x ≠ (t.core c).lanemap →
          (r.core c).fenced = true))) ∧
    (let u : Uses := { regs := [⟨2, d, isScalar d⟩], dests := [(.x, d)] }
     s.Admits u → Goes (.rdcyc d) s u (s.modifyMe fun h => h.writeX d (s.core c).cycles) ∧
      Goes (.rdnrg d) s u (s.modifyMe fun h => h.writeX d (word (s.hart c (subjectOf s)).nrg.toNat))) ∧
    (let u : Uses :=
      { priv := true, regs := [⟨0, a, isBelow 31 a⟩], sources := [⟨0, .xs 2, a, fa⟩], commits := true }
     let t := s.begun u
     let code (e : Nat) : Nat :=
       if e < 16 then (t.me.readX a).toNat / 2 ^ (4 * e) % 16 else (t.me.readX (a + 1)).toNat / 2 ^ (4 * (e - 16)) % 16
     s.Admits u → (∀ e, e < 32 → code e = 7 ∨ code e < 5) → code 31 = 4 →
      ∃ v : Vector (BitVec 4) 32, Goes (.slotset a fa) s u (t.modifyCore c fun k => { k with slottab := v }) ∧
        ∀ e : Fin 32, v[e].toNat = code e.val)

/-- WFN and RTE (R397, R403, R404): WFN takes the oldest fatal record, else the oldest ordinary one, into the trap-record
registers, selects its context and answers TQSTAT; RTE 0 lets the trapped hart that CTXSEL names go on at TEPC with
TELT, and with ROWPROG where a PFAULT stopped it in an MMA (R239), and the parked hart of a pair in its wait (R449); RTE 1,
once the hart's pushes have performed and its additions are made, ends it and frees its context.  That ROWPROG is kept for a
hart that a service record stopped, whose cause is 0, is the model's choice (log 18): R239 names PFAULT. -/
def Obligations.RecordsAndReturn : Prop :=
  ∀ (s : State) (d : Reg) (q : Record) (rest : List Record) (x : UserCtx),
    let c := s.cur.core
    let u : Uses := { regs := [⟨2, d, isScalar d⟩], dests := [(.x, d)], priv := true, commits := true }
    let uRte : Uses := { priv := true, commits := true, orders := true }
    (let t := s.begun u
     let k := t.core c
     s.Admits u → d ≠ 0 → k.stagedFw = none → k.inHand = none → k.outside = [] →
      (k.fatal = q :: rest →
        ∃ r, exec (.wfn d) s = .next r ∧ r.me.pc = s.me.pc + 4 ∧ (r.core c).inHand = some q ∧ (r.core c).fatal = rest ∧
          (r.core c).ordinary = k.ordinary ∧ r.me.readX d = word (k.ordinary.length * 2 ^ 8 + rest.length) ∧
          (r.core c).ctxsel.toNat = (if q.regs.stat.toNat % 8 < 4 then q.regs.stat.toNat % 8 else 0)) ∧
      (k.fatal = [] → k.ordinary = q :: rest →
        ∃ r, exec (.wfn d) s = .next r ∧ r.me.pc = s.me.pc + 4 ∧ (r.core c).inHand = some q ∧ (r.core c).fatal = [] ∧
          (r.core c).ordinary = rest ∧ r.me.readX d = word (rest.length * 2 ^ 8) ∧
          (r.core c).ctxsel.toNat = (if q.regs.stat.toNat % 8 < 4 then q.regs.stat.toNat % 8 else 0))) ∧
    (let t := s.begun uRte
     let k := t.core c
     let h := t.hart c (userId x)
     s.Admits uRte → k.ctxsel.toNat = x.val → k.ctxs[x.val].status = .trapped →
      (k.inHand = none ∨ ∃ regs, k.inHand = some { regs, of := .hart }) →
      (h.strip = [] → h.trap.epc.toNat % 4 = 0 → h.trap.cause ≠ causeCancelled → h.trap.cause ≠ causeFenced → h.trap.cause ≠ 0x14 →
        (∀ ws t', (t.actingAs c (userId x)).fetchBlock h.trap.epc = .ok (ws, t') → isLiteralAt ws h.trap.epc = false) →
        ∃ r, exec .rteResume s = .next r ∧ r.me.pc = s.me.pc + 4 ∧ (r.core c).inHand = none ∧
          r.status c (userId x) = (if h.gang = .parked ∧ h.verdict = none then .waiting .parked else .running) ∧
            (r.hart c (userId x)).pc = h.trap.epc ∧
          (r.hart c (userId x)).eltDone = h.trap.elt.toNat ∧
          (r.hart c (userId x)).rowDone =
            (if h.mma ≠ none ∧ (h.trap.cause = causePfault ∨ h.trap.cause = 0) then h.trap.row.toNat else 0) ∧
          (r.hart c (userId x)).x = h.x ∧ (r.hart c (userId x)).vec = h.vec ∧ r.dev.mem = t.dev.mem) ∧
      (let quit := t.quitFor c (userId x)
       quit.killWaits c (userId x) = false → ∃ r, exec .rteKill s = .next r ∧ r.me.pc = s.me.pc + 4 ∧ (r.core c).inHand = none ∧
        r.status c (userId x) = .free ∧
        r = (({ (quit.actingAs c (userId x)).endHart false with cur := s.cur } : State).finishRecord c).complete uRte
          (s.me.pc + 4)))

namespace Sys2Proof.Stated

open Sys2Proof.Machine

/-- n bytes at an address can be stored (R123), and the state in which they hold an image. -/
def Stores (t : State) (va : Word) (n : Nat) : Prop := (t.placeRuns .memory .store (runsOf va n)).2 = none
def storing (t : State) (va : Word) (n image : Nat) : State :=
  t.writeRuns (t.placeRuns .memory .store (runsOf va n)).1 image

/-- A context image of n bytes, where it can be read. -/
def imageAt (t : State) (va : Word) (n : Nat) : Nat := given 0 (t.readImage .memory va n)

end Sys2Proof.Stated

/-- CTXSW (R410, R413 to R416: the constructors `ctxswSout`, `ctxswSin`, `ctxswVout`, `ctxswVin`, `ctxswZout` and
`ctxswZin`) on the context that CTXSEL names, with its image at a multiple of 64: SOUT of a trapped hart
whose engines are idle counts the pre-emption (R343), charges the hart its share of the cycle (R391), writes its scalar
image and frees the context; SIN places the hart of an image in a free context, stopped; VOUT writes the lazy owner's
vector image and its VA; VIN gives the region its contents; ZOUT writes the accumulator image and releases the slots; ZIN
binds and loads the saved tiles, or answers ZFULL with the first handle for which no slot is free.  That an image counts
one access on each of its pages is the model's choice (log 77). -/
def Obligations.ContextSwitchCompletes : Prop :=
  ∀ (s : State) (d a : Reg) (fa : Bool) (x : UserCtx),
    let u : Uses :=
      { priv := true, regs := [⟨2, d, isScalar d⟩, ⟨0, a, isAddress a⟩], sources := [⟨0, .x, a, fa⟩], dests := [(.x, d)]
        commits := true, orders := true }
    let c := s.cur.core
    let t := s.begun u
    let va := t.me.readX a
    let read (va : Word) (n : Nat) : State := t.countImage .memory va n
    let h := t.hart c (userId x)
    let zero (r : State) : State := r.modifyMe fun h => h.writeX d 0
    let scalar := t.readImage .memory va 8192
    let image := given 0 scalar
    s.Admits u → va.toNat % 64 = 0 → (t.core c).ctxsel.toNat = x.val →
    (let counted := (t.resetAdvice c (userId x)).takeShare c x
     let out := (storing counted va 8192 ((counted.hart c (userId x)).scalarImage ((counted.core c).advstat x))).switchOut c x va
     t.status c (userId x) = .trapped → t.drained c (userId x) = true → Stores counted va 8192 →
      Goes (.ctxswSout d a fa) s u (zero out) ∧ out.status c (userId x) = .free ∧
      (∃ o ∈ out.dev.switchedOut, o.id = h.id ∧ o.image = va)) ∧
    (let t' := read va 8192
     let region := t'.regionForImage c (t'.hartOfImage image)
     t.status c (userId x) = .free → Succeeds scalar → scalarImageOk image = true →
      vcfgFault (word (imageWord image 408)) (bitAt (t.core c).srhen.toNat 0) = none → region.isSome = true →
      Goes (.ctxswSin d a fa) s u (zero (t'.switchIn c x image (region.getD 0)))) ∧
    (t.status c (userId x) ≠ .free →
      match (t.lazyFor c h).find? (fun r => r.owner != h.id) with
      | none => Goes (.ctxswVout d a fa) s u (t.modifyMe fun h => h.writeX d 0xFF)
      | some region =>
        let n := 2240 + 8 * region.vlmax.toNat + 8 * region.names.toNat * region.vlmax.toNat
        let t1 := storing t va n (vectorImage region.vec region.vlmax.toNat region.names.toNat region.shrunk)
        Stores t va n → Stores t1 (region.image + 4704) 8 →
          Goes (.ctxswVout d a fa) s u (zero ((storing t1 (region.image + 4704) 8 va.toNat).dropLazy region.owner))) ∧
    (t.status c (userId x) ≠ .free →
      (va = 0 → Goes (.ctxswVin d a fa) s u (zero (t.claimRegion c (userId x)
        { v := Vector.replicate 64 0
          m := Vector.ofFn fun i : Fin 8 => if i = 0 then 2 ^ (8 * h.vlmax.toNat) - 1 else 0 }))) ∧
      (va ≠ 0 →
        let hd := imageAt t va 64
        let n := 2240 + 8 * fieldOf hd 128 64 + 8 * fieldOf hd 64 64 * fieldOf hd 128 64
        Succeeds (t.readImage .memory va 64) → badHeader hd = none → Succeeds (t.readImage .memory va n) →
        Goes (.ctxswVin d a fa) s u (zero ((read va n).claimRegion c (userId x) (unpackVector (imageAt t va n) h.vlmax.toNat)))) ∧
      ∀ vec, ((t.claimRegion c (userId x) vec).hart c (userId x)).vlazy = false ∧
        ((t.claimRegion c (userId x) vec).hart c (userId x)).vec = vec) ∧
    (let at_ := word (imageWord image 4712)
     let owner := BitVec.ofNat 48 (imageWord image 8)
     let qs := (t.core c).slotsOf owner
     let n := 64 + 8256 * qs.length
     let t' := read va 8192
     let t1 := storing t' at_ n (accImage qs)
     Succeeds scalar → scalarImageOk image = true → at_ ≠ 0 → at_.toNat % 64 = 0 → (∀ z ∈ qs, z.poison = []) →
      Stores t' at_ n → Stores t1 va 8 →
      Goes (.ctxswZout d a fa) s u (zero ((storing t1 va 8 (setBit (imageWord image 0) 19 true)).modifyCore c fun k =>
        { k with slots := k.slots.filter fun z => z.owner != owner }))) ∧
    (t.status c (userId x) ≠ .free →
      (h.zsaved = false → Goes (.ctxswZin d a fa) s u (zero t)) ∧
      (h.zsaved = true →
        let header := t.readImage .memory h.zimage 64
        let n := 64 + 8256 * popCount 16 (given 0 header)
        let tiles := savedTiles (imageAt t h.zimage n)
        let loaded := (read h.zimage n).bindSaved c h.id tiles
        h.zimage ≠ 0 → h.zimage.toNat % 64 = 0 → Succeeds header → given 0 header < 2 ^ 16 →
        Succeeds (t.readImage .memory h.zimage n) → (∀ z ∈ tiles, badTileWord z.2 = none) →
        match loaded.2 with
        | none => Goes (.ctxswZin d a fa) s u (zero (loaded.1.setHart c (userId x)
            { loaded.1.hart c (userId x) with zsaved := false }))
        | some z => Goes (.ctxswZin d a fa) s u (loaded.1.modifyMe fun h => h.writeX d (word (0x0D + 256 * z)))))

/-- The words of a book (R333 to R341), run for user context `x`, with operands in range: an action joins the pending
ones, or is dropped and counted in DROPF where an address of it does not lead to a memory page (R334; of a prefetch the
lines before the first such address are kept, R335), the control words
move the Second within its book and write d registers, AWAIT consumes the oldest mark, and a word changes nothing of the
hart but the counts of ADVSTAT.  ALOOP reads B once dA has been decremented (R340).  AJ and ALOOP to a word outside the
book, and AEND, leave the Second IDLE. -/
def Obligations.AdviceInstructionsComplete : Prop :=
  ∀ (s : State) (x : UserCtx) (d a sel : Reg) (b : Src) (imm : BitVec 20) (book : Book), s.cur.ctx = userId x →
    let c := s.cur.core
    let v := (s.core c).advice[x.val]
    let rd (r : Reg) : Word := (v.d[r.toNat]?).getD 0
    let source (v : Advice) : Word := match b with
      | .reg r _ => (v.d[r.toNat]?).getD 0
      | .scalar _ _ => 0
      | .const n => (s.me.c[n.toNat]?).getD 0
      | .lit w => w.signExtend 64
    let y := source v
    let next := v.pc + srcBytes b / 4
    let becomes (i : Instr) (w : Advice) : Prop :=
      exec i s = .next (s.modifyCore c fun k => { k with advice := k.advice.set x.val w })
    let acts (i : Instr) (act : Action) : Prop := becomes i { v with actions := v.actions ++ [act], pc := next }
    let dropsTo (i : Instr) (w : Advice) : Prop :=
      ∃ t, exec i s = .next t ∧ (t.core c).advice[x.val] = w ∧
        t.me = { s.me with adv := { s.me.adv with dropf := BitVec.ofNat 16 (min 65535 (s.me.adv.dropf.toNat + 1)) } } ∧
        t.dev = s.dev
    let drops (i : Instr) : Prop := dropsTo i { v with pc := next }
    let dropsRest (i : Instr) (act : Action) : Prop := dropsTo i { v with actions := v.actions ++ [act], pc := next }
    let mapped (va : Word) : Prop := ∃ pa, s.locate .memory .load va = .ok (.main pa)
    let idles (i : Instr) (w : Advice) : Prop :=
      ∃ t, exec i s = .next t ∧ (t.core c).advice[x.val] = { w with running := false } ∧
        t.me = { s.me with adv := { s.me.adv with idle := BitVec.ofNat 8 (min 255 (s.me.adv.idle.toNat + 1)) } } ∧
        t.dev = s.dev
    (∀ r f, b = .reg r f → r.toNat < 16) → d.toNat < 16 → a.toNat < 16 → (s.core c).bookOf x = some book →
    (v.actions.length < 32 →
      (let lines := (List.range y.toNat).map fun n => (rd a &&& ~~~63) + word (64 * n)
       d.toNat ≤ 1 → 1 ≤ y.toNat → y.toNat ≤ 256 →
        ((∀ va ∈ lines, mapped va) → acts (.apf d a b) (.prefetch d.toNat (rd a &&& ~~~63) y.toNat)) ∧
        (¬mapped (rd a &&& ~~~63) → drops (.apf d a b)) ∧
        (∀ k, 0 < k → k < y.toNat → (∀ va ∈ lines.take k, mapped va) → (∀ va ∈ lines[k]?, ¬mapped va) →
          dropsRest (.apf d a b) (.prefetch d.toNat (rd a &&& ~~~63) k))) ∧
      (y.toNat ≤ 3 → (mapped (rd a) → acts (.ahome a b) (.home (rd a).toNat y.toNat)) ∧
        (¬mapped (rd a) → drops (.ahome a b)) ∧ acts (.aprio b) (.prio (BitVec.ofNat 2 y.toNat)) ∧
        acts (.aorder b) (.order (BitVec.ofNat 2 y.toNat))) ∧
      (y.toNat < 256 → acts (.awake b) (.awake (BitVec.ofNat 8 y.toNat)))) ∧
    (let taken := d = 0 ∨ (d = 1 ∧ rd a = 0) ∨ (d = 2 ∧ rd a ≠ 0) ∨ (d = 3 ∧ (rd a).toInt < 0)
     d.toNat ≤ 3 →
      (¬taken → becomes (.aj d a b) { v with pc := next }) ∧
      (taken → book.isInstruction y.toNat = true → becomes (.aj d a b) { v with pc := y.toNat }) ∧
      (taken → book.isInstruction y.toNat = false → idles (.aj d a b) v)) ∧
    (let w : Advice := { v with d := vset v.d a.toNat (rd a - 1) }
     let target := (source w).toNat
     (rd a = 1 → becomes (.aloop a b) { w with pc := next }) ∧
      (rd a ≠ 1 → book.isInstruction target = true → becomes (.aloop a b) { w with pc := target }) ∧
      (rd a ≠ 1 → book.isInstruction target = false → idles (.aloop a b) w)) ∧
    becomes (.aadd d a b) { v with d := vset v.d d.toNat (rd a + y), pc := next } ∧
    becomes (.ali d b) { v with d := vset v.d d.toNat y, pc := next } ∧
    (sel.toNat ≤ 48 → becomes (.asnap d sel)
      { v with
        d := vset v.d d.toNat
          (if sel = 48 then (v.lastId.map fun id => word id.toNat).getD 0
           else (v.snap.bind fun q => (q[sel.toNat]?).join).getD 0)
        pc := v.pc + 1 }) ∧
    idles .aend { v with pc := v.pc + 1 } ∧
    (v.marks = [] → exec (.await imm) s = .next s) ∧
    (∀ m ms, v.marks = m :: ms →
      let w : Advice := { v with marks := ms, snap := some m.snap, lastId := some m.id }
      (m.id = imm → becomes (.await imm) { w with pc := v.pc + 1 }) ∧
      (m.id ≠ imm → ∃ t, exec (.await imm) s = .next t ∧ t.dev = s.dev ∧ t.me.x = s.me.x ∧ t.me.pc = s.me.pc ∧
        t.me.adv.realign = BitVec.ofNat 8 (min 255 (s.me.adv.realign.toNat + 1)) ∧
        (t.core c).advice[x.val] =
          (match book.find m.id.toNat with
           | some n => { w with actions := [], ap := 1, ord := 0, pc := n, running := true }
           | none => { w with actions := [], ap := 1, ord := 0, running := false })))

namespace Sys2Proof.Stated

open Sys2Proof.Machine

/-! ### The acts of agents that no word encodes (06, 08, 13, 17 to 24) -/

/-- An act takes place, and leaves a state of which `p` holds. -/
def Occurs (i : Instr) (s : State) (p : State → Prop) : Prop := ∃ t, exec i s = .next t ∧ p t

/-- The engines of a core run, and the one numbered `src` does not stand still behind a record (R397). -/
def EngineFree (s : State) (c : CoreId) (src : Nat) : Prop :=
  (s.core c).power.runs = true ∧ (s.core c).clock = true ∧ s.dev.ready = true ∧ (s.core c).engineHeld src = false

/-- What a long-latency result brings to its register: the register is full (R32). -/
def Brings (h : Hart) (f : Fill) : Prop :=
  if f.vector then h.readV f.reg = f.value ∧ h.isVFull f.reg = true
  else f.reg ≠ 0 → f.reg.toNat < 48 → h.readX f.reg = word f.value ∧ h.isFull f.reg = true

end Sys2Proof.Stated

/-- The engines of a context that read and write main memory (R32, R148, R154, R156, R169, R179, R182, R239, R327): the
constructors `longLatencyResult`, `stripCommitComplete`, `striplost`, `copyCommandStart`, `copyCommandComplete`,
`mmaComplete` and `scatterAddPerform`.  A read of a result performs, and a result without reads left reaches its register;
a strip that STRIPC has closed commits, as far as it can at this act, and so does what a hart in GANG has left of its own; a
strip of which nothing has reached memory is lost; a copy command moves the bytes that its act names, at most, and
completes with its slot filled and its follow-on handed over; a follow-on does the rows that its act names; an addition
performs. -/
def Obligations.EngineActsComplete : Prop :=
  ∀ (s : State) (c : CoreId) (x : CtxId) (q : CopyCmd) (f : FollowOn) (add : ScatterAdd) (count : BitVec 48)
    (some_ : BitVec 6) (n : Nat) (e : BitVec 16),
    let a := s.actingAs c x
    let h := s.hart c x
    (∀ g : Fill, n < 2 ^ 16 → h.fills[n]? = some g →
      (g.reads = [] → Occurs (.longLatencyResult c ⟨x, BitVec.ofNat 16 n, e⟩) s fun r =>
        Brings (r.hart c x) g ∧ (r.hart c x).fills = h.fills.eraseIdx n ∧ r.dev = s.dev) ∧
      (∀ read, g.reads = [read] → (h.fills.take n).all (·.reads.isEmpty) = true →
        Occurs (.longLatencyResult c ⟨x, BitVec.ofNat 16 n, e⟩) s fun r =>
          (r.hart c x).fills = h.fills.set n { g with
            value := setField g.value read.lo read.width (a.readPending read), reads := [] } ∧
          (r.hart c x).x = h.x ∧ (r.hart c x).vec = h.vec ∧ r.dev = s.dev)) ∧
    (let done := a.landVectors.commitStrip
     (h.closing = true → done.me.strip = [] → Occurs (.stripCommitComplete c x) s fun r =>
       (r.hart c x).strip = [] ∧ (r.hart c x).stripCount = 0 ∧ (r.hart c x).closing = false ∧
         (∀ g ∈ (r.hart c x).fills, g.vector = false) ∧ (r.hart c x).pc = h.pc + 4 ∧ r.dev.mem = done.dev.mem) ∧
     (h.closing = true → done.me.strip ≠ [] → Occurs (.stripCommitComplete c x) s fun r =>
       (r.hart c x).closing = true ∧ (r.hart c x).strip = done.me.strip ∧ (r.hart c x).pc = h.pc ∧
         r.dev.mem = done.dev.mem ∧ r.status c x = .waiting .strip)) ∧
    (h.closing = false → (∃ w, s.status c x = .waiting w ∧ w.isGang = true) → Occurs (.stripCommitComplete c x) s fun r =>
      (r.hart c x).strip = a.commitStrip.me.strip ∧ r.dev.mem = a.commitStrip.dev.mem ∧ (r.hart c x).pc = h.pc) ∧
    (let lost := ((a.modifyMe Hart.discardStrip).quiesce).me
     h.strip ≠ [] → h.trapDue = none →
      (s.status c x = .running ∨ ∃ w, s.status c x = .waiting w ∧ w ≠ .strip ∧ w.isGang = false) → x ≠ 4 →
      Occurs (.striplost c x) s fun r =>
        r.status c x = .trapped ∧ (r.hart c x).strip = [] ∧ (r.hart c x).x = lost.x ∧ (r.hart c x).vec.v = lost.vec.v ∧
          ((∀ g ∈ h.fills, (g.vector, g.reg) ∉ h.checkpoint.owed) →
            (r.hart c x).x = h.checkpoint.x ∧ (r.hart c x).vec.v = h.checkpoint.v) ∧
          (r.hart c x).trap.cause = 0x14 ∧ (r.hart c x).trap.val = h.pc ∧
          (r.hart c x).trap.epc = h.checkpoint.pc ∧ (r.hart c x).trap.elt = h.checkpoint.elemBase ∧ r.dev.mem = s.dev.mem) ∧
    (let a' := if h.readsMeet q then a.performReads else a
     let rows := shapeRows q.shape
     let len := shapeLen q.shape
     EngineFree s c 1 → h.headCmd = some q → q.phase = .queued → shapeCbv q.shape = false →
     (q.started = true ∨ s.outranked c x Hart.copyReady = false) →
      (len = 0 ∨ rows = 0 → Occurs (.copyCommandStart c ⟨x, count⟩) s fun r =>
        (r.hart c x).headCmd = some { q with phase := .moved, started := true } ∧ r.dev.mem = s.dev.mem) ∧
      (let moved := State.moveRows (if rows * len = 0 then 0 else rows - q.progress / len) count.toNat a' q
       moved.2.2 = none → Occurs (.copyCommandStart c ⟨x, count⟩) s fun r =>
        r.dev = moved.1.dev ∧ (r.hart c x).cmds = modifyFirst (fun o => o.ticket == moved.2.1.ticket) (fun _ => { moved.2.1 with
          started := true, phase := if rows * len ≤ moved.2.1.progress then .moved else .queued }) moved.1.me.cmds) ∧
      (∀ ps pd, rows = 1 → len ≠ 0 → len ≤ count.toNat → q.progress = 0 → q.parts = [] → q.srcBuf = none → q.dstBuf = none →
        q.src.toNat % 65536 + len ≤ 65536 → q.dst.toNat % 65536 + len ≤ 65536 →
        a'.locate .copy .load q.src = .ok (.main ps) → a'.locate .copy .store q.dst = .ok (.main pd) →
        s.dev.isLost pd = false → h.followOns = [] →
        Occurs (.copyCommandStart c ⟨x, count⟩) s fun r =>
          r.dev.mem = s.dev.mem.write pd len (s.dev.mem.read ps len) ∧
            ∃ o, (r.hart c x).headCmd = some o ∧ o.phase = .moved ∧ o.progress = len)) ∧
    ((s.core c).power.runs = true → (s.core c).clock = true → s.dev.ready = true → h.headCmd = some q → q.phase = .moved →
      Occurs (.copyCommandComplete c x) s fun r =>
        (r.hart c x).cmds = h.cmds.filter (fun o => o.ticket != q.ticket) ∧ r.dev = s.dev ∧
        (q.slotBase.isSome = true →
          ((r.hart c x).circ (shapeCb q.shape)).filled = (h.circ (shapeCb q.shape)).filled + 1) ∧
        (r.hart c x).followOns = h.followOns ++ (match q.follow with
          | some w => [{ ticket := q.ticket, pc := q.pc, work := w, row := 0, started := false, stopped := false, age := q.age
                         bytes := shapeRows q.shape * shapeLen q.shape }]
          | none => [])) ∧
    (let w := f.work
     let z : Reg := w.z.setWidth 6
     let m := min some_.toNat (32 - f.row)
     let line (isB : Bool) (l : Nat) : List FVal := (given ([], []) (a.mmaLine w isB l)).1
     ∀ fs slot, EngineFree s c 2 → h.followOns = f :: fs → f.stopped = false → f.row < 32 →
     s.outranked c x Hart.followReady = false →
     (∀ l, l < 32 → Succeeds (a.mmaLine w false l) ∧ Succeeds (a.mmaLine w true l)) → a.slotOf z = some slot →
     (w.acc = true → ∀ k, f.row ≤ k → k < f.row + m → slot.rowPoisoned k = false) →
      Occurs (.mmaComplete c ⟨x, some_⟩) s fun r =>
        r.dev.mem = s.dev.mem ∧
        (r.hart c x).followOns = (if f.row + m = 32 then h.followOns.filter (fun g => g.ticket != f.ticket)
          else { f with row := f.row + m, started := true } :: fs) ∧
        ∃ o, (r.actingAs c x).slotOf z = some o ∧ ∀ i j, i < 32 → j < 32 →
          entry o.tile i j =
            if f.row ≤ i ∧ i < f.row + m then
              blockSteps (mmaKind w.fmt.toNat) (2 ^ w.kn.toNat) (if w.acc then some (entry slot.tile i j) else none)
                (line false i) (line true j) % 2 ^ 64
            else entry slot.tile i j) ∧
    (let pa := add.pa.toNat
     let n := 2 ^ add.log2Size.val
     let addend := add.addend.toNat % 2 ^ (8 * n)
     (s.dev.isPoisoned pa = true ∨ s.dev.isLost pa = true → exec (.scatterAddPerform add) s = .next s) ∧
     (s.dev.isPoisoned pa = false → s.dev.isLost pa = false →
      (add.isFloat = false → Occurs (.scatterAddPerform add) s fun r =>
        r.cores = s.cores ∧ r.dev.mem = s.dev.mem.write pa n ((s.dev.mem.read pa n + addend) % 2 ^ (8 * n))) ∧
      (add.isFloat = true → Occurs (.scatterAddPerform add) s fun r =>
        r.cores = s.cores ∧ ∃ y, TreeOf (addBits (scatterFmt add) .nearest) (s.dev.leavesAt add ++ [addend]) y ∧
          r.dev.mem = s.dev.mem.write pa n y)))

/-- The engines of the streams of a context, the streams of other devices (R174, R175, R176, R314, R317, R318), and the
Second of a context (R334 to R342): the constructors `streamElementFetch`, `streamConditionRead`, `streamDoneadd`,
`remotePushPerform`, `remoteStreamRequest`, `secondMarkConsume` and `adviceActionAccept`.
A running input stream reads its next element ahead, an armed stream reads its condition word, the addition at FLAG of a
finished output stream is made while SWAIT or EXIT waits, once every access of the hart that it covers has performed, and
that of a stream whose place another has taken once its pushes have; one made before then follows the pushes alone, and no
SWAIT completes on it (when it is made is the model's reading, log 74); a
push, a read and an addition of another device perform here and are answered,
and a push of this device leaves it when its target has performed it.
An IDLE Second consumes its oldest mark, sets S and the last id, and resumes where the index of its book says; its oldest
pending action is accepted, and no action writes a register of the hart or memory.  That the page of an AHOME is translated
again as the slice accepts it, and that DROPF counts a translation that fails then, is the model's choice (log 51): R334
and R336 say neither. -/
def Obligations.StreamAndSecondActsComplete : Prop :=
  (∀ (s : State) (c : CoreId) (x : CtxId) (i : StreamId) (p : Place) (pa : Nat) (r : RemoteRequest)
     (data : BitVec 64) (reply : RemoteReply),
     let a := s.actingAs c x
     let h := s.hart c x
     let t := h.stream i
     let changed (b : State) (g : Stream → Stream) : Prop :=
       (b.hart c x).streams = (h.setStream i (g (h.stream i))).streams ∧ b.dev.mem = s.dev.mem ∧
         (b.hart c x).x = h.x ∧ (b.hart c x).vec = h.vec ∧ (b.hart c x).pc = h.pc
     let sized (y : Nat) : Nat := y % 2 ^ (8 * 2 ^ r.log2Size.val)
     let answered (x : RemoteReply) (b : State) : Prop := b.cores = s.cores ∧ b.dev.outgoing = s.dev.outgoing ++ [.reply r x]
     (let va := t.address (t.position.toNat + t.nextFetch)
      t.phase = .running → t.isOutput = false → t.position.toNat + t.nextFetch < t.total → a.fetchHeld t = false →
       (t.remote = false → Succeeds (a.fetchElement va (2 ^ t.esz)) →
         Occurs (.streamElementFetch c x i reply) s fun b =>
           changed b fun t => t.hold (given .poisoned (a.fetchElement va (2 ^ t.esz)))) ∧
       (t.remote = true → s.dev.reaches t.device = true →
         Occurs (.streamElementFetch c x i (.data data)) s fun b =>
           changed b fun t => t.hold (.value (data.toNat % 2 ^ (8 * 2 ^ t.esz))))) ∧
     (t.phase = .armed → t.condFault = none → a.locate .memory .load t.cond = .ok p → a.isPoisonedAt p 8 = false →
       Occurs (.streamConditionRead c x i) s fun b => changed b fun t =>
         if t.threshold.toNat ≤ a.readPlace p 8 then { t with phase := .running } else t) ∧
     ((s.dev.placed.any fun p => p.link.launch == h.link.launch && p.fenced) = false → h.additions = [] →
       t.hasDoneAdd = true → t.isOutput = true → t.phase ≠ .unset → t.total ≤ t.position.toNat → t.doneAdd = .due →
       t.condFault = none → (s.waitOf c x = some (.swait i) ∨ s.waitOf c x = some .exit) → h.strip = [] →
       h.fills.all (·.reads.isEmpty) = true → h.followPending = false → a.partnerRest = false →
       s.pushesOf c x none = false →
       (t.remote = false → a.locate .memory .rmw t.flag = .ok (.main pa) → s.dev.isPoisoned pa = false →
         Occurs (.streamDoneadd c x i reply) s fun b =>
           b.dev.mem = s.dev.mem.write pa 8 ((s.dev.mem.read pa 8 + 1) % 2 ^ 64) ∧
             ((b.hart c x).stream i).doneAdd = .made) ∧
       (t.remote = true → s.dev.reaches t.device = true → Occurs (.streamDoneadd c x i (.data data)) s fun b =>
         b.dev = s.dev ∧ ((b.hart c x).stream i).doneAdd = .made)) ∧
     ((s.dev.placed.any fun p => p.link.launch == h.link.launch && p.fenced) = false → h.additions = [] →
       t.hasDoneAdd = true → t.isOutput = true → t.phase ≠ .unset → t.total ≤ t.position.toNat → t.doneAdd = .due →
       t.condFault = none → s.waitOf c x ≠ some (.swait i) → s.waitOf c x ≠ some .exit → h.strip = [] →
       s.pushesOf c x (some i) = false → t.remote = false → a.locate .memory .rmw t.flag = .ok (.main pa) →
       s.dev.isPoisoned pa = false → Occurs (.streamDoneadd c x i reply) s fun b =>
         b.dev.mem = s.dev.mem.write pa 8 ((s.dev.mem.read pa 8 + 1) % 2 ^ 64) ∧
           ((b.hart c x).stream i).doneAdd = .early ∧ b.streamSettled c x i = false) ∧
     (∀ o : OwedAdd, (s.dev.placed.any fun p => p.link.launch == h.link.launch && p.fenced) = false →
       h.additions = [o] → o.id = i → a.owedWaits o = false → o.stream.remote = false →
       a.locate .memory .rmw o.stream.flag = .ok (.main pa) → s.dev.isPoisoned pa = false →
         Occurs (.streamDoneadd c x i reply) s fun b =>
           b.dev.mem = s.dev.mem.write pa 8 ((s.dev.mem.read pa 8 + 1) % 2 ^ 64) ∧ (b.hart c x).additions = []) ∧
     (s.dev.rootLeaving r.job = true →
       Occurs (.remotePushPerform r data .performs) s (answered .rejected) ∧
         Occurs (.remoteStreamRequest r) s (answered .rejected)) ∧
     (s.dev.rootLeaving r.job = false →
       (s.remotePlace r .store = .ok (.main pa) → s.dev.isLost pa = false →
         Occurs (.remotePushPerform r data .performs) s fun b =>
           answered (.data 0) b ∧ b.dev.mem = s.dev.mem.write pa (2 ^ r.log2Size.val) (sized data.toNat)) ∧
       (r.isAdd = false → s.remotePlace r .load = .ok p → s.isPoisonedAt p (2 ^ r.log2Size.val) = false →
         Occurs (.remoteStreamRequest r) s fun b =>
           answered (.data (word (s.readPlace p (2 ^ r.log2Size.val)))) b ∧ b.dev.mem = s.dev.mem) ∧
       (r.isAdd = true → s.remotePlace r .rmw = .ok (.main pa) → s.dev.isPoisoned pa = false →
         Occurs (.remoteStreamRequest r) s fun b =>
           answered (.data 0) b ∧ b.dev.mem = s.dev.mem.write pa 8 ((s.dev.mem.read pa 8 + 1) % 2 ^ 64))) ∧
     (∀ pusher : Pusher, s.dev.reaches pusher.device = true →
       Occurs (.remotePushPerform r data (.answered pusher (.data 0))) s fun b => b.cores = s.cores ∧
         b.dev = { s.dev with outgoing := eraseFirst (isPushTo pusher r.va) s.dev.outgoing })) ∧
  (∀ (s : State) (c : CoreId) (y : UserCtx),
     let v := (s.core c).advice[y.val]
     let after (r : State) : Advice := (r.core c).advice[y.val]
     let a := s.actingAs c (userId y)
     (∀ m ms, v.running = false → v.marks = m :: ms →
       let found := ((s.core c).bookOf y).bind fun b => b.find m.id.toNat
       Occurs (.secondMarkConsume c y) s fun r => r.dev = s.dev ∧ r.hart c (userId y) = s.hart c (userId y) ∧
         after r = { v with
           marks := ms, snap := some m.snap, lastId := some m.id, pc := found.getD v.pc, running := found.isSome }) ∧
     (v.running = true ∨ v.marks = [] → exec (.secondMarkConsume c y) s = .next s) ∧
     (v.actions = [] → exec (.adviceActionAccept c y) s = .next s) ∧
     (∀ act acts, v.actions = act :: acts → Occurs (.adviceActionAccept c y) s fun r =>
       (after r).actions = acts ∧ r.dev.mem = s.dev.mem ∧ (r.hart c (userId y)).x = (s.hart c (userId y)).x ∧
         (r.hart c (userId y)).vec = (s.hart c (userId y)).vec ∧ (r.hart c (userId y)).pc = (s.hart c (userId y)).pc ∧
         (∀ l, act = .prio l → (after r).ap = l) ∧ (∀ o, act = .order o → (after r).ord = o) ∧
         (∀ va die pa, act = .home va die → a.locate .memory .load (word va) = .ok (.main pa) →
           (r.dev.frameInfo (frameOf pa)).hint = some (Fin.ofNat 4 die, 2)) ∧
         (∀ va die, act = .home va die → (∀ pa, a.locate .memory .load (word va) ≠ .ok (.main pa)) →
           (r.hart c (userId y)).adv.dropf.toNat = min 65535 ((s.hart c (userId y)).adv.dropf.toNat + 1))))

/-- The Arbiter and the launch scheduler (R25, R353, R355, R357, R360, R363, R366), host queues (R359, R365, R436), and what
reaches a waiting hart (R279, R285, R323, R325, R372, R417): the constructors `arbiterSelection`, `arbiterBoundary`,
`launchPlacement`, `descriptorArrival`, `qtailWrite`, `queueWeightWrite`, `qctlWrite`, `jobRetired`, `hartCancelled`,
`hartFenced`, `acqGrant`, `waiterPoll`, `watermarkRelease` and `xredPacketArrival`.  Three of its clauses state choices of
the model: the victim of an ARBITER_BOUNDARY is asked for only while no core has an unserved EVICT (log 31), a trap that is
due waits while part of the strip must wait (log 68), and a cancel is taken before a fence that is due as well (log 25). -/
def Obligations.SchedulerActsComplete : Prop :=
  ∀ (s : State) (c : CoreId) (x : UserCtx) (q : QueueId) (e : PoolEntry) (v : Word) (desc : BitVec 2048) (job : Word)
    (k : Waiter) (p : XPacket) (pa : Nat),
    let h := s.hart c (userId x)
    let ctx (t : State) : Hart := t.hart c (userId x)
    let queue := s.dev.queues[q.val]
    let becomes (i : Instr) (f : HostQueue → HostQueue) : Prop :=
      exec i s = .next (s.modifyDev fun d => { d with queues := d.queues.set q.val (f d.queues[q.val]) })
    (let choice := s.select []
     let s1 := choice.2
     (s.dev.selected ≠ none → exec .arbiterSelection s = .next s ∧ exec (.arbiterBoundary c) s = .next s) ∧
     ((s.core c).cycles.toNat % 4096 ≠ 0 → exec (.arbiterBoundary c) s = .next s) ∧
     (s.dev.selected = none →
      (match choice.1 with
       | none => exec .arbiterSelection s = .next s1
       | some (n, .entry e) => (s1.plan e.launch).isSome = true → Occurs .arbiterSelection s fun t =>
           t.dev.selected = some e ∧ t.dev.lastQueue = some n ∧ t.dev.pool = eraseFirst (· == e) s1.dev.pool ∧ t.cores = s1.cores
       | some (n, .context o) => ∀ seat ∈ s1.restoreSeat o, Occurs .arbiterSelection s fun t =>
           t.dev.lastQueue = some n ∧ ∃ r : Record, r.regs.val = o.image ∧ r.of = .restore o.id ∧
             r.regs.stat.toNat % 8 = seat.2.val ∧
             ((s1.core seat.1).outside = [] → (s1.core seat.1).ordinary.length < 60 →
               (t.core seat.1).ordinary = (s1.core seat.1).ordinary ++ [r])) ∧
      ((s.core c).cycles.toNat % 4096 = 0 →
        match choice.1 with
        | none => exec (.arbiterBoundary c) s = .next s
        | some (n, w) =>
          if (s1.give n w).isSome ∨ (allCores.any s1.evictPending) = true ∨ s1.dev.queues[n.val].deficit ≤ 0 then
            exec (.arbiterBoundary c) s = .next s1
          else
            match (s1.victim (s1.workLevel w)).or (s1.victimAtBoundary c (s1.workLevel w)) with
            | none => exec (.arbiterBoundary c) s = .next s1
            | some b => exec (.arbiterBoundary c) s = .next (s1.evict b.1 b.2) ∧
                (s1.status b.1 (userId b.2) = .running → (s1.hart b.1 (userId b.2)).trapDue = none →
                  (s1.evict b.1 b.2).status b.1 (userId b.2) = .stopped)))) ∧
    (s.dev.selected = none → exec .launchPlacement s = .next s) ∧
    (let t := s.modifyDev fun d => { d with selected := none }
     s.dev.selected = some e →
      match t.plan e.launch with
      | none => exec .launchPlacement s = .next (t.modifyDev fun d => { d with pool := e :: d.pool })
      | some seats =>
        (Occurs .launchPlacement s fun r => (∀ seat ∈ seats, r.status seat.core (userId seat.ctx) = .running) ∧
          r.dev.serial = s.dev.serial + BitVec.ofNat 32 seats.length ∧ r.dev.selected = none) ∧
        (∀ seat, seats = [seat] → Occurs .launchPlacement s fun r =>
          let h := r.hart seat.core (userId seat.ctx)
          r.status seat.core (userId seat.ctx) = .running ∧ h.pc = e.launch.entry ∧ h.x = e.launch.x ∧
            h.vcfg = e.launch.vcfg ∧ h.c = e.launch.c ∧ h.md = e.launch.md ∧ h.w = e.launch.w ∧
            h.streams = e.launch.streams ∧ h.vl = 0 ∧ h.vrows = 1 ∧ h.vst = 0 ∧ h.names = 32 ∧ h.seq = 0 ∧
            h.elemBase = 0 ∧ h.full = BitVec.allOnes 48 ∧ h.vfull = BitVec.allOnes 64 ∧ h.first = true ∧
            h.vec.v = Vector.replicate 64 0 ∧
            h.readM 0 = 2 ^ (8 * vlmaxOf (s.core seat.core).lanes e.launch.link.part 32) - 1 ∧
            h.id = BitVec.ofNat 48 (s.dev.devnum.toNat * 2 ^ 32 + s.dev.serial.toNat) ∧
            h.link = { e.launch.link with index := 0 })) ∧
    (let next : HostQueue :=
       { queue with head := BitVec.ofNat 16 ((queue.head.toNat + 1) % 2 ^ queue.log2n.toNat), inFlight := false }
     let t := s.modifyDev fun d => { d with queues := d.queues.set q.val next }
     let arrives := s.dev.ready = true ∧ (queue.en = true ∨ queue.inFlight = true) ∧ queue.log2n.toNat ≤ 16 ∧
       queue.head.toNat ≠ queue.tail.toNat % 2 ^ queue.log2n.toNat
     let link := Desc.link desc q queue.level
     let dropped : Prop := exec (.descriptorArrival q desc) s =
       .next (t.modifyDev fun d => d.report 4 [word q.val, word queue.head.toNat])
     (s.dev.ready = false ∨ (queue.en = false ∧ queue.inFlight = false) → exec (.descriptorArrival q desc) s = .next s) ∧
     (arrives →
      (Desc.valid desc t.anySrh = false ∨ t.dev.cancelledId link ≠ none → dropped) ∧
      (Desc.valid desc t.anySrh = true → t.dev.cancelledId link = none →
        (Desc.repl desc = true →
          (s.dev.placed.any (·.link.launch == Desc.word desc 24) = false → dropped) ∧
          (s.dev.placed.any (·.link.launch == Desc.word desc 24) = true →
            match (t.readBook (Desc.root desc) (Desc.word desc 8)).run [] with
            | .ok (some (some (code, index)), _) => exec (.descriptorArrival q desc) s = .next (t.stageBook
                { launch := Desc.word desc 24, version := t.bookVersion (Desc.word desc 24) + 1, code, index })
            | _ => dropped)) ∧
        (Desc.repl desc = false → t.fitsService link = false → dropped) ∧
        (Desc.repl desc = false → t.fitsService link = true →
          match t.launchOf desc link with
          | .ok (some m, _) =>
            (t.dev.unaccepted.any (·.1 == q) = true ∨ t.dev.recordsFree link = false →
              exec (.descriptorArrival q desc) s = .next (t.modifyDev fun d =>
                { d with unaccepted := d.unaccepted ++ [(q, queue.head.toNat, desc)] })) ∧
            (t.dev.unaccepted.any (·.1 == q) = false → t.dev.recordsFree link = true →
              Occurs (.descriptorArrival q desc) s fun r =>
                r.dev.pool = s.dev.pool ++ [{ launch := m, fromRing := true }] ∧ r.dev.queues = t.dev.queues ∧
                  r.dev.records = (s.dev.enterLaunch m.link).records)
          | _ => dropped)))) ∧
    becomes (.qtailWrite q v) (fun t => { t with tail := BitVec.ofNat 16 v.toNat }) ∧
    becomes (.queueWeightWrite q v) (fun t => { t with weight := BitVec.ofNat 8 v.toNat }) ∧
    (let n := v.toNat % 32
     let en := bitAt v.toNat 31
     becomes (.qctlWrite q v) fun t =>
      { t with
        en, level := BitVec.ofNat 3 (v.toNat / 2 ^ 8)
        log2n := if t.en then t.log2n else if 1 ≤ n ∧ n ≤ 16 then BitVec.ofNat 5 n else 16
        inFlight := (t.en || t.inFlight) && !en && decide (t.head.toNat ≠ t.tail.toNat % 2 ^ t.log2n.toNat) }) ∧
    (s.dev.record 4 job = none → exec (.jobRetired job) s = .next s) ∧
    (∀ r, s.dev.record 4 job = some r →
      (r.out ≠ 0 → exec (.jobRetired job) s = .next s) ∧
      (r.out = 0 → s.dev.unaccepted = [] → exec (.jobRetired job) s =
        .next (s.modifyDev fun d => { d with records := d.records.filter fun r => r.job != job }))) ∧
    (let left := (s.actingAs c (userId x)).leaveQueues.modifyMe Hart.clearDue
     h.verdict = none → h.gang ≠ .parked → h.trapDue = none →
     (s.status c (userId x) = .running ∨ ∃ w, s.status c (userId x) = .waiting w) →
      let taken (cause : BitVec 8) (val : Word) (t : State) : Prop := t.cur = s.cur ∧
        (left.quiesce.me.strip = [] → t.status c (userId x) = .trapped ∧ (ctx t).trap.cause = cause ∧
          (ctx t).trap.val = val ∧ (ctx t).trap.epc = h.pc) ∧
        (left.quiesce.me.strip ≠ [] → t.status c (userId x) = .waiting .strip ∧
          (ctx t).trapDue = some { cause := cause, val := val })
      (∀ id, h.cancelled = some id → Occurs (.hartCancelled c x) s (taken 0x11 id)) ∧
      (h.cancelled = none → h.fenceDue = true → Occurs (.hartFenced c x) s (taken 0x15 0)) ∧
      (h.cancelled = none → exec (.hartCancelled c x) s = .next s)) ∧
    (s.status c (userId x) ≠ .free →
      (s.dev.acqWaiters.find? (fun w => w.hart == h.id && w.granted.isSome) = some k → Occurs (.acqGrant c x) s fun t =>
        (ctx t).grant = k.granted.map (fun d => (k.va, if d then 1 else 0)) ∧ (ctx t).x = h.x ∧ t.dev.mem = s.dev.mem ∧
          t.dev.acqWaiters = eraseFirst (fun w => w.hart == h.id && w.granted.isSome) s.dev.acqWaiters) ∧
      (h.promises = [] → s.dev.acqWaiters.find? (fun w => w.hart == h.id && w.polls && w.granted.isNone) = some k →
        s.dev.isPoisoned k.pa = false → s.dev.isLost k.pa = false →
        (bitAt (s.getWord k.pa) 63 = true → Occurs (.waiterPoll c x) s fun t =>
          t.cores = s.cores ∧ t.dev.mem = s.dev.mem ∧ t.dev.acqWaiters = s.dev.acqWaiters) ∧
        (bitAt (s.getWord k.pa) 63 = false → s.dev.mem.wf = true → Occurs (.waiterPoll c x) s fun t =>
          (ctx t).grant = some (k.va, if bitAt (s.getWord k.pa) 62 then 1 else 0) ∧ bitAt (t.getWord k.pa) 63 = true ∧
            t.getWord k.pa % 2 ^ 48 = h.id.toNat ∧ OnlyWords s t [k.pa]))) ∧
    (∀ va n, s.status c (userId x) = .waiting (.watermark va n) →
      (s.watermarkPassed c (userId x) va n = true →
        exec (.watermarkRelease c x) s = .next (s.setStatus c (userId x) .running)) ∧
      (s.watermarkPassed c (userId x) va n = false → exec (.watermarkRelease c x) s = .next s)) ∧
    (s.rootHome p.trRoot p.root = .ok pa → p.device ≠ s.dev.devnum →
      let ended (r : State) (os : List Outgoing) : Prop :=
        r.dev.mem = s.dev.mem ∧ r.dev.outgoing = s.dev.outgoing ++ os ∧ (pa, p.generation) ∈ r.dev.xdone
      let status (p : XPacket) (n : Nat) : Outgoing := .xstatus p.device p.descriptor p.generation n
      (s.dev.poisonedGroups.contains pa = true → s.dev.resultsAway [p] = false →
        Occurs (.xredPacketArrival (.packet p)) s fun t => ended t [status p 2]) ∧
      (s.dev.poisonedGroups.contains pa = false → (pa, p.generation) ∉ s.dev.xdone →
        ((∀ g ∈ s.dev.xgroups, g.root ≠ pa ∨ g.gen ≠ p.generation) → s.getWord (pa + 8) % 16 ≠ 0 →
          exec (.xredPacketArrival (.packet p)) s = .next (s.modifyDev fun d =>
            { d with xgroups := d.xgroups ++ [{ root := pa, gen := p.generation, packets := [p] }] })) ∧
        (∀ o : XPacket, s.dev.xgroups = [{ root := pa, gen := p.generation, packets := [o] }] →
          o.generation = p.generation → o.device ≠ s.dev.devnum → o.index.toNat + p.index.toNat = 1 → o.n = 0 → p.n = 0 →
          packetDisagrees o p = false → s.dev.resultsAway [o, p] = false → s.getWord (pa + 8) % 16 = 1 →
            s.dev.isPoisoned pa = false → s.dev.isLost pa = false →
          Occurs (.xredPacketArrival (.packet p)) s fun t => ended t [status o 0, status p 0]))) ∧
    (∀ root tr, s.rootHome tr root = .ok pa → (∀ g ∈ s.dev.xgroups, g.root ≠ pa) →
      pa ∉ s.dev.poisonedGroups → exec (.xredPacketArrival (.poison root tr)) s =
        .next (s.modifyDev fun d => { d with
          poisonDue := d.poisonDue.filter (· != { byDescriptor := false, va := root, trRoot := tr, launch := 0 })
          poisonedGroups := d.poisonedGroups ++ [pa] })) ∧
    (s.dev.poisonDue = [] → exec (.xredPacketArrival .poisonRetry) s = .next s) ∧
    (∀ n x, s.dev.outgoing = [.xresult p n x] → s.dev.xfinishing = [{ packets := [p], status := 0 }] →
      p.device ≠ s.dev.devnum → exec (.xredPacketArrival (.written p)) s = .next (s.modifyDev fun d =>
        { d with outgoing := [.xstatus p.device p.descriptor p.generation 0], xfinishing := [] })) ∧
    (∀ device, s.dev.xfinishing = [] → Occurs (.xredPacketArrival (.fenced device)) s fun t =>
      device ∈ t.dev.fencedDevices ∧ t.cores = s.cores ∧ t.dev.mem = s.dev.mem) ∧
    (∀ status device, s.dev.outgoing = [.packet device p] → device ≠ s.dev.devnum → p.device = s.dev.devnum →
      exec (.xredPacketArrival (.complete [p] status [])) s =
        .next ((s.modifyDev fun d => { d with outgoing := [] }).writeStatus p status.toNat))

/-- A cycle of a powered core whose clock runs (R367, R377, R403, R408): the constructors `issueCycle` and
`activityMeterCycle`.  The counter advances, the entry of SLOTTAB decides who issues, a WFN that waits takes its record, and
the activity meter admits a busy cycle or withholds it and drains.  A context held at its instruction outside a wait of R276
keeps the entry, and no instruction issues in it.  That a unit of which a core has one starts one busy cycle a cycle is the
model's choice (log 38). -/
def Obligations.CoreCycle : Prop :=
  ∀ (s : State) (c : CoreId) (x : UserCtx) (b : Busy),
    let k := s.core c
    let entry := vget k.slottab (k.cycles.toNat % 32) 0
    let drain := k.actw.toNat / 2 ^ 48 % 16
    let ceil := k.actw.toNat / 2 ^ 40 % 256
    let w := actWeight k.actw b.cls
    let done (b : Busy) : List Busy := if b.cycles ≤ 1 then [] else [{ b with cycles := b.cycles - 1, started := true }]
    k.clock = true →
    (let r := s.settleQueues.wakeForWork c
     let goes (y : CtxId) : Bool := ((r.tick c).modifyCore c fun k => { k with lastCtx := some y }).goesOn c y
     k.power.runs = true →
      (k.fwStatus ≠ .waiting .wfn → Occurs (.issueCycle c) s fun t =>
        (t.core c).cycles = k.cycles + 1 ∧ t.dev.mem = s.dev.mem ∧ (t.core c).lastCtx = r.issuer c ∧
          (∀ y, r.issuer c = some y → if goes y then
              t.cur = { s.cur with core := c, ctx := y, issues := true } ∧ t.status c y = .running
            else t.cur = { s.cur with issues := false } ∧ t.status c y = r.status c y) ∧
          (r.issuer c = none → t.cur = { s.cur with issues := false })) ∧
      (∀ (n : Record) (rest : List Record), k.fwStatus = .waiting .wfn → k.inHand = none →
        (k.fatal = n :: rest → Occurs (.issueCycle c) s fun t =>
          (t.core c).inHand = some n ∧ (t.core c).fatal = rest ∧ (t.core c).fwStatus = .running ∧
            (t.core c).fw.pc = k.fw.pc + 4) ∧
        (k.fatal = [] → k.ordinary = n :: rest → k.outside = [] → Occurs (.issueCycle c) s fun t =>
          (t.core c).inHand = some n ∧ (t.core c).ordinary = rest ∧ (t.core c).fwStatus = .running ∧
            (t.core c).fw.pc = k.fw.pc + 4))) ∧
    (entry = 7 → s.issuer c = none) ∧
    (entry = 4 → s.fwReady c = true → s.partlyIssued c = false → s.issuer c = some 4) ∧
    (entry.toNat = x.val → s.canIssue c x = true → s.issuer c = some (userId x)) ∧
    (entry = 4 → s.fwReady c = false → s.canIssue c 1 = true → s.issuer c = some 1) ∧
    (k.busy = [] → Occurs (.activityMeterCycle c) s fun t =>
      (t.core c).busy = [] ∧ (t.core c).meter.toNat = k.meter.toNat - drain ∧ t.dev = s.dev) ∧
    (k.meter.toNat + w < 256 + drain →
      (w = 0 ∨ k.meter.toNat + w ≤ ceil →
        (k.busy = [b] → Occurs (.activityMeterCycle c) s fun t =>
          (t.core c).busy = done b ∧ (t.core c).meter.toNat = k.meter.toNat + w - drain) ∧
        (∀ o, k.busy = [b, o] → b.cls = .mlo → o.cls = .mhi → Occurs (.activityMeterCycle c) s fun t =>
          (t.core c).busy = done b ++ [o] ∧ (t.core c).meter.toNat = k.meter.toNat + w - drain)) ∧
      (w ≠ 0 → ceil < k.meter.toNat + w → k.busy = [b] → Occurs (.activityMeterCycle c) s fun t =>
        (t.core c).busy = [{ b with withheld := true }] ∧ (t.core c).meter.toNat = k.meter.toNat - drain))

/-- Power (R382 to R388, R408), frames and modules (R128, R130, R134 to R136, R140), and the errors that the device meets
(R398, R418 to R421): the constructors `powerControllerUpdate`, `powerHoldExpire`, `switchOpeningComplete`, `inrushGrant`,
`turnOnComplete`, `clusterClockChange`, `gcapWrite`, `actwWrite`, `lanemapWrite`, `fwrootWrite`, `pageEpoch`,
`frameMoveSwitch`, `moduleUncorrectableError`, `bufferWordError`, `linkFailure`, `moduleRetireComplete`,
`sliceUncorrectableError`, `fatalError`, `laneError` and `correctedError`.  A read of a hart that is on its way when a line
or a word fails has obtained its bytes: the error comes after it (log 67).  A frame that moves keeps its counts and
its hint (log 86).  Both are the model's choices. -/
def Obligations.PowerAndErrorActsComplete : Prop :=
  ∀ (s : State) (c : CoreId) (grant : BitVec 13) (gate withdraw : BitVec 8) (gateCore running readable : Bool) (g : Fin 8)
    (w : Wake) (ws : List Wake) (v : Word) (slice : SliceId) (i : FrameInfo) (frame : BitVec 36) (line : BitVec 46)
    (buf : BufId) (bw : BitVec 19) (link : LinkId) (struck : BitVec 7) (lane : Lane) (hit : Struck),
    let k := s.core c
    let core (i : Instr) (f : Core → Core) : Prop := exec i s = .next (s.modifyCore c f)
    let obtained (t : State) : Prop := ∀ d x, (t.hart d x).fills.all (·.reads.isEmpty) = true
    let fenced (t : State) (launch : Word) : Prop := ∀ p ∈ t.dev.placed, p.link.launch = launch → p.fenced = true
    let posted (t : State) (r : Record) : Prop := k.outside = [] → k.ordinary.length < 60 → (t.core c).ordinary = k.ordinary ++ [r]
    let waits (t : State) (at_ : SliceId → Prop) : Prop := ∀ d y f r pa, s.status d (userId y) ≠ .free →
      f ∈ (s.hart d (userId y)).fills → r ∈ f.reads → r.place = .main pa → at_ (s.dev.homeOf pa) →
      fenced t (s.hart d (userId y)).link.launch
    let lanePosted (t : State) : Prop := (∀ x, x ∈ s.stoppable c → t.status c (userId x) = .stopped) ∧
      ∃ r : Record, posted t r ∧ r.of = .stops (s.stoppable c) ∧
        r.regs.val = word lane.val ∧ bitAt r.regs.stat.toNat 62 = true ∧ r.regs.stat.toNat / 2 ^ 40 % 256 = 3
    (Occurs (.powerControllerUpdate c grant gate gateCore withdraw) s fun t =>
      (t.core c).grant.toNat = max 8 (min grant.toNat (max k.gcap.toNat 8)) ∧ (t.core c).withdrawn = withdraw ∧
        t.dev = s.dev ∧ (t.core c).groups[g.val] =
          (if gate.getLsbD g.val = true ∧ g.val ∉ s.groupsInUse c ∧ k.groups[g.val] = .on then .hold else k.groups[g.val]) ∧
        (t.core c).power = (if gateCore = true ∧ s.coreIdle c = true ∧ k.power = .on then .hold else k.power)) ∧
    (k.groups[g.val] = .hold → core (.powerHoldExpire c (.group g)) fun k =>
      { k with groups := k.groups.set g.val (if g.val ∈ s.groupsInUse c then .on else .opening false) }) ∧
    (k.power = .hold → core (.powerHoldExpire c .core) fun k =>
      { k with power := if s.coreIdle c then .opening false else .on }) ∧
    (k.groups[g.val] = .opening false →
      core (.switchOpeningComplete c (.group g)) fun k => { k with groups := k.groups.set g.val .gated }) ∧
    (k.groups[g.val] = .opening true → w = { core := c, group := g } → w ∉ s.dev.inrush → w ∉ s.dev.turningOn →
      Occurs (.switchOpeningComplete c (.group g)) s fun t =>
        (t.core c).groups[g.val] = .waking ∧ t.dev.inrush = s.dev.inrush ++ [w]) ∧
    (k.power = .opening false → Occurs (.switchOpeningComplete c .core) s fun t =>
      (t.core c).power = .gated ∧ (t.core c).ctxs = k.ctxs ∧ (t.core c).slottab = k.slottab ∧
        (k.groups[g.val] ≠ .waking → k.groups[g.val] ≠ .opening true → (t.core c).groups[g.val] = .gated) ∧
        (k.groups[g.val] = .opening true → (t.core c).groups[g.val] = .waking)) ∧
    (k.power = .opening true → Occurs (.switchOpeningComplete c .core) s fun t => (t.core c).power = .waking) ∧
    (s.dev.inrush = w :: ws → s.dev.turningOn.length < 8 → exec .inrushGrant s =
      .next (s.modifyDev fun d => { d with inrush := ws, turningOn := d.turningOn ++ [w] })) ∧
    (8 ≤ s.dev.turningOn.length → exec .inrushGrant s = .next s) ∧
    (({ core := c, group := g } : Wake) ∈ s.dev.turningOn → Occurs (.turnOnComplete c (BitVec.ofNat 3 g.val)) s fun t =>
      (t.core c).groups[g.val] = .on ∧ ({ core := c, group := g } : Wake) ∉ t.dev.turningOn ∧
        (g = 0 → k.power = .waking → (t.core c).power = .on ∧ (t.core c).latch = Vector.replicate 16 0 ∧
          ∀ n : Fin 16, (t.core c).notify[n.val] = k.notify[n.val] ||| k.latch[n.val])) ∧
    (Occurs (.clusterClockChange c running) s fun t =>
      (∀ e : CoreId, (t.core e).clock = running) ∧ (t.core c).cycles = k.cycles ∧ t.dev = s.dev) ∧
    (Occurs (.gcapWrite c v) s fun t => (t.core c).gcap.toNat = v.toNat / 2 ^ 16 % 2 ^ 13 ∧
      (t.core c).grant.toNat = min k.grant.toNat (max (v.toNat / 2 ^ 16 % 2 ^ 13) 8)) ∧
    (Occurs (.actwWrite c v) s fun t => (t.core c).actw.toNat % 2 ^ 40 = v.toNat % 2 ^ 40 ∧
      (t.core c).actw.toNat / 2 ^ 40 % 2 ^ 8 = max 16 (v.toNat / 2 ^ 40 % 2 ^ 8) ∧
      (t.core c).actw.toNat / 2 ^ 48 = max 1 (v.toNat / 2 ^ 48 % 2 ^ 4)) ∧
    (Occurs (.lanemapWrite c v) s fun t => (t.core c).lanemap = k.lanemap &&& v ∧
      (k.lanemap &&& v ≠ k.lanemap → popCount 64 (k.lanemap &&& v).toNat < 32 → (t.core c).fenced = true)) ∧
    core (.fwrootWrite c v) (fun k => { k with fwroot := word (v.toNat % 2 ^ 52) }) ∧
    (s.dev.homes = [i] → i.home = slice → i.frame ∉ s.dev.lost → Occurs (.pageEpoch slice) s fun t =>
      let j := t.dev.frameInfo i.frame
      j.home = i.home ∧ j.promise = i.promise ∧
        (∀ d : Fin 4, (j.counts[d.val]).toNat = (i.counts[d.val]).toNat / 2) ∧
        (i.promise = true → j.move = i.move) ∧
        ∀ (d : Fin 4) (u : SliceId), let n := (i.counts[d.val]).toNat
          64 ≤ n → 2 * ((i.counts.toList.map (·.toNat)).sum - n) ≤ n → i.home.val / 24 ≠ d.val → i.promise = false →
          i.move = none → s.dev.targetSlice (slicesOf d.val) = some u → j.move = some u) ∧
    (∀ u, (s.dev.frameInfo frame.toNat).move = some u → Occurs (.frameMoveSwitch frame) s fun t =>
      t.dev.frameInfo frame.toNat = { s.dev.frameInfo frame.toNat with home := u, move := none } ∧
        t.dev.mem = s.dev.mem ∧ t.cores = s.cores) ∧
    (line.toNat / 1024 < s.dev.frames.toNat → line.toNat / 1024 ∉ s.dev.lost → line.toNat ∉ s.dev.poison →
      Occurs (.moduleUncorrectableError line) s fun t =>
        t.dev = { s.dev with poison := s.dev.poison ++ [line.toNat] } ∧ obtained t) ∧
    (bw.toNat < (if buf = .w then 393216 else 262144) → bw.toNat ∉ k.poisonOf buf →
      Occurs (.bufferWordError c (.wx buf) bw) s fun t =>
        (t.core c).poisonOf buf = k.poisonOf buf ++ [bw.toNat] ∧ t.dev = s.dev ∧ obtained t) ∧
    (Occurs (.bufferWordError c .z bw) s fun t => (t.core c).slots.length = k.slots.length ∧
      ∀ (n : Nat) (z y : Slot), k.slots[n]? = some z → (t.core c).slots[n]? = some y → y.tile = z.tile ∧ y.kind = z.kind ∧
        ∀ e, e ∈ y.poison ↔ e ∈ z.poison ∨ (z.number.toNat = bw.toNat / 1024 ∧ e = bw.toNat % 1024)) ∧
    (let at_ (t : SliceId) : Prop := t.val / 4 % 24 = link.val
     let behind (f : Nat) : Prop := f < s.dev.frames.toNat ∧ at_ (s.dev.frameInfo f).home
     s.dev.linkmap.getLsbD link.val = true →
      (link ∉ s.dev.retiring →
        exec (.linkFailure link true) s = .next (s.modifyDev fun d =>
          { d with retiring := d.retiring ++ [link], fencedLinks := d.fencedLinks ++ [link] })) ∧
      (link ∈ s.dev.retiring → exec (.linkFailure link true) s = .next s) ∧
      (Occurs (.linkFailure link false) s fun t => t.dev.linkmap.getLsbD link.val = false ∧
        (∀ f, behind f → f ∈ t.dev.lost) ∧ waits t at_ ∧
        (s.dev.mem.wf = true → ∀ a, ¬behind (a / 65536) → t.dev.mem.byte a = s.dev.mem.byte a))) ∧
    (link ∈ s.dev.retiring → s.dev.recalibrating false link.val = false → Occurs (.moduleRetireComplete link) s fun t =>
      t.dev.linkmap.getLsbD link.val = false ∧ link ∉ t.dev.retiring ∧ t.cores = s.cores) ∧
    (slice ∉ s.dev.fencedSlices → Occurs (.sliceUncorrectableError slice) s fun t =>
      t.dev.fencedSlices = s.dev.fencedSlices ++ [slice] ∧ waits t (· = slice) ∧
        ∀ f, f < s.dev.frames.toNat → (s.dev.frameInfo f).home = slice → f ∈ t.dev.lost) ∧
    (struck.toNat ∈ [0, 9, 11, 13, 14, 15, 18, 19, 21, 22, 23, 25, 64, 65] → Occurs (.fatalError c struck) s fun t =>
      (t.core c).fenced = true ∧ (k.fatal.length < 4 → ∃ r : Record, (t.core c).fatal = k.fatal ++ [r] ∧
        r.regs.cause = 0x15 ∧ r.regs.val = word struck.toNat ∧ bitAt r.regs.stat.toNat 63 = true)) ∧
    (Occurs (.laneError c lane hit) s fun t => lanePosted t ∧
      ∀ x : UserCtx, hit.ctxs.getLsbD x.val = true → s.status c (userId x) ≠ .free →
        fenced t (s.hart c (userId x)).link.launch) ∧
    exec (.correctedError c none) s = .next s ∧
    (let recent := k.corrected.filter fun e => decide (k.cycles.toNat < e.2 + 2 ^ 28)
     (recent.countP (fun e => e.1 == lane) < 3 → core (.correctedError c (some lane)) fun k =>
       { k with corrected := recent ++ [(lane, k.cycles.toNat)] }) ∧
     (3 ≤ recent.countP (fun e => e.1 == lane) → Occurs (.correctedError c (some lane)) s fun t => lanePosted t ∧
       ∀ e ∈ (t.core c).corrected, e.1 ≠ lane))

/-- The host interface (R116, R117, R127, R134, R433 to R445): writes of the management registers, service commands, BAR2,
boot, device reset, and changes of links and domains: the constructors `mrsvWrite`, `devnumWrite`, `tinvGo`,
`tinvComplete`, `rrInstall`, `rrRemove`, `repheadWrite`, `svcFencecore`, `svcRetiremod`, `svcReturnmod`, `svcRecal`,
`svcStagefw`, `svcAttest`, `recalLaneReturn`, `registerWrite`, `hostBar2Access`, `powerOnBoot`, `deviceReset`,
`linkStateChanged` and `domainReachabilityChange`.  TINV takes its range at GO and empties the translation caches of that
range; a RETIREMOD during a RECAL of its link waits for it (R445).  Choices of the model among these: TINV evicts the links of
its range (log 10); what a device reset empties, and what it keeps beside the links (logs 4 and 46); a BAR2 access beyond
FRAMES is the fault `absentFrame`, and which RESULT a service command gives that R442 does not spell out (log 44); what starts
an image, and the bytes of a quote beyond its digest (log 11); a host write of MRSV (log 82). -/
def Obligations.HostActsComplete : Prop :=
  ∀ (s : State) (v : Word) (c : CoreId) (l : LinkId) (q : QueueId) (quinsia : Bool) (n : BitVec 16)
    (lane : BitVec 3) (lanes : BitVec 4) (off20 : BitVec 20) (off36 : BitVec 36) (tvec fwroot : Word)
    (cells : List Host.Cell) (domain : BitVec 6) (image : FirmwareImage) (boot : BootImage) (access : HostAccess) (cmd : Tinv),
    let dev (i : Instr) (f : Device → Device) : Prop := exec i s = .next (s.modifyDev f)
    let ends (i : Instr) (result : Nat) (p : State → Prop) : Prop :=
      Occurs i s fun t => t.dev.svcBusy = false ∧ t.dev.svcResult.toNat = result ∧ p t
    let slots := popCount 24 s.dev.linkmap.toNat * 2 ^ 22
    let same (t : State) : Prop := t.dev.mem = s.dev.mem ∧ t.cores = s.cores
    let named (page : Nat) : Prop := cmd.len = 0 ∨
      cmd.va.toNat / 2 ^ 16 ≤ page ∧ page ≤ (cmd.va.toNat + cmd.len.toNat - 1) / 2 ^ 16
    (s.dev.placed = [] → Occurs (.mrsvWrite v) s fun t => same t ∧
      t.dev.rsv.toNat = min (v.toNat % 2 ^ 27) (slots - 2 ^ 22) ∧ t.dev.frames.toNat = slots - t.dev.rsv.toNat) ∧
    (s.dev.placed ≠ [] → exec (.mrsvWrite v) s = .next s ∧ exec (.devnumWrite v) s = .next s) ∧
    (s.dev.placed = [] → v.toNat % 2 ^ 16 ≤ 36863 → dev (.devnumWrite v) fun d => { d with devnum := BitVec.ofNat 16 v.toNat }) ∧
    (v.toNat % 2 = 1 → s.dev.tinv = none → dev (.tinvGo v) fun d =>
      { d with tinv := some { asn := d.tinvasn, va := d.tinvva, len := d.tinvlen } }) ∧
    (s.dev.tinv = some cmd → exec (.tinvGo v) s = .next s) ∧
    (s.dev.tinv = some cmd → s.asnSettled cmd.asn = true → s.dev.isMoving = false → Occurs .tinvComplete s fun t =>
      t.dev = { s.dev with tinv := none } ∧
      (∀ d : CoreId, ∀ u ∈ (t.core d).tlb, u.asn = cmd.asn →
        ¬ named u.page.toNat) ∧ ∀ (d : CoreId) (x : UserCtx),
        let h := s.hart d (userId x)
        let r := t.hart d (userId x)
        r.x = h.x ∧ r.vec = h.vec ∧ r.pc = h.pc ∧ t.status d (userId x) = s.status d (userId x) ∧
          (h.link.root.setWidth 16 = cmd.asn → ∀ l ∈ r.links, named (l.va.toNat / 2 ^ 16) → l.active = false)) ∧
    (s.dev.tinv = none → exec .tinvComplete s = .next s) ∧
    (s.dev.tinv = some cmd → s.asnSettled cmd.asn = false ∨ s.dev.isMoving = true → exec .tinvComplete s = .next s) ∧
    (let others := s.dev.remoteRoots.filter fun e => e.1 != s.dev.rrjob
     s.dev.rrLeaving = none →
      (others.length < 64 → Occurs .rrInstall s fun t => t.dev.rrErr = false ∧
        t.dev.remoteRoots = others ++ [(s.dev.rrjob, s.dev.rrroot)]) ∧
      (64 ≤ others.length → dev .rrInstall fun d => { d with rrErr := true })) ∧
    (let job := s.dev.rrLeaving.getD s.dev.rrjob
     (s.remoteInUse job = false → Occurs .rrRemove s fun t => t.dev.rrLeaving = none ∧
      t.dev.remoteRoots = s.dev.remoteRoots.filter (fun e => e.1 != job) ∧
        (t.dev.rrErr = true ↔ ∀ e ∈ s.dev.remoteRoots, e.1 ≠ job)) ∧
     (s.remoteInUse job = true → (∃ e ∈ s.dev.remoteRoots, e.1 = job) →
      dev .rrRemove fun d => { d with rrLeaving := some job, rrErr := false })) ∧
    (Occurs (.repheadWrite v) s fun t => t.dev.rephead = v ∧ same t) ∧
    (s.dev.svcBusy = false →
      (s.dev.svcarg0.toNat = c.val → ends .svcFencecore 0 fun t => (t.core c).fenced = true) ∧
      (4 ≤ s.dev.svcarg0.toNat → s.dev.svcarg0.toNat < 384 → ends .svcFencecore 0 fun t =>
        s.dev.svcarg0.toNat ∈ t.dev.fencedElsewhere) ∧
      (384 ≤ s.dev.svcarg0.toNat → ends .svcFencecore 3 same) ∧
      (s.dev.svcarg0.toNat = l.val →
        (s.dev.linkServes l = true → dev .svcRetiremod fun d =>
          { d with svccmd := 2, svcBusy := true, retiring := d.retiring ++ [l], retiremod := some l }) ∧
        (s.dev.linkServes l = false → ends .svcRetiremod 1 same) ∧
        (s.dev.linkmap.getLsbD l.val = false → ends .svcReturnmod 0 fun t =>
          same t ∧ t.dev.linkmap.getLsbD l.val = true ∧ l ∉ t.dev.fencedLinks) ∧
        (s.dev.linkmap.getLsbD l.val = true → ends .svcReturnmod 1 same)) ∧
      (24 ≤ s.dev.svcarg0.toNat → ends .svcRetiremod 3 same ∧ ends .svcReturnmod 3 same) ∧
      (let width := if quinsia then 4 else 8
       let mask := s.dev.svcarg1.toNat
       s.dev.svcarg0.toNat = n.toNat + (if quinsia then 2 ^ 16 else 0) → n.toNat < (if quinsia then 36 else 24) →
        mask ≠ 0 → mask < 2 ^ width → s.dev.lanesOf quinsia n.toNat ≠ 0 →
        (quinsia = false → s.dev.linkmap.getLsbD n.toNat = true) →
        dev .svcRecal fun d =>
          { d with
            svccmd := 4, svcBusy := true
            recal := d.recal ++ ((List.range width).filter fun i => bitAt mask i).map fun i =>
              (quinsia, n, BitVec.ofNat 3 i) }) ∧
      (let first := s.dev.svcarg1.toNat % 2 ^ 9
       let count := s.dev.svcarg1.toNat / 2 ^ 16 % 2 ^ 9
       let header := s.dev.imageHeader s.dev.svcarg0.toNat
       let payload := s.dev.imagePayload s.dev.svcarg0.toNat
       first + count ≤ 384 → s.dev.holdsBytes s.dev.svcarg0.toNat 2048 = true →
       s.dev.holdsBytes (s.dev.svcarg0.toNat + 2048) payload.length = true →
        (imageOk 1 header payload image.signed = true → ends (.svcStagefw image) 0 fun t => t.dev.mem = s.dev.mem ∧
          (first ≤ c.val → c.val < first + count → (s.core c).fenced = false →
            (t.core c).stagedFw = some { digest := imageDigest header, cells := image.cells }) ∧
          (c.val < first ∨ first + count ≤ c.val ∨ (s.core c).fenced = true → t.core c = s.core c)) ∧
        (imageOk 1 header payload image.signed = false → ends (.svcStagefw image) 2 same) ∧
        (image.signed = false ∨ header % 2 ^ 64 ≠ 0x4D49514B34383356 ∨ header / 2 ^ 64 % 2 ^ 8 ≠ 1 ∨
          header / 2 ^ 96 % 2 ^ 32 < (Config.versionFloor 1).toNat ∨
          imageDigest header ≠ shake256 (bytesOf 64 header ++ payload) → ends (.svcStagefw image) 2 same)) ∧
      (s.dev.holdsBytes s.dev.svcarg0.toNat 32 = true → s.dev.holdsBytes s.dev.svcarg1.toNat 1352 = true →
        ends .svcAttest 0 fun t => t.cores = s.cores ∧
          t.dev.mem = s.dev.mem.write s.dev.svcarg1.toNat 1352 (quoteOf (shake256 (s.dev.quoted s.dev.svcarg0.toNat))))) ∧
    ((quinsia, n, lane) ∈ s.dev.recal →
      let rest := s.dev.recal.filter fun e => e != (quinsia, n, lane)
      (rest ≠ [] → dev (.recalLaneReturn quinsia n lane) fun d => { d with recal := rest }) ∧
      (rest = [] → s.dev.svcBusy = true → s.dev.svccmd = 4 →
        (s.dev.retiremod = none → ends (.recalLaneReturn quinsia n lane) 0 fun t => same t ∧ t.dev.recal = []) ∧
        (s.dev.retiremod = some l → s.dev.linkServes l = true → Occurs (.recalLaneReturn quinsia n lane) s fun t =>
          same t ∧ t.dev.recal = [] ∧ t.dev.svcBusy = true ∧ t.dev.svccmd = 2 ∧ t.dev.retiremod = some l ∧
            t.dev.retiring = s.dev.retiring ++ [l]))) ∧
    (s.dev.svcBusy = true → s.dev.svccmd = 4 → s.dev.recalibrating false l.val = true → s.dev.svcarg0.toNat = l.val →
      dev .svcRetiremod fun d => { d with retiremod := some l }) ∧
    ((∃ t, exec (.registerWrite off20 v) s = .next t) ∧
      exec (.registerWrite 0x08 v) s = exec (.devnumWrite v) s ∧ exec (.registerWrite 0x28 v) s = exec (.mrsvWrite v) s ∧
      exec (.registerWrite 0x58 v) s = exec (.tinvGo v) s ∧ exec (.registerWrite 0x90 v) s = exec (.repheadWrite v) s ∧
      (v.toNat % 4 = 1 → exec (.registerWrite 0x70 v) s = exec .rrInstall s) ∧
      (v.toNat % 4 = 2 → exec (.registerWrite 0x70 v) s = exec .rrRemove s) ∧
      (∀ e ∈ [(1, Instr.svcFencecore), (2, .svcRetiremod), (3, .svcReturnmod), (4, .svcRecal), (6, .svcAttest)],
        v.toNat % 256 = e.1 → exec (.registerWrite 0xB0 v) s = exec e.2 s) ∧
      (v.toNat % 256 = 5 → ∃ signed, exec (.registerWrite 0xB0 v) s = exec (.svcStagefw ⟨signed, []⟩) s.takeFresh) ∧
      exec (.registerWrite (BitVec.ofNat 20 (0x10000 + 32 * q.val + 8)) v) s = exec (.qctlWrite q v) s ∧
      exec (.registerWrite (BitVec.ofNat 20 (0x10000 + 32 * q.val + 16)) v) s = exec (.qtailWrite q v) s ∧
      dev (.registerWrite 0x50 v) (fun d => { d with tinvlen := v }) ∧
      dev (.registerWrite 0x80 v) (fun d => { d with repbase := v }) ∧
      dev (.registerWrite 0x30 v) (fun d => { d with winbase := word (v.toNat / 2 ^ 36 * 2 ^ 36) }) ∧
      dev (.registerWrite 0x40 v) (fun d => { d with tinvasn := BitVec.ofNat 16 v.toNat }) ∧
      dev (.registerWrite 0x48 v) (fun d => { d with tinvva := v }) ∧
      dev (.registerWrite 0x60 v) (fun d => { d with rrjob := v }) ∧
      dev (.registerWrite 0x68 v) (fun d => { d with rrroot := v }) ∧
      dev (.registerWrite 0xA0 v) (fun d => { d with svcarg0 := v }) ∧
      dev (.registerWrite 0xA8 v) (fun d => { d with svcarg1 := v }) ∧
      (s.dev.queues[q.val].en = false → dev (.registerWrite (BitVec.ofNat 20 (0x10000 + 32 * q.val)) v) fun d =>
        { d with queues := d.queues.set q.val { d.queues[q.val] with qbase := v } })) ∧
    (let pa := s.dev.winbase.toNat + off36.toNat
     let n := access.last.toNat + 1
     (s.dev.ready = false → exec (.hostBar2Access off36 access v) s = .next s) ∧
     (s.dev.ready = true →
      (pa + n ≤ s.dev.frames.toNat * 65536 →
        (access.write = false → dev (.hostBar2Access off36 access v) fun d =>
          { d with outgoing := d.outgoing ++ [.bar2 off36 n (d.load pa n)] }) ∧
        (access.write = true → pa % 65536 + n ≤ 65536 →
          (s.dev.isLost pa = false → Occurs (.hostBar2Access off36 access v) s fun t =>
            t.cores = s.cores ∧ t.dev.mem = s.dev.mem.write pa n (v.toNat % 2 ^ (8 * n))) ∧
          (s.dev.isLost pa = true → exec (.hostBar2Access off36 access v) s = .next s))) ∧
      (s.dev.frames.toNat * 65536 < pa + n → exec (.hostBar2Access off36 access v) s = .fault .absentFrame))) ∧
    (let accepted := imageOk 0 boot.header.toNat boot.payload boot.signed
     (s.dev.ready = false → accepted = true → Occurs (.powerOnBoot boot tvec fwroot cells) s fun t => t.dev.ready = true ∧
      (t.core c).tvec = tvec &&& ~~~3 ∧ (t.core c).fwroot = word (fwroot.toNat % 2 ^ 52) ∧
        (t.core c).fw.pc = tvec &&& ~~~3 ∧ (t.core c).fwStatus = .running ∧ (t.core c).ctxs = (s.core c).ctxs ∧
          t.dev.bootDigest = imageDigest boot.header.toNat ∧ t.dev.fwDigests = List.replicate 384 boot.firmware ∧
          (cells = [] → t.dev.mem = s.dev.mem)) ∧
     (accepted = false ∨ s.dev.ready = true → exec (.powerOnBoot boot tvec fwroot cells) s = .next s)) ∧
    (Occurs .deviceReset s fun t => t.cores = State.reset.cores ∧ t.dev.ready = false ∧ t.dev.mem = [] ∧
      t.dev.poison = [] ∧ t.dev.lost = [] ∧ t.dev.placed = [] ∧ t.dev.records = [] ∧ t.dev.queues = State.reset.dev.queues ∧
        t.dev.linkmap = s.dev.linkmap) ∧
    (n.toNat < (if quinsia then 36 else 24) → Occurs (.linkStateChanged quinsia n lanes) s fun t => same t ∧
      ((quinsia, n, lanes) ∈ t.dev.narrow ↔ lanes.toNat < (if quinsia then 4 else 8)) ∧
        ∀ e ∈ t.dev.narrow, e ≠ (quinsia, n, lanes) → e ∈ s.dev.narrow ∧ (e.1, e.2.1) ≠ (quinsia, n)) ∧
    (Occurs (.domainReachabilityChange domain quinsia) s fun t => same t ∧ t.dev.dommap.getLsbD domain.toNat = quinsia ∧
      ∀ i, i ≠ domain.toNat → t.dev.dommap.getLsbD i = s.dev.dommap.getLsbD i)

namespace Sys2Proof.Stated

open Sys2Proof.Machine

/-! ### What instructions leave as it was, decoding, steps and reset -/

/-- Nothing changes but the registers of the hart that acts, and the busy cycles that its work queues. -/
def OnlyHart (s t : State) : Prop :=
  t.dev = s.dev ∧ t.cur = s.cur ∧ t.agenda = s.agenda ∧ t.fresh = s.fresh ∧
    (∀ c x, c ≠ s.cur.core ∨ x ≠ s.cur.ctx → t.hart c x = s.hart c x) ∧ (∀ c x, t.status c x = s.status c x) ∧
      ∀ c, t.core c = { s.core c with
        ctxs := (t.core c).ctxs, fw := (t.core c).fw, busy := (t.core c).busy, handed := (t.core c).handed }

/-- Every scalar register but D holds what it held, with its full/empty bit. -/
def OtherRegisters (s t : State) (d : Reg) : Prop :=
  ∀ g, g ≠ d → t.me.readX g = s.me.readX g ∧ t.me.isFull g = s.me.isFull g

/-- The scalar instructions that name registers alone, with what each asks. -/
def registerOnly (d a n : Reg) (b : Src) (fa : Bool) (imm : BitVec 14) (imm20 : BitVec 20) : List (Instr × Uses) :=
  integerTable.map (fun e => (e.1 d a b fa, binaryUses d a b fa))
    ++ floatTable.map (fun e => (e.1 d a b fa, binaryUses d a b fa))
    ++ [.clz d a fa, .ctz d a fa, .popc d a fa, .fsqrt d a fa, .fcvtif d a fa, .fcvtfi d a fa, .fclass d a fa].map
      (fun i => (i, unaryUses d a fa))
    ++ [(.cmov d a b fa, ternaryUses d a b fa), (.ffma d a b fa, ternaryUses d a b fa),
      (.addi d a imm, unaryUses d a false), (.li d imm20, constUses d), (.fli d imm20, constUses d), (.lc d n, constUses d)]

/-- The vector instructions that write the tile of D from elements of A and B, with what each asks. -/
def tileOnly (s : State) (d a : Reg) (b : Src) (fa : Bool) : List (Instr × Uses) :=
  vectorIntegerTable.map (fun e => (e.1 d a b fa, s.elemUses .vint d a b fa false))
    ++ vectorFloatTable.map (fun e => (e.1 d a b fa, s.floatUses d a b fa false))
    ++ vectorFloatUnaryTable.map (fun e => (e.1 d a fa, s.floatUnaryUses d a fa))

/-- Words of the worked encodings of the chapters, one or two of a family, each with its instruction. -/
noncomputable def wordTable : List (List (BitVec 32) × Instr) :=
  [([0x04304220], .add 3 1 (.reg 2 false) true), ([0x0C48BFFD], .addi 4 34 (-3)), ([0x1823FC00], .fli 2 0x3FC00),
   ([0x303040C7, 0x3F000000], .ffma 3 1 (.lit 0x3F000000) false), ([0x4033FFFB], .br 3 1 (-5)), ([0x45F0000C], .jal 31 12),
   ([0x5013FFFA], .strip 1 3 (-6)), ([0x549BE004], .ldbs 9 47 (-128) false), ([0x5428FFCA], .stw 2 35 (-1) false false),
   ([0x585886C9], .amocas 5 34 6 3 false false), ([0x60304200], .vadd 3 1 (.reg 2 false) false),
   ([0x64108303], .vcmplt 1 2 (.reg 3 false) false), ([0x80304740], .vfadd 3 1 (.scalar 7 false) false),
   ([0x84210800], .vfcvt 2 4 1 0 false), ([0x9020C442], .vredmax 2 3 (.scalar 4 false) false),
   ([0x98108009], .mshup 1 2), ([0xA038BF81], .vlds 3 34 (-2) false), ([0xA448C500], .vldx 4 35 5 false false),
   ([0xB0294604], .scond 2 37 (.reg 6 false) false), ([0xB81000C0, 16], .vconf 1 (.lit 16)),
   ([0xC002032E], .mma 0 8 3 2 3 true), ([0xC4604943], .zext 6 1 (.scalar 9 false)),
   ([0xD0900781], .kseed 9 (.const 7)), ([0xD4C900C1, 0xC0300142], .cpymma 12 36 false 3 0 1 4 0 true),
   ([0xDA28C402], .bind 34 35 (.reg 4 false) false), ([0xDC996602], .peq 9 37 38 false false), ([0xE058C002], .xwait 5 35 false),
   ([0xE4518202], .cancel 5 6 2 false), ([0xE8398108], .ctxswSin 3 38 false), ([0xF020C0C5, 40], .aj 2 3 (.lit 40)),
   ([0xF400000B], .await 11)]

end Sys2Proof.Stated

/-- The frame of the instructions that name registers alone: a scalar one leaves every other scalar register and
everything but the program counter as it was, a vector one every other vector register, every element outside the tile,
every mask and every scalar register, and a compare every other mask; memory is as it was. -/
def Obligations.RegisterFrame : Prop :=
  ∀ (s t : State) (d a n : Reg) (b : Src) (fa : Bool) (imm : BitVec 14) (imm20 : BitVec 20),
    (∀ e ∈ registerOnly d a n b fa imm imm20, s.Admits e.2 → exec e.1 s = .next t →
      OnlyHart s t ∧ OtherRegisters s t d ∧
        t.me = { s.me with
          x := t.me.x, full := t.me.full, pc := t.me.pc, eltDone := 0, popFault := false, appending := none, rowDone := 0 }) ∧
    (∀ e ∈ tileOnly s d a b fa, s.Admits e.2 → Unbound s.me ([d, a] ++ srcTiles b) → exec e.1 s = .next t →
      OnlyHart s t ∧ (∀ r, r ≠ d → t.me.readV r = s.me.readV r) ∧ (∀ r, t.me.readM r = s.me.readM r) ∧
        (∀ j, s.me.tile ≤ j → elem s.me.sew (t.me.readV d) j = vElem s.me d j) ∧
        t.me = { s.me with
          vec := { s.me.vec with v := t.me.vec.v }, vfull := t.me.vfull, pc := t.me.pc, eltDone := 0, popFault := false,
            appending := none, rowDone := 0 }) ∧
    (∀ e ∈ vectorCompareTable, s.Admits (s.compareUses .vint d a b fa) → Unbound s.me (a :: srcTiles b) →
      exec (e.1 d a b fa) s = .next t →
      OnlyHart s t ∧ (∀ r, r ≠ d → t.me.readM r = s.me.readM r) ∧ (∀ r, t.me.readV r = s.me.readV r) ∧
        t.me = { s.me with
          vec := { s.me.vec with m := t.me.vec.m }, pc := t.me.pc, eltDone := 0, popFault := false, appending := none
          rowDone := 0 })

/-- The frame of scalar memory accesses: a load changes D alone; a store changes no register and no byte of memory before
its strip commits, and joins the strip at the address that A and the offset give; the commit of a strip changes no byte
outside its stores and additions; an atomic changes D and the bytes of its word. -/
def Obligations.MemoryFrame : Prop :=
  ∀ (s t : State) (d a b : Reg) (off : BitVec 8) (ord : BitVec 2) (fa fb : Bool) (p : Place) (pa : Nat),
    (∀ e ∈ loadTable, let n := e.2.1
      let va := BitVec.ofInt 64 ((s.me.readX a).toInt + off.toInt * n)
      s.Admits (loadUses d a fa) → va.toNat % n = 0 → s.place (.scalar (n == 8)) .load va = .ok p →
      s.meetsPoison p n = false → exec (e.1 d a off fa) s = .next t →
        OtherRegisters s t d ∧ t.dev = { s.dev with homes := t.dev.homes } ∧ (∀ c, (t.core c).bufX = (s.core c).bufX) ∧
          t.me = { s.me with
            full := t.me.full, fills := t.me.fills, pc := t.me.pc, eltDone := 0, popFault := false
            appending := none, rowDone := 0 }) ∧
    (∀ e ∈ storeTable, let n := e.2
      let va := BitVec.ofInt 64 ((s.me.readX a).toInt + off.toInt * n)
      s.Admits (storeUses d a fa fb) → va.toNat % n = 0 → s.place (.scalar (n == 8)) .store va = .ok p →
      exec (e.1 d a off fa fb) s = .next t →
        t.dev = { s.dev with homes := t.dev.homes } ∧
          t.me = { s.me with
            strip := s.me.strip ++ [.stores [(p, n, (s.me.readX d).toNat % 2 ^ (8 * n))] []], pc := t.me.pc, eltDone := 0
            popFault := false, appending := none, rowDone := 0 }) ∧
    (s.dev.mem.wf = true → ∀ x,
      (∀ es wrote, .stores es wrote ∈ s.me.strip → ∀ q ∈ es, ∀ pa, q.1 = .main pa → x < pa ∨ pa + q.2.1 ≤ x) →
      (∀ add free, .scatter add free ∈ s.me.strip → x < add.pa.toNat ∨ add.pa.toNat + 2 ^ add.log2Size.val ≤ x) →
        s.commitStrip.dev.mem.byte x = s.dev.mem.byte x ∧ s.commitStrip.me.x = s.me.x) ∧
    (∀ e ∈ atomicTable, let u := atomicUses false d a b fa fb (if ord.getLsbD 1 then some s.me.systemScope else none)
      let s1 := s.begun u
      s.Admits u → (s1.me.readX a).toNat % 8 = 0 → s1.place .memory .rmw (s1.me.readX a) = .ok (.main pa) →
      s1.dev.isPoisoned pa = false → s1.blocksWrite [(.main pa, 8)] = false → s1.dev.mem.wf = true →
      exec (e.1 d a b ord fa fb) s = .next t →
        (∀ x, x < pa ∨ pa + 8 ≤ x → t.dev.mem.byte x = s1.dev.mem.byte x) ∧ t.me.vec = s.me.vec ∧
          ∀ g, g ≠ d → t.me.readX g = s.me.readX g)

/-- The machine right after reset (R17, R27, R117, R365, R367, R378, R382, R384, R391, R412, R435, R440): no hart is on a
core, entry 31 of SLOTTAB names the firmware context, the system registers hold the values of their tables, and memory is
in its canonical form.  The model's own choices are not part of it: logs 3 and 4. -/
def Obligations.ResetValues : Prop :=
  let d := State.reset.dev
  d.mem.wf = true ∧ d.poison = [] ∧ d.lost = [] ∧ d.ready = false ∧ d.rsv = 0x10000 ∧ d.frames = 100597760 ∧
  d.linkmap = BitVec.allOnes 24 ∧ d.placed = [] ∧ d.pool = [] ∧ d.records = [] ∧ d.switchedOut = [] ∧ d.devnum = 0 ∧
  (∀ q : QueueId, (d.queues[q.val]).weight = 1 ∧ (d.queues[q.val]).en = false ∧ (d.queues[q.val]).log2n = 1 ∧
    (d.queues[q.val]).head = 0 ∧ (d.queues[q.val]).tail = 0) ∧
  ∀ c : CoreId,
    let k := State.reset.core c
    (∀ x, State.reset.status c x = if x = 4 then .running else .free) ∧
    (∀ e : Fin 32, k.slottab[e.val] = if e = 31 then 4 else 7) ∧ k.fatalrec = 0 ∧ k.fatal = [] ∧ k.ordinary = [] ∧
    k.ctxsel = 0 ∧ k.lanemap = BitVec.allOnes 64 ∧ k.grant = 4096 ∧ k.gcap = 4096 ∧ k.allow = 0xFF ∧ k.withdrawn = 0 ∧
    k.meter = 0 ∧ k.nrgs = 1200 ∧ k.srhen = 0 ∧ k.cycles = 0 ∧ k.fenced = false ∧ k.slots = [] ∧ k.power = .on ∧
    (List.range 10).map (fun j => k.actw.toNat / 2 ^ (4 * j) % 16) = [0, 1, 2, 2, 1, 2, 3, 2, 1, 1] ∧
    k.actw.toNat / 2 ^ 40 % 256 = 96 ∧ k.actw.toNat / 2 ^ 48 = 3 ∧
    (List.range 10).map (fun j => k.nrgw.toNat / 2 ^ (6 * j) % 64) = [1, 6, 12, 16, 10, 60, 50, 8, 10, 4] ∧
    k.nrgw.toNat < 2 ^ 60 ∧ ∀ n : Fin 16, k.notify[n.val] = 0

/-- Encoding and decoding agree (R38 to R48): the words of every well-formed instruction that a word encodes, with every
operand at every value, are read back as that instruction, and the words after them are left. -/
def Obligations.DecodeEncode : Prop :=
  ∀ (i : Instr) (ws : List (BitVec 32)), i.wf = true → encode i ≠ [] → decode (encode i ++ ws) = .ok (i, ws)

/-- Words of the chapters' worked encodings are read as the instructions they stand for; a reserved major (R46) and a
function code that its major does not list are rejected by name. -/
def Obligations.WorkedEncodings : Prop :=
  (∀ e ∈ wordTable, decode e.1 = .ok (e.2, [])) ∧
  (∀ w lit : Nat, w / 2 ^ 26 ∈ [0x00, 0x05, 0x08, 0x09, 0x0A, 0x0B, 0x0D, 0x0E, 0x0F, 0x17, 0x1A, 0x1B, 0x1C, 0x1D, 0x1E, 0x1F,
    0x22, 0x23, 0x27, 0x2A, 0x2B, 0x2D, 0x2F, 0x32, 0x33,
    0x3B, 0x3E, 0x3F] → decodeWord w lit = .error .major) ∧
  (∀ w lit : Nat, w / 2 ^ 26 = 0x3A → 10 ≤ w % 16 → decodeWord w lit = .error .function) ∧
  ∀ w lit : Nat, w / 2 ^ 26 = 0x3C → 11 ≤ w % 16 → decodeWord w lit = .error .function

/-- A step fetches, decodes and runs (R42 to R44, R47, R51, R381): when the next act is a cycle of a core and its entry
chooses a hart none of whose work is withheld, whose next word, in the block that holds the program counter, decodes to a
well-formed instruction, the step is exec of that instruction; a word that does not decode raises ILLEGAL with the word in
TVAL, and a block that cannot be fetched raises its fault, with the element and the row at which the hart goes on.  A hart
whose work is withheld waits.  A Second's step is exec of the word of its book. -/
def Obligations.StepRunsDecoded : Prop :=
  ∀ (s : State) (c : CoreId) (x : UserCtx) (rest : List Act) (i : Instr) (book : Book),
    (let s0 : State := { s with agenda := rest, cur := { s.cur with issues := false } }
     let s1 := s0.beginCycle c
     let s2 : State := { s1 with cur := { s1.cur with issues := false } }
     let pc := s2.me.pc
     let n := pc.toNat / 4 % 16
     s.agenda = .event (.issueCycle c) :: rest → s1.cur.issues = true → s2.me.dueTrap = none →
      (s2.heldBack = true → step s = .next s2.stall) ∧
      (s2.heldBack = false → (s2.me.first = true → pc.toNat % 4 = 0) →
        match s2.fetchBlock pc with
        | .error cause => step s = .next (s2.takeTrap
            { cause, val := pc, elt := word s2.me.eltDone, row := BitVec.ofNat 5 s2.me.rowDone })
        | .ok (ws, s3) =>
          let w := (ws[n]?).getD 0
          let lit := (ws[n + 1]?).getD 0
          let s4 : State := { s3.modifyMe fun h => { h with first := false } with cur := { s3.cur with word := w } }
          (s2.me.first = true → isLiteralAt ws pc = false) → w.toNat / 2 ^ 26 ≠ 0x3C → w.toNat / 2 ^ 26 ≠ 0x3D →
            (n = 15 → literalBearing w.toNat = false) →
            (decodeWord w.toNat lit.toNat = .ok i → i.wf = true → step s = exec i s4) ∧
            (∀ e, e ≠ .followOn → decodeWord w.toNat lit.toNat = .error e →
              step s = .next (s4.takeTrap { cause := 0x01, val := word w.toNat })))) ∧
    (let s0 : State := { s with agenda := rest, cur := { s.cur with issues := false } }
     let s1 := s0.actingAs c (userId x)
     let v := (s.core c).advice[x.val]
     let w := (book.code[v.pc]?).getD 0
     s.agenda = .second c x :: rest → v.running = true → (s.core c).bookOf x = some book → v.pc < book.code.length →
      (w.toNat / 2 ^ 26 = 0x3C ∨ w.toNat / 2 ^ 26 = 0x3D) → (v.pc % 16 = 15 → literalBearing w.toNat = false) →
      decodeWord w.toNat ((book.code[v.pc + 1]?).getD 0).toNat = .ok i → i.wf = true →
      ∀ t, exec i s1 = .next t → t.cur.issues = false → step s = .next t)

/-- No instruction is refused, and the one stop of the machine is a host access through BAR2 to bytes beyond main memory:
R116 gives the device no such frame, R433 gives the access no effect, and that the machine then stops with a fault of that
name is the model's choice (log 44). -/
def Obligations.StepGoesOn : Prop :=
  ∀ s : State, (∃ t, step s = .next t) ∨
    (step s = .fault .absentFrame ∧ ∃ offset access data rest,
      s.agenda = .event (.hostBar2Access offset access data) :: rest ∧ s.dev.ready = true ∧
        s.dev.frames.toNat * 65536 < s.dev.winbase.toNat + offset.toNat + access.last.toNat + 1)

/-- Main memory and the typed buffers keep their canonical form: equal contents are equal data (R15, R116, R137). -/
def Obligations.StepKeepsMemoryForm : Prop :=
  ∀ s t : State, s.dev.mem.wf = true → (∀ c, (s.core c).bufW.wf = true ∧ (s.core c).bufX.wf = true) → step s = .next t →
    t.dev.mem.wf = true ∧ ∀ c, (t.core c).bufW.wf = true ∧ (t.core c).bufX.wf = true
end

