-- ==== Sys2Proof/Laws/Dispatch.lean ====
section
/-!
SUPPORT. Each arm of exec as an equation: exec of an instruction is its meaning.
-/

namespace Sys2Proof.Machine

theorem exec_add (d a : Reg) (b : Src) (fa : Bool) (s : State) : exec (.add d a b fa) s = execAdd d a b fa s := rfl
theorem exec_sub (d a : Reg) (b : Src) (fa : Bool) (s : State) : exec (.sub d a b fa) s = execSub d a b fa s := rfl
theorem exec_mul (d a : Reg) (b : Src) (fa : Bool) (s : State) : exec (.mul d a b fa) s = execMul d a b fa s := rfl
theorem exec_mulhs (d a : Reg) (b : Src) (fa : Bool) (s : State) :
    exec (.mulhs d a b fa) s = execMulhs d a b fa s := rfl
theorem exec_mulhu (d a : Reg) (b : Src) (fa : Bool) (s : State) :
    exec (.mulhu d a b fa) s = execMulhu d a b fa s := rfl
theorem exec_divs (d a : Reg) (b : Src) (fa : Bool) (s : State) : exec (.divs d a b fa) s = execDivs d a b fa s := rfl
theorem exec_divu (d a : Reg) (b : Src) (fa : Bool) (s : State) : exec (.divu d a b fa) s = execDivu d a b fa s := rfl
theorem exec_rems (d a : Reg) (b : Src) (fa : Bool) (s : State) : exec (.rems d a b fa) s = execRems d a b fa s := rfl
theorem exec_remu (d a : Reg) (b : Src) (fa : Bool) (s : State) : exec (.remu d a b fa) s = execRemu d a b fa s := rfl
theorem exec_and (d a : Reg) (b : Src) (fa : Bool) (s : State) : exec (.and d a b fa) s = execAnd d a b fa s := rfl
theorem exec_or (d a : Reg) (b : Src) (fa : Bool) (s : State) : exec (.or d a b fa) s = execOr d a b fa s := rfl
theorem exec_xor (d a : Reg) (b : Src) (fa : Bool) (s : State) : exec (.xor d a b fa) s = execXor d a b fa s := rfl
theorem exec_andn (d a : Reg) (b : Src) (fa : Bool) (s : State) : exec (.andn d a b fa) s = execAndn d a b fa s := rfl
theorem exec_shl (d a : Reg) (b : Src) (fa : Bool) (s : State) : exec (.shl d a b fa) s = execShl d a b fa s := rfl
theorem exec_shr (d a : Reg) (b : Src) (fa : Bool) (s : State) : exec (.shr d a b fa) s = execShr d a b fa s := rfl
theorem exec_sra (d a : Reg) (b : Src) (fa : Bool) (s : State) : exec (.sra d a b fa) s = execSra d a b fa s := rfl
theorem exec_rotl (d a : Reg) (b : Src) (fa : Bool) (s : State) : exec (.rotl d a b fa) s = execRotl d a b fa s := rfl
theorem exec_clz (d a : Reg) (fa : Bool) (s : State) : exec (.clz d a fa) s = execClz d a fa s := rfl
theorem exec_ctz (d a : Reg) (fa : Bool) (s : State) : exec (.ctz d a fa) s = execCtz d a fa s := rfl
theorem exec_popc (d a : Reg) (fa : Bool) (s : State) : exec (.popc d a fa) s = execPopc d a fa s := rfl
theorem exec_mins (d a : Reg) (b : Src) (fa : Bool) (s : State) : exec (.mins d a b fa) s = execMins d a b fa s := rfl
theorem exec_maxs (d a : Reg) (b : Src) (fa : Bool) (s : State) : exec (.maxs d a b fa) s = execMaxs d a b fa s := rfl
theorem exec_minu (d a : Reg) (b : Src) (fa : Bool) (s : State) : exec (.minu d a b fa) s = execMinu d a b fa s := rfl
theorem exec_maxu (d a : Reg) (b : Src) (fa : Bool) (s : State) : exec (.maxu d a b fa) s = execMaxu d a b fa s := rfl
theorem exec_slt (d a : Reg) (b : Src) (fa : Bool) (s : State) : exec (.slt d a b fa) s = execSlt d a b fa s := rfl
theorem exec_sltu (d a : Reg) (b : Src) (fa : Bool) (s : State) : exec (.sltu d a b fa) s = execSltu d a b fa s := rfl
theorem exec_seq (d a : Reg) (b : Src) (fa : Bool) (s : State) : exec (.seq d a b fa) s = execSeq d a b fa s := rfl
theorem exec_cmov (d a : Reg) (b : Src) (fa : Bool) (s : State) : exec (.cmov d a b fa) s = execCmov d a b fa s := rfl
theorem exec_exts (d a : Reg) (b : Src) (fa : Bool) (s : State) : exec (.exts d a b fa) s = execExts d a b fa s := rfl
theorem exec_addi (d a : Reg) (imm : BitVec 14) (s : State) : exec (.addi d a imm) s = execAddi d a imm s := rfl
theorem exec_li (d : Reg) (imm : BitVec 20) (s : State) : exec (.li d imm) s = execLi d imm s := rfl
theorem exec_fli (d : Reg) (imm : BitVec 20) (s : State) : exec (.fli d imm) s = execFli d imm s := rfl
theorem exec_lc (d n : Reg) (s : State) : exec (.lc d n) s = execLc d n s := rfl
theorem exec_fadd (d a : Reg) (b : Src) (fa : Bool) (s : State) : exec (.fadd d a b fa) s = execFadd d a b fa s := rfl
theorem exec_fsub (d a : Reg) (b : Src) (fa : Bool) (s : State) : exec (.fsub d a b fa) s = execFsub d a b fa s := rfl
theorem exec_fmul (d a : Reg) (b : Src) (fa : Bool) (s : State) : exec (.fmul d a b fa) s = execFmul d a b fa s := rfl
theorem exec_fdiv (d a : Reg) (b : Src) (fa : Bool) (s : State) : exec (.fdiv d a b fa) s = execFdiv d a b fa s := rfl
theorem exec_fsqrt (d a : Reg) (fa : Bool) (s : State) : exec (.fsqrt d a fa) s = execFsqrt d a fa s := rfl
theorem exec_fmin (d a : Reg) (b : Src) (fa : Bool) (s : State) : exec (.fmin d a b fa) s = execFmin d a b fa s := rfl
theorem exec_fmax (d a : Reg) (b : Src) (fa : Bool) (s : State) : exec (.fmax d a b fa) s = execFmax d a b fa s := rfl
theorem exec_ffma (d a : Reg) (b : Src) (fa : Bool) (s : State) : exec (.ffma d a b fa) s = execFfma d a b fa s := rfl
theorem exec_feq (d a : Reg) (b : Src) (fa : Bool) (s : State) : exec (.feq d a b fa) s = execFeq d a b fa s := rfl
theorem exec_flt (d a : Reg) (b : Src) (fa : Bool) (s : State) : exec (.flt d a b fa) s = execFlt d a b fa s := rfl
theorem exec_fle (d a : Reg) (b : Src) (fa : Bool) (s : State) : exec (.fle d a b fa) s = execFle d a b fa s := rfl
theorem exec_fcvtif (d a : Reg) (fa : Bool) (s : State) : exec (.fcvtif d a fa) s = execFcvtif d a fa s := rfl
theorem exec_fcvtfi (d a : Reg) (fa : Bool) (s : State) : exec (.fcvtfi d a fa) s = execFcvtfi d a fa s := rfl
theorem exec_fsgnj (d a : Reg) (b : Src) (fa : Bool) (s : State) :
    exec (.fsgnj d a b fa) s = execFsgnj d a b fa s := rfl
theorem exec_fclass (d a : Reg) (fa : Bool) (s : State) : exec (.fclass d a fa) s = execFclass d a fa s := rfl
theorem exec_br (a : Reg) (cond : BitVec 3) (off : BitVec 17) (s : State) :
    exec (.br a cond off) s = execBr a cond off s := rfl
theorem exec_jal (d : Reg) (imm : BitVec 20) (s : State) : exec (.jal d imm) s = execJal d imm s := rfl
theorem exec_jr (d a : Reg) (fa : Bool) (s : State) : exec (.jr d a fa) s = execJr d a fa s := rfl
theorem exec_jtab (d a b : Reg) (fa fb : Bool) (s : State) :
    exec (.jtab d a b fa fb) s = execJtab d a b fa fb s := rfl
theorem exec_mark (imm : BitVec 20) (s : State) : exec (.mark imm) s = execMark imm s := rfl
theorem exec_strip (cnt : Reg) (asel : BitVec 4) (off : BitVec 16) (s : State) :
    exec (.strip cnt asel off) s = execStrip cnt asel off s := rfl
theorem exec_ldb (d a : Reg) (off : BitVec 8) (fa : Bool) (s : State) :
    exec (.ldb d a off fa) s = execLdb d a off fa s := rfl
theorem exec_ldh (d a : Reg) (off : BitVec 8) (fa : Bool) (s : State) :
    exec (.ldh d a off fa) s = execLdh d a off fa s := rfl
theorem exec_ldw (d a : Reg) (off : BitVec 8) (fa : Bool) (s : State) :
    exec (.ldw d a off fa) s = execLdw d a off fa s := rfl
theorem exec_ldd (d a : Reg) (off : BitVec 8) (fa : Bool) (s : State) :
    exec (.ldd d a off fa) s = execLdd d a off fa s := rfl
theorem exec_ldbs (d a : Reg) (off : BitVec 8) (fa : Bool) (s : State) :
    exec (.ldbs d a off fa) s = execLdbs d a off fa s := rfl
theorem exec_ldhs (d a : Reg) (off : BitVec 8) (fa : Bool) (s : State) :
    exec (.ldhs d a off fa) s = execLdhs d a off fa s := rfl
theorem exec_ldws (d a : Reg) (off : BitVec 8) (fa : Bool) (s : State) :
    exec (.ldws d a off fa) s = execLdws d a off fa s := rfl
theorem exec_stb (d a : Reg) (off : BitVec 8) (fa fb : Bool) (s : State) :
    exec (.stb d a off fa fb) s = execStb d a off fa fb s := rfl
theorem exec_sth (d a : Reg) (off : BitVec 8) (fa fb : Bool) (s : State) :
    exec (.sth d a off fa fb) s = execSth d a off fa fb s := rfl
theorem exec_stw (d a : Reg) (off : BitVec 8) (fa fb : Bool) (s : State) :
    exec (.stw d a off fa fb) s = execStw d a off fa fb s := rfl
theorem exec_std (d a : Reg) (off : BitVec 8) (fa fb : Bool) (s : State) :
    exec (.std d a off fa fb) s = execStd d a off fa fb s := rfl
theorem exec_amoadd (d a b : Reg) (ord : BitVec 2) (fa fb : Bool) (s : State) :
    exec (.amoadd d a b ord fa fb) s = execAmoadd d a b ord fa fb s := rfl
theorem exec_amoand (d a b : Reg) (ord : BitVec 2) (fa fb : Bool) (s : State) :
    exec (.amoand d a b ord fa fb) s = execAmoand d a b ord fa fb s := rfl
theorem exec_amoor (d a b : Reg) (ord : BitVec 2) (fa fb : Bool) (s : State) :
    exec (.amoor d a b ord fa fb) s = execAmoor d a b ord fa fb s := rfl
theorem exec_amoxor (d a b : Reg) (ord : BitVec 2) (fa fb : Bool) (s : State) :
    exec (.amoxor d a b ord fa fb) s = execAmoxor d a b ord fa fb s := rfl
theorem exec_amomins (d a b : Reg) (ord : BitVec 2) (fa fb : Bool) (s : State) :
    exec (.amomins d a b ord fa fb) s = execAmomins d a b ord fa fb s := rfl
theorem exec_amomaxs (d a b : Reg) (ord : BitVec 2) (fa fb : Bool) (s : State) :
    exec (.amomaxs d a b ord fa fb) s = execAmomaxs d a b ord fa fb s := rfl
theorem exec_amominu (d a b : Reg) (ord : BitVec 2) (fa fb : Bool) (s : State) :
    exec (.amominu d a b ord fa fb) s = execAmominu d a b ord fa fb s := rfl
theorem exec_amomaxu (d a b : Reg) (ord : BitVec 2) (fa fb : Bool) (s : State) :
    exec (.amomaxu d a b ord fa fb) s = execAmomaxu d a b ord fa fb s := rfl
theorem exec_amoswap (d a b : Reg) (ord : BitVec 2) (fa fb : Bool) (s : State) :
    exec (.amoswap d a b ord fa fb) s = execAmoswap d a b ord fa fb s := rfl
theorem exec_amocas (d a b : Reg) (ord : BitVec 2) (fa fb : Bool) (s : State) :
    exec (.amocas d a b ord fa fb) s = execAmocas d a b ord fa fb s := rfl
theorem exec_amofadd (d a b : Reg) (ord : BitVec 2) (fa fb : Bool) (s : State) :
    exec (.amofadd d a b ord fa fb) s = execAmofadd d a b ord fa fb s := rfl
theorem exec_vadd (d a : Reg) (b : Src) (fa : Bool) (s : State) : exec (.vadd d a b fa) s = execVadd d a b fa s := rfl
theorem exec_vsub (d a : Reg) (b : Src) (fa : Bool) (s : State) : exec (.vsub d a b fa) s = execVsub d a b fa s := rfl
theorem exec_vmul (d a : Reg) (b : Src) (fa : Bool) (s : State) : exec (.vmul d a b fa) s = execVmul d a b fa s := rfl
theorem exec_vmulhs (d a : Reg) (b : Src) (fa : Bool) (s : State) :
    exec (.vmulhs d a b fa) s = execVmulhs d a b fa s := rfl
theorem exec_vmulhu (d a : Reg) (b : Src) (fa : Bool) (s : State) :
    exec (.vmulhu d a b fa) s = execVmulhu d a b fa s := rfl
theorem exec_vmadd (d a : Reg) (b : Src) (fa : Bool) (s : State) :
    exec (.vmadd d a b fa) s = execVmadd d a b fa s := rfl
theorem exec_vand (d a : Reg) (b : Src) (fa : Bool) (s : State) : exec (.vand d a b fa) s = execVand d a b fa s := rfl
theorem exec_vor (d a : Reg) (b : Src) (fa : Bool) (s : State) : exec (.vor d a b fa) s = execVor d a b fa s := rfl
theorem exec_vxor (d a : Reg) (b : Src) (fa : Bool) (s : State) : exec (.vxor d a b fa) s = execVxor d a b fa s := rfl
theorem exec_vshl (d a : Reg) (b : Src) (fa : Bool) (s : State) : exec (.vshl d a b fa) s = execVshl d a b fa s := rfl
theorem exec_vshr (d a : Reg) (b : Src) (fa : Bool) (s : State) : exec (.vshr d a b fa) s = execVshr d a b fa s := rfl
theorem exec_vsra (d a : Reg) (b : Src) (fa : Bool) (s : State) : exec (.vsra d a b fa) s = execVsra d a b fa s := rfl
theorem exec_vmins (d a : Reg) (b : Src) (fa : Bool) (s : State) :
    exec (.vmins d a b fa) s = execVmins d a b fa s := rfl
theorem exec_vmaxs (d a : Reg) (b : Src) (fa : Bool) (s : State) :
    exec (.vmaxs d a b fa) s = execVmaxs d a b fa s := rfl
theorem exec_vminu (d a : Reg) (b : Src) (fa : Bool) (s : State) :
    exec (.vminu d a b fa) s = execVminu d a b fa s := rfl
theorem exec_vmaxu (d a : Reg) (b : Src) (fa : Bool) (s : State) :
    exec (.vmaxu d a b fa) s = execVmaxu d a b fa s := rfl
theorem exec_vadc (d a : Reg) (b : Src) (fa : Bool) (s : State) : exec (.vadc d a b fa) s = execVadc d a b fa s := rfl
theorem exec_vsbc (d a : Reg) (b : Src) (fa : Bool) (s : State) : exec (.vsbc d a b fa) s = execVsbc d a b fa s := rfl
theorem exec_vcmpeq (d a : Reg) (b : Src) (fa : Bool) (s : State) :
    exec (.vcmpeq d a b fa) s = execVcmpeq d a b fa s := rfl
theorem exec_vcmplt (d a : Reg) (b : Src) (fa : Bool) (s : State) :
    exec (.vcmplt d a b fa) s = execVcmplt d a b fa s := rfl
theorem exec_vcmpltu (d a : Reg) (b : Src) (fa : Bool) (s : State) :
    exec (.vcmpltu d a b fa) s = execVcmpltu d a b fa s := rfl
theorem exec_vcmple (d a : Reg) (b : Src) (fa : Bool) (s : State) :
    exec (.vcmple d a b fa) s = execVcmple d a b fa s := rfl
theorem exec_vcmpleu (d a : Reg) (b : Src) (fa : Bool) (s : State) :
    exec (.vcmpleu d a b fa) s = execVcmpleu d a b fa s := rfl
theorem exec_vmerge (d a : Reg) (b : Src) (fa : Bool) (s : State) :
    exec (.vmerge d a b fa) s = execVmerge d a b fa s := rfl
theorem exec_vabs (d a : Reg) (fa : Bool) (s : State) : exec (.vabs d a fa) s = execVabs d a fa s := rfl
theorem exec_vclz (d a : Reg) (fa : Bool) (s : State) : exec (.vclz d a fa) s = execVclz d a fa s := rfl
theorem exec_vpopc (d a : Reg) (fa : Bool) (s : State) : exec (.vpopc d a fa) s = execVpopc d a fa s := rfl
theorem exec_vnarrow (d a : Reg) (b : Src) (fa : Bool) (s : State) :
    exec (.vnarrow d a b fa) s = execVnarrow d a b fa s := rfl
theorem exec_vwidens (d a : Reg) (fa : Bool) (s : State) : exec (.vwidens d a fa) s = execVwidens d a fa s := rfl
theorem exec_vwidenu (d a : Reg) (fa : Bool) (s : State) : exec (.vwidenu d a fa) s = execVwidenu d a fa s := rfl
theorem exec_vfadd (d a : Reg) (b : Src) (fa : Bool) (s : State) :
    exec (.vfadd d a b fa) s = execVfadd d a b fa s := rfl
theorem exec_vfsub (d a : Reg) (b : Src) (fa : Bool) (s : State) :
    exec (.vfsub d a b fa) s = execVfsub d a b fa s := rfl
theorem exec_vfmul (d a : Reg) (b : Src) (fa : Bool) (s : State) :
    exec (.vfmul d a b fa) s = execVfmul d a b fa s := rfl
theorem exec_vfdiv (d a : Reg) (b : Src) (fa : Bool) (s : State) :
    exec (.vfdiv d a b fa) s = execVfdiv d a b fa s := rfl
theorem exec_vfsqrt (d a : Reg) (fa : Bool) (s : State) : exec (.vfsqrt d a fa) s = execVfsqrt d a fa s := rfl
theorem exec_vfmin (d a : Reg) (b : Src) (fa : Bool) (s : State) :
    exec (.vfmin d a b fa) s = execVfmin d a b fa s := rfl
theorem exec_vfmax (d a : Reg) (b : Src) (fa : Bool) (s : State) :
    exec (.vfmax d a b fa) s = execVfmax d a b fa s := rfl
theorem exec_vffma (d a : Reg) (b : Src) (fa : Bool) (s : State) :
    exec (.vffma d a b fa) s = execVffma d a b fa s := rfl
theorem exec_vffms (d a : Reg) (b : Src) (fa : Bool) (s : State) :
    exec (.vffms d a b fa) s = execVffms d a b fa s := rfl
theorem exec_vfcmpeq (d a : Reg) (b : Src) (fa : Bool) (s : State) :
    exec (.vfcmpeq d a b fa) s = execVfcmpeq d a b fa s := rfl
theorem exec_vfcmplt (d a : Reg) (b : Src) (fa : Bool) (s : State) :
    exec (.vfcmplt d a b fa) s = execVfcmplt d a b fa s := rfl
theorem exec_vfcmple (d a : Reg) (b : Src) (fa : Bool) (s : State) :
    exec (.vfcmple d a b fa) s = execVfcmple d a b fa s := rfl
theorem exec_vfabs (d a : Reg) (fa : Bool) (s : State) : exec (.vfabs d a fa) s = execVfabs d a fa s := rfl
theorem exec_vfneg (d a : Reg) (fa : Bool) (s : State) : exec (.vfneg d a fa) s = execVfneg d a fa s := rfl
theorem exec_vfclass (d a : Reg) (fa : Bool) (s : State) : exec (.vfclass d a fa) s = execVfclass d a fa s := rfl
theorem exec_vfcvt (d a : Reg) (fd fs : BitVec 3) (fa : Bool) (s : State) :
    exec (.vfcvt d a fd fs fa) s = execVfcvt d a fd fs fa s := rfl
theorem exec_vcvtif (d a : Reg) (fd fs : BitVec 3) (fa : Bool) (s : State) :
    exec (.vcvtif d a fd fs fa) s = execVcvtif d a fd fs fa s := rfl
theorem exec_vcvtfi (d a : Reg) (fd fs : BitVec 3) (fa : Bool) (s : State) :
    exec (.vcvtfi d a fd fs fa) s = execVcvtfi d a fd fs fa s := rfl
theorem exec_vquant (d a b : Reg) (fa fb : Bool) (s : State) :
    exec (.vquant d a b fa fb) s = execVquant d a b fa fb s := rfl
theorem exec_vdequant (d a b : Reg) (fa fb : Bool) (s : State) :
    exec (.vdequant d a b fa fb) s = execVdequant d a b fa fb s := rfl
theorem exec_vamax (a b : Reg) (fa : Bool) (s : State) : exec (.vamax a b fa) s = execVamax a b fa s := rfl
theorem exec_amscl (d a b : Reg) (s : State) : exec (.amscl d a b) s = execAmscl d a b s := rfl
theorem exec_vredsum (d a : Reg) (b : Src) (fa : Bool) (s : State) :
    exec (.vredsum d a b fa) s = execVredsum d a b fa s := rfl
theorem exec_vredfsum (d a : Reg) (b : Src) (fa : Bool) (s : State) :
    exec (.vredfsum d a b fa) s = execVredfsum d a b fa s := rfl
theorem exec_vredmax (d a : Reg) (b : Src) (fa : Bool) (s : State) :
    exec (.vredmax d a b fa) s = execVredmax d a b fa s := rfl
theorem exec_vredmin (d a : Reg) (b : Src) (fa : Bool) (s : State) :
    exec (.vredmin d a b fa) s = execVredmin d a b fa s := rfl
theorem exec_vredfmax (d a : Reg) (b : Src) (fa : Bool) (s : State) :
    exec (.vredfmax d a b fa) s = execVredfmax d a b fa s := rfl
theorem exec_vredfmin (d a : Reg) (b : Src) (fa : Bool) (s : State) :
    exec (.vredfmin d a b fa) s = execVredfmin d a b fa s := rfl
theorem exec_vredand (d a : Reg) (b : Src) (fa : Bool) (s : State) :
    exec (.vredand d a b fa) s = execVredand d a b fa s := rfl
theorem exec_vredor (d a : Reg) (b : Src) (fa : Bool) (s : State) :
    exec (.vredor d a b fa) s = execVredor d a b fa s := rfl
theorem exec_vslideup (d a : Reg) (b : Src) (fa : Bool) (s : State) :
    exec (.vslideup d a b fa) s = execVslideup d a b fa s := rfl
theorem exec_vslidedn (d a : Reg) (b : Src) (fa : Bool) (s : State) :
    exec (.vslidedn d a b fa) s = execVslidedn d a b fa s := rfl
theorem exec_vperm (d a b : Reg) (fa fb : Bool) (s : State) :
    exec (.vperm d a b fa fb) s = execVperm d a b fa fb s := rfl
theorem exec_vcompress (d a : Reg) (fa : Bool) (s : State) :
    exec (.vcompress d a fa) s = execVcompress d a fa s := rfl
theorem exec_vexpand (d a : Reg) (fa : Bool) (s : State) : exec (.vexpand d a fa) s = execVexpand d a fa s := rfl
theorem exec_viota (d a : Reg) (s : State) : exec (.viota d a) s = execViota d a s := rfl
theorem exec_vbcast (d : Reg) (b : Src) (s : State) : exec (.vbcast d b) s = execVbcast d b s := rfl
theorem exec_vextract (d a : Reg) (b : Src) (fa : Bool) (s : State) :
    exec (.vextract d a b fa) s = execVextract d a b fa s := rfl
theorem exec_vinsert (d a : Reg) (b : Src) (fa : Bool) (s : State) :
    exec (.vinsert d a b fa) s = execVinsert d a b fa s := rfl
theorem exec_vtrans (d a : Reg) (fa : Bool) (s : State) : exec (.vtrans d a fa) s = execVtrans d a fa s := rfl
theorem exec_vzip (d a b : Reg) (fa fb : Bool) (s : State) :
    exec (.vzip d a b fa fb) s = execVzip d a b fa fb s := rfl
theorem exec_vunzip (d a : Reg) (b : Src) (fa : Bool) (s : State) :
    exec (.vunzip d a b fa) s = execVunzip d a b fa s := rfl
theorem exec_mand (d a b : Reg) (s : State) : exec (.mand d a b) s = execMand d a b s := rfl
theorem exec_mor (d a b : Reg) (s : State) : exec (.mor d a b) s = execMor d a b s := rfl
theorem exec_mxor (d a b : Reg) (s : State) : exec (.mxor d a b) s = execMxor d a b s := rfl
theorem exec_mandn (d a b : Reg) (s : State) : exec (.mandn d a b) s = execMandn d a b s := rfl
theorem exec_mnot (d a : Reg) (s : State) : exec (.mnot d a) s = execMnot d a s := rfl
theorem exec_mmov (d a : Reg) (s : State) : exec (.mmov d a) s = execMmov d a s := rfl
theorem exec_msbf (d a : Reg) (s : State) : exec (.msbf d a) s = execMsbf d a s := rfl
theorem exec_msif (d a : Reg) (s : State) : exec (.msif d a) s = execMsif d a s := rfl
theorem exec_msof (d a : Reg) (s : State) : exec (.msof d a) s = execMsof d a s := rfl
theorem exec_mshup (d a : Reg) (s : State) : exec (.mshup d a) s = execMshup d a s := rfl
theorem exec_mshdn (d a : Reg) (s : State) : exec (.mshdn d a) s = execMshdn d a s := rfl
theorem exec_mset (d : Reg) (s : State) : exec (.mset d) s = execMset d s := rfl
theorem exec_mclr (d : Reg) (s : State) : exec (.mclr d) s = execMclr d s := rfl
theorem exec_mpop (d a : Reg) (s : State) : exec (.mpop d a) s = execMpop d a s := rfl
theorem exec_mfirst (d a : Reg) (s : State) : exec (.mfirst d a) s = execMfirst d a s := rfl
theorem exec_vld (d a : Reg) (off : BitVec 8) (fa : Bool) (s : State) :
    exec (.vld d a off fa) s = execVld d a off fa s := rfl
theorem exec_vlds (d a : Reg) (off : BitVec 8) (fa : Bool) (s : State) :
    exec (.vlds d a off fa) s = execVlds d a off fa s := rfl
theorem exec_vldff (d a : Reg) (off : BitVec 8) (fa : Bool) (s : State) :
    exec (.vldff d a off fa) s = execVldff d a off fa s := rfl
theorem exec_vst (d a : Reg) (off : BitVec 8) (fa fb : Bool) (s : State) :
    exec (.vst d a off fa fb) s = execVst d a off fa fb s := rfl
theorem exec_vsts (d a : Reg) (off : BitVec 8) (fa fb : Bool) (s : State) :
    exec (.vsts d a off fa fb) s = execVsts d a off fa fb s := rfl
theorem exec_vldx (d a b : Reg) (fa fb : Bool) (s : State) :
    exec (.vldx d a b fa fb) s = execVldx d a b fa fb s := rfl
theorem exec_vstx (d a b : Reg) (fa fb : Bool) (s : State) :
    exec (.vstx d a b fa fb) s = execVstx d a b fa fb s := rfl
theorem exec_vldl (d a b : Reg) (fa fb : Bool) (s : State) :
    exec (.vldl d a b fa fb) s = execVldl d a b fa fb s := rfl
theorem exec_vstc (d a : Reg) (fa : Bool) (s : State) : exec (.vstc d a fa) s = execVstc d a fa s := rfl
theorem exec_vscadd (d a b : Reg) (fa fb : Bool) (s : State) :
    exec (.vscadd d a b fa fb) s = execVscadd d a b fa fb s := rfl
theorem exec_cappend (d a b : Reg) (fa fb : Bool) (s : State) :
    exec (.cappend d a b fa fb) s = execCappend d a b fa fb s := rfl
theorem exec_sspec (d a : Reg) (fa : Bool) (s : State) : exec (.sspec d a fa) s = execSspec d a fa s := rfl
theorem exec_sbind (d a : Reg) (fa : Bool) (s : State) : exec (.sbind d a fa) s = execSbind d a fa s := rfl
theorem exec_sunbind (d : Reg) (s : State) : exec (.sunbind d) s = execSunbind d s := rfl
theorem exec_sbar (a : Reg) (fa : Bool) (s : State) : exec (.sbar a fa) s = execSbar a fa s := rfl
theorem exec_scond (d a : Reg) (b : Src) (fa : Bool) (s : State) :
    exec (.scond d a b fa) s = execScond d a b fa s := rfl
theorem exec_spos (d a : Reg) (s : State) : exec (.spos d a) s = execSpos d a s := rfl
theorem exec_sstart (d : Reg) (s : State) : exec (.sstart d) s = execSstart d s := rfl
theorem exec_swait (d : Reg) (s : State) : exec (.swait d) s = execSwait d s := rfl
theorem exec_vconf (d : Reg) (b : Src) (s : State) : exec (.vconf d b) s = execVconf d b s := rfl
theorem exec_vsetl (d : Reg) (b : Src) (s : State) : exec (.vsetl d b) s = execVsetl d b s := rfl
theorem exec_vsetr (d : Reg) (b : Src) (s : State) : exec (.vsetr d b) s = execVsetr d b s := rfl
theorem exec_vsetcfg (d : Reg) (b : Src) (s : State) : exec (.vsetcfg d b) s = execVsetcfg d b s := rfl
theorem exec_vsetst (d : Reg) (b : Src) (s : State) : exec (.vsetst d b) s = execVsetst d b s := rfl
theorem exec_gang (d : Reg) (s : State) : exec (.gang d) s = execGang d s := rfl
theorem exec_ungang (d : Reg) (s : State) : exec (.ungang d) s = execUngang d s := rfl
theorem exec_vsave (a : Reg) (fa : Bool) (s : State) : exec (.vsave a fa) s = execVsave a fa s := rfl
theorem exec_vrestore (a : Reg) (fa : Bool) (s : State) : exec (.vrestore a fa) s = execVrestore a fa s := rfl
theorem exec_vcfgrd (d sel : Reg) (s : State) : exec (.vcfgrd d sel) s = execVcfgrd d sel s := rfl
theorem exec_mma (z a b : Reg) (fmt : BitVec 4) (kn : BitVec 2) (acc : Bool) (s : State) :
    exec (.mma z a b fmt kn acc) s = execMma z a b fmt kn acc s := rfl
theorem exec_zscacc (d a b : Reg) (fb : Bool) (s : State) : exec (.zscacc d a b fb) s = execZscacc d a b fb s := rfl
theorem exec_zzero (d a : Reg) (s : State) : exec (.zzero d a) s = execZzero d a s := rfl
theorem exec_zrel (d : Reg) (s : State) : exec (.zrel d) s = execZrel d s := rfl
theorem exec_zext (d a : Reg) (b : Src) (s : State) : exec (.zext d a b) s = execZext d a b s := rfl
theorem exec_zins (d a : Reg) (b : Src) (fa : Bool) (s : State) : exec (.zins d a b fa) s = execZins d a b fa s := rfl
theorem exec_zsave (d a : Reg) (fa : Bool) (s : State) : exec (.zsave d a fa) s = execZsave d a fa s := rfl
theorem exec_zload (d a : Reg) (fa : Bool) (s : State) : exec (.zload d a fa) s = execZload d a fa s := rfl
theorem exec_zamax (a b : Reg) (s : State) : exec (.zamax a b) s = execZamax a b s := rfl
theorem exec_mdset (d a : Reg) (b : Src) (fa : Bool) (s : State) :
    exec (.mdset d a b fa) s = execMdset d a b fa s := rfl
theorem exec_mdadv (d : Reg) (b : Src) (s : State) : exec (.mdadv d b) s = execMdadv d b s := rfl
theorem exec_zstat (d a : Reg) (s : State) : exec (.zstat d a) s = execZstat d a s := rfl
theorem exec_kset (d a : Reg) (b : Src) (fa : Bool) (s : State) : exec (.kset d a b fa) s = execKset d a b fa s := rfl
theorem exec_kseed (d : Reg) (b : Src) (s : State) : exec (.kseed d b) s = execKseed d b s := rfl
theorem exec_korg (d a : Reg) (b : Src) (fa : Bool) (s : State) : exec (.korg d a b fa) s = execKorg d a b fa s := rfl
theorem exec_vgen (d a : Reg) (s : State) : exec (.vgen d a) s = execVgen d a s := rfl
theorem exec_kget (d a : Reg) (b : Src) (s : State) : exec (.kget d a b) s = execKget d a b s := rfl
theorem exec_cpy (d a b : Reg) (fa fb : Bool) (s : State) : exec (.cpy d a b fa fb) s = execCpy d a b fa fb s := rfl
theorem exec_cpymma (d a : Reg) (fa : Bool) (z sa sb : Reg) (fmt : BitVec 4) (kn : BitVec 2) (acc : Bool) (s : State) :
    exec (.cpymma d a fa z sa sb fmt kn acc) s = execCpymma d a fa z sa sb fmt kn acc s := rfl
theorem exec_cpywait (d a : Reg) (fa : Bool) (s : State) : exec (.cpywait d a fa) s = execCpywait d a fa s := rfl
theorem exec_cbinit (d a b : Reg) (fa fb : Bool) (s : State) :
    exec (.cbinit d a b fa fb) s = execCbinit d a b fa fb s := rfl
theorem exec_cbwait (d a : Reg) (s : State) : exec (.cbwait d a) s = execCbwait d a s := rfl
theorem exec_cbrel (d a : Reg) (b : Src) (s : State) : exec (.cbrel d a b) s = execCbrel d a b s := rfl
theorem exec_cbstat (d a : Reg) (s : State) : exec (.cbstat d a) s = execCbstat d a s := rfl
theorem exec_acq (d a : Reg) (fa : Bool) (s : State) : exec (.acq d a fa) s = execAcq d a fa s := rfl
theorem exec_rel (a : Reg) (fa : Bool) (s : State) : exec (.rel a fa) s = execRel a fa s := rfl
theorem exec_bind (d a : Reg) (b : Src) (fa : Bool) (s : State) : exec (.bind d a b fa) s = execBind d a b fa s := rfl
theorem exec_unbind (d a : Reg) (fa : Bool) (s : State) : exec (.unbind d a fa) s = execUnbind d a fa s := rfl
theorem exec_wmpub (d : Reg) (b : Src) (s : State) : exec (.wmpub d b) s = execWmpub d b s := rfl
theorem exec_wmlink (d a : Reg) (fa : Bool) (s : State) : exec (.wmlink d a fa) s = execWmlink d a fa s := rfl
theorem exec_bar (d a : Reg) (fa : Bool) (s : State) : exec (.bar d a fa) s = execBar d a fa s := rfl
theorem exec_barjoin (d a : Reg) (fa : Bool) (s : State) : exec (.barjoin d a fa) s = execBarjoin d a fa s := rfl
theorem exec_barleave (a : Reg) (fa : Bool) (s : State) : exec (.barleave a fa) s = execBarleave a fa s := rfl
theorem exec_notify (a : Reg) (b : Src) (fa : Bool) (s : State) : exec (.notify a b fa) s = execNotify a b fa s := rfl
theorem exec_waitn (d a : Reg) (s : State) : exec (.waitn d a) s = execWaitn d a s := rfl
theorem exec_pinit (a : Reg) (fa : Bool) (s : State) : exec (.pinit a fa) s = execPinit a fa s := rfl
theorem exec_pfill (d a : Reg) (b : Src) (fa : Bool) (s : State) :
    exec (.pfill d a b fa) s = execPfill d a b fa s := rfl
theorem exec_peq (d a b : Reg) (fa fb : Bool) (s : State) : exec (.peq d a b fa fb) s = execPeq d a b fa fb s := rfl
theorem exec_pwait (d a : Reg) (fa : Bool) (s : State) : exec (.pwait d a fa) s = execPwait d a fa s := rfl
theorem exec_ptest (d a : Reg) (fa : Bool) (s : State) : exec (.ptest d a fa) s = execPtest d a fa s := rfl
theorem exec_xred (d a : Reg) (b : Src) (fa : Bool) (s : State) : exec (.xred d a b fa) s = execXred d a b fa s := rfl
theorem exec_xbar (d : Reg) (s : State) : exec (.xbar d) s = execXbar d s := rfl
theorem exec_xwait (d a : Reg) (fa : Bool) (s : State) : exec (.xwait d a fa) s = execXwait d a fa s := rfl
theorem exec_launch (d a : Reg) (fa : Bool) (s : State) : exec (.launch d a fa) s = execLaunch d a fa s := rfl
theorem exec_launchnb (d a : Reg) (fa : Bool) (s : State) : exec (.launchnb d a fa) s = execLaunchnb d a fa s := rfl
theorem exec_cancel (d a b : Reg) (fa : Bool) (s : State) : exec (.cancel d a b fa) s = execCancel d a b fa s := rfl
theorem exec_cwait (d a b : Reg) (fa : Bool) (s : State) : exec (.cwait d a b fa) s = execCwait d a b fa s := rfl
theorem exec_self (d b : Reg) (s : State) : exec (.self d b) s = execSelf d b s := rfl
theorem exec_cntrd (d a b : Reg) (fa : Bool) (s : State) : exec (.cntrd d a b fa) s = execCntrd d a b fa s := rfl
theorem exec_trap (b : Src) (s : State) : exec (.trap b) s = execTrap b s := rfl
theorem exec_sysrd (d a : Reg) (s : State) : exec (.sysrd d a) s = execSysrd d a s := rfl
theorem exec_rdcyc (d : Reg) (s : State) : exec (.rdcyc d) s = execRdcyc d s := rfl
theorem exec_rdnrg (d : Reg) (s : State) : exec (.rdnrg d) s = execRdnrg d s := rfl
theorem exec_kfreq (d a : Reg) (fa : Bool) (s : State) : exec (.kfreq d a fa) s = execKfreq d a fa s := rfl
theorem exec_syswr (d : Reg) (b : Src) (s : State) : exec (.syswr d b) s = execSyswr d b s := rfl
theorem exec_slotset (a : Reg) (fa : Bool) (s : State) : exec (.slotset a fa) s = execSlotset a fa s := rfl
theorem exec_ctxswSout (d a : Reg) (fa : Bool) (s : State) :
    exec (.ctxswSout d a fa) s = execCtxswSout d a fa s := rfl
theorem exec_ctxswSin (d a : Reg) (fa : Bool) (s : State) : exec (.ctxswSin d a fa) s = execCtxswSin d a fa s := rfl
theorem exec_ctxswVout (d a : Reg) (fa : Bool) (s : State) :
    exec (.ctxswVout d a fa) s = execCtxswVout d a fa s := rfl
theorem exec_ctxswVin (d a : Reg) (fa : Bool) (s : State) : exec (.ctxswVin d a fa) s = execCtxswVin d a fa s := rfl
theorem exec_ctxswZout (d a : Reg) (fa : Bool) (s : State) :
    exec (.ctxswZout d a fa) s = execCtxswZout d a fa s := rfl
theorem exec_ctxswZin (d a : Reg) (fa : Bool) (s : State) : exec (.ctxswZin d a fa) s = execCtxswZin d a fa s := rfl
theorem exec_wfn (d : Reg) (s : State) : exec (.wfn d) s = execWfn d s := rfl
theorem exec_apf (d a : Reg) (b : Src) (s : State) : exec (.apf d a b) s = execApf d a b s := rfl
theorem exec_ahome (a : Reg) (b : Src) (s : State) : exec (.ahome a b) s = execAhome a b s := rfl
theorem exec_aprio (b : Src) (s : State) : exec (.aprio b) s = execAprio b s := rfl
theorem exec_aorder (b : Src) (s : State) : exec (.aorder b) s = execAorder b s := rfl
theorem exec_awake (b : Src) (s : State) : exec (.awake b) s = execAwake b s := rfl
theorem exec_aj (d a : Reg) (b : Src) (s : State) : exec (.aj d a b) s = execAj d a b s := rfl
theorem exec_aloop (a : Reg) (b : Src) (s : State) : exec (.aloop a b) s = execAloop a b s := rfl
theorem exec_aadd (d a : Reg) (b : Src) (s : State) : exec (.aadd d a b) s = execAadd d a b s := rfl
theorem exec_ali (d : Reg) (b : Src) (s : State) : exec (.ali d b) s = execAli d b s := rfl
theorem exec_asnap (d a : Reg) (s : State) : exec (.asnap d a) s = execAsnap d a s := rfl
theorem exec_await (imm : BitVec 20) (s : State) : exec (.await imm) s = execAwait imm s := rfl
theorem exec_stripc (s : State) : exec .stripc s = execStripc s := rfl
theorem exec_fenceFull (s : State) : exec .fenceFull s = execFenceFull s := rfl
theorem exec_fenceRel (s : State) : exec .fenceRel s = execFenceRel s := rfl
theorem exec_fenceAcq (s : State) : exec .fenceAcq s = execFenceAcq s := rfl
theorem exec_fenceIfetch (s : State) : exec .fenceIfetch s = execFenceIfetch s := rfl
theorem exec_exit (s : State) : exec .exit s = execExit s := rfl
theorem exec_rteResume (s : State) : exec .rteResume s = execRteResume s := rfl
theorem exec_rteKill (s : State) : exec .rteKill s = execRteKill s := rfl
theorem exec_brk (s : State) : exec .brk s = execBrk s := rfl
theorem exec_aend (s : State) : exec .aend s = execAend s := rfl
theorem exec_secondMarkConsume (core : CoreId) (ctx : UserCtx) (s : State) :
    exec (.secondMarkConsume core ctx) s = execSecondMarkConsume core ctx s := rfl
theorem exec_adviceActionAccept (core : CoreId) (ctx : UserCtx) (s : State) :
    exec (.adviceActionAccept core ctx) s = execAdviceActionAccept core ctx s := rfl
theorem exec_fatalError (core : CoreId) (struck : BitVec 7) (s : State) :
    exec (.fatalError core struck) s = execFatalError core struck s := rfl
theorem exec_laneError (core : CoreId) (lane : Lane) (struck : Struck) (s : State) :
    exec (.laneError core lane struck) s = execLaneError core lane struck s := rfl
theorem exec_correctedError (core : CoreId) (lane : Option Lane) (s : State) :
    exec (.correctedError core lane) s = execCorrectedError core lane s := rfl
theorem exec_arbiterSelection (s : State) : exec .arbiterSelection s = execArbiterSelection s := rfl
theorem exec_arbiterBoundary (core : CoreId) (s : State) :
    exec (.arbiterBoundary core) s = execArbiterBoundary core s := rfl
theorem exec_launchPlacement (s : State) : exec .launchPlacement s = execLaunchPlacement s := rfl
theorem exec_descriptorArrival (queue : QueueId) (descriptor : BitVec 2048) (s : State) :
    exec (.descriptorArrival queue descriptor) s = execDescriptorArrival queue descriptor s := rfl
theorem exec_qtailWrite (queue : QueueId) (value : BitVec 64) (s : State) :
    exec (.qtailWrite queue value) s = execQtailWrite queue value s := rfl
theorem exec_qctlWrite (queue : QueueId) (value : BitVec 64) (s : State) :
    exec (.qctlWrite queue value) s = execQctlWrite queue value s := rfl
theorem exec_hartCancelled (core : CoreId) (ctx : UserCtx) (s : State) :
    exec (.hartCancelled core ctx) s = execHartCancelled core ctx s := rfl
theorem exec_hartFenced (core : CoreId) (ctx : UserCtx) (s : State) :
    exec (.hartFenced core ctx) s = execHartFenced core ctx s := rfl
theorem exec_issueCycle (core : CoreId) (s : State) : exec (.issueCycle core) s = execIssueCycle core s := rfl
theorem exec_activityMeterCycle (core : CoreId) (s : State) :
    exec (.activityMeterCycle core) s = execActivityMeterCycle core s := rfl
theorem exec_pageEpoch (slice : SliceId) (s : State) : exec (.pageEpoch slice) s = execPageEpoch slice s := rfl
theorem exec_frameMoveSwitch (frame : BitVec 36) (s : State) :
    exec (.frameMoveSwitch frame) s = execFrameMoveSwitch frame s := rfl
theorem exec_moduleUncorrectableError (line : BitVec 46) (s : State) :
    exec (.moduleUncorrectableError line) s = execModuleUncorrectableError line s := rfl
theorem exec_bufferWordError (core : CoreId) (buf : TypedBuf) (word : BitVec 19) (s : State) :
    exec (.bufferWordError core buf word) s = execBufferWordError core buf word s := rfl
theorem exec_striplost (core : CoreId) (ctx : ContextId) (s : State) :
    exec (.striplost core ctx) s = execStriplost core ctx s := rfl
theorem exec_linkFailure (link : LinkId) (readable : Bool) (s : State) :
    exec (.linkFailure link readable) s = execLinkFailure link readable s := rfl
theorem exec_moduleRetireComplete (link : LinkId) (s : State) :
    exec (.moduleRetireComplete link) s = execModuleRetireComplete link s := rfl
theorem exec_copyCommandStart (core : CoreId) (turn : CopyTurn) (s : State) :
    exec (.copyCommandStart core turn) s = execCopyCommandStart core turn s := rfl
theorem exec_copyCommandComplete (core : CoreId) (ctx : ContextId) (s : State) :
    exec (.copyCommandComplete core ctx) s = execCopyCommandComplete core ctx s := rfl
theorem exec_mmaComplete (core : CoreId) (turn : MmaTurn) (s : State) :
    exec (.mmaComplete core turn) s = execMmaComplete core turn s := rfl
theorem exec_longLatencyResult (core : CoreId) (turn : ResultTurn) (s : State) :
    exec (.longLatencyResult core turn) s = execLongLatencyResult core turn s := rfl
theorem exec_stripCommitComplete (core : CoreId) (ctx : ContextId) (s : State) :
    exec (.stripCommitComplete core ctx) s = execStripCommitComplete core ctx s := rfl
theorem exec_scatterAddPerform (add : ScatterAdd) (s : State) :
    exec (.scatterAddPerform add) s = execScatterAddPerform add s := rfl
theorem exec_streamElementFetch (core : CoreId) (ctx : ContextId) (stream : StreamId) (reply : RemoteReply) (s : State) :
    exec (.streamElementFetch core ctx stream reply) s = execStreamElementFetch core ctx stream reply s := rfl
theorem exec_streamConditionRead (core : CoreId) (ctx : ContextId) (stream : StreamId) (s : State) :
    exec (.streamConditionRead core ctx stream) s = execStreamConditionRead core ctx stream s := rfl
theorem exec_streamDoneadd (core : CoreId) (ctx : ContextId) (stream : StreamId) (reply : RemoteReply) (s : State) :
    exec (.streamDoneadd core ctx stream reply) s = execStreamDoneadd core ctx stream reply s := rfl
theorem exec_remotePushPerform (request : RemoteRequest) (data : BitVec 64) (stage : PushStage) (s : State) :
    exec (.remotePushPerform request data stage) s = execRemotePushPerform request data stage s := rfl
theorem exec_remoteStreamRequest (request : RemoteRequest) (s : State) :
    exec (.remoteStreamRequest request) s = execRemoteStreamRequest request s := rfl
theorem exec_xredPacketArrival (message : XMessage) (s : State) :
    exec (.xredPacketArrival message) s = execXredPacketArrival message s := rfl
theorem exec_acqGrant (core : CoreId) (ctx : UserCtx) (s : State) :
    exec (.acqGrant core ctx) s = execAcqGrant core ctx s := rfl
theorem exec_waiterPoll (core : CoreId) (ctx : UserCtx) (s : State) :
    exec (.waiterPoll core ctx) s = execWaiterPoll core ctx s := rfl
theorem exec_watermarkRelease (core : CoreId) (ctx : UserCtx) (s : State) :
    exec (.watermarkRelease core ctx) s = execWatermarkRelease core ctx s := rfl
theorem exec_queueWeightWrite (queue : QueueId) (value : BitVec 64) (s : State) :
    exec (.queueWeightWrite queue value) s = execQueueWeightWrite queue value s := rfl
theorem exec_powerControllerUpdate (core : CoreId) (grant : BitVec 13) (gate : BitVec 8) (gateCore : Bool) (withdraw : BitVec 8) (s : State) :
    exec (.powerControllerUpdate core grant gate gateCore withdraw) s = execPowerControllerUpdate core grant gate gateCore withdraw s := rfl
theorem exec_powerHoldExpire (core : CoreId) (part : PowerPart) (s : State) :
    exec (.powerHoldExpire core part) s = execPowerHoldExpire core part s := rfl
theorem exec_switchOpeningComplete (core : CoreId) (part : PowerPart) (s : State) :
    exec (.switchOpeningComplete core part) s = execSwitchOpeningComplete core part s := rfl
theorem exec_inrushGrant (s : State) : exec .inrushGrant s = execInrushGrant s := rfl
theorem exec_turnOnComplete (core : CoreId) (group : BitVec 3) (s : State) :
    exec (.turnOnComplete core group) s = execTurnOnComplete core group s := rfl
theorem exec_gcapWrite (core : CoreId) (value : BitVec 64) (s : State) :
    exec (.gcapWrite core value) s = execGcapWrite core value s := rfl
theorem exec_actwWrite (core : CoreId) (value : BitVec 64) (s : State) :
    exec (.actwWrite core value) s = execActwWrite core value s := rfl
theorem exec_lanemapWrite (core : CoreId) (value : BitVec 64) (s : State) :
    exec (.lanemapWrite core value) s = execLanemapWrite core value s := rfl
theorem exec_mrsvWrite (value : BitVec 64) (s : State) : exec (.mrsvWrite value) s = execMrsvWrite value s := rfl
theorem exec_fwrootWrite (core : CoreId) (value : BitVec 64) (s : State) :
    exec (.fwrootWrite core value) s = execFwrootWrite core value s := rfl
theorem exec_devnumWrite (value : BitVec 64) (s : State) :
    exec (.devnumWrite value) s = execDevnumWrite value s := rfl
theorem exec_tinvGo (value : BitVec 64) (s : State) : exec (.tinvGo value) s = execTinvGo value s := rfl
theorem exec_tinvComplete (s : State) : exec .tinvComplete s = execTinvComplete s := rfl
theorem exec_rrInstall (s : State) : exec .rrInstall s = execRrInstall s := rfl
theorem exec_rrRemove (s : State) : exec .rrRemove s = execRrRemove s := rfl
theorem exec_repheadWrite (value : BitVec 64) (s : State) :
    exec (.repheadWrite value) s = execRepheadWrite value s := rfl
theorem exec_svcFencecore (s : State) : exec .svcFencecore s = execSvcFencecore s := rfl
theorem exec_svcRetiremod (s : State) : exec .svcRetiremod s = execSvcRetiremod s := rfl
theorem exec_svcReturnmod (s : State) : exec .svcReturnmod s = execSvcReturnmod s := rfl
theorem exec_svcRecal (s : State) : exec .svcRecal s = execSvcRecal s := rfl
theorem exec_recalLaneReturn (quinsia : Bool) (link : BitVec 16) (lane : BitVec 3) (s : State) :
    exec (.recalLaneReturn quinsia link lane) s = execRecalLaneReturn quinsia link lane s := rfl
theorem exec_svcStagefw (image : FirmwareImage) (s : State) :
    exec (.svcStagefw image) s = execSvcStagefw image s := rfl
theorem exec_svcAttest (s : State) : exec .svcAttest s = execSvcAttest s := rfl
theorem exec_registerWrite (offset : BitVec 20) (value : BitVec 64) (s : State) :
    exec (.registerWrite offset value) s = execRegisterWrite offset value s := rfl
theorem exec_hostBar2Access (offset : BitVec 36) (access : HostAccess) (data : BitVec 64) (s : State) :
    exec (.hostBar2Access offset access data) s = execHostBar2Access offset access data s := rfl
theorem exec_powerOnBoot (boot : BootImage) (tvec fwroot : BitVec 64) (image : List Host.Cell) (s : State) :
    exec (.powerOnBoot boot tvec fwroot image) s = execPowerOnBoot boot tvec fwroot image s := rfl
theorem exec_deviceReset (s : State) : exec .deviceReset s = execDeviceReset s := rfl
theorem exec_linkStateChanged (quinsia : Bool) (link : BitVec 16) (lanes : BitVec 4) (s : State) :
    exec (.linkStateChanged quinsia link lanes) s = execLinkStateChanged quinsia link lanes s := rfl
theorem exec_domainReachabilityChange (domain : BitVec 6) (reachable : Bool) (s : State) :
    exec (.domainReachabilityChange domain reachable) s = execDomainReachabilityChange domain reachable s := rfl
theorem exec_sliceUncorrectableError (slice : SliceId) (s : State) :
    exec (.sliceUncorrectableError slice) s = execSliceUncorrectableError slice s := rfl
theorem exec_clusterClockChange (core : CoreId) (running : Bool) (s : State) :
    exec (.clusterClockChange core running) s = execClusterClockChange core running s := rfl
theorem exec_jobRetired (job : BitVec 64) (s : State) : exec (.jobRetired job) s = execJobRetired job s := rfl

end Sys2Proof.Machine
end

