-- ==== Sys2Proof/Laws/Issue.lean ====
section
/-!
SUPPORT. The one thing that the checks of R51 can do when the hart has what an instruction asks, what issuing it
answers then, and that issuing always answers a next state.
-/

namespace Sys2Proof.Machine

theorem State.prepare_of_admits {s : State} {u : Uses} (h : s.Admits u) : s.prepare u = .ok (s.begun u) := by
  obtain ⟨hl, hr, hw, hm, hu, hf, ho, hs, hd, hst, ha, har, hcw, hrl⟩ := h
  have e1 : (u.priv && !s.isFirmware || u.userOnly && s.isFirmware) = false := by
    cases hp : u.priv <;> cases hq : u.userOnly <;> simp_all
  have e2 : u.regs.find? (fun f => !f.ok) = none := by
    rw [List.find?_eq_none]; intro f hf'; simp [hf f hf']
  have e3 : (u.vown && s.me.vlazy) = false := by
    cases hv : u.vown <;> simp_all
  have e4 : u.sources.find? (fun q => q.ready && s.me.isEmptySource q) = none := by
    rw [List.find?_eq_none]; intro q hq; simp [hs q hq]
  have e5 : u.sources.any s.me.isEmptySource = false := by
    rw [List.any_eq_false]; intro q hq; simp [hs q hq]
  have e6 : u.dests.any (fun d => !s.me.holds d.1 d.2) = false := by
    rw [List.any_eq_false]; intro d hd'; simp [hd d hd']
  have e7 : u.reads.any s.me.badRead = false := by
    rw [List.any_eq_false]; intro r hr'; simp [hr r hr']
  have e8 : u.writes.any s.me.badWrite = false := by
    rw [List.any_eq_false]; intro r hr'; simp [hw r hr']
  have e9 : (u.lanes && !s.sleepingGroups.isEmpty) = false := by
    cases hla : u.lanes
    · rfl
    · simp [ha hla]
  unfold State.prepare State.begun
  simp only [hl, e1, e2, e3, e4, e5, e6, e7, e8, hst, e9, Bool.false_eq_true, if_false, Bool.or_false]
  cases hc : u.commits
  · rfl
  · have e10 : s.me.fills.any (·.vector) = false := by
      rw [List.any_eq_false]; intro f hf'; simp [har hc f hf']
    have e11 : (!(s.committed u).me.strip.isEmpty && !u.parks) = false := by simp [hcw hc]
    simp only [if_true, e10, e11, Bool.false_eq_true, if_false]
    cases hu' : u.releases with
    | none => rfl
    | some r =>
      have := hrl hc r hu'
      simp only [State.begun, hc, if_true] at this
      simp [this]

/-- Issuing an instruction that names the next program counter itself, from what its own effect answers. -/
theorem issueTo_of_admits {s : State} {u : Uses} {body : State → Except Stop (State × Word)} (h : s.Admits u) :
    issueTo s u body =
      finish (match body (s.begun u) with
        | .error e => .error e
        | .ok (s2, pc) => .ok (s2.complete u pc)) := by
  unfold issueTo
  rw [State.prepare_of_admits h] <;> rfl

/-- Issuing an instruction whose own effect succeeds: the hart goes on at the address after it. -/
theorem issue_of_admits {s t : State} {u : Uses} {body : State → Except Stop State} (h : s.Admits u)
    (hb : body (s.begun u) = .ok t) : issue s u body = .next (t.complete u (s.me.pc + word u.len)) := by
  unfold issue
  rw [issueTo_of_admits h, hb]
  rfl

/-- The same for an instruction whose own effect ends otherwise. -/
theorem issue_of_stop {s : State} {u : Uses} {body : State → Except Stop State} {e : Stop} (h : s.Admits u)
    (hb : body (s.begun u) = .error e) : issue s u body = finish (.error e) := by
  unfold issue
  rw [issueTo_of_admits h, hb]

/-- However an instruction ends, there is a next state. -/
theorem finish_next (r : Except Stop State) : ∃ t, finish r = .next t := by
  unfold finish
  split <;> exact ⟨_, rfl⟩

/-- Issuing an instruction always answers a next state. -/
theorem issueTo_next (s : State) (u : Uses) (body : State → Except Stop (State × Word)) : ∃ t, issueTo s u body = .next t :=
  finish_next _

theorem issue_next (s : State) (u : Uses) (body : State → Except Stop State) : ∃ t, issue s u body = .next t :=
  finish_next _

/-- An instruction that commits nothing begins in the state it was issued in. -/
@[simp] theorem State.begun_of_open {s : State} {u : Uses} (h : u.commits = false) : s.begun u = s := by
  simp [State.begun, h]

end Sys2Proof.Machine
end

