-- ==== Sys2Proof/Laws/Memory.lean ====
section
/-!
SUPPORT. Memory: the operations keep its canonical form, a read gives what was written, a write leaves every other
byte, and equal contents are equal data.
-/

namespace Sys2Proof.Machine

/-! ### The canonical form -/

theorem Mem.wfFrom_of_le {lo lo' : Nat} {m : Mem} (h : lo' ≤ lo) (hw : Mem.wfFrom lo m = true) :
    Mem.wfFrom lo' m = true := by
  cases m with
  | nil => rfl
  | cons e m =>
    obtain ⟨a, b⟩ := e
    simp only [Mem.wfFrom, Bool.and_eq_true, decide_eq_true_eq] at hw ⊢
    exact ⟨⟨by omega, hw.1.2⟩, hw.2⟩

theorem Mem.wfFrom_set {lo x : Nat} {b : Byte} : {m : Mem} → lo ≤ x → Mem.wfFrom lo m = true →
    Mem.wfFrom lo (m.set x b) = true
  | [], hx, _ => by
    unfold Mem.set
    split
    · rfl
    · simp_all [Mem.wfFrom]
  | (a, c) :: m, hx, hw => by
    simp only [Mem.wfFrom, Bool.and_eq_true, decide_eq_true_eq] at hw
    obtain ⟨⟨ha, hc⟩, hm⟩ := hw
    unfold Mem.set
    split
    · split
      · simp only [Mem.wfFrom, ha, hc, hm, decide_true, Bool.and_true]
      · rename_i hlt hb
        have : x + 1 ≤ a := hlt
        simp_all [Mem.wfFrom]
    · split
      · rename_i hxa
        split
        · exact Mem.wfFrom_of_le (by omega) hm
        · simp_all [Mem.wfFrom]
      · simp only [Mem.wfFrom, ha, hc, decide_true, Bool.true_and]
        exact Mem.wfFrom_set (by omega) hm

@[simp] theorem Mem.wf_nil : Mem.wf [] = true := rfl

theorem Mem.wf_set {m : Mem} (x : Nat) (b : Byte) (h : m.wf = true) : (m.set x b).wf = true :=
  Mem.wfFrom_set (Nat.zero_le _) h

theorem Mem.wf_write : {n : Nat} → {m : Mem} → (a x : Nat) → m.wf = true → (m.write a n x).wf = true
  | 0, _, _, _, h => h
  | n + 1, _, _, _, h => Mem.wf_write (n := n) _ _ (Mem.wf_set _ _ h)

theorem Mem.wfFrom_filter {p : Host.Cell → Bool} : {m : Mem} → {lo : Nat} → Mem.wfFrom lo m = true →
    Mem.wfFrom lo (m.filter p) = true
  | [], _, _ => rfl
  | (a, b) :: m, lo, h => by
    simp only [Mem.wfFrom, Bool.and_eq_true, decide_eq_true_eq] at h
    rw [List.filter_cons]
    split
    · simp only [Mem.wfFrom, h.1.1, h.1.2, decide_true, Bool.true_and]
      exact Mem.wfFrom_filter h.2
    · exact Mem.wfFrom_of_le (by omega) (Mem.wfFrom_filter h.2)

theorem Mem.wf_filter {m : Mem} (p : Host.Cell → Bool) (h : m.wf = true) : Mem.wf (m.filter p) = true :=
  Mem.wfFrom_filter h

theorem Mem.wf_withCells : {cells : List Host.Cell} → {m : Mem} → m.wf = true → (m.withCells cells).wf = true
  | [], _, h => h
  | _ :: cells, _, h => Mem.wf_withCells (cells := cells) (Mem.wf_set _ _ h)

theorem Mem.wf_withTables {m : Mem} (h : m.wf = true) : m.withTables.wf = true :=
  Mem.wf_write _ _ (Mem.wf_write _ _ (Mem.wf_write _ _ (Mem.wf_write _ _ h)))

theorem Mem.wf_withWords {m : Mem} (w0 w1 : Nat) (h : m.wf = true) : (m.withWords w0 w1).wf = true :=
  Mem.wf_write _ _ (Mem.wf_write _ _ h)

theorem Device.wf_store {d : Device} (pa n x : Nat) (h : d.mem.wf = true) : (d.store pa n x).mem.wf = true :=
  Mem.wf_write _ _ h

theorem reset_mem_wf : State.reset.dev.mem.wf = true := rfl

/-! ### Bytes -/

theorem Mem.byte_of_lt {m : Mem} {lo y : Nat} (hw : Mem.wfFrom lo m = true) (hy : y < lo) : m.byte y = 0 := by
  cases m with
  | nil => rfl
  | cons e m =>
    obtain ⟨a, b⟩ := e
    simp only [Mem.wfFrom, Bool.and_eq_true, decide_eq_true_eq] at hw
    simp only [Mem.byte]
    rw [if_pos (by omega)]

theorem Mem.byte_set_from {x y : Nat} {b : Byte} : {m : Mem} → {lo : Nat} → Mem.wfFrom lo m = true →
    (m.set x b).byte y = if y = x then b else m.byte y
  | [], _, _ => by
    unfold Mem.set
    split
    · simp_all [Mem.byte]
    · simp only [Mem.byte]; grind
  | (a, c) :: m, lo, hw => by
    simp only [Mem.wfFrom, Bool.and_eq_true, decide_eq_true_eq] at hw
    have ih := Mem.byte_set_from (x := x) (y := y) (b := b) hw.2
    have hz : ∀ z, z < a + 1 → Mem.byte m z = 0 := fun z h => Mem.byte_of_lt hw.2 h
    unfold Mem.set
    split
    · split <;> simp only [Mem.byte] <;> grind
    · split
      · split <;> simp only [Mem.byte] <;> grind
      · simp only [Mem.byte, ih]; grind

/-- A byte written reads as what was written, and every other byte as before. -/
theorem Mem.byte_set {m : Mem} {x y : Nat} {b : Byte} (h : m.wf = true) :
    (m.set x b).byte y = if y = x then b else m.byte y := Mem.byte_set_from h

/-- A write leaves the bytes outside it. -/
theorem Mem.byte_write_of_outside : {n : Nat} → {m : Mem} → {a x y : Nat} → m.wf = true → (y < a ∨ a + n ≤ y) →
    (m.write a n x).byte y = m.byte y
  | 0, _, _, _, _, _, _ => rfl
  | n + 1, m, a, x, y, h, hy => by
    unfold Mem.write
    rw [Mem.byte_write_of_outside (Mem.wf_set _ _ h) (by omega), Mem.byte_set h, if_neg (by omega)]

/-- A write gives each byte inside it the byte of the number there, the low one first (R15). -/
theorem Mem.byte_write : {n : Nat} → {m : Mem} → {a x : Nat} → (i : Nat) → m.wf = true → i < n →
    (m.write a n x).byte (a + i) = BitVec.ofNat 8 (x / 256 ^ i)
  | n + 1, m, a, x, 0, h, _ => by
    unfold Mem.write
    rw [Mem.byte_write_of_outside (Mem.wf_set _ _ h) (by omega), Mem.byte_set h]
    simp
  | n + 1, m, a, x, i + 1, h, hi => by
    unfold Mem.write
    have := Mem.byte_write (m := m.set a (BitVec.ofNat 8 x)) (a := a + 1) (x := x / 256) i (Mem.wf_set _ _ h)
      (show i < n by omega)
    rw [show a + (i + 1) = a + 1 + i by omega, this, Nat.div_div_eq_div_mul, ← Nat.pow_succ']

theorem Mem.read_congr {m m' : Mem} : {n : Nat} → {a : Nat} → (∀ i, i < n → m.byte (a + i) = m'.byte (a + i)) →
    m.read a n = m'.read a n
  | 0, _, _ => rfl
  | n + 1, a, h => by
    have h0 := h 0 (by omega)
    rw [Nat.add_zero] at h0
    have ht := Mem.read_congr (m := m) (m' := m') (n := n) (a := a + 1) fun i hi => by
      have := h (i + 1) (by omega)
      rwa [show a + (i + 1) = a + 1 + i by omega] at this
    unfold Mem.read
    rw [h0, ht]

/-- A write leaves what is read outside it. -/
theorem Mem.read_write_of_disjoint {m : Mem} {a n x b k : Nat} (h : m.wf = true) (hd : b + k ≤ a ∨ a + n ≤ b) :
    (m.write a n x).read b k = m.read b k :=
  Mem.read_congr fun i hi => Mem.byte_write_of_outside h (by omega)

/-- A read gives what was written there. -/
theorem Mem.read_write : {n : Nat} → {m : Mem} → {a x : Nat} → m.wf = true → (m.write a n x).read a n = x % 256 ^ n
  | 0, _, _, _, _ => by simp [Mem.read, Nat.mod_one]
  | n + 1, m, a, x, h => by
    unfold Mem.read Mem.write
    rw [Mem.byte_write_of_outside (Mem.wf_set _ _ h) (by omega), Mem.byte_set h, if_pos rfl,
      Mem.read_write (Mem.wf_set _ _ h), BitVec.toNat_ofNat,
      show 256 ^ (n + 1) = 256 * 256 ^ n from Nat.pow_succ', Nat.mod_mul]

/-! ### Equal contents are equal data -/

theorem Mem.ext_from : {m m' : Mem} → {lo : Nat} → Mem.wfFrom lo m = true → Mem.wfFrom lo m' = true →
    (∀ y, m.byte y = m'.byte y) → m = m'
  | [], [], _, _, _, _ => rfl
  | [], (a, b) :: m, _, _, hw, h => by
    simp only [Mem.wfFrom, Bool.and_eq_true, bne_iff_ne, ne_eq] at hw
    have := h a
    simp only [Mem.byte, Nat.lt_irrefl, if_false, if_true] at this
    exact absurd this.symm hw.1.2
  | (a, b) :: m, [], _, hw, _, h => by
    simp only [Mem.wfFrom, Bool.and_eq_true, bne_iff_ne, ne_eq] at hw
    have := h a
    simp only [Mem.byte, Nat.lt_irrefl, if_false, if_true] at this
    exact absurd this hw.1.2
  | (a, b) :: m, (a', b') :: m', lo, hw, hw', h => by
    simp only [Mem.wfFrom, Bool.and_eq_true, decide_eq_true_eq, bne_iff_ne, ne_eq] at hw hw'
    have ha := h a
    have ha' := h a'
    have haa : a = a' := by
      simp only [Mem.byte, Nat.lt_irrefl, if_false, if_true] at ha ha'
      by_contra hn
      rcases Nat.lt_or_gt_of_ne hn with hlt | hlt
      · rw [if_pos hlt] at ha; exact hw.1.2 ha
      · rw [if_pos hlt] at ha'; exact hw'.1.2 ha'.symm
    subst haa
    simp only [Mem.byte, Nat.lt_irrefl, if_false, if_true] at ha
    subst ha
    rw [Mem.ext_from hw.2 hw'.2 fun y => by
      by_cases hy : y < a + 1
      · rw [Mem.byte_of_lt hw.2 hy, Mem.byte_of_lt hw'.2 hy]
      · have := h y
        simpa only [Mem.byte, if_neg (show ¬ y < a by omega), if_neg (show ¬ y = a by omega)] using this]

/-- Two memories in canonical form with equal bytes are equal. -/
theorem Mem.ext_of_bytes {m m' : Mem} (h : m.wf = true) (h' : m'.wf = true) (hb : ∀ y, m.byte y = m'.byte y) : m = m' :=
  Mem.ext_from h h' hb

end Sys2Proof.Machine
end

