-- ==== Sys2Proof/Laws/State.lean ====
section
/-!
SUPPORT. What the updates of the state leave in every field: of the machine, of a core and of a hart.
-/

namespace Sys2Proof.Machine

/-! ### The machine -/

@[simp] theorem State.modifyCore_cores (s : State) (c : CoreId) (f : Core → Core) : (s.modifyCore c f).cores = s.cores.set c.val (f s.cores[c.val]) := rfl
@[simp] theorem State.modifyCore_dev (s : State) (c : CoreId) (f : Core → Core) : (s.modifyCore c f).dev = s.dev := rfl
@[simp] theorem State.modifyCore_cur (s : State) (c : CoreId) (f : Core → Core) : (s.modifyCore c f).cur = s.cur := rfl
@[simp] theorem State.modifyCore_agenda (s : State) (c : CoreId) (f : Core → Core) : (s.modifyCore c f).agenda = s.agenda := rfl
@[simp] theorem State.modifyCore_fresh (s : State) (c : CoreId) (f : Core → Core) : (s.modifyCore c f).fresh = s.fresh := rfl

@[simp] theorem State.modifyDev_cores (s : State) (f : Device → Device) : (s.modifyDev f).cores = s.cores := rfl
@[simp] theorem State.modifyDev_dev (s : State) (f : Device → Device) : (s.modifyDev f).dev = f s.dev := rfl
@[simp] theorem State.modifyDev_cur (s : State) (f : Device → Device) : (s.modifyDev f).cur = s.cur := rfl
@[simp] theorem State.modifyDev_agenda (s : State) (f : Device → Device) : (s.modifyDev f).agenda = s.agenda := rfl
@[simp] theorem State.modifyDev_fresh (s : State) (f : Device → Device) : (s.modifyDev f).fresh = s.fresh := rfl

@[simp] theorem State.actingAs_cores (s : State) (c : CoreId) (x : CtxId) : (s.actingAs c x).cores = s.cores := rfl
@[simp] theorem State.actingAs_dev (s : State) (c : CoreId) (x : CtxId) : (s.actingAs c x).dev = s.dev := rfl
@[simp] theorem State.actingAs_cur (s : State) (c : CoreId) (x : CtxId) : (s.actingAs c x).cur = { s.cur with core := c, ctx := x } := rfl
@[simp] theorem State.actingAs_agenda (s : State) (c : CoreId) (x : CtxId) : (s.actingAs c x).agenda = s.agenda := rfl
@[simp] theorem State.actingAs_fresh (s : State) (c : CoreId) (x : CtxId) : (s.actingAs c x).fresh = s.fresh := rfl

@[simp] theorem State.takeFresh_cores (s : State) : (s.takeFresh).cores = s.cores := rfl
@[simp] theorem State.takeFresh_dev (s : State) : (s.takeFresh).dev = s.dev := rfl
@[simp] theorem State.takeFresh_cur (s : State) : (s.takeFresh).cur = s.cur := rfl
@[simp] theorem State.takeFresh_agenda (s : State) : (s.takeFresh).agenda = s.agenda := rfl
@[simp] theorem State.takeFresh_fresh (s : State) : (s.takeFresh).fresh = s.fresh + 1 := rfl

@[simp] theorem State.setHart_dev (s : State) (c : CoreId) (x : CtxId) (h : Hart) : (s.setHart c x h).dev = s.dev := rfl
@[simp] theorem State.setHart_cur (s : State) (c : CoreId) (x : CtxId) (h : Hart) : (s.setHart c x h).cur = s.cur := rfl
@[simp] theorem State.setHart_agenda (s : State) (c : CoreId) (x : CtxId) (h : Hart) : (s.setHart c x h).agenda = s.agenda := rfl
@[simp] theorem State.setHart_fresh (s : State) (c : CoreId) (x : CtxId) (h : Hart) : (s.setHart c x h).fresh = s.fresh := rfl

@[simp] theorem State.setStatus_dev (s : State) (c : CoreId) (x : CtxId) (t : Status) : (s.setStatus c x t).dev = s.dev := rfl
@[simp] theorem State.setStatus_cur (s : State) (c : CoreId) (x : CtxId) (t : Status) : (s.setStatus c x t).cur = s.cur := rfl
@[simp] theorem State.setStatus_agenda (s : State) (c : CoreId) (x : CtxId) (t : Status) : (s.setStatus c x t).agenda = s.agenda := rfl
@[simp] theorem State.setStatus_fresh (s : State) (c : CoreId) (x : CtxId) (t : Status) : (s.setStatus c x t).fresh = s.fresh := rfl

@[simp] theorem State.setMe_dev (s : State) (h : Hart) : (s.setMe h).dev = s.dev := rfl
@[simp] theorem State.setMe_cur (s : State) (h : Hart) : (s.setMe h).cur = s.cur := rfl
@[simp] theorem State.setMe_agenda (s : State) (h : Hart) : (s.setMe h).agenda = s.agenda := rfl
@[simp] theorem State.setMe_fresh (s : State) (h : Hart) : (s.setMe h).fresh = s.fresh := rfl

@[simp] theorem State.modifyMe_dev (s : State) (f : Hart → Hart) : (s.modifyMe f).dev = s.dev := rfl
@[simp] theorem State.modifyMe_cur (s : State) (f : Hart → Hart) : (s.modifyMe f).cur = s.cur := rfl
@[simp] theorem State.modifyMe_agenda (s : State) (f : Hart → Hart) : (s.modifyMe f).agenda = s.agenda := rfl
@[simp] theorem State.modifyMe_fresh (s : State) (f : Hart → Hart) : (s.modifyMe f).fresh = s.fresh := rfl

/-! ### Cores -/

@[simp] theorem Core.setHart_fwStatus (k : Core) (x : CtxId) (h : Hart) : (k.setHart x h).fwStatus = k.fwStatus := by unfold Core.setHart; split <;> rfl
@[simp] theorem Core.setHart_tvec (k : Core) (x : CtxId) (h : Hart) : (k.setHart x h).tvec = k.tvec := by unfold Core.setHart; split <;> rfl
@[simp] theorem Core.setHart_fwroot (k : Core) (x : CtxId) (h : Hart) : (k.setHart x h).fwroot = k.fwroot := by unfold Core.setHart; split <;> rfl
@[simp] theorem Core.setHart_fatalrec (k : Core) (x : CtxId) (h : Hart) : (k.setHart x h).fatalrec = k.fatalrec := by unfold Core.setHart; split <;> rfl
@[simp] theorem Core.setHart_fatal (k : Core) (x : CtxId) (h : Hart) : (k.setHart x h).fatal = k.fatal := by unfold Core.setHart; split <;> rfl
@[simp] theorem Core.setHart_ordinary (k : Core) (x : CtxId) (h : Hart) : (k.setHart x h).ordinary = k.ordinary := by unfold Core.setHart; split <;> rfl
@[simp] theorem Core.setHart_outside (k : Core) (x : CtxId) (h : Hart) : (k.setHart x h).outside = k.outside := by unfold Core.setHart; split <;> rfl
@[simp] theorem Core.setHart_inHand (k : Core) (x : CtxId) (h : Hart) : (k.setHart x h).inHand = k.inHand := by unfold Core.setHart; split <;> rfl
@[simp] theorem Core.setHart_ctxsel (k : Core) (x : CtxId) (h : Hart) : (k.setHart x h).ctxsel = k.ctxsel := by unfold Core.setHart; split <;> rfl
@[simp] theorem Core.setHart_lanemap (k : Core) (x : CtxId) (h : Hart) : (k.setHart x h).lanemap = k.lanemap := by unfold Core.setHart; split <;> rfl
@[simp] theorem Core.setHart_grant (k : Core) (x : CtxId) (h : Hart) : (k.setHart x h).grant = k.grant := by unfold Core.setHart; split <;> rfl
@[simp] theorem Core.setHart_gcap (k : Core) (x : CtxId) (h : Hart) : (k.setHart x h).gcap = k.gcap := by unfold Core.setHart; split <;> rfl
@[simp] theorem Core.setHart_allow (k : Core) (x : CtxId) (h : Hart) : (k.setHart x h).allow = k.allow := by unfold Core.setHart; split <;> rfl
@[simp] theorem Core.setHart_withdrawn (k : Core) (x : CtxId) (h : Hart) : (k.setHart x h).withdrawn = k.withdrawn := by unfold Core.setHart; split <;> rfl
@[simp] theorem Core.setHart_actw (k : Core) (x : CtxId) (h : Hart) : (k.setHart x h).actw = k.actw := by unfold Core.setHart; split <;> rfl
@[simp] theorem Core.setHart_meter (k : Core) (x : CtxId) (h : Hart) : (k.setHart x h).meter = k.meter := by unfold Core.setHart; split <;> rfl
@[simp] theorem Core.setHart_busy (k : Core) (x : CtxId) (h : Hart) : (k.setHart x h).busy = k.busy := by unfold Core.setHart; split <;> rfl
@[simp] theorem Core.setHart_handed (k : Core) (x : CtxId) (h : Hart) : (k.setHart x h).handed = k.handed := by unfold Core.setHart; split <;> rfl
@[simp] theorem Core.setHart_nrgw (k : Core) (x : CtxId) (h : Hart) : (k.setHart x h).nrgw = k.nrgw := by unfold Core.setHart; split <;> rfl
@[simp] theorem Core.setHart_nrgs (k : Core) (x : CtxId) (h : Hart) : (k.setHart x h).nrgs = k.nrgs := by unfold Core.setHart; split <;> rfl
@[simp] theorem Core.setHart_srhen (k : Core) (x : CtxId) (h : Hart) : (k.setHart x h).srhen = k.srhen := by unfold Core.setHart; split <;> rfl
@[simp] theorem Core.setHart_slottab (k : Core) (x : CtxId) (h : Hart) : (k.setHart x h).slottab = k.slottab := by unfold Core.setHart; split <;> rfl
@[simp] theorem Core.setHart_cycles (k : Core) (x : CtxId) (h : Hart) : (k.setHart x h).cycles = k.cycles := by unfold Core.setHart; split <;> rfl
@[simp] theorem Core.setHart_lastCtx (k : Core) (x : CtxId) (h : Hart) : (k.setHart x h).lastCtx = k.lastCtx := by unfold Core.setHart; split <;> rfl
@[simp] theorem Core.setHart_clock (k : Core) (x : CtxId) (h : Hart) : (k.setHart x h).clock = k.clock := by unfold Core.setHart; split <;> rfl
@[simp] theorem Core.setHart_notify (k : Core) (x : CtxId) (h : Hart) : (k.setHart x h).notify = k.notify := by unfold Core.setHart; split <;> rfl
@[simp] theorem Core.setHart_latch (k : Core) (x : CtxId) (h : Hart) : (k.setHart x h).latch = k.latch := by unfold Core.setHart; split <;> rfl
@[simp] theorem Core.setHart_power (k : Core) (x : CtxId) (h : Hart) : (k.setHart x h).power = k.power := by unfold Core.setHart; split <;> rfl
@[simp] theorem Core.setHart_groups (k : Core) (x : CtxId) (h : Hart) : (k.setHart x h).groups = k.groups := by unfold Core.setHart; split <;> rfl
@[simp] theorem Core.setHart_bufW (k : Core) (x : CtxId) (h : Hart) : (k.setHart x h).bufW = k.bufW := by unfold Core.setHart; split <;> rfl
@[simp] theorem Core.setHart_bufX (k : Core) (x : CtxId) (h : Hart) : (k.setHart x h).bufX = k.bufX := by unfold Core.setHart; split <;> rfl
@[simp] theorem Core.setHart_poisonW (k : Core) (x : CtxId) (h : Hart) : (k.setHart x h).poisonW = k.poisonW := by unfold Core.setHart; split <;> rfl
@[simp] theorem Core.setHart_poisonX (k : Core) (x : CtxId) (h : Hart) : (k.setHart x h).poisonX = k.poisonX := by unfold Core.setHart; split <;> rfl
@[simp] theorem Core.setHart_tlb (k : Core) (x : CtxId) (h : Hart) : (k.setHart x h).tlb = k.tlb := by unfold Core.setHart; split <;> rfl
@[simp] theorem Core.setHart_gensX (k : Core) (x : CtxId) (h : Hart) : (k.setHart x h).gensX = k.gensX := by unfold Core.setHart; split <;> rfl
@[simp] theorem Core.setHart_pieces (k : Core) (x : CtxId) (h : Hart) : (k.setHart x h).pieces = k.pieces := by unfold Core.setHart; split <;> rfl
@[simp] theorem Core.setHart_slots (k : Core) (x : CtxId) (h : Hart) : (k.setHart x h).slots = k.slots := by unfold Core.setHart; split <;> rfl
@[simp] theorem Core.setHart_lazyRegions (k : Core) (x : CtxId) (h : Hart) : (k.setHart x h).lazyRegions = k.lazyRegions := by unfold Core.setHart; split <;> rfl
@[simp] theorem Core.setHart_fenced (k : Core) (x : CtxId) (h : Hart) : (k.setHart x h).fenced = k.fenced := by unfold Core.setHart; split <;> rfl
@[simp] theorem Core.setHart_stagedFw (k : Core) (x : CtxId) (h : Hart) : (k.setHart x h).stagedFw = k.stagedFw := by unfold Core.setHart; split <;> rfl
@[simp] theorem Core.setHart_advice (k : Core) (x : CtxId) (h : Hart) : (k.setHart x h).advice = k.advice := by unfold Core.setHart; split <;> rfl
@[simp] theorem Core.setHart_books (k : Core) (x : CtxId) (h : Hart) : (k.setHart x h).books = k.books := by unfold Core.setHart; split <;> rfl
@[simp] theorem Core.setHart_corrected (k : Core) (x : CtxId) (h : Hart) : (k.setHart x h).corrected = k.corrected := by unfold Core.setHart; split <;> rfl

@[simp] theorem Core.setStatus_fw (k : Core) (x : CtxId) (t : Status) : (k.setStatus x t).fw = k.fw := by unfold Core.setStatus; split <;> rfl
@[simp] theorem Core.setStatus_tvec (k : Core) (x : CtxId) (t : Status) : (k.setStatus x t).tvec = k.tvec := by unfold Core.setStatus; split <;> rfl
@[simp] theorem Core.setStatus_fwroot (k : Core) (x : CtxId) (t : Status) : (k.setStatus x t).fwroot = k.fwroot := by unfold Core.setStatus; split <;> rfl
@[simp] theorem Core.setStatus_fatalrec (k : Core) (x : CtxId) (t : Status) : (k.setStatus x t).fatalrec = k.fatalrec := by unfold Core.setStatus; split <;> rfl
@[simp] theorem Core.setStatus_fatal (k : Core) (x : CtxId) (t : Status) : (k.setStatus x t).fatal = k.fatal := by unfold Core.setStatus; split <;> rfl
@[simp] theorem Core.setStatus_ordinary (k : Core) (x : CtxId) (t : Status) : (k.setStatus x t).ordinary = k.ordinary := by unfold Core.setStatus; split <;> rfl
@[simp] theorem Core.setStatus_outside (k : Core) (x : CtxId) (t : Status) : (k.setStatus x t).outside = k.outside := by unfold Core.setStatus; split <;> rfl
@[simp] theorem Core.setStatus_inHand (k : Core) (x : CtxId) (t : Status) : (k.setStatus x t).inHand = k.inHand := by unfold Core.setStatus; split <;> rfl
@[simp] theorem Core.setStatus_ctxsel (k : Core) (x : CtxId) (t : Status) : (k.setStatus x t).ctxsel = k.ctxsel := by unfold Core.setStatus; split <;> rfl
@[simp] theorem Core.setStatus_lanemap (k : Core) (x : CtxId) (t : Status) : (k.setStatus x t).lanemap = k.lanemap := by unfold Core.setStatus; split <;> rfl
@[simp] theorem Core.setStatus_grant (k : Core) (x : CtxId) (t : Status) : (k.setStatus x t).grant = k.grant := by unfold Core.setStatus; split <;> rfl
@[simp] theorem Core.setStatus_gcap (k : Core) (x : CtxId) (t : Status) : (k.setStatus x t).gcap = k.gcap := by unfold Core.setStatus; split <;> rfl
@[simp] theorem Core.setStatus_allow (k : Core) (x : CtxId) (t : Status) : (k.setStatus x t).allow = k.allow := by unfold Core.setStatus; split <;> rfl
@[simp] theorem Core.setStatus_withdrawn (k : Core) (x : CtxId) (t : Status) : (k.setStatus x t).withdrawn = k.withdrawn := by unfold Core.setStatus; split <;> rfl
@[simp] theorem Core.setStatus_actw (k : Core) (x : CtxId) (t : Status) : (k.setStatus x t).actw = k.actw := by unfold Core.setStatus; split <;> rfl
@[simp] theorem Core.setStatus_meter (k : Core) (x : CtxId) (t : Status) : (k.setStatus x t).meter = k.meter := by unfold Core.setStatus; split <;> rfl
@[simp] theorem Core.setStatus_busy (k : Core) (x : CtxId) (t : Status) : (k.setStatus x t).busy = k.busy := by unfold Core.setStatus; split <;> rfl
@[simp] theorem Core.setStatus_handed (k : Core) (x : CtxId) (t : Status) : (k.setStatus x t).handed = k.handed := by unfold Core.setStatus; split <;> rfl
@[simp] theorem Core.setStatus_nrgw (k : Core) (x : CtxId) (t : Status) : (k.setStatus x t).nrgw = k.nrgw := by unfold Core.setStatus; split <;> rfl
@[simp] theorem Core.setStatus_nrgs (k : Core) (x : CtxId) (t : Status) : (k.setStatus x t).nrgs = k.nrgs := by unfold Core.setStatus; split <;> rfl
@[simp] theorem Core.setStatus_srhen (k : Core) (x : CtxId) (t : Status) : (k.setStatus x t).srhen = k.srhen := by unfold Core.setStatus; split <;> rfl
@[simp] theorem Core.setStatus_slottab (k : Core) (x : CtxId) (t : Status) : (k.setStatus x t).slottab = k.slottab := by unfold Core.setStatus; split <;> rfl
@[simp] theorem Core.setStatus_cycles (k : Core) (x : CtxId) (t : Status) : (k.setStatus x t).cycles = k.cycles := by unfold Core.setStatus; split <;> rfl
@[simp] theorem Core.setStatus_lastCtx (k : Core) (x : CtxId) (t : Status) : (k.setStatus x t).lastCtx = k.lastCtx := by unfold Core.setStatus; split <;> rfl
@[simp] theorem Core.setStatus_clock (k : Core) (x : CtxId) (t : Status) : (k.setStatus x t).clock = k.clock := by unfold Core.setStatus; split <;> rfl
@[simp] theorem Core.setStatus_notify (k : Core) (x : CtxId) (t : Status) : (k.setStatus x t).notify = k.notify := by unfold Core.setStatus; split <;> rfl
@[simp] theorem Core.setStatus_latch (k : Core) (x : CtxId) (t : Status) : (k.setStatus x t).latch = k.latch := by unfold Core.setStatus; split <;> rfl
@[simp] theorem Core.setStatus_power (k : Core) (x : CtxId) (t : Status) : (k.setStatus x t).power = k.power := by unfold Core.setStatus; split <;> rfl
@[simp] theorem Core.setStatus_groups (k : Core) (x : CtxId) (t : Status) : (k.setStatus x t).groups = k.groups := by unfold Core.setStatus; split <;> rfl
@[simp] theorem Core.setStatus_bufW (k : Core) (x : CtxId) (t : Status) : (k.setStatus x t).bufW = k.bufW := by unfold Core.setStatus; split <;> rfl
@[simp] theorem Core.setStatus_bufX (k : Core) (x : CtxId) (t : Status) : (k.setStatus x t).bufX = k.bufX := by unfold Core.setStatus; split <;> rfl
@[simp] theorem Core.setStatus_poisonW (k : Core) (x : CtxId) (t : Status) : (k.setStatus x t).poisonW = k.poisonW := by unfold Core.setStatus; split <;> rfl
@[simp] theorem Core.setStatus_poisonX (k : Core) (x : CtxId) (t : Status) : (k.setStatus x t).poisonX = k.poisonX := by unfold Core.setStatus; split <;> rfl
@[simp] theorem Core.setStatus_tlb (k : Core) (x : CtxId) (t : Status) : (k.setStatus x t).tlb = k.tlb := by unfold Core.setStatus; split <;> rfl
@[simp] theorem Core.setStatus_gensX (k : Core) (x : CtxId) (t : Status) : (k.setStatus x t).gensX = k.gensX := by unfold Core.setStatus; split <;> rfl
@[simp] theorem Core.setStatus_pieces (k : Core) (x : CtxId) (t : Status) : (k.setStatus x t).pieces = k.pieces := by unfold Core.setStatus; split <;> rfl
@[simp] theorem Core.setStatus_slots (k : Core) (x : CtxId) (t : Status) : (k.setStatus x t).slots = k.slots := by unfold Core.setStatus; split <;> rfl
@[simp] theorem Core.setStatus_lazyRegions (k : Core) (x : CtxId) (t : Status) : (k.setStatus x t).lazyRegions = k.lazyRegions := by unfold Core.setStatus; split <;> rfl
@[simp] theorem Core.setStatus_fenced (k : Core) (x : CtxId) (t : Status) : (k.setStatus x t).fenced = k.fenced := by unfold Core.setStatus; split <;> rfl
@[simp] theorem Core.setStatus_stagedFw (k : Core) (x : CtxId) (t : Status) : (k.setStatus x t).stagedFw = k.stagedFw := by unfold Core.setStatus; split <;> rfl
@[simp] theorem Core.setStatus_advice (k : Core) (x : CtxId) (t : Status) : (k.setStatus x t).advice = k.advice := by unfold Core.setStatus; split <;> rfl
@[simp] theorem Core.setStatus_books (k : Core) (x : CtxId) (t : Status) : (k.setStatus x t).books = k.books := by unfold Core.setStatus; split <;> rfl
@[simp] theorem Core.setStatus_corrected (k : Core) (x : CtxId) (t : Status) : (k.setStatus x t).corrected = k.corrected := by unfold Core.setStatus; split <;> rfl

@[simp] theorem Core.hart_setHart (k : Core) (x : CtxId) (h : Hart) : (k.setHart x h).hart x = h := by
  unfold Core.setHart Core.hart; split <;> simp

theorem Core.hart_setHart_ne (k : Core) (x y : CtxId) (h : Hart) (hn : y ≠ x) : (k.setHart x h).hart y = k.hart y := by
  have hv : x.val ≠ y.val := fun e => hn (Fin.ext e.symm)
  have hx := x.isLt
  have hy := y.isLt
  unfold Core.setHart Core.hart
  split <;> split <;> first | rfl | omega | simp [hv]

@[simp] theorem Core.status_setHart (k : Core) (x y : CtxId) (h : Hart) : (k.setHart x h).status y = k.status y := by
  unfold Core.setHart Core.status
  split <;> split <;> first | rfl | (simp only [Vector.getElem_set]; split <;> simp_all)

@[simp] theorem Core.status_setStatus (k : Core) (x : CtxId) (t : Status) : (k.setStatus x t).status x = t := by
  unfold Core.setStatus Core.status; split <;> simp

theorem Core.status_setStatus_ne (k : Core) (x y : CtxId) (t : Status) (hn : y ≠ x) :
    (k.setStatus x t).status y = k.status y := by
  have hv : x.val ≠ y.val := fun e => hn (Fin.ext e.symm)
  have hx := x.isLt
  have hy := y.isLt
  unfold Core.setStatus Core.status
  split <;> split <;> first | rfl | omega | simp [hv]

@[simp] theorem Core.hart_setStatus (k : Core) (x y : CtxId) (t : Status) : (k.setStatus x t).hart y = k.hart y := by
  unfold Core.setStatus Core.hart
  split <;> split <;> first | rfl | (simp only [Vector.getElem_set]; split <;> simp_all)

/-! ### Cores and harts of the machine -/

@[simp] theorem State.core_modifyCore (s : State) (c : CoreId) (f : Core → Core) :
    (s.modifyCore c f).core c = f (s.core c) := by simp [State.core, State.modifyCore]

theorem State.core_modifyCore_ne (s : State) (c d : CoreId) (f : Core → Core) (h : d ≠ c) :
    (s.modifyCore c f).core d = s.core d := by
  have hv : c.val ≠ d.val := fun e => h (Fin.ext e.symm)
  simp [State.core, State.modifyCore, hv]

@[simp] theorem State.core_modifyDev (s : State) (f : Device → Device) (c : CoreId) :
    (s.modifyDev f).core c = s.core c := rfl

@[simp] theorem State.core_actingAs (s : State) (c : CoreId) (x : CtxId) (d : CoreId) :
    (s.actingAs c x).core d = s.core d := rfl

@[simp] theorem State.core_takeFresh (s : State) (c : CoreId) : s.takeFresh.core c = s.core c := rfl

@[simp] theorem State.hart_modifyDev (s : State) (f : Device → Device) (c : CoreId) (x : CtxId) :
    (s.modifyDev f).hart c x = s.hart c x := rfl

@[simp] theorem State.hart_actingAs (s : State) (d : CoreId) (y : CtxId) (c : CoreId) (x : CtxId) :
    (s.actingAs d y).hart c x = s.hart c x := rfl

@[simp] theorem State.hart_takeFresh (s : State) (c : CoreId) (x : CtxId) : s.takeFresh.hart c x = s.hart c x := rfl

@[simp] theorem State.hart_setHart (s : State) (c : CoreId) (x : CtxId) (h : Hart) : (s.setHart c x h).hart c x = h := by
  simp [State.hart, State.setHart]

theorem State.hart_setHart_ne (s : State) (c d : CoreId) (x y : CtxId) (h : Hart) (hn : d ≠ c ∨ y ≠ x) :
    (s.setHart c x h).hart d y = s.hart d y := by
  unfold State.hart State.setHart
  by_cases hd : d = c
  · subst hd
    rw [State.core_modifyCore, Core.hart_setHart_ne _ _ _ _ (by simpa using hn)]
  · rw [State.core_modifyCore_ne _ _ _ _ hd]

@[simp] theorem State.hart_setStatus (s : State) (c d : CoreId) (x y : CtxId) (t : Status) :
    (s.setStatus c x t).hart d y = s.hart d y := by
  unfold State.hart State.setStatus
  by_cases hd : d = c
  · subst hd; simp
  · rw [State.core_modifyCore_ne _ _ _ _ hd]

@[simp] theorem State.status_setStatus (s : State) (c : CoreId) (x : CtxId) (t : Status) :
    (s.setStatus c x t).status c x = t := by simp [State.status, State.setStatus]

@[simp] theorem State.status_setHart (s : State) (c d : CoreId) (x y : CtxId) (h : Hart) :
    (s.setHart c x h).status d y = s.status d y := by
  unfold State.status State.setHart
  by_cases hd : d = c
  · subst hd; simp
  · rw [State.core_modifyCore_ne _ _ _ _ hd]

@[simp] theorem State.me_setMe (s : State) (h : Hart) : (s.setMe h).me = h := by simp [State.me, State.setMe]

@[simp] theorem State.me_modifyMe (s : State) (f : Hart → Hart) : (s.modifyMe f).me = f s.me := by simp [State.modifyMe]

@[simp] theorem State.me_modifyDev (s : State) (f : Device → Device) : (s.modifyDev f).me = s.me := rfl

@[simp] theorem State.me_takeFresh (s : State) : s.takeFresh.me = s.me := rfl

@[simp] theorem State.isFirmware_modifyMe (s : State) (f : Hart → Hart) : (s.modifyMe f).isFirmware = s.isFirmware := rfl

@[simp] theorem State.isFirmware_modifyDev (s : State) (f : Device → Device) :
    (s.modifyDev f).isFirmware = s.isFirmware := rfl

@[simp] theorem State.status_modifyMe (s : State) (f : Hart → Hart) (c : CoreId) (x : CtxId) :
    (s.modifyMe f).status c x = s.status c x := by simp [State.modifyMe, State.setMe]

/-! ### Harts -/

@[simp] theorem Hart.writeX_pc (h : Hart) (r : Reg) (v : Word) : (h.writeX r v).pc = h.pc := by unfold Hart.writeX; split <;> rfl
@[simp] theorem Hart.writeX_first (h : Hart) (r : Reg) (v : Word) : (h.writeX r v).first = h.first := by unfold Hart.writeX; split <;> rfl
@[simp] theorem Hart.writeX_vfull (h : Hart) (r : Reg) (v : Word) : (h.writeX r v).vfull = h.vfull := by unfold Hart.writeX; split <;> rfl
@[simp] theorem Hart.writeX_fills (h : Hart) (r : Reg) (v : Word) : (h.writeX r v).fills = h.fills := by unfold Hart.writeX; split <;> rfl
@[simp] theorem Hart.writeX_vec (h : Hart) (r : Reg) (v : Word) : (h.writeX r v).vec = h.vec := by unfold Hart.writeX; split <;> rfl
@[simp] theorem Hart.writeX_vl (h : Hart) (r : Reg) (v : Word) : (h.writeX r v).vl = h.vl := by unfold Hart.writeX; split <;> rfl
@[simp] theorem Hart.writeX_vrows (h : Hart) (r : Reg) (v : Word) : (h.writeX r v).vrows = h.vrows := by unfold Hart.writeX; split <;> rfl
@[simp] theorem Hart.writeX_vst (h : Hart) (r : Reg) (v : Word) : (h.writeX r v).vst = h.vst := by unfold Hart.writeX; split <;> rfl
@[simp] theorem Hart.writeX_vcfg (h : Hart) (r : Reg) (v : Word) : (h.writeX r v).vcfg = h.vcfg := by unfold Hart.writeX; split <;> rfl
@[simp] theorem Hart.writeX_names (h : Hart) (r : Reg) (v : Word) : (h.writeX r v).names = h.names := by unfold Hart.writeX; split <;> rfl
@[simp] theorem Hart.writeX_vlmax (h : Hart) (r : Reg) (v : Word) : (h.writeX r v).vlmax = h.vlmax := by unfold Hart.writeX; split <;> rfl
@[simp] theorem Hart.writeX_vlazy (h : Hart) (r : Reg) (v : Word) : (h.writeX r v).vlazy = h.vlazy := by unfold Hart.writeX; split <;> rfl
@[simp] theorem Hart.writeX_reloc (h : Hart) (r : Reg) (v : Word) : (h.writeX r v).reloc = h.reloc := by unfold Hart.writeX; split <;> rfl
@[simp] theorem Hart.writeX_shrunk (h : Hart) (r : Reg) (v : Word) : (h.writeX r v).shrunk = h.shrunk := by unfold Hart.writeX; split <;> rfl
@[simp] theorem Hart.writeX_md (h : Hart) (r : Reg) (v : Word) : (h.writeX r v).md = h.md := by unfold Hart.writeX; split <;> rfl
@[simp] theorem Hart.writeX_k (h : Hart) (r : Reg) (v : Word) : (h.writeX r v).k = h.k := by unfold Hart.writeX; split <;> rfl
@[simp] theorem Hart.writeX_freq (h : Hart) (r : Reg) (v : Word) : (h.writeX r v).freq = h.freq := by unfold Hart.writeX; split <;> rfl
@[simp] theorem Hart.writeX_streams (h : Hart) (r : Reg) (v : Word) : (h.writeX r v).streams = h.streams := by unfold Hart.writeX; split <;> rfl
@[simp] theorem Hart.writeX_w (h : Hart) (r : Reg) (v : Word) : (h.writeX r v).w = h.w := by unfold Hart.writeX; split <;> rfl
@[simp] theorem Hart.writeX_c (h : Hart) (r : Reg) (v : Word) : (h.writeX r v).c = h.c := by unfold Hart.writeX; split <;> rfl
@[simp] theorem Hart.writeX_seq (h : Hart) (r : Reg) (v : Word) : (h.writeX r v).seq = h.seq := by unfold Hart.writeX; split <;> rfl
@[simp] theorem Hart.writeX_cmds (h : Hart) (r : Reg) (v : Word) : (h.writeX r v).cmds = h.cmds := by unfold Hart.writeX; split <;> rfl
@[simp] theorem Hart.writeX_followOns (h : Hart) (r : Reg) (v : Word) : (h.writeX r v).followOns = h.followOns := by unfold Hart.writeX; split <;> rfl
@[simp] theorem Hart.writeX_copyReports (h : Hart) (r : Reg) (v : Word) : (h.writeX r v).copyReports = h.copyReports := by unfold Hart.writeX; split <;> rfl
@[simp] theorem Hart.writeX_strip (h : Hart) (r : Reg) (v : Word) : (h.writeX r v).strip = h.strip := by unfold Hart.writeX; split <;> rfl
@[simp] theorem Hart.writeX_stripCount (h : Hart) (r : Reg) (v : Word) : (h.writeX r v).stripCount = h.stripCount := by unfold Hart.writeX; split <;> rfl
@[simp] theorem Hart.writeX_pace (h : Hart) (r : Reg) (v : Word) : (h.writeX r v).pace = h.pace := by unfold Hart.writeX; split <;> rfl
@[simp] theorem Hart.writeX_pushes (h : Hart) (r : Reg) (v : Word) : (h.writeX r v).pushes = h.pushes := by unfold Hart.writeX; split <;> rfl
@[simp] theorem Hart.writeX_additions (h : Hart) (r : Reg) (v : Word) : (h.writeX r v).additions = h.additions := by unfold Hart.writeX; split <;> rfl
@[simp] theorem Hart.writeX_closing (h : Hart) (r : Reg) (v : Word) : (h.writeX r v).closing = h.closing := by unfold Hart.writeX; split <;> rfl
@[simp] theorem Hart.writeX_elemBase (h : Hart) (r : Reg) (v : Word) : (h.writeX r v).elemBase = h.elemBase := by unfold Hart.writeX; split <;> rfl
@[simp] theorem Hart.writeX_checkpoint (h : Hart) (r : Reg) (v : Word) : (h.writeX r v).checkpoint = h.checkpoint := by unfold Hart.writeX; split <;> rfl
@[simp] theorem Hart.writeX_links (h : Hart) (r : Reg) (v : Word) : (h.writeX r v).links = h.links := by unfold Hart.writeX; split <;> rfl
@[simp] theorem Hart.writeX_bindings (h : Hart) (r : Reg) (v : Word) : (h.writeX r v).bindings = h.bindings := by unfold Hart.writeX; split <;> rfl
@[simp] theorem Hart.writeX_barriers (h : Hart) (r : Reg) (v : Word) : (h.writeX r v).barriers = h.barriers := by unfold Hart.writeX; split <;> rfl
@[simp] theorem Hart.writeX_arrivals (h : Hart) (r : Reg) (v : Word) : (h.writeX r v).arrivals = h.arrivals := by unfold Hart.writeX; split <;> rfl
@[simp] theorem Hart.writeX_promises (h : Hart) (r : Reg) (v : Word) : (h.writeX r v).promises = h.promises := by unfold Hart.writeX; split <;> rfl
@[simp] theorem Hart.writeX_grant (h : Hart) (r : Reg) (v : Word) : (h.writeX r v).grant = h.grant := by unfold Hart.writeX; split <;> rfl
@[simp] theorem Hart.writeX_trap (h : Hart) (r : Reg) (v : Word) : (h.writeX r v).trap = h.trap := by unfold Hart.writeX; split <;> rfl
@[simp] theorem Hart.writeX_eltDone (h : Hart) (r : Reg) (v : Word) : (h.writeX r v).eltDone = h.eltDone := by unfold Hart.writeX; split <;> rfl
@[simp] theorem Hart.writeX_eltEnd (h : Hart) (r : Reg) (v : Word) : (h.writeX r v).eltEnd = h.eltEnd := by unfold Hart.writeX; split <;> rfl
@[simp] theorem Hart.writeX_popFault (h : Hart) (r : Reg) (v : Word) : (h.writeX r v).popFault = h.popFault := by unfold Hart.writeX; split <;> rfl
@[simp] theorem Hart.writeX_appending (h : Hart) (r : Reg) (v : Word) : (h.writeX r v).appending = h.appending := by unfold Hart.writeX; split <;> rfl
@[simp] theorem Hart.writeX_rowDone (h : Hart) (r : Reg) (v : Word) : (h.writeX r v).rowDone = h.rowDone := by unfold Hart.writeX; split <;> rfl
@[simp] theorem Hart.writeX_mma (h : Hart) (r : Reg) (v : Word) : (h.writeX r v).mma = h.mma := by unfold Hart.writeX; split <;> rfl
@[simp] theorem Hart.writeX_trapDue (h : Hart) (r : Reg) (v : Word) : (h.writeX r v).trapDue = h.trapDue := by unfold Hart.writeX; split <;> rfl
@[simp] theorem Hart.writeX_blocks (h : Hart) (r : Reg) (v : Word) : (h.writeX r v).blocks = h.blocks := by unfold Hart.writeX; split <;> rfl
@[simp] theorem Hart.writeX_id (h : Hart) (r : Reg) (v : Word) : (h.writeX r v).id = h.id := by unfold Hart.writeX; split <;> rfl
@[simp] theorem Hart.writeX_link (h : Hart) (r : Reg) (v : Word) : (h.writeX r v).link = h.link := by unfold Hart.writeX; split <;> rfl
@[simp] theorem Hart.writeX_quarter (h : Hart) (r : Reg) (v : Word) : (h.writeX r v).quarter = h.quarter := by unfold Hart.writeX; split <;> rfl
@[simp] theorem Hart.writeX_bookVersion (h : Hart) (r : Reg) (v : Word) : (h.writeX r v).bookVersion = h.bookVersion := by unfold Hart.writeX; split <;> rfl
@[simp] theorem Hart.writeX_gang (h : Hart) (r : Reg) (v : Word) : (h.writeX r v).gang = h.gang := by unfold Hart.writeX; split <;> rfl
@[simp] theorem Hart.writeX_partner (h : Hart) (r : Reg) (v : Word) : (h.writeX r v).partner = h.partner := by unfold Hart.writeX; split <;> rfl
@[simp] theorem Hart.writeX_soloNames (h : Hart) (r : Reg) (v : Word) : (h.writeX r v).soloNames = h.soloNames := by unfold Hart.writeX; split <;> rfl
@[simp] theorem Hart.writeX_split (h : Hart) (r : Reg) (v : Word) : (h.writeX r v).split = h.split := by unfold Hart.writeX; split <;> rfl
@[simp] theorem Hart.writeX_adv (h : Hart) (r : Reg) (v : Word) : (h.writeX r v).adv = h.adv := by unfold Hart.writeX; split <;> rfl
@[simp] theorem Hart.writeX_nrg (h : Hart) (r : Reg) (v : Word) : (h.writeX r v).nrg = h.nrg := by unfold Hart.writeX; split <;> rfl
@[simp] theorem Hart.writeX_cancelled (h : Hart) (r : Reg) (v : Word) : (h.writeX r v).cancelled = h.cancelled := by unfold Hart.writeX; split <;> rfl
@[simp] theorem Hart.writeX_fenceDue (h : Hart) (r : Reg) (v : Word) : (h.writeX r v).fenceDue = h.fenceDue := by unfold Hart.writeX; split <;> rfl
@[simp] theorem Hart.writeX_verdict (h : Hart) (r : Reg) (v : Word) : (h.writeX r v).verdict = h.verdict := by unfold Hart.writeX; split <;> rfl
@[simp] theorem Hart.writeX_abandoned (h : Hart) (r : Reg) (v : Word) : (h.writeX r v).abandoned = h.abandoned := by unfold Hart.writeX; split <;> rfl
@[simp] theorem Hart.writeX_vimage (h : Hart) (r : Reg) (v : Word) : (h.writeX r v).vimage = h.vimage := by unfold Hart.writeX; split <;> rfl
@[simp] theorem Hart.writeX_zimage (h : Hart) (r : Reg) (v : Word) : (h.writeX r v).zimage = h.zimage := by unfold Hart.writeX; split <;> rfl
@[simp] theorem Hart.writeX_zsaved (h : Hart) (r : Reg) (v : Word) : (h.writeX r v).zsaved = h.zsaved := by unfold Hart.writeX; split <;> rfl

@[simp] theorem Hart.produceX_pc (h : Hart) (r : Reg) (v : Word) : (h.produceX r v).pc = h.pc := by unfold Hart.produceX; split <;> rfl
@[simp] theorem Hart.produceX_first (h : Hart) (r : Reg) (v : Word) : (h.produceX r v).first = h.first := by unfold Hart.produceX; split <;> rfl
@[simp] theorem Hart.produceX_x (h : Hart) (r : Reg) (v : Word) : (h.produceX r v).x = h.x := by unfold Hart.produceX; split <;> rfl
@[simp] theorem Hart.produceX_vfull (h : Hart) (r : Reg) (v : Word) : (h.produceX r v).vfull = h.vfull := by unfold Hart.produceX; split <;> rfl
@[simp] theorem Hart.produceX_vec (h : Hart) (r : Reg) (v : Word) : (h.produceX r v).vec = h.vec := by unfold Hart.produceX; split <;> rfl
@[simp] theorem Hart.produceX_vl (h : Hart) (r : Reg) (v : Word) : (h.produceX r v).vl = h.vl := by unfold Hart.produceX; split <;> rfl
@[simp] theorem Hart.produceX_vrows (h : Hart) (r : Reg) (v : Word) : (h.produceX r v).vrows = h.vrows := by unfold Hart.produceX; split <;> rfl
@[simp] theorem Hart.produceX_vst (h : Hart) (r : Reg) (v : Word) : (h.produceX r v).vst = h.vst := by unfold Hart.produceX; split <;> rfl
@[simp] theorem Hart.produceX_vcfg (h : Hart) (r : Reg) (v : Word) : (h.produceX r v).vcfg = h.vcfg := by unfold Hart.produceX; split <;> rfl
@[simp] theorem Hart.produceX_names (h : Hart) (r : Reg) (v : Word) : (h.produceX r v).names = h.names := by unfold Hart.produceX; split <;> rfl
@[simp] theorem Hart.produceX_vlmax (h : Hart) (r : Reg) (v : Word) : (h.produceX r v).vlmax = h.vlmax := by unfold Hart.produceX; split <;> rfl
@[simp] theorem Hart.produceX_vlazy (h : Hart) (r : Reg) (v : Word) : (h.produceX r v).vlazy = h.vlazy := by unfold Hart.produceX; split <;> rfl
@[simp] theorem Hart.produceX_reloc (h : Hart) (r : Reg) (v : Word) : (h.produceX r v).reloc = h.reloc := by unfold Hart.produceX; split <;> rfl
@[simp] theorem Hart.produceX_shrunk (h : Hart) (r : Reg) (v : Word) : (h.produceX r v).shrunk = h.shrunk := by unfold Hart.produceX; split <;> rfl
@[simp] theorem Hart.produceX_md (h : Hart) (r : Reg) (v : Word) : (h.produceX r v).md = h.md := by unfold Hart.produceX; split <;> rfl
@[simp] theorem Hart.produceX_k (h : Hart) (r : Reg) (v : Word) : (h.produceX r v).k = h.k := by unfold Hart.produceX; split <;> rfl
@[simp] theorem Hart.produceX_freq (h : Hart) (r : Reg) (v : Word) : (h.produceX r v).freq = h.freq := by unfold Hart.produceX; split <;> rfl
@[simp] theorem Hart.produceX_streams (h : Hart) (r : Reg) (v : Word) : (h.produceX r v).streams = h.streams := by unfold Hart.produceX; split <;> rfl
@[simp] theorem Hart.produceX_w (h : Hart) (r : Reg) (v : Word) : (h.produceX r v).w = h.w := by unfold Hart.produceX; split <;> rfl
@[simp] theorem Hart.produceX_c (h : Hart) (r : Reg) (v : Word) : (h.produceX r v).c = h.c := by unfold Hart.produceX; split <;> rfl
@[simp] theorem Hart.produceX_seq (h : Hart) (r : Reg) (v : Word) : (h.produceX r v).seq = h.seq := by unfold Hart.produceX; split <;> rfl
@[simp] theorem Hart.produceX_cmds (h : Hart) (r : Reg) (v : Word) : (h.produceX r v).cmds = h.cmds := by unfold Hart.produceX; split <;> rfl
@[simp] theorem Hart.produceX_followOns (h : Hart) (r : Reg) (v : Word) : (h.produceX r v).followOns = h.followOns := by unfold Hart.produceX; split <;> rfl
@[simp] theorem Hart.produceX_copyReports (h : Hart) (r : Reg) (v : Word) : (h.produceX r v).copyReports = h.copyReports := by unfold Hart.produceX; split <;> rfl
@[simp] theorem Hart.produceX_strip (h : Hart) (r : Reg) (v : Word) : (h.produceX r v).strip = h.strip := by unfold Hart.produceX; split <;> rfl
@[simp] theorem Hart.produceX_stripCount (h : Hart) (r : Reg) (v : Word) : (h.produceX r v).stripCount = h.stripCount := by unfold Hart.produceX; split <;> rfl
@[simp] theorem Hart.produceX_pace (h : Hart) (r : Reg) (v : Word) : (h.produceX r v).pace = h.pace := by unfold Hart.produceX; split <;> rfl
@[simp] theorem Hart.produceX_pushes (h : Hart) (r : Reg) (v : Word) : (h.produceX r v).pushes = h.pushes := by unfold Hart.produceX; split <;> rfl
@[simp] theorem Hart.produceX_additions (h : Hart) (r : Reg) (v : Word) : (h.produceX r v).additions = h.additions := by unfold Hart.produceX; split <;> rfl
@[simp] theorem Hart.produceX_closing (h : Hart) (r : Reg) (v : Word) : (h.produceX r v).closing = h.closing := by unfold Hart.produceX; split <;> rfl
@[simp] theorem Hart.produceX_elemBase (h : Hart) (r : Reg) (v : Word) : (h.produceX r v).elemBase = h.elemBase := by unfold Hart.produceX; split <;> rfl
@[simp] theorem Hart.produceX_checkpoint (h : Hart) (r : Reg) (v : Word) : (h.produceX r v).checkpoint = h.checkpoint := by unfold Hart.produceX; split <;> rfl
@[simp] theorem Hart.produceX_links (h : Hart) (r : Reg) (v : Word) : (h.produceX r v).links = h.links := by unfold Hart.produceX; split <;> rfl
@[simp] theorem Hart.produceX_bindings (h : Hart) (r : Reg) (v : Word) : (h.produceX r v).bindings = h.bindings := by unfold Hart.produceX; split <;> rfl
@[simp] theorem Hart.produceX_barriers (h : Hart) (r : Reg) (v : Word) : (h.produceX r v).barriers = h.barriers := by unfold Hart.produceX; split <;> rfl
@[simp] theorem Hart.produceX_arrivals (h : Hart) (r : Reg) (v : Word) : (h.produceX r v).arrivals = h.arrivals := by unfold Hart.produceX; split <;> rfl
@[simp] theorem Hart.produceX_promises (h : Hart) (r : Reg) (v : Word) : (h.produceX r v).promises = h.promises := by unfold Hart.produceX; split <;> rfl
@[simp] theorem Hart.produceX_grant (h : Hart) (r : Reg) (v : Word) : (h.produceX r v).grant = h.grant := by unfold Hart.produceX; split <;> rfl
@[simp] theorem Hart.produceX_trap (h : Hart) (r : Reg) (v : Word) : (h.produceX r v).trap = h.trap := by unfold Hart.produceX; split <;> rfl
@[simp] theorem Hart.produceX_eltDone (h : Hart) (r : Reg) (v : Word) : (h.produceX r v).eltDone = h.eltDone := by unfold Hart.produceX; split <;> rfl
@[simp] theorem Hart.produceX_eltEnd (h : Hart) (r : Reg) (v : Word) : (h.produceX r v).eltEnd = h.eltEnd := by unfold Hart.produceX; split <;> rfl
@[simp] theorem Hart.produceX_popFault (h : Hart) (r : Reg) (v : Word) : (h.produceX r v).popFault = h.popFault := by unfold Hart.produceX; split <;> rfl
@[simp] theorem Hart.produceX_appending (h : Hart) (r : Reg) (v : Word) : (h.produceX r v).appending = h.appending := by unfold Hart.produceX; split <;> rfl
@[simp] theorem Hart.produceX_rowDone (h : Hart) (r : Reg) (v : Word) : (h.produceX r v).rowDone = h.rowDone := by unfold Hart.produceX; split <;> rfl
@[simp] theorem Hart.produceX_mma (h : Hart) (r : Reg) (v : Word) : (h.produceX r v).mma = h.mma := by unfold Hart.produceX; split <;> rfl
@[simp] theorem Hart.produceX_trapDue (h : Hart) (r : Reg) (v : Word) : (h.produceX r v).trapDue = h.trapDue := by unfold Hart.produceX; split <;> rfl
@[simp] theorem Hart.produceX_blocks (h : Hart) (r : Reg) (v : Word) : (h.produceX r v).blocks = h.blocks := by unfold Hart.produceX; split <;> rfl
@[simp] theorem Hart.produceX_id (h : Hart) (r : Reg) (v : Word) : (h.produceX r v).id = h.id := by unfold Hart.produceX; split <;> rfl
@[simp] theorem Hart.produceX_link (h : Hart) (r : Reg) (v : Word) : (h.produceX r v).link = h.link := by unfold Hart.produceX; split <;> rfl
@[simp] theorem Hart.produceX_quarter (h : Hart) (r : Reg) (v : Word) : (h.produceX r v).quarter = h.quarter := by unfold Hart.produceX; split <;> rfl
@[simp] theorem Hart.produceX_bookVersion (h : Hart) (r : Reg) (v : Word) : (h.produceX r v).bookVersion = h.bookVersion := by unfold Hart.produceX; split <;> rfl
@[simp] theorem Hart.produceX_gang (h : Hart) (r : Reg) (v : Word) : (h.produceX r v).gang = h.gang := by unfold Hart.produceX; split <;> rfl
@[simp] theorem Hart.produceX_partner (h : Hart) (r : Reg) (v : Word) : (h.produceX r v).partner = h.partner := by unfold Hart.produceX; split <;> rfl
@[simp] theorem Hart.produceX_soloNames (h : Hart) (r : Reg) (v : Word) : (h.produceX r v).soloNames = h.soloNames := by unfold Hart.produceX; split <;> rfl
@[simp] theorem Hart.produceX_split (h : Hart) (r : Reg) (v : Word) : (h.produceX r v).split = h.split := by unfold Hart.produceX; split <;> rfl
@[simp] theorem Hart.produceX_adv (h : Hart) (r : Reg) (v : Word) : (h.produceX r v).adv = h.adv := by unfold Hart.produceX; split <;> rfl
@[simp] theorem Hart.produceX_nrg (h : Hart) (r : Reg) (v : Word) : (h.produceX r v).nrg = h.nrg := by unfold Hart.produceX; split <;> rfl
@[simp] theorem Hart.produceX_cancelled (h : Hart) (r : Reg) (v : Word) : (h.produceX r v).cancelled = h.cancelled := by unfold Hart.produceX; split <;> rfl
@[simp] theorem Hart.produceX_fenceDue (h : Hart) (r : Reg) (v : Word) : (h.produceX r v).fenceDue = h.fenceDue := by unfold Hart.produceX; split <;> rfl
@[simp] theorem Hart.produceX_verdict (h : Hart) (r : Reg) (v : Word) : (h.produceX r v).verdict = h.verdict := by unfold Hart.produceX; split <;> rfl
@[simp] theorem Hart.produceX_abandoned (h : Hart) (r : Reg) (v : Word) : (h.produceX r v).abandoned = h.abandoned := by unfold Hart.produceX; split <;> rfl
@[simp] theorem Hart.produceX_vimage (h : Hart) (r : Reg) (v : Word) : (h.produceX r v).vimage = h.vimage := by unfold Hart.produceX; split <;> rfl
@[simp] theorem Hart.produceX_zimage (h : Hart) (r : Reg) (v : Word) : (h.produceX r v).zimage = h.zimage := by unfold Hart.produceX; split <;> rfl
@[simp] theorem Hart.produceX_zsaved (h : Hart) (r : Reg) (v : Word) : (h.produceX r v).zsaved = h.zsaved := by unfold Hart.produceX; split <;> rfl

@[simp] theorem Hart.writeV_pc (h : Hart) (r : Reg) (v : Nat) : (h.writeV r v).pc = h.pc := rfl
@[simp] theorem Hart.writeV_first (h : Hart) (r : Reg) (v : Nat) : (h.writeV r v).first = h.first := rfl
@[simp] theorem Hart.writeV_x (h : Hart) (r : Reg) (v : Nat) : (h.writeV r v).x = h.x := rfl
@[simp] theorem Hart.writeV_full (h : Hart) (r : Reg) (v : Nat) : (h.writeV r v).full = h.full := rfl
@[simp] theorem Hart.writeV_vfull (h : Hart) (r : Reg) (v : Nat) : (h.writeV r v).vfull = setFlag h.vfull r.toNat true := rfl
@[simp] theorem Hart.writeV_fills (h : Hart) (r : Reg) (v : Nat) : (h.writeV r v).fills = h.fills := rfl
@[simp] theorem Hart.writeV_vec (h : Hart) (r : Reg) (v : Nat) : (h.writeV r v).vec = { h.vec with v := vset h.vec.v r.toNat v } := rfl
@[simp] theorem Hart.writeV_vl (h : Hart) (r : Reg) (v : Nat) : (h.writeV r v).vl = h.vl := rfl
@[simp] theorem Hart.writeV_vrows (h : Hart) (r : Reg) (v : Nat) : (h.writeV r v).vrows = h.vrows := rfl
@[simp] theorem Hart.writeV_vst (h : Hart) (r : Reg) (v : Nat) : (h.writeV r v).vst = h.vst := rfl
@[simp] theorem Hart.writeV_vcfg (h : Hart) (r : Reg) (v : Nat) : (h.writeV r v).vcfg = h.vcfg := rfl
@[simp] theorem Hart.writeV_names (h : Hart) (r : Reg) (v : Nat) : (h.writeV r v).names = h.names := rfl
@[simp] theorem Hart.writeV_vlmax (h : Hart) (r : Reg) (v : Nat) : (h.writeV r v).vlmax = h.vlmax := rfl
@[simp] theorem Hart.writeV_vlazy (h : Hart) (r : Reg) (v : Nat) : (h.writeV r v).vlazy = h.vlazy := rfl
@[simp] theorem Hart.writeV_reloc (h : Hart) (r : Reg) (v : Nat) : (h.writeV r v).reloc = h.reloc := rfl
@[simp] theorem Hart.writeV_shrunk (h : Hart) (r : Reg) (v : Nat) : (h.writeV r v).shrunk = h.shrunk := rfl
@[simp] theorem Hart.writeV_md (h : Hart) (r : Reg) (v : Nat) : (h.writeV r v).md = h.md := rfl
@[simp] theorem Hart.writeV_k (h : Hart) (r : Reg) (v : Nat) : (h.writeV r v).k = h.k := rfl
@[simp] theorem Hart.writeV_freq (h : Hart) (r : Reg) (v : Nat) : (h.writeV r v).freq = h.freq := rfl
@[simp] theorem Hart.writeV_streams (h : Hart) (r : Reg) (v : Nat) : (h.writeV r v).streams = h.streams := rfl
@[simp] theorem Hart.writeV_w (h : Hart) (r : Reg) (v : Nat) : (h.writeV r v).w = h.w := rfl
@[simp] theorem Hart.writeV_c (h : Hart) (r : Reg) (v : Nat) : (h.writeV r v).c = h.c := rfl
@[simp] theorem Hart.writeV_seq (h : Hart) (r : Reg) (v : Nat) : (h.writeV r v).seq = h.seq := rfl
@[simp] theorem Hart.writeV_cmds (h : Hart) (r : Reg) (v : Nat) : (h.writeV r v).cmds = h.cmds := rfl
@[simp] theorem Hart.writeV_followOns (h : Hart) (r : Reg) (v : Nat) : (h.writeV r v).followOns = h.followOns := rfl
@[simp] theorem Hart.writeV_copyReports (h : Hart) (r : Reg) (v : Nat) : (h.writeV r v).copyReports = h.copyReports := rfl
@[simp] theorem Hart.writeV_strip (h : Hart) (r : Reg) (v : Nat) : (h.writeV r v).strip = h.strip := rfl
@[simp] theorem Hart.writeV_stripCount (h : Hart) (r : Reg) (v : Nat) : (h.writeV r v).stripCount = h.stripCount := rfl
@[simp] theorem Hart.writeV_pace (h : Hart) (r : Reg) (v : Nat) : (h.writeV r v).pace = h.pace := rfl
@[simp] theorem Hart.writeV_pushes (h : Hart) (r : Reg) (v : Nat) : (h.writeV r v).pushes = h.pushes := rfl
@[simp] theorem Hart.writeV_additions (h : Hart) (r : Reg) (v : Nat) : (h.writeV r v).additions = h.additions := rfl
@[simp] theorem Hart.writeV_closing (h : Hart) (r : Reg) (v : Nat) : (h.writeV r v).closing = h.closing := rfl
@[simp] theorem Hart.writeV_elemBase (h : Hart) (r : Reg) (v : Nat) : (h.writeV r v).elemBase = h.elemBase := rfl
@[simp] theorem Hart.writeV_checkpoint (h : Hart) (r : Reg) (v : Nat) : (h.writeV r v).checkpoint = h.checkpoint := rfl
@[simp] theorem Hart.writeV_links (h : Hart) (r : Reg) (v : Nat) : (h.writeV r v).links = h.links := rfl
@[simp] theorem Hart.writeV_bindings (h : Hart) (r : Reg) (v : Nat) : (h.writeV r v).bindings = h.bindings := rfl
@[simp] theorem Hart.writeV_barriers (h : Hart) (r : Reg) (v : Nat) : (h.writeV r v).barriers = h.barriers := rfl
@[simp] theorem Hart.writeV_arrivals (h : Hart) (r : Reg) (v : Nat) : (h.writeV r v).arrivals = h.arrivals := rfl
@[simp] theorem Hart.writeV_promises (h : Hart) (r : Reg) (v : Nat) : (h.writeV r v).promises = h.promises := rfl
@[simp] theorem Hart.writeV_grant (h : Hart) (r : Reg) (v : Nat) : (h.writeV r v).grant = h.grant := rfl
@[simp] theorem Hart.writeV_trap (h : Hart) (r : Reg) (v : Nat) : (h.writeV r v).trap = h.trap := rfl
@[simp] theorem Hart.writeV_eltDone (h : Hart) (r : Reg) (v : Nat) : (h.writeV r v).eltDone = h.eltDone := rfl
@[simp] theorem Hart.writeV_eltEnd (h : Hart) (r : Reg) (v : Nat) : (h.writeV r v).eltEnd = h.eltEnd := rfl
@[simp] theorem Hart.writeV_popFault (h : Hart) (r : Reg) (v : Nat) : (h.writeV r v).popFault = h.popFault := rfl
@[simp] theorem Hart.writeV_appending (h : Hart) (r : Reg) (v : Nat) : (h.writeV r v).appending = h.appending := rfl
@[simp] theorem Hart.writeV_rowDone (h : Hart) (r : Reg) (v : Nat) : (h.writeV r v).rowDone = h.rowDone := rfl
@[simp] theorem Hart.writeV_mma (h : Hart) (r : Reg) (v : Nat) : (h.writeV r v).mma = h.mma := rfl
@[simp] theorem Hart.writeV_trapDue (h : Hart) (r : Reg) (v : Nat) : (h.writeV r v).trapDue = h.trapDue := rfl
@[simp] theorem Hart.writeV_blocks (h : Hart) (r : Reg) (v : Nat) : (h.writeV r v).blocks = h.blocks := rfl
@[simp] theorem Hart.writeV_id (h : Hart) (r : Reg) (v : Nat) : (h.writeV r v).id = h.id := rfl
@[simp] theorem Hart.writeV_link (h : Hart) (r : Reg) (v : Nat) : (h.writeV r v).link = h.link := rfl
@[simp] theorem Hart.writeV_quarter (h : Hart) (r : Reg) (v : Nat) : (h.writeV r v).quarter = h.quarter := rfl
@[simp] theorem Hart.writeV_bookVersion (h : Hart) (r : Reg) (v : Nat) : (h.writeV r v).bookVersion = h.bookVersion := rfl
@[simp] theorem Hart.writeV_gang (h : Hart) (r : Reg) (v : Nat) : (h.writeV r v).gang = h.gang := rfl
@[simp] theorem Hart.writeV_partner (h : Hart) (r : Reg) (v : Nat) : (h.writeV r v).partner = h.partner := rfl
@[simp] theorem Hart.writeV_soloNames (h : Hart) (r : Reg) (v : Nat) : (h.writeV r v).soloNames = h.soloNames := rfl
@[simp] theorem Hart.writeV_split (h : Hart) (r : Reg) (v : Nat) : (h.writeV r v).split = h.split := rfl
@[simp] theorem Hart.writeV_adv (h : Hart) (r : Reg) (v : Nat) : (h.writeV r v).adv = h.adv := rfl
@[simp] theorem Hart.writeV_nrg (h : Hart) (r : Reg) (v : Nat) : (h.writeV r v).nrg = h.nrg := rfl
@[simp] theorem Hart.writeV_cancelled (h : Hart) (r : Reg) (v : Nat) : (h.writeV r v).cancelled = h.cancelled := rfl
@[simp] theorem Hart.writeV_fenceDue (h : Hart) (r : Reg) (v : Nat) : (h.writeV r v).fenceDue = h.fenceDue := rfl
@[simp] theorem Hart.writeV_verdict (h : Hart) (r : Reg) (v : Nat) : (h.writeV r v).verdict = h.verdict := rfl
@[simp] theorem Hart.writeV_abandoned (h : Hart) (r : Reg) (v : Nat) : (h.writeV r v).abandoned = h.abandoned := rfl
@[simp] theorem Hart.writeV_vimage (h : Hart) (r : Reg) (v : Nat) : (h.writeV r v).vimage = h.vimage := rfl
@[simp] theorem Hart.writeV_zimage (h : Hart) (r : Reg) (v : Nat) : (h.writeV r v).zimage = h.zimage := rfl
@[simp] theorem Hart.writeV_zsaved (h : Hart) (r : Reg) (v : Nat) : (h.writeV r v).zsaved = h.zsaved := rfl

@[simp] theorem Hart.produceV_pc (h : Hart) (r : Reg) (v : Nat) : (h.produceV r v).pc = h.pc := rfl
@[simp] theorem Hart.produceV_first (h : Hart) (r : Reg) (v : Nat) : (h.produceV r v).first = h.first := rfl
@[simp] theorem Hart.produceV_x (h : Hart) (r : Reg) (v : Nat) : (h.produceV r v).x = h.x := rfl
@[simp] theorem Hart.produceV_full (h : Hart) (r : Reg) (v : Nat) : (h.produceV r v).full = h.full := rfl
@[simp] theorem Hart.produceV_vfull (h : Hart) (r : Reg) (v : Nat) : (h.produceV r v).vfull = setFlag h.vfull r.toNat false := rfl
@[simp] theorem Hart.produceV_fills (h : Hart) (r : Reg) (v : Nat) : (h.produceV r v).fills = h.fills ++ [{ vector := true, reg := r, value := v }] := rfl
@[simp] theorem Hart.produceV_vec (h : Hart) (r : Reg) (v : Nat) : (h.produceV r v).vec = h.vec := rfl
@[simp] theorem Hart.produceV_vl (h : Hart) (r : Reg) (v : Nat) : (h.produceV r v).vl = h.vl := rfl
@[simp] theorem Hart.produceV_vrows (h : Hart) (r : Reg) (v : Nat) : (h.produceV r v).vrows = h.vrows := rfl
@[simp] theorem Hart.produceV_vst (h : Hart) (r : Reg) (v : Nat) : (h.produceV r v).vst = h.vst := rfl
@[simp] theorem Hart.produceV_vcfg (h : Hart) (r : Reg) (v : Nat) : (h.produceV r v).vcfg = h.vcfg := rfl
@[simp] theorem Hart.produceV_names (h : Hart) (r : Reg) (v : Nat) : (h.produceV r v).names = h.names := rfl
@[simp] theorem Hart.produceV_vlmax (h : Hart) (r : Reg) (v : Nat) : (h.produceV r v).vlmax = h.vlmax := rfl
@[simp] theorem Hart.produceV_vlazy (h : Hart) (r : Reg) (v : Nat) : (h.produceV r v).vlazy = h.vlazy := rfl
@[simp] theorem Hart.produceV_reloc (h : Hart) (r : Reg) (v : Nat) : (h.produceV r v).reloc = h.reloc := rfl
@[simp] theorem Hart.produceV_shrunk (h : Hart) (r : Reg) (v : Nat) : (h.produceV r v).shrunk = h.shrunk := rfl
@[simp] theorem Hart.produceV_md (h : Hart) (r : Reg) (v : Nat) : (h.produceV r v).md = h.md := rfl
@[simp] theorem Hart.produceV_k (h : Hart) (r : Reg) (v : Nat) : (h.produceV r v).k = h.k := rfl
@[simp] theorem Hart.produceV_freq (h : Hart) (r : Reg) (v : Nat) : (h.produceV r v).freq = h.freq := rfl
@[simp] theorem Hart.produceV_streams (h : Hart) (r : Reg) (v : Nat) : (h.produceV r v).streams = h.streams := rfl
@[simp] theorem Hart.produceV_w (h : Hart) (r : Reg) (v : Nat) : (h.produceV r v).w = h.w := rfl
@[simp] theorem Hart.produceV_c (h : Hart) (r : Reg) (v : Nat) : (h.produceV r v).c = h.c := rfl
@[simp] theorem Hart.produceV_seq (h : Hart) (r : Reg) (v : Nat) : (h.produceV r v).seq = h.seq := rfl
@[simp] theorem Hart.produceV_cmds (h : Hart) (r : Reg) (v : Nat) : (h.produceV r v).cmds = h.cmds := rfl
@[simp] theorem Hart.produceV_followOns (h : Hart) (r : Reg) (v : Nat) : (h.produceV r v).followOns = h.followOns := rfl
@[simp] theorem Hart.produceV_copyReports (h : Hart) (r : Reg) (v : Nat) : (h.produceV r v).copyReports = h.copyReports := rfl
@[simp] theorem Hart.produceV_strip (h : Hart) (r : Reg) (v : Nat) : (h.produceV r v).strip = h.strip := rfl
@[simp] theorem Hart.produceV_stripCount (h : Hart) (r : Reg) (v : Nat) : (h.produceV r v).stripCount = h.stripCount := rfl
@[simp] theorem Hart.produceV_pace (h : Hart) (r : Reg) (v : Nat) : (h.produceV r v).pace = h.pace := rfl
@[simp] theorem Hart.produceV_pushes (h : Hart) (r : Reg) (v : Nat) : (h.produceV r v).pushes = h.pushes := rfl
@[simp] theorem Hart.produceV_additions (h : Hart) (r : Reg) (v : Nat) : (h.produceV r v).additions = h.additions := rfl
@[simp] theorem Hart.produceV_closing (h : Hart) (r : Reg) (v : Nat) : (h.produceV r v).closing = h.closing := rfl
@[simp] theorem Hart.produceV_elemBase (h : Hart) (r : Reg) (v : Nat) : (h.produceV r v).elemBase = h.elemBase := rfl
@[simp] theorem Hart.produceV_checkpoint (h : Hart) (r : Reg) (v : Nat) : (h.produceV r v).checkpoint = h.checkpoint := rfl
@[simp] theorem Hart.produceV_links (h : Hart) (r : Reg) (v : Nat) : (h.produceV r v).links = h.links := rfl
@[simp] theorem Hart.produceV_bindings (h : Hart) (r : Reg) (v : Nat) : (h.produceV r v).bindings = h.bindings := rfl
@[simp] theorem Hart.produceV_barriers (h : Hart) (r : Reg) (v : Nat) : (h.produceV r v).barriers = h.barriers := rfl
@[simp] theorem Hart.produceV_arrivals (h : Hart) (r : Reg) (v : Nat) : (h.produceV r v).arrivals = h.arrivals := rfl
@[simp] theorem Hart.produceV_promises (h : Hart) (r : Reg) (v : Nat) : (h.produceV r v).promises = h.promises := rfl
@[simp] theorem Hart.produceV_grant (h : Hart) (r : Reg) (v : Nat) : (h.produceV r v).grant = h.grant := rfl
@[simp] theorem Hart.produceV_trap (h : Hart) (r : Reg) (v : Nat) : (h.produceV r v).trap = h.trap := rfl
@[simp] theorem Hart.produceV_eltDone (h : Hart) (r : Reg) (v : Nat) : (h.produceV r v).eltDone = h.eltDone := rfl
@[simp] theorem Hart.produceV_eltEnd (h : Hart) (r : Reg) (v : Nat) : (h.produceV r v).eltEnd = h.eltEnd := rfl
@[simp] theorem Hart.produceV_popFault (h : Hart) (r : Reg) (v : Nat) : (h.produceV r v).popFault = h.popFault := rfl
@[simp] theorem Hart.produceV_appending (h : Hart) (r : Reg) (v : Nat) : (h.produceV r v).appending = h.appending := rfl
@[simp] theorem Hart.produceV_rowDone (h : Hart) (r : Reg) (v : Nat) : (h.produceV r v).rowDone = h.rowDone := rfl
@[simp] theorem Hart.produceV_mma (h : Hart) (r : Reg) (v : Nat) : (h.produceV r v).mma = h.mma := rfl
@[simp] theorem Hart.produceV_trapDue (h : Hart) (r : Reg) (v : Nat) : (h.produceV r v).trapDue = h.trapDue := rfl
@[simp] theorem Hart.produceV_blocks (h : Hart) (r : Reg) (v : Nat) : (h.produceV r v).blocks = h.blocks := rfl
@[simp] theorem Hart.produceV_id (h : Hart) (r : Reg) (v : Nat) : (h.produceV r v).id = h.id := rfl
@[simp] theorem Hart.produceV_link (h : Hart) (r : Reg) (v : Nat) : (h.produceV r v).link = h.link := rfl
@[simp] theorem Hart.produceV_quarter (h : Hart) (r : Reg) (v : Nat) : (h.produceV r v).quarter = h.quarter := rfl
@[simp] theorem Hart.produceV_bookVersion (h : Hart) (r : Reg) (v : Nat) : (h.produceV r v).bookVersion = h.bookVersion := rfl
@[simp] theorem Hart.produceV_gang (h : Hart) (r : Reg) (v : Nat) : (h.produceV r v).gang = h.gang := rfl
@[simp] theorem Hart.produceV_partner (h : Hart) (r : Reg) (v : Nat) : (h.produceV r v).partner = h.partner := rfl
@[simp] theorem Hart.produceV_soloNames (h : Hart) (r : Reg) (v : Nat) : (h.produceV r v).soloNames = h.soloNames := rfl
@[simp] theorem Hart.produceV_split (h : Hart) (r : Reg) (v : Nat) : (h.produceV r v).split = h.split := rfl
@[simp] theorem Hart.produceV_adv (h : Hart) (r : Reg) (v : Nat) : (h.produceV r v).adv = h.adv := rfl
@[simp] theorem Hart.produceV_nrg (h : Hart) (r : Reg) (v : Nat) : (h.produceV r v).nrg = h.nrg := rfl
@[simp] theorem Hart.produceV_cancelled (h : Hart) (r : Reg) (v : Nat) : (h.produceV r v).cancelled = h.cancelled := rfl
@[simp] theorem Hart.produceV_fenceDue (h : Hart) (r : Reg) (v : Nat) : (h.produceV r v).fenceDue = h.fenceDue := rfl
@[simp] theorem Hart.produceV_verdict (h : Hart) (r : Reg) (v : Nat) : (h.produceV r v).verdict = h.verdict := rfl
@[simp] theorem Hart.produceV_abandoned (h : Hart) (r : Reg) (v : Nat) : (h.produceV r v).abandoned = h.abandoned := rfl
@[simp] theorem Hart.produceV_vimage (h : Hart) (r : Reg) (v : Nat) : (h.produceV r v).vimage = h.vimage := rfl
@[simp] theorem Hart.produceV_zimage (h : Hart) (r : Reg) (v : Nat) : (h.produceV r v).zimage = h.zimage := rfl
@[simp] theorem Hart.produceV_zsaved (h : Hart) (r : Reg) (v : Nat) : (h.produceV r v).zsaved = h.zsaved := rfl

@[simp] theorem Hart.writeM_pc (h : Hart) (r : Reg) (v : Nat) : (h.writeM r v).pc = h.pc := rfl
@[simp] theorem Hart.writeM_first (h : Hart) (r : Reg) (v : Nat) : (h.writeM r v).first = h.first := rfl
@[simp] theorem Hart.writeM_x (h : Hart) (r : Reg) (v : Nat) : (h.writeM r v).x = h.x := rfl
@[simp] theorem Hart.writeM_full (h : Hart) (r : Reg) (v : Nat) : (h.writeM r v).full = h.full := rfl
@[simp] theorem Hart.writeM_vfull (h : Hart) (r : Reg) (v : Nat) : (h.writeM r v).vfull = h.vfull := rfl
@[simp] theorem Hart.writeM_fills (h : Hart) (r : Reg) (v : Nat) : (h.writeM r v).fills = h.fills := rfl
@[simp] theorem Hart.writeM_vec (h : Hart) (r : Reg) (v : Nat) : (h.writeM r v).vec = { h.vec with m := vset h.vec.m r.toNat v } := rfl
@[simp] theorem Hart.writeM_vl (h : Hart) (r : Reg) (v : Nat) : (h.writeM r v).vl = h.vl := rfl
@[simp] theorem Hart.writeM_vrows (h : Hart) (r : Reg) (v : Nat) : (h.writeM r v).vrows = h.vrows := rfl
@[simp] theorem Hart.writeM_vst (h : Hart) (r : Reg) (v : Nat) : (h.writeM r v).vst = h.vst := rfl
@[simp] theorem Hart.writeM_vcfg (h : Hart) (r : Reg) (v : Nat) : (h.writeM r v).vcfg = h.vcfg := rfl
@[simp] theorem Hart.writeM_names (h : Hart) (r : Reg) (v : Nat) : (h.writeM r v).names = h.names := rfl
@[simp] theorem Hart.writeM_vlmax (h : Hart) (r : Reg) (v : Nat) : (h.writeM r v).vlmax = h.vlmax := rfl
@[simp] theorem Hart.writeM_vlazy (h : Hart) (r : Reg) (v : Nat) : (h.writeM r v).vlazy = h.vlazy := rfl
@[simp] theorem Hart.writeM_reloc (h : Hart) (r : Reg) (v : Nat) : (h.writeM r v).reloc = h.reloc := rfl
@[simp] theorem Hart.writeM_shrunk (h : Hart) (r : Reg) (v : Nat) : (h.writeM r v).shrunk = h.shrunk := rfl
@[simp] theorem Hart.writeM_md (h : Hart) (r : Reg) (v : Nat) : (h.writeM r v).md = h.md := rfl
@[simp] theorem Hart.writeM_k (h : Hart) (r : Reg) (v : Nat) : (h.writeM r v).k = h.k := rfl
@[simp] theorem Hart.writeM_freq (h : Hart) (r : Reg) (v : Nat) : (h.writeM r v).freq = h.freq := rfl
@[simp] theorem Hart.writeM_streams (h : Hart) (r : Reg) (v : Nat) : (h.writeM r v).streams = h.streams := rfl
@[simp] theorem Hart.writeM_w (h : Hart) (r : Reg) (v : Nat) : (h.writeM r v).w = h.w := rfl
@[simp] theorem Hart.writeM_c (h : Hart) (r : Reg) (v : Nat) : (h.writeM r v).c = h.c := rfl
@[simp] theorem Hart.writeM_seq (h : Hart) (r : Reg) (v : Nat) : (h.writeM r v).seq = h.seq := rfl
@[simp] theorem Hart.writeM_cmds (h : Hart) (r : Reg) (v : Nat) : (h.writeM r v).cmds = h.cmds := rfl
@[simp] theorem Hart.writeM_followOns (h : Hart) (r : Reg) (v : Nat) : (h.writeM r v).followOns = h.followOns := rfl
@[simp] theorem Hart.writeM_copyReports (h : Hart) (r : Reg) (v : Nat) : (h.writeM r v).copyReports = h.copyReports := rfl
@[simp] theorem Hart.writeM_strip (h : Hart) (r : Reg) (v : Nat) : (h.writeM r v).strip = h.strip := rfl
@[simp] theorem Hart.writeM_stripCount (h : Hart) (r : Reg) (v : Nat) : (h.writeM r v).stripCount = h.stripCount := rfl
@[simp] theorem Hart.writeM_pace (h : Hart) (r : Reg) (v : Nat) : (h.writeM r v).pace = h.pace := rfl
@[simp] theorem Hart.writeM_pushes (h : Hart) (r : Reg) (v : Nat) : (h.writeM r v).pushes = h.pushes := rfl
@[simp] theorem Hart.writeM_additions (h : Hart) (r : Reg) (v : Nat) : (h.writeM r v).additions = h.additions := rfl
@[simp] theorem Hart.writeM_closing (h : Hart) (r : Reg) (v : Nat) : (h.writeM r v).closing = h.closing := rfl
@[simp] theorem Hart.writeM_elemBase (h : Hart) (r : Reg) (v : Nat) : (h.writeM r v).elemBase = h.elemBase := rfl
@[simp] theorem Hart.writeM_checkpoint (h : Hart) (r : Reg) (v : Nat) : (h.writeM r v).checkpoint = h.checkpoint := rfl
@[simp] theorem Hart.writeM_links (h : Hart) (r : Reg) (v : Nat) : (h.writeM r v).links = h.links := rfl
@[simp] theorem Hart.writeM_bindings (h : Hart) (r : Reg) (v : Nat) : (h.writeM r v).bindings = h.bindings := rfl
@[simp] theorem Hart.writeM_barriers (h : Hart) (r : Reg) (v : Nat) : (h.writeM r v).barriers = h.barriers := rfl
@[simp] theorem Hart.writeM_arrivals (h : Hart) (r : Reg) (v : Nat) : (h.writeM r v).arrivals = h.arrivals := rfl
@[simp] theorem Hart.writeM_promises (h : Hart) (r : Reg) (v : Nat) : (h.writeM r v).promises = h.promises := rfl
@[simp] theorem Hart.writeM_grant (h : Hart) (r : Reg) (v : Nat) : (h.writeM r v).grant = h.grant := rfl
@[simp] theorem Hart.writeM_trap (h : Hart) (r : Reg) (v : Nat) : (h.writeM r v).trap = h.trap := rfl
@[simp] theorem Hart.writeM_eltDone (h : Hart) (r : Reg) (v : Nat) : (h.writeM r v).eltDone = h.eltDone := rfl
@[simp] theorem Hart.writeM_eltEnd (h : Hart) (r : Reg) (v : Nat) : (h.writeM r v).eltEnd = h.eltEnd := rfl
@[simp] theorem Hart.writeM_popFault (h : Hart) (r : Reg) (v : Nat) : (h.writeM r v).popFault = h.popFault := rfl
@[simp] theorem Hart.writeM_appending (h : Hart) (r : Reg) (v : Nat) : (h.writeM r v).appending = h.appending := rfl
@[simp] theorem Hart.writeM_rowDone (h : Hart) (r : Reg) (v : Nat) : (h.writeM r v).rowDone = h.rowDone := rfl
@[simp] theorem Hart.writeM_mma (h : Hart) (r : Reg) (v : Nat) : (h.writeM r v).mma = h.mma := rfl
@[simp] theorem Hart.writeM_trapDue (h : Hart) (r : Reg) (v : Nat) : (h.writeM r v).trapDue = h.trapDue := rfl
@[simp] theorem Hart.writeM_blocks (h : Hart) (r : Reg) (v : Nat) : (h.writeM r v).blocks = h.blocks := rfl
@[simp] theorem Hart.writeM_id (h : Hart) (r : Reg) (v : Nat) : (h.writeM r v).id = h.id := rfl
@[simp] theorem Hart.writeM_link (h : Hart) (r : Reg) (v : Nat) : (h.writeM r v).link = h.link := rfl
@[simp] theorem Hart.writeM_quarter (h : Hart) (r : Reg) (v : Nat) : (h.writeM r v).quarter = h.quarter := rfl
@[simp] theorem Hart.writeM_bookVersion (h : Hart) (r : Reg) (v : Nat) : (h.writeM r v).bookVersion = h.bookVersion := rfl
@[simp] theorem Hart.writeM_gang (h : Hart) (r : Reg) (v : Nat) : (h.writeM r v).gang = h.gang := rfl
@[simp] theorem Hart.writeM_partner (h : Hart) (r : Reg) (v : Nat) : (h.writeM r v).partner = h.partner := rfl
@[simp] theorem Hart.writeM_soloNames (h : Hart) (r : Reg) (v : Nat) : (h.writeM r v).soloNames = h.soloNames := rfl
@[simp] theorem Hart.writeM_split (h : Hart) (r : Reg) (v : Nat) : (h.writeM r v).split = h.split := rfl
@[simp] theorem Hart.writeM_adv (h : Hart) (r : Reg) (v : Nat) : (h.writeM r v).adv = h.adv := rfl
@[simp] theorem Hart.writeM_nrg (h : Hart) (r : Reg) (v : Nat) : (h.writeM r v).nrg = h.nrg := rfl
@[simp] theorem Hart.writeM_cancelled (h : Hart) (r : Reg) (v : Nat) : (h.writeM r v).cancelled = h.cancelled := rfl
@[simp] theorem Hart.writeM_fenceDue (h : Hart) (r : Reg) (v : Nat) : (h.writeM r v).fenceDue = h.fenceDue := rfl
@[simp] theorem Hart.writeM_verdict (h : Hart) (r : Reg) (v : Nat) : (h.writeM r v).verdict = h.verdict := rfl
@[simp] theorem Hart.writeM_abandoned (h : Hart) (r : Reg) (v : Nat) : (h.writeM r v).abandoned = h.abandoned := rfl
@[simp] theorem Hart.writeM_vimage (h : Hart) (r : Reg) (v : Nat) : (h.writeM r v).vimage = h.vimage := rfl
@[simp] theorem Hart.writeM_zimage (h : Hart) (r : Reg) (v : Nat) : (h.writeM r v).zimage = h.zimage := rfl
@[simp] theorem Hart.writeM_zsaved (h : Hart) (r : Reg) (v : Nat) : (h.writeM r v).zsaved = h.zsaved := rfl

@[simp] theorem Hart.await_pc (h : Hart) (f : Fill) : (h.await f).pc = h.pc := by unfold Hart.await; split; rfl; split <;> rfl
@[simp] theorem Hart.await_first (h : Hart) (f : Fill) : (h.await f).first = h.first := by unfold Hart.await; split; rfl; split <;> rfl
@[simp] theorem Hart.await_x (h : Hart) (f : Fill) : (h.await f).x = h.x := by unfold Hart.await; split; rfl; split <;> rfl
@[simp] theorem Hart.await_vec (h : Hart) (f : Fill) : (h.await f).vec = h.vec := by unfold Hart.await; split; rfl; split <;> rfl
@[simp] theorem Hart.await_vl (h : Hart) (f : Fill) : (h.await f).vl = h.vl := by unfold Hart.await; split; rfl; split <;> rfl
@[simp] theorem Hart.await_vrows (h : Hart) (f : Fill) : (h.await f).vrows = h.vrows := by unfold Hart.await; split; rfl; split <;> rfl
@[simp] theorem Hart.await_vst (h : Hart) (f : Fill) : (h.await f).vst = h.vst := by unfold Hart.await; split; rfl; split <;> rfl
@[simp] theorem Hart.await_vcfg (h : Hart) (f : Fill) : (h.await f).vcfg = h.vcfg := by unfold Hart.await; split; rfl; split <;> rfl
@[simp] theorem Hart.await_names (h : Hart) (f : Fill) : (h.await f).names = h.names := by unfold Hart.await; split; rfl; split <;> rfl
@[simp] theorem Hart.await_vlmax (h : Hart) (f : Fill) : (h.await f).vlmax = h.vlmax := by unfold Hart.await; split; rfl; split <;> rfl
@[simp] theorem Hart.await_vlazy (h : Hart) (f : Fill) : (h.await f).vlazy = h.vlazy := by unfold Hart.await; split; rfl; split <;> rfl
@[simp] theorem Hart.await_reloc (h : Hart) (f : Fill) : (h.await f).reloc = h.reloc := by unfold Hart.await; split; rfl; split <;> rfl
@[simp] theorem Hart.await_shrunk (h : Hart) (f : Fill) : (h.await f).shrunk = h.shrunk := by unfold Hart.await; split; rfl; split <;> rfl
@[simp] theorem Hart.await_md (h : Hart) (f : Fill) : (h.await f).md = h.md := by unfold Hart.await; split; rfl; split <;> rfl
@[simp] theorem Hart.await_k (h : Hart) (f : Fill) : (h.await f).k = h.k := by unfold Hart.await; split; rfl; split <;> rfl
@[simp] theorem Hart.await_freq (h : Hart) (f : Fill) : (h.await f).freq = h.freq := by unfold Hart.await; split; rfl; split <;> rfl
@[simp] theorem Hart.await_streams (h : Hart) (f : Fill) : (h.await f).streams = h.streams := by unfold Hart.await; split; rfl; split <;> rfl
@[simp] theorem Hart.await_w (h : Hart) (f : Fill) : (h.await f).w = h.w := by unfold Hart.await; split; rfl; split <;> rfl
@[simp] theorem Hart.await_c (h : Hart) (f : Fill) : (h.await f).c = h.c := by unfold Hart.await; split; rfl; split <;> rfl
@[simp] theorem Hart.await_seq (h : Hart) (f : Fill) : (h.await f).seq = h.seq := by unfold Hart.await; split; rfl; split <;> rfl
@[simp] theorem Hart.await_cmds (h : Hart) (f : Fill) : (h.await f).cmds = h.cmds := by unfold Hart.await; split; rfl; split <;> rfl
@[simp] theorem Hart.await_followOns (h : Hart) (f : Fill) : (h.await f).followOns = h.followOns := by unfold Hart.await; split; rfl; split <;> rfl
@[simp] theorem Hart.await_copyReports (h : Hart) (f : Fill) : (h.await f).copyReports = h.copyReports := by unfold Hart.await; split; rfl; split <;> rfl
@[simp] theorem Hart.await_strip (h : Hart) (f : Fill) : (h.await f).strip = h.strip := by unfold Hart.await; split; rfl; split <;> rfl
@[simp] theorem Hart.await_stripCount (h : Hart) (f : Fill) : (h.await f).stripCount = h.stripCount := by unfold Hart.await; split; rfl; split <;> rfl
@[simp] theorem Hart.await_pace (h : Hart) (f : Fill) : (h.await f).pace = h.pace := by unfold Hart.await; split; rfl; split <;> rfl
@[simp] theorem Hart.await_pushes (h : Hart) (f : Fill) : (h.await f).pushes = h.pushes := by unfold Hart.await; split; rfl; split <;> rfl
@[simp] theorem Hart.await_additions (h : Hart) (f : Fill) : (h.await f).additions = h.additions := by unfold Hart.await; split; rfl; split <;> rfl
@[simp] theorem Hart.await_closing (h : Hart) (f : Fill) : (h.await f).closing = h.closing := by unfold Hart.await; split; rfl; split <;> rfl
@[simp] theorem Hart.await_elemBase (h : Hart) (f : Fill) : (h.await f).elemBase = h.elemBase := by unfold Hart.await; split; rfl; split <;> rfl
@[simp] theorem Hart.await_checkpoint (h : Hart) (f : Fill) : (h.await f).checkpoint = h.checkpoint := by unfold Hart.await; split; rfl; split <;> rfl
@[simp] theorem Hart.await_links (h : Hart) (f : Fill) : (h.await f).links = h.links := by unfold Hart.await; split; rfl; split <;> rfl
@[simp] theorem Hart.await_bindings (h : Hart) (f : Fill) : (h.await f).bindings = h.bindings := by unfold Hart.await; split; rfl; split <;> rfl
@[simp] theorem Hart.await_barriers (h : Hart) (f : Fill) : (h.await f).barriers = h.barriers := by unfold Hart.await; split; rfl; split <;> rfl
@[simp] theorem Hart.await_arrivals (h : Hart) (f : Fill) : (h.await f).arrivals = h.arrivals := by unfold Hart.await; split; rfl; split <;> rfl
@[simp] theorem Hart.await_promises (h : Hart) (f : Fill) : (h.await f).promises = h.promises := by unfold Hart.await; split; rfl; split <;> rfl
@[simp] theorem Hart.await_grant (h : Hart) (f : Fill) : (h.await f).grant = h.grant := by unfold Hart.await; split; rfl; split <;> rfl
@[simp] theorem Hart.await_trap (h : Hart) (f : Fill) : (h.await f).trap = h.trap := by unfold Hart.await; split; rfl; split <;> rfl
@[simp] theorem Hart.await_eltDone (h : Hart) (f : Fill) : (h.await f).eltDone = h.eltDone := by unfold Hart.await; split; rfl; split <;> rfl
@[simp] theorem Hart.await_eltEnd (h : Hart) (f : Fill) : (h.await f).eltEnd = h.eltEnd := by unfold Hart.await; split; rfl; split <;> rfl
@[simp] theorem Hart.await_popFault (h : Hart) (f : Fill) : (h.await f).popFault = h.popFault := by unfold Hart.await; split; rfl; split <;> rfl
@[simp] theorem Hart.await_appending (h : Hart) (f : Fill) : (h.await f).appending = h.appending := by unfold Hart.await; split; rfl; split <;> rfl
@[simp] theorem Hart.await_rowDone (h : Hart) (f : Fill) : (h.await f).rowDone = h.rowDone := by unfold Hart.await; split; rfl; split <;> rfl
@[simp] theorem Hart.await_mma (h : Hart) (f : Fill) : (h.await f).mma = h.mma := by unfold Hart.await; split; rfl; split <;> rfl
@[simp] theorem Hart.await_trapDue (h : Hart) (f : Fill) : (h.await f).trapDue = h.trapDue := by unfold Hart.await; split; rfl; split <;> rfl
@[simp] theorem Hart.await_blocks (h : Hart) (f : Fill) : (h.await f).blocks = h.blocks := by unfold Hart.await; split; rfl; split <;> rfl
@[simp] theorem Hart.await_id (h : Hart) (f : Fill) : (h.await f).id = h.id := by unfold Hart.await; split; rfl; split <;> rfl
@[simp] theorem Hart.await_link (h : Hart) (f : Fill) : (h.await f).link = h.link := by unfold Hart.await; split; rfl; split <;> rfl
@[simp] theorem Hart.await_quarter (h : Hart) (f : Fill) : (h.await f).quarter = h.quarter := by unfold Hart.await; split; rfl; split <;> rfl
@[simp] theorem Hart.await_bookVersion (h : Hart) (f : Fill) : (h.await f).bookVersion = h.bookVersion := by unfold Hart.await; split; rfl; split <;> rfl
@[simp] theorem Hart.await_gang (h : Hart) (f : Fill) : (h.await f).gang = h.gang := by unfold Hart.await; split; rfl; split <;> rfl
@[simp] theorem Hart.await_partner (h : Hart) (f : Fill) : (h.await f).partner = h.partner := by unfold Hart.await; split; rfl; split <;> rfl
@[simp] theorem Hart.await_soloNames (h : Hart) (f : Fill) : (h.await f).soloNames = h.soloNames := by unfold Hart.await; split; rfl; split <;> rfl
@[simp] theorem Hart.await_split (h : Hart) (f : Fill) : (h.await f).split = h.split := by unfold Hart.await; split; rfl; split <;> rfl
@[simp] theorem Hart.await_adv (h : Hart) (f : Fill) : (h.await f).adv = h.adv := by unfold Hart.await; split; rfl; split <;> rfl
@[simp] theorem Hart.await_nrg (h : Hart) (f : Fill) : (h.await f).nrg = h.nrg := by unfold Hart.await; split; rfl; split <;> rfl
@[simp] theorem Hart.await_cancelled (h : Hart) (f : Fill) : (h.await f).cancelled = h.cancelled := by unfold Hart.await; split; rfl; split <;> rfl
@[simp] theorem Hart.await_fenceDue (h : Hart) (f : Fill) : (h.await f).fenceDue = h.fenceDue := by unfold Hart.await; split; rfl; split <;> rfl
@[simp] theorem Hart.await_verdict (h : Hart) (f : Fill) : (h.await f).verdict = h.verdict := by unfold Hart.await; split; rfl; split <;> rfl
@[simp] theorem Hart.await_abandoned (h : Hart) (f : Fill) : (h.await f).abandoned = h.abandoned := by unfold Hart.await; split; rfl; split <;> rfl
@[simp] theorem Hart.await_vimage (h : Hart) (f : Fill) : (h.await f).vimage = h.vimage := by unfold Hart.await; split; rfl; split <;> rfl
@[simp] theorem Hart.await_zimage (h : Hart) (f : Fill) : (h.await f).zimage = h.zimage := by unfold Hart.await; split; rfl; split <;> rfl
@[simp] theorem Hart.await_zsaved (h : Hart) (f : Fill) : (h.await f).zsaved = h.zsaved := by unfold Hart.await; split; rfl; split <;> rfl

@[simp] theorem Hart.beginStrip_pc (h : Hart) (pc : Word) : (h.beginStrip pc).pc = h.pc := rfl
@[simp] theorem Hart.beginStrip_first (h : Hart) (pc : Word) : (h.beginStrip pc).first = h.first := rfl
@[simp] theorem Hart.beginStrip_x (h : Hart) (pc : Word) : (h.beginStrip pc).x = h.x := rfl
@[simp] theorem Hart.beginStrip_full (h : Hart) (pc : Word) : (h.beginStrip pc).full = h.full := rfl
@[simp] theorem Hart.beginStrip_vfull (h : Hart) (pc : Word) : (h.beginStrip pc).vfull = h.vfull := rfl
@[simp] theorem Hart.beginStrip_fills (h : Hart) (pc : Word) : (h.beginStrip pc).fills = h.fills := rfl
@[simp] theorem Hart.beginStrip_vec (h : Hart) (pc : Word) : (h.beginStrip pc).vec = h.vec := rfl
@[simp] theorem Hart.beginStrip_vl (h : Hart) (pc : Word) : (h.beginStrip pc).vl = h.vl := rfl
@[simp] theorem Hart.beginStrip_vrows (h : Hart) (pc : Word) : (h.beginStrip pc).vrows = h.vrows := rfl
@[simp] theorem Hart.beginStrip_vst (h : Hart) (pc : Word) : (h.beginStrip pc).vst = h.vst := rfl
@[simp] theorem Hart.beginStrip_vcfg (h : Hart) (pc : Word) : (h.beginStrip pc).vcfg = h.vcfg := rfl
@[simp] theorem Hart.beginStrip_names (h : Hart) (pc : Word) : (h.beginStrip pc).names = h.names := rfl
@[simp] theorem Hart.beginStrip_vlmax (h : Hart) (pc : Word) : (h.beginStrip pc).vlmax = h.vlmax := rfl
@[simp] theorem Hart.beginStrip_vlazy (h : Hart) (pc : Word) : (h.beginStrip pc).vlazy = h.vlazy := rfl
@[simp] theorem Hart.beginStrip_reloc (h : Hart) (pc : Word) : (h.beginStrip pc).reloc = h.reloc := rfl
@[simp] theorem Hart.beginStrip_shrunk (h : Hart) (pc : Word) : (h.beginStrip pc).shrunk = h.shrunk := rfl
@[simp] theorem Hart.beginStrip_md (h : Hart) (pc : Word) : (h.beginStrip pc).md = h.md := rfl
@[simp] theorem Hart.beginStrip_k (h : Hart) (pc : Word) : (h.beginStrip pc).k = h.k := rfl
@[simp] theorem Hart.beginStrip_freq (h : Hart) (pc : Word) : (h.beginStrip pc).freq = h.freq := rfl
@[simp] theorem Hart.beginStrip_streams (h : Hart) (pc : Word) : (h.beginStrip pc).streams = h.streams := rfl
@[simp] theorem Hart.beginStrip_w (h : Hart) (pc : Word) : (h.beginStrip pc).w = h.w := rfl
@[simp] theorem Hart.beginStrip_c (h : Hart) (pc : Word) : (h.beginStrip pc).c = h.c := rfl
@[simp] theorem Hart.beginStrip_seq (h : Hart) (pc : Word) : (h.beginStrip pc).seq = h.seq := rfl
@[simp] theorem Hart.beginStrip_cmds (h : Hart) (pc : Word) : (h.beginStrip pc).cmds = h.cmds := rfl
@[simp] theorem Hart.beginStrip_followOns (h : Hart) (pc : Word) : (h.beginStrip pc).followOns = h.followOns := rfl
@[simp] theorem Hart.beginStrip_copyReports (h : Hart) (pc : Word) : (h.beginStrip pc).copyReports = h.copyReports := rfl
@[simp] theorem Hart.beginStrip_strip (h : Hart) (pc : Word) : (h.beginStrip pc).strip = h.strip := rfl
@[simp] theorem Hart.beginStrip_stripCount (h : Hart) (pc : Word) : (h.beginStrip pc).stripCount = h.stripCount := rfl
@[simp] theorem Hart.beginStrip_pace (h : Hart) (pc : Word) : (h.beginStrip pc).pace = h.pace := rfl
@[simp] theorem Hart.beginStrip_pushes (h : Hart) (pc : Word) : (h.beginStrip pc).pushes = h.pushes := rfl
@[simp] theorem Hart.beginStrip_additions (h : Hart) (pc : Word) : (h.beginStrip pc).additions = h.additions := rfl
@[simp] theorem Hart.beginStrip_closing (h : Hart) (pc : Word) : (h.beginStrip pc).closing = h.closing := rfl
@[simp] theorem Hart.beginStrip_elemBase (h : Hart) (pc : Word) : (h.beginStrip pc).elemBase = h.elemBase := rfl
@[simp] theorem Hart.beginStrip_checkpoint (h : Hart) (pc : Word) : (h.beginStrip pc).checkpoint = h.snapshot pc := rfl
@[simp] theorem Hart.beginStrip_links (h : Hart) (pc : Word) : (h.beginStrip pc).links = h.links := rfl
@[simp] theorem Hart.beginStrip_bindings (h : Hart) (pc : Word) : (h.beginStrip pc).bindings = h.bindings := rfl
@[simp] theorem Hart.beginStrip_barriers (h : Hart) (pc : Word) : (h.beginStrip pc).barriers = h.barriers := rfl
@[simp] theorem Hart.beginStrip_arrivals (h : Hart) (pc : Word) : (h.beginStrip pc).arrivals = h.arrivals := rfl
@[simp] theorem Hart.beginStrip_promises (h : Hart) (pc : Word) : (h.beginStrip pc).promises = h.promises := rfl
@[simp] theorem Hart.beginStrip_grant (h : Hart) (pc : Word) : (h.beginStrip pc).grant = h.grant := rfl
@[simp] theorem Hart.beginStrip_trap (h : Hart) (pc : Word) : (h.beginStrip pc).trap = h.trap := rfl
@[simp] theorem Hart.beginStrip_eltDone (h : Hart) (pc : Word) : (h.beginStrip pc).eltDone = h.eltDone := rfl
@[simp] theorem Hart.beginStrip_eltEnd (h : Hart) (pc : Word) : (h.beginStrip pc).eltEnd = h.eltEnd := rfl
@[simp] theorem Hart.beginStrip_popFault (h : Hart) (pc : Word) : (h.beginStrip pc).popFault = h.popFault := rfl
@[simp] theorem Hart.beginStrip_appending (h : Hart) (pc : Word) : (h.beginStrip pc).appending = h.appending := rfl
@[simp] theorem Hart.beginStrip_rowDone (h : Hart) (pc : Word) : (h.beginStrip pc).rowDone = h.rowDone := rfl
@[simp] theorem Hart.beginStrip_mma (h : Hart) (pc : Word) : (h.beginStrip pc).mma = h.mma := rfl
@[simp] theorem Hart.beginStrip_trapDue (h : Hart) (pc : Word) : (h.beginStrip pc).trapDue = h.trapDue := rfl
@[simp] theorem Hart.beginStrip_blocks (h : Hart) (pc : Word) : (h.beginStrip pc).blocks = h.blocks := rfl
@[simp] theorem Hart.beginStrip_id (h : Hart) (pc : Word) : (h.beginStrip pc).id = h.id := rfl
@[simp] theorem Hart.beginStrip_link (h : Hart) (pc : Word) : (h.beginStrip pc).link = h.link := rfl
@[simp] theorem Hart.beginStrip_quarter (h : Hart) (pc : Word) : (h.beginStrip pc).quarter = h.quarter := rfl
@[simp] theorem Hart.beginStrip_bookVersion (h : Hart) (pc : Word) : (h.beginStrip pc).bookVersion = h.bookVersion := rfl
@[simp] theorem Hart.beginStrip_gang (h : Hart) (pc : Word) : (h.beginStrip pc).gang = h.gang := rfl
@[simp] theorem Hart.beginStrip_partner (h : Hart) (pc : Word) : (h.beginStrip pc).partner = h.partner := rfl
@[simp] theorem Hart.beginStrip_soloNames (h : Hart) (pc : Word) : (h.beginStrip pc).soloNames = h.soloNames := rfl
@[simp] theorem Hart.beginStrip_split (h : Hart) (pc : Word) : (h.beginStrip pc).split = h.split := rfl
@[simp] theorem Hart.beginStrip_adv (h : Hart) (pc : Word) : (h.beginStrip pc).adv = h.adv := rfl
@[simp] theorem Hart.beginStrip_nrg (h : Hart) (pc : Word) : (h.beginStrip pc).nrg = h.nrg := rfl
@[simp] theorem Hart.beginStrip_cancelled (h : Hart) (pc : Word) : (h.beginStrip pc).cancelled = h.cancelled := rfl
@[simp] theorem Hart.beginStrip_fenceDue (h : Hart) (pc : Word) : (h.beginStrip pc).fenceDue = h.fenceDue := rfl
@[simp] theorem Hart.beginStrip_verdict (h : Hart) (pc : Word) : (h.beginStrip pc).verdict = h.verdict := rfl
@[simp] theorem Hart.beginStrip_abandoned (h : Hart) (pc : Word) : (h.beginStrip pc).abandoned = h.abandoned := rfl
@[simp] theorem Hart.beginStrip_vimage (h : Hart) (pc : Word) : (h.beginStrip pc).vimage = h.vimage := rfl
@[simp] theorem Hart.beginStrip_zimage (h : Hart) (pc : Word) : (h.beginStrip pc).zimage = h.zimage := rfl
@[simp] theorem Hart.beginStrip_zsaved (h : Hart) (pc : Word) : (h.beginStrip pc).zsaved = h.zsaved := rfl

@[simp] theorem Hart.writeX_zero (h : Hart) (v : Word) : h.writeX 0 v = h := by simp [Hart.writeX]

@[simp] theorem Hart.produceX_zero (h : Hart) (v : Word) : h.produceX 0 v = h := by simp [Hart.produceX]

@[simp] theorem Hart.readX_zero (h : Hart) : h.readX 0 = 0 := by simp [Hart.readX]

/-- A scalar register reads as what was written to it. -/
theorem Hart.readX_writeX (h : Hart) (r : Reg) (v : Word) (hr : r ≠ 0) (hl : r.toNat < 48) :
    (h.writeX r v).readX r = v := by
  unfold Hart.readX Hart.writeX
  rw [if_neg hr, if_neg hr]
  simp [vget, vset, hl]

/-- A write of a scalar register leaves every other one. -/
theorem Hart.readX_writeX_ne (h : Hart) (r q : Reg) (v : Word) (hq : q ≠ r) : (h.writeX r v).readX q = h.readX q := by
  have hn : r.toNat ≠ q.toNat := fun e => hq (BitVec.eq_of_toNat_eq e.symm)
  unfold Hart.readX Hart.writeX
  split
  · rfl
  · split
    · rfl
    · simp only [vget, vset]
      by_cases hq : q.toNat < 48 <;> by_cases hr : r.toNat < 48 <;> simp [hq, hr, hn]

/-- A vector register reads as what was written to it. -/
theorem Hart.readV_writeV (h : Hart) (r : Reg) (v : Nat) (hl : r.toNat < 64) : (h.writeV r v).readV r = v := by
  simp [Hart.readV, Hart.writeV, vget, vset, hl]

/-- A write of a vector register leaves every other one. -/
theorem Hart.readV_writeV_ne (h : Hart) (r q : Reg) (v : Nat) (hq : q ≠ r) : (h.writeV r v).readV q = h.readV q := by
  have hn : r.toNat ≠ q.toNat := fun e => hq (BitVec.eq_of_toNat_eq e.symm)
  simp only [Hart.readV, Hart.writeV, vget, vset]
  by_cases hq : q.toNat < 64 <;> by_cases hr : r.toNat < 64 <;> simp [hq, hr, hn]

end Sys2Proof.Machine
end

