-- ==== Sys2Proof/Laws/Form.lean ====
section
/-!
SUPPORT. The memories of the whole machine, main memory and the typed buffers, in canonical form, and the shared
operations that keep them so, up to the taking of a trap.
-/

namespace Sys2Proof.Machine

/-- Main memory and every typed buffer are in canonical form. -/
def State.Formed (s : State) : Prop := s.dev.mem.wf = true ∧ ∀ c, (s.core c).bufW.wf = true ∧ (s.core c).bufX.wf = true

/-- The two states hold the same memories. -/
def State.SameMem (s t : State) : Prop :=
  t.dev.mem = s.dev.mem ∧ ∀ c, (t.core c).bufW = (s.core c).bufW ∧ (t.core c).bufX = (s.core c).bufX

theorem reset_formed : State.reset.Formed := by
  refine ⟨rfl, fun c => ?_⟩
  obtain ⟨c, hc⟩ := c
  match c, hc with
  | 0, _ | 1, _ | 2, _ | 3, _ => exact ⟨rfl, rfl⟩

theorem State.SameMem.refl (s : State) : s.SameMem s := ⟨rfl, fun _ => ⟨rfl, rfl⟩⟩

theorem State.SameMem.trans {s t u : State} (h : s.SameMem t) (k : t.SameMem u) : s.SameMem u :=
  ⟨k.1.trans h.1, fun c => ⟨(k.2 c).1.trans (h.2 c).1, (k.2 c).2.trans (h.2 c).2⟩⟩

theorem State.SameMem.formed {s t : State} (h : s.SameMem t) (w : s.Formed) : t.Formed :=
  ⟨by rw [h.1]; exact w.1, fun c => by rw [(h.2 c).1, (h.2 c).2]; exact w.2 c⟩

/-! ### What leaves the memories as they are -/

theorem State.sameMem_modifyCore (s : State) (c : CoreId) (f : Core → Core)
    (h : (f (s.core c)).bufW = (s.core c).bufW ∧ (f (s.core c)).bufX = (s.core c).bufX) : s.SameMem (s.modifyCore c f) := by
  refine ⟨rfl, fun d => ?_⟩
  by_cases hd : d = c
  · subst hd; rw [State.core_modifyCore]; exact h
  · rw [State.core_modifyCore_ne _ _ _ _ hd]; exact ⟨rfl, rfl⟩

theorem State.sameMem_modifyDev (s : State) (f : Device → Device) (h : (f s.dev).mem = s.dev.mem) :
    s.SameMem (s.modifyDev f) := ⟨h, fun _ => ⟨rfl, rfl⟩⟩

theorem State.sameMem_setHart (s : State) (c : CoreId) (x : CtxId) (h : Hart) : s.SameMem (s.setHart c x h) :=
  s.sameMem_modifyCore c _ (by simp)

theorem State.sameMem_setStatus (s : State) (c : CoreId) (x : CtxId) (t : Status) : s.SameMem (s.setStatus c x t) :=
  s.sameMem_modifyCore c _ (by simp)

theorem State.sameMem_modifyMe (s : State) (f : Hart → Hart) : s.SameMem (s.modifyMe f) := s.sameMem_setHart _ _ _

@[simp] theorem Device.mem_setFrame (d : Device) (i : FrameInfo) : (d.setFrame i).mem = d.mem := rfl

@[simp] theorem Device.mem_countAccess (d : Device) (pa : Nat) : (d.countAccess pa).mem = d.mem := rfl

@[simp] theorem Device.mem_clearGroup (d : Device) (pa n x : Nat) : (d.clearGroup pa n x).mem = d.mem := by
  unfold Device.clearGroup; split <;> rfl

@[simp] theorem Device.mem_queueWake (d : Device) (w : Wake) : (d.queueWake w).mem = d.mem := by
  unfold Device.queueWake; split <;> rfl

@[simp] theorem Device.mem_report (d : Device) (k : Nat) (args : List Word) : (d.report k args).mem = d.mem := by
  unfold Device.report; split
  · rfl
  · split <;> rfl

@[simp] theorem Device.mem_countEnded (d : Device) (l : LaunchLink) (n : Nat) (failed : Bool) :
    (d.countEnded l n failed).mem = d.mem := rfl

@[simp] theorem Device.mem_unselect (d : Device) : d.unselect.mem = d.mem := rfl

theorem Device.mem_foldl {α : Type} (f : Device → α → Device) (h : ∀ d a, (f d a).mem = d.mem) :
    (xs : List α) → (d : Device) → (xs.foldl f d).mem = d.mem
  | [], _ => rfl
  | x :: xs, d => (Device.mem_foldl f h xs (f d x)).trans (h d x)

@[simp] theorem Device.mem_dropPool (d : Device) (hit : LaunchLink → Bool) : (d.dropPool hit).mem = d.mem :=
  Device.mem_foldl (fun d (e : PoolEntry) => d.countEnded e.launch.link e.launch.link.harts true) (fun _ _ => rfl) _ _

theorem State.sameMem_count (s : State) (p : Place) : s.SameMem (s.count p) := by
  unfold State.count
  split
  · exact s.sameMem_modifyDev _ (by simp)
  · exact .refl s

theorem State.sameMem_markPromise (s : State) (g : Agent) (pa : Nat) : s.SameMem (s.markPromise g pa) := by
  unfold State.markPromise
  split
  · exact s.sameMem_modifyDev _ (by simp)
  · exact .refl s

theorem State.sameMem_wakeGroup (s : State) (c : CoreId) (g : Nat) : s.SameMem (s.wakeGroup c g) := by
  unfold State.wakeGroup
  split
  · exact .refl s
  · exact .refl s
  · exact s.sameMem_modifyCore c _ ⟨rfl, rfl⟩
  · exact s.sameMem_modifyCore c _ ⟨rfl, rfl⟩
  · exact (s.sameMem_modifyCore c _ ⟨rfl, rfl⟩).trans (State.sameMem_modifyDev _ _ (by simp))

theorem State.sameMem_wakeCore (s : State) (c : CoreId) : s.SameMem (s.wakeCore c) := by
  unfold State.wakeCore
  split
  · exact .refl s
  · exact .refl s
  · exact s.sameMem_modifyCore c _ ⟨rfl, rfl⟩
  · exact s.sameMem_modifyCore c _ ⟨rfl, rfl⟩
  · exact (s.sameMem_modifyCore c _ ⟨rfl, rfl⟩).trans (State.sameMem_modifyDev _ _ (by simp))

theorem State.sameMem_notifyWrite (s : State) (core n : Nat) (x : Word) : s.SameMem (s.notifyWrite core n x) := by
  unfold State.notifyWrite
  split
  · dsimp only
    split
    · exact .refl s
    · split
      · exact s.sameMem_modifyCore _ _ ⟨rfl, rfl⟩
      · exact (s.sameMem_wakeCore _).trans (State.sameMem_modifyCore _ _ _ ⟨rfl, rfl⟩)
      · exact (s.sameMem_modifyCore _ _ ⟨rfl, rfl⟩).trans (State.sameMem_wakeCore _ _)
  · exact .refl s

theorem Core.bufs_fenceLaunch (k : Core) (l : Word) :
    (k.fenceLaunch l).bufW = k.bufW ∧ (k.fenceLaunch l).bufX = k.bufX := ⟨rfl, rfl⟩

theorem State.sameMem_fenceLaunch (s : State) (l : Word) (cause : BitVec 8) : s.SameMem (s.fenceLaunch l cause) := by
  unfold State.fenceLaunch
  split
  · refine ⟨?_, fun c => ?_⟩
    · simp only [Device.mem_report, Device.mem_dropPool, Device.mem_unselect]
    · simp [State.core, Core.fenceLaunch]
  · exact .refl s

theorem State.sameMem_foldl {α : Type} (f : State → α → State) (h : ∀ s a, State.SameMem s (f s a)) :
    (xs : List α) → (s : State) → s.SameMem (xs.foldl f s)
  | [], s => .refl s
  | x :: xs, s => (h s x).trans (State.sameMem_foldl f h xs (f s x))

theorem State.sameMem_fenceCore (s : State) (c : CoreId) : s.SameMem (s.fenceCore c) := by
  unfold State.fenceCore
  split
  · exact .refl s
  · exact ((s.sameMem_modifyCore c _ ⟨rfl, rfl⟩).trans
      (State.sameMem_foldl _ (fun s l => s.sameMem_fenceLaunch l causeFenced) _ _)).trans
      (State.sameMem_modifyDev _ _ (by simp))

theorem Core.bufs_enqueue (k : Core) : k.enqueue.bufW = k.bufW ∧ k.enqueue.bufX = k.bufX := ⟨rfl, rfl⟩

theorem Core.bufs_takeFatal (k : Core) (r : Record) : (k.takeFatal r).bufW = k.bufW ∧ (k.takeFatal r).bufX = k.bufX := by
  unfold Core.takeFatal
  split
  · exact ⟨rfl, rfl⟩
  · split <;> exact ⟨rfl, rfl⟩

theorem State.sameMem_post (s : State) (c : CoreId) (r : Record) : s.SameMem (s.post c r) :=
  (s.sameMem_modifyCore c (fun k => ({ k with outside := k.outside ++ [r] } : Core).enqueue) (Core.bufs_enqueue _)).trans (State.sameMem_wakeCore _ _)

theorem State.sameMem_finishRecord (s : State) (c : CoreId) : s.SameMem (s.finishRecord c) := by
  unfold State.finishRecord
  dsimp only
  split
  · exact (s.sameMem_modifyDev _ rfl).trans (State.sameMem_modifyCore _ _ _ ⟨rfl, rfl⟩)
  · exact State.sameMem_modifyCore _ _ _ ⟨rfl, rfl⟩

theorem State.sameMem_postFatal (s : State) (c : CoreId) (r : Record) : s.SameMem (s.postFatal c r) := by
  unfold State.postFatal
  refine ((s.sameMem_finishRecord c).trans (State.sameMem_modifyCore _ c (·.takeFatal r) (Core.bufs_takeFatal _ _))).trans
    (.trans ?_ (State.sameMem_wakeCore _ _))
  split
  · exact State.sameMem_modifyDev _ _ (by simp)
  · exact State.sameMem_fenceCore _ _

theorem State.sameMem_resetAdvice (s : State) (c : CoreId) (x : CtxId) : s.SameMem (s.resetAdvice c x) := by
  unfold State.resetAdvice
  split
  · exact s.sameMem_modifyCore _ _ ⟨rfl, rfl⟩
  · exact .refl s

/-! ### What writes memory -/

theorem Core.formed_setBuffer {k : Core} {b : BufId} {m : Mem} (h : k.bufW.wf = true ∧ k.bufX.wf = true)
    (hm : m.wf = true) : (k.setBuffer b m).bufW.wf = true ∧ (k.setBuffer b m).bufX.wf = true := by
  cases b
  · exact ⟨hm, h.2⟩
  · exact ⟨h.1, hm⟩

theorem Core.formed_buffer {k : Core} (b : BufId) (h : k.bufW.wf = true ∧ k.bufX.wf = true) : (k.buffer b).wf = true := by
  cases b
  · exact h.1
  · exact h.2

theorem Core.formed_bumpBuffer {k : Core} {b : BufId} {a n : Nat} (h : k.bufW.wf = true ∧ k.bufX.wf = true) :
    (k.bumpBuffer b a n).bufW.wf = true ∧ (k.bumpBuffer b a n).bufX.wf = true := by
  cases b <;> exact h

theorem State.formed_modifyCore {s : State} (c : CoreId) (f : Core → Core) (w : s.Formed)
    (h : (f (s.core c)).bufW.wf = true ∧ (f (s.core c)).bufX.wf = true) : (s.modifyCore c f).Formed := by
  refine ⟨w.1, fun d => ?_⟩
  by_cases hd : d = c
  · subst hd; rw [State.core_modifyCore]; exact h
  · rw [State.core_modifyCore_ne _ _ _ _ hd]; exact w.2 d

theorem State.formed_modifyDev {s : State} (f : Device → Device) (w : s.Formed) (h : (f s.dev).mem.wf = true) :
    (s.modifyDev f).Formed := ⟨h, w.2⟩

theorem State.formed_foldl {α : Type} (f : State → α → State) (h : ∀ s a, State.Formed s → State.Formed (f s a)) :
    (xs : List α) → {s : State} → s.Formed → (xs.foldl f s).Formed
  | [], _, w => w
  | x :: xs, _, w => State.formed_foldl f h xs (h _ x w)

theorem State.formed_performStore {s : State} (p : Place) (n x : Nat) (w : s.Formed) : (s.performStore p n x).Formed := by
  unfold State.performStore
  split
  · split
    · exact (s.sameMem_fenceLaunch _ _).formed w
    · exact State.formed_modifyDev _ w (by rw [Device.mem_clearGroup]; exact Device.wf_store _ _ _ w.1)
  · exact State.formed_modifyCore _ _ w (Core.formed_bumpBuffer
      (Core.formed_setBuffer (w.2 _) (Mem.wf_write _ _ (Core.formed_buffer _ (w.2 _)))))
  · exact (s.sameMem_notifyWrite _ _ _).formed w
  · exact State.formed_modifyDev _ w w.1
  · exact w
  · exact w
  · exact w

theorem State.formed_clearWritten {s : State} (rs : List (Place × Nat)) (w : s.Formed) : (s.clearWritten rs).Formed := by
  unfold State.clearWritten
  exact ((s.sameMem_modifyDev _ rfl).trans (State.sameMem_modifyCore _ _ _ ⟨rfl, rfl⟩)).formed w

theorem State.formed_performMore {s : State} (wrote : List (Place × Nat)) (es : List (Place × Nat × Nat)) (w : s.Formed) :
    (s.performMore wrote es).Formed :=
  State.formed_clearWritten _ (State.formed_foldl _ (fun _ e w => State.formed_performStore e.1 e.2.1 e.2.2 w) es w)

theorem State.formed_performStores {s : State} (es : List (Place × Nat × Nat)) (w : s.Formed) :
    (s.performStores es).Formed := State.formed_performMore [] es w

theorem State.formed_putWord {s : State} (pa x : Nat) (w : s.Formed) : (s.putWord pa x).Formed :=
  State.formed_modifyDev _ w (by rw [Device.mem_clearGroup]; exact Device.wf_store _ _ _ w.1)

theorem State.formed_addUnordered {s : State} (a : ScatterAdd) (w : s.Formed) : (s.addUnordered a).Formed :=
  ⟨Device.wf_store _ _ _ w.1, w.2⟩

theorem State.formed_performScatter {s : State} (a : ScatterAdd) (free : Bool) (w : s.Formed) :
    (s.performScatter a free).Formed := by
  unfold State.performScatter
  split
  · exact (s.sameMem_fenceLaunch _ _).formed w
  · split
    · exact State.formed_addUnordered a w
    · exact State.formed_modifyDev _ w (Device.wf_store _ _ _ w.1)

theorem State.formed_performItem {s : State} (i : StripItem) (w : s.Formed) : (s.performItem i).Formed := by
  cases i with
  | stores es wrote => exact State.formed_performMore wrote es w
  | scatter a f => exact State.formed_performScatter a f w
  | push d st va n x => exact ((s.sameMem_modifyDev _ rfl).trans (State.sameMem_modifyMe _ _)).formed w
  | command t => exact (s.sameMem_modifyMe _).formed w

theorem State.formed_viewed {s : State} (w : s.Formed) : s.viewed.Formed :=
  State.formed_foldl _ (fun _ i w => State.formed_performItem i w) _ w

/-! ### Reads on their way (R304) -/

theorem State.sameMem_takeFresh (s : State) : s.SameMem s.takeFresh := .refl s

theorem State.sameMem_takeForeign (s : State) (rs : List PendingRead) : s.SameMem (s.takeForeign rs) := by
  unfold State.takeForeign
  split
  · exact .refl s
  · exact .refl s

theorem State.sameMem_performReads (s : State) : s.SameMem s.performReads :=
  (s.sameMem_modifyMe _).trans (State.sameMem_takeForeign _ _)

theorem State.sameMem_performThese (s : State) (these : PendingRead → Bool) : s.SameMem (s.performThese these) :=
  (s.sameMem_modifyMe _).trans (State.sameMem_takeForeign _ _)

theorem State.sameMem_performBefore (s : State) (rs : List PendingRead) : s.SameMem (s.performBefore rs) :=
  s.sameMem_performThese _

theorem State.sameMem_performOne (s : State) (n e : Nat) : s.SameMem (s.performOne n e) := by
  unfold State.performOne
  split
  · exact .refl s
  · split
    · exact s.sameMem_modifyMe _
    · exact (s.sameMem_modifyMe _).trans (State.sameMem_takeForeign _ _)

theorem State.sameMem_deliverFirst (s : State) : s.SameMem s.deliverFirst := by
  unfold State.deliverFirst
  split
  · exact .refl s
  · exact (s.sameMem_modifyMe _).trans (State.sameMem_takeForeign _ _)

theorem State.sameMem_stall (s : State) : s.SameMem s.stall := s.sameMem_deliverFirst

/-! ### The commit of the strip and the taking of a trap -/

theorem State.formed_commitFirst {s : State} (n : Option Nat) (w : s.Formed) : (s.commitFirst n).Formed := by
  unfold State.commitFirst
  split
  · exact w
  · dsimp only
    have w1 : ∀ b : Bool, (if b then s.performThese (·.upTo == 0) else s).Formed := by
      intro b
      cases b
      · exact w
      · exact (s.sameMem_performThese _).formed w
    split
    · exact (State.sameMem_modifyMe _ _).formed (State.formed_performMore _ _ (w1 _))
    · exact State.formed_performItem _ ((State.sameMem_modifyMe _ _).formed (w1 _))

theorem State.formed_commitItems : (n : Nat) → (pace : Option Nat) → {s : State} → s.Formed →
    (State.commitItems n pace s).Formed
  | 0, _, _, w => w
  | n + 1, pace, s, w => by
    unfold State.commitItems
    split
    · exact w
    · split
      · exact w
      · split
        · exact State.formed_commitItems n _ (State.formed_commitFirst _ w)
        · split
          · exact State.formed_commitItems n _ (State.formed_commitFirst _ w)
          · split
            · exact w
            · exact State.formed_commitFirst _ w

theorem State.formed_commitStrip {s : State} (w : s.Formed) : s.commitStrip.Formed :=
  (State.sameMem_modifyMe _ _).formed (State.formed_commitItems _ _ w)

theorem State.formed_committed {s : State} (u : Uses) (w : s.Formed) : (s.committed u).Formed := by
  unfold State.committed
  dsimp only
  split
  · exact (State.sameMem_modifyMe _ _).formed (State.formed_commitStrip (s.sameMem_performReads.formed w))
  · exact (State.sameMem_modifyMe _ _).formed (State.formed_commitStrip w)

theorem State.formed_quiesce {s : State} (w : s.Formed) : s.quiesce.Formed :=
  State.formed_commitStrip ((s.sameMem_performReads.trans (State.sameMem_modifyMe _ Hart.settle)).formed w)

theorem State.formed_enterTrap {s : State} (t : Trap) (w : s.Formed) : (s.enterTrap t).Formed := by
  have w3 := ((State.sameMem_resetAdvice _ s.cur.core s.cur.ctx).trans
    (State.sameMem_modifyMe _ fun h =>
      { h with links := [], trap := s.trapRegs t, eltDone := 0, eltEnd := none, rowDone := 0, trapDue := none })).formed w
  unfold State.enterTrap
  dsimp only
  split
  · exact ((State.sameMem_postFatal _ _ _).trans (State.sameMem_modifyCore _ _ _ ⟨rfl, rfl⟩)).formed w3
  · have w4 := ((State.sameMem_setStatus _ s.cur.core s.cur.ctx .trapped).trans
      (State.sameMem_post _ s.cur.core ⟨s.trapRegs t, .hart⟩)).formed w3
    split
    · exact (State.sameMem_fenceLaunch _ _ _).formed w4
    · exact w4

theorem State.formed_takeTrap {s : State} (t : Trap) (w : s.Formed) : (s.takeTrap t).Formed := by
  unfold State.takeTrap
  dsimp only
  split
  · exact State.formed_enterTrap t (State.formed_quiesce w)
  · exact ((State.sameMem_modifyMe _ _).trans (State.sameMem_setStatus _ _ _ _)).formed (State.formed_quiesce w)

theorem State.formed_loseStrip {s : State} (met : Word) (w : s.Formed) : (s.loseStrip met).Formed := by
  unfold State.loseStrip
  exact State.formed_takeTrap _ ((State.sameMem_modifyMe s _).formed w)

/-- The states that a stop carries are in canonical form. -/
def Stop.Formed : Stop → Prop
  | .trap _ s => s.Formed
  | .wait _ s => s.Formed
  | .stall s => s.Formed
  | .lost s => s.Formed

/-- However an instruction ends, memory is in canonical form. -/
theorem finish_formed {r : Except Stop State} {t : State} (h : finish r = .next t) (ho : ∀ s, r = .ok s → s.Formed)
    (he : ∀ e, r = .error e → e.Formed) : t.Formed := by
  match r, h with
  | .ok s, rfl => exact ho _ rfl
  | .error (.trap u s), rfl => exact State.formed_takeTrap (s := s) u (he _ rfl)
  | .error (.wait v s), rfl => exact (State.sameMem_setStatus s _ _ _).formed (he _ rfl)
  | .error (.stall s), rfl => exact he _ rfl
  | .error (.lost s), rfl => exact State.formed_loseStrip (s := s) _ (he _ rfl)

theorem State.sameMem_chargeAged (s : State) (c : CoreId) (age : Nat) (work : List (ActClass × Nat)) :
    s.SameMem (s.chargeAged c age work) := by
  unfold State.chargeAged
  split
  · exact s.sameMem_modifyCore _ _ ⟨rfl, rfl⟩
  · exact .refl s

theorem State.sameMem_handOff (s : State) (c : CoreId) : s.SameMem (s.handOff c) := s.sameMem_modifyCore _ _ ⟨rfl, rfl⟩

theorem State.sameMem_chargeOn (s : State) (c : CoreId) (work : List (ActClass × Nat)) : s.SameMem (s.chargeOn c work) :=
  (s.sameMem_chargeAged _ _ _).trans (State.sameMem_handOff _ _)

theorem State.sameMem_chargeLanes (s : State) (work : List (ActClass × Nat)) : s.SameMem (s.chargeLanes work) := by
  unfold State.chargeLanes
  split
  · exact (s.sameMem_chargeOn _ _).trans (State.sameMem_chargeOn _ _ _)
  · exact s.sameMem_chargeOn _ _

theorem State.sameMem_chargeUses (s : State) (u : Uses) : s.SameMem (s.chargeUses u) := by
  unfold State.chargeUses
  split
  · exact s.sameMem_chargeLanes _
  · exact s.sameMem_chargeOn _ _

theorem State.sameMem_complete (s : State) (u : Uses) (pc : Word) : s.SameMem (s.complete u pc) :=
  (s.sameMem_chargeUses u).trans (State.sameMem_modifyMe _ _)

/-- What a result carries is in canonical form. -/
def FormedResult : Except Stop State → Prop
  | .ok s => s.Formed
  | .error e => e.Formed

/-- The checks of an instruction end in canonical form, whether they pass or not. -/
theorem State.formed_prepare {s : State} (u : Uses) (w : s.Formed) : FormedResult (s.prepare u) := by
  have hr : ∀ c v, FormedResult (raise s c v) := fun _ _ => w
  have ha : ∀ c v, FormedResult (raiseAhead s c v) := fun _ _ => w
  have hs : s.stall.Formed := s.sameMem_stall.formed w
  unfold State.prepare
  extract_lets h
  split
  · exact hr _ _
  split
  · exact hr _ _
  split
  · exact hr _ _
  split
  · exact ha _ _
  split
  · exact ha _ _
  split
  · exact hs
  split
  · split
    · exact (s.sameMem_setHart _ _ _).formed w
    · exact w
  split
  · exact (State.sameMem_foldl _ (fun (s : State) (p : CoreId × Nat) => s.sameMem_wakeGroup p.1 p.2) _ _).formed hs
  split
  · have hb : (s.committed u).Formed := State.formed_committed u w
    split
    · exact hs
    split
    · exact hb
    · split
      · split <;> exact hb
      · exact hb
  · exact w

/-- An instruction leaves memory in canonical form if its own effect does. -/
theorem issueTo_formed {s t : State} {u : Uses} {body : State → Except Stop (State × Word)} (h : issueTo s u body = .next t)
    (w : s.Formed) (ho : ∀ s1 s2 pc, State.Formed s1 → body s1 = .ok (s2, pc) → s2.Formed)
    (he : ∀ s1 e, State.Formed s1 → body s1 = .error e → e.Formed) : t.Formed := by
  have hp := State.formed_prepare u w
  refine finish_formed h ?_ ?_
  · intro s' hs
    split at hs
    · cases hs
    · rename_i s1 h1
      split at hs
      · cases hs
      · rename_i s2 pc h2
        cases hs
        rw [h1] at hp
        exact (State.sameMem_complete _ _ _).formed (ho _ _ _ hp h2)
  · intro e hs
    split at hs
    · rename_i e' h1
      cases hs
      rw [h1] at hp
      exact hp
    · rename_i s1 h1
      split at hs
      · rename_i e' h2
        cases hs
        rw [h1] at hp
        exact he _ _ hp h2
      · cases hs

end Sys2Proof.Machine
end

