-- ==== Sys2Proof/Laws/PerInstr.lean ====
section
/-!
SUPPORT. WordForm, a statement about every instruction as syntax: what its words are (R42, R43).
-/

namespace Sys2Proof.Laws.WordForm

open Sys2Proof

/-- At most two words of 32 bits, and a trailing word stands exactly after a literal-bearing one. -/
def Fits (ws : List Nat) : Prop :=
  ws.length ≤ 2 ∧ (∀ w ∈ ws, w < 2 ^ 32) ∧ ∀ w lits, ws = w :: lits → literalBearing w = !lits.isEmpty

/-- The words of an instruction fit. -/
def Statement (i : Instr) : Prop := Fits (encodeNat i)

/-- The majors whose words may bear a literal (R42). -/
def bearers : List Nat :=
  [0x01, 0x02, 0x0C, 0x12, 0x18, 0x19, 0x20, 0x21, 0x24, 0x25, 0x26, 0x29, 0x2C, 0x2E, 0x31, 0x34, 0x35, 0x36, 0x37,
    0x38, 0x39, 0x3A, 0x3C]

theorem bit_lt (x : Bool) : bit x < 2 ^ 1 := by cases x <;> decide

theorem lt_of_bits {m n : Nat} (x : BitVec n) (h : 2 ^ n ≤ 2 ^ m) : x.toNat < 2 ^ m := Nat.lt_of_lt_of_le x.isLt h

/-- A word is literal-bearing by its major and its bits [7:6] alone. -/
theorem bears_iff {w maj k : Nat} (hm : w / 2 ^ 26 = maj) (hk : w / 2 ^ 6 % 4 = k) :
    literalBearing w = (k == 3 && bearers.contains maj) := by
  subst hm hk
  rfl

/-- A single word that bears no literal. -/
theorem ofOne {w maj k : Nat} (hw : w < 2 ^ 32) (hm : w / 2 ^ 26 = maj) (hk : w / 2 ^ 6 % 4 = k)
    (h : k ≠ 3 ∨ bearers.contains maj = false) : Fits [w] := by
  refine ⟨by simp, by simpa using hw, fun w' lits e => ?_⟩
  cases e
  rw [bears_iff hm hk]
  rcases h with h | h
  · rw [beq_false_of_ne h]
    rfl
  · rw [h, Bool.and_false]
    rfl

theorem ofNone : Fits [] := ⟨by decide, by simp, fun _ _ h => by cases h⟩

theorem wordR_spec {maj d a b k fa fb fn : Nat} (hj : maj < 2 ^ 6) (hd : d < 2 ^ 6) (ha : a < 2 ^ 6) (hb : b < 2 ^ 6)
    (hk : k < 2 ^ 2) (hfa : fa < 2 ^ 1) (hfb : fb < 2 ^ 1) (hfn : fn < 2 ^ 4) :
    wordR maj d a b k fa fb fn < 2 ^ 32 ∧ wordR maj d a b k fa fb fn / 2 ^ 26 = maj ∧
      wordR maj d a b k fa fb fn / 2 ^ 6 % 4 = k := by
  unfold wordR
  omega

theorem ofR {maj d a b k fa fb fn : Nat} (hj : maj < 2 ^ 6) (hd : d < 2 ^ 6) (ha : a < 2 ^ 6) (hb : b < 2 ^ 6)
    (hk : k < 2 ^ 2) (hfa : fa < 2 ^ 1) (hfb : fb < 2 ^ 1) (hfn : fn < 2 ^ 4)
    (h : k ≠ 3 ∨ bearers.contains maj = false) : Fits [wordR maj d a b k fa fb fn] :=
  have w := wordR_spec hj hd ha hb hk hfa hfb hfn
  ofOne w.1 w.2.1 w.2.2 h

theorem ofTwo {maj d a b k fa fb fn v : Nat} (hj : maj < 2 ^ 6) (hd : d < 2 ^ 6) (ha : a < 2 ^ 6) (hb : b < 2 ^ 6)
    (hk : k < 2 ^ 2) (hfa : fa < 2 ^ 1) (hfb : fb < 2 ^ 1) (hfn : fn < 2 ^ 4)
    (h : (k == 3 && bearers.contains maj) = true) (hv : v < 2 ^ 32) : Fits [wordR maj d a b k fa fb fn, v] := by
  have w := wordR_spec hj hd ha hb hk hfa hfb hfn
  refine ⟨by simp, by simpa using ⟨w.1, hv⟩, fun w' lits e => ?_⟩
  cases e
  rw [bears_iff w.2.1 w.2.2, h]
  rfl

theorem ofS {maj d a fa fn : Nat} (b : Src) (hj : maj < 2 ^ 6 ∧ bearers.contains maj = true) (hd : d < 2 ^ 6)
    (ha : a < 2 ^ 6) (hfa : fa < 2 ^ 1) (hfn : fn < 2 ^ 4) : Fits (wordS maj d a b fa fn) := by
  cases b with
  | reg r f => exact ofR (k := 0) hj.1 hd ha r.isLt (by decide) hfa (bit_lt f) hfn (.inl (by decide))
  | scalar r f => exact ofR (k := 1) hj.1 hd ha r.isLt (by decide) hfa (bit_lt f) hfn (.inl (by decide))
  | const n => exact ofR (k := 2) (fb := 0) hj.1 hd ha n.isLt (by decide) hfa (by decide) hfn (.inl (by decide))
  | lit w =>
    exact ofTwo hj.1 hd ha (by decide : 0 < 2 ^ 6) (by decide : 3 < 2 ^ 2) hfa (by decide : 0 < 2 ^ 1) hfn
      (by rw [hj.2]; rfl) w.isLt

theorem ofM {maj d a off fa fb fn : Nat} (hj : maj < 2 ^ 6) (hd : d < 2 ^ 6) (ha : a < 2 ^ 6) (ho : off < 2 ^ 8)
    (hfa : fa < 2 ^ 1) (hfb : fb < 2 ^ 1) (hfn : fn < 2 ^ 4) (h : bearers.contains maj = false) :
    Fits [wordM maj d a off fa fb fn] :=
  ofOne (maj := maj) (by unfold wordM; omega) (by unfold wordM; omega) rfl (.inr h)

theorem ofI {maj d a imm : Nat} (hj : maj < 2 ^ 6) (hd : d < 2 ^ 6) (ha : a < 2 ^ 6) (hi : imm < 2 ^ 14)
    (h : bearers.contains maj = false) : Fits [wordI maj d a imm] :=
  ofOne (maj := maj) (by unfold wordI; omega) (by unfold wordI; omega) rfl (.inr h)

theorem ofIA {maj d imm : Nat} (hj : maj < 2 ^ 6) (hd : d < 2 ^ 6) (hi : imm < 2 ^ 20)
    (h : bearers.contains maj = false) : Fits [wordIA maj d imm] :=
  ofOne (maj := maj) (by unfold wordIA; omega) (by unfold wordIA; omega) rfl (.inr h)

theorem ofB {maj a cond off : Nat} (hj : maj < 2 ^ 6) (ha : a < 2 ^ 6) (hc : cond < 2 ^ 3) (ho : off < 2 ^ 17)
    (h : bearers.contains maj = false) : Fits [wordB maj a cond off] :=
  ofOne (maj := maj) (by unfold wordB; omega) (by unfold wordB; omega) rfl (.inr h)

theorem ofStrip {maj cnt asel off : Nat} (hj : maj < 2 ^ 6) (hc : cnt < 2 ^ 6) (ha : asel < 2 ^ 4) (ho : off < 2 ^ 16)
    (h : bearers.contains maj = false) : Fits [wordStrip maj cnt asel off] :=
  ofOne (maj := maj) (by unfold wordStrip; omega) (by unfold wordStrip; omega) rfl (.inr h)

/-! ### Every constructor -/

theorem add (d a : Reg) (b : Src) (fa : Bool) : Statement (.add d a b fa) :=
  ofS b (by decide) d.isLt a.isLt (bit_lt fa) (by decide)
theorem sub (d a : Reg) (b : Src) (fa : Bool) : Statement (.sub d a b fa) :=
  ofS b (by decide) d.isLt a.isLt (bit_lt fa) (by decide)
theorem mul (d a : Reg) (b : Src) (fa : Bool) : Statement (.mul d a b fa) :=
  ofS b (by decide) d.isLt a.isLt (bit_lt fa) (by decide)
theorem mulhs (d a : Reg) (b : Src) (fa : Bool) : Statement (.mulhs d a b fa) :=
  ofS b (by decide) d.isLt a.isLt (bit_lt fa) (by decide)
theorem mulhu (d a : Reg) (b : Src) (fa : Bool) : Statement (.mulhu d a b fa) :=
  ofS b (by decide) d.isLt a.isLt (bit_lt fa) (by decide)
theorem divs (d a : Reg) (b : Src) (fa : Bool) : Statement (.divs d a b fa) :=
  ofS b (by decide) d.isLt a.isLt (bit_lt fa) (by decide)
theorem divu (d a : Reg) (b : Src) (fa : Bool) : Statement (.divu d a b fa) :=
  ofS b (by decide) d.isLt a.isLt (bit_lt fa) (by decide)
theorem rems (d a : Reg) (b : Src) (fa : Bool) : Statement (.rems d a b fa) :=
  ofS b (by decide) d.isLt a.isLt (bit_lt fa) (by decide)
theorem remu (d a : Reg) (b : Src) (fa : Bool) : Statement (.remu d a b fa) :=
  ofS b (by decide) d.isLt a.isLt (bit_lt fa) (by decide)
theorem and (d a : Reg) (b : Src) (fa : Bool) : Statement (.and d a b fa) :=
  ofS b (by decide) d.isLt a.isLt (bit_lt fa) (by decide)
theorem or (d a : Reg) (b : Src) (fa : Bool) : Statement (.or d a b fa) :=
  ofS b (by decide) d.isLt a.isLt (bit_lt fa) (by decide)
theorem xor (d a : Reg) (b : Src) (fa : Bool) : Statement (.xor d a b fa) :=
  ofS b (by decide) d.isLt a.isLt (bit_lt fa) (by decide)
theorem andn (d a : Reg) (b : Src) (fa : Bool) : Statement (.andn d a b fa) :=
  ofS b (by decide) d.isLt a.isLt (bit_lt fa) (by decide)
theorem shl (d a : Reg) (b : Src) (fa : Bool) : Statement (.shl d a b fa) :=
  ofS b (by decide) d.isLt a.isLt (bit_lt fa) (by decide)
theorem shr (d a : Reg) (b : Src) (fa : Bool) : Statement (.shr d a b fa) :=
  ofS b (by decide) d.isLt a.isLt (bit_lt fa) (by decide)
theorem sra (d a : Reg) (b : Src) (fa : Bool) : Statement (.sra d a b fa) :=
  ofS b (by decide) d.isLt a.isLt (bit_lt fa) (by decide)
theorem rotl (d a : Reg) (b : Src) (fa : Bool) : Statement (.rotl d a b fa) :=
  ofS b (by decide) d.isLt a.isLt (bit_lt fa) (by decide)
theorem clz (d a : Reg) (fa : Bool) : Statement (.clz d a fa) :=
  ofR (by decide) d.isLt a.isLt (by decide) (by decide) (bit_lt fa) (by decide) (by decide) (.inl (by decide))
theorem ctz (d a : Reg) (fa : Bool) : Statement (.ctz d a fa) :=
  ofR (by decide) d.isLt a.isLt (by decide) (by decide) (bit_lt fa) (by decide) (by decide) (.inl (by decide))
theorem popc (d a : Reg) (fa : Bool) : Statement (.popc d a fa) :=
  ofR (by decide) d.isLt a.isLt (by decide) (by decide) (bit_lt fa) (by decide) (by decide) (.inl (by decide))
theorem mins (d a : Reg) (b : Src) (fa : Bool) : Statement (.mins d a b fa) :=
  ofS b (by decide) d.isLt a.isLt (bit_lt fa) (by decide)
theorem maxs (d a : Reg) (b : Src) (fa : Bool) : Statement (.maxs d a b fa) :=
  ofS b (by decide) d.isLt a.isLt (bit_lt fa) (by decide)
theorem minu (d a : Reg) (b : Src) (fa : Bool) : Statement (.minu d a b fa) :=
  ofS b (by decide) d.isLt a.isLt (bit_lt fa) (by decide)
theorem maxu (d a : Reg) (b : Src) (fa : Bool) : Statement (.maxu d a b fa) :=
  ofS b (by decide) d.isLt a.isLt (bit_lt fa) (by decide)
theorem slt (d a : Reg) (b : Src) (fa : Bool) : Statement (.slt d a b fa) :=
  ofS b (by decide) d.isLt a.isLt (bit_lt fa) (by decide)
theorem sltu (d a : Reg) (b : Src) (fa : Bool) : Statement (.sltu d a b fa) :=
  ofS b (by decide) d.isLt a.isLt (bit_lt fa) (by decide)
theorem seq (d a : Reg) (b : Src) (fa : Bool) : Statement (.seq d a b fa) :=
  ofS b (by decide) d.isLt a.isLt (bit_lt fa) (by decide)
theorem cmov (d a : Reg) (b : Src) (fa : Bool) : Statement (.cmov d a b fa) :=
  ofS b (by decide) d.isLt a.isLt (bit_lt fa) (by decide)
theorem exts (d a : Reg) (b : Src) (fa : Bool) : Statement (.exts d a b fa) :=
  ofS b (by decide) d.isLt a.isLt (bit_lt fa) (by decide)
theorem addi (d a : Reg) (imm : BitVec 14) : Statement (.addi d a imm) :=
  ofI (by decide) d.isLt a.isLt imm.isLt (by decide)
theorem li (d : Reg) (imm : BitVec 20) : Statement (.li d imm) := ofIA (by decide) d.isLt imm.isLt (by decide)
theorem fli (d : Reg) (imm : BitVec 20) : Statement (.fli d imm) := ofIA (by decide) d.isLt imm.isLt (by decide)
theorem lc (d n : Reg) : Statement (.lc d n) :=
  ofI (by decide) d.isLt (by decide) (lt_of_bits n (by decide)) (by decide)
theorem fadd (d a : Reg) (b : Src) (fa : Bool) : Statement (.fadd d a b fa) :=
  ofS b (by decide) d.isLt a.isLt (bit_lt fa) (by decide)
theorem fsub (d a : Reg) (b : Src) (fa : Bool) : Statement (.fsub d a b fa) :=
  ofS b (by decide) d.isLt a.isLt (bit_lt fa) (by decide)
theorem fmul (d a : Reg) (b : Src) (fa : Bool) : Statement (.fmul d a b fa) :=
  ofS b (by decide) d.isLt a.isLt (bit_lt fa) (by decide)
theorem fdiv (d a : Reg) (b : Src) (fa : Bool) : Statement (.fdiv d a b fa) :=
  ofS b (by decide) d.isLt a.isLt (bit_lt fa) (by decide)
theorem fsqrt (d a : Reg) (fa : Bool) : Statement (.fsqrt d a fa) :=
  ofR (by decide) d.isLt a.isLt (by decide) (by decide) (bit_lt fa) (by decide) (by decide) (.inl (by decide))
theorem fmin (d a : Reg) (b : Src) (fa : Bool) : Statement (.fmin d a b fa) :=
  ofS b (by decide) d.isLt a.isLt (bit_lt fa) (by decide)
theorem fmax (d a : Reg) (b : Src) (fa : Bool) : Statement (.fmax d a b fa) :=
  ofS b (by decide) d.isLt a.isLt (bit_lt fa) (by decide)
theorem ffma (d a : Reg) (b : Src) (fa : Bool) : Statement (.ffma d a b fa) :=
  ofS b (by decide) d.isLt a.isLt (bit_lt fa) (by decide)
theorem feq (d a : Reg) (b : Src) (fa : Bool) : Statement (.feq d a b fa) :=
  ofS b (by decide) d.isLt a.isLt (bit_lt fa) (by decide)
theorem flt (d a : Reg) (b : Src) (fa : Bool) : Statement (.flt d a b fa) :=
  ofS b (by decide) d.isLt a.isLt (bit_lt fa) (by decide)
theorem fle (d a : Reg) (b : Src) (fa : Bool) : Statement (.fle d a b fa) :=
  ofS b (by decide) d.isLt a.isLt (bit_lt fa) (by decide)
theorem fcvtif (d a : Reg) (fa : Bool) : Statement (.fcvtif d a fa) :=
  ofR (by decide) d.isLt a.isLt (by decide) (by decide) (bit_lt fa) (by decide) (by decide) (.inl (by decide))
theorem fcvtfi (d a : Reg) (fa : Bool) : Statement (.fcvtfi d a fa) :=
  ofR (by decide) d.isLt a.isLt (by decide) (by decide) (bit_lt fa) (by decide) (by decide) (.inl (by decide))
theorem fsgnj (d a : Reg) (b : Src) (fa : Bool) : Statement (.fsgnj d a b fa) :=
  ofS b (by decide) d.isLt a.isLt (bit_lt fa) (by decide)
theorem fclass (d a : Reg) (fa : Bool) : Statement (.fclass d a fa) :=
  ofR (by decide) d.isLt a.isLt (by decide) (by decide) (bit_lt fa) (by decide) (by decide) (.inl (by decide))
theorem br (a : Reg) (cond : BitVec 3) (off : BitVec 17) : Statement (.br a cond off) :=
  ofB (by decide) a.isLt cond.isLt off.isLt (by decide)
theorem jal (d : Reg) (imm : BitVec 20) : Statement (.jal d imm) := ofIA (by decide) d.isLt imm.isLt (by decide)
theorem jr (d a : Reg) (fa : Bool) : Statement (.jr d a fa) :=
  ofR (by decide) d.isLt a.isLt (by decide) (by decide) (bit_lt fa) (by decide) (by decide) (.inl (by decide))
theorem jtab (d a b : Reg) (fa fb : Bool) : Statement (.jtab d a b fa fb) :=
  ofR (by decide) d.isLt a.isLt b.isLt (by decide) (bit_lt fa) (bit_lt fb) (by decide) (.inl (by decide))
theorem mark (imm : BitVec 20) : Statement (.mark imm) := ofIA (by decide) (by decide) imm.isLt (by decide)
theorem strip (cnt : Reg) (asel : BitVec 4) (off : BitVec 16) : Statement (.strip cnt asel off) :=
  ofStrip (by decide) cnt.isLt asel.isLt off.isLt (by decide)
theorem ldb (d a : Reg) (off : BitVec 8) (fa : Bool) : Statement (.ldb d a off fa) :=
  ofM (by decide) d.isLt a.isLt off.isLt (bit_lt fa) (by decide) (by decide) (by decide)
theorem ldh (d a : Reg) (off : BitVec 8) (fa : Bool) : Statement (.ldh d a off fa) :=
  ofM (by decide) d.isLt a.isLt off.isLt (bit_lt fa) (by decide) (by decide) (by decide)
theorem ldw (d a : Reg) (off : BitVec 8) (fa : Bool) : Statement (.ldw d a off fa) :=
  ofM (by decide) d.isLt a.isLt off.isLt (bit_lt fa) (by decide) (by decide) (by decide)
theorem ldd (d a : Reg) (off : BitVec 8) (fa : Bool) : Statement (.ldd d a off fa) :=
  ofM (by decide) d.isLt a.isLt off.isLt (bit_lt fa) (by decide) (by decide) (by decide)
theorem ldbs (d a : Reg) (off : BitVec 8) (fa : Bool) : Statement (.ldbs d a off fa) :=
  ofM (by decide) d.isLt a.isLt off.isLt (bit_lt fa) (by decide) (by decide) (by decide)
theorem ldhs (d a : Reg) (off : BitVec 8) (fa : Bool) : Statement (.ldhs d a off fa) :=
  ofM (by decide) d.isLt a.isLt off.isLt (bit_lt fa) (by decide) (by decide) (by decide)
theorem ldws (d a : Reg) (off : BitVec 8) (fa : Bool) : Statement (.ldws d a off fa) :=
  ofM (by decide) d.isLt a.isLt off.isLt (bit_lt fa) (by decide) (by decide) (by decide)
theorem stb (d a : Reg) (off : BitVec 8) (fa fb : Bool) : Statement (.stb d a off fa fb) :=
  ofM (by decide) d.isLt a.isLt off.isLt (bit_lt fa) (bit_lt fb) (by decide) (by decide)
theorem sth (d a : Reg) (off : BitVec 8) (fa fb : Bool) : Statement (.sth d a off fa fb) :=
  ofM (by decide) d.isLt a.isLt off.isLt (bit_lt fa) (bit_lt fb) (by decide) (by decide)
theorem stw (d a : Reg) (off : BitVec 8) (fa fb : Bool) : Statement (.stw d a off fa fb) :=
  ofM (by decide) d.isLt a.isLt off.isLt (bit_lt fa) (bit_lt fb) (by decide) (by decide)
theorem std (d a : Reg) (off : BitVec 8) (fa fb : Bool) : Statement (.std d a off fa fb) :=
  ofM (by decide) d.isLt a.isLt off.isLt (bit_lt fa) (bit_lt fb) (by decide) (by decide)
theorem amoadd (d a b : Reg) (ord : BitVec 2) (fa fb : Bool) : Statement (.amoadd d a b ord fa fb) :=
  ofR (by decide) d.isLt a.isLt b.isLt ord.isLt (bit_lt fa) (bit_lt fb) (by decide) (.inr (by decide))
theorem amoand (d a b : Reg) (ord : BitVec 2) (fa fb : Bool) : Statement (.amoand d a b ord fa fb) :=
  ofR (by decide) d.isLt a.isLt b.isLt ord.isLt (bit_lt fa) (bit_lt fb) (by decide) (.inr (by decide))
theorem amoor (d a b : Reg) (ord : BitVec 2) (fa fb : Bool) : Statement (.amoor d a b ord fa fb) :=
  ofR (by decide) d.isLt a.isLt b.isLt ord.isLt (bit_lt fa) (bit_lt fb) (by decide) (.inr (by decide))
theorem amoxor (d a b : Reg) (ord : BitVec 2) (fa fb : Bool) : Statement (.amoxor d a b ord fa fb) :=
  ofR (by decide) d.isLt a.isLt b.isLt ord.isLt (bit_lt fa) (bit_lt fb) (by decide) (.inr (by decide))
theorem amomins (d a b : Reg) (ord : BitVec 2) (fa fb : Bool) : Statement (.amomins d a b ord fa fb) :=
  ofR (by decide) d.isLt a.isLt b.isLt ord.isLt (bit_lt fa) (bit_lt fb) (by decide) (.inr (by decide))
theorem amomaxs (d a b : Reg) (ord : BitVec 2) (fa fb : Bool) : Statement (.amomaxs d a b ord fa fb) :=
  ofR (by decide) d.isLt a.isLt b.isLt ord.isLt (bit_lt fa) (bit_lt fb) (by decide) (.inr (by decide))
theorem amominu (d a b : Reg) (ord : BitVec 2) (fa fb : Bool) : Statement (.amominu d a b ord fa fb) :=
  ofR (by decide) d.isLt a.isLt b.isLt ord.isLt (bit_lt fa) (bit_lt fb) (by decide) (.inr (by decide))
theorem amomaxu (d a b : Reg) (ord : BitVec 2) (fa fb : Bool) : Statement (.amomaxu d a b ord fa fb) :=
  ofR (by decide) d.isLt a.isLt b.isLt ord.isLt (bit_lt fa) (bit_lt fb) (by decide) (.inr (by decide))
theorem amoswap (d a b : Reg) (ord : BitVec 2) (fa fb : Bool) : Statement (.amoswap d a b ord fa fb) :=
  ofR (by decide) d.isLt a.isLt b.isLt ord.isLt (bit_lt fa) (bit_lt fb) (by decide) (.inr (by decide))
theorem amocas (d a b : Reg) (ord : BitVec 2) (fa fb : Bool) : Statement (.amocas d a b ord fa fb) :=
  ofR (by decide) d.isLt a.isLt b.isLt ord.isLt (bit_lt fa) (bit_lt fb) (by decide) (.inr (by decide))
theorem amofadd (d a b : Reg) (ord : BitVec 2) (fa fb : Bool) : Statement (.amofadd d a b ord fa fb) :=
  ofR (by decide) d.isLt a.isLt b.isLt ord.isLt (bit_lt fa) (bit_lt fb) (by decide) (.inr (by decide))
theorem vadd (d a : Reg) (b : Src) (fa : Bool) : Statement (.vadd d a b fa) :=
  ofS b (by decide) d.isLt a.isLt (bit_lt fa) (by decide)
theorem vsub (d a : Reg) (b : Src) (fa : Bool) : Statement (.vsub d a b fa) :=
  ofS b (by decide) d.isLt a.isLt (bit_lt fa) (by decide)
theorem vmul (d a : Reg) (b : Src) (fa : Bool) : Statement (.vmul d a b fa) :=
  ofS b (by decide) d.isLt a.isLt (bit_lt fa) (by decide)
theorem vmulhs (d a : Reg) (b : Src) (fa : Bool) : Statement (.vmulhs d a b fa) :=
  ofS b (by decide) d.isLt a.isLt (bit_lt fa) (by decide)
theorem vmulhu (d a : Reg) (b : Src) (fa : Bool) : Statement (.vmulhu d a b fa) :=
  ofS b (by decide) d.isLt a.isLt (bit_lt fa) (by decide)
theorem vmadd (d a : Reg) (b : Src) (fa : Bool) : Statement (.vmadd d a b fa) :=
  ofS b (by decide) d.isLt a.isLt (bit_lt fa) (by decide)
theorem vand (d a : Reg) (b : Src) (fa : Bool) : Statement (.vand d a b fa) :=
  ofS b (by decide) d.isLt a.isLt (bit_lt fa) (by decide)
theorem vor (d a : Reg) (b : Src) (fa : Bool) : Statement (.vor d a b fa) :=
  ofS b (by decide) d.isLt a.isLt (bit_lt fa) (by decide)
theorem vxor (d a : Reg) (b : Src) (fa : Bool) : Statement (.vxor d a b fa) :=
  ofS b (by decide) d.isLt a.isLt (bit_lt fa) (by decide)
theorem vshl (d a : Reg) (b : Src) (fa : Bool) : Statement (.vshl d a b fa) :=
  ofS b (by decide) d.isLt a.isLt (bit_lt fa) (by decide)
theorem vshr (d a : Reg) (b : Src) (fa : Bool) : Statement (.vshr d a b fa) :=
  ofS b (by decide) d.isLt a.isLt (bit_lt fa) (by decide)
theorem vsra (d a : Reg) (b : Src) (fa : Bool) : Statement (.vsra d a b fa) :=
  ofS b (by decide) d.isLt a.isLt (bit_lt fa) (by decide)
theorem vmins (d a : Reg) (b : Src) (fa : Bool) : Statement (.vmins d a b fa) :=
  ofS b (by decide) d.isLt a.isLt (bit_lt fa) (by decide)
theorem vmaxs (d a : Reg) (b : Src) (fa : Bool) : Statement (.vmaxs d a b fa) :=
  ofS b (by decide) d.isLt a.isLt (bit_lt fa) (by decide)
theorem vminu (d a : Reg) (b : Src) (fa : Bool) : Statement (.vminu d a b fa) :=
  ofS b (by decide) d.isLt a.isLt (bit_lt fa) (by decide)
theorem vmaxu (d a : Reg) (b : Src) (fa : Bool) : Statement (.vmaxu d a b fa) :=
  ofS b (by decide) d.isLt a.isLt (bit_lt fa) (by decide)
theorem vadc (d a : Reg) (b : Src) (fa : Bool) : Statement (.vadc d a b fa) :=
  ofS b (by decide) d.isLt a.isLt (bit_lt fa) (by decide)
theorem vsbc (d a : Reg) (b : Src) (fa : Bool) : Statement (.vsbc d a b fa) :=
  ofS b (by decide) d.isLt a.isLt (bit_lt fa) (by decide)
theorem vcmpeq (d a : Reg) (b : Src) (fa : Bool) : Statement (.vcmpeq d a b fa) :=
  ofS b (by decide) d.isLt a.isLt (bit_lt fa) (by decide)
theorem vcmplt (d a : Reg) (b : Src) (fa : Bool) : Statement (.vcmplt d a b fa) :=
  ofS b (by decide) d.isLt a.isLt (bit_lt fa) (by decide)
theorem vcmpltu (d a : Reg) (b : Src) (fa : Bool) : Statement (.vcmpltu d a b fa) :=
  ofS b (by decide) d.isLt a.isLt (bit_lt fa) (by decide)
theorem vcmple (d a : Reg) (b : Src) (fa : Bool) : Statement (.vcmple d a b fa) :=
  ofS b (by decide) d.isLt a.isLt (bit_lt fa) (by decide)
theorem vcmpleu (d a : Reg) (b : Src) (fa : Bool) : Statement (.vcmpleu d a b fa) :=
  ofS b (by decide) d.isLt a.isLt (bit_lt fa) (by decide)
theorem vmerge (d a : Reg) (b : Src) (fa : Bool) : Statement (.vmerge d a b fa) :=
  ofS b (by decide) d.isLt a.isLt (bit_lt fa) (by decide)
theorem vabs (d a : Reg) (fa : Bool) : Statement (.vabs d a fa) :=
  ofR (by decide) d.isLt a.isLt (by decide) (by decide) (bit_lt fa) (by decide) (by decide) (.inl (by decide))
theorem vclz (d a : Reg) (fa : Bool) : Statement (.vclz d a fa) :=
  ofR (by decide) d.isLt a.isLt (by decide) (by decide) (bit_lt fa) (by decide) (by decide) (.inl (by decide))
theorem vpopc (d a : Reg) (fa : Bool) : Statement (.vpopc d a fa) :=
  ofR (by decide) d.isLt a.isLt (by decide) (by decide) (bit_lt fa) (by decide) (by decide) (.inl (by decide))
theorem vnarrow (d a : Reg) (b : Src) (fa : Bool) : Statement (.vnarrow d a b fa) :=
  ofS b (by decide) d.isLt a.isLt (bit_lt fa) (by decide)
theorem vwidens (d a : Reg) (fa : Bool) : Statement (.vwidens d a fa) :=
  ofR (by decide) d.isLt a.isLt (by decide) (by decide) (bit_lt fa) (by decide) (by decide) (.inl (by decide))
theorem vwidenu (d a : Reg) (fa : Bool) : Statement (.vwidenu d a fa) :=
  ofR (by decide) d.isLt a.isLt (by decide) (by decide) (bit_lt fa) (by decide) (by decide) (.inl (by decide))
theorem vfadd (d a : Reg) (b : Src) (fa : Bool) : Statement (.vfadd d a b fa) :=
  ofS b (by decide) d.isLt a.isLt (bit_lt fa) (by decide)
theorem vfsub (d a : Reg) (b : Src) (fa : Bool) : Statement (.vfsub d a b fa) :=
  ofS b (by decide) d.isLt a.isLt (bit_lt fa) (by decide)
theorem vfmul (d a : Reg) (b : Src) (fa : Bool) : Statement (.vfmul d a b fa) :=
  ofS b (by decide) d.isLt a.isLt (bit_lt fa) (by decide)
theorem vfdiv (d a : Reg) (b : Src) (fa : Bool) : Statement (.vfdiv d a b fa) :=
  ofS b (by decide) d.isLt a.isLt (bit_lt fa) (by decide)
theorem vfsqrt (d a : Reg) (fa : Bool) : Statement (.vfsqrt d a fa) :=
  ofR (by decide) d.isLt a.isLt (by decide) (by decide) (bit_lt fa) (by decide) (by decide) (.inl (by decide))
theorem vfmin (d a : Reg) (b : Src) (fa : Bool) : Statement (.vfmin d a b fa) :=
  ofS b (by decide) d.isLt a.isLt (bit_lt fa) (by decide)
theorem vfmax (d a : Reg) (b : Src) (fa : Bool) : Statement (.vfmax d a b fa) :=
  ofS b (by decide) d.isLt a.isLt (bit_lt fa) (by decide)
theorem vffma (d a : Reg) (b : Src) (fa : Bool) : Statement (.vffma d a b fa) :=
  ofS b (by decide) d.isLt a.isLt (bit_lt fa) (by decide)
theorem vffms (d a : Reg) (b : Src) (fa : Bool) : Statement (.vffms d a b fa) :=
  ofS b (by decide) d.isLt a.isLt (bit_lt fa) (by decide)
theorem vfcmpeq (d a : Reg) (b : Src) (fa : Bool) : Statement (.vfcmpeq d a b fa) :=
  ofS b (by decide) d.isLt a.isLt (bit_lt fa) (by decide)
theorem vfcmplt (d a : Reg) (b : Src) (fa : Bool) : Statement (.vfcmplt d a b fa) :=
  ofS b (by decide) d.isLt a.isLt (bit_lt fa) (by decide)
theorem vfcmple (d a : Reg) (b : Src) (fa : Bool) : Statement (.vfcmple d a b fa) :=
  ofS b (by decide) d.isLt a.isLt (bit_lt fa) (by decide)
theorem vfabs (d a : Reg) (fa : Bool) : Statement (.vfabs d a fa) :=
  ofR (by decide) d.isLt a.isLt (by decide) (by decide) (bit_lt fa) (by decide) (by decide) (.inl (by decide))
theorem vfneg (d a : Reg) (fa : Bool) : Statement (.vfneg d a fa) :=
  ofR (by decide) d.isLt a.isLt (by decide) (by decide) (bit_lt fa) (by decide) (by decide) (.inl (by decide))
theorem vfclass (d a : Reg) (fa : Bool) : Statement (.vfclass d a fa) :=
  ofR (by decide) d.isLt a.isLt (by decide) (by decide) (bit_lt fa) (by decide) (by decide) (.inl (by decide))
theorem vfcvt (d a : Reg) (fd fs : BitVec 3) (fa : Bool) : Statement (.vfcvt d a fd fs fa) :=
  ofR (by decide) d.isLt a.isLt (by have := fd.isLt; have := fs.isLt; omega) (by decide) (bit_lt fa) (by decide) (by decide) (.inl (by decide))
theorem vcvtif (d a : Reg) (fd fs : BitVec 3) (fa : Bool) : Statement (.vcvtif d a fd fs fa) :=
  ofR (by decide) d.isLt a.isLt (by have := fd.isLt; have := fs.isLt; omega) (by decide) (bit_lt fa) (by decide) (by decide) (.inl (by decide))
theorem vcvtfi (d a : Reg) (fd fs : BitVec 3) (fa : Bool) : Statement (.vcvtfi d a fd fs fa) :=
  ofR (by decide) d.isLt a.isLt (by have := fd.isLt; have := fs.isLt; omega) (by decide) (bit_lt fa) (by decide) (by decide) (.inl (by decide))
theorem vquant (d a b : Reg) (fa fb : Bool) : Statement (.vquant d a b fa fb) :=
  ofR (by decide) d.isLt a.isLt b.isLt (by decide) (bit_lt fa) (bit_lt fb) (by decide) (.inl (by decide))
theorem vdequant (d a b : Reg) (fa fb : Bool) : Statement (.vdequant d a b fa fb) :=
  ofR (by decide) d.isLt a.isLt b.isLt (by decide) (bit_lt fa) (bit_lt fb) (by decide) (.inl (by decide))
theorem vamax (a b : Reg) (fa : Bool) : Statement (.vamax a b fa) :=
  ofR (by decide) (by decide) a.isLt b.isLt (by decide) (bit_lt fa) (by decide) (by decide) (.inl (by decide))
theorem amscl (d a b : Reg) : Statement (.amscl d a b) :=
  ofR (by decide) d.isLt a.isLt b.isLt (by decide) (by decide) (by decide) (by decide) (.inl (by decide))
theorem vredsum (d a : Reg) (b : Src) (fa : Bool) : Statement (.vredsum d a b fa) :=
  ofS b (by decide) d.isLt a.isLt (bit_lt fa) (by decide)
theorem vredfsum (d a : Reg) (b : Src) (fa : Bool) : Statement (.vredfsum d a b fa) :=
  ofS b (by decide) d.isLt a.isLt (bit_lt fa) (by decide)
theorem vredmax (d a : Reg) (b : Src) (fa : Bool) : Statement (.vredmax d a b fa) :=
  ofS b (by decide) d.isLt a.isLt (bit_lt fa) (by decide)
theorem vredmin (d a : Reg) (b : Src) (fa : Bool) : Statement (.vredmin d a b fa) :=
  ofS b (by decide) d.isLt a.isLt (bit_lt fa) (by decide)
theorem vredfmax (d a : Reg) (b : Src) (fa : Bool) : Statement (.vredfmax d a b fa) :=
  ofS b (by decide) d.isLt a.isLt (bit_lt fa) (by decide)
theorem vredfmin (d a : Reg) (b : Src) (fa : Bool) : Statement (.vredfmin d a b fa) :=
  ofS b (by decide) d.isLt a.isLt (bit_lt fa) (by decide)
theorem vredand (d a : Reg) (b : Src) (fa : Bool) : Statement (.vredand d a b fa) :=
  ofS b (by decide) d.isLt a.isLt (bit_lt fa) (by decide)
theorem vredor (d a : Reg) (b : Src) (fa : Bool) : Statement (.vredor d a b fa) :=
  ofS b (by decide) d.isLt a.isLt (bit_lt fa) (by decide)
theorem vslideup (d a : Reg) (b : Src) (fa : Bool) : Statement (.vslideup d a b fa) :=
  ofS b (by decide) d.isLt a.isLt (bit_lt fa) (by decide)
theorem vslidedn (d a : Reg) (b : Src) (fa : Bool) : Statement (.vslidedn d a b fa) :=
  ofS b (by decide) d.isLt a.isLt (bit_lt fa) (by decide)
theorem vperm (d a b : Reg) (fa fb : Bool) : Statement (.vperm d a b fa fb) :=
  ofR (by decide) d.isLt a.isLt b.isLt (by decide) (bit_lt fa) (bit_lt fb) (by decide) (.inl (by decide))
theorem vcompress (d a : Reg) (fa : Bool) : Statement (.vcompress d a fa) :=
  ofR (by decide) d.isLt a.isLt (by decide) (by decide) (bit_lt fa) (by decide) (by decide) (.inl (by decide))
theorem vexpand (d a : Reg) (fa : Bool) : Statement (.vexpand d a fa) :=
  ofR (by decide) d.isLt a.isLt (by decide) (by decide) (bit_lt fa) (by decide) (by decide) (.inl (by decide))
theorem viota (d a : Reg) : Statement (.viota d a) :=
  ofR (by decide) d.isLt a.isLt (by decide) (by decide) (by decide) (by decide) (by decide) (.inl (by decide))
theorem vbcast (d : Reg) (b : Src) : Statement (.vbcast d b) :=
  ofS b (by decide) d.isLt (by decide) (by decide) (by decide)
theorem vextract (d a : Reg) (b : Src) (fa : Bool) : Statement (.vextract d a b fa) :=
  ofS b (by decide) d.isLt a.isLt (bit_lt fa) (by decide)
theorem vinsert (d a : Reg) (b : Src) (fa : Bool) : Statement (.vinsert d a b fa) :=
  ofS b (by decide) d.isLt a.isLt (bit_lt fa) (by decide)
theorem vtrans (d a : Reg) (fa : Bool) : Statement (.vtrans d a fa) :=
  ofR (by decide) d.isLt a.isLt (by decide) (by decide) (bit_lt fa) (by decide) (by decide) (.inl (by decide))
theorem vzip (d a b : Reg) (fa fb : Bool) : Statement (.vzip d a b fa fb) :=
  ofR (by decide) d.isLt a.isLt b.isLt (by decide) (bit_lt fa) (bit_lt fb) (by decide) (.inl (by decide))
theorem vunzip (d a : Reg) (b : Src) (fa : Bool) : Statement (.vunzip d a b fa) :=
  ofS b (by decide) d.isLt a.isLt (bit_lt fa) (by decide)
theorem mand (d a b : Reg) : Statement (.mand d a b) :=
  ofR (by decide) d.isLt a.isLt b.isLt (by decide) (by decide) (by decide) (by decide) (.inl (by decide))
theorem mor (d a b : Reg) : Statement (.mor d a b) :=
  ofR (by decide) d.isLt a.isLt b.isLt (by decide) (by decide) (by decide) (by decide) (.inl (by decide))
theorem mxor (d a b : Reg) : Statement (.mxor d a b) :=
  ofR (by decide) d.isLt a.isLt b.isLt (by decide) (by decide) (by decide) (by decide) (.inl (by decide))
theorem mandn (d a b : Reg) : Statement (.mandn d a b) :=
  ofR (by decide) d.isLt a.isLt b.isLt (by decide) (by decide) (by decide) (by decide) (.inl (by decide))
theorem mnot (d a : Reg) : Statement (.mnot d a) :=
  ofR (by decide) d.isLt a.isLt (by decide) (by decide) (by decide) (by decide) (by decide) (.inl (by decide))
theorem mmov (d a : Reg) : Statement (.mmov d a) :=
  ofR (by decide) d.isLt a.isLt (by decide) (by decide) (by decide) (by decide) (by decide) (.inl (by decide))
theorem msbf (d a : Reg) : Statement (.msbf d a) :=
  ofR (by decide) d.isLt a.isLt (by decide) (by decide) (by decide) (by decide) (by decide) (.inl (by decide))
theorem msif (d a : Reg) : Statement (.msif d a) :=
  ofR (by decide) d.isLt a.isLt (by decide) (by decide) (by decide) (by decide) (by decide) (.inl (by decide))
theorem msof (d a : Reg) : Statement (.msof d a) :=
  ofR (by decide) d.isLt a.isLt (by decide) (by decide) (by decide) (by decide) (by decide) (.inl (by decide))
theorem mshup (d a : Reg) : Statement (.mshup d a) :=
  ofR (by decide) d.isLt a.isLt (by decide) (by decide) (by decide) (by decide) (by decide) (.inl (by decide))
theorem mshdn (d a : Reg) : Statement (.mshdn d a) :=
  ofR (by decide) d.isLt a.isLt (by decide) (by decide) (by decide) (by decide) (by decide) (.inl (by decide))
theorem mset (d : Reg) : Statement (.mset d) :=
  ofR (by decide) d.isLt (by decide) (by decide) (by decide) (by decide) (by decide) (by decide) (.inl (by decide))
theorem mclr (d : Reg) : Statement (.mclr d) :=
  ofR (by decide) d.isLt (by decide) (by decide) (by decide) (by decide) (by decide) (by decide) (.inl (by decide))
theorem mpop (d a : Reg) : Statement (.mpop d a) :=
  ofR (by decide) d.isLt a.isLt (by decide) (by decide) (by decide) (by decide) (by decide) (.inl (by decide))
theorem mfirst (d a : Reg) : Statement (.mfirst d a) :=
  ofR (by decide) d.isLt a.isLt (by decide) (by decide) (by decide) (by decide) (by decide) (.inl (by decide))
theorem vld (d a : Reg) (off : BitVec 8) (fa : Bool) : Statement (.vld d a off fa) :=
  ofM (by decide) d.isLt a.isLt off.isLt (bit_lt fa) (by decide) (by decide) (by decide)
theorem vlds (d a : Reg) (off : BitVec 8) (fa : Bool) : Statement (.vlds d a off fa) :=
  ofM (by decide) d.isLt a.isLt off.isLt (bit_lt fa) (by decide) (by decide) (by decide)
theorem vldff (d a : Reg) (off : BitVec 8) (fa : Bool) : Statement (.vldff d a off fa) :=
  ofM (by decide) d.isLt a.isLt off.isLt (bit_lt fa) (by decide) (by decide) (by decide)
theorem vst (d a : Reg) (off : BitVec 8) (fa fb : Bool) : Statement (.vst d a off fa fb) :=
  ofM (by decide) d.isLt a.isLt off.isLt (bit_lt fa) (bit_lt fb) (by decide) (by decide)
theorem vsts (d a : Reg) (off : BitVec 8) (fa fb : Bool) : Statement (.vsts d a off fa fb) :=
  ofM (by decide) d.isLt a.isLt off.isLt (bit_lt fa) (bit_lt fb) (by decide) (by decide)
theorem vldx (d a b : Reg) (fa fb : Bool) : Statement (.vldx d a b fa fb) :=
  ofR (by decide) d.isLt a.isLt b.isLt (by decide) (bit_lt fa) (bit_lt fb) (by decide) (.inl (by decide))
theorem vstx (d a b : Reg) (fa fb : Bool) : Statement (.vstx d a b fa fb) :=
  ofR (by decide) d.isLt a.isLt b.isLt (by decide) (bit_lt fa) (bit_lt fb) (by decide) (.inl (by decide))
theorem vldl (d a b : Reg) (fa fb : Bool) : Statement (.vldl d a b fa fb) :=
  ofR (by decide) d.isLt a.isLt b.isLt (by decide) (bit_lt fa) (bit_lt fb) (by decide) (.inl (by decide))
theorem vstc (d a : Reg) (fa : Bool) : Statement (.vstc d a fa) :=
  ofR (by decide) d.isLt a.isLt (by decide) (by decide) (bit_lt fa) (by decide) (by decide) (.inl (by decide))
theorem vscadd (d a b : Reg) (fa fb : Bool) : Statement (.vscadd d a b fa fb) :=
  ofR (by decide) d.isLt a.isLt b.isLt (by decide) (bit_lt fa) (bit_lt fb) (by decide) (.inl (by decide))
theorem cappend (d a b : Reg) (fa fb : Bool) : Statement (.cappend d a b fa fb) :=
  ofR (by decide) d.isLt a.isLt b.isLt (by decide) (bit_lt fa) (bit_lt fb) (by decide) (.inl (by decide))
theorem sspec (d a : Reg) (fa : Bool) : Statement (.sspec d a fa) :=
  ofR (by decide) d.isLt a.isLt (by decide) (by decide) (bit_lt fa) (by decide) (by decide) (.inl (by decide))
theorem sbind (d a : Reg) (fa : Bool) : Statement (.sbind d a fa) :=
  ofR (by decide) d.isLt a.isLt (by decide) (by decide) (bit_lt fa) (by decide) (by decide) (.inl (by decide))
theorem sunbind (d : Reg) : Statement (.sunbind d) :=
  ofR (by decide) d.isLt (by decide) (by decide) (by decide) (by decide) (by decide) (by decide) (.inl (by decide))
theorem sbar (a : Reg) (fa : Bool) : Statement (.sbar a fa) :=
  ofR (by decide) (by decide) a.isLt (by decide) (by decide) (bit_lt fa) (by decide) (by decide) (.inl (by decide))
theorem scond (d a : Reg) (b : Src) (fa : Bool) : Statement (.scond d a b fa) :=
  ofS b (by decide) d.isLt a.isLt (bit_lt fa) (by decide)
theorem spos (d a : Reg) : Statement (.spos d a) :=
  ofR (by decide) d.isLt a.isLt (by decide) (by decide) (by decide) (by decide) (by decide) (.inl (by decide))
theorem sstart (d : Reg) : Statement (.sstart d) :=
  ofR (by decide) d.isLt (by decide) (by decide) (by decide) (by decide) (by decide) (by decide) (.inl (by decide))
theorem swait (d : Reg) : Statement (.swait d) :=
  ofR (by decide) d.isLt (by decide) (by decide) (by decide) (by decide) (by decide) (by decide) (.inl (by decide))
theorem vconf (d : Reg) (b : Src) : Statement (.vconf d b) :=
  ofS b (by decide) d.isLt (by decide) (by decide) (by decide)
theorem vsetl (d : Reg) (b : Src) : Statement (.vsetl d b) :=
  ofS b (by decide) d.isLt (by decide) (by decide) (by decide)
theorem vsetr (d : Reg) (b : Src) : Statement (.vsetr d b) :=
  ofS b (by decide) d.isLt (by decide) (by decide) (by decide)
theorem vsetcfg (d : Reg) (b : Src) : Statement (.vsetcfg d b) :=
  ofS b (by decide) d.isLt (by decide) (by decide) (by decide)
theorem vsetst (d : Reg) (b : Src) : Statement (.vsetst d b) :=
  ofS b (by decide) d.isLt (by decide) (by decide) (by decide)
theorem stripc : Statement .stripc :=
  ofR (by decide) (by decide) (by decide) (by decide) (by decide) (by decide) (by decide) (by decide) (.inl (by decide))
theorem gang (d : Reg) : Statement (.gang d) :=
  ofR (by decide) d.isLt (by decide) (by decide) (by decide) (by decide) (by decide) (by decide) (.inl (by decide))
theorem ungang (d : Reg) : Statement (.ungang d) :=
  ofR (by decide) d.isLt (by decide) (by decide) (by decide) (by decide) (by decide) (by decide) (.inl (by decide))
theorem vsave (a : Reg) (fa : Bool) : Statement (.vsave a fa) :=
  ofR (by decide) (by decide) a.isLt (by decide) (by decide) (bit_lt fa) (by decide) (by decide) (.inl (by decide))
theorem vrestore (a : Reg) (fa : Bool) : Statement (.vrestore a fa) :=
  ofR (by decide) (by decide) a.isLt (by decide) (by decide) (bit_lt fa) (by decide) (by decide) (.inl (by decide))
theorem vcfgrd (d sel : Reg) : Statement (.vcfgrd d sel) :=
  ofR (by decide) d.isLt sel.isLt (by decide) (by decide) (by decide) (by decide) (by decide) (.inl (by decide))
theorem mma (z a b : Reg) (fmt : BitVec 4) (kn : BitVec 2) (acc : Bool) : Statement (.mma z a b fmt kn acc) :=
  ofR (by decide) z.isLt a.isLt b.isLt (by have := fmt.isLt; omega) (by have := fmt.isLt; omega) (by have := fmt.isLt; omega) (by have := kn.isLt; have := bit_lt acc; omega) (.inr (by decide))
theorem zscacc (d a b : Reg) (fb : Bool) : Statement (.zscacc d a b fb) :=
  ofR (by decide) d.isLt a.isLt b.isLt (by decide) (by decide) (bit_lt fb) (by decide) (.inl (by decide))
theorem zzero (d a : Reg) : Statement (.zzero d a) :=
  ofR (by decide) d.isLt a.isLt (by decide) (by decide) (by decide) (by decide) (by decide) (.inl (by decide))
theorem zrel (d : Reg) : Statement (.zrel d) :=
  ofR (by decide) d.isLt (by decide) (by decide) (by decide) (by decide) (by decide) (by decide) (.inl (by decide))
theorem zext (d a : Reg) (b : Src) : Statement (.zext d a b) :=
  ofS b (by decide) d.isLt a.isLt (by decide) (by decide)
theorem zins (d a : Reg) (b : Src) (fa : Bool) : Statement (.zins d a b fa) :=
  ofS b (by decide) d.isLt a.isLt (bit_lt fa) (by decide)
theorem zsave (d a : Reg) (fa : Bool) : Statement (.zsave d a fa) :=
  ofR (by decide) d.isLt a.isLt (by decide) (by decide) (bit_lt fa) (by decide) (by decide) (.inl (by decide))
theorem zload (d a : Reg) (fa : Bool) : Statement (.zload d a fa) :=
  ofR (by decide) d.isLt a.isLt (by decide) (by decide) (bit_lt fa) (by decide) (by decide) (.inl (by decide))
theorem zamax (a b : Reg) : Statement (.zamax a b) :=
  ofR (by decide) (by decide) a.isLt b.isLt (by decide) (by decide) (by decide) (by decide) (.inl (by decide))
theorem mdset (d a : Reg) (b : Src) (fa : Bool) : Statement (.mdset d a b fa) :=
  ofS b (by decide) d.isLt a.isLt (bit_lt fa) (by decide)
theorem mdadv (d : Reg) (b : Src) : Statement (.mdadv d b) :=
  ofS b (by decide) d.isLt (by decide) (by decide) (by decide)
theorem zstat (d a : Reg) : Statement (.zstat d a) :=
  ofR (by decide) d.isLt a.isLt (by decide) (by decide) (by decide) (by decide) (by decide) (.inl (by decide))
theorem kset (d a : Reg) (b : Src) (fa : Bool) : Statement (.kset d a b fa) :=
  ofS b (by decide) d.isLt a.isLt (bit_lt fa) (by decide)
theorem kseed (d : Reg) (b : Src) : Statement (.kseed d b) :=
  ofS b (by decide) d.isLt (by decide) (by decide) (by decide)
theorem korg (d a : Reg) (b : Src) (fa : Bool) : Statement (.korg d a b fa) :=
  ofS b (by decide) d.isLt a.isLt (bit_lt fa) (by decide)
theorem kfreq (d a : Reg) (fa : Bool) : Statement (.kfreq d a fa) :=
  ofR (by decide) d.isLt a.isLt (by decide) (by decide) (bit_lt fa) (by decide) (by decide) (.inl (by decide))
theorem vgen (d a : Reg) : Statement (.vgen d a) :=
  ofR (by decide) d.isLt a.isLt (by decide) (by decide) (by decide) (by decide) (by decide) (.inl (by decide))
theorem kget (d a : Reg) (b : Src) : Statement (.kget d a b) :=
  ofS b (by decide) d.isLt a.isLt (by decide) (by decide)
theorem cpy (d a b : Reg) (fa fb : Bool) : Statement (.cpy d a b fa fb) :=
  ofR (by decide) d.isLt a.isLt b.isLt (by decide) (bit_lt fa) (bit_lt fb) (by decide) (.inl (by decide))
theorem cpymma (d a : Reg) (fa : Bool) (z sa sb : Reg) (fmt : BitVec 4) (kn : BitVec 2) (acc : Bool) : Statement (.cpymma d a fa z sa sb fmt kn acc) :=
  ofTwo (by decide) d.isLt a.isLt (by decide) (by decide) (bit_lt fa) (by decide) (by decide) rfl (by
    have := z.isLt; have := sa.isLt; have := sb.isLt; have := fmt.isLt; have := kn.isLt; have := bit_lt acc
    unfold wordR; omega)
theorem cpywait (d a : Reg) (fa : Bool) : Statement (.cpywait d a fa) :=
  ofR (by decide) d.isLt a.isLt (by decide) (by decide) (bit_lt fa) (by decide) (by decide) (.inl (by decide))
theorem cbinit (d a b : Reg) (fa fb : Bool) : Statement (.cbinit d a b fa fb) :=
  ofR (by decide) d.isLt a.isLt b.isLt (by decide) (bit_lt fa) (bit_lt fb) (by decide) (.inl (by decide))
theorem cbwait (d a : Reg) : Statement (.cbwait d a) :=
  ofR (by decide) d.isLt a.isLt (by decide) (by decide) (by decide) (by decide) (by decide) (.inl (by decide))
theorem cbrel (d a : Reg) (b : Src) : Statement (.cbrel d a b) :=
  ofS b (by decide) d.isLt a.isLt (by decide) (by decide)
theorem cbstat (d a : Reg) : Statement (.cbstat d a) :=
  ofR (by decide) d.isLt a.isLt (by decide) (by decide) (by decide) (by decide) (by decide) (.inl (by decide))
theorem acq (d a : Reg) (fa : Bool) : Statement (.acq d a fa) :=
  ofR (by decide) d.isLt a.isLt (by decide) (by decide) (bit_lt fa) (by decide) (by decide) (.inl (by decide))
theorem rel (a : Reg) (fa : Bool) : Statement (.rel a fa) :=
  ofR (by decide) (by decide) a.isLt (by decide) (by decide) (bit_lt fa) (by decide) (by decide) (.inl (by decide))
theorem bind (d a : Reg) (b : Src) (fa : Bool) : Statement (.bind d a b fa) :=
  ofS b (by decide) d.isLt a.isLt (bit_lt fa) (by decide)
theorem unbind (d a : Reg) (fa : Bool) : Statement (.unbind d a fa) :=
  ofR (by decide) d.isLt a.isLt (by decide) (by decide) (bit_lt fa) (by decide) (by decide) (.inl (by decide))
theorem fenceFull : Statement .fenceFull :=
  ofR (by decide) (by decide) (by decide) (by decide) (by decide) (by decide) (by decide) (by decide) (.inl (by decide))
theorem fenceRel : Statement .fenceRel :=
  ofR (by decide) (by decide) (by decide) (by decide) (by decide) (by decide) (by decide) (by decide) (.inl (by decide))
theorem fenceAcq : Statement .fenceAcq :=
  ofR (by decide) (by decide) (by decide) (by decide) (by decide) (by decide) (by decide) (by decide) (.inl (by decide))
theorem fenceIfetch : Statement .fenceIfetch :=
  ofR (by decide) (by decide) (by decide) (by decide) (by decide) (by decide) (by decide) (by decide) (.inl (by decide))
theorem wmpub (d : Reg) (b : Src) : Statement (.wmpub d b) :=
  ofS b (by decide) d.isLt (by decide) (by decide) (by decide)
theorem wmlink (d a : Reg) (fa : Bool) : Statement (.wmlink d a fa) :=
  ofR (by decide) d.isLt a.isLt (by decide) (by decide) (bit_lt fa) (by decide) (by decide) (.inl (by decide))
theorem bar (d a : Reg) (fa : Bool) : Statement (.bar d a fa) :=
  ofR (by decide) d.isLt a.isLt (by decide) (by decide) (bit_lt fa) (by decide) (by decide) (.inl (by decide))
theorem barjoin (d a : Reg) (fa : Bool) : Statement (.barjoin d a fa) :=
  ofR (by decide) d.isLt a.isLt (by decide) (by decide) (bit_lt fa) (by decide) (by decide) (.inl (by decide))
theorem barleave (a : Reg) (fa : Bool) : Statement (.barleave a fa) :=
  ofR (by decide) (by decide) a.isLt (by decide) (by decide) (bit_lt fa) (by decide) (by decide) (.inl (by decide))
theorem notify (a : Reg) (b : Src) (fa : Bool) : Statement (.notify a b fa) :=
  ofS b (by decide) (by decide) a.isLt (bit_lt fa) (by decide)
theorem waitn (d a : Reg) : Statement (.waitn d a) :=
  ofR (by decide) d.isLt a.isLt (by decide) (by decide) (by decide) (by decide) (by decide) (.inl (by decide))
theorem pinit (a : Reg) (fa : Bool) : Statement (.pinit a fa) :=
  ofR (by decide) (by decide) a.isLt (by decide) (by decide) (bit_lt fa) (by decide) (by decide) (.inl (by decide))
theorem pfill (d a : Reg) (b : Src) (fa : Bool) : Statement (.pfill d a b fa) :=
  ofS b (by decide) d.isLt a.isLt (bit_lt fa) (by decide)
theorem peq (d a b : Reg) (fa fb : Bool) : Statement (.peq d a b fa fb) :=
  ofR (by decide) d.isLt a.isLt b.isLt (by decide) (bit_lt fa) (bit_lt fb) (by decide) (.inl (by decide))
theorem pwait (d a : Reg) (fa : Bool) : Statement (.pwait d a fa) :=
  ofR (by decide) d.isLt a.isLt (by decide) (by decide) (bit_lt fa) (by decide) (by decide) (.inl (by decide))
theorem ptest (d a : Reg) (fa : Bool) : Statement (.ptest d a fa) :=
  ofR (by decide) d.isLt a.isLt (by decide) (by decide) (bit_lt fa) (by decide) (by decide) (.inl (by decide))
theorem xred (d a : Reg) (b : Src) (fa : Bool) : Statement (.xred d a b fa) :=
  ofS b (by decide) d.isLt a.isLt (bit_lt fa) (by decide)
theorem xbar (d : Reg) : Statement (.xbar d) :=
  ofR (by decide) d.isLt (by decide) (by decide) (by decide) (by decide) (by decide) (by decide) (.inl (by decide))
theorem xwait (d a : Reg) (fa : Bool) : Statement (.xwait d a fa) :=
  ofR (by decide) d.isLt a.isLt (by decide) (by decide) (bit_lt fa) (by decide) (by decide) (.inl (by decide))
theorem launch (d a : Reg) (fa : Bool) : Statement (.launch d a fa) :=
  ofR (by decide) d.isLt a.isLt (by decide) (by decide) (bit_lt fa) (by decide) (by decide) (.inl (by decide))
theorem launchnb (d a : Reg) (fa : Bool) : Statement (.launchnb d a fa) :=
  ofR (by decide) d.isLt a.isLt (by decide) (by decide) (bit_lt fa) (by decide) (by decide) (.inl (by decide))
theorem cancel (d a b : Reg) (fa : Bool) : Statement (.cancel d a b fa) :=
  ofR (by decide) d.isLt a.isLt b.isLt (by decide) (bit_lt fa) (by decide) (by decide) (.inl (by decide))
theorem cwait (d a b : Reg) (fa : Bool) : Statement (.cwait d a b fa) :=
  ofR (by decide) d.isLt a.isLt b.isLt (by decide) (bit_lt fa) (by decide) (by decide) (.inl (by decide))
theorem exit : Statement .exit :=
  ofR (by decide) (by decide) (by decide) (by decide) (by decide) (by decide) (by decide) (by decide) (.inl (by decide))
theorem self (d b : Reg) : Statement (.self d b) :=
  ofR (by decide) d.isLt (by decide) b.isLt (by decide) (by decide) (by decide) (by decide) (.inl (by decide))
theorem cntrd (d a b : Reg) (fa : Bool) : Statement (.cntrd d a b fa) :=
  ofR (by decide) d.isLt a.isLt b.isLt (by decide) (bit_lt fa) (by decide) (by decide) (.inl (by decide))
theorem trap (b : Src) : Statement (.trap b) := ofS b (by decide) (by decide) (by decide) (by decide) (by decide)
theorem rteResume : Statement .rteResume :=
  ofR (by decide) (by decide) (by decide) (by decide) (by decide) (by decide) (by decide) (by decide) (.inl (by decide))
theorem rteKill : Statement .rteKill :=
  ofR (by decide) (by decide) (by decide) (by decide) (by decide) (by decide) (by decide) (by decide) (.inl (by decide))
theorem sysrd (d a : Reg) : Statement (.sysrd d a) :=
  ofR (by decide) d.isLt a.isLt (by decide) (by decide) (by decide) (by decide) (by decide) (.inl (by decide))
theorem syswr (d : Reg) (b : Src) : Statement (.syswr d b) :=
  ofS b (by decide) d.isLt (by decide) (by decide) (by decide)
theorem brk : Statement .brk :=
  ofR (by decide) (by decide) (by decide) (by decide) (by decide) (by decide) (by decide) (by decide) (.inl (by decide))
theorem rdcyc (d : Reg) : Statement (.rdcyc d) :=
  ofR (by decide) d.isLt (by decide) (by decide) (by decide) (by decide) (by decide) (by decide) (.inl (by decide))
theorem rdnrg (d : Reg) : Statement (.rdnrg d) :=
  ofR (by decide) d.isLt (by decide) (by decide) (by decide) (by decide) (by decide) (by decide) (.inl (by decide))
theorem slotset (a : Reg) (fa : Bool) : Statement (.slotset a fa) :=
  ofR (by decide) (by decide) a.isLt (by decide) (by decide) (bit_lt fa) (by decide) (by decide) (.inl (by decide))
theorem ctxswSout (d a : Reg) (fa : Bool) : Statement (.ctxswSout d a fa) :=
  ofR (by decide) d.isLt a.isLt (by decide) (by decide) (bit_lt fa) (by decide) (by decide) (.inl (by decide))
theorem ctxswSin (d a : Reg) (fa : Bool) : Statement (.ctxswSin d a fa) :=
  ofR (by decide) d.isLt a.isLt (by decide) (by decide) (bit_lt fa) (by decide) (by decide) (.inl (by decide))
theorem ctxswVout (d a : Reg) (fa : Bool) : Statement (.ctxswVout d a fa) :=
  ofR (by decide) d.isLt a.isLt (by decide) (by decide) (bit_lt fa) (by decide) (by decide) (.inl (by decide))
theorem ctxswVin (d a : Reg) (fa : Bool) : Statement (.ctxswVin d a fa) :=
  ofR (by decide) d.isLt a.isLt (by decide) (by decide) (bit_lt fa) (by decide) (by decide) (.inl (by decide))
theorem ctxswZout (d a : Reg) (fa : Bool) : Statement (.ctxswZout d a fa) :=
  ofR (by decide) d.isLt a.isLt (by decide) (by decide) (bit_lt fa) (by decide) (by decide) (.inl (by decide))
theorem ctxswZin (d a : Reg) (fa : Bool) : Statement (.ctxswZin d a fa) :=
  ofR (by decide) d.isLt a.isLt (by decide) (by decide) (bit_lt fa) (by decide) (by decide) (.inl (by decide))
theorem wfn (d : Reg) : Statement (.wfn d) :=
  ofR (by decide) d.isLt (by decide) (by decide) (by decide) (by decide) (by decide) (by decide) (.inl (by decide))
theorem apf (d a : Reg) (b : Src) : Statement (.apf d a b) := ofS b (by decide) d.isLt a.isLt (by decide) (by decide)
theorem ahome (a : Reg) (b : Src) : Statement (.ahome a b) :=
  ofS b (by decide) (by decide) a.isLt (by decide) (by decide)
theorem aprio (b : Src) : Statement (.aprio b) := ofS b (by decide) (by decide) (by decide) (by decide) (by decide)
theorem aorder (b : Src) : Statement (.aorder b) := ofS b (by decide) (by decide) (by decide) (by decide) (by decide)
theorem awake (b : Src) : Statement (.awake b) := ofS b (by decide) (by decide) (by decide) (by decide) (by decide)
theorem aj (d a : Reg) (b : Src) : Statement (.aj d a b) := ofS b (by decide) d.isLt a.isLt (by decide) (by decide)
theorem aloop (a : Reg) (b : Src) : Statement (.aloop a b) :=
  ofS b (by decide) (by decide) a.isLt (by decide) (by decide)
theorem aadd (d a : Reg) (b : Src) : Statement (.aadd d a b) :=
  ofS b (by decide) d.isLt a.isLt (by decide) (by decide)
theorem ali (d : Reg) (b : Src) : Statement (.ali d b) := ofS b (by decide) d.isLt (by decide) (by decide) (by decide)
theorem asnap (d a : Reg) : Statement (.asnap d a) :=
  ofR (by decide) d.isLt a.isLt (by decide) (by decide) (by decide) (by decide) (by decide) (.inl (by decide))
theorem aend : Statement .aend :=
  ofR (by decide) (by decide) (by decide) (by decide) (by decide) (by decide) (by decide) (by decide) (.inl (by decide))
theorem await (imm : BitVec 20) : Statement (.await imm) := ofIA (by decide) (by decide) imm.isLt (by decide)
theorem secondMarkConsume (core : CoreId) (ctx : UserCtx) : Statement (.secondMarkConsume core ctx) := ofNone
theorem adviceActionAccept (core : CoreId) (ctx : UserCtx) : Statement (.adviceActionAccept core ctx) := ofNone
theorem fatalError (core : CoreId) (struck : BitVec 7) : Statement (.fatalError core struck) := ofNone
theorem laneError (core : CoreId) (lane : Lane) (struck : Struck) : Statement (.laneError core lane struck) := ofNone
theorem correctedError (core : CoreId) (lane : Option Lane) : Statement (.correctedError core lane) := ofNone
theorem arbiterSelection : Statement .arbiterSelection := ofNone
theorem arbiterBoundary (core : CoreId) : Statement (.arbiterBoundary core) := ofNone
theorem launchPlacement : Statement .launchPlacement := ofNone
theorem descriptorArrival (queue : QueueId) (descriptor : BitVec 2048) : Statement (.descriptorArrival queue descriptor) :=
  ofNone
theorem qtailWrite (queue : QueueId) (value : BitVec 64) : Statement (.qtailWrite queue value) := ofNone
theorem qctlWrite (queue : QueueId) (value : BitVec 64) : Statement (.qctlWrite queue value) := ofNone
theorem hartCancelled (core : CoreId) (ctx : UserCtx) : Statement (.hartCancelled core ctx) := ofNone
theorem hartFenced (core : CoreId) (ctx : UserCtx) : Statement (.hartFenced core ctx) := ofNone
theorem issueCycle (core : CoreId) : Statement (.issueCycle core) := ofNone
theorem activityMeterCycle (core : CoreId) : Statement (.activityMeterCycle core) := ofNone
theorem pageEpoch (slice : SliceId) : Statement (.pageEpoch slice) := ofNone
theorem frameMoveSwitch (frame : BitVec 36) : Statement (.frameMoveSwitch frame) := ofNone
theorem moduleUncorrectableError (line : BitVec 46) : Statement (.moduleUncorrectableError line) := ofNone
theorem bufferWordError (core : CoreId) (buf : TypedBuf) (word : BitVec 19) : Statement (.bufferWordError core buf word) :=
  ofNone
theorem striplost (core : CoreId) (ctx : ContextId) : Statement (.striplost core ctx) := ofNone
theorem linkFailure (link : LinkId) (readable : Bool) : Statement (.linkFailure link readable) := ofNone
theorem moduleRetireComplete (link : LinkId) : Statement (.moduleRetireComplete link) := ofNone
theorem copyCommandStart (core : CoreId) (turn : CopyTurn) : Statement (.copyCommandStart core turn) := ofNone
theorem copyCommandComplete (core : CoreId) (ctx : ContextId) : Statement (.copyCommandComplete core ctx) := ofNone
theorem mmaComplete (core : CoreId) (turn : MmaTurn) : Statement (.mmaComplete core turn) := ofNone
theorem longLatencyResult (core : CoreId) (turn : ResultTurn) : Statement (.longLatencyResult core turn) := ofNone
theorem stripCommitComplete (core : CoreId) (ctx : ContextId) : Statement (.stripCommitComplete core ctx) := ofNone
theorem scatterAddPerform (add : ScatterAdd) : Statement (.scatterAddPerform add) := ofNone
theorem streamElementFetch (core : CoreId) (ctx : ContextId) (stream : StreamId) (reply : RemoteReply) : Statement (.streamElementFetch core ctx stream reply) :=
  ofNone
theorem streamConditionRead (core : CoreId) (ctx : ContextId) (stream : StreamId) : Statement (.streamConditionRead core ctx stream) :=
  ofNone
theorem streamDoneadd (core : CoreId) (ctx : ContextId) (stream : StreamId) (reply : RemoteReply) : Statement (.streamDoneadd core ctx stream reply) :=
  ofNone
theorem remotePushPerform (request : RemoteRequest) (data : BitVec 64) (stage : PushStage) : Statement (.remotePushPerform request data stage) :=
  ofNone
theorem remoteStreamRequest (request : RemoteRequest) : Statement (.remoteStreamRequest request) := ofNone
theorem xredPacketArrival (message : XMessage) : Statement (.xredPacketArrival message) := ofNone
theorem acqGrant (core : CoreId) (ctx : UserCtx) : Statement (.acqGrant core ctx) := ofNone
theorem waiterPoll (core : CoreId) (ctx : UserCtx) : Statement (.waiterPoll core ctx) := ofNone
theorem watermarkRelease (core : CoreId) (ctx : UserCtx) : Statement (.watermarkRelease core ctx) := ofNone
theorem queueWeightWrite (queue : QueueId) (value : BitVec 64) : Statement (.queueWeightWrite queue value) := ofNone
theorem powerControllerUpdate (core : CoreId) (grant : BitVec 13) (gate : BitVec 8) (gateCore : Bool) (withdraw : BitVec 8) : Statement (.powerControllerUpdate core grant gate gateCore withdraw) :=
  ofNone
theorem powerHoldExpire (core : CoreId) (part : PowerPart) : Statement (.powerHoldExpire core part) := ofNone
theorem switchOpeningComplete (core : CoreId) (part : PowerPart) : Statement (.switchOpeningComplete core part) :=
  ofNone
theorem inrushGrant : Statement .inrushGrant := ofNone
theorem turnOnComplete (core : CoreId) (group : BitVec 3) : Statement (.turnOnComplete core group) := ofNone
theorem gcapWrite (core : CoreId) (value : BitVec 64) : Statement (.gcapWrite core value) := ofNone
theorem actwWrite (core : CoreId) (value : BitVec 64) : Statement (.actwWrite core value) := ofNone
theorem lanemapWrite (core : CoreId) (value : BitVec 64) : Statement (.lanemapWrite core value) := ofNone
theorem mrsvWrite (value : BitVec 64) : Statement (.mrsvWrite value) := ofNone
theorem fwrootWrite (core : CoreId) (value : BitVec 64) : Statement (.fwrootWrite core value) := ofNone
theorem devnumWrite (value : BitVec 64) : Statement (.devnumWrite value) := ofNone
theorem tinvGo (value : BitVec 64) : Statement (.tinvGo value) := ofNone
theorem tinvComplete : Statement .tinvComplete := ofNone
theorem rrInstall : Statement .rrInstall := ofNone
theorem rrRemove : Statement .rrRemove := ofNone
theorem repheadWrite (value : BitVec 64) : Statement (.repheadWrite value) := ofNone
theorem svcFencecore : Statement .svcFencecore := ofNone
theorem svcRetiremod : Statement .svcRetiremod := ofNone
theorem svcReturnmod : Statement .svcReturnmod := ofNone
theorem svcRecal : Statement .svcRecal := ofNone
theorem recalLaneReturn (quinsia : Bool) (link : BitVec 16) (lane : BitVec 3) : Statement (.recalLaneReturn quinsia link lane) :=
  ofNone
theorem svcStagefw (image : FirmwareImage) : Statement (.svcStagefw image) := ofNone
theorem svcAttest : Statement .svcAttest := ofNone
theorem registerWrite (offset : BitVec 20) (value : BitVec 64) : Statement (.registerWrite offset value) := ofNone
theorem hostBar2Access (offset : BitVec 36) (access : HostAccess) (data : BitVec 64) : Statement (.hostBar2Access offset access data) :=
  ofNone
theorem powerOnBoot (boot : BootImage) (tvec fwroot : BitVec 64) (image : List Host.Cell) : Statement (.powerOnBoot boot tvec fwroot image) :=
  ofNone
theorem deviceReset : Statement .deviceReset := ofNone
theorem linkStateChanged (quinsia : Bool) (link : BitVec 16) (lanes : BitVec 4) : Statement (.linkStateChanged quinsia link lanes) :=
  ofNone
theorem domainReachabilityChange (domain : BitVec 6) (reachable : Bool) : Statement (.domainReachabilityChange domain reachable) :=
  ofNone
theorem sliceUncorrectableError (slice : SliceId) : Statement (.sliceUncorrectableError slice) := ofNone
theorem clusterClockChange (core : CoreId) (running : Bool) : Statement (.clusterClockChange core running) := ofNone
theorem jobRetired (job : BitVec 64) : Statement (.jobRetired job) := ofNone

end Sys2Proof.Laws.WordForm
end

