-- ==== Sys2Proof/Laws/Scalar.lean ====
section
/-!
SUPPORT. What each shape of scalar instruction answers when the hart has what it asks.
-/

namespace Sys2Proof.Machine

/-- Issuing an instruction whose own effect changes the hart by `f` alone, and which commits nothing. -/
theorem issue_after {s : State} {u : Uses} {body : State → Except Stop State} {f : Hart → Hart} (h : s.Admits u)
    (hc : u.commits = false) (hb : body s = .ok (s.modifyMe f)) : issue s u body = .next (s.after u f) := by
  rw [issue_of_admits h (by rwa [State.begun_of_open hc])]
  rfl

theorem scalarBinary_of_admits {s : State} {d a : Reg} {b : Src} {fa : Bool} (f : Word → Word → Word)
    (h : s.Admits (binaryUses d a b fa)) : scalarBinary d a b fa f s =
      .next (s.after (binaryUses d a b fa) fun h => h.writeX d (f (h.readX a) (h.srcWord b))) :=
  issue_after (u := binaryUses d a b fa) h rfl rfl

theorem scalarUnary_of_admits {s : State} {d a : Reg} {fa : Bool} (f : Word → Word)
    (h : s.Admits (unaryUses d a fa)) : scalarUnary d a fa f s =
      .next (s.after (unaryUses d a fa) fun h => h.writeX d (f (h.readX a))) :=
  issue_after (u := unaryUses d a fa) h rfl rfl

theorem scalarConst_of_admits {s : State} {d : Reg} (f : Hart → Word) (h : s.Admits (constUses d)) :
    scalarConst d f s = .next (s.after (constUses d) fun h => h.writeX d (f h)) :=
  issue_after (u := constUses d) h rfl rfl

theorem floatBinary_of_admits {s : State} {d a : Reg} {b : Src} {fa : Bool} (f : Rounding → Word → Word → Word)
    (h : s.Admits (binaryUses d a b fa)) : floatBinary d a b fa f s =
      .next (s.after (binaryUses d a b fa) fun h => h.writeX d (f s.scalarRounding (h.readX a) (h.srcFloat b))) :=
  issue_after (u := binaryUses d a b fa) h rfl rfl

theorem floatUnary_of_admits {s : State} {d a : Reg} {fa : Bool} (f : Rounding → Word → Word)
    (h : s.Admits (unaryUses d a fa)) : floatUnary d a fa f s =
      .next (s.after (unaryUses d a fa) fun h => h.writeX d (f s.scalarRounding (h.readX a))) :=
  issue_after (u := unaryUses d a fa) h rfl rfl

end Sys2Proof.Machine
end

