-- ==== Sys2Proof/Tests/Slice0.lean ====
section
/-!
SUPPORT. Tests: words of the chapters' worked encodings and one word of every other encoding, terms that are refused as
ill-formed, a state and operands for every statement with hypotheses, and single steps with results worked out by hand.
-/

set_option Elab.async false

open Sys2Proof Sys2Proof.Machine Sys2Proof.Stated

namespace Sys2Proof.Tests

/-- Tables at frames 1 to 3: pages 0 and 1 at 0x40000 and 0x50000, 2 a promise page, 3 and 4 X and W apertures, 5 and 6
windows on notify and power registers, 8 at 0x60000 read only. -/
def mem : Mem :=
  let leaf (m : Mem) (n pte : Nat) : Mem := m.write (0x30000 + 8 * n) 8 pte
  let m := (Mem.write [] 0x10000 8 0x20001).write 0x20000 8 0x30001
  let m := leaf (leaf (leaf (leaf m 0 0x4001F) 1 0x5001F) 2 0x7002F) 3 0x40004F
  leaf (leaf (leaf (leaf m 4 0x4F) 5 0x6F) 6 0x200006F) 8 0x60007

def hart : Hart :=
  { pc := 0x10000
    first := false
    x := Vector.ofFn fun i : Fin 48 => if i.val < 32 then word i.val else word (0x1000 * (i.val - 31))
    vec :=
      { v := Vector.ofFn fun i : Fin 64 => if i.val < 32 then (0x8001_F00F_7BCD_0123_4080_C1A0_3F80_0000 * (i.val + 1)) % 2 ^ 512 else 0
        m := Vector.ofFn fun i : Fin 8 => (0xB7 + 0x39 * i.val) % 2 ^ 64 }
    names := 32
    vlmax := 8
    vl := 4
    vrows := 2
    vcfg := 3
    vst := 64
    id := 1
    link := { root := loadRoot, launch := 7, graph := 8, phase := 9, job := 10, harts := 1 }
    streams := Vector.replicate 8 {} }

def base : State :=
  (((State.reset.modifyDev fun d => { d with mem := mem, ready := true, dommap := 1 }).setHart 0 0 hart).setStatus 0 0 .running).actingAs 0 0

/-- What State.Admits asks, one test for each of its conditions. -/
def asks (s : State) (u : Uses) : List Bool :=
  [decide (u.illegal = false), decide (∀ r ∈ u.reads, s.me.badRead r = false), decide (∀ r ∈ u.writes, s.me.badWrite r = false),
   decide (u.priv = true → s.isFirmware = true), decide (u.userOnly = true → s.isFirmware = false),
   decide (∀ f ∈ u.regs, f.ok = true), decide (u.vown = true → s.me.vlazy = false),
   decide (∀ q ∈ u.sources, s.me.isEmptySource q = false), decide (∀ d ∈ u.dests, s.me.holds d.1 d.2 = true),
   decide (s.me.unstarted (u.reads ++ u.writes) = none), decide (u.lanes = true → s.sleepingGroups = []),
   decide (u.commits = true → ∀ f ∈ s.me.fills, f.vector = false), decide (u.commits = true → (s.committed u).me.strip = []),
   decide (u.commits = true → ∀ r ∈ u.releases, (s.begun u).releaseWaits r = false)]

def admits (s : State) (u : Uses) : Bool := (asks s u).all id

theorem admits_of {s : State} {u : Uses} (h : admits s u = true) : s.Admits u :=
  have got (n : Nat) (l : n < 14) : (asks s u)[n]'l = true := List.all_eq_true.mp h _ (List.getElem_mem l)
  have yes {p : Prop} [Decidable p] (e : decide p = true) : p := of_decide_eq_true e
  { legal := yes (got 0 (by omega))
    reads := yes (got 1 (by omega))
    writes := yes (got 2 (by omega))
    mode := yes (got 3 (by omega))
    user := yes (got 4 (by omega))
    fields := yes (got 5 (by omega))
    owned := yes (got 6 (by omega))
    sources := yes (got 7 (by omega))
    dests := yes (got 8 (by omega))
    started := yes (got 9 (by omega))
    awake := yes (got 10 (by omega))
    arrived := yes (got 11 (by omega))
    commits := yes (got 12 (by omega))
    released := fun hc r hr => (yes (got 13 (by omega)) : u.commits = true → ∀ r ∈ u.releases, _) hc r hr }

theorem admits_all {s : State} {us : List Uses} (h : us.all (admits s) = true) : ∀ u ∈ us, s.Admits u :=
  fun u hu => admits_of (List.all_eq_true.mp h u hu)

theorem ok_of {ε α : Type} {x : Except ε α} (h : x.isOk = true) : ∃ a, x = .ok a := by
  cases x with
  | error e => simp [Except.isOk, Except.toBool] at h
  | ok a => exact ⟨a, rfl⟩

/-- Scalar registers of the hart that acts, by number. -/
def withX (s : State) (xs : List (Nat × Word)) : State :=
  s.modifyMe fun h => { h with x := xs.foldl (fun v e => vset v e.1 e.2) h.x }

/-- The tile's configuration of the hart that acts. -/
def withTile (s : State) (vl vrows vcfg : Nat) : State :=
  s.modifyMe fun h => { h with vl := BitVec.ofNat 32 vl, vrows := BitVec.ofNat 6 vrows, vcfg := word vcfg }

/-- Bytes of main memory, as 64-bit words by address. -/
def withMem (s : State) (xs : List (Nat × Nat)) : State :=
  s.modifyDev fun d => { d with mem := xs.foldl (fun m e => m.write e.1 8 e.2) d.mem }

theorem unbound_of {h : Hart} (e : (List.range 8).all (fun i => (vget h.streams i {}).bound == none) = true)
    (rs : List Reg) : Unbound h rs := by
  intro r _
  have e' (l : List Nat) (hl : ∀ i ∈ l, (vget h.streams i {}).bound = none) : l.foldr (fun i acc =>
      if (vget h.streams i {}).bound = some r then some (Fin.ofNat 8 i) else acc) none = (none : Option StreamId) := by
    induction l with
    | nil => rfl
    | cons i l ih =>
      rw [List.foldr_cons, ih fun j hj => hl j (List.mem_cons_of_mem _ hj), hl i (List.mem_cons_self ..)]
      simp
  exact e' _ fun i hi => by simpa using List.all_eq_true.mp e i hi

/-- No stream of the hart of `base` is bound, whatever the configuration of its tile. -/
theorem base_unbound (rs : List Reg) : Unbound base.me rs := unbound_of (by decide +kernel) rs

theorem tile_unbound (vl vrows vcfg : Nat) (rs : List Reg) : Unbound (withTile base vl vrows vcfg).me rs := base_unbound rs

/-- A tile of 2 x 4 at SEW 64, 3 x 5 at SEW 8, 1 x 8 at SEW 16 with BF, and an empty one at SEW 32. -/
def tiles : List State := [base, withTile base 5 3 0, withTile base 8 1 5, withTile base 0 1 2]

theorem tiles_admit {us : State → List Uses} (h : tiles.all (fun s => (us s).all (admits s)) = true) :
    ∀ s ∈ tiles, ∀ u ∈ us s, s.Admits u := fun s hs => admits_all (List.all_eq_true.mp h s hs)

theorem pair_of {α β : Type} {x : α × Option β} (h : x.2 = none) : ∃ a, x = (a, none) := ⟨x.1, Prod.ext rfl h⟩

theorem values_of {ε α : Type} [Inhabited α] {f : Nat → Except ε α} {n : Nat} (h : ∀ l, l < n → (f l).isOk = true) :
    ∃ g : Nat → α, ∀ l, l < n → f l = .ok (g l) := by
  refine ⟨fun l => match f l with | .ok a => a | .error _ => default, fun l hl => ?_⟩
  obtain ⟨a, e⟩ := ok_of (h l hl)
  simp only [e]

/-- An open strip over the word that the accesses below name. -/
def opened : State := base.modifyMe fun h => { h with strip := [.stores [(.main 0x41004, 4, 0x77777777)] []], stripCount := 1 }

/-- The hypotheses of MatrixMultiply on the operands of the work. -/
abbrev Multiplies (t : State) (w : MmaWork) : Prop :=
  Settled t ∧ t.me.rowDone = 0 ∧ t.me.pace = none ∧ t.me.cmds = [] ∧ w.a.misaligned 4 = none ∧ w.b.misaligned 4 = none ∧
    ∀ l, l < 32 → Succeeds (t.mmaLine w false l) ∧ Succeeds (t.mmaLine w true l)

theorem lines_of {t : State} {w : MmaWork}
    (e : (List.range 32).all (fun l => (t.mmaLine w false l).isOk && (t.mmaLine w true l).isOk) = true) :
    ∀ l, l < 32 → Succeeds (t.mmaLine w false l) ∧ Succeeds (t.mmaLine w true l) := by
  intro l hl
  have g := List.all_eq_true.mp e l (List.mem_range.mpr hl)
  rw [Bool.and_eq_true] at g
  exact ⟨ok_of g.1, ok_of g.2⟩

/-! ### Decoding: worked words, and a word of every other encoding -/

theorem test_decode_formats_and_registers : List.map decode
    [[0x04304220], [0x80304740], [0x803040C0, 0x3FC00000], [0x54584083]] =
    List.map (fun i => .ok (i, []))
      [.add 3 1 (.reg 2 false) true, .vfadd 3 1 (.scalar 7 false) false, .vfadd 3 1 (.lit 0x3FC00000) false, .ldd 5 33 2 false] := by rfl

theorem test_decode_scalar_control : List.map decode
    [[0x04720905], [0x0C48BFFD], [0x101FFFFF], [0x1823FC00], [0x1C600011], [0x30304200], [0x303040C7, 0x3F000000], [0x4033FFFB], [0x45F0000C], [0x4807C000], [0x48512301], [0x5013FFFA], [0x4C00000B]] =
    List.map (fun i => .ok (i, []))
      [.divs 7 8 (.reg 9 false) false, .addi 4 34 16381, .li 1 1048575, .fli 2 261120, .lc 6 17, .fadd 3 1 (.reg 2 false) false, .ffma 3 1 (.lit 0x3F000000) false, .br 3 1 131067, .jal 31 12, .jr 0 31 false, .jtab 5 4 35 false false, .strip 1 3 65530, .mark 11] := by rfl

theorem test_decode_main_memory : List.map decode
    [[0x54584083], [0x5428FFCA], [0x549BE004]] =
    List.map (fun i => .ok (i, []))
      [.ldd 5 33 2 false, .stw 2 35 255 false false, .ldbs 9 47 128 false] := by rfl

theorem test_decode_copy_engine_and_typed_buffers : List.map decode
    [[0xD4990C00], [0xD4C900C1, 0xC0300142], [0xD4A24002], [0xD4294E03], [0xD6608004], [0xD40080C5, 0x00000001], [0xD4B08006]] =
    List.map (fun i => .ok (i, []))
      [.cpy 9 36 12 false false, .cpymma 12 36 false 3 0 1 4 0 true, .cpywait 10 9 false, .cbinit 2 37 14 false false, .cbwait 38 2, .cbrel 0 2 (.lit 0x1), .cbstat 11 2] := by rfl

theorem test_decode_streams_and_vector_memory : List.map decode
    [[0xA0180000], [0xA0284044], [0xA038BF81], [0xA448C500], [0xA4218003], [0xA4780804], [0xA4990A05], [0xB0188000], [0xB0124001], [0xB000C003], [0xB0294604], [0xB0704005]] =
    List.map (fun i => .ok (i, []))
      [.vld 1 32 0 false, .vst 2 33 1 false false, .vlds 3 34 254 false, .vldx 4 35 5 false false, .vstc 2 6 false, .vscadd 7 32 8 false false, .cappend 9 36 10 false false, .sspec 1 34 false, .sbind 1 9 false, .sbar 3 false, .scond 2 37 (.reg 6 false) false, .spos 7 1] := by rfl

theorem test_decode_vector_integer_and_masks : List.map decode
    [[0x60304200], [0x606180C9, 0x00000003], [0x64504200], [0x64108303], [0x90204748], [0x9060C0CF, 0x00000005], [0x94414001], [0x98108009], [0x9840800D], [0x9850C00E], [0xB81000C0, 0x00000010], [0xB8200101], [0xB8300006]] =
    List.map (fun i => .ok (i, []))
      [.vadd 3 1 (.reg 2 false) false, .vshl 6 6 (.lit 0x3) false, .vadc 5 1 (.reg 2 false) false, .vcmplt 1 2 (.reg 3 false) false, .vslideup 2 1 (.scalar 7 false) false, .vextract 6 3 (.lit 0x5) false, .vtrans 4 5 false, .mshup 1 2, .mpop 4 2, .mfirst 5 3, .vconf 1 (.lit 0x10), .vsetl 2 (.reg 1 false), .gang 3] := by rfl

theorem test_decode_vector_float_and_reductions : List.map decode
    [[0x80304200], [0x80504208], [0x8010830A], [0x84210800], [0x8460CA43], [0x8400C505], [0x84714006], [0x9020C442], [0x908240C1, 0x00000006]] =
    List.map (fun i => .ok (i, []))
      [.vfadd 3 1 (.reg 2 false) false, .vffms 5 1 (.reg 2 false) false, .vfcmplt 1 2 (.reg 3 false) false, .vfcvt 2 4 1 0 false, .vquant 6 3 10 false false, .vamax 3 5 false, .amscl 7 5 0, .vredmax 2 3 (.scalar 4 false) false, .vredfsum 8 9 (.lit 0x6) false] := by rfl

theorem test_decode_matrix_and_accumulators : List.map decode
    [[0xC010017A], [0xC0408900], [0xC002032E], [0xC4108500], [0xC4204001], [0xC4200002], [0xC4604943], [0xC411C0C4, 0x00000000], [0xC4198005], [0xC4198006], [0xC4004307], [0xC4290C08], [0xC42000CA, 0x00000800], [0xC440400B]] =
    List.map (fun i => .ok (i, []))
      [.mma 1 0 1 7 2 true, .mma 4 2 9 0 0 false, .mma 0 8 3 2 3 true, .zscacc 1 2 5 false, .zzero 2 1, .zrel 2, .zext 6 1 (.scalar 9 false), .zins 1 7 (.lit 0x0) false, .zsave 1 38 false, .zload 1 38 false, .zamax 1 3, .mdset 2 36 (.reg 12 false) false, .mdadv 2 (.lit 0x800), .zstat 4 1] := by rfl

theorem test_decode_generator_unit : List.map decode
    [[0xD090C0C0, 0x3F000000], [0xD0900781], [0xD0910502], [0xD0A98003], [0xD0424004], [0xD07240C5, 0x00000003]] =
    List.map (fun i => .ok (i, []))
      [.kset 9 3 (.lit 0x3F000000) false, .kseed 9 (.const 7), .korg 9 4 (.reg 5 false) false, .kfreq 10 38 false, .vgen 4 9, .kget 7 9 (.lit 0x3)] := by rfl

theorem test_decode_synchronisation_and_promises : List.map decode
    [[0x58588640], [0x585886C9], [0x5878C80A], [0xD8088000], [0xD8088001], [0xDA28C402], [0xD8000304], [0xD8100505], [0xD8690007], [0xD801C0CA, 0x00000001], [0xD880C00B], [0xDC094000], [0xDC994A01], [0xDC996602], [0xDCB94003], [0xDCC94004]] =
    List.map (fun i => .ok (i, []))
      [.amoadd 5 34 6 1 false false, .amocas 5 34 6 3 false false, .amofadd 7 35 8 0 false false, .acq 0 34 false, .rel 34 false, .bind 34 35 (.reg 4 false) false, .fenceIfetch, .wmpub 1 (.reg 5 false), .bar 6 36 false, .notify 7 (.lit 0x1) false, .waitn 8 3, .pinit 37 false, .pfill 9 37 (.reg 10 false) false, .peq 9 37 38 false false, .pwait 11 37 false, .ptest 12 37 false] := by rfl

theorem test_decode_consistency_far : List.map decode
    [[0xE23100C0, 0x00000008], [0xE2310940], [0xE2300001], [0xE058C002]] =
    List.map (fun i => .ok (i, []))
      [.xred 35 4 (.lit 0x8) false, .xred 35 4 (.scalar 9 false) false, .xbar 35, .xwait 5 35 false] := by rfl

theorem test_decode_advice : List.map decode
    [[0xF00040C0, 0x00000010], [0xF00080C1, 0x00000003], [0xF00000C2, 0x00000002], [0xF00000C4, 0x000000F0], [0xF020C0C5, 0x00000028], [0xF00100C6, 0x00000006], [0xF01040C7, 0x00000400], [0xF0500388], [0xF0190009], [0xF000000A], [0xF400000B]] =
    List.map (fun i => .ok (i, []))
      [.apf 0 1 (.lit 0x10), .ahome 2 (.lit 0x3), .aprio (.lit 0x2), .awake (.lit 0xF0), .aj 2 3 (.lit 0x28), .aloop 4 (.lit 0x6), .aadd 1 1 (.lit 0x400), .ali 5 (.const 3), .asnap 1 36, .aend, .await 11] := by rfl

theorem test_decode_launch_and_scheduling : List.map decode
    [[0xE4390000], [0xE4390001], [0xE4518202], [0xE4500103], [0xE4000004], [0xE4700505], [0xE4818306]] =
    List.map (fun i => .ok (i, []))
      [.launch 3 36 false, .launchnb 3 36 false, .cancel 5 6 2 false, .cwait 5 0 1 false, .exit, .self 7 5, .cntrd 8 6 3 false] := by rfl

theorem test_decode_traps_and_preemption : List.map decode
    [[0xE80000C0, 0x00000007], [0xE8000101], [0xE8950002], [0xE8B00503], [0xE8000004], [0xE8400005], [0xE8600006], [0xE8028007], [0xE8398108], [0xE8200009]] =
    List.map (fun i => .ok (i, []))
      [.trap (.lit 0x7), .rteKill, .sysrd 9 20, .syswr 11 (.reg 5 false), .brk, .rdcyc 4, .rdnrg 6, .slotset 10 false, .ctxswSin 3 38 false, .wfn 2] := by rfl

theorem test_decode_others_1 : List.map decode
    [[0x04B7C581], [0x05B48482], [0x0420CE83], [0x04348E84], [0x055553A6], [0x048092A7], [0x045484A8], [0x0444D389], [0x0444978A], [0x050592AB], [0x05378FAC], [0x05A1978D], [0x05141DAE], [0x0540C4AF], [0x0992C5A0], [0x09F58001], [0x09948022], [0x08B5C023], [0x09441384], [0x09F25085], [0x0985CAA6], [0x09735DA7], [0x09F3CC88], [0x0821D989], [0x08D35E8A], [0x08F3528B], [0x09C489AC], [0x31674D81], [0x30614882], [0x3106D3A3], [0x30114024], [0x312314A5], [0x31771186], [0x31D719A8], [0x30D344A9], [0x3070C78A], [0x30B5000B], [0x3040400C], [0x31211F8D], [0x31C1C02E]] =
    List.map (fun i => .ok (i, []))
      [.sub 11 31 (.const 5) false, .mul 27 18 (.const 4) false, .mulhs 2 3 (.const 14) false, .mulhu 3 18 (.const 14) false, .divu 21 21 (.const 19) true, .rems 8 2 (.const 18) true, .remu 5 18 (.const 4) true, .and 4 19 (.const 19) false, .or 4 18 (.const 23) false, .xor 16 22 (.const 18) true, .andn 19 30 (.const 15) true, .shl 26 6 (.const 23) false, .shr 17 16 (.const 29) true, .sra 20 3 (.const 4) true, .rotl 25 11 (.const 5) true, .clz 31 22 false, .ctz 25 18 true, .popc 11 23 true, .mins 20 16 (.const 19) false, .maxs 31 9 (.const 16) false, .minu 24 23 (.const 10) true, .maxu 23 13 (.const 29) true, .slt 31 15 (.const 12) false, .sltu 2 7 (.const 25) false, .seq 13 13 (.const 30) false, .cmov 15 13 (.const 18) false, .exts 28 18 (.const 9) true, .fsub 22 29 (.const 13) false, .fmul 6 5 (.const 8) false, .fdiv 16 27 (.const 19) true, .fsqrt 1 5 true, .fmin 18 12 (.const 20) true, .fmax 23 28 (.const 17) false, .feq 29 28 (.const 25) true, .flt 13 13 (.const 4) true, .fle 7 3 (.const 7) false, .fcvtif 11 20 false, .fcvtfi 4 1 false, .fsgnj 18 4 (.const 31) false, .fclass 28 7 true] := by rfl

theorem test_decode_others_2 : List.map decode
    [[0x54554260], [0x55430401], [0x54470422], [0x55040285], [0x54510626], [0x55824408], [0x5477C7E9], [0x5574878B], [0x595703E1], [0x59E18C62], [0x59469A43], [0x59868864], [0x598041A5], [0x5875D4A6], [0x59F30347], [0x5901CB68], [0x61079581], [0x61E35A82], [0x61D18EA3], [0x61A7D8A4], [0x6187C385], [0x605045A6], [0x6146D4A7], [0x61248588], [0x61161EAA], [0x61B707AB], [0x60A448AC], [0x61239B8D], [0x61D3D6AE], [0x6121518F], [0x65919481], [0x64541482], [0x64B591A4], [0x65D48285], [0x642644A6], [0x65975EA7], [0x65444008], [0x65724029], [0x6514802A], [0x6517C8AB]] =
    List.map (fun i => .ok (i, []))
      [.ldb 5 21 9 true, .ldh 20 12 16 false, .ldw 4 28 16 true, .ldhs 16 16 10 false, .ldws 5 4 24 true, .stb 24 9 16 false false, .sth 7 31 31 true false, .std 23 18 30 false false, .amoand 21 28 3 3 true false, .amoor 30 6 12 1 true false, .amoxor 20 26 26 1 false false, .amomins 24 26 8 1 true false, .amomaxs 24 1 1 2 true false, .amominu 7 23 20 2 true false, .amomaxu 31 12 3 1 false false, .amoswap 16 7 11 1 true false, .vsub 16 30 (.const 21) false, .vmul 30 13 (.const 26) false, .vmulhs 29 6 (.const 14) true, .vmulhu 26 31 (.const 24) true, .vmadd 24 31 (.const 3) false, .vand 5 1 (.const 5) true, .vor 20 27 (.const 20) true, .vxor 18 18 (.const 5) false, .vshr 17 24 (.const 30) true, .vsra 27 28 (.const 7) true, .vmins 10 17 (.const 8) true, .vmaxs 18 14 (.const 27) false, .vminu 29 15 (.const 22) true, .vmaxu 18 5 (.const 17) false, .vsbc 25 6 (.const 20) false, .vcmpeq 5 16 (.const 20) false, .vcmpltu 11 22 (.const 17) true, .vcmple 29 18 (.const 2) false, .vcmpleu 2 25 (.const 4) true, .vmerge 25 29 (.const 30) true, .vabs 20 17 false, .vclz 23 9 true, .vpopc 17 18 true, .vnarrow 17 31 (.const 8) true] := by rfl

theorem test_decode_others_3 : List.map decode
    [[0x65B3C00C], [0x64E1002D], [0x80F2C381], [0x8031D682], [0x81F5D5A3], [0x80974004], [0x81F3C885], [0x81D40686], [0x817391A7], [0x80730BA9], [0x80B48F8B], [0x80B4402C], [0x8117C00D], [0x8047800E], [0x85D10B21], [0x84277A22], [0x85915B64], [0x90D152A0], [0x90324283], [0x91D0C984], [0x90351C85], [0x91C10FA6], [0x91E78987], [0x9115C889], [0x9021872A], [0x9116400B], [0x90A3C00C], [0x9093000D], [0x91A0018E], [0x94105880], [0x94878F02], [0x956412A3], [0x9882C700], [0x99B75701], [0x99854502], [0x98D30203], [0x99B14004], [0x9810C005], [0x99560006], [0x99D24007]] =
    List.map (fun i => .ok (i, []))
      [.vwidens 27 15 false, .vwidenu 14 4 true, .vfsub 15 11 (.const 3) false, .vfmul 3 7 (.const 22) false, .vfdiv 31 23 (.const 21) true, .vfsqrt 9 29 false, .vfmin 31 15 (.const 8) false, .vfmax 29 16 (.const 6) false, .vffma 23 14 (.const 17) true, .vfcmpeq 7 12 (.const 11) true, .vfcmple 11 18 (.const 15) false, .vfabs 11 17 true, .vfneg 17 31 false, .vfclass 4 30 false, .vcvtif 29 4 1 3 true, .vcvtfi 2 29 7 2 true, .vdequant 25 5 27 true false, .vredsum 13 5 (.const 18) true, .vredmin 3 9 (.const 2) false, .vredfmax 29 3 (.const 9) false, .vredfmin 3 20 (.const 28) false, .vredand 28 4 (.const 15) true, .vredor 30 30 (.const 9) false, .vslidedn 17 23 (.const 8) false, .vperm 2 6 7 true false, .vcompress 17 25 false, .vexpand 10 15 false, .viota 9 12, .vbcast 26 (.const 1), .vinsert 1 1 (.const 24) false, .vzip 8 30 15 false false, .vunzip 22 16 (.const 18) true, .mand 8 11 7, .mor 27 29 23, .mxor 24 21 5, .mandn 13 12 2, .mnot 27 5, .mmov 1 3, .msbf 21 24, .msif 29 9] := by rfl

theorem test_decode_others_4 : List.map decode
    [[0x98E18008], [0x9820C00A], [0x9960000B], [0x99B0000C], [0xA0D70462], [0xA14205E5], [0xA4F18621], [0xA4124C22], [0xB0800002], [0xB0200006], [0xB1F00007], [0xB9D00A82], [0xB8600183], [0xB8301084], [0xB8800007], [0xB8044008], [0xB800C029], [0xB9B0C00A], [0xB8000005], [0xD8534003], [0xD8D04026], [0xD8A54008], [0xD800C009], [0xD8000004], [0xD8000104], [0xD8000204], [0xE9674028], [0xE992C228], [0xE8528308], [0xE826C428], [0xE985C508], [0xE8000001], [0xF0001E83]] =
    List.map (fun i => .ok (i, []))
      [.msof 14 6, .mshdn 2 3, .mset 22, .mclr 27, .vldff 13 28 17 true, .vsts 20 8 23 true false, .vstx 15 6 6 true false, .vldl 1 9 12 true false, .sunbind 8, .sstart 2, .swait 31, .vsetr 29 (.const 10), .vsetcfg 6 (.const 1), .vsetst 3 (.const 16), .ungang 8, .vsave 17 false, .vrestore 3 true, .vcfgrd 27 3, .stripc, .unbind 5 13 false, .wmlink 13 1 true, .barjoin 10 21 false, .barleave 3 false, .fenceFull, .fenceRel, .fenceAcq, .ctxswSout 22 29 true, .ctxswVout 25 11 true, .ctxswVin 5 10 false, .ctxswZout 2 27 true, .ctxswZin 24 23 false, .rteResume, .aorder (.const 30)] := by rfl

/-- A term for each legality check of R40 and R47, and each is refused. -/
theorem test_illFormed : [Instr.add 1 2 (.scalar 3 false) false, .fadd 1 2 (.scalar 3 false) false, .scond 1 34 (.scalar 3 false) false,
    .vconf 1 (.scalar 3 false), .syswr 1 (.scalar 3 false), .syswr 26 (.lit 0), .kget 1 9 (.scalar 3 false),
    .notify 1 (.scalar 3 false) false, .trap (.scalar 3 false), .vredsum 1 2 (.reg 3 false) false,
    .vbcast 1 (.reg 3 false), .zext 1 2 (.reg 3 false), .vfcvt 1 2 6 0 false, .vfcvt 1 2 0 7 false, .vcvtif 1 2 6 0 false,
    .vcvtfi 1 2 0 7 false, .amscl 1 2 7, .vcfgrd 1 8, .mma 0 1 2 6 0 false, .mma 0 1 2 10 0 false, .mma 0 1 2 15 0 false,
    .cpymma 2 34 false 0 1 2 6 0 false, .zzero 0 3, .cancel 1 2 0 false, .cwait 1 2 5 false, .cntrd 1 2 0 false, .self 1 10,
    .sysrd 1 26, .apf 1 2 (.reg 3 true), .ahome 1 (.scalar 3 false), .ali 1 (.reg 3 true), .aprio (.scalar 3 false),
    .aj 0 1 (.const 3), .aloop 1 (.reg 3 true)].all (fun i => !i.wf) = true := by decide

theorem test_wellFormed : [Instr.add 1 2 (.const 3) false, .syswr 25 (.lit 0), .vredsum 1 2 (.scalar 3 false) false,
    .vfcvt 1 2 5 5 false, .amscl 1 2 6, .vcfgrd 1 7, .mma 0 1 2 9 3 true, .zzero 0 2, .cancel 1 2 4 false, .self 1 9,
    .sysrd 1 25, .aj 0 1 (.lit 3), .stripc].all Instr.wf = true := by decide

/-- Words that the opcode map does not list (R46, R47): a reserved major, and a function code past the last of its major. -/
theorem test_decode_rejects : List.map (fun w => decode [w])
    [0x00000000, 0xFC000000, 0xE800000A, 0xF000000B] =
    [.error .major, .error .major, .error .function, .error .function] := by rfl

/-! ### The statements' hypotheses: scalar instructions -/

/-- IntegerResults, RegisterFrame: every kind of B, and g0, g31 and a15 at the ends of the fields. -/
theorem witness_binary : ∀ u ∈ [binaryUses 3 1 (.reg 2 true) true, binaryUses 0 47 (.reg 0 false) false,
    binaryUses 47 31 (.const 63) true, binaryUses 31 0 (.lit 0xFFFFFFFF) false], base.Admits u :=
  admits_all (by decide +kernel)

/-- DivisionNeverTraps: R81's rows; a divisor of 0, the quotient that overflows, and the signs. -/
theorem witness_division : ∀ e ∈ ([(5, 0), (BitVec.intMin 64, BitVec.allOnes 64), (7, -2), (-7, 2)] : List (Word × Word)),
    (withX base [(1, e.1), (2, e.2)]).Admits (binaryUses 3 1 (.reg 2 true) true) ∧
      (withX base [(1, e.1), (2, e.2)]).me.readX 1 = e.1 ∧
      (withX base [(1, e.1), (2, e.2)]).me.srcWord (.reg 2 true) = e.2 := by
  intro e he
  fin_cases he <;> exact ⟨admits_of (by decide +kernel), by decide +kernel, by decide +kernel⟩

/-- UnaryAndConstantResults, FloatResults: each shape. -/
theorem witness_unary : ∀ u ∈ [unaryUses 3 1 true, unaryUses 0 47 false, ternaryUses 3 1 (.reg 2 true) true,
    ternaryUses 47 31 (.lit 0x3F000000) false, constUses 0, constUses 47], base.Admits u :=
  admits_all (by decide +kernel)

/-- ControlTransfers, BR: each condition admitted, and the words after it and 64 bytes on where it may land. -/
theorem witness_branch :
    (∀ u ∈ [({ regs := [⟨0, 1, isScalar 1⟩], sources := [⟨0, .x, 1, false⟩] } : Uses),
      { regs := [⟨0, 7, isMask 7⟩], vown := true }], base.Admits u) ∧
    (∃ s', base.land (BitVec.ofInt 64 (base.me.pc.toInt + 4 * (16 : BitVec 17).toInt)) = .ok s') ∧
    (withX base [(1, 0)]).me.readX 1 = 0 ∧ (withX base [(1, -5)]).me.readX 1 = -5 ∧
    (4 < base.me.tile ∧ bitAt (base.me.readM 1) 4 = true) ∧
    ∀ i, i < (withTile base 0 1 3).me.tile → bitAt ((withTile base 0 1 3).me.readM 1) i = false :=
  ⟨admits_all (by decide +kernel), ok_of (by decide +kernel), by decide +kernel, by decide +kernel, by decide +kernel,
    by decide +kernel⟩

/-- The jump table at 0x44000 has one entry, index 2, which leads 256 words on. -/
def jtabState (a d : Word) : State := withX (withMem base [(0x44008, 0x100)]) [(4, a), (5, d)]

def jtabUses : Uses :=
  { regs := [⟨2, 5, isG 5⟩, ⟨0, 4, isG 4⟩, ⟨1, 35, isAddress 35⟩]
    sources := [⟨0, .x, 4, true⟩, ⟨1, .x, 35, false⟩, ⟨2, .x, 5, false⟩] }

/-- ControlTransfers, JAL, JR and JTAB: a target on the page of the program, an index in the table and one at its end. -/
theorem witness_jumps :
    base.Admits (constUses 3) ∧ (∃ s', base.land (BitVec.ofInt 64 (base.me.pc.toInt + 4 * (12 : BitVec 20).toInt)) = .ok s') ∧
    (withX base [(1, 0x10100)]).Admits (unaryUses 3 1 true) ∧ (∃ s', (withX base [(1, 0x10100)]).land 0x10100 = .ok s') ∧
    (jtabState 3 3).Admits jtabUses ∧ (jtabState 2 3).Admits jtabUses ∧ (jtabState 2 3).me.readX 35 = 0x4000 ∧
    ∃ n s1, (jtabState 2 3).loadBytes (.scalar false) (0x4000 + 4 * 2) 4 = .ok (n, s1) ∧
      ∃ s', s1.land (s1.me.pc + 4 * (BitVec.ofNat 32 n).signExtend 64) = .ok s' := by
  refine ⟨admits_of (by decide +kernel), ok_of (by decide +kernel), admits_of (by decide +kernel),
    ok_of (by decide +kernel), admits_of (by decide +kernel), admits_of (by decide +kernel), by decide +kernel, ?_⟩
  have h : ((jtabState 2 3).loadBytes (.scalar false) (0x4000 + 4 * 2) 4).isOk = true := by decide +kernel
  obtain ⟨⟨n, s1⟩, e⟩ := ok_of h
  refine ⟨n, s1, e, ok_of ?_⟩
  have : (match (jtabState 2 3).loadBytes (.scalar false) (0x4000 + 4 * 2) 4 with
    | .ok (n, s1) => (s1.land (s1.me.pc + 4 * (BitVec.ofNat 32 n).signExtend 64)).isOk
    | .error _ => false) = true := by decide +kernel
  simpa only [e] using this

/-- ControlTransfers, STRIP: a count below, at and above the tile, with every selected register. -/
theorem witness_strip : ∀ n ∈ [(0 : Word), 8, 9], (withX base [(1, n)]).Admits
      { regs := [⟨3, 1, isG 1⟩]
        sources := ⟨3, .x, 1, false⟩ ::
          (((List.range 4).filter (15 : BitVec 4).getLsbD).map fun j => ⟨3, .x, BitVec.ofNat 6 (32 + j), false⟩)
        dests := [(.x, 1)] } := by
  intro n hn
  fin_cases hn <;> exact admits_of (by decide +kernel)

/-- A book of two words for the launch of the hart that acts. -/
def book : Book := { launch := 7, version := 0, code := [0xE8000000, 0xE8000000], index := [(11, 0)] }

def withBook (s : State) (marks : Nat) : State :=
  s.modifyCore 0 fun k =>
    { k with
      books := [book]
      advice := k.advice.set 0 { k.advice[0] with
        marks := (List.range marks).map fun i => { id := BitVec.ofNat 20 i, snap := Vector.replicate 48 none } } }

/-- MarkCompletes: no book, a book with a queue one short of full, and a full queue. -/
theorem witness_mark : base.cur.ctx = userId 0 ∧ (base.core 0).newestBook base.me.link.launch = none ∧
    ((withBook base 15).core 0).newestBook (withBook base 15).me.link.launch = some book ∧
    book.version ≤ (withBook base 15).me.bookVersion ∧ ((withBook base 15).core 0).advice[0].marks.length = 15 ∧
    ((withBook base 16).core 0).advice[0].marks.length = 16 := by decide +kernel

/-- LoadsComplete, StoresComplete, MemoryFrame: each width at an aligned address on a memory page, with and without an
open strip over it; the largest and the smallest offset. -/
theorem witness_access : (∀ u ∈ [loadUses 3 32 true, loadUses 0 47 false, storeUses 0 32 true true, storeUses 47 32 false false],
      opened.Admits u) ∧
    (∀ n ∈ [1, 2, 4, 8], (opened.me.readX 32).toNat % n = 0 ∧
      opened.place (.scalar (n == 8)) .load (opened.me.readX 32) = .ok (.main 0x41000) ∧
      opened.place (.scalar (n == 8)) .store (opened.me.readX 32) = .ok (.main 0x41000) ∧
      opened.meetsPoison (.main 0x41000) n = false) ∧
    (BitVec.ofInt 64 ((opened.me.readX 33).toInt + (-128 : BitVec 8).toInt * 8)).toNat % 8 = 0 ∧
    opened.place (.scalar true) .load (BitVec.ofInt 64 ((opened.me.readX 33).toInt + (-128 : BitVec 8).toInt * 8)) =
      .ok (.main 0x41C00) :=
  ⟨admits_all (by decide +kernel), by decide +kernel, by decide +kernel, by decide +kernel⟩

/-- AtomicsComplete, MemoryFrame: an aligned word of main memory under an open strip; DET with FP64 sums in scope 0. -/
theorem witness_atomic : (∀ u ∈ [atomicUses false 3 32 2 true true none, atomicUses false 0 47 31 false false (some false),
      atomicUses true 3 32 2 true true (some true)], opened.Admits u) ∧
    (∀ b ∈ [false, true], let s1 := opened.begun (atomicUses b 3 32 2 true true none)
      (s1.me.readX 32).toNat % 8 = 0 ∧ s1.place .memory .rmw (s1.me.readX 32) = .ok (.main 0x41000) ∧
        s1.dev.isPoisoned 0x41000 = false ∧ s1.blocksWrite [(.main 0x41000, 8)] = false ∧ s1.dev.mem.wf = true ∧ s1.me.det = false) ∧
    (let s1 := (withX opened [(3, 0x7777777700000000)]).begun (atomicUses true 3 32 2 true true none)
     word (s1.getWord 0x41000) = s1.me.readX 3 ∧
       word ((opened.begun (atomicUses true 3 32 2 true true none)).getWord 0x41000) ≠ opened.me.readX 3) ∧
    let s1 := (withTile opened 4 2 0x83).begun (atomicUses false 3 32 2 true true none)
    s1.me.det = true ∧ s1.me.scope = 0 :=
  ⟨admits_all (by decide +kernel), by decide +kernel, by decide +kernel, by decide +kernel⟩

/-- MemoryFrame: a strip with a store and an addition, and bytes on either side of them. -/
theorem witness_stripFrame :
    let add : ScatterAdd := { pa := 0x41010, log2Size := 2, isFloat := false, bf := false, addend := 1 }
    let s := opened.modifyMe fun h => { h with strip := h.strip ++ [.scatter add true] }
    s.dev.mem.wf = true ∧ ∀ x ∈ [0x41003, 0x41008, 0x4100F, 0x41014],
      (x < 0x41004 ∨ 0x41004 + 4 ≤ x) ∧ (x < add.pa.toNat ∨ add.pa.toNat + 2 ^ add.log2Size.val ≤ x) := by decide +kernel

/-! ### Vector instructions -/

/-- VectorIntegerResults, VectorCompareAndCarry, RegisterFrame: D also a source, each kind of B, the last vector name. -/
theorem witness_vectorInteger : ∀ s ∈ tiles, ∀ u ∈ [s.elemUses .vint 3 3 (.reg 2 true) true false,
      s.elemUses .vint 0 31 (.scalar 47 false) false false, s.elemUses .vint 3 1 (.lit 5) true true,
      s.unaryUses .vint 31 0 true, s.compareUses .vint 7 1 (.const 63) true], s.Admits u :=
  tiles_admit (us := fun s => _) (by decide +kernel)

/-- VectorPairResults: at SEW 32 and 8, pairs at both ends of the names. -/
theorem witness_vectorPair : ∀ s ∈ [withTile base 6 2 2, withTile base 20 3 0],
    s.me.sewCode ≠ 3 ∧ s.me.names.toNat ≤ 64 ∧
    ∀ u ∈ ([{ s.elemUses .vint 3 30 (.reg 2 true) true false with
        regs := [⟨2, 3, s.me.isVector 3⟩, ⟨0, 30, decide ((30 : Reg).toNat + 1 < s.me.names.toNat)⟩] ++ srcField s.me.isVector (.reg 2 true)
        sources := ⟨0, .vs 2, 30, true⟩ :: srcSource .v (.reg 2 true)
        reads := srcTiles (.reg 2 true) },
      { s.unaryUses .vint 30 0 true with
        regs := [⟨2, 30, decide ((30 : Reg).toNat + 1 < s.me.names.toNat)⟩, ⟨0, 0, s.me.isVector 0⟩]
        dests := [(.vs 2, 30)]
        writes := [] }] : List Uses), s.Admits u := by
  intro s hs
  fin_cases hs <;> exact ⟨by decide +kernel, by decide +kernel, admits_all (by decide +kernel)⟩

/-- MaskResults, PermutationResults: masks and vectors by the uses of their entries. -/
theorem witness_masks : ∀ s ∈ tiles, ∀ u ∈ ([s.maskUses [⟨2, 7, isMask 7⟩, ⟨0, 0, isMask 0⟩, ⟨1, 2, isMask 2⟩],
      s.maskUses [⟨2, 0, isMask 0⟩, ⟨0, 7, isMask 7⟩], s.maskUses [⟨2, 7, isMask 7⟩],
      { s.maskUses [⟨2, 47, isScalar 47⟩, ⟨0, 7, isMask 7⟩] with dests := [(.x, 47)] },
      { s.maskUses [⟨2, 3, s.me.isVector 3⟩, ⟨0, 1, isMask 1⟩] with dests := [(.v, 3)], writes := [3] },
      { s.maskUses (⟨2, 3, s.me.isVector 3⟩ :: srcField s.me.isVector (.lit 9)) with
        len := srcBytes (.lit 9), sources := srcSource .v (.lit 9), dests := [(.v, 3)], writes := [3] },
      s.elemUses .vint 3 1 (.scalar 2 true) true false, s.unaryUses .vint 3 1 true, s.elemUses .vint 3 1 (.reg 31 true) true false,
      { s.elemUses .vint 5 1 (.const 3) true false with
        regs := [⟨2, 5, isScalar 5⟩, ⟨0, 1, s.me.isVector 1⟩] ++ srcField s.me.isVector (.const 3), dests := [(.x, 5)], writes := [] },
      { s.maskUses ([⟨2, 3, s.me.isVector 3⟩, ⟨0, 47, isScalar 47⟩] ++ srcField s.me.isVector (.lit 7)) with
        len := srcBytes (.lit 7), sources := ⟨0, .x, 47, true⟩ :: srcSource .v (.lit 7), dests := [(.v, 3)], writes := [3] }] : List Uses),
      s.Admits u :=
  tiles_admit (us := fun s => _) (by decide +kernel)

/-- VectorFloatResults, RegisterFrame: FP64, FP32 under RDN, BF16 under RTZ, and FP16. -/
theorem witness_vectorFloat : ∀ s ∈ [base, withTile base 6 2 0x202, withTile base 8 1 0x105, withTile base 5 3 1],
    ∀ u ∈ ([s.floatUses 3 3 (.reg 2 true) true false, s.floatUses 0 31 (.lit 0x3FC00000) false true,
      { s.compareUses s.me.floatClass 7 1 (.scalar 4 true) true with illegal := s.me.sewCode == 0 },
      s.floatUnaryUses 31 0 true] : List Uses), s.Admits u := by
  intro s hs
  fin_cases hs <;> exact admits_all (by decide +kernel)

def conversionUses (s : State) (d a : Reg) (dst src : Side) (fa : Bool) : Uses :=
  { regs := [⟨2, d, decide (d.toNat + dst.width / s.me.sew - 1 < s.me.names.toNat)⟩,
             ⟨0, a, decide (a.toNat + src.width / s.me.sew - 1 < s.me.names.toNat)⟩]
    vown := true
    sources := [⟨0, if src.width = s.me.sew then .v else .vs (src.width / s.me.sew), a, fa⟩]
    dests := [(if dst.width = s.me.sew then .v else .vs (dst.width / s.me.sew), d)]
    lanes := true
    work := [(s.me.floatClass, s.tileCycles s.me.tile)] }

/-- ConversionAndBlockResults: formats of one width, to a group of 8 at the end of the names, from a group of 2, and
an integer side of each kind. -/
theorem witness_conversion : ∀ e ∈ ([(base, 3, .float .fp64, .int true 64), (withTile base 9 3 0, 24, .float .fp64, .float .e4m3),
      (withTile base 9 3 0, 5, .float .fp16, .float .e5m2), (withTile base 6 1 2, 4, .int false 32, .float .fp64),
      (withTile base 8 1 1, 4, .int true 64, .float .bf16)] : List (State × Reg × Side × Side)),
    e.1.me.sew = min e.2.2.1.width e.2.2.2.width ∧ e.1.me.names.toNat ≤ 64 ∧ e.1.me.vlmax ≠ 0 ∧
      e.1.Admits (conversionUses e.1 e.2.1 1 e.2.2.1 e.2.2.2 true) := by
  intro e he
  fin_cases he <;> exact ⟨by decide +kernel, by decide +kernel, by decide +kernel, admits_of (by decide +kernel)⟩

theorem witness_formats : fmtOfCode 0 = some .fp64 ∧ fmtOfCode 5 = some .e5m2 := by decide

/-- A scale of 2 and a code in g8 and g9, for tiles of one block of 32 elements. -/
def quantState (vcfg : Nat) (code : Word) : State := withX (withTile base 16 2 vcfg) [(8, 0x4000000000000000), (9, code)]

/-- ConversionAndBlockResults: each code, with whole blocks for the last two. -/
theorem witness_quant : ∀ code ∈ [(0 : Word), 1, 2, 3], (quantState 1 code).me.readX 9 = code ∧
    (quantState 1 code).me.tile % 32 = 0 ∧ (quantState 1 code).Admits ((quantState 1 code).quantUses 3 1 8 true true 3 [1] []) ∧
    (quantState 1 code).Admits ((quantState 1 code).quantUses 3 1 8 true true 1 [] [3]) := by
  intro code h
  fin_cases h <;> exact ⟨by decide +kernel, by decide +kernel, admits_of (by decide +kernel), admits_of (by decide +kernel)⟩

/-- ReductionAndAbsmaxResults: counts of 0, 5 and VLMAX at SEW 64, where 5 is longer than a row. -/
theorem witness_reduction : ∀ n ∈ [0, 5, 8], (base.me.srcWord (.lit (BitVec.ofNat 32 n))).toNat = n ∧ n ≤ base.me.vlmaxSew ∧
    ∀ u ∈ ([{ base.elemUses .vint 3 1 (.lit (BitVec.ofNat 32 n)) true false with work := [(.vint, base.tileCycles n)] },
      { base.elemUses .vint 3 1 (.lit (BitVec.ofNat 32 n)) true false with
        illegal := base.me.sewCode == 0, work := [(base.me.floatClass, base.tileCycles n)] }] : List Uses), base.Admits u := by
  intro n h
  fin_cases h <;> exact ⟨by decide +kernel, by decide +kernel, admits_all (by decide +kernel)⟩

/-- ReductionAndAbsmaxResults: the first and the last ring, the largest exponent of a scale, and a ring's largest entry. -/
theorem witness_absmax : (∀ b ∈ [(0 : Reg), 15], base.Admits
      { illegal := base.me.sewCode == 0
        regs := [⟨0, 1, base.me.isVector 1⟩, ⟨1, b, isBelow base.me.ringCount b⟩]
        vown := true, sources := [⟨0, .v, 1, true⟩], reads := [1], lanes := true, commits := true
        work := [(base.me.floatClass, base.tileCycles base.me.tile)] }) ∧
    ∀ b ∈ [(0 : Reg), 6], base.Admits
      { illegal := decide (7 ≤ b.toNat)
        regs := [⟨2, 47, isScalar 47⟩, ⟨0, 15, isBelow base.me.ringCount 15⟩]
        vown := true, dests := [(.x, 47)], work := [(base.me.floatClass, base.tileCycles base.me.tile)] } := by
  constructor <;> intro b hb <;> fin_cases hb <;> exact admits_of (by decide +kernel)

theorem witness_largestEntry :
    let entries := (vget base.me.vec.rings 15 {}).entries.toList.map fun e => Fmt.fp32.value e.toNat
    ∃ m ∈ entries, m.isNaN = false ∧ ∀ v ∈ entries, v.isNaN = false → v.le m = true :=
  ⟨Fmt.fp32.value 0, by decide +kernel⟩

/-! ### Vector memory and streams -/

/-- Indexes 4, 7, 0, 2, 5, -1, 1 and 3 in v2, from A = 0x1000 on. -/
def gather : State := base.modifyMe fun h => h.writeV 2
  0x0000000000000003_0000000000000001_FFFFFFFFFFFFFFFF_0000000000000005_0000000000000002_0000000000000000_0000000000000007_0000000000000004

def rowPlace (j : Nat) : Place := .main (0x41040 + j / 4 * 64 + j % 4 * 8)
def columnPlace (j : Nat) : Place := .main (0x41040 + j % 4 * 64 + j / 4 * 8)
def indexPlace (j : Nat) : Place := .main (0x41000 + 8 * (([4, 7, 0, 2, 5, 0, 1, 3] : List Nat)[j]?).getD 0 - if j = 5 then 8 else 0)

/-- The addresses of the three kinds, with an offset of one line. -/
def rowAddress : Nat → Word := byRows gather.me (vectorBase gather.me 32 1)
def columnAddress : Nat → Word := byColumns gather.me (vectorBase gather.me 32 1)
def indexAddress : Nat → Word := byIndex gather.me (gather.me.readX 32) 2

/-- VectorLoadsComplete: rows, columns and indexes, one of them negative, all loadable. -/
theorem witness_vectorLoads : Unbound gather.me [3, 2] ∧
    gather.Admits { gather.vmemUses 3 32 true with dests := [(.v, 3)], writes := [3] } ∧
    gather.Admits { gather.indexedUses 3 32 2 true true with dests := [(.v, 3)], reads := [2], writes := [3] } ∧
    (Begins gather .reader .load rowAddress ∧ Loadable gather rowAddress rowPlace (actives gather.me)) ∧
    (Begins gather .reader .load columnAddress ∧ Loadable gather columnAddress columnPlace (actives gather.me)) ∧
    Begins gather .reader .load indexAddress ∧ Loadable gather indexAddress indexPlace (actives gather.me) := by
  refine ⟨unbound_of (by decide +kernel) _, admits_of (by decide +kernel), admits_of (by decide +kernel), ⟨?_, ?_⟩, ⟨?_, ?_⟩, ?_, ?_⟩
  · exact ⟨by decide +kernel, by decide +kernel⟩
  · exact ⟨⟨by decide +kernel, by decide +kernel⟩, by decide +kernel, by decide +kernel⟩
  · exact ⟨by decide +kernel, by decide +kernel⟩
  · exact ⟨⟨by decide +kernel, by decide +kernel⟩, by decide +kernel, by decide +kernel⟩
  · exact ⟨by decide +kernel, by decide +kernel⟩
  · exact ⟨⟨by decide +kernel, by decide +kernel⟩, by decide +kernel, by decide +kernel⟩

/-- Rows 0x6F000 bytes apart: the second lands on a page that is not mapped. -/
def broken : State := base.modifyMe fun h => { h with vst := 0x6F000 }

/-- VectorLoadsComplete, VLDFF: the first element that faults is the first of the second row. -/
theorem witness_firstFault :
    let rows := byRows broken.me (vectorBase broken.me 32 0)
    Begins broken .reader .load rows ∧ 4 < broken.me.tile ∧ broken.me.active 4 = true ∧
      (rows 4).toNat % broken.me.esize = 0 ∧ broken.locate .reader .load (rows 4) = .error causePfault ∧
      broken.me.active 0 = true ∧
      Loadable broken rows (fun j => .main (0x41000 + 8 * j)) ((actives broken.me).filter (· < 4)) := by
  exact ⟨⟨by decide +kernel, by decide +kernel⟩, by decide +kernel, by decide +kernel, by decide +kernel, by decide +kernel,
    by decide +kernel, ⟨⟨by decide +kernel, by decide +kernel⟩, by decide +kernel, by decide +kernel⟩⟩

def storeVectorUses : Uses := { gather.vmemUses 3 32 true with sources := [⟨0, .x, 32, true⟩, ⟨2, .v, 3, true⟩], reads := [3] }
def scatterUses (s : State) : Uses :=
  { s.indexedUses 3 32 2 true true with
    sources := [⟨0, .x, 32, true⟩, ⟨1, .v, 2, true⟩, ⟨2, .v, 3, false⟩], reads := [2, 3] }

/-- VectorStoresAndScatterAdd: stores with room left in the strip, and additions with vst 0 and, at SEW 32 under DET, 1. -/
theorem witness_vectorStores : gather.me.stripCount.toNat < 16 ∧ gather.Admits storeVectorUses ∧
    gather.Admits (scatterUses gather) ∧
    (Begins gather .writer .store rowAddress ∧ Reachable gather .writer .store rowAddress rowPlace (actives gather.me)) ∧
    (Begins gather .writer .store columnAddress ∧ Reachable gather .writer .store columnAddress columnPlace (actives gather.me)) ∧
    Begins gather .writer .store indexAddress ∧ Reachable gather .writer .store indexAddress indexPlace (actives gather.me) :=
  ⟨by decide +kernel, admits_of (by decide +kernel), admits_of (by decide +kernel),
    ⟨⟨by decide +kernel, by decide +kernel⟩, by decide +kernel, by decide +kernel⟩,
    ⟨⟨by decide +kernel, by decide +kernel⟩, by decide +kernel, by decide +kernel⟩,
    ⟨by decide +kernel, by decide +kernel⟩, by decide +kernel, by decide +kernel⟩

def adder (vst vcfg : Nat) : State :=
  (withTile gather 4 2 vcfg).modifyMe fun h => ({ h with vst := word vst } : Hart).writeV 2
    (if vcfg % 4 = 3 then gather.me.readV 2 else 0x00000003_00000001_FFFFFFFF_00000005_00000002_00000000_00000007_00000004)

theorem witness_scatterAdd : ∀ e ∈ [(0, 3), (1, 2), (1, 0x83)], let s := adder e.1 e.2
    s.Admits (scatterUses s) ∧ s.me.stripCount.toNat < 16 ∧ s.me.eltDone = 0 ∧
      (s.me.vst = 0 ∨ (s.me.vst = 1 ∧ s.me.sewCode ≠ 0 ∧ (s.me.det = true → s.me.scope = 0))) ∧
      Reachable s .memory .rmw (byIndex s.me (s.me.readX 32) 2) (fun j => .main (0x41000 + s.me.esize *
        (([4, 7, 0, 2, 5, 0, 1, 3] : List Nat)[j]?).getD 0 - if j = 5 then s.me.esize else 0)) (actives s.me) := by
  intro e h
  fin_cases h <;> exact ⟨admits_of (by decide +kernel), by decide +kernel, by decide +kernel, by decide +kernel,
    by decide +kernel, by decide +kernel⟩

/-- One link, of element 0, to a line on which nothing has been linked since. -/
def linked : State := base.modifyMe fun h =>
  { h with links := [{ active := true, va := 0x1020, place := .main 0x41020, sew := 3, gen := 0 }] }

def linkedUses (s : State) : Uses :=
  { regs := [⟨2, 4, isMask 4⟩, ⟨0, 6, s.me.isVector 6⟩], vown := true, sources := [⟨0, .v, 6, true⟩], reads := [6]
    lanes := true, commits := true, orders := true, work := [(.vmem, s.tileCycles s.me.tile)] }

/-- StoreConditionalAndAppend, VSTC: the link of element 0 holds, and no other element has one. -/
theorem witness_linkedStore :
    let t := linked.begun (linkedUses linked)
    let h := t.me
    let σ := conditional h (vElem h 6) t
    linked.Admits (linkedUses linked) ∧ Unbound h [6] ∧ h.pace = none ∧ t.linksBusy = false ∧
      t.blocksWrite ((h.links.filter (·.active)).map fun l => (l.place, h.esize)) = false ∧
      (linkAt h (σ 0) 0).isSome = true ∧
      ∀ j l, j < h.tile → linkAt h (σ j) j = some l →
        (∀ c n, l.place ≠ .buffer c .w n) ∧ l.place.isLost (σ j).dev = false := by
  refine ⟨admits_of (by decide +kernel), unbound_of (by decide +kernel) _, by decide +kernel, by decide +kernel, by decide +kernel,
    by decide +kernel, fun j l _ hl => ?_⟩
  obtain ⟨e, _⟩ := Option.filter_eq_some_iff.mp hl
  have n : (linked.begun (linkedUses linked)).me.links.length = 1 := by decide +kernel
  obtain rfl : j = 0 := by have := (List.getElem?_eq_some_iff.mp e).1; omega
  have f : (linked.begun (linkedUses linked)).me.links[0]? = linked.me.links[0]? := by decide +kernel
  rw [f] at e
  obtain rfl : _ = l := Option.some.inj e
  exact ⟨fun c n => by simp, by decide +kernel⟩

/-- A work vector at 0x42000 with BASE 0x3000, TAIL 2 and the capacity given; the tile has two elements. -/
def appendState (cap : Nat) : State := withMem (withTile base 2 1 3) [(0x42000, 0x3000), (0x42008, 2), (0x42010, cap)]

def appendUses (s : State) : Uses :=
  { regs := [⟨2, 4, isG 4⟩, ⟨0, 33, isAddress 33⟩, ⟨1, 6, s.me.isVector 6⟩], vown := true
    sources := [⟨0, .x, 33, true⟩, ⟨1, .v, 6, true⟩], dests := [(.x, 4)], reads := [6], lanes := true, commits := true
    orders := true, work := [(.vmem, s.tileCycles s.me.tile)] }

/-- StoreConditionalAndAppend, CAPPEND: room for exactly the two elements, and for one less. -/
theorem witness_append :
    (∀ cap ∈ [4, 3], let s1 := (appendState cap).begun (appendUses (appendState cap))
      (appendState cap).Admits (appendUses (appendState cap)) ∧ Unbound s1.me [6] ∧ s1.me.pace = none ∧ s1.me.appending = none ∧ (s1.me.readX 33).toNat % 32 = 0 ∧
        s1.place .memory .rmw (s1.me.readX 33) = .ok (.main 0x42000) ∧ s1.dev.isPoisoned 0x42000 = false ∧
        ((List.range s1.me.tile).filter s1.me.masked).length = 2 ∧ s1.getWord 0x42008 = 2 ∧ s1.getWord 0x42010 = cap ∧
        s1.blocksWrite [(.main 0x42000, 32)] = false) ∧
    let s1 := (appendState 4).begun (appendUses (appendState 4))
    let h := s1.me
    let addr (k : Nat) : Word := word (s1.getWord 0x42000) + (word (s1.getWord 0x42008) + word k) * word h.esize
    let slots := (List.range 2).map addr
    let places := slots.filterMap fun va => (s1.locate .writer .store va).toOption
    let σ := appended h.esize addr (fun k => vElem h 6 (((((List.range h.tile).filter h.masked))[k]?).getD 0))
      ((((s1.count (.main 0x42000)).putWord 0x42008 (2 + 2)).chargePasses places).modifyMe fun h => h.writeX 4 (word (s1.getWord 0x42008)))
    s1.copyBlocks .writer .store slots h.esize = false ∧
      s1.blocksWrite ((.main 0x42000, 32) :: places.map fun p => (p, h.esize)) = false ∧
      ∀ k, k < 2 → (addr k).toNat % h.esize = 0 ∧ (σ k).locate .writer .store (addr k) = .ok (.main (0x43010 + 8 * k)) := by
  refine ⟨fun cap h => ?_, by decide +kernel⟩
  fin_cases h <;> exact ⟨admits_of (by decide +kernel), unbound_of (by decide +kernel) _, by decide +kernel⟩

/-- R170, R303: another agent may act between the reservation and an element: with TAIL at 4, the first of two slots is
written and the hart waits at CAPPEND; it then writes the second and goes on, and TAIL stays. -/
theorem test_appendInParts :
    let s := (appendState 4).modifyMe fun h => h.writeV 6 (ofWords 64 [0x77, 0x88])
    let look (s : State) : Nat × List Nat × Word := (s.getWord 0x42008, [s.getWord 0x43010, s.getWord 0x43018], s.me.pc)
    let run (s : State) : State := match exec (.cappend 4 33 6 true true) s with
      | .next t => t
      | _ => s
    let t := run (s.modifyMe fun h => { h with pace := some 1 })
    look t = (4, [0x77, 0], s.me.pc) ∧ look (run t) = (4, [0x77, 0x88], s.me.pc + 4) ∧ look (run s) = look (run t) := by
  decide +kernel

/-- CommitsAndFences: an open strip with a store and no float addition; fences of each kind and both scopes. -/
theorem witness_commits : ∀ s ∈ [base, opened, withTile opened 4 2 0x53],
    s.Admits { commits := true } ∧ s.Admits { commits := true, orders := true } ∧
      s.Admits { commits := true, orders := true, releases := some s.me.systemScope } ∧
      s.Admits { commits := true, releases := some s.me.systemScope } ∧
      s.me.strip.all (fun i => match i with | .scatter a free => !a.isFloat && !free | _ => true) = true := by
  intro s h
  fin_cases h <;> exact ⟨admits_of (by decide +kernel), admits_of (by decide +kernel), admits_of (by decide +kernel),
    admits_of (by decide +kernel), by decide +kernel⟩

theorem witness_systemScope : (withTile opened 4 2 0x53).me.systemScope = true ∧ base.me.systemScope = false := by decide +kernel

/-- The bytes of a stream spec: 64-bit elements, one dimension. -/
def specOf (out done : Bool) (base count : Nat) : Nat :=
  base + ((if out then 64 else 0) + (if done then 256 else 0) + 48) * 2 ^ 64 + (count + 8 * 2 ^ 32) * 2 ^ 128
    + (if done then 0x2000 * 2 ^ 384 else 0)

def streamOf (out done : Bool) (base count : Nat) : Stream := { spec := BitVec.ofNat 512 (specOf out done base count), phase := .loaded }

/-- The spec of an input stream at 0x41000, and stream 1 of the hart as given. -/
def streamed (t : Stream) : State :=
  (withMem base [(0x41000, 0x1000), (0x41008, 48), (0x41010, 20 + 8 * 2 ^ 32)]).modifyMe fun h => { h with streams := vset h.streams 1 t }

def oneStream (commits : Bool) : Uses := { regs := [⟨2, 1, isBelow base.me.streamCount 1⟩], commits }
def specUses : Uses :=
  { regs := [⟨2, 7, isBelow base.me.streamCount 7⟩, ⟨0, 32, isAddress 32⟩], sources := [⟨0, .x, 32, true⟩], commits := true }
def condUses : Uses :=
  { len := srcBytes (.reg 2 true), regs := [⟨2, 1, isBelow base.me.streamCount 1⟩, ⟨0, 32, isAddress 32⟩] ++ srcField isScalar (.reg 2 true)
    sources := ⟨0, .x, 32, true⟩ :: srcSource .x (.reg 2 true), commits := true }

/-- StreamInstructionsComplete: every use, a spec that keeps R172, and streams that are set. -/
theorem witness_streamInstructions :
    let s := streamed (streamOf false false 0x1000 20)
    (∀ u ∈ [specUses, condUses, oneStream false, oneStream true,
      { regs := [⟨2, 47, isScalar 47⟩, ⟨0, 7, isBelow base.me.streamCount 7⟩], dests := [(.x, 47)] },
      { regs := [⟨2, 1, isBelow base.me.streamCount 1⟩, ⟨0, 31, base.me.isVector 31⟩] },
      { regs := [⟨0, 3, isScalar 3⟩], sources := [⟨0, .x, 3, true⟩], commits := true }], s.Admits u) ∧
    ((s.begun specUses).me.readX 32).toNat % 64 = 0 ∧
    (s.begun specUses).place .memory .load ((s.begun specUses).me.readX 32) = .ok (.main 0x41000) ∧
    (s.begun specUses).isPoisonedAt (.main 0x41000) 64 = false ∧
    ({ spec := BitVec.ofNat 512 ((s.begun specUses).viewed.readPlace (.main 0x41000) 64), phase := .loaded } : Stream).wfSpec = true ∧
    ((s.begun condUses).me.stream 1).phase ≠ .unset ∧
    (s.begun condUses).place .memory .load ((s.begun condUses).me.readX 32) = .ok (.main 0x41000) := by
  refine ⟨admits_all (by decide +kernel), by decide +kernel⟩

/-- What SWAIT of stream 1 finds settled. -/
abbrev Settles (s : State) : Prop :=
  let q := (s.begun (oneStream true)).me.stream 1
  s.Admits (oneStream true) ∧ q.phase ≠ .unset ∧ q.condFault = none ∧ (∀ f, q.doneAdd ≠ .failed f) ∧
    (q.isOutput = false → q.phase = .running ∨ q.phase = .done) ∧
    (q.isOutput = true → q.phase = .done ∧ (q.hasDoneAdd = true → q.doneAdd = .made) ∧
      (s.begun (oneStream true)).pushesOf s.cur.core s.cur.ctx (some 1) = false)

theorem not_failed {d : DoneAdd} (e : d = .due ∨ d = .made) : ∀ f, d ≠ .failed f := by
  rcases e with e | e <;> simp [e]

/-- StreamInstructionsComplete, SWAIT: an input stream that runs, one that is done, and an output stream whose addition
is made. -/
theorem witness_swait : Settles (streamed { streamOf false false 0x1000 20 with phase := .running }) ∧
    Settles (streamed { streamOf false false 0x1000 20 with phase := .done, position := 20 }) ∧
    Settles (streamed { streamOf true true 0x1000 20 with phase := .done, position := 20, doneAdd := .made }) :=
  ⟨⟨admits_of (by decide +kernel), by decide +kernel, by decide +kernel, not_failed (by decide +kernel), by decide +kernel,
    by decide +kernel⟩,
   ⟨admits_of (by decide +kernel), by decide +kernel, by decide +kernel, not_failed (by decide +kernel), by decide +kernel,
    by decide +kernel⟩,
   admits_of (by decide +kernel), by decide +kernel, by decide +kernel, not_failed (by decide +kernel), by decide +kernel,
    by decide +kernel⟩

/-- Stream 1 bound to v4 with its tile held, and output stream 2 bound to v5 with five elements left. -/
def popState : State := base.modifyMe fun h => { h with
  streams := (vset h.streams 1 { streamOf false false 0x1000 20 with
      phase := .running, bound := some 4, ahead := (List.range 8).map fun j => .value (2 ^ 64 - 3 + j) }).set 2
    { streamOf true false 0x3000 7 with phase := .running, bound := some 5, position := 2 } }

/-- StreamOperands: elements of both signs, and an output that ends within the tile. -/
theorem witness_streamOperands :
    let h := popState.me
    popState.Admits (popState.unaryUses .vint 5 4 true) ∧ h.streamOf 4 = some 1 ∧ h.streamOf 5 = some 2 ∧ h.eltDone = 0 ∧
      h.cmds = [] ∧ (h.stream 1).remote = false ∧ (h.stream 2).remote = false ∧ (h.stream 1).total < 2 ^ 63 ∧
      (h.stream 2).total < 2 ^ 63 ∧
      (∀ j, j < h.popNeed (h.stream 1) → (h.stream 1).ahead[j]? = some (.value (2 ^ 64 - 3 + j))) ∧
      ∀ j ∈ actives h, (h.stream 2).position.toNat + j < (h.stream 2).total →
        popState.locate .writer .store ((h.stream 2).address ((h.stream 2).position.toNat + j)) =
          .ok (.main (0x43000 + 8 * (2 + j))) :=
  ⟨admits_of (by decide +kernel), by decide +kernel⟩

/-- VectorConfigCompletes, VCONF: the four name counts. -/
theorem witness_vconf : (∀ n ∈ [(8 : BitVec 32), 16, 32, 64],
      base.Admits { configUses 5 (.lit n) with vown := true, commits := true }) ∧
    (base.begun { configUses 5 (.lit 64) with vown := true, commits := true }).me.srcWord (.lit 64) = 64 ∧ base.cur.ctx ≠ 4 := by
  refine ⟨fun n h => ?_, by decide +kernel, by decide +kernel⟩
  fin_cases h <;> exact admits_of (by decide +kernel)

/-- A hart whose VLMAX is larger than its name count and its lanes give it. -/
def shrinking : State := base.modifyMe fun h => { h with vlmax := 600 }

/-- VectorConfigCompletes: VSETL that grows and one that shrinks; VSETR at both ends; VCFG images with each rounding mode
at the ends, RM 5 where SRHEN allows it; and VCFGRD. -/
theorem witness_vset :
    base.Admits { configUses 5 (.lit 9) with vown := decide (vlmaxFor base base.me.names.toNat < base.me.vlmax.toNat) } ∧
    shrinking.Admits { configUses 5 (.lit 9) with vown := decide (vlmaxFor shrinking shrinking.me.names.toNat < shrinking.me.vlmax.toNat) } ∧
    ¬vlmaxFor base base.me.names.toNat < base.me.vlmax.toNat ∧ vlmaxFor shrinking shrinking.me.names.toNat < shrinking.me.vlmax.toNat ∧
    (∀ u ∈ [configUses 0 (.reg 2 true), configUses 47 (.lit 32), { regs := [⟨2, 5, isScalar 5⟩], dests := [(.x, 5)], commits := true }],
      base.Admits u) ∧
    (base.me.srcWord (.reg 1 true) = 1 ∧ base.me.srcWord (.lit 32) = 32) ∧
    (let n := base.me.srcWord (.lit 0x4D7)
     n.toNat < 2 ^ 11 ∧ n.getLsbD 3 = false ∧ n.toNat / 2 ^ 4 % 8 < 6 ∧ n.toNat / 2 ^ 8 < 5) ∧
    ((base.me.srcWord (.lit 0x503)).toNat / 2 ^ 8 = 5 ∧ (base.modifyCore 0 fun k => { k with srhen := 1 }).myCore.srhen.getLsbD 0 = true) :=
  ⟨admits_of (by decide +kernel), admits_of (by decide +kernel), by decide +kernel, by decide +kernel,
    admits_all (by decide +kernel), by decide +kernel, by decide +kernel, by decide +kernel⟩

/-- A hart with 8 names, and the header of its vector image at the address that a1 holds. -/
def imaged : State :=
  withMem (base.modifyMe fun h => { h with names := 8 }) [(0x42000, 0x201), (0x42008, 8), (0x42010, 8), (0x42018, 1)]

def imageUses : Uses := { regs := [⟨0, 33, isAddress 33⟩], sources := [⟨0, .x, 33, true⟩], vown := true, commits := true }

set_option maxRecDepth 100000 in
/-- VectorImagesComplete: a place for the image, and an image to read whole. -/
theorem witness_vectorImages :
    let t := imaged.begun imageUses
    let saves := imaged.begun { imageUses with orders := true }
    (imaged.Admits { imageUses with orders := true } ∧ (saves.me.readX 33).toNat % 64 = 0 ∧
      ∃ ps, saves.placeRuns .memory .store (runsOf (saves.me.readX 33) 2816) = (ps, none)) ∧
    imaged.Admits imageUses ∧ (t.me.readX 33).toNat % 64 = 0 ∧ imaged.cur.ctx ≠ 4 ∧
    t.readImage .memory (t.me.readX 33) 64 = .ok (0x201 + 8 * 2 ^ 64 + 8 * 2 ^ 128 + 2 ^ 192) ∧
    badHeader (0x201 + 8 * 2 ^ 64 + 8 * 2 ^ 128 + 2 ^ 192) = none ∧
    ∃ x, t.readImage .memory (t.me.readX 33) 2816 = .ok x :=
  ⟨⟨admits_of (by decide +kernel), by decide +kernel, pair_of (by decide +kernel)⟩, admits_of (by decide +kernel),
    by decide +kernel, by decide +kernel, by decide +kernel, by decide +kernel, ok_of (by decide +kernel)⟩

/-- The harts of a pair: the other one is in GANG, in no context, or ganged already as the upper one. -/
def pair (status : Status) (gang : Gang) : State :=
  ((base.modifyMe fun h => { h with link := { h.link with harts := 2 } }).setHart 1 0
    { hart with id := 2, link := { hart.link with index := 1, harts := 2 }, gang }).setStatus 1 0 status

def gangUses : Uses := { regs := [⟨2, 5, isScalar 5⟩], dests := [(.x, 5)], vown := true, commits := true }

/-- GangCompletes: a verdict, a refusal, a rendezvous, and UNGANG of a hart alone and of a ganged one. -/
theorem witness_gang :
    (∀ s ∈ [base, pair (.waiting .gang) .none, base.modifyMe fun h => { h with verdict := some 2 },
      (pair (.waiting .parked) .parked).modifyMe fun h => { h with gang := .lower, partner := 2 }], s.Admits gangUses) ∧
    ((base.modifyMe fun h => { h with verdict := some 2 }).begun gangUses).me.verdict = some 2 ∧
    (let t := base.begun gangUses; t.me.verdict = none ∧ t.me.gang = .none ∧ t.gangRefused = true) ∧
    (let t := (pair (.waiting .gang) .none).begun gangUses
     t.me.verdict = none ∧ t.me.gang = .none ∧ t.gangRefused = false ∧ isUpper t.cur.core = false ∧ t.status (upperCore t.cur.core) t.cur.ctx = .waiting .gang) ∧
    (((pair (.waiting .parked) .parked).modifyMe fun h => { h with gang := .lower, partner := 2 }).begun gangUses).me.gang = .lower := by
  refine ⟨fun s h => ?_, by decide +kernel, by decide +kernel, by decide +kernel, by decide +kernel⟩
  fin_cases h <;> exact admits_of (by decide +kernel)

/-! ### Matrix unit and generator -/

/-- Handles 2 and 4 bound to FP32 slots, 3 to an INT32 one with a poisoned entry, and 5 to an FP64 one; md0 and md1 on
lines of 32 bytes at 0x1000 and 0x2000, k0 a generator of zero scale. -/
def slotted : State :=
  (base.modifyCore 0 fun k =>
    { k with slots := [{ number := 0, owner := 1, handle := 2, kind := .fp32, tile := 0x3F800000 },
        { number := 2, owner := 1, handle := 3, kind := .int32, tile := 5, poison := [33] },
        { number := 1, owner := 1, handle := 4, kind := .fp32, tile := 0x40000000 },
        { number := 9, owner := 1, handle := 5, kind := .fp64, tile := 0 }] }).modifyMe fun h =>
    { h with md := (vset h.md 0 { va := 0x1000, stride := 32 }).set 1 { va := 0x2000, stride := 32 } }

def mmaUses (z a b : Reg) (fmt : BitVec 4) (kn : BitVec 2) : Uses :=
  { regs := [⟨3, z, isHandle z⟩, ⟨3, a, isHandle a⟩, ⟨3, b, isHandle b⟩], commits := true
    work := [mmaCycles fmt.toNat kn.toNat (isGen a || isGen b)] }

/-- The work of an MMA of E4M3 lines onto handle z, with a generated B where `b` is 8. -/
def workOf (z : BitVec 4) (b : Reg) (acc : Bool) : MmaWork :=
  let t := slotted.begun (mmaUses (z.setWidth 6) 0 b 4 0)
  { word := slotted.cur.word, z, fmt := 4, kn := 0, acc, a := t.me.mmaOperand 0, b := t.me.mmaOperand b }

/-- MatrixMultiply: an overwriting one on a handle that is not bound, and an accumulating one with a generated operand
on a bound handle of the kind; every line can be read. -/
theorem witness_mma :
    (∀ e ∈ [((6 : Reg), (1 : Reg)), (2, 8)], slotted.Admits (mmaUses e.1 0 e.2 4 0)) ∧
    (let t := slotted.begun (mmaUses 6 0 1 4 0)
     Multiplies t (workOf 6 1 false) ∧ Bindable t 6 3) ∧
    (let t := slotted.begun (mmaUses 2 0 8 4 0)
     Multiplies t (workOf 2 8 true) ∧
       ∃ q, CleanSlot t 2 q ∧ q.kind = mmaKind 4) := by
  refine ⟨fun e h => ?_, ⟨⟨by unfold Settled; decide +kernel, by decide +kernel, by decide +kernel, by decide +kernel, by decide +kernel, by decide +kernel,
      lines_of (by decide +kernel)⟩, by unfold Bindable; decide +kernel⟩,
    ⟨by unfold Settled; decide +kernel, by decide +kernel, by decide +kernel, by decide +kernel, by decide +kernel, by decide +kernel,
      lines_of (by decide +kernel)⟩,
    ⟨{ number := 0, owner := 1, handle := 2, kind := .fp32, tile := 0x3F800000 }, by unfold CleanSlot; decide +kernel, rfl⟩⟩
  fin_cases h <;> exact admits_of (by decide +kernel)

/-- R240: another agent may act between two rows; the hart then stands at its MMA with one row done. -/
theorem test_mmaInParts :
    (match exec (.mma 6 0 1 4 0 false) (slotted.modifyMe fun h => { h with pace := some 1 }) with
      | .next t => decide (t.me.rowDone = 1 ∧ t.me.pc = slotted.me.pc ∧ t.me.mma.isSome = true)
      | _ => false) = true := by
  decide +kernel

def zUses (d : Reg) : Uses := { regs := [⟨2, d, isHandle d⟩], commits := true }
def zstatUses : Uses := { regs := [⟨2, 5, isScalar 5⟩, ⟨0, 15, isHandle 15⟩], dests := [(.x, 5)], commits := true }

/-- SlotInstructionsComplete: ZZERO of a bound handle and of one that is not, with the first and the last kind. -/
theorem witness_slots :
    (∀ u ∈ [({ illegal := decide (3 ≤ (0 : Reg).toNat), regs := [⟨2, 2, isHandle 2⟩], commits := true } : Uses),
      { illegal := decide (3 ≤ (2 : Reg).toNat), regs := [⟨2, 6, isHandle 6⟩], commits := true }, zUses 15, zUses 3, zstatUses],
      slotted.Admits u) ∧
    Settled (slotted.begun (zUses 6)) ∧ (∃ q, (slotted.begun (zUses 2)).slotOf 2 = some q) ∧
    Bindable (slotted.begun (zUses 6)) 6 3 ∧ (slotted.begun (zUses 15)).slotOf 15 = none := by
  refine ⟨admits_all (by decide +kernel), by unfold Settled; decide +kernel, ?_, by unfold Bindable; decide +kernel,
    by decide +kernel⟩
  exact Option.isSome_iff_exists.mp (by decide +kernel)

def zextUses (s : State) (pos : Src) : Uses :=
  { len := srcBytes pos, regs := [⟨2, 3, s.me.isVector 3⟩, ⟨0, 3, isHandle 3⟩] ++ srcField isScalar pos
    vown := true, sources := srcSource .x pos, dests := [(.v, 3)], writes := [3], lanes := true, commits := true
    work := [(.vint, s.tileCycles s.me.tile)] }
def zinsUses (s : State) (d : Reg) (pos : Src) : Uses :=
  { len := srcBytes pos, regs := [⟨2, d, isHandle d⟩, ⟨0, 1, s.me.isVector 1⟩] ++ srcField isScalar pos
    vown := true, sources := ⟨0, .v, 1, true⟩ :: srcSource .x pos, reads := [1], lanes := true, commits := true
    work := [(.vint, s.tileCycles s.me.tile)] }
def zscaccUses : Uses :=
  { regs := [⟨2, 2, isHandle 2⟩, ⟨0, 4, isHandle 4⟩, ⟨1, 9, base.me.isVector 9⟩], vown := true
    sources := [⟨1, .v, 9, true⟩], reads := [9], commits := true, work := [(.zsc, 8)] }
def zamaxUses : Uses :=
  { regs := [⟨0, 4, isHandle 4⟩, ⟨1, 15, isBelow base.me.ringCount 15⟩], vown := true, lanes := true, commits := true
    work := [(.vint, base.tileCycles base.me.tile)] }

/-- TileArithmetic: ZSCACC of two FP32 slots, ZAMAX, and ZEXT and ZINS of a tile of 2 x 4 at the origin and at the far
corner, from the slots of each kind. -/
theorem witness_tileArithmetic :
    (∀ u ∈ [zscaccUses, zamaxUses, zextUses base (.lit 0x1C1E), zinsUses base 3 (.lit 0), zinsUses base 5 (.lit 0x1C1E)], slotted.Admits u) ∧
    (let t := slotted.begun zscaccUses
     Settled t ∧ Unbound t.me [9] ∧ CleanSlot t 2 { number := 0, owner := 1, handle := 2, kind := .fp32, tile := 0x3F800000 } ∧
       CleanSlot t 4 { number := 1, owner := 1, handle := 4, kind := .fp32, tile := 0x40000000 }) ∧
    (∀ j, j < base.me.tile → 32 * (30 + rowOf base.me j) + 28 + colOf base.me j ∉ [33]) ∧
    At base.me (.lit 0x1C1E) 30 28 ∧ At base.me (.lit 0) 0 0 ∧ base.me.sewCode ≠ 0 ∧ Unbound base.me [3, 1] ∧
    (slotted.begun (zinsUses base 3 (.lit 0))).slotOf 3 =
      some { number := 2, owner := 1, handle := 3, kind := .int32, tile := 5, poison := [33] } ∧
    (slotted.begun (zinsUses base 5 (.lit 0))).slotOf 5 = some { number := 9, owner := 1, handle := 5, kind := .fp64, tile := 0 } :=
  ⟨admits_all (by decide +kernel), ⟨by unfold Settled; decide +kernel, unbound_of (by decide +kernel) _,
    by unfold CleanSlot; decide +kernel, by unfold CleanSlot; decide +kernel⟩, by decide +kernel, by unfold At; decide +kernel,
    by unfold At; decide +kernel, by decide +kernel, base_unbound _, by decide +kernel, by decide +kernel⟩

def tileUses (d : Reg) : Uses :=
  { regs := [⟨2, d, isHandle d⟩, ⟨0, 33, isAddress 33⟩], sources := [⟨0, .x, 33, true⟩], commits := true, work := [(.vmem, 17)] }
def tileSaves : Uses := { tileUses 2 with orders := true }

set_option maxRecDepth 100000 in
/-- TileImagesComplete: a bound handle, and one that is not; room for an image, and an image of kind 0 to read. -/
theorem witness_tileImages :
    (∀ u ∈ [tileUses 2, tileUses 6, tileSaves], slotted.Admits u) ∧
    (let t := slotted.begun tileSaves
     Settled t ∧ (t.me.readX 33).toNat % 64 = 0 ∧
       CleanSlot t 2 { number := 0, owner := 1, handle := 2, kind := .fp32, tile := 0x3F800000 } ∧
       (∃ ps, t.placeRuns .writer .store (runsOf (t.me.readX 33) 8256) = (ps, none)) ∧
       CopiesClear t .writer .store (t.me.readX 33) 8256) ∧
    (let t := slotted.begun (tileUses 2)
     Settled t ∧ (t.me.readX 33).toNat % 64 = 0 ∧ CopiesClear t .reader .load (t.me.readX 33) 8256 ∧
       t.readImage .reader (t.me.readX 33) 8256 = .ok 0 ∧ badTileWord 0 = none) ∧
    Bindable (slotted.begun (tileUses 6)) 6 3 := by
  exact ⟨admits_all (by decide +kernel), ⟨by unfold Settled; decide +kernel, by decide +kernel, by unfold CleanSlot; decide +kernel,
    pair_of (by decide +kernel), by unfold CopiesClear; decide +kernel⟩, ⟨by unfold Settled; decide +kernel, by decide +kernel,
    by unfold CopiesClear; decide +kernel, by decide +kernel, by decide +kernel⟩, by unfold Bindable; decide +kernel⟩

/-- A hart with a generator configuration in g1, RAMP of column at scope 0, and a frequency table's address in a1. -/
def generating : State := withX base [(1, 0x1_0000_0000)]

/-- DescriptorsAndGenerators: the first and the last of each register, and each group of words that KGET reads. -/
theorem witness_generators :
    (∀ u ∈ ([{ len := srcBytes (.lit 64), regs := [⟨2, 7, isBelow 8 7⟩, ⟨0, 47, isAddress 47⟩] ++ srcField isScalar (.lit 64)
               sources := ⟨0, .x, 47, true⟩ :: srcSource .x (.lit 64), commits := true },
        { len := srcBytes (.reg 2 true), regs := [⟨2, 0, isBelow 8 0⟩] ++ srcField isScalar (.reg 2 true)
          sources := srcSource .x (.reg 2 true), commits := true },
        { len := srcBytes (.lit 0x3F800000)
          regs := [⟨2, 8, decide (8 ≤ (8 : Reg).toNat) && decide ((8 : Reg).toNat < 16)⟩, ⟨0, 1, isG 1⟩] ++ srcField isScalar (.lit 0x3F800000)
          sources := ⟨0, .x, 1, true⟩ :: srcSource .x (.lit 0x3F800000), commits := true },
        { len := srcBytes (.const 7), regs := [⟨2, 15, decide (8 ≤ (15 : Reg).toNat) && decide ((15 : Reg).toNat < 16)⟩] ++ srcField isScalar (.const 7)
          sources := srcSource .x (.const 7), commits := true },
        { regs := [⟨2, 8, decide (8 ≤ (8 : Reg).toNat) && decide ((8 : Reg).toNat < 16)⟩, ⟨0, 33, isAddress 33⟩]
          sources := [⟨0, .x, 33, true⟩], commits := true },
        { len := srcBytes (.lit 127)
          regs := [⟨2, 5, isG 5⟩, ⟨0, 15, decide (8 ≤ (15 : Reg).toNat) && decide ((15 : Reg).toNat < 16)⟩] ++ srcField isScalar (.lit 127)
          sources := srcSource .x (.lit 127), dests := [(.x, 5)] },
        { illegal := base.me.sewCode == 0
          regs := [⟨2, 3, base.me.isVector 3⟩, ⟨0, 8, decide (8 ≤ (8 : Reg).toNat) && decide ((8 : Reg).toNat < 16)⟩], vown := true
          dests := [(.v, 3)], writes := [3], lanes := true, work := [(.gen, base.tileCycles base.me.tile)] }] : List Uses),
      generating.Admits u) ∧
    (let w := (generating.begun { commits := true }).me.readX 1
     w.toNat / 2 ^ 8 % 2 ^ 8 = 0 ∧ w.toNat / 2 ^ 48 = 0 ∧ w.toNat % 16 < 8 ∧ w.toNat / 2 ^ 4 % 8 < 5 ∧
       0x3F800000 / 2 ^ 23 % 2 ^ 8 ≠ 255) ∧
    ((generating.begun { commits := true }).me.readX 33).toNat % 64 = 0 ∧
    CopiesClear (generating.begun { commits := true }) .reader .load ((generating.begun { commits := true }).me.readX 33) 256 ∧
    (generating.begun { commits := true }).readImage .reader ((generating.begun { commits := true }).me.readX 33) 256 = .ok 0 ∧
    (base.me.srcWord (.lit 3)).toNat = 3 ∧ (base.me.srcWord (.lit 127)).toNat = 127 :=
  ⟨admits_all (by decide +kernel), by decide +kernel, by decide +kernel, by unfold CopiesClear; decide +kernel, by decide +kernel⟩

/-! ### The copy engine and synchronisation -/

/-- Two rows of 64 bytes from 0x1000 to 0x2000 in a0, a1 and g2, g3. -/
def copying : State := withX base [(32, 0x1000), (33, 0x2000), (2, 2 * 2 ^ 24 + 64), (3, 64 * 2 ^ 32 + 64)]

def cpyUses : Uses :=
  { regs := [⟨2, 5, isG 5⟩, ⟨0, 32, isAddressPair 32⟩, ⟨1, 2, isGPair 2⟩]
    vown := base.me.isFull 2 && bitAt (copying.me.readX 2).toNat 63
    sources := [⟨0, .xs 2, 32, true⟩, ⟨1, .xs 2, 2, true⟩], dests := [(.x, 5)] }
def cpymmaUses : Uses :=
  { len := 8
    regs := [⟨2, 2, isGPair 2⟩, ⟨0, 32, isAddressPair 32⟩, ⟨3, 6, isHandle 6⟩, ⟨3, 0, isHandle 0⟩, ⟨3, 1, isHandle 1⟩]
    vown := base.me.isFull 2 && bitAt (copying.me.readX 2).toNat 63
    sources := [⟨0, .xs 2, 32, true⟩, ⟨2, .xs 2, 2, false⟩] }
def cpywaitUses : Uses :=
  { regs := [⟨2, 5, isScalar 5⟩, ⟨0, 6, isG 6⟩], sources := [⟨0, .x, 6, true⟩], dests := [(.x, 5)], commits := true }

/-- Its handle 6 bound to an FP32 slot. -/
def bound : State := copying.modifyCore 0 fun k =>
  { k with slots := [{ number := 0, owner := 1, handle := 6, kind := .fp32, tile := 5 }] }

/-- CopyInstructionsComplete: aligned operands between memory pages, room in the queue, an MMA that the checks pass. -/
theorem witness_copy :
    (∀ u ∈ [cpyUses, cpymmaUses, cpywaitUses], copying.Admits u) ∧
    (let h := copying.me
     (h.readX 2).toNat / 2 ^ 40 = 0 ∧ (h.readX 2).toNat % 2 ^ 24 ≠ 0 ∧ (h.readX 2).toNat / 2 ^ 24 ≠ 0 ∧ (h.readX 32).toNat % 8 = 0 ∧
       (h.readX 33).toNat % 8 = 0 ∧ (h.readX 3).toNat % 8 = 0 ∧ (h.readX 3).toNat / 2 ^ 32 % 8 = 0 ∧ (h.readX 2).toNat % 8 = 0 ∧
       copying.place .copy .load (h.readX 32) = .ok (.main 0x41000) ∧
       copying.place .copy .store (h.readX 33) = .ok (.main 0x42000) ∧
       copying.checkCopy (h.readX 32) (h.readX 33) (h.readX 2) (h.readX 3) = .ok (none, none)) ∧
    copying.myCore.queuedCopies < 32 ∧
    (∀ s ∈ [copying, bound], Succeeds (s.checkCopy (s.me.readX 32) (s.me.readX 33) (s.me.readX 2) (s.me.readX 3)) ∧
      s.Admits cpymmaUses ∧ s.myCore.queuedCopies < 32) ∧
    Bindable copying 6 0 ∧ (∃ q, bound.slotOf 6 = some q ∧ q.kind = mmaKind 4) ∧
    (copying.me.mmaOperand 0).misaligned 4 = none ∧ (copying.me.mmaOperand 1).misaligned 4 = none := by
  refine ⟨admits_all (by decide +kernel), by decide +kernel, by decide +kernel, fun s h => ?_,
    by unfold Bindable; decide +kernel, ⟨{ number := 0, owner := 1, handle := 6, kind := .fp32, tile := 5 }, by decide +kernel⟩,
    by decide +kernel⟩
  fin_cases h <;> exact ⟨ok_of (by decide +kernel), admits_of (by decide +kernel), by decide +kernel⟩

/-- A hart that has issued five commands, of which the third was discarded and the second, with a fault, aborted; or
only discarded ones; or none that CPYWAIT has still to report. -/
def reporting (rs : List CopyReport) : State := copying.modifyMe fun h => { h with seq := 5, copyReports := rs }

def abortedReport : CopyReport := .aborted 2 { cause := causeAccess, val := 0x9000 }

theorem witness_cpywait :
    (∀ rs ∈ [[], [.discarded 3], [.discarded 3, abortedReport]], let t := (reporting rs).begun cpywaitUses
      (reporting rs).Admits cpywaitUses ∧ t.me.copyReports = rs ∧ t.me.cmds = [] ∧ t.me.followOns = [] ∧ t.me.seq = 5) ∧
    (∀ r ∈ ([.discarded 3] : List CopyReport), r.isAbort = false ∧ (r = .discarded 3 ∨ (3 : Word).toNat < r.ticket.toNat)) ∧
    ∀ r ∈ [.discarded 3, abortedReport], r.isAbort = true → r = abortedReport ∨ (2 : Word).toNat < r.ticket.toNat := by
  refine ⟨fun rs h => ?_, by decide +kernel, by decide +kernel⟩
  fin_cases h <;> exact ⟨admits_of (by decide +kernel), by decide +kernel, by decide +kernel, by decide +kernel, by decide +kernel⟩

/-- Circular buffer 1 with two slots of 64 bytes at 0x30000, one filled and one held; the geometry of two more in g2. -/
def circled : State := (withX base [(33, 0x30000), (2, 2 * 2 ^ 24 + 64)]).modifyMe fun h => h.setCirc 1
  { init := true, base := 0x30000, buf := .x, localBase := 0, slot := 64, count := 3, free := 1, filled := 1, held := 1, p := 2, c := 1 }

def cbinitUses : Uses :=
  { regs := [⟨2, 15, base.me.isCirc 15⟩, ⟨0, 33, isAddress 33⟩, ⟨1, 2, isG 2⟩], vown := true
    sources := [⟨0, .x, 33, true⟩, ⟨1, .x, 2, true⟩], commits := true }
def cbUses : Uses := { regs := [⟨2, 5, isScalar 5⟩, ⟨0, 1, base.me.isCirc 1⟩], vown := true, dests := [(.x, 5)], commits := true }
def cbrelUses : Uses :=
  { len := srcBytes (.lit 9), regs := [⟨2, 5, isScalar 5⟩, ⟨0, 1, base.me.isCirc 1⟩] ++ srcField isScalar (.lit 9), vown := true
    sources := srcSource .x (.lit 9), dests := [(.x, 5)], commits := true }

/-- CircularBuffersComplete: a range on an aperture page, a filled slot, and a release of more slots than are held. -/
theorem witness_circular :
    (∀ u ∈ [cbinitUses, cbUses, cbrelUses], circled.Admits u) ∧
    (let t := circled.begun cbinitUses
     t.me.cmds = [] ∧ (t.me.readX 2).toNat / 2 ^ 24 = 2 ∧ (t.me.readX 2).toNat % 2 ^ 24 = 64 ∧ (t.me.readX 33).toNat % 64 = 0 ∧
       ∃ r, t.circRange (t.me.readX 33) (2 * 64) = .ok r) ∧
    (let q := (circled.begun cbUses).me.circ 1
     q.init = true ∧ q.filled ≠ 0) ∧
    (circled.begun cbrelUses).circReads 1 = false ∧ ((circled.begun cbrelUses).me.circ 1).init = true :=
  ⟨admits_all (by decide +kernel), ⟨by decide +kernel, by decide +kernel, by decide +kernel, by decide +kernel,
    ok_of (by decide +kernel)⟩, by decide +kernel, by decide +kernel⟩

/-- A sync object at 0x41000, free with ABANDONED set, and one at 0x41010 that the hart holds. -/
def synced : State := withMem base [(0x41000, 0x4003000000000009), (0x41008, 5), (0x41010, 0xC003000000000001), (0x41018, 2 ^ 64 - 1)]
def heldState (waiters : List Waiter) : State := (withX synced [(32, 0x1010)]).modifyDev fun d => { d with held := [(1, 0x41010)], acqWaiters := waiters }
def acqWaiter : Waiter := { hart := 9, pa := 0x41010, va := 0x1010, prio := 3, polls := false, granted := none }

def relUses : Uses := { addressUses 32 true with releases := some false }

/-- SyncObjectsComplete: ACQ with a grant that has reached the hart, with one that the home slice has made, and of a free
object with the hart's own polling entry in the queue and without; REL with and without a waiter. -/
theorem witness_sync :
    let entry (granted : Option Bool) : Waiter := { hart := 1, pa := 0x41000, va := 0x1000, prio := 3, polls := granted.isNone, granted }
    let with_ (qs : List Waiter) : State := synced.modifyDev fun d => { d with acqWaiters := qs }
    (∀ qs ∈ [[], [entry none], [entry (some true)]], let t := (with_ qs).begun (syncUses 5 32 true)
      (with_ qs).Admits (syncUses 5 32 true) ∧ t.dev.mem.wf = true ∧ t.me.grant = none ∧ Home t 16 (t.me.readX 32) 0x41000 ∧
        t.dev.acqWaiters = qs ∧ t.me.id = 1 ∧ bitAt (t.getWord 0x41000) 63 = false ∧ bitAt (t.getWord 0x41000) 62 = true) ∧
    (let s := synced.modifyMe fun h => { h with grant := some (0x1000, 1) }
     s.Admits (syncUses 5 32 true) ∧ (s.begun (syncUses 5 32 true)).me.grant = some (0x1000, 1) ∧
       (s.begun (syncUses 5 32 true)).me.readX 32 = 0x1000) ∧
    ∀ qs ∈ [[], [acqWaiter]], let t := (heldState qs).begun relUses
      (heldState qs).Admits relUses ∧ t.dev.mem.wf = true ∧ Home t 16 (t.me.readX 32) 0x41010 ∧
        t.boundPushes (t.me.readX 32) = false ∧ bitAt (t.getWord 0x41010) 63 = true ∧
        t.getWord 0x41010 % 2 ^ 48 = t.me.id.toNat ∧ t.dev.acqWaiters = qs := by
  refine ⟨fun qs h => ?_, ⟨admits_of (by decide +kernel), by decide +kernel⟩, fun qs h => ?_⟩ <;>
    fin_cases h <;> exact ⟨admits_of (by decide +kernel), by unfold Home; decide +kernel⟩

def bindUses : Uses :=
  { len := srcBytes (.lit 64), regs := [⟨2, 34, isAddress 34⟩, ⟨0, 32, isAddress 32⟩] ++ srcField isScalar (.lit 64)
    sources := ⟨0, .x, 32, true⟩ :: srcSource .x (.lit 64) ++ [⟨2, .x, 34, false⟩], commits := true }
def unbindUses : Uses :=
  { regs := [⟨2, 34, isAddress 34⟩, ⟨0, 32, isAddress 32⟩], sources := [⟨0, .x, 32, true⟩, ⟨2, .x, 34, false⟩], commits := true }

/-- SyncObjectsComplete: a binding that stands already, and a new one with 15 others. -/
theorem witness_bind :
    let old (n : Nat) : Binding := { object := word n, base := 0x1000, length := 8 }
    let s (n : Nat) : State := base.modifyMe fun h => { h with bindings := (List.range n).map old }
    (∀ u ∈ [bindUses, unbindUses], base.Admits u) ∧ (base.me.srcWord (.lit 64)).toNat = 64 ∧
    (∀ o ∈ ((s 15).begun bindUses).me.bindings, (o.object == (s 15).me.readX 34 && o.base == (s 15).me.readX 32) = false) ∧
    ((s 15).begun bindUses).me.bindings.length < 16 ∧
    ∃ o ∈ ((base.modifyMe fun h => { h with bindings := [{ object := 0x3000, base := 0x1000, length := 8 }] }).begun bindUses).me.bindings,
      (o.object == base.me.readX 34 && o.base == base.me.readX 32) = true :=
  ⟨admits_all (by decide +kernel), by decide +kernel, by decide +kernel, by decide +kernel, by decide +kernel⟩

/-- A link descriptor at 0x41000 whose word is at 0x2000, and w7 as it leaves it. -/
def watermarked (unit : Nat) : State :=
  (withMem base [(0x41000, 0x2000), (0x41008, 0x3000), (0x41010, 64), (0x41018, unit), (0x42000, 9)]).modifyMe fun h =>
    { h with w := h.w.set 7 { word := 0x2000, base := 0x3000, limit := 64, unit := 8 } }

def wmlinkUses : Uses := { regs := [⟨2, 7, isBelow 8 7⟩, ⟨0, 32, isAddress 32⟩], sources := [⟨0, .x, 32, true⟩], commits := true }
def wmpubUses (b : Src) : Uses :=
  { len := srcBytes b, regs := [⟨2, 7, isBelow 8 7⟩] ++ srcField isScalar b, sources := srcSource .x b, commits := true
    orders := true, releases := some false }
def notifyUses : Uses :=
  { len := srcBytes (.lit 5), regs := [⟨0, 1, isG 1⟩] ++ srcField isScalar (.lit 5), sources := ⟨0, .x, 1, true⟩ :: srcSource .x (.lit 5)
    commits := true, orders := true, releases := some false }
def waitnUses : Uses := { regs := [⟨2, 5, isScalar 5⟩, ⟨0, 15, isBelow 16 15⟩], dests := [(.x, 5)], commits := true }

/-- WatermarkAndNotifyComplete: the smallest and the largest unit, a word to raise, the last notify register of this core
and the last core, and a register that has been written. -/
theorem witness_watermark :
    (∀ u ∈ [wmlinkUses, wmpubUses (.lit 8), notifyUses, waitnUses], (watermarked 1).Admits u) ∧
    (watermarked 1).me.systemScope = false ∧
    (∀ n ∈ [1, 8], let t := (watermarked n).begun wmlinkUses
      (t.me.readX 32).toNat % 32 = 0 ∧ (0x2000 : Word).toNat % 8 = 0 ∧ (64 : Word).toNat % n = 0 ∧
        ∃ t', t.loadWords .memory 4 (t.me.readX 32) = .ok ([0x2000, 0x3000, 64, word n], t')) ∧
    (let t := (watermarked 1).begun (wmpubUses (.lit 8))
     t.dev.mem.wf = true ∧ (vget t.me.w 7 {}).word = 0x2000 ∧ Home t 1 0x2000 0x42000) ∧
    (∀ target ∈ [0x000F0000, 0x017F], let t := (withX base [(1, word target)]).begun notifyUses
      (t.me.readX 1).toNat % 2 ^ 16 < 384 ∧ (t.me.readX 1).toNat / 2 ^ 16 < 16 ∧ (t.core 0).power = .on ∧ (t.core 0).fenced = false) ∧
    let t := (base.modifyCore 0 fun k => { k with notify := k.notify.set 15 6 }).begun waitnUses
    vget t.myCore.notify 15 0 = 6 ∧ t.dev.notifyWaiters = [] := by
  refine ⟨admits_all (by decide +kernel), by decide +kernel, fun n h => ?_, by unfold Home; decide +kernel, by decide +kernel⟩
  have step (x : Except Stop (List Word × State)) (ws : List Word) (e : (x.toOption.map (·.1)) = some ws) : ∃ t', x = .ok (ws, t') := by
    cases x with
    | error e => simp [Except.toOption] at e
    | ok p => exact ⟨p.2, by simp only [Except.toOption, Option.map, Option.some.injEq] at e; rw [← e]⟩
  fin_cases h <;> exact ⟨by decide +kernel, by decide, by decide, step _ _ (by decide +kernel)⟩

/-- A barrier of 3 members at 0x41000, of which 2 have arrived, in generation 6; the hart is a member that last saw 5. -/
def barred (expected arrived flags : Nat) (ms : List Membership) : State :=
  (withMem base [(0x41000, expected), (0x41008, arrived), (0x41010, 6), (0x41018, flags)]).modifyMe fun h => { h with barriers := ms }

def member (gen : Word) (pending : Bool) : Membership := { va := 0x1000, gen, pending }

/-- BarriersComplete: joining anew, with the greatest count, and again; an arrival that is the last, one whose
generation has completed; leaving as a member, the last one or not, and not as one. -/
theorem witness_barriers :
    (∀ u ∈ [syncUses 5 32 true, { syncUses 5 32 true with releases := some base.me.systemScope }, addressUses 32 true],
      base.Admits u) ∧
    (∀ ms ∈ [[], [member 5 false], [member 5 true]], let t := (barred 3 2 0 ms).begun (syncUses 5 32 true)
      Home t 32 (t.me.readX 32) 0x41000 ∧ t.dev.mem.wf = true ∧ bitAt (t.getWord 0x41018) 0 = false ∧
        t.me.membership (t.me.readX 32) = ms.head? ∧ t.me.barriers.length < 8 ∧ t.getWord 0x41008 ≤ t.getWord 0x41000 ∧
        t.getWord 0x41008 + 1 = t.getWord 0x41000 ∧ word (t.getWord 0x41010) = 6 ∧ 2 ≤ t.getWord 0x41000) ∧
    ((barred (2 ^ 64 - 2) 2 0 []).begun (syncUses 5 32 true)).getWord 0x41000 + 1 < 2 ^ 64 ∧
    ∀ n ∈ [1, 2], let t := (barred n 1 1 [member 5 false]).begun (addressUses 32 true)
      (barred n 1 1 [member 5 false]).Admits (addressUses 32 true) ∧ Home t 32 (t.me.readX 32) 0x41000 ∧ t.dev.mem.wf = true ∧
        t.me.membership (t.me.readX 32) = some (member 5 false) ∧ 1 ≤ t.getWord 0x41000 ∧ t.getWord 0x41000 = n := by
  refine ⟨admits_all (by decide +kernel), fun ms h => ?_, by decide +kernel, fun n h => ?_⟩
  rotate_left
  · fin_cases h <;> exact ⟨admits_of (by decide +kernel), by unfold Home; decide +kernel⟩
  fin_cases h <;> (unfold Home; decide +kernel)

/-- Promise cells at VA 0x20000 on: an empty root of rank 1, a full one of rank 1 with value 5, a link to the second,
an empty root of rank 0. -/
def promised (a b : Word) : State :=
  withX (withMem base [(0x70008, 4), (0x70010, 5), (0x70018, 6), (0x70028, 1 + 0x2001 * 256)]) [(32, a), (33, b)]

def pfillUses (n : Src) : Uses :=
  { syncUses 5 32 true with
    len := srcBytes n, regs := [⟨2, 5, isScalar 5⟩, ⟨0, 32, isAddress 32⟩] ++ srcField isScalar n
    sources := ⟨0, .x, 32, true⟩ :: srcSource .x n, releases := some false }
def peqUses : Uses :=
  { syncUses 5 32 true with
    regs := [⟨2, 5, isScalar 5⟩, ⟨0, 32, isAddress 32⟩, ⟨1, 33, isAddress 33⟩]
    sources := [⟨0, .x, 32, true⟩, ⟨1, .x, 33, true⟩] }

/-- PromisesComplete: a cell that is its own root, and a link; a fill of an empty root, and of a full one with its own
value; PWAIT and PTEST of both; PEQ of a cell with itself, and of roots of equal and of different rank. -/
theorem witness_promises :
    (promised 0x20000 0x20010).me.systemScope = false ∧
    (∀ a ∈ [(0x20000 : Word), 0x20010, 0x20030], ∀ b ∈ [(0x20010 : Word), 0x20020],
      let s := promised a b
      (∀ u ∈ [addressUses 32 true, pfillUses (.lit 5), syncUses 5 32 true, peqUses], s.Admits u) ∧
      let t := s.begun (syncUses 5 32 true)
      let t1 := found t a
      let t2 := found t1 b
      let t' := found t2 a
      Succeeds (t.find a) ∧ Succeeds (t1.find b) ∧ Succeeds (t2.find a) ∧ b.toNat % 16 = 0 ∧
        t'.dev.mem.wf = true ∧ t'.dev.promiseWaiters = [] ∧ t.me.promises = [] ∧
        t.boundPushes a = false ∧ t1.dev.mem.wf = true ∧ t1.dev.promiseWaiters = []) ∧
    (let t := (promised 0x20000 0x20010).begun (addressUses 32 true)
     CellAt t 0x20000 0x70000 ∧ metaState (t.getWord 0x70008) = 0 ∧ t.getWord 0x70008 < 2 ^ 59 ∧ t.dev.mem.wf = true) ∧
    let t := (promised 0x20000 0x20010).begun (syncUses 5 32 true)
    rootOf t 0x20000 = { va := 0x20000, pa := 0x70000, m := 4 } ∧ rootOf t 0x20010 = { va := 0x20010, pa := 0x70010, m := 6 } ∧
      rootOf t 0x20020 = { va := 0x20010, pa := 0x70010, m := 6 } ∧ rootOf t 0x20030 = { va := 0x20030, pa := 0x70030, m := 0 } ∧
      ({ va := 0x20010, pa := 0x70010, m := 6 } : Cell).full = true ∧ (found t 0x20010).getWord 0x70010 = 5 := by
  refine ⟨by decide +kernel, fun a ha b hb => ?_, by unfold CellAt; decide +kernel, by decide +kernel⟩
  fin_cases ha <;> fin_cases hb <;>
    exact ⟨admits_all (by decide +kernel), ok_of (by decide +kernel), ok_of (by decide +kernel), ok_of (by decide +kernel),
      by decide +kernel⟩

/-- A group descriptor at 0x41000: root at 0x1080, no participant's own index past its count, results at 0x2000, the
generation 4 completed, status and an integer sum over 4 participants. -/
def grouped (status : Nat) (as_ : List Arrival) : State :=
  (withMem base [(0x41000, 0x1080), (0x41008, 2 + 3 * 2 ^ 32), (0x41010, 0x2000), (0x41018, 4), (0x41020, status)]).modifyMe fun h =>
    { h with arrivals := as_ }

def xbarUses : Uses := { regs := [⟨2, 32, isAddress 32⟩], sources := [⟨2, .x, 32, false⟩], commits := true, releases := some true }
def xwaitUses : Uses := { syncUses 5 32 true with orders := false }
def xredUses : Uses :=
  { len := srcBytes (.lit 8), regs := [⟨2, 32, isAddress 32⟩, ⟨0, 1, base.me.isVector 1⟩] ++ srcField isScalar (.lit 8), vown := true
    sources := ⟨0, .v, 1, true⟩ :: srcSource .x (.lit 8) ++ [⟨2, .x, 32, false⟩], reads := [1], commits := true
    releases := some true }

/-- FabricCompletes: a valid descriptor of which this is the last participant, as many elements as SEW gives; XWAIT
without an arrival, with one whose generation has completed, and with one that has been waited for. -/
theorem witness_fabric :
    (∀ u ∈ [xbarUses, xredUses, xwaitUses], (grouped 0 []).Admits u) ∧
    (∀ u ∈ [xbarUses, xredUses], ArrivalValid ((grouped 0 []).begun u) (((grouped 0 []).begun u).me.readX 32)) ∧
    (∀ e ∈ [(0, []), (3, [{ va := 0x1000, gen := 3, pending := false }]), (1, [{ va := 0x1000, gen := 4 }])],
      let t := (grouped e.1 e.2).begun xwaitUses
      (grouped e.1 e.2).Admits xwaitUses ∧ DescriptorReads t (t.me.readX 32) ∧ t.me.arrivals = e.2 ∧
        groupWord t (t.me.readX 32) 3 = 4 ∧ groupWord t (t.me.readX 32) 4 = e.1) ∧
    (base.me.srcWord (.lit 8)).toNat ≤ base.me.vlmaxSew ∧ base.me.sewCode ≠ 0 ∧ Unbound base.me [1] := by
  refine ⟨admits_all (by decide +kernel), fun u h => ?_, fun e h => ?_, by decide +kernel, by decide +kernel,
    base_unbound _⟩
  · fin_cases h <;> exact ⟨⟨ok_of (by decide +kernel), ok_of (by decide +kernel)⟩, ok_of (by decide +kernel), by decide +kernel⟩
  · fin_cases h <;> exact ⟨admits_of (by decide +kernel), ⟨ok_of (by decide +kernel), ok_of (by decide +kernel)⟩,
      by decide +kernel⟩

/-! ### Launches -/

/-- A launch descriptor of the hart's own job at 0x41000, and its image at 0x42000: a text record loaded at 0x10000. -/
def launching : State := withMem base
  [(0x41000, 0x2000), (0x41010, 0x10000), (0x41018, 11), (0x41020, 8), (0x41028, 9), (0x41030, 10), (0x41038, 2 ^ 8 + 2 ^ 32),
    (0x42000, 1 + 4 * 2 ^ 32), (0x42008, 0x10000)]

def launchUses : Uses := { syncUses 5 32 true with userOnly := true, orders := false, releases := some true }

def poolEntry : PoolEntry :=
  { launch :=
      { link := { launch := 12, graph := 8, phase := 9, job := 10, harts := 1, queue := 3, root := loadRoot, slotw := 1 }, entry := 0x10000, paired := false, wpc := 0, xpc := 0
        x := Vector.replicate 48 3, md := Vector.replicate 8 {}, w := Vector.replicate 8 {}, c := Vector.replicate 64 4
        vcfg := 3, streams := Vector.replicate 8 {}, book := none }
    fromRing := false }

/-- The descriptor that the launching hart reads. -/
def launchImage : Nat :=
  ofWords 64 [0x2000, 0, 0x10000, 11, 8, 9, 10, 2 ^ 8 + 2 ^ 32]

def launchLink (s : State) : LaunchLink := Desc.link (BitVec.ofNat 2048 launchImage) 0 s.dev.queues[0].level

/-- The state in which LAUNCH has counted what it read. -/
def launchCounted (s : State) : State :=
  let t := s.begun launchUses
  let r := t.count (.main 0x41000)
  r.countAll (given (none, []) (r.launchOf (BitVec.ofNat 2048 launchImage) (launchLink t))).2

set_option maxRecDepth 100000 in
/-- LaunchInstructionsComplete: a valid descriptor with room in the pool, with none, and of a cancelled graph. -/
theorem witness_launch :
    let full := launching.modifyDev fun d => { d with pool := List.replicate 4096 poolEntry }
    let cancelled := launching.modifyDev fun d =>
      { d with records := [{ level := 2, id := 8, job := 10, out := 1, failed := 0, cancelled := true }] }
    (∀ s ∈ [launching, full, cancelled],
      let t := s.begun launchUses
      let r := t.count (.main 0x41000)
      s.Admits launchUses ∧ Succeeds (r.launchOf (BitVec.ofNat 2048 launchImage) (launchLink t)) ∧
      (t.me.readX 32).toNat % 64 = 0 ∧ t.place .memory .load (t.me.readX 32) = .ok (.main 0x41000) ∧
        t.readImage .memory (t.me.readX 32) 256 = .ok launchImage ∧
        (launchMade r (BitVec.ofNat 2048 launchImage) (launchLink t)).isSome = true ∧
        Desc.valid (BitVec.ofNat 2048 launchImage) (launchCounted s).myCore.srhEnabled = true ∧
        Desc.repl (BitVec.ofNat 2048 launchImage) = false ∧ (launchLink t).job = t.me.link.job) ∧
    (let c := launchCounted launching
     c.dev.cancelledId (launchLink launching) = none ∧ c.dev.canAccept (launchLink launching) = true) ∧
    (let c := launchCounted full
     c.dev.cancelledId (launchLink full) = none ∧ c.dev.canAccept (launchLink full) = false) ∧
    (launchCounted cancelled).dev.cancelledId (launchLink cancelled) ≠ none := by
  refine ⟨fun s h => ?_, by decide +kernel⟩
  fin_cases h <;> exact ⟨admits_of (by decide +kernel), ok_of (by decide +kernel), by decide +kernel⟩

def levelledUses (a b : Reg) (commits : Bool) : Uses :=
  { userOnly := true, illegal := !isLevelCode b, regs := [⟨2, 5, isScalar 5⟩, ⟨0, a, isG a⟩], sources := [⟨0, .x, a, true⟩]
    dests := [(.x, 5)], commits }
def cancelUses (a b : Reg) : Uses := { levelledUses a b true with releases := some true }

/-- The hart's own graph with three harts of which one failed, and a launch of another job. -/
def recorded : State := base.modifyDev fun d => { d with
  records := [{ level := 2, id := 8, job := 10, out := 3, failed := 1, cancelled := false },
    { level := 1, id := 1, job := 99, out := 1, failed := 0, cancelled := false },
    { level := 4, id := 10, job := 10, out := 1, failed := 2, cancelled := false }]
  pool := [poolEntry] }

/-- LaunchInstructionsComplete: CANCEL of the own graph and of a launch of another job, CWAIT of an identifier without a
record and of the own job, whose last hart is the caller; the first and the last selector of SELF. -/
theorem witness_levels :
    (∀ u ∈ [cancelUses 0 2, cancelUses 1 1, levelledUses 0 4 true, levelledUses 31 3 true, levelledUses 0 4 false,
      { userOnly := true, illegal := decide (9 < (0 : Reg).toNat), regs := [⟨2, 5, isScalar 5⟩], dests := [(.x, 5)] },
      { userOnly := true, illegal := decide (9 < (9 : Reg).toNat), regs := [⟨2, 0, isScalar 0⟩], dests := [(.x, 0)] }],
      recorded.Admits u) ∧
    (let t := recorded.begun (levelledUses 0 2 true)
     t.dev.records = recorded.dev.records ∧
     (∃ r, t.dev.record 2 t.me.link.graph = some r ∧ r.job = t.me.link.job) ∧
       (∀ r, t.dev.record 1 (t.me.readX 1) = some r → r.job ≠ t.me.link.job) ∧ t.dev.record 3 (t.me.readX 31) = none ∧
       ∃ r, t.dev.record 4 t.me.link.job = some r ∧ r.out ≤ (if t.me.link.idAt 4 = t.me.link.job then 1 else 0)) := by
  refine ⟨admits_all (by decide +kernel), by decide +kernel, ⟨_, by rfl, by rfl⟩, fun r h => ?_, by decide +kernel, ⟨_, by rfl, by decide +kernel⟩⟩
  have e : ((recorded.begun (levelledUses 0 2 true)).dev.record 1 ((recorded.begun (levelledUses 0 2 true)).me.readX 1)).map (·.job) = some 99 := by decide +kernel
  rw [h] at e
  have e : r.job = 99 := by simpa using e
  rw [e]
  decide +kernel

/-- LaunchInstructionsComplete, EXIT: a hart whose engines have nothing left to do, and the firmware context. -/
theorem witness_exit :
    (let u : Uses := { commits := true, orders := true }
     let t := base.begun u
     base.Admits u ∧ base.cur.ctx ≠ 4 ∧ t.me.cmds = [] ∧ t.me.followOns = [] ∧
       t.pushesOf base.cur.core base.cur.ctx none = false ∧ t.me.addDue = false) ∧
    (base.actingAs 0 4).Admits { commits := true } ∧ (base.actingAs 0 4).cur.ctx = 4 :=
  ⟨⟨admits_of (by decide +kernel), by decide +kernel⟩,
    admits_of (by decide +kernel), by decide +kernel⟩

/-! ### Traps and system registers -/

def trapUses (b : Src) : Uses :=
  { len := srcBytes b, regs := srcField isScalar b, sources := srcSource .x b, commits := true }

/-- TrapRequests: TRAP with a register and with a literal, and BREAK, in a user context and in the firmware context. -/
theorem witness_trapRequests : ∀ s ∈ [base, base.actingAs 0 4],
    ∀ u ∈ [trapUses (.reg 5 true), trapUses (.lit 0xFFFFFFFF), { commits := true }], s.Admits u := by
  intro s h
  fin_cases h <;> exact admits_all (by decide +kernel)

/-- A follow-on of the hart that reads the line of the open strip's store. -/
def blockedStrip : State := opened.modifyMe fun h => { h with
  followOns := [{
    ticket := 1, pc := 0x10000, row := 0, started := false, stopped := false, bytes := 64
    work := {
      word := 0, z := 0, fmt := 4, kn := 0, acc := false
      a := .descriptor { va := 0x1000, stride := 32 }, b := .descriptor { va := 0x2000, stride := 32 } } }] }

/-- TrapEntry: an open strip that commits, one that waits for a follow-on, and a queue of ordinary records that is full. -/
theorem witness_trapEntry :
    (opened.cur.ctx = userId 0 ∧ opened.quiesce.me.strip = [] ∧ (opened.quiesce.core 0).ordinary.length < 60) ∧
    (blockedStrip.cur.ctx = userId 0 ∧ blockedStrip.quiesce.me.strip ≠ []) ∧
    (let s := opened.modifyCore 0 fun k => { k with ordinary := List.replicate 60 { regs := {}, of := .hart } }
     s.cur.ctx = userId 0 ∧ s.quiesce.me.strip = [] ∧ (s.quiesce.core 0).ordinary.length = 60) := by decide +kernel

/-- ChecksRaiseTraps: for each clause, what an instruction asks that meets its conditions. -/
theorem witness_checks :
    ({ illegal := true } : Uses).illegal = true ∧
    (let s := base.modifyMe fun h => { h with
       streams := vset h.streams 2 { spec := BitVec.ofNat 512 (64 * 2 ^ 64), phase := .loaded, bound := some 5 } }
     s.me.badRead 5 = true) ∧
    (({ priv := true } : Uses).illegal = false ∧ ({ priv := true } : Uses).priv = true ∧ base.cur.ctx ≠ 4) ∧
    (({ userOnly := true } : Uses).userOnly = true ∧ (base.actingAs 0 4).cur.ctx = 4) ∧
    (let u : Uses := { regs := [⟨2, 5, true⟩, ⟨0, 63, false⟩] }
     u.illegal = false ∧ ¬((u.priv = true ∧ base.cur.ctx ≠ 4) ∨ (u.userOnly = true ∧ base.cur.ctx = 4)) ∧
       u.regs.find? (fun f => !f.ok) = some ⟨0, 63, false⟩) ∧
    (let s := base.modifyMe fun h => { h with vlazy := true }
     ({ vown := true } : Uses).vown = true ∧ s.me.vlazy = true ∧ ∀ f ∈ ({ vown := true } : Uses).regs, f.ok = true) ∧
    (let s := base.modifyMe fun h => { h with full := h.full &&& ~~~2 }
     let u : Uses := { sources := [⟨0, .x, 1, true⟩] }
     u.sources.find? (fun q => q.ready && s.me.isEmptySource q) = some ⟨0, .x, 1, true⟩) :=
  ⟨rfl, by decide +kernel, ⟨rfl, rfl, by decide +kernel⟩, ⟨rfl, by decide +kernel⟩, ⟨rfl, by decide +kernel, by decide +kernel⟩,
    ⟨rfl, by decide +kernel, by decide +kernel⟩, by decide +kernel⟩

/-- The firmware context of core 0, with the registers of `hart`, a1 in page 9 at 0; context 0 is trapped and CTXSEL names
it. -/
def firm : State :=
  (withMem (base.actingAs 0 4) [(0x30048, 0x1F)]).modifyCore 0 fun k =>
    { k with
      fw := { pc := 0x10000, first := false, x := hart.x.set 33 0x92000 }, fwroot := loadRoot, lanemap := BitVec.allOnes 64
      ctxs := k.ctxs.set 0 { k.ctxs[0] with
        status := .trapped, hart := { k.ctxs[0].hart with trap := { cause := 0x12, val := 5, epc := 0x10004, elt := 2, row := 3 } } } }

def readUses (d a : Reg) : Uses :=
  { regs := [⟨2, d, isScalar d⟩], dests := [(.x, d)]
    priv := !decide ((10 ≤ a.toNat ∧ a.toNat ≤ 21) ∨ a.toNat = 24), commits := true }

def writeUses (b : Src) : Uses :=
  { len := srcBytes b, priv := true, regs := srcField isScalar b, sources := srcSource .x b, commits := true }

def slotUses (a : Reg) : Uses :=
  { priv := true, regs := [⟨0, a, isBelow 31 a⟩], sources := [⟨0, .xs 2, a, true⟩], commits := true }

/-- SystemRegisters: SYSRD in both kinds of context, a refused one, SYSWR of a register and of a literal, LANEMAP that
falls below 32 lanes, and a slot table whose entries are contexts, idle and F. -/
theorem witness_system :
    (∀ a ∈ [(0 : Reg), 1, 9, 10, 21, 24, 25, 63], firm.Admits (readUses 5 a)) ∧ (firm.core 0).inHand = none ∧
    (∀ a ∈ [(10 : Reg), 21, 24], base.Admits (readUses 5 a)) ∧
    (base.cur.ctx ≠ 4 ∧ ¬((10 ≤ (25 : Reg).toNat ∧ (25 : Reg).toNat ≤ 21) ∨ (25 : Reg).toNat = 24)) ∧
    (∀ b ∈ [Src.reg 5 true, .lit 0xFFFF], firm.Admits (writeUses b)) ∧
    (let t := firm.begun (writeUses (.lit 0xFFFF))
     let x := t.me.srcWord (.lit 0xFFFF)
     popCount 64 ((t.core 0).lanemap &&& x).toNat < 32 ∧ (t.core 0).lanemap &&& x ≠ (t.core 0).lanemap) ∧
    (∀ s ∈ [firm, base], s.Admits { regs := [⟨2, 5, isScalar 5⟩], dests := [(.x, 5)] }) ∧
    (let s := withX firm [(5, 0x7777_7777_7777_7210), (6, 0x4777_7777_7777_7773)]
     let t := s.begun (slotUses 5)
     let code (e : Nat) : Nat :=
       if e < 16 then (t.me.readX 5).toNat / 2 ^ (4 * e) % 16 else (t.me.readX (5 + 1)).toNat / 2 ^ (4 * (e - 16)) % 16
     s.Admits (slotUses 5) ∧ (∀ e, e < 32 → code e = 7 ∨ code e < 5) ∧ code 31 = 4) := by
  refine ⟨fun a h => ?_, by decide +kernel, fun a h => ?_, by decide +kernel, fun b h => ?_, by decide +kernel, fun s h => ?_,
    admits_of (by decide +kernel), by decide +kernel, by decide +kernel⟩
  all_goals fin_cases h <;> exact admits_of (by decide +kernel)

def wfnUses (d : Reg) : Uses := { regs := [⟨2, d, isScalar d⟩], dests := [(.x, d)], priv := true, commits := true }

def posted (cause : BitVec 8) : Record := { regs := { cause, epc := 0x10004 }, of := .hart }

/-- RecordsAndReturn: a fatal record, an ordinary one, and a trapped hart to resume or to kill. -/
theorem witness_records :
    (let s := firm.modifyCore 0 fun k => { k with fatal := [posted 2, posted 3], ordinary := [posted 1] }
     let k := (s.begun (wfnUses 5)).core 0
     s.Admits (wfnUses 5) ∧ (5 : Reg) ≠ 0 ∧ k.stagedFw = none ∧ k.inHand = none ∧ k.outside = [] ∧
       k.fatal = posted 2 :: [posted 3]) ∧
    (let s := firm.modifyCore 0 fun k => { k with ordinary := [posted 1] }
     let k := (s.begun (wfnUses 5)).core 0
     s.Admits (wfnUses 5) ∧ k.stagedFw = none ∧ k.inHand = none ∧ k.outside = [] ∧ k.fatal = [] ∧
       k.ordinary = posted 1 :: []) ∧
    (let u : Uses := { priv := true, commits := true, orders := true }
     let t := firm.begun u
     let h := t.hart 0 (userId 0)
     firm.Admits u ∧ ((t.core 0).ctxsel.toNat = (0 : UserCtx).val ∧ (t.core 0).ctxs[(0 : UserCtx).val].status = .trapped ∧
       (t.core 0).inHand = none ∧ h.strip = [] ∧ h.trap.epc.toNat % 4 = 0 ∧ h.trap.cause ≠ causeCancelled ∧ h.trap.cause ≠ causeFenced ∧
       h.trap.cause ≠ 0x14 ∧ (t.quitFor 0 (userId 0)).killWaits 0 (userId 0) = false) ∧
       ∀ ws t', (t.actingAs 0 (userId 0)).fetchBlock h.trap.epc = .ok (ws, t') → isLiteralAt ws h.trap.epc = false) :=
  ⟨⟨admits_of (by decide +kernel), by decide +kernel⟩,
    ⟨admits_of (by decide +kernel), by decide +kernel⟩,
    admits_of (by decide +kernel), by decide +kernel, fun ws t' h => by
      have e : ((firm.begun { priv := true, commits := true, orders := true }).actingAs 0 (userId 0)).fetchBlock 0x10004 = .ok (ws, t') := h
      have f : ((((firm.begun { priv := true, commits := true, orders := true }).actingAs 0 (userId 0)).fetchBlock 0x10004).toOption.all
        fun p => !isLiteralAt p.1 0x10004) = true := by decide +kernel
      rw [e] at f
      have g : isLiteralAt ws 0x10004 = false := by simpa [Except.toOption] using f
      exact g⟩

/-! ### Context switching -/

def switchUses : Uses :=
  { priv := true, regs := [⟨2, 5, isScalar 5⟩, ⟨0, 33, isAddress 33⟩], sources := [⟨0, .x, 33, true⟩], dests := [(.x, 5)]
    commits := true, orders := true }

/-- `firm` with context 0 free and a scalar image at the address that a1 holds: 1 vrow, 8 names, its accumulator image at
0x98000, hart 1. -/
def vacated : State :=
  withMem (firm.modifyCore 0 fun k => { k with ctxs := k.ctxs.set 0 { k.ctxs[0] with status := .free } })
    [(0x2000, 0x101), (0x2008, 1), (0x21A8, 1), (0x21B8, 8), (0x3268, 0x98000)]

/-- `firm` with hart 9's contents in the quarter of context 0. -/
def shared : State := firm.modifyCore 0 fun k =>
  { k with lazyRegions :=
      [{ owner := 9, part := .quarter, quarter := 0, vec := hart.vec, names := 8, vlmax := 8, shrunk := false, image := 0x96000 }] }

/-- `firm` with saved tiles at 0x8000: none, or the one of handle 3. -/
def saved (n : Nat) : State :=
  withMem (firm.modifyCore 0 fun k =>
    { k with ctxs := k.ctxs.set 0 { k.ctxs[0] with hart := { k.ctxs[0].hart with zsaved := true, zimage := 0x98000 } } }) [(0x8000, n)]

set_option maxRecDepth 100000 in
/-- ContextSwitchCompletes, SOUT and SIN. -/
theorem witness_scalarImages :
    (let t := firm.begun switchUses
     firm.Admits switchUses ∧ (t.me.readX 33).toNat % 64 = 0 ∧ (t.core 0).ctxsel.toNat = (0 : UserCtx).val ∧
       t.status 0 (userId 0) = .trapped ∧ t.drained 0 (userId 0) = true ∧
       Stores ((t.resetAdvice 0 (userId 0)).takeShare 0 0) (t.me.readX 33) 8192) ∧
    (let t := vacated.begun switchUses
     let scalar := t.readImage .memory (t.me.readX 33) 8192
     vacated.Admits switchUses ∧ Succeeds scalar ∧ t.status 0 (userId 0) = .free ∧ scalarImageOk (given 0 scalar) = true ∧
       vcfgFault (word (imageWord (given 0 scalar) 408)) (bitAt (t.core 0).srhen.toNat 0) = none ∧
       (let t' := t.countImage .memory (t.me.readX 33) 8192
        (t'.regionForImage 0 (t'.hartOfImage (given 0 scalar))).isSome = true)) :=
  ⟨⟨admits_of (by decide +kernel), by decide +kernel, by decide +kernel, by decide +kernel, by decide +kernel,
      by unfold Stores; decide +kernel⟩,
    admits_of (by decide +kernel), ok_of (by decide +kernel), by decide +kernel⟩

/-- The region of `shared`. -/
def sharedRegion : LazyRegion :=
  { owner := 9, part := .quarter, quarter := 0, vec := hart.vec, names := 8, vlmax := 8, shrunk := false, image := 0x96000 }

set_option maxRecDepth 100000 in
/-- ContextSwitchCompletes, VOUT and VIN of a context whose region hart 9 owns, and of one that owns its own. -/
theorem witness_vectorSwitch :
    (let t := shared.begun switchUses
     let va := t.me.readX 33
     let n := 2240 + 8 * sharedRegion.vlmax.toNat + 8 * sharedRegion.names.toNat * sharedRegion.vlmax.toNat
     let t1 := storing t va n (vectorImage sharedRegion.vec sharedRegion.vlmax.toNat sharedRegion.names.toNat sharedRegion.shrunk)
     shared.Admits switchUses ∧ t.status 0 (userId 0) ≠ .free ∧
       (t.lazyFor 0 (t.hart 0 (userId 0))).find? (fun r => r.owner != (t.hart 0 (userId 0)).id) = some sharedRegion ∧
       Stores t va n ∧ Stores t1 (sharedRegion.image + 4704) 8) ∧
    (let t := firm.begun switchUses
     (t.lazyFor 0 (t.hart 0 (userId 0))).find? (fun r => r.owner != (t.hart 0 (userId 0)).id) = none) ∧
    (let s := withX firm [(33, 0)]
     s.Admits switchUses ∧ (s.begun switchUses).me.readX 33 = 0) ∧
    (let s := withMem firm [(0x2000, 0x201), (0x2008, 8), (0x2010, 8), (0x2018, 1)]
     let t := s.begun switchUses
     let va := t.me.readX 33
     s.Admits switchUses ∧ t.status 0 (userId 0) ≠ .free ∧ va ≠ 0 ∧ Succeeds (t.readImage .memory va 64) ∧
       badHeader (imageAt t va 64) = none ∧ fieldOf (imageAt t va 64) 128 64 = 8 ∧ fieldOf (imageAt t va 64) 64 64 = 8 ∧
       Succeeds (t.readImage .memory va (2240 + 8 * 8 + 8 * 8 * 8))) :=
  ⟨⟨admits_of (by decide +kernel), by decide +kernel, by decide +kernel, by unfold Stores; decide +kernel, by unfold Stores; decide +kernel⟩,
    by decide +kernel, ⟨admits_of (by decide +kernel), by decide +kernel⟩, admits_of (by decide +kernel), by decide +kernel,
    by decide +kernel, ok_of (by decide +kernel), by decide +kernel, by decide +kernel, by decide +kernel, ok_of (by decide +kernel)⟩

set_option maxRecDepth 100000 in
/-- ContextSwitchCompletes, ZOUT of a hart without tiles. -/
theorem witness_tilesOut :
    let t := vacated.begun switchUses
    let image := imageAt t (t.me.readX 33) 8192
    let at_ := word (imageWord image 4712)
    let t' := t.countImage .memory (t.me.readX 33) 8192
    let qs := (t.core 0).slotsOf (BitVec.ofNat 48 (imageWord image 8))
    vacated.Admits switchUses ∧ Succeeds (t.readImage .memory (t.me.readX 33) 8192) ∧
      (scalarImageOk image = true ∧ at_ ≠ 0 ∧ at_.toNat % 64 = 0 ∧ ∀ z ∈ qs, z.poison = []) ∧
      Stores t' at_ (64 + 8256 * qs.length) ∧
      Stores (storing t' at_ (64 + 8256 * qs.length) (accImage qs)) (t.me.readX 33) 8 :=
  ⟨admits_of (by decide +kernel), ok_of (by decide +kernel), by decide +kernel, by unfold Stores; decide +kernel,
    by unfold Stores; decide +kernel⟩

/-- `saved` with every slot bound. -/
def crowded : State := (saved 8).modifyCore 0 fun k =>
  { k with slots := (List.range 128).map fun n => { number := BitVec.ofNat 7 n, owner := 9, handle := 0, kind := .fp64, tile := 0 } }

/-- What ZIN asks of a hart with saved tiles. -/
abbrev Zins (t : State) : Prop :=
  let h := t.hart 0 (userId 0)
  let header := t.readImage .memory h.zimage 64
  let n := 64 + 8256 * popCount 16 (given 0 header)
  Succeeds header ∧ Succeeds (t.readImage .memory h.zimage n) ∧ t.status 0 (userId 0) ≠ .free ∧ h.zsaved = true ∧ h.zimage ≠ 0 ∧
    h.zimage.toNat % 64 = 0 ∧ given 0 header < 2 ^ 16 ∧ ∀ z ∈ savedTiles (imageAt t h.zimage n), badTileWord z.2 = none

/-- What becomes of its tiles. -/
def zinResult (t : State) : Option Nat :=
  let h := t.hart 0 (userId 0)
  let n := 64 + 8256 * popCount 16 (imageAt t h.zimage 64)
  ((t.countImage .memory h.zimage n).bindSaved 0 h.id (savedTiles (imageAt t h.zimage n))).2

set_option maxRecDepth 100000 in
/-- ContextSwitchCompletes, ZIN with nothing saved, with an image of no tile, and of a tile for which no slot is free. -/
theorem witness_tilesIn :
    ((firm.begun switchUses).hart 0 (userId 0)).zsaved = false ∧
    ((saved 0).Admits switchUses ∧ Zins ((saved 0).begun switchUses) ∧ zinResult ((saved 0).begun switchUses) = none) ∧
    (crowded.Admits switchUses ∧ Zins (crowded.begun switchUses) ∧ zinResult (crowded.begun switchUses) = some 3) :=
  ⟨by decide +kernel, ⟨admits_of (by decide +kernel), ⟨ok_of (by decide +kernel), ok_of (by decide +kernel), by decide +kernel⟩,
      by decide +kernel⟩,
    admits_of (by decide +kernel), ⟨ok_of (by decide +kernel), ok_of (by decide +kernel), by decide +kernel⟩, by decide +kernel⟩

/-! ### The Second and the engines -/

/-- `base` with a book of six words, of which word 4 is a literal, and a Second that stands in it with two marks. -/
def advised : State := base.modifyCore 0 fun k =>
  { k with
    books := [{ launch := 7, version := 0, code := [0xF400000B, 0xF4000005, 0xF400000B, 0xF020C0C5, 40, 0xF400000B], index := [(11, 2)] }]
    advice := k.advice.set 0
      { running := true, pc := 2, d := Vector.ofFn fun i : Fin 16 => word i.val
        marks := [{ id := 11, snap := Vector.replicate 48 (some 6) }, { id := 5, snap := Vector.replicate 48 none }]
        snap := some (Vector.replicate 48 (some 9)), lastId := some 4 } }

/-- AdviceInstructionsComplete: every source, counts and codes at their ends, addresses that lead to memory and one that
does not, jumps taken, not taken and out of the book, and a mark that AWAIT asks for, one that it does not, and none. -/
theorem witness_advice :
    advised.cur.ctx = userId 0 ∧
    (∀ b ∈ [Src.reg 1 false, .reg 15 true, .const 3, .lit 256], ∀ r f, b = .reg r f → r.toNat < 16) ∧
    (∃ book, (advised.core 0).bookOf 0 = some book ∧ book.isInstruction 5 = true ∧ book.isInstruction 4 = false) ∧
    (let v := (advised.core 0).advice[(0 : UserCtx).val]
     v.actions.length < 32 ∧ (v.d[0] = 0 ∧ v.d[1] = 1 ∧ v.d[15] = 15 ∧ ¬v.d[15].toInt < 0) ∧
       (∃ m ms, v.marks = m :: ms ∧ m.id = 11 ∧ m.id ≠ 5)) ∧
    ((base.core 0).advice[(0 : UserCtx).val]).marks = [] ∧
    ((1 : Word).toNat ≤ 256 ∧ (256 : Word).toNat ≤ 256 ∧ (3 : Word).toNat ≤ 3 ∧ (255 : Word).toNat < 256 ∧ (48 : Reg).toNat ≤ 48) ∧
    (advised.locate .memory .load 0x1200 = .ok (.main 0x41200) ∧ advised.locate .memory .load 0x1240 = .ok (.main 0x41240)) ∧
    (advised.locate .memory .load 0x900000).toOption = none ∧
    (advised.locate .memory .load 0x1FFC0 = .ok (.main 0x5FFC0) ∧ (advised.locate .memory .load 0x20000).toOption = none) := by
  refine ⟨rfl, fun b h r f e => ?_, ⟨_, rfl, by decide +kernel, by decide +kernel⟩, ⟨by decide +kernel, by decide +kernel, _, _, rfl, by decide +kernel⟩,
    by decide +kernel, by decide +kernel, by decide +kernel, by decide +kernel⟩
  fin_cases h <;> cases e <;> decide

def memoryRead : PendingRead := { place := .main 0x41000, bytes := 8, upTo := 0, lo := 0, width := 64, sext := false }

/-- Results on their way: without reads left, of a vector register and of a scalar one, and with one read. -/
def awaiting : State := base.modifyMe fun h =>
  { h with fills := [{ vector := false, reg := 47, value := 5 }, { vector := true, reg := 63, value := 6 },
      { vector := false, reg := 3, value := 0, reads := [memoryRead] }] }

/-- A copy command from 0x1000 to 0x2000 of the shape given. -/
def command (shape : Nat) : CopyCmd :=
  { ticket := 1, pc := 0x10000, src := 0x1000, dst := 0x2000, shape := word shape, strides := word (64 * 2 ^ 32 + 64), follow := none
    phase := .queued }

def commanded (q : CopyCmd) : State := base.modifyMe fun h => { h with cmds := [q] }

theorem triple_of {α β γ : Type} {x : α × β × Option γ} (h : x.2.2.isNone = true) : x.2.2 = none := Option.isNone_iff_eq_none.mp h

/-- EngineActsComplete: long-latency results of both kinds; a strip that closes, one that waits for a follow-on, one that a
parked hart has left, and one that is struck. -/
theorem witness_results :
    (∀ n < 3, ((awaiting.hart 0 0).fills[n]?).isSome = true ∧ n < 2 ^ 16) ∧
    (((awaiting.hart 0 0).fills.take 2).all (·.reads.isEmpty) = true ∧
      ((awaiting.hart 0 0).fills[2]?).map (·.reads) = some [memoryRead]) ∧
    (∀ e ∈ [(opened, true), (blockedStrip, false)], let t := e.1.modifyMe fun h => { h with closing := true }
      (t.hart 0 0).closing = true ∧ decide ((t.actingAs 0 0).landVectors.commitStrip.me.strip = []) = e.2) ∧
    (let t := opened.setStatus 0 0 (.waiting .parked)
     (t.hart 0 0).closing = false ∧ t.status 0 0 = .waiting .parked ∧ Wait.parked.isGang = true) ∧
    ((opened.hart 0 0).strip ≠ [] ∧ (opened.hart 0 0).trapDue = none ∧ opened.status 0 0 = .running ∧ (0 : CtxId) ≠ 4 ∧
      ∀ g ∈ (opened.hart 0 0).fills, (g.vector, g.reg) ∉ (opened.hart 0 0).checkpoint.owed) := by
  refine ⟨by decide +kernel, by decide +kernel, fun e h => ?_, by decide +kernel, by decide +kernel⟩
  fin_cases h <;> decide +kernel

/-- EngineActsComplete: copy commands of no byte, of two rows of which one moves, of one row, and moved. -/
theorem witness_engines :
    (∀ n ∈ [2 * 2 ^ 24, 64, 2 ^ 24 + 64, 2 * 2 ^ 24 + 64], let s := commanded (command n)
      EngineFree s 0 1 ∧ (s.hart 0 0).headCmd = some (command n) ∧ shapeCbv (command n).shape = false ∧
        s.outranked 0 0 Hart.copyReady = false ∧ (s.hart 0 0).followOns = []) ∧
    (let q := command (2 * 2 ^ 24 + 64)
     let s := (commanded q).actingAs 0 0
     (State.moveRows 2 64 (if (s.hart 0 0).readsMeet q then s.performReads else s) q).2.2 = none) ∧
    (let s := (commanded (command (2 ^ 24 + 64))).actingAs 0 0
     s.locate .copy .load 0x1000 = .ok (.main 0x41000) ∧ s.locate .copy .store 0x2000 = .ok (.main 0x42000) ∧
       s.dev.isLost 0x42000 = false) ∧
    (let q := { command 64 with phase := .moved, slotBase := some 0 }
     ((commanded q).hart 0 0).headCmd = some q) := by
  refine ⟨fun n h => ?_, triple_of (by decide +kernel), by decide +kernel⟩
  fin_cases h <;> (unfold EngineFree; decide +kernel)

/-- A follow-on MMA of the hart of `slotted`, onto its slot 2. -/
def following : FollowOn :=
  { ticket := 1, pc := 0x10000, work := workOf 2 1 true, row := 0, started := false, stopped := false, bytes := 128 }

/-- EngineActsComplete: a follow-on that can run, and additions to memory, clean and poisoned. -/
theorem witness_followOn :
    (let s := slotted.modifyMe fun h => { h with followOns := [following] }
     EngineFree s 0 2 ∧ (s.hart 0 0).followOns = following :: [] ∧ following.stopped = false ∧ following.row < 32 ∧
       s.outranked 0 0 Hart.followReady = false ∧
       (∀ l, l < 32 → Succeeds ((s.actingAs 0 0).mmaLine following.work false l) ∧
         Succeeds ((s.actingAs 0 0).mmaLine following.work true l)) ∧
       ∃ slot, (s.actingAs 0 0).slotOf 2 = some slot ∧ ∀ k, k < 32 → slot.rowPoisoned k = false) ∧
    base.dev.isPoisoned 0x41000 = false ∧ base.dev.isLost 0x41000 = false ∧
    ((base.modifyDev fun d => { d with poison := [0x41000 / 64] }).dev.isPoisoned 0x41000 = true) := by
  refine ⟨⟨by unfold EngineFree; decide +kernel, rfl, rfl, by decide, by decide +kernel, ?_,
    { number := 0, owner := 1, handle := 2, kind := .fp32, tile := 0x3F800000 }, by decide +kernel, by decide +kernel⟩, by decide +kernel⟩
  exact lines_of (by decide +kernel)

/-- Bit 7 of a spec's second word: the stream's elements are on device 3. -/
def remoteStream (out : Bool) (phase : Phase) : Stream :=
  { spec := BitVec.ofNat 512 (specOf out out 0x1000 20 + (128 + 3 * 2 ^ 16) * 2 ^ 64), phase }

/-- StreamAndSecondActsComplete: streams with an element to fetch, here and on another device, with a condition to read,
and with an addition to make or to be made since another spec took the place, here and on another device. -/
theorem witness_streamEngine :
    (let t : Stream := { streamOf false false 0x1000 20 with phase := .running, position := 19 }
     let a := (streamed t).actingAs 0 0
     t.isOutput = false ∧ t.remote = false ∧ t.position.toNat + t.nextFetch < t.total ∧ a.fetchHeld t = false ∧
       Succeeds (a.fetchElement (t.address (t.position.toNat + t.nextFetch)) (2 ^ t.esz))) ∧
    (let t := remoteStream false .running
     t.remote = true ∧ t.isOutput = false ∧ t.nextFetch < t.total ∧ base.dev.reaches t.device = true ∧
       ((streamed t).actingAs 0 0).fetchHeld t = false) ∧
    (∀ n ∈ [0, 49], let t : Stream := { streamOf false false 0x1000 20 with phase := .armed, cond := 0x1008, threshold := word n }
     let a := (streamed t).actingAs 0 0
     t.condFault = none ∧ a.locate .memory .load t.cond = .ok (.main 0x41008) ∧ a.isPoisonedAt (.main 0x41008) 8 = false) ∧
    ∀ t ∈ [{ streamOf true true 0x1000 20 with phase := .done, position := 20 }, { remoteStream true .done with position := 20 }],
      let s := (streamed t).setStatus 0 0 (.waiting (.swait 1))
      (s.dev.placed = [] ∧ (s.hart 0 0).additions = [] ∧ t.hasDoneAdd = true ∧ t.isOutput = true ∧ t.phase ≠ .unset ∧
        t.total ≤ t.position.toNat ∧ t.doneAdd = .due ∧ t.condFault = none ∧ s.waitOf 0 0 = some (.swait 1) ∧
        (s.hart 0 0).strip = [] ∧ (s.hart 0 0).fills.all (·.reads.isEmpty) = true ∧ (s.hart 0 0).followPending = false ∧
        (s.actingAs 0 0).partnerRest = false ∧ s.pushesOf 0 0 none = false ∧
        let o : OwedAdd := { id := 1, stream := t, before := 3 }
        ((s.modifyMe fun h => { h with additions := [o] }).actingAs 0 0).owedWaits o = false) ∧
        (if t.remote then s.dev.reaches t.device = true else
          (s.actingAs 0 0).locate .memory .rmw t.flag = .ok (.main 0x42000) ∧ s.dev.isPoisoned 0x42000 = false) := by
  refine ⟨⟨by decide +kernel, by decide +kernel, by decide +kernel, by decide +kernel, ok_of (by decide +kernel)⟩, by decide +kernel,
    by decide +kernel, fun t h => ?_⟩
  fin_cases h <;> decide +kernel

/-- StreamAndSecondActsComplete, an addition that no SWAIT waits for: the hart runs, with a strip that is empty. -/
theorem witness_earlyAdd :
    let t : Stream := { streamOf true true 0x1000 20 with phase := .done, position := 20 }
    let s := streamed t
    s.dev.placed = [] ∧ (s.hart 0 0).additions = [] ∧ t.hasDoneAdd = true ∧ t.isOutput = true ∧ t.phase ≠ .unset ∧
      t.total ≤ t.position.toNat ∧ t.doneAdd = .due ∧ t.condFault = none ∧ s.waitOf 0 0 ≠ some (.swait 1) ∧
      s.waitOf 0 0 ≠ some .exit ∧ (s.hart 0 0).strip = [] ∧ s.pushesOf 0 0 (some 1) = false ∧ t.remote = false ∧
      (s.actingAs 0 0).locate .memory .rmw t.flag = .ok (.main 0x42000) ∧ s.dev.isPoisoned 0x42000 = false := by
  decide +kernel

/-- A packet of a barrier of device 3's, whose root is at 0x1040. -/
def farPacket : XPacket :=
  { root := 0x1040, trRoot := loadRoot, device := 3, descriptor := 0x2000, result := 0x3000, index := 1, generation := 6
    barrier := true, op := 0, sew := 0, bf := false, n := 0, det := false, values := [] }

/-- `base` with the root table of job 10, and a packet and a push on their way to device 3. -/
def remote : State := base.modifyDev fun d =>
  { d with remoteRoots := [(10, loadRoot)], outgoing := [.packet 3 farPacket, .push 3 { core := 0, hart := 1, launch := 7 } 1 1 0x1000 8 77] }

/-- StreamAndSecondActsComplete: elements of both sizes at the ends that another device asks for, an addition, a root
that leaves, an answered push, a Second that is idle with a mark, one that is not, and actions. -/
theorem witness_remote :
    (∀ n ∈ [(0 : Fin 4), 3], let r : RemoteRequest := { job := 10, va := 0x1008, log2Size := n }
     remote.dev.rootLeaving r.job = false ∧ remote.remotePlace r .store = .ok (.main 0x41008) ∧ remote.dev.isLost 0x41008 = false ∧
       remote.remotePlace r .load = .ok (.main 0x41008) ∧ remote.isPoisonedAt (.main 0x41008) (2 ^ n.val) = false) ∧
    (let r : RemoteRequest := { job := 10, va := 0x1008, log2Size := 3, isAdd := true }
     remote.remotePlace r .rmw = .ok (.main 0x41008) ∧ remote.dev.isPoisoned 0x41008 = false ∧
       (remote.modifyDev fun d => { d with rrLeaving := some 10 }).dev.rootLeaving r.job = true) ∧
    (let pusher : Pusher := { core := 0, hart := 1, stream := 1, device := 3 }
     remote.dev.outgoing.any (isPushTo pusher 0x1000) = true ∧ remote.dev.reaches pusher.device = true) ∧
    (let s := advised.modifyCore 0 fun k => { k with advice := k.advice.set 0 { k.advice[0] with running := false } }
     let v := (s.core 0).advice[(0 : UserCtx).val]
     v.running = false ∧ ∃ m ms, v.marks = m :: ms) ∧
    ((advised.core 0).advice[(0 : UserCtx).val]).running = true ∧
    (∀ act ∈ [Action.prio 3, .order 2, .home 0x1000 3, .home 0x900000 3], let s := base.modifyCore 0 fun k =>
        { k with advice := k.advice.set 0 { k.advice[0] with actions := [act] } }
     ((s.core 0).advice[(0 : UserCtx).val]).actions = act :: []) ∧
    (base.actingAs 0 (userId 0)).locate .memory .load (word 0x1000) = .ok (.main 0x41000) ∧
    ((base.actingAs 0 (userId 0)).locate .memory .load (word 0x900000)).toOption = none :=
  ⟨by decide +kernel, by decide +kernel, by decide +kernel, ⟨by decide +kernel, _, _, rfl⟩, by decide +kernel⟩

/-! ### The Arbiter, the cores and the host -/

/-- `base` with a launch in the pool, for queue 3; with one switched-out context instead; and with every core filled, at a
cycle that is a multiple of 4,096. -/
def pooled : State := base.modifyDev fun d => { d with pool := [poolEntry] }

def switched : SwitchedOut :=
  { hart := { hart with id := 9, link := { hart.link with launch := 12, queue := 3 } }, image := 0x9000, core := 0, ctx := 0 }

def outside : State := base.modifyDev fun d => { d with switchedOut := [switched] }

def full : State :=
  let seat (s : State) (c : CoreId) : State :=
    (s.setHart c 0 { hart with id := BitVec.ofNat 48 (c.val + 1) }).setStatus c 0 .running
  (seat (seat (pair .running .none) 2) 3).modifyDev fun d => { d with pool := [poolEntry] }

theorem fst_of {α β : Type} {x : α × β} {a : α} (h : x.1 = a) : ∃ b, x = (a, b) := ⟨x.2, by rw [← h]⟩

theorem pair_and {α β : Type} {x : Option α × β} {f : α → β → Bool} (h : x.1.any (fun a => f a x.2) = true) :
    ∃ a b, x = (some a, b) ∧ f a b = true := by
  obtain ⟨_ | a, b⟩ := x
  · simp at h
  · exact ⟨a, b, rfl, by simpa using h⟩

/-- Whether the work chosen is the launch of `poolEntry`, or the context `switched`. -/
def isEntry : Work → Bool
  | .entry e => e == poolEntry
  | .context _ => false

def isContext : Work → Bool
  | .context o => o == switched
  | .entry _ => false

set_option maxRecDepth 100000 in
/-- SchedulerActsComplete: nothing to choose, a launch with room, a context with room, and a launch without, at a boundary. -/
theorem witness_arbiter :
    (base.dev.selected = none ∧ ∃ s1, base.select [] = (none, s1)) ∧
    (∃ p s1, pooled.select [] = (some p, s1) ∧ (isEntry p.2 && (s1.plan poolEntry.launch).isSome) = true) ∧
    (∃ p s1, outside.select [] = (some p, s1) ∧ (isContext p.2 && (s1.restoreSeat switched).isSome) = true) ∧
    ((full.core 0).cycles.toNat % 4096 = 0 ∧ ∃ p s1, full.select [] = (some p, s1) ∧
      ((s1.give p.1 p.2).isNone && !allCores.any s1.evictPending && decide (0 < s1.dev.queues[p.1.val].deficit) &&
        (s1.victim (s1.workLevel p.2)).or (s1.victimAtBoundary 0 (s1.workLevel p.2)) == some (0, 0) &&
        s1.status 0 (userId 0) == .running) = true) := by
  exact ⟨⟨rfl, fst_of (Option.isNone_iff_eq_none.mp (by decide +kernel))⟩, pair_and (by decide +kernel), pair_and (by decide +kernel),
    by decide +kernel, pair_and (by decide +kernel)⟩

/-- `launching` with a descriptor in the ring of queue 5, as the queue has passed it. -/
def ringing : State := launching.modifyDev fun d => { d with queues := d.queues.set 5 { d.queues[5] with en := true, head := 1, tail := 2 } }
def rung : State := ringing.modifyDev fun d => { d with queues := d.queues.set 5 { d.queues[5] with head := 2, inFlight := false } }

/-- A descriptor that replaces the book of launch 11 with one at 0x3000. -/
def replImage : Nat := ofWords 64 [0x2000, 0x3000, 0x10000, 11, 8, 9, 10, 2 ^ 8 + 2 ^ 22]
def replacing : State := (withMem rung [(0x43000, 6 + 4 * 2 ^ 32), (0x43010, 0xE8000000), (0x43018, 7 + 8 * 2 ^ 32), (0x43028, 11)]).modifyDev
  fun d => { d with placed := [{ link := { hart.link with launch := 11 }, book := none, live := 1, fenced := false }] }

/-- What a reading gives, without the places it read. -/
def readingOf {α : Type} (r : Reading α) : Option α := ((r.run []).toOption).map (·.1)

theorem reading_of {α : Type} {r : Reading α} {a : α} (h : readingOf r = some a) : ∃ ps, r.run [] = .ok (a, ps) := by
  unfold readingOf at h
  cases e : r.run [] with
  | error x => simp [e, Except.toOption] at h
  | ok p => exact ⟨p.2, by simp only [e, Except.toOption, Option.map, Option.some.injEq] at h; rw [← h]⟩

theorem ok_and {ε α : Type} {x : Except ε α} {f : α → Bool} (h : x.toOption.any f = true) : ∃ a, x = .ok a ∧ f a = true := by
  cases x with
  | error e => simp [Except.toOption] at h
  | ok a => exact ⟨a, rfl, by simpa [Except.toOption] using h⟩

/-- SchedulerActsComplete: the selected launch with a seat and without one. -/
theorem witness_placement :
    (let t := (base.modifyDev fun d => { d with selected := some poolEntry }).modifyDev fun d => { d with selected := none }
     t.plan poolEntry.launch = some [{ core := 1, ctx := 0, quarter := 0 }]) ∧
    (let t := (full.modifyDev fun d => { d with selected := some poolEntry }).modifyDev fun d => { d with selected := none }
     t.plan poolEntry.launch = none) := by decide +kernel

set_option maxRecDepth 100000 in
/-- SchedulerActsComplete: descriptors in a queue, valid and not; one that replaces a book; a job with and without harts. -/
theorem witness_scheduler :
    (let queue := ringing.dev.queues[5]
     let link := Desc.link (BitVec.ofNat 2048 launchImage) 5 queue.level
     (ringing.dev.ready = true ∧ queue.en = true ∧ queue.log2n.toNat ≤ 16 ∧
       queue.head.toNat ≠ queue.tail.toNat % 2 ^ queue.log2n.toNat) ∧
     Desc.valid 0 rung.anySrh = false ∧
     (Desc.valid (BitVec.ofNat 2048 launchImage) rung.anySrh = true ∧ Desc.repl (BitVec.ofNat 2048 launchImage) = false ∧
       rung.dev.cancelledId link = none ∧ rung.fitsService link = true ∧ rung.dev.unaccepted = [] ∧ rung.dev.recordsFree link = true) ∧
     (∃ m ps, rung.launchOf (BitVec.ofNat 2048 launchImage) link = .ok (some m, ps))) ∧
    (let desc := BitVec.ofNat 2048 replImage
     (Desc.valid desc replacing.anySrh = true ∧ Desc.repl desc = true ∧
       replacing.dev.cancelledId (Desc.link desc 5 replacing.dev.queues[5].level) = none ∧
       replacing.dev.placed.any (·.link.launch == Desc.word desc 24) = true ∧
       rung.dev.placed.any (·.link.launch == Desc.word desc 24) = false) ∧
     ∃ ps, (replacing.readBook (Desc.root desc) (Desc.word desc 8)).run [] = .ok (some (some ([0xE8000000], [(11, 0)])), ps)) ∧
    (∀ n ∈ [0, 2], let r : Completion := { level := 4, id := 10, job := 10, out := n, failed := 2, cancelled := false }
     let s := base.modifyDev fun d => { d with records := [r] }
     s.dev.record 4 10 = some r ∧ s.dev.unaccepted = []) ∧ base.dev.record 4 10 = none := by
  refine ⟨⟨by decide +kernel, by decide +kernel, by decide +kernel, ?_⟩, ⟨by decide +kernel, reading_of (by decide +kernel)⟩, by decide +kernel⟩
  obtain ⟨⟨m, ps⟩, e, h⟩ := ok_and (x := rung.launchOf (BitVec.ofNat 2048 launchImage)
    (Desc.link (BitVec.ofNat 2048 launchImage) 5 ringing.dev.queues[5].level)) (f := fun p => p.1.isSome) (by decide +kernel)
  obtain ⟨m', rfl⟩ := Option.isSome_iff_exists.mp h
  exact ⟨m', ps, e⟩

/-- A waiter of hart 1 at the object of 0x41000. -/
def waiterOf (polls : Bool) (granted : Option Bool) : Waiter := { hart := 1, pa := 0x41000, va := 0x1000, prio := 0, polls, granted }

/-- SchedulerActsComplete: a cancelled hart and a fenced one, with a strip that commits and one that waits; a grant, polls
of a held and of a free object, and a watermark that has passed. -/
theorem witness_arrivals :
    (∀ e ∈ [(opened, true), (blockedStrip, false)], let t := (e.1.modifyMe fun h => { h with cancelled := some 8 }).setStatus 0 0 (.waiting .exit)
     let h := t.hart 0 (userId 0)
     (h.verdict = none ∧ h.gang ≠ .parked ∧ h.trapDue = none ∧ t.status 0 (userId 0) = .waiting .exit ∧ h.cancelled = some 8) ∧
       decide (((t.actingAs 0 (userId 0)).leaveQueues.modifyMe Hart.clearDue).quiesce.me.strip = []) = e.2) ∧
    (let s := base.modifyMe fun h => { h with fenceDue := true }
     let h := s.hart 0 (userId 0)
     (h.verdict = none ∧ h.gang ≠ .parked ∧ h.trapDue = none ∧ s.status 0 (userId 0) = .running ∧ h.cancelled = none ∧ h.fenceDue = true)) ∧
    ((base.modifyDev fun d => { d with acqWaiters := [waiterOf true none, waiterOf false (some true)] }).dev.acqWaiters.find?
      (fun w => w.hart == (base.hart 0 (userId 0)).id && w.granted.isSome) = some (waiterOf false (some true))) ∧
    (∀ n ∈ [2 ^ 63, 2 ^ 62], let s := withMem (base.modifyDev fun d => { d with acqWaiters := [waiterOf true none] }) [(0x41000, n)]
     s.status 0 (userId 0) ≠ .free ∧ (s.hart 0 (userId 0)).promises = [] ∧
       s.dev.acqWaiters.find? (fun w => w.hart == (s.hart 0 (userId 0)).id && w.polls && w.granted.isNone) = some (waiterOf true none) ∧
       s.dev.isPoisoned 0x41000 = false ∧ s.dev.isLost 0x41000 = false ∧
       bitAt (s.getWord 0x41000) 63 = decide (n = 2 ^ 63) ∧ s.dev.mem.wf = true) ∧
    (∀ n ∈ [4, 5], let s := (withMem base [(0x41000, 5)]).setStatus 0 0 (.waiting (.watermark 0x1000 n))
     s.status 0 (userId 0) = .waiting (.watermark 0x1000 n) ∧ s.watermarkPassed 0 (userId 0) 0x1000 n = decide (n = 4)) := by
  refine ⟨fun e h => ?_, by decide +kernel⟩
  fin_cases h <;> decide +kernel

/-- SchedulerActsComplete: a packet of another device for a poisoned group, for a group's new generation, and as the last
of two; a message of a poisoned root, and the completion of this device's own packet. -/
theorem witness_packets :
    base.rootHome farPacket.trRoot farPacket.root = .ok 0x41040 ∧ farPacket.device ≠ base.dev.devnum ∧
    ((base.modifyDev fun d => { d with poisonedGroups := [0x41040] }).dev.poisonedGroups.contains 0x41040 = true) ∧
    (let s := withMem base [(0x41048, 2)]
     s.dev.resultsAway [farPacket] = false ∧ s.dev.poisonedGroups.contains 0x41040 = false ∧ (0x41040, farPacket.generation) ∉ s.dev.xdone ∧ s.dev.xgroups = [] ∧
       s.getWord (0x41040 + 8) % 16 ≠ 0) ∧
    (let o := { farPacket with index := 0 }
     let s := (withMem base [(0x41048, 1)]).modifyDev fun d =>
       { d with xgroups := [{ root := 0x41040, gen := farPacket.generation, packets := [o] }] }
     o.generation = farPacket.generation ∧ o.device ≠ s.dev.devnum ∧ o.index.toNat + farPacket.index.toNat = 1 ∧ o.n = 0 ∧
       farPacket.n = 0 ∧ s.dev.resultsAway [o, farPacket] = false ∧ packetDisagrees o farPacket = false ∧ s.getWord (0x41040 + 8) % 16 = 1 ∧
       s.rootHome farPacket.trRoot farPacket.root = .ok 0x41040 ∧ s.dev.poisonedGroups = [] ∧ s.dev.xdone = [] ∧
       s.dev.isPoisoned 0x41040 = false ∧ s.dev.isLost 0x41040 = false) ∧
    (let p := { farPacket with device := 0 }
     (base.modifyDev fun d => { d with outgoing := [.packet 3 p] }).dev.outgoing = [.packet 3 p] ∧ (3 : BitVec 16) ≠ base.dev.devnum ∧
       p.device = base.dev.devnum ∧ base.rootHome p.trRoot p.root = .ok 0x41040) ∧
    base.dev.poisonDue = [] ∧ base.dev.xfinishing = [] ∧
    (let s := base.modifyDev fun d =>
       { d with outgoing := [.xresult farPacket 8 5], xfinishing := [{ packets := [farPacket], status := 0 }] }
     s.dev.outgoing = [.xresult farPacket 8 5] ∧ s.dev.xfinishing = [{ packets := [farPacket], status := 0 }]) := by
  decide +kernel

/-- CoreCycle: a powered core, records for a WFN that waits, entries that name F ready and not, a context that goes on, one held at its instruction, and nothing;
busy cycles that the cap admits and withholds, alone and with another of the matrix unit. -/
theorem witness_coreCycle :
    (base.core 0).clock = true ∧ (base.core 0).power.runs = true ∧ (base.core 0).busy = [] ∧ (base.core 0).fwStatus ≠ .waiting .wfn ∧
    vget (base.core 0).slottab ((base.core 0).cycles.toNat % 32) 0 = 7 ∧
    (let k := (base.modifyCore 0 fun k => { k with fwStatus := .waiting .wfn, ordinary := [posted 1] }).core 0
     k.clock = true ∧ k.power.runs = true ∧ k.inHand = none ∧ k.fatal = [] ∧ k.outside = [] ∧ k.ordinary = posted 1 :: []) ∧
    (let s := base.modifyCore 0 fun k => { k with cycles := 31, ctxs := k.ctxs.set 1 { k.ctxs[0] with status := .running } }
     vget (s.core 0).slottab ((s.core 0).cycles.toNat % 32) 0 = 4 ∧ s.fwReady 0 = true ∧ s.partlyIssued 0 = false ∧
       (s.modifyCore 0 fun k => { k with fwStatus := .waiting .wfn }).fwReady 0 = false ∧
       (s.modifyCore 0 fun k => { k with fwStatus := .waiting .wfn }).canIssue 0 1 = true) ∧
    (let s := base.modifyCore 0 fun k => { k with slottab := k.slottab.set 0 0 }
     (vget (s.core 0).slottab ((s.core 0).cycles.toNat % 32) 0).toNat = (0 : UserCtx).val ∧ s.canIssue 0 0 = true ∧
       s.goesOn 0 (userId 0) = true) ∧
    (let s := blockedStrip.setStatus 0 0 (.waiting .followOns)
     s.canIssue 0 0 = true ∧ s.goesOn 0 (userId 0) = false) ∧
    (let b (cls : ActClass) : Busy := { core := 0, ctx := 0, hart := 1, cls, cycles := 2 }
     let s := base.modifyCore 0 fun k => { k with busy := [b .mlo, b .mhi] }
     (s.core 0).busy = [b .mlo, b .mhi] ∧ (s.core 0).clock = true ∧
     ∀ cls ∈ [ActClass.mlo, .mhi], let w := actWeight (s.core 0).actw (b cls).cls
       w ≠ 0 ∧ (0 : Nat) + w < 256 + (s.core 0).actw.toNat / 2 ^ 48 % 16 ∧ (0 : Nat) + w ≤ (s.core 0).actw.toNat / 2 ^ 40 % 256 ∧
         (s.core 0).actw.toNat / 2 ^ 40 % 256 < (s.core 0).actw.toNat / 2 ^ 40 % 256 + w) := by
  decide +kernel

/-- `base` with 192 frames. -/
def small : State := base.modifyDev fun d => { d with frames := 192 }

def powered (core : Power) (group : Power) : State :=
  base.modifyCore 0 fun k => { k with power := core, groups := Vector.replicate 8 group }

/-- A frame of die 0 with accesses from die 1. -/
def counted (promise : Bool) : FrameInfo :=
  { frame := 5, home := 5, counts := Vector.ofFn fun i : Fin 4 => if i.val = 1 then 64 else 10, hint := none, move := none, promise }

/-- PowerAndErrorActsComplete: every stage of power, an in-rush queue and eight parts that turn on. -/
theorem witness_power :
    (((powered .on .hold).core 0).groups[(7 : Fin 8).val] = .hold ∧ (7 : Nat) ∉ (powered .on .hold).groupsInUse 0 ∧
      0 ∈ (powered .on .hold).groupsInUse 0) ∧
    (((powered .hold .on).core 0).power = .hold ∧ (powered .hold .on).coreIdle 0 = false ∧
      ((powered .hold .on).setStatus 0 4 (.waiting .wfn)).coreIdle 0 = false ∧
      (((powered .hold .on).setStatus 0 4 (.waiting .wfn)).setStatus 0 0 .free).coreIdle 0 = true) ∧
    ((powered .on (.opening false)).core 0).groups[(0 : Fin 8).val] = .opening false ∧
    (((powered .on (.opening true)).core 0).groups[(7 : Fin 8).val] = .opening true ∧
      ({ core := 0, group := 7 } : Wake) ∉ base.dev.inrush ∧ ({ core := 0, group := 7 } : Wake) ∉ base.dev.turningOn) ∧
    (((powered (.opening false) .on).core 0).power = .opening false ∧ ((powered (.opening true) .gated).core 0).power = .opening true ∧
      ((powered (.opening false) (.opening true)).core 0).groups[(7 : Fin 8).val] = .opening true) ∧
    (let w : Wake := { core := 0, group := 0 }
     (base.modifyDev fun d => { d with inrush := [w] }).dev.inrush = w :: [] ∧ base.dev.turningOn.length < 8 ∧
       8 ≤ (base.modifyDev fun d => { d with turningOn := List.replicate 8 w }).dev.turningOn.length ∧
       w ∈ (base.modifyDev fun d => { d with turningOn := [w] }).dev.turningOn ∧ ((powered .waking .waking).core 0).power = .waking) := by
  decide +kernel

/-- PowerAndErrorActsComplete: a frame at an epoch, one of promises and one that moves. -/
theorem witness_frames :
    (∀ b : Bool, (small.modifyDev fun d => { d with homes := [counted b] }).dev.homes = [counted b]) ∧
    ((counted false).home = 5 ∧ (counted false).frame ∉ small.dev.lost ∧ (counted false).move = none ∧ (counted true).promise = true ∧
      2 * (((counted false).counts.toList.map (·.toNat)).sum - 64) ≤ 64 ∧ (counted false).home.val / 24 ≠ (1 : Fin 4).val ∧
      ((small.modifyDev fun d => { d with homes := [counted false] }).dev.targetSlice (slicesOf 1)).isSome = true) ∧
    (((small.modifyDev fun d => { d with homes := [{ counted false with move := some 30 }] }).dev.frameInfo (5 : BitVec 36).toNat).move = some 30) := by
  refine ⟨by decide +kernel, by decide +kernel, by decide +kernel⟩

/-- PowerAndErrorActsComplete: a clean line at each end of memory, a buffer word, a link in service and one that retires,
with reads on their way, and contexts that an error strikes. -/
theorem witness_errors :
    (∀ n ∈ [0, 192 * 1024 - 1], let line : BitVec 46 := BitVec.ofNat 46 n
     line.toNat / 1024 < small.dev.frames.toNat ∧ line.toNat / 1024 ∉ small.dev.lost ∧ line.toNat ∉ small.dev.poison) ∧
    ((393215 : BitVec 19).toNat < (if BufId.w = .w then 393216 else 262144) ∧ (393215 : BitVec 19).toNat ∉ (base.core 0).poisonOf .w ∧
      (262143 : BitVec 19).toNat < (if BufId.x = .w then 393216 else 262144)) ∧
    (small.dev.linkmap.getLsbD (23 : LinkId).val = true ∧ (23 : LinkId) ∉ small.dev.retiring ∧ small.dev.mem.wf = true ∧
      (0 : SliceId) ∉ small.dev.fencedSlices) ∧
    (let s := small.modifyDev fun d => { d with retiring := [23] }
     (23 : LinkId) ∈ s.dev.retiring ∧ s.dev.recalibrating false (23 : LinkId).val = false) ∧
    (awaiting.status 0 (userId 0) ≠ .free ∧ (awaiting.hart 0 (userId 0)).fills.any (fun f => f.reads.any (·.place == .main 0x41000)) = true) ∧
    ((65 : BitVec 7).toNat ∈ [0, 9, 11, 13, 14, 15, 18, 19, 21, 22, 23, 25, 64, 65]) ∧
    ((15 : BitVec 4).getLsbD (0 : UserCtx).val = true ∧ base.status 0 (userId 0) ≠ .free) ∧
    (let k := (base.modifyCore 0 fun k => { k with corrected := List.replicate 3 (63, 0) }).core 0
     3 ≤ (k.corrected.filter fun e => decide (k.cycles.toNat < e.2 + 2 ^ 28)).countP (fun e => e.1 == 63) ∧
       ((base.core 0).corrected.filter fun e => decide ((base.core 0).cycles.toNat < e.2 + 2 ^ 28)).countP (fun e => e.1 == 63) < 3) := by
  decide +kernel

/-- A device with service arguments. -/
def serving (a b : Nat) : State := small.modifyDev fun d => { d with svcarg0 := word a, svcarg1 := word b }

/-- The header of a firmware image without payload, of the greatest version, with its SHAKE256 digest (R441), at 0x50000 of
main memory; and that of a boot image whose payload is the bytes 1, 2 and 3. -/
def imaged1 : State := withMem (serving 0x50000 (2 ^ 16)) ([(0x50000, 0x4D49514B34383356), (0x50008, 2 ^ 64 - 2 ^ 32 + 1)] ++
  ([0x58fdacd8735b2964, 0x19b84cb4de3e700c, 0x7077c06aac5d11e2, 0x19fef6bf3336dd56, 0x2a34f8cb7f26b8b5, 0xf73e762649afdeb0,
    0x226027b7cd38bbd0, 0x4110906960578910] : List Nat).mapIdx fun i x => (0x50040 + 8 * i, x))
def bootImage : BootImage :=
  { header := BitVec.ofNat 16384 (ofWords 64 ([0x4D49514B34383356, 2 ^ 64 - 2 ^ 32, 3, 0, 0, 0, 0, 0] ++
      [0x2236e17eb64a748f, 0x1bab7148a52e1acc, 0xa847295b6b1aade3, 0x293ce23113584c5c, 0xa46d340841af48a2, 0x18c55cd7e952d11,
        0x5a4164be455e798a, 0x65d18ae2070b463d]))
    payload := [1, 2, 3], signed := true, firmware := 5 }

/-- An image of the greatest version is above every floor. -/
theorem image_accepted {kind header : Nat} {payload : List Byte}
    (h : (imageVersion header == 2 ^ 32 - 1 && imageSound kind header payload) = true) : imageOk kind header payload true = true := by
  simp only [Bool.and_eq_true, beq_iff_eq] at h
  have floor := (Config.versionFloor kind).isLt
  have e : (Config.versionFloor kind).toNat ≤ imageVersion header := by omega
  simp [imageOk, h.2, e]

set_option maxRecDepth 100000 in
/-- HostActsComplete: images that are accepted, with their signature and without it. -/
theorem witness_images :
    imageOk 1 (imaged1.dev.imageHeader 0x50000) (imaged1.dev.imagePayload 0x50000) true = true ∧
    imageOk 0 bootImage.header.toNat bootImage.payload bootImage.signed = true ∧
    (∀ kind header payload, imageOk kind header payload false = false) ∧
    imaged1.dev.svcarg0.toNat = 0x50000 ∧ imaged1.dev.holdsBytes 0x50000 2048 = true ∧
    imaged1.dev.holdsBytes (0x50000 + 2048) (imaged1.dev.imagePayload 0x50000).length = true :=
  ⟨image_accepted (by decide +kernel), image_accepted (by decide +kernel), fun _ _ _ => rfl, by decide +kernel⟩

/-- SHAKE256 of no byte begins 46B9DD2B (FIPS 202). -/
theorem test_shake256 : (shake256 []).toNat % 2 ^ 32 = 0x2BDDB946 := by decide +kernel

set_option maxRecDepth 100000 in
/-- HostActsComplete: the management registers, with launches placed and without; service commands with arguments in and out
of range; a signed image; BAR2 at both ends of memory; a device that is not ready. -/
theorem witness_host :
    (base.dev.placed = [] ∧ (36863 : Word).toNat % 2 ^ 16 ≤ 36863 ∧
      (base.modifyDev fun d => { d with placed := [{ link := {}, book := none, live := 1, fenced := false }] }).dev.placed ≠ []) ∧
    ((1 : Word).toNat % 2 = 1 ∧ base.dev.tinv = none ∧
      (let cmd : Tinv := { asn := 77, va := 0x10000, len := 0x10000 }
       let s := base.modifyDev fun d => { d with tinv := some cmd }
       s.dev.tinv = some cmd ∧ s.asnSettled cmd.asn = true ∧ s.dev.isMoving = false ∧
         (s.modifyDev fun d => { d with homes := [{ frame := 5, home := 5, counts := Vector.replicate 4 0, hint := none
                                                    move := some 30, promise := false }] }).dev.isMoving = true)) ∧
    (base.dev.rrLeaving = none ∧ (base.dev.remoteRoots.filter fun e => e.1 != base.dev.rrjob).length < 64 ∧
      (let s := base.modifyDev fun d => { d with remoteRoots := (List.range 64).map fun n => (word (n + 1), 0) }
       64 ≤ (s.dev.remoteRoots.filter fun e => e.1 != s.dev.rrjob).length) ∧ base.remoteInUse base.dev.rrjob = false ∧
      (let s := (remote.modifyDev fun d => { d with rrjob := 10 }).modifyCore 0 fun k =>
         { k with ordinary := [{ regs := {}, of := .request { job := 10, va := 0, log2Size := 3 } none }] }
       s.remoteInUse (s.dev.rrLeaving.getD s.dev.rrjob) = true ∧ ∃ e ∈ s.dev.remoteRoots, e.1 = s.dev.rrLeaving.getD s.dev.rrjob)) ∧
    (base.dev.svcBusy = false ∧ (serving 1 0).dev.svcarg0.toNat = (1 : CoreId).val ∧ 384 ≤ (serving 384 0).dev.svcarg0.toNat ∧ (∀ n ∈ [4, 383], 4 ≤ (serving n 0).dev.svcarg0.toNat ∧ (serving n 0).dev.svcarg0.toNat < 384) ∧
      (serving 23 0).dev.svcarg0.toNat = (23 : LinkId).val ∧ small.dev.linkServes 23 = true ∧
      (let s := (serving 23 0).modifyDev fun d => { d with linkmap := 1 }
       s.dev.linkServes 23 = false ∧ s.dev.linkmap.getLsbD 23 = false)) ∧
    (let s := serving (35 + 2 ^ 16) 15
     s.dev.svcarg0.toNat = (35 : BitVec 16).toNat + 2 ^ 16 ∧ s.dev.svcarg1.toNat < 2 ^ 4 ∧ s.dev.lanesOf true 35 ≠ 0) ∧
    ((serving 0 255).dev.lanesOf false 0 ≠ 0 ∧ (serving 0 255).dev.linkmap.getLsbD 0 = true) ∧
    (imaged1.dev.svcarg1.toNat % 2 ^ 9 + imaged1.dev.svcarg1.toNat / 2 ^ 16 % 2 ^ 9 ≤ 384 ∧
      imaged1.dev.holdsBytes imaged1.dev.svcarg0.toNat 32 = true ∧ imaged1.dev.holdsBytes imaged1.dev.svcarg1.toNat 1352 = true) ∧
    (let s := base.modifyDev fun d => { d with recal := [(false, 3, 0), (false, 3, 7)], svcBusy := true, svccmd := 4, svcarg0 := 3, retiremod := some 3 }
     (false, 3, 0) ∈ s.dev.recal ∧ s.dev.svcBusy = true ∧ s.dev.svccmd = 4 ∧ s.dev.recalibrating false (3 : LinkId).val = true ∧
       s.dev.svcarg0.toNat = (3 : LinkId).val ∧ s.dev.linkServes 3 = true ∧ base.dev.retiremod = none ∧ s.dev.recal.filter (fun e => e != (false, 3, 0)) ≠ [] ∧
       [(false, (3 : BitVec 16), (7 : BitVec 3))].filter (fun e => e != (false, 3, 7)) = []) ∧
    (small.dev.ready = true ∧ (∀ n ∈ [1, 8], small.dev.winbase.toNat + (192 * 65536 - n : Nat) + n ≤ small.dev.frames.toNat * 65536 ∧
        (192 * 65536 - n) % 65536 + n ≤ 65536 ∧
        small.dev.frames.toNat * 65536 < small.dev.winbase.toNat + (192 * 65536 - n + 1) + n) ∧
      (small.modifyDev fun d => { d with lost := [191] }).dev.isLost (192 * 65536 - 8) = true) ∧
    (State.reset.dev.ready = false ∧ (35 : BitVec 16).toNat < 36 ∧ base.dev.queues[(255 : QueueId).val].en = false) := by
  decide +kernel

/-! ### Decoding and steps -/

theorem witness_encode : (Instr.add 3 1 (.reg 2 false) true).wf = true ∧ encode (.add 3 1 (.reg 2 false) true) ≠ [] := by decide

/-- A cycle of core 0, whose first entry names context 0, is next; the program's first word is `w`. -/
noncomputable def cycling (w : Nat) : State :=
  { (withMem base [(0x50000, w)]).modifyCore 0 fun k => { k with slottab := k.slottab.set 0 0 } with agenda := [.event (.issueCycle 0)] }

/-- The state in which the instruction of a cycle is fetched. -/
noncomputable def fetching (s : State) : State :=
  let s1 := ({ s with agenda := [], cur := { s.cur with issues := false } } : State).beginCycle 0
  { s1 with cur := { s1.cur with issues := false } }

/-- The same with a busy cycle of the hart's last instruction withheld. -/
noncomputable def cycledBack : State := (cycling 0).modifyCore 0 fun k =>
  { k with busy := [{ core := 0, ctx := 0, hart := 1, cls := .vint, cycles := 2, started := true, withheld := true }] }

/-- StepRunsDecoded: a word that decodes, and one that does not, each at the start of its block, a hart whose work is
withheld, and a block on a page that is not mapped; a Second in its book. -/
theorem witness_step :
    (∀ w ∈ [0x04304220, 0], (cycling w).agenda = .event (.issueCycle 0) :: [] ∧
      (({ cycling w with agenda := [], cur := { (cycling w).cur with issues := false } } : State).beginCycle 0).cur.issues = true ∧
      (fetching (cycling w)).me.dueTrap = none ∧ (fetching (cycling w)).heldBack = false ∧ (fetching (cycling w)).me.first = false ∧
      (fetching (cycling w)).me.pc = 0x10000 ∧
      ((fetching (cycling w)).fetchBlock 0x10000).toOption.any (fun p => (p.1[0]?).getD 0 == BitVec.ofNat 32 w) = true ∧
      w / 2 ^ 26 ≠ 0x3C ∧ w / 2 ^ 26 ≠ 0x3D) ∧
    ((fetching cycledBack).heldBack = true ∧ (fetching cycledBack).me.dueTrap = none) ∧
    (((fetching (cycling 0)).fetchBlock 0x900000).toOption.isNone = true) ∧
    (decodeWord 0x04304220 0 = .ok (.add 3 1 (.reg 2 false) true) ∧ decodeWord 0 0 = .error .major) ∧
    (let v := (advised.core 0).advice[(0 : UserCtx).val]
     v.running = true ∧ ∃ book, (advised.core 0).bookOf 0 = some book ∧ v.pc < book.code.length ∧
       ((book.code[v.pc]?).getD 0).toNat / 2 ^ 26 = 0x3D ∧
       decodeWord ((book.code[v.pc]?).getD 0).toNat ((book.code[v.pc + 1]?).getD 0).toNat = .ok (.await 11)) := by
  refine ⟨by decide +kernel, by decide +kernel, by decide +kernel, ⟨by rfl, by rfl⟩, by decide +kernel, _, rfl, by decide +kernel,
    by decide +kernel, by rfl⟩

/-- StepKeepsMemoryForm: the machine after reset has the form. -/
theorem witness_memoryForm : State.reset.dev.mem.wf = true ∧ ∀ c, (State.reset.core c).bufW.wf = true ∧ (State.reset.core c).bufX.wf = true := by
  decide +kernel

/-! ### Single steps: results from the chapters' worked examples and tables -/

noncomputable def after (i : Instr) (s : State) : State :=
  match exec i s with
  | .next t => t
  | _ => s

noncomputable def xOf (i : Instr) (s : State) (r : Reg) : Nat := ((after i s).me.readX r).toNat

/-- The elements of a vector register, `n` of them, of `sew` bits. -/
noncomputable def vOf (s : State) (r : Reg) (sew n : Nat) : List Nat := (List.range n).map (elem sew (s.me.readV r))

/-- `base` with a vector register's elements, another's zero, and a mask in m0. -/
def withV (s : State) (xs : List (Nat × Nat)) (m : Nat) : State :=
  s.modifyMe fun h => { h with vec := { h.vec with v := xs.foldl (fun v e => vset v e.1 e.2) h.vec.v, m := h.vec.m.set 0 m } }

/-- The values after R81. -/
theorem test_division : [xOf (.divs 3 1 (.reg 2 false) false) (withX base [(1, -7), (2, 2)]) 3,
    xOf (.rems 3 1 (.reg 2 false) false) (withX base [(1, -7), (2, 2)]) 3, xOf (.divs 3 1 (.reg 2 false) false) (withX base [(1, 2 ^ 63), (2, -1)]) 3,
    xOf (.remu 3 1 (.lit 0) false) base 3, xOf (.divu 3 1 (.lit 0) false) base 3] =
    [2 ^ 64 - 3, 2 ^ 64 - 1, 2 ^ 63, 1, 2 ^ 64 - 1] := by decide +kernel

/-- R80: EXTS of a byte, CLZ of 0, ROTL by 0, MULHS of two negative numbers. -/
theorem test_integer : [xOf (.exts 3 1 (.lit 7) false) (withX base [(1, 0x180)]) 3, xOf (.clz 3 0 false) base 3,
    xOf (.rotl 3 1 (.lit 64) false) base 3, xOf (.mulhs 3 1 (.lit 0xFFFFFFFF) false) (withX base [(1, -1)]) 3] =
    [2 ^ 64 - 128, 64, 1, 0] := by decide +kernel

/-- The example after R86: FLI of 1.5 and of 0.1. -/
theorem test_fli : [xOf (.fli 2 0x3FC00) base 2, xOf (.fli 2 0x3DCCC) base 2] = [0x3FF8000000000000, 0x3FB9980000000000] := by
  decide +kernel

/-- Linear indices 0 to 7 hold 10 to 17, m0 is 0b10110110: the example at the end of the permutations. -/
def permuted : State := withV base [(1, ofWords 64 [10, 11, 12, 13, 14, 15, 16, 17]), (2, 0)] 0xB6

theorem test_vslideup : vOf (after (.vslideup 2 1 (.lit 1) false) permuted) 2 64 8 = [0, 10, 11, 0, 0, 14, 0, 16] := by decide +kernel
theorem test_vcompress : vOf (after (.vcompress 2 1 false) permuted) 2 64 8 = [11, 12, 0, 0, 14, 15, 17, 0] := by decide +kernel
theorem test_viota : vOf (after (.viota 2 0) permuted) 2 64 8 = [0, 0, 1, 0, 0, 1, 0, 2] := by decide +kernel
theorem test_masks : [(after (.mshup 3 0) permuted).me.readM 3 % 256, (after (.msif 4 0) permuted).me.readM 4 % 256,
    xOf (.mpop 4 0) permuted 4, xOf (.mfirst 5 0) permuted 5] = [0x6C, 0x13, 5, 1] := by decide +kernel

/-- The SRD example of the vector floats: 2,048 + 0.5 in FP16 over a tile of 2 x 2. -/
theorem test_vfadd_srd : vOf (after (.vfadd 3 1 (.lit 0x3F000000) false)
    (withV (withTile base 2 2 0x401) [(1, ofWords 16 [0x6800, 0x6800, 0x6800, 0x6800])] 0xFF)) 3 16 4 =
    [0x6800, 0x6800, 0x6801, 0x6800] := by decide +kernel

/-- The quantising example: 3.1, -0.7, 500 and NaN by 128, and back by 2^-7. -/
theorem test_vquant : vOf (after (.vquant 6 3 10 false false)
    (withV (withX (withTile base 4 1 2) [(10, 0x4060000000000000), (11, 0)])
      [(3, ofWords 32 [0x40466666, 0xBF333333, 0x43FA0000, 0x7FC00000])] 0xF)) 6 8 4 = [0x7C, 0xEB, 0x7E, 0x7F] := by decide +kernel
theorem test_vdequant : vOf (after (.vdequant 6 3 10 false false)
    (withV (withX (withTile base 4 1 2) [(10, 0x3F80000000000000), (11, 0)]) [(3, ofWords 8 [0x7C, 0xEB, 0x7E, 0x7F])] 0xF)) 6 32 4 =
    [0x40400000, 0xBF300000, 0x40600000, 0x7FC00000] := by decide +kernel

/-- The example after R72: a ring whose largest entry is 3.1, target E4M3. -/
theorem test_amscl : xOf (.amscl 3 0 0) (base.modifyMe fun h => { h with vec := { h.vec with
    rings := h.vec.rings.set 0 { entries := (Vector.replicate 16 0x3F800000).set 7 0x40466666 } } }) 3 = 0x4060000000000000 := by
  decide +kernel

/-- The reduction example: six FP16 values, all active; and with element 4 inactive, under RNE and RTZ. -/
def summed (m rm : Nat) : State :=
  withV (withTile base 6 1 (1 + 256 * rm)) [(9, ofWords 16 [0x6800, 0x3C00, 0x3C00, 0x3C00, 0xE800, 0x3C00])] m

theorem test_vredfsum : [(0x3F, 0), (0x2F, 0), (0x2F, 1)].map (fun e =>
    elem 16 ((after (.vredfsum 8 9 (.lit 6) false) (summed e.1 e.2)).me.readV 8) 0) = [0x4400, 0x6802, 0x6801] := by decide +kernel

/-- The PEB8 example: header bytes 0x80 and 0x86; elements 0xA8 and 0x45. -/
theorem test_peb8 : let block := 0x80 + 0x86 * 2 ^ 8 + 0xA8 * 2 ^ 16 + 0x45 * 2 ^ 24
    (roundF .fp32 .nearest (peb8.value block 0), roundF .fp32 .nearest (peb8.value block 1)) = (0x43200000, 0xBEA00000) := by decide +kernel

/-- The worked walk of R124: a memory page that may not be executed, and a leaf of 512 MiB. -/
def walked (pte2 : Nat) : Device :=
  { base.dev with mem := ((Mem.write [] 0x4000000020 8 0x0000004000010001).write 0x4000018D10 8 pte2).write 0x400002B3C0 8 0x000001230005000F }

theorem test_walk : [(0x0000004000020001, Access.load), (0x0000004000020001, .fetch), (0x000002002000000F, .store)].map
    (fun e => translate (walked e.1) 0x4000000000 0 false .memory e.2 0x123456789ABC) =
    [.ok (.main 0x12300059ABC), .error causeAccess, .ok (.main 0x20036789ABC)] := by decide +kernel

/-- The stream of the pop example: its addresses at positions 0, 3, 4, 5, 6 and 11. -/
theorem test_streamAddress :
    let t : Stream := { spec := BitVec.ofNat 512 (0x01000000 + (1 + 3 * 2 ^ 4) * 2 ^ 64 + (4 + 8 * 2 ^ 32) * 2 ^ 128 + (3 + 256 * 2 ^ 32) * 2 ^ 192) }
    t.total = 12 ∧ [0, 3, 4, 5, 6, 11].map (fun p => (t.address p).toNat) =
      [0x01000000, 0x01000018, 0x01000100, 0x01000108, 0x01000110, 0x01000218] := by decide +kernel

/-- The example of R30: 63 lanes, 8 names, 4 rows, a request of 600 and a grant of 1,024. -/
theorem test_vsetl : (after (.vsetl 5 (.lit 600)) ((base.modifyMe fun h => { h with names := 8, vrows := 4, vlmax := 2016 }).modifyCore 0
    fun k => { k with lanemap := BitVec.allOnes 64 - 1, grant := 1024 })).me.vl = 504 := by decide +kernel

/-- The rotary example: F[0] = 2^22, at rows 0, 256 and 512; and the table value at an eighth of a turn. -/
theorem test_sine : [0, 256, 512].map (fun a => roundF .fp32 .nearest (sin32 (a * 2 ^ 22))) = [0, 0x3F800000, 0] ∧ quarterWave 512 = 759250125 := by
  decide +kernel

/-- The table jump example: blocks at 0x10040, whose word 3 is a literal. -/
def tabled (g4 : Nat) : State :=
  (withMem (withX base [(5, 3), (4, word g4), (35, 0x1000)]) [(0x41000, 4 + 8 * 2 ^ 32), (0x41008, 3), (0x50048, 0x60 + 0xC0 * 2 ^ 32)]).modifyMe
    fun h => { h with pc := 0x10040 }

theorem test_jtab : [0, 1, 3, 2 ^ 64 - 1].map (fun g => (after (.jtab 5 4 35 false false) (tabled g)).me.pc.toNat) =
    [0x10050, 0x10060, 0x10044, 0x10044] := by decide +kernel

/-- A removed entry: a kept translation is used until the TINV of its range completes (R126, R127). -/
theorem test_keptTranslation :
    let gone (s : State) : State := s.modifyDev fun d =>
      { d with mem := d.mem.write 0x30008 8 0, tinv := some { asn := 0, va := 0x10000, len := 0x10000 } }
    let at_ (s : State) := s.locate .memory .load 0x10010
    let kept := gone (base.keepTranslation 0x10000)
    at_ (gone base) = .error causePfault ∧ at_ kept = .ok (.main 0x50010) ∧ at_ (after .tinvComplete kept) = .error causePfault := by
  decide +kernel

end Sys2Proof.Tests
end

section
/-!
The machine right after reset (R365, R412, R435, R440).
-/

namespace Sys2Proof.Machine

/-- Every core right after reset is the core of R412. -/
theorem State.core_reset (c : CoreId) : State.reset.core c = resetCore := by
  simp [State.core, State.reset]

/-- No hart is on a core, and the firmware context runs. -/
theorem State.status_reset (c : CoreId) (x : CtxId) :
    State.reset.status c x = if x = 4 then .running else .free := by
  rw [State.status, State.core_reset]
  revert x
  decide

theorem resetSlottab_entry (e : Fin 32) : resetSlottab[e.val] = if e = 31 then 4 else 7 := by
  revert e
  decide

/-- Settles O54: the tables of a core by evaluation of `resetCore`, which every core is; the queues are all alike. -/
theorem resetValues : Obligations.ResetValues := by
  unfold Obligations.ResetValues
  refine ⟨reset_mem_wf, rfl, rfl, rfl, rfl, rfl, rfl, rfl, rfl, rfl, rfl, rfl, fun q => ?queue, fun c => ?core⟩
  case queue => simp [State.reset]
  case core =>
    refine ⟨State.status_reset c, ?_⟩
    rw [State.core_reset]
    refine ⟨resetSlottab_entry, rfl, rfl, rfl, rfl, rfl, rfl, rfl, rfl, rfl, rfl, rfl, rfl, rfl, rfl, rfl, rfl, ?actw, ?gain,
      ?drain, ?nrgw, ?bound, fun n => ?notify⟩
    case actw | gain | drain | nrgw | bound => decide +kernel
    case notify => simp [resetCore]

end Sys2Proof.Machine
end

section
/-!
Main memory and the typed buffers stay in canonical form (O59).  Three predicates say so of what the model passes on:
`State.Formed` of a state, `Carries` of a result or the stop in its place, `FormedNext` of an outcome.  Each function of the
model gets one lemma, in the order of the model's chapters, and later lemmas cite it: `State.formed_f` for an operation on
the state (an `↔` where it leaves the memories alone, an implication where it writes them), `Core.bufs_f` and `Device.mem_f`
for a part of the state, `carries_f` for a function with a result, `formedNext_f` for an instruction or an act.

This part has the plain updates of the state, the results, and the shared ways in which an instruction ends.
-/

namespace Sys2Proof.Machine

/-! ### Updates that leave the memories -/

section
variable {s : State}

theorem State.SameMem.symm {t : State} (h : s.SameMem t) : t.SameMem s :=
  ⟨h.1.symm, fun c => ⟨(h.2 c).1.symm, (h.2 c).2.symm⟩⟩

theorem State.SameMem.formed_iff {t : State} (h : s.SameMem t) : t.Formed ↔ s.Formed := ⟨h.symm.formed, h.formed⟩

/-- Who acts, the agenda and the free values are no part of the memories. -/
theorem State.formed_frame (cur : Cur) (agenda : List Act) (fresh : Nat) :
    (State.mk s.cores s.dev cur agenda fresh).Formed ↔ s.Formed := Iff.rfl

/-- Every core changed in what is none of its buffers, and the device in what is not its memory. -/
theorem State.formed_mapCores {f : Core → Core} {d : Device} {cur : Cur} {agenda : List Act} {fresh : Nat}
    (hf : ∀ k, (f k).bufW = k.bufW ∧ (f k).bufX = k.bufX) (hd : d.mem = s.dev.mem) (w : s.Formed) :
    (State.mk (s.cores.map f) d cur agenda fresh).Formed :=
  ⟨hd ▸ w.1, fun c => by simpa [State.core, hf] using w.2 c⟩

@[simp] theorem State.formed_ite {p : Prop} [Decidable p] {t : State} :
    (if p then s else t).Formed ↔ if p then s.Formed else t.Formed := by
  split <;> rfl

@[simp] theorem Core.bufW_ite {p : Prop} [Decidable p] (k l : Core) :
    (if p then k else l).bufW = if p then k.bufW else l.bufW := apply_ite _ _ _ _

@[simp] theorem Core.bufX_ite {p : Prop} [Decidable p] (k l : Core) :
    (if p then k else l).bufX = if p then k.bufX else l.bufX := apply_ite _ _ _ _

@[simp] theorem Device.mem_ite {p : Prop} [Decidable p] (d e : Device) :
    (if p then d else e).mem = if p then d.mem else e.mem := apply_ite _ _ _ _

@[simp] theorem State.formed_updateCore {c : CoreId} {f : Core → Core} (hW : (f (s.core c)).bufW = (s.core c).bufW)
    (hX : (f (s.core c)).bufX = (s.core c).bufX) : (s.modifyCore c f).Formed ↔ s.Formed :=
  (s.sameMem_modifyCore c f ⟨hW, hX⟩).formed_iff

@[simp] theorem State.formed_updateDev {f : Device → Device} (h : (f s.dev).mem = s.dev.mem) :
    (s.modifyDev f).Formed ↔ s.Formed := (s.sameMem_modifyDev f h).formed_iff

@[simp] theorem State.formed_setHart (c : CoreId) (x : CtxId) (h : Hart) : (s.setHart c x h).Formed ↔ s.Formed :=
  (s.sameMem_setHart c x h).formed_iff

@[simp] theorem State.formed_setStatus (c : CoreId) (x : CtxId) (t : Status) : (s.setStatus c x t).Formed ↔ s.Formed :=
  (s.sameMem_setStatus c x t).formed_iff

@[simp] theorem State.formed_setMe (h : Hart) : (s.setMe h).Formed ↔ s.Formed := State.formed_setHart _ _ h

@[simp] theorem State.formed_modifyMe (f : Hart → Hart) : (s.modifyMe f).Formed ↔ s.Formed :=
  (s.sameMem_modifyMe f).formed_iff

@[simp] theorem State.formed_actingAs (c : CoreId) (x : CtxId) : (s.actingAs c x).Formed ↔ s.Formed := Iff.rfl

@[simp] theorem State.formed_takeFresh : s.takeFresh.Formed ↔ s.Formed := Iff.rfl

end

/-! ### Results -/

/-- What a result carries is in canonical form: a value by the states in it, a stop by its own. -/
def Carries {α : Type} (p : α → Prop) : Except Stop α → Prop
  | .ok a => p a
  | .error e => e.Formed

section
variable {α β : Type} {p : α → Prop} {q : β → Prop}

@[simp] theorem carries_ok (a : α) : Carries p (.ok a) ↔ p a := Iff.rfl

@[simp] theorem carries_error (e : Stop) : Carries p (.error e) ↔ e.Formed := Iff.rfl

@[simp] theorem carries_ite {c : Prop} [Decidable c] (x y : Except Stop α) :
    Carries p (if c then x else y) ↔ if c then Carries p x else Carries p y := by
  split <;> rfl

@[simp] theorem Stop.formed_trap (t : Trap) (s : State) : (Stop.trap t s).Formed ↔ s.Formed := Iff.rfl

@[simp] theorem Stop.formed_wait (w : Wait) (s : State) : (Stop.wait w s).Formed ↔ s.Formed := Iff.rfl

@[simp] theorem Stop.formed_stall (s : State) : (Stop.stall s).Formed ↔ s.Formed := Iff.rfl

@[simp] theorem Stop.formed_lost (s : State) : (Stop.lost s).Formed ↔ s.Formed := Iff.rfl

theorem Carries.ok {x : Except Stop α} {a : α} (h : Carries p x) (e : x = .ok a) : p a := by
  subst e; exact h

theorem Carries.stop {x : Except Stop α} {e : Stop} (h : Carries p x) (he : x = .error e) : e.Formed := by
  subst he; exact h

theorem carries_bind {x : Except Stop α} {f : α → Except Stop β} (hx : Carries p x)
    (hf : ∀ a, p a → Carries q (f a)) : Carries q (x >>= f) := by
  cases x with
  | error e => exact hx
  | ok a => exact hf a hx

@[simp] theorem carries_raise {s : State} (cause : BitVec 8) (val : Word) (w : s.Formed) :
    Carries p (raise s cause val) := w

@[simp] theorem carries_raiseAhead {s : State} (cause : BitVec 8) (val : Word) (w : s.Formed) :
    Carries p (raiseAhead s cause val) := w

@[simp] theorem carries_require {s : State} {ok : Bool} {cause : BitVec 8} {val : Word} (w : s.Formed) :
    Carries (fun _ => True) (require ok s cause val) := by
  unfold require
  split
  · trivial
  · exact carries_raise cause val w

theorem State.formed_of_fst {γ : Type} {x : State × γ} {t : State} {c : γ} (h : x = (t, c)) (w : x.1.Formed) :
    t.Formed := by
  subst h; exact w

theorem State.formed_of_snd {γ : Type} {x : γ × State} {t : State} {c : γ} (h : x = (c, t)) (w : x.2.Formed) :
    t.Formed := by
  subst h; exact w

theorem formedResult_iff (r : Except Stop State) : FormedResult r ↔ Carries State.Formed r := by
  cases r <;> rfl

end

/-! ### The outcome of an instruction -/

/-- The next state, where there is one, is in canonical form. -/
def FormedNext : Host.Outcome State Fault Refusal → Prop
  | .next t => t.Formed
  | .fault _ => True
  | .refused _ => True

@[simp] theorem formedNext_next (t : State) : FormedNext (.next t) ↔ t.Formed := Iff.rfl

@[simp] theorem formedNext_fault (f : Fault) : FormedNext (.fault f) := trivial

theorem formedNext_ite {c : Prop} [Decidable c] {x y : Host.Outcome State Fault Refusal} (hx : FormedNext x)
    (hy : FormedNext y) : FormedNext (if c then x else y) := by
  split
  · exact hx
  · exact hy

theorem formedNext_finish {r : Except Stop State} (h : Carries State.Formed r) : FormedNext (finish r) := by
  cases ht : finish r with
  | next t => exact finish_formed ht (fun s hs => h.ok hs) fun e he => h.stop he
  | fault f => trivial
  | refused f => trivial

theorem formedNext_issueTo {s : State} {u : Uses} {body : State → Except Stop (State × Word)} (w : s.Formed)
    (h : ∀ s1, s1.Formed → Carries (fun r => r.1.Formed) (body s1)) : FormedNext (issueTo s u body) := by
  cases ht : issueTo s u body with
  | next t => exact issueTo_formed ht w (fun s1 s2 pc w1 h1 => (h s1 w1).ok h1) fun s1 e w1 he => (h s1 w1).stop he
  | fault f => trivial
  | refused f => trivial

theorem formedNext_issue {s : State} {u : Uses} {body : State → Except Stop State} (w : s.Formed)
    (h : ∀ s1, s1.Formed → Carries State.Formed (body s1)) : FormedNext (issue s u body) := by
  refine formedNext_issueTo w fun s1 w1 => ?_
  cases h1 : body s1 with
  | error e => exact (h s1 w1).stop h1
  | ok s2 => exact (h s1 w1).ok h1

end Sys2Proof.Machine
end

section
/-!
What is done to the state one step at a time, and the accesses to memory: each keeps the memories in canonical form.
-/

namespace Sys2Proof.Machine

theorem Device.wf_placeImage {d : Device} {cells : List Host.Cell} (h : d.mem.wf = true) :
    (d.placeImage cells).mem.wf = true :=
  Mem.wf_withCells h

@[simp] theorem State.formed_keepTranslation {s : State} {va : Word} : (s.keepTranslation va).Formed ↔ s.Formed := by
  unfold State.keepTranslation
  split <;> simp

@[simp] theorem Device.mem_writeReport (d : Device) (r : Report) : (d.writeReport r).mem = d.mem := by
  unfold Device.writeReport
  simp

@[simp] theorem State.formed_wakeGroup {s : State} {c : CoreId} {g : Nat} : (s.wakeGroup c g).Formed ↔ s.Formed :=
  (s.sameMem_wakeGroup _ _).formed_iff

@[simp] theorem State.formed_wakeCore {s : State} {c : CoreId} : (s.wakeCore c).Formed ↔ s.Formed :=
  (s.sameMem_wakeCore _).formed_iff

@[simp] theorem State.formed_notifyWrite {s : State} {core n : Nat} {x : Word} :
    (s.notifyWrite core n x).Formed ↔ s.Formed :=
  (s.sameMem_notifyWrite _ _ _).formed_iff

@[simp] theorem State.formed_fenceLaunch {s : State} {launch : Word} {cause : BitVec 8} :
    (s.fenceLaunch launch cause).Formed ↔ s.Formed :=
  (s.sameMem_fenceLaunch _ _).formed_iff

@[simp] theorem State.formed_fenceCore {s : State} {c : CoreId} : (s.fenceCore c).Formed ↔ s.Formed :=
  (s.sameMem_fenceCore _).formed_iff

@[simp] theorem State.formed_post {s : State} {c : CoreId} {r : Record} : (s.post c r).Formed ↔ s.Formed :=
  (s.sameMem_post _ _).formed_iff

@[simp] theorem State.formed_finishRecord {s : State} {c : CoreId} : (s.finishRecord c).Formed ↔ s.Formed :=
  (s.sameMem_finishRecord _).formed_iff

@[simp] theorem State.formed_postFatal {s : State} {c : CoreId} {r : Record} :
    (s.postFatal c r).Formed ↔ s.Formed :=
  (s.sameMem_postFatal _ _).formed_iff

@[simp] theorem State.formed_resetAdvice {s : State} {c : CoreId} {x : CtxId} :
    (s.resetAdvice c x).Formed ↔ s.Formed :=
  (s.sameMem_resetAdvice _ _).formed_iff

@[simp] theorem Core.bufs_setPoison (k : Core) (b : BufId) (p : List Nat) :
    (k.setPoison b p).bufW = k.bufW ∧ (k.setPoison b p).bufX = k.bufX := by
  unfold Core.setPoison
  split <;> simp

@[simp] theorem State.formed_performReads {s : State} : s.performReads.Formed ↔ s.Formed :=
  (s.sameMem_performReads).formed_iff

@[simp] theorem State.formed_performBefore {s : State} {rs : List PendingRead} :
    (s.performBefore rs).Formed ↔ s.Formed :=
  (s.sameMem_performBefore _).formed_iff

@[simp] theorem State.formed_performOne {s : State} {n e : Nat} : (s.performOne n e).Formed ↔ s.Formed :=
  (s.sameMem_performOne _ _).formed_iff

@[simp] theorem State.formed_landVectors {s : State} : s.landVectors.Formed ↔ s.Formed := by
  simp [State.landVectors]

@[simp] theorem carries_place {s : State} {g : Agent} {k : Access} {va : Word} (w : s.Formed) :
    Carries (fun _ => True) (s.place g k va) := by
  unfold State.place
  split
  · simp
  · exact w

@[simp] theorem State.formed_count {s : State} {p : Place} : (s.count p).Formed ↔ s.Formed :=
  (s.sameMem_count _).formed_iff

@[simp] theorem State.formed_countAll {s : State} {ps : List Place} : (s.countAll ps).Formed ↔ s.Formed :=
  (State.sameMem_foldl _ State.sameMem_count ps s).formed_iff

@[simp] theorem State.formed_markPromise {s : State} {g : Agent} {pa : Nat} :
    (s.markPromise g pa).Formed ↔ s.Formed :=
  (s.sameMem_markPromise _ _).formed_iff

@[simp] theorem carries_readClean {s view : State} {p : Place} {va : Word} {n : Nat} (w : s.Formed) :
    Carries (fun _ => True) (s.readClean view p va n) := by
  simp [State.readClean, w]

@[simp] theorem carries_loadBytes {s : State} {g : Agent} {va : Word} {n : Nat} (w : s.Formed) :
    Carries (fun r => r.2.Formed) (s.loadBytes g va n) := by
  refine carries_bind (carries_place w) fun p _ => carries_bind (carries_readClean w) fun x _ => ?_
  simp [w]

@[simp] theorem carries_loadWords {g : Agent} : {n : Nat} → {s : State} → {va : Word} → s.Formed →
    Carries (fun r => r.2.Formed) (s.loadWords g n va)
  | 0, _, _, w => w
  | _ + 1, _, _, w =>
    carries_bind (carries_loadBytes w) fun _ w1 => carries_bind (carries_loadWords w1) fun _ w2 => w2

@[simp] theorem carries_rmwPlace {s : State} {g : Agent} {va : Word} (w : s.Formed) :
    Carries (fun r => r.2.2.Formed) (s.rmwPlace g va) := by
  unfold State.rmwPlace
  refine carries_bind (carries_place w) fun x1 w1 => ?_
  split
  · split
    · exact w
    split
    · exact w
    · simp [w]
  · exact w

end Sys2Proof.Machine
end

section
/-!
Operands in their places, the tiles that a queue holds, and the fetch of a block.
-/

namespace Sys2Proof.Machine

@[simp] theorem State.formed_wakeGroups {s : State} {ps : List (CoreId × Nat)} : (s.wakeGroups ps).Formed ↔ s.Formed :=
  State.SameMem.formed_iff
    (State.sameMem_foldl _ (fun (s : State) (p : CoreId × Nat) => s.sameMem_wakeGroup p.1 p.2) ps s)

@[simp] theorem State.formed_stall {s : State} : s.stall.Formed ↔ s.Formed :=
  (s.sameMem_stall).formed_iff

@[simp] theorem State.formed_chargeAged {s : State} {c : CoreId} {age : Nat} {work : List (ActClass × Nat)} :
    (s.chargeAged c age work).Formed ↔ s.Formed :=
  (s.sameMem_chargeAged _ _ _).formed_iff

@[simp] theorem State.formed_handOff {s : State} {c : CoreId} : (s.handOff c).Formed ↔ s.Formed :=
  (s.sameMem_handOff _).formed_iff

@[simp] theorem State.formed_chargeOn {s : State} {c : CoreId} {work : List (ActClass × Nat)} :
    (s.chargeOn c work).Formed ↔ s.Formed :=
  (s.sameMem_chargeOn _ _).formed_iff

@[simp] theorem State.formed_charge {s : State} {work : List (ActClass × Nat)} :
    (s.charge work).Formed ↔ s.Formed := by
  simp [State.charge]

@[simp] theorem State.formed_chargeLanes {s : State} {work : List (ActClass × Nat)} :
    (s.chargeLanes work).Formed ↔ s.Formed :=
  (s.sameMem_chargeLanes _).formed_iff

@[simp] theorem State.formed_chargeUses {s : State} {u : Uses} : (s.chargeUses u).Formed ↔ s.Formed :=
  (s.sameMem_chargeUses _).formed_iff

@[simp] theorem State.formed_complete {s : State} {u : Uses} {pc : Word} : (s.complete u pc).Formed ↔ s.Formed :=
  (s.sameMem_complete _ _).formed_iff

@[simp] theorem State.formed_countFetched {s : State} {t : Stream} {fs : List Fetched} :
    (s.countFetched t fs).Formed ↔ s.Formed := by
  simp [State.countFetched]

@[simp] theorem carries_fetchTile {s : State} {want : Nat → Bool} {i : StreamId} (w : s.Formed) :
    Carries (fun r => r.2.2.Formed) (s.fetchTile want i) := by
  unfold State.fetchTile
  dsimp only
  split
  · simp [w]
  · split <;> simp [w]

@[simp] theorem carries_readTiles {s : State} {want : Nat → Bool} (w : s.Formed) : (rs : List Reg) →
    Carries (fun r => r.2.2.Formed) (s.readTiles want rs)
  | [] => w
  | r :: rs => by
    unfold State.readTiles
    split
    · next h => exact (carries_readTiles w rs).stop h
    · next h =>
      have w1 := (carries_readTiles w rs).ok h
      split
      · simp [w1]
      · split
        · simp [w1]
        · split
          · next h2 => exact (carries_fetchTile w1).stop h2
          · next h2 => exact (carries_fetchTile w1).ok h2

@[simp] theorem State.formed_chargeTile {s : State} {t : Stream} {want : Nat → Bool} {g : Agent} {k : Access} :
    (s.chargeTile t want g k).Formed ↔ s.Formed := by
  simp [State.chargeTile]

@[simp] theorem State.formed_popTiles {s : State} {want : Nat → Bool} {rs : List Reg} (w : s.Formed) :
    (s.popTiles want rs).Formed :=
  State.formed_foldl _ (fun _ _ w => by simp [w]) _ w

theorem Stop.formed_map {f : State → State} {e : Stop} (h : ∀ s, s.Formed → (f s).Formed) (w : e.Formed) :
    (e.map f).Formed := by
  cases e <;> exact h _ w

@[simp] theorem Stop.formed_popStop {s : State} {b : PopFault} (w : s.Formed) : (s.popStop b).Formed := by
  unfold State.popStop
  split <;> simp [w]

theorem Stop.formed_runBelow {s : State} {b : PopFault} {body : State → Except Stop State} (w : s.Formed)
    (hb : ∀ s, s.Formed → Carries State.Formed (body s)) : (s.runBelow b body).Formed := by
  have hs := hb _ ((State.formed_modifyMe fun h => { h with eltEnd := some b.1 }).2 w)
  unfold State.runBelow
  split
  · next h => exact Stop.formed_map (fun _ w => by simp [w]) (hs.stop h)
  · next h => split <;> simp [w, hs.ok h]

theorem carries_withTilesOf {s : State} {want : Nat → Bool} {rs : List Reg}
    {body : List (Reg × Nat) → State → Except Stop State} (w : s.Formed)
    (hb : ∀ xs s, s.Formed → Carries State.Formed (body xs s)) : Carries State.Formed (s.withTilesOf want rs body) := by
  unfold State.withTilesOf
  split
  · next h => exact (carries_readTiles w rs).stop h
  · next h => exact Stop.formed_runBelow ((carries_readTiles w rs).ok h) (hb _)
  · next xs s1 h =>
    have hs := hb xs s1 ((carries_readTiles w rs).ok h)
    split
    · next h2 => exact hs.stop h2
    · next h2 => exact State.formed_popTiles (hs.ok h2)

theorem carries_withTiles {s : State} {rs : List Reg} {body : List (Reg × Nat) → State → Except Stop State}
    (w : s.Formed) (hb : ∀ xs s, s.Formed → Carries State.Formed (body xs s)) :
    Carries State.Formed (s.withTiles rs body) :=
  carries_withTilesOf w hb

theorem carries_withWhole {s : State} {want : Nat → Bool} {rs : List Reg}
    {body : List (Reg × Nat) → State → Except Stop State} (w : s.Formed)
    (hb : ∀ xs s, s.Formed → Carries State.Formed (body xs s)) : Carries State.Formed (s.withWhole want rs body) := by
  have hr := carries_readTiles (want := want) ((State.formed_modifyMe Hart.redo).2 w) rs
  unfold State.withWhole
  split
  · next h => exact hr.stop h
  · next h =>
    have w1 : State.Formed _ := hr.ok h
    simp [w1]
  · next xs s1 h =>
    have hs := hb xs s1 (hr.ok h)
    split
    · next h2 => exact hs.stop h2
    · next h2 => exact State.formed_popTiles (hs.ok h2)

@[simp] theorem carries_pushUpTo {s : State} {i : StreamId} {hi : Nat} {f : Nat → Option Nat} (w : s.Formed) :
    Carries State.Formed (s.pushUpTo i hi f) := by
  unfold State.pushUpTo
  dsimp only
  split
  · simp [w]
  · split <;> simp [w]

@[simp] theorem carries_pushTile {s : State} {i : StreamId} {f : Nat → Option Nat} (w : s.Formed) :
    Carries State.Formed (s.pushTile i f) := by
  unfold State.pushTile
  split
  · next h1 => exact (carries_pushUpTo w).stop h1
  · next h1 => simp [(carries_pushUpTo w).ok h1]

@[simp] theorem carries_push {s : State} {i : StreamId} {f : Nat → Option Nat} (w : s.Formed) :
    Carries State.Formed (s.push i f) := by
  unfold State.push
  simp [w]

@[simp] theorem carries_writeTile {s : State} {d : Reg} {f : Nat → Option Nat} (w : s.Formed) :
    Carries State.Formed (s.writeTile d f) := by
  unfold State.writeTile
  split <;> simp [w]

@[simp] theorem carries_writeOne {s : State} {d : Reg} {n x : Nat} (w : s.Formed) :
    Carries State.Formed (s.writeOne d n x) := by
  unfold State.writeOne
  split <;> simp [w]

@[simp] theorem State.formed_takeContent {s : State} {r : Reg} : (s.takeContent r).Formed ↔ s.Formed := by
  simp [State.takeContent]

theorem State.formed_of_fetchBlock {s t : State} {va : Word} {ws : List (BitVec 32)} (h : s.fetchBlock va = .ok (ws, t))
    (w : s.Formed) : t.Formed := by
  unfold State.fetchBlock at h
  dsimp only at h
  split at h
  · cases h; exact w
  · split at h
    · cases h
    · split at h
      · cases h
      · cases h; simp [w]
    · cases h

@[simp] theorem carries_land {s : State} {target : Word} (w : s.Formed) : Carries State.Formed (s.land target) := by
  unfold State.land
  split
  · exact w
  · next h1 =>
    have w1 := State.formed_of_fetchBlock h1 w
    simp [w, w1]

end Sys2Proof.Machine
end

section
/-!
The scalar instructions, the transfers of control, and the parts of an issue cycle.
-/

namespace Sys2Proof.Machine

theorem formedNext_scalarBinary {d a : Reg} {b : Src} {fa : Bool} {f : Word → Word → Word} {s : State} (w : s.Formed) :
    FormedNext (scalarBinary d a b fa f s) := by
  unfold scalarBinary
  refine formedNext_issue w fun s1 w1 => ?_
  simp [w1]

theorem formedNext_scalarUnary {d a : Reg} {fa : Bool} {f : Word → Word} {s : State} (w : s.Formed) :
    FormedNext (scalarUnary d a fa f s) := by
  unfold scalarUnary
  refine formedNext_issue w fun s1 w1 => ?_
  simp [w1]

theorem formedNext_execCmov {d a : Reg} {b : Src} {fa : Bool} {s : State} (w : s.Formed) :
    FormedNext (execCmov d a b fa s) := by
  unfold execCmov
  refine formedNext_issue w fun s1 w1 => ?_
  simp [w1]

theorem formedNext_execAddi {d a : Reg} {imm : BitVec 14} {s : State} (w : s.Formed) :
    FormedNext (execAddi d a imm s) := by
  unfold execAddi
  refine formedNext_issue w fun s1 w1 => ?_
  simp [w1]

theorem formedNext_scalarConst {d : Reg} {f : Hart → Word} {s : State} (w : s.Formed) :
    FormedNext (scalarConst d f s) := by
  unfold scalarConst
  refine formedNext_issue w fun s1 w1 => ?_
  simp [w1]

theorem formedNext_floatBinary {d a : Reg} {b : Src} {fa : Bool} {f : Rounding → Word → Word → Word} {s : State}
    (w : s.Formed) : FormedNext (floatBinary d a b fa f s) := by
  unfold floatBinary
  refine formedNext_issue w fun s1 w1 => ?_
  simp [w1]

theorem formedNext_floatUnary {d a : Reg} {fa : Bool} {f : Rounding → Word → Word} {s : State} (w : s.Formed) :
    FormedNext (floatUnary d a fa f s) := by
  unfold floatUnary
  refine formedNext_issue w fun s1 w1 => ?_
  simp [w1]

theorem formedNext_execFfma {d a : Reg} {b : Src} {fa : Bool} {s : State} (w : s.Formed) :
    FormedNext (execFfma d a b fa s) := by
  unfold execFfma
  refine formedNext_issue w fun s1 w1 => ?_
  simp [w1]

theorem formedNext_execBr {a : Reg} {cond : BitVec 3} {off : BitVec 17} {s : State} (w : s.Formed) :
    FormedNext (execBr a cond off s) := by
  refine formedNext_issueTo w fun s1 w1 => ?_
  extract_lets h taken target
  clear_value taken
  split
  · split
    · next e => exact (carries_land w1).stop e
    · next e => exact (carries_land w1).ok e
  · exact w1

@[simp] theorem carries_jump {s : State} {d : Reg} {target : Word} (w : s.Formed) :
    Carries (fun r => r.1.Formed) (s.jump d target) := by
  unfold State.jump
  split
  · next h1 => exact (carries_land w).stop h1
  · next h1 => simp [(carries_land w).ok h1]

theorem formedNext_execJal {d : Reg} {imm : BitVec 20} {s : State} (w : s.Formed) : FormedNext (execJal d imm s) := by
  unfold execJal
  refine formedNext_issueTo w fun s1 w1 => ?_
  simp [w1]

theorem formedNext_execJr {d a : Reg} {fa : Bool} {s : State} (w : s.Formed) : FormedNext (execJr d a fa s) := by
  unfold execJr
  refine formedNext_issueTo w fun s1 w1 => ?_
  simp [w1]

theorem formedNext_execJtab {d a b : Reg} {fa fb : Bool} {s : State} (w : s.Formed) :
    FormedNext (execJtab d a b fa fb s) := by
  unfold execJtab
  refine formedNext_issueTo w fun s1 w1 => ?_
  dsimp only
  split
  · split
    · exact w1
    split
    · next h4 => exact (carries_loadBytes w1).stop h4
    · next h4 =>
      have w4 := (carries_loadBytes w1).ok h4
      split
      · next h5 => exact (carries_land w4).stop h5
      · next h5 => exact (carries_land w4).ok h5
  · exact w1

theorem formedNext_execStrip {cnt : Reg} {asel : BitVec 4} {off : BitVec 16} {s : State} (w : s.Formed) :
    FormedNext (execStrip cnt asel off s) := by
  refine formedNext_issueTo w fun s1 w1 => ?_
  extract_lets h step n target
  have hl : Carries State.Formed (if n = 0 then .ok s1 else s1.land target) := by
    split
    · exact w1
    · exact carries_land w1
  split
  · next e => exact hl.stop e
  · next e => simpa using hl.ok e

@[simp] theorem Core.bufs_modifyStat (k : Core) (x : UserCtx) (f : AdvStat → AdvStat) :
    (k.modifyStat x f).bufW = k.bufW ∧ (k.modifyStat x f).bufX = k.bufX := by
  unfold Core.modifyStat
  simp

@[simp] theorem Core.bufs_modifyHart (k : Core) (x : UserCtx) (f : Hart → Hart) :
    (k.modifyHart x f).bufW = k.bufW ∧ (k.modifyHart x f).bufX = k.bufX := by
  unfold Core.modifyHart
  simp

@[simp] theorem Core.bufs_mark (k : Core) (x : UserCtx) (m : Mark) :
    (k.mark x m).bufW = k.bufW ∧ (k.mark x m).bufX = k.bufX := by
  unfold Core.mark
  dsimp only
  split <;> simp

theorem formedNext_execMark {imm : BitVec 20} {s : State} (w : s.Formed) : FormedNext (execMark imm s) := by
  unfold execMark
  refine formedNext_issue w fun s1 w1 => ?_
  split
  · simp [w1]
  · exact w1

@[simp] theorem State.formed_chargeEnergy {s : State} {c : CoreId} {x : UserCtx} {n : Nat} :
    (s.chargeEnergy c x n).Formed ↔ s.Formed := by
  simp [State.chargeEnergy]

@[simp] theorem State.formed_chargeBusy {s : State} {b : Busy} {n : Nat} : (s.chargeBusy b n).Formed ↔ s.Formed := by
  unfold State.chargeBusy
  dsimp only
  split <;> simp

@[simp] theorem State.formed_meterCycle {s : State} {c : CoreId} (w : s.Formed) : (s.meterCycle c).Formed := by
  unfold State.meterCycle
  simp +contextual [w, State.formed_foldl]

theorem formedNext_execActivityMeterCycle {core : CoreId} {s : State} (w : s.Formed) :
    FormedNext (execActivityMeterCycle core s) := by
  unfold execActivityMeterCycle
  simp [w]

@[simp] theorem State.formed_staticEnergy {s : State} {c : CoreId} : (s.staticEnergy c).Formed ↔ s.Formed := by
  simp [State.staticEnergy]

@[simp] theorem State.formed_takeShare {s : State} {c : CoreId} {x : UserCtx} :
    (s.takeShare c x).Formed ↔ s.Formed := by
  simp [State.takeShare]

@[simp] theorem State.formed_chargeQueue {s : State} {c : CoreId} {x : CtxId} :
    (s.chargeQueue c x).Formed ↔ s.Formed := by
  simp [State.chargeQueue]

@[simp] theorem State.formed_tick {s : State} {c : CoreId} : (s.tick c).Formed ↔ s.Formed := by
  simp [State.tick]

@[simp] theorem State.formed_wakeForWork {s : State} {c : CoreId} : (s.wakeForWork c).Formed ↔ s.Formed := by
  simp [State.wakeForWork]

@[simp] theorem State.formed_issueCycle {s : State} {c : CoreId} (w : s.Formed) : (s.issueCycle c).Formed := by
  unfold State.issueCycle
  dsimp only
  (repeat' split) <;> simp [↓State.formed_frame, w]

end Sys2Proof.Machine
end

section
/-!
The advice instructions of a Second, the images in memory, and the scalar loads, stores and atomics.
-/

namespace Sys2Proof.Machine

@[simp] theorem State.formed_setAdvice {s : State} {v : Advice} : (s.setAdvice v).Formed ↔ s.Formed := by
  simp [State.setAdvice]

@[simp] theorem State.formed_countStat {s : State} {f : AdvStat → AdvStat} : (s.countStat f).Formed ↔ s.Formed := by
  simp [State.countStat]

@[simp] theorem State.formed_adviceNext {s : State} {words : Nat} : (s.adviceNext words).Formed ↔ s.Formed := by
  simp [State.adviceNext]

@[simp] theorem State.formed_dropWord {s : State} {words : Nat} : (s.dropWord words).Formed ↔ s.Formed := by
  simp [State.dropWord]

@[simp] theorem State.formed_adviceIdle {s : State} : s.adviceIdle.Formed ↔ s.Formed := by
  simp [State.adviceIdle]

@[simp] theorem State.formed_addAction {s : State} {b : Src} {act : Action} :
    (s.addAction b act).Formed ↔ s.Formed := by
  simp [State.addAction]

@[simp] theorem State.formed_dropAction {s : State} : s.dropAction.Formed ↔ s.Formed := by
  simp [State.dropAction]

@[simp] theorem State.formed_addTranslated {s : State} {b : Src} {ok : Bool} {act : Action} :
    (s.addTranslated b ok act).Formed ↔ s.Formed := by
  simp [State.addTranslated]

theorem formedNext_actionOr {s : State} {b : Src} {ok : Bool} {act : Action} (w : s.Formed) :
    FormedNext (s.actionOr b ok act) := by
  unfold State.actionOr
  simp [w]

@[simp] theorem State.formed_addPrefetch {s : State} {b : Src} {kind : Nat} {base : Word} {n : Nat} :
    (s.addPrefetch b kind base n).Formed ↔ s.Formed := by
  simp [State.addPrefetch]

theorem formedNext_execApf {d a : Reg} {b : Src} {s : State} (w : s.Formed) : FormedNext (execApf d a b s) := by
  unfold execApf
  simp [w]

theorem formedNext_execAhome {a : Reg} {b : Src} {s : State} (w : s.Formed) : FormedNext (execAhome a b s) := by
  unfold execAhome
  simp [w]

theorem formedNext_execAprio {b : Src} {s : State} (w : s.Formed) : FormedNext (execAprio b s) :=
  formedNext_actionOr w

theorem formedNext_execAorder {b : Src} {s : State} (w : s.Formed) : FormedNext (execAorder b s) :=
  formedNext_actionOr w

theorem formedNext_execAwake {b : Src} {s : State} (w : s.Formed) : FormedNext (execAwake b s) :=
  formedNext_actionOr w

@[simp] theorem State.formed_adviceJump {s : State} {target : Word} : (s.adviceJump target).Formed ↔ s.Formed := by
  unfold State.adviceJump
  split <;> simp

theorem formedNext_execAj {d a : Reg} {b : Src} {s : State} (w : s.Formed) : FormedNext (execAj d a b s) := by
  unfold execAj
  dsimp only
  split <;> simp [w]

theorem formedNext_execAloop {a : Reg} {b : Src} {s : State} (w : s.Formed) : FormedNext (execAloop a b s) := by
  unfold execAloop
  dsimp only
  split <;> simp [w]

theorem formedNext_execAadd {d a : Reg} {b : Src} {s : State} (w : s.Formed) : FormedNext (execAadd d a b s) := by
  unfold execAadd
  split <;> simp [w]

theorem formedNext_execAli {d : Reg} {b : Src} {s : State} (w : s.Formed) : FormedNext (execAli d b s) := by
  unfold execAli
  split <;> simp [w]

theorem formedNext_execAsnap {d sel : Reg} {s : State} (w : s.Formed) : FormedNext (execAsnap d sel s) := by
  unfold execAsnap
  split <;> simp [w]

theorem formedNext_execAend {s : State} (w : s.Formed) : FormedNext (execAend s) := by
  unfold execAend
  simp [w]

theorem formedNext_execAwait {imm : BitVec 20} {s : State} (w : s.Formed) : FormedNext (execAwait imm s) := by
  unfold execAwait
  dsimp only
  split
  · exact w
  · split <;> simp [w]

theorem formedNext_execSecondMarkConsume {core : CoreId} {ctx : UserCtx} {s : State} (w : s.Formed) :
    FormedNext (execSecondMarkConsume core ctx s) := by
  unfold execSecondMarkConsume
  dsimp only
  split
  · split <;> simp [w]
  · exact w

@[simp] theorem State.formed_acceptAction {s : State} {act : Action} (w : s.Formed) : (s.acceptAction act).Formed := by
  cases act with
  | prefetch kind base n =>
    have wk : (List.foldl State.keepTranslation s (s.prefetchLines base n)).Formed :=
      State.formed_foldl _ (fun _ _ w => State.formed_keepTranslation.2 w) _ w
    simp only [State.acceptAction]
    (repeat' split) <;> simp [w, wk]
  | home va die =>
    simp only [State.acceptAction]
    split
    · exact (State.formed_updateDev rfl).2 w
    · simp [w]
  | prio level => simp [State.acceptAction, w]
  | order code => simp [State.acceptAction, w]
  | awake groups =>
    exact State.formed_foldl _ (fun s g w => by split <;> simp [w]) _ w

theorem formedNext_execAdviceActionAccept {core : CoreId} {ctx : UserCtx} {s : State} (w : s.Formed) :
    FormedNext (execAdviceActionAccept core ctx s) := by
  unfold execAdviceActionAccept
  dsimp only
  split <;> simp [w]

@[simp] theorem carries_readImage {s : State} {g : Agent} {va : Word} {n : Nat} (w : s.Formed) :
    Carries (fun _ => True) (s.readImage g va n) := by
  unfold State.readImage
  split
  · exact w
  split
  · exact w
  · simp

@[simp] theorem State.formed_countImage {s : State} {g : Agent} {va : Word} {n : Nat} :
    (s.countImage g va n).Formed ↔ s.Formed := by
  simp [State.countImage]

@[simp] theorem State.formed_writeRuns {s : State} {ps : List (Place × Nat × Nat)} {x : Nat} (w : s.Formed) :
    (s.writeRuns ps x).Formed := by
  unfold State.writeRuns
  simp [w, State.formed_performStores]

theorem carries_afterCopies {s : State} {g : Agent} {k : Access} {va : Word} {n : Nat}
    {body : State → Except Stop State} (w : s.Formed) (hb : ∀ s, s.Formed → Carries State.Formed (body s)) :
    Carries State.Formed (s.afterCopies g k va n body) := by
  unfold State.afterCopies
  split
  · simp [w]
  · exact hb s w

@[simp] theorem State.formed_freeBytes {n : Nat} {s : State} (w : s.Formed) : (s.freeBytes n).2.Formed := by
  induction n generalizing s with
  | zero => exact w
  | succ n ih => exact ih (State.formed_takeFresh.2 w)

@[simp] theorem carries_writeImage {s : State} {g : Agent} {va : Word} {n x : Nat} (w : s.Formed) :
    Carries State.Formed (s.writeImage g va n x) := by
  unfold State.writeImage
  split
  · simp [w]
  split
  · exact w
  split
  · next h3 => simp [State.formed_of_snd h3 (State.formed_freeBytes w)]

theorem formedNext_scalarLoad {n : Nat} {sext : Bool} {d a : Reg} {off : BitVec 8} {fa : Bool} {s : State}
    (w : s.Formed) : FormedNext (scalarLoad n sext d a off fa s) := by
  unfold scalarLoad
  refine formedNext_issue w fun s1 w1 => ?_
  dsimp only
  split
  · exact w1
  split
  · next h3 => exact (carries_place w1).stop h3
  split
  · exact w1
  · simp [w1]

theorem formedNext_scalarStore {n : Nat} {d a : Reg} {off : BitVec 8} {fa fd : Bool} {s : State} (w : s.Formed) :
    FormedNext (scalarStore n d a off fa fd s) := by
  unfold scalarStore
  refine formedNext_issue w fun s1 w1 => ?_
  dsimp only
  split
  · exact w1
  split
  · next h3 => exact (carries_place w1).stop h3
  · simp [w1]

theorem formedNext_scalarAtomic {readsD float : Bool} {f : Word → Word → Word → Option Word} {d a b : Reg}
    {ord : BitVec 2} {fa fb : Bool} {s : State} (w : s.Formed) :
    FormedNext (scalarAtomic readsD float f d a b ord fa fb s) := by
  refine formedNext_issue w fun s1 w1 => ?_
  dsimp only
  split
  · exact w1
  split
  · next h => exact (carries_place w1).stop h
  · (repeat' split) <;> simp [w1, State.formed_addUnordered, State.formed_putWord]

end Sys2Proof.Machine
end

section
/-!
The vector instructions on integers and floats, and the generator.
-/

namespace Sys2Proof.Machine

@[simp] theorem carries_writeActive {s : State} {d : Reg} {f : Nat → Nat} (w : s.Formed) :
    Carries State.Formed (s.writeActive d f) := by
  unfold State.writeActive
  simp [w]

@[simp] theorem carries_writeMasked {s : State} {d : Reg} {f : Nat → Nat} (w : s.Formed) :
    Carries State.Formed (s.writeMasked d f) := by
  unfold State.writeMasked
  simp [w]

theorem formedNext_vectorBinary {op : Nat → Nat → Nat → Nat} {d a : Reg} {b : Src} {fa : Bool} {s : State}
    (w : s.Formed) : FormedNext (vectorBinary op d a b fa s) := by
  unfold vectorBinary
  refine formedNext_issue w fun s1 w1 => ?_
  refine carries_withTiles w1 fun xs2 s2 w2 => ?_
  simp [w2]

theorem formedNext_vectorUnary {op : Nat → Nat → Nat} {d a : Reg} {fa : Bool} {s : State} (w : s.Formed) :
    FormedNext (vectorUnary op d a fa s) := by
  unfold vectorUnary
  refine formedNext_issue w fun s1 w1 => ?_
  refine carries_withTiles w1 fun xs2 s2 w2 => ?_
  simp [w2]

theorem formedNext_execVmadd {d a : Reg} {b : Src} {fa : Bool} {s : State} (w : s.Formed) :
    FormedNext (execVmadd d a b fa s) := by
  unfold execVmadd
  refine formedNext_issue w fun s1 w1 => ?_
  refine carries_withTiles w1 fun xs2 s2 w2 => ?_
  simp [w2]

theorem formedNext_vectorCarry {r : Nat → Nat → Nat → Nat → Nat} {c : Nat → Nat → Nat → Nat → Bool} {d a : Reg}
    {b : Src} {fa : Bool} {s : State} (w : s.Formed) : FormedNext (vectorCarry r c d a b fa s) := by
  refine formedNext_issue w fun s1 w1 => carries_withTiles w1 fun xs s2 w2 => ?_
  extract_lets h x y cin carries
  split
  · next t s3 h3 =>
    have w3 : s3.Formed := (carries_writeActive w2).stop h3
    simp [w3]
  · next h3 => exact (carries_writeActive w2).stop h3
  · next h3 => simp [(carries_writeActive w2).ok h3]

theorem formedNext_vectorCompare {fn : Nat} {d a : Reg} {b : Src} {fa : Bool} {s : State} (w : s.Formed) :
    FormedNext (vectorCompare fn d a b fa s) := by
  unfold vectorCompare
  refine formedNext_issue w fun s1 w1 => ?_
  refine carries_withTiles w1 fun xs2 s2 w2 => ?_
  simp [w2]

theorem formedNext_execVmerge {d a : Reg} {b : Src} {fa : Bool} {s : State} (w : s.Formed) :
    FormedNext (execVmerge d a b fa s) := by
  unfold execVmerge
  refine formedNext_issue w fun s1 w1 => ?_
  refine carries_withTilesOf w1 fun xs2 s2 w2 => ?_
  simp [w2]

theorem formedNext_execVnarrow {d a : Reg} {b : Src} {fa : Bool} {s : State} (w : s.Formed) :
    FormedNext (execVnarrow d a b fa s) := by
  unfold execVnarrow
  refine formedNext_issue w fun s1 w1 => ?_
  refine carries_withTiles w1 fun xs2 s2 w2 => ?_
  simp [w2]

theorem formedNext_vectorWiden {op : Nat → Nat → Nat} {d a : Reg} {fa : Bool} {s : State} (w : s.Formed) :
    FormedNext (vectorWiden op d a fa s) := by
  unfold vectorWiden
  refine formedNext_issue w fun s1 w1 => ?_
  refine carries_withTiles w1 fun xs2 s2 w2 => ?_
  simp [w2]

theorem formedNext_execKset {d a : Reg} {b : Src} {fa : Bool} {s : State} (w : s.Formed) :
    FormedNext (execKset d a b fa s) := by
  unfold execKset
  refine formedNext_issue w fun s1 w1 => ?_
  dsimp only
  split
  · exact w1
  split
  · exact w1
  split
  · exact w1
  split
  · exact w1
  · simp [w1]

theorem formedNext_execKseed {d : Reg} {b : Src} {s : State} (w : s.Formed) : FormedNext (execKseed d b s) := by
  unfold execKseed
  refine formedNext_issue w fun s1 w1 => ?_
  simp [w1]

theorem formedNext_execKorg {d a : Reg} {b : Src} {fa : Bool} {s : State} (w : s.Formed) :
    FormedNext (execKorg d a b fa s) := by
  unfold execKorg
  refine formedNext_issue w fun s1 w1 => ?_
  simp [w1]

theorem formedNext_execKfreq {d a : Reg} {fa : Bool} {s : State} (w : s.Formed) : FormedNext (execKfreq d a fa s) := by
  refine formedNext_issue w fun s1 w1 => ?_
  dsimp only
  split
  · simp [w1]
  · refine carries_afterCopies w1 fun s2 w2 => ?_
    split
    · next h => exact (carries_readImage w2).stop h
    · simp [w2]

theorem formedNext_execVgen {d a : Reg} {s : State} (w : s.Formed) : FormedNext (execVgen d a s) := by
  unfold execVgen
  refine formedNext_issue w fun s1 w1 => ?_
  simp [w1]

theorem formedNext_execKget {d a : Reg} {b : Src} {s : State} (w : s.Formed) : FormedNext (execKget d a b s) := by
  unfold execKget
  refine formedNext_issue w fun s1 w1 => ?_
  dsimp only
  split
  · simp [w1]
  split
  · simp [w1]
  · exact w1

theorem formedNext_vfloatBinary {op : Fmt → Rounding → Nat → Nat → Nat} {d a : Reg} {b : Src} {fa : Bool} {s : State}
    (w : s.Formed) : FormedNext (vfloatBinary op d a b fa s) := by
  unfold vfloatBinary
  refine formedNext_issue w fun s1 w1 => ?_
  refine carries_withTiles w1 fun xs2 s2 w2 => ?_
  simp [w2]

theorem formedNext_vfloatUnary {op : Fmt → Rounding → Nat → Nat} {d a : Reg} {fa : Bool} {s : State} (w : s.Formed) :
    FormedNext (vfloatUnary op d a fa s) := by
  unfold vfloatUnary
  refine formedNext_issue w fun s1 w1 => ?_
  refine carries_withTiles w1 fun xs2 s2 w2 => ?_
  simp [w2]

theorem formedNext_vfloatFused {op : Bool → FVal → FVal → FVal} {d a : Reg} {b : Src} {fa : Bool} {s : State}
    (w : s.Formed) : FormedNext (vfloatFused op d a b fa s) := by
  unfold vfloatFused
  refine formedNext_issue w fun s1 w1 => ?_
  refine carries_withTiles w1 fun xs2 s2 w2 => ?_
  simp [w2]

theorem formedNext_vfloatCompare {op : FVal → FVal → Bool} {d a : Reg} {b : Src} {fa : Bool} {s : State}
    (w : s.Formed) : FormedNext (vfloatCompare op d a b fa s) := by
  unfold vfloatCompare
  refine formedNext_issue w fun s1 w1 => ?_
  refine carries_withTiles w1 fun xs2 s2 w2 => ?_
  simp [w2]

theorem formedNext_convertElems {dst src : Option Side} {d a : Reg} {fa : Bool} {s : State} (w : s.Formed) :
    FormedNext (convertElems dst src d a fa s) := by
  refine formedNext_issue w fun s1 w1 => carries_withTiles w1 fun xs s2 w2 => ?_
  extract_lets h source result
  split <;> simp [w2]

@[simp] theorem carries_quantScale {s : State} {b : Reg} (w : s.Formed) :
    Carries (fun _ => True) (s.quantScale b) := by
  unfold State.quantScale
  dsimp only
  split
  · exact w
  split
  · exact w
  · simp

theorem formedNext_execVquant {d a b : Reg} {fa fb : Bool} {s : State} (w : s.Formed) :
    FormedNext (execVquant d a b fa fb s) := by
  unfold execVquant
  refine formedNext_issue w fun s1 w1 => ?_
  dsimp only
  split
  · next h2 => exact (carries_quantScale w1).stop h2
  split
  · refine carries_withTiles w1 fun xs4 s4 w4 => ?_
    simp [w4]
  · refine carries_withWhole w1 fun xs4 s4 w4 => ?_
    simp [w4]

theorem formedNext_execVdequant {d a b : Reg} {fa fb : Bool} {s : State} (w : s.Formed) :
    FormedNext (execVdequant d a b fa fb s) := by
  unfold execVdequant
  refine formedNext_issue w fun s1 w1 => ?_
  dsimp only
  split
  · next h2 => exact (carries_quantScale w1).stop h2
  · simp [w1]

theorem formedNext_execVamax {a b : Reg} {fa : Bool} {s : State} (w : s.Formed) :
    FormedNext (execVamax a b fa s) := by
  unfold execVamax
  refine formedNext_issue w fun s1 w1 => ?_
  refine carries_withWhole w1 fun xs2 s2 w2 => ?_
  simp [w2]

theorem formedNext_execAmscl {d a b : Reg} {s : State} (w : s.Formed) : FormedNext (execAmscl d a b s) := by
  unfold execAmscl
  refine formedNext_issue w fun s1 w1 => ?_
  simp [w1]

theorem formedNext_reduce {isFloat : Bool} {op : Hart → Rounding → Nat → Nat → Nat} {identity : Hart → Option Nat}
    {d a : Reg} {b : Src} {fa : Bool} {s : State} (w : s.Formed) :
    FormedNext (reduce isFloat op identity d a b fa s) := by
  refine formedNext_issue w fun s1 w1 => ?_
  split
  · exact w1
  · exact carries_withWhole w1 fun _ _ w2 => carries_writeOne (State.formed_takeContent.2 w2)

end Sys2Proof.Machine
end

section
/-!
The matrix instructions and the accumulator slots.
-/

namespace Sys2Proof.Machine

@[simp] theorem carries_slot {s : State} {z : Reg} (w : s.Formed) : Carries (fun _ => True) (s.slot z) := by
  unfold State.slot
  split
  · simp
  · exact w

@[simp] theorem carries_bindSlot {s : State} {z : Reg} {kind : ZKind} (w : s.Formed) :
    Carries State.Formed (s.bindSlot z kind) := by
  unfold State.bindSlot
  split
  · exact w
  · simp [w]

@[simp] theorem carries_bindIfNeeded {s : State} {z : Reg} {kind : ZKind} (w : s.Formed) :
    Carries State.Formed (s.bindIfNeeded z kind) := by
  unfold State.bindIfNeeded
  split
  · exact w
  · simp [w]

@[simp] theorem State.formed_modifySlot {s : State} {z : Reg} {f : Slot → Slot} :
    (s.modifySlot z f).Formed ↔ s.Formed := by
  simp [State.modifySlot]

@[simp] theorem State.formed_mmaRows {w : MmaWork} {bs : Except (BitVec 8 × Word) (List (List FVal) × List Place)} :
    {n i : Nat} → {s : State} → s.Formed → (s.mmaRows w bs n i).1.Formed
  | 0, _, _, f => f
  | n + 1, i, s, f => by
    unfold State.mmaRows
    dsimp only
    split
    · exact f
    · exact f
    · exact f
    · split
      · exact f
      · exact State.formed_mmaRows (State.formed_modifySlot.2 (State.formed_countAll.2 f))

@[simp] theorem State.formed_runMma {s : State} {w : MmaWork} {n first : Nat} (f : s.Formed) :
    (s.runMma w n first).1.Formed := by
  unfold State.runMma
  dsimp only
  split <;> simp [f]

@[simp] theorem carries_prepareMma {s : State} {z a b : Reg} {fmt : BitVec 4} {kn : BitVec 2} {acc : Bool}
    (w : s.Formed) : Carries (fun r => r.2.Formed) (s.prepareMma z a b fmt kn acc) := by
  unfold State.prepareMma
  dsimp only
  split
  · exact w
  split
  · exact w
  split
  · exact w
  split
  · exact w
  split
  · next h5 => exact (carries_bindIfNeeded w).stop h5
  · next h5 => simp [(carries_bindIfNeeded w).ok h5]

theorem carries_afterFollowOns {s : State} {body : State → Except Stop State} (w : s.Formed)
    (hb : ∀ s, s.Formed → Carries State.Formed (body s)) : Carries State.Formed (s.afterFollowOns body) := by
  unfold State.afterFollowOns
  split
  · exact w
  · exact hb s w

@[simp] theorem carries_finishMma {s : State} {m : MmaWork} {first : Nat} (w : s.Formed) :
    Carries State.Formed (s.finishMma m first) := by
  unfold State.finishMma
  dsimp only
  split
  · exact w
  split
  · next h =>
    have w1 := State.formed_of_fst h (State.formed_runMma w)
    split <;> simp [w1]
  · next h => simp [State.formed_of_fst h (State.formed_runMma w)]

theorem formedNext_execMma {z a b : Reg} {fmt : BitVec 4} {kn : BitVec 2} {acc : Bool} {s : State} (w : s.Formed) :
    FormedNext (execMma z a b fmt kn acc s) := by
  unfold execMma
  refine formedNext_issue w fun s1 w1 => ?_
  refine carries_afterFollowOns w1 fun s2 w2 => ?_
  split
  · simp [w2]
  split
  · next h4 => exact (carries_prepareMma w2).stop h4
  · next h4 => simp [(carries_prepareMma w2).ok h4]

theorem formedNext_execMdset {d a : Reg} {b : Src} {fa : Bool} {s : State} (w : s.Formed) :
    FormedNext (execMdset d a b fa s) := by
  unfold execMdset
  refine formedNext_issue w fun s1 w1 => ?_
  simp [w1]

theorem formedNext_execMdadv {d : Reg} {b : Src} {s : State} (w : s.Formed) : FormedNext (execMdadv d b s) := by
  unfold execMdadv
  refine formedNext_issue w fun s1 w1 => ?_
  simp [w1]

@[simp] theorem carries_requireClean {s : State} {q : Slot} {reads : Nat → Bool} (w : s.Formed) :
    Carries (fun _ => True) (requireClean s q reads) :=
  carries_require w

theorem formedNext_execZscacc {d a b : Reg} {fb : Bool} {s : State} (w : s.Formed) :
    FormedNext (execZscacc d a b fb s) :=
  formedNext_issue w fun _ w1 => carries_afterFollowOns w1 fun _ w2 =>
    carries_bind (carries_slot w2) fun _ _ => carries_bind (carries_slot w2) fun _ _ =>
      carries_bind (carries_require w2) fun _ _ => carries_bind (carries_requireClean w2) fun _ _ =>
        carries_bind (carries_requireClean w2) fun _ _ => carries_withWhole w2 fun _ _ w3 => by simp [w3]

theorem formedNext_execZzero {d a : Reg} {s : State} (w : s.Formed) : FormedNext (execZzero d a s) := by
  unfold execZzero
  refine formedNext_issue w fun s1 w1 => ?_
  refine carries_afterFollowOns w1 fun s2 w2 => ?_
  split
  · next h3 => exact (carries_bindIfNeeded w2).stop h3
  · next h3 => simp [(carries_bindIfNeeded w2).ok h3]

@[simp] theorem State.formed_releaseSlot {s : State} {z : Nat} : (s.releaseSlot z).Formed ↔ s.Formed := by
  simp [State.releaseSlot]

theorem formedNext_execZrel {d : Reg} {s : State} (w : s.Formed) : FormedNext (execZrel d s) := by
  unfold execZrel
  refine formedNext_issue w fun s1 w1 => ?_
  refine carries_afterFollowOns w1 fun s2 w2 => ?_
  simp [w2]

@[simp] theorem carries_position {s : State} {b : Src} (w : s.Formed) : Carries (fun _ => True) (s.position b) := by
  unfold State.position
  dsimp only
  split
  · exact w
  · simp

theorem formedNext_execZext {d a : Reg} {b : Src} {s : State} (w : s.Formed) : FormedNext (execZext d a b s) := by
  refine formedNext_issue w fun s1 w1 => carries_afterFollowOns w1 fun s2 w2 => ?_
  refine carries_bind (carries_position w2) fun ⟨rb, cb⟩ _ => carries_bind (carries_slot w2) fun q _ => ?_
  refine carries_bind (carries_require w2) fun _ _ => carries_bind (carries_requireClean w2) fun _ _ => ?_
  split <;> simp [w2]

theorem formedNext_execZins {d a : Reg} {b : Src} {fa : Bool} {s : State} (w : s.Formed) :
    FormedNext (execZins d a b fa s) :=
  formedNext_issue w fun _ w1 => carries_afterFollowOns w1 fun _ w2 =>
    carries_bind (carries_position w2) fun _ _ => carries_bind (carries_slot w2) fun _ _ =>
      carries_bind (carries_require w2) fun _ _ => carries_withTiles w2 fun _ _ w3 => by simp [w3]

theorem formedNext_execZamax {a b : Reg} {s : State} (w : s.Formed) : FormedNext (execZamax a b s) := by
  unfold execZamax
  refine formedNext_issue w fun s1 w1 => ?_
  refine carries_afterFollowOns w1 fun s2 w2 => ?_
  refine carries_bind (carries_slot w2) fun x3 w3 => ?_
  refine carries_bind (carries_requireClean w2) fun x4 w4 => ?_
  simp [w2]

theorem formedNext_execZstat {d a : Reg} {s : State} (w : s.Formed) : FormedNext (execZstat d a s) := by
  unfold execZstat
  refine formedNext_issue w fun s1 w1 => ?_
  refine carries_afterFollowOns w1 fun s2 w2 => ?_
  simp [w2]

@[simp] theorem carries_saveTile {s : State} {q : Slot} {va : Word} (w : s.Formed) :
    Carries State.Formed (s.saveTile q va) := by
  unfold State.saveTile
  split
  · exact w
  · simp [w]

theorem formedNext_execZsave {d a : Reg} {fa : Bool} {s : State} (w : s.Formed) : FormedNext (execZsave d a fa s) :=
  formedNext_issue w fun _ w1 => carries_afterFollowOns w1 fun _ w2 =>
    carries_bind (carries_require w2) fun _ _ => carries_bind (carries_slot w2) fun _ _ =>
      carries_bind (carries_requireClean w2) fun _ _ => carries_afterCopies w2 fun _ w3 => carries_saveTile w3

theorem formedNext_execZload {d a : Reg} {fa : Bool} {s : State} (w : s.Formed) : FormedNext (execZload d a fa s) := by
  refine formedNext_issue w fun s1 w1 => carries_afterFollowOns w1 fun s2 w2 => ?_
  refine carries_bind (carries_require w2) fun _ _ => carries_afterCopies w2 fun s3 w3 => ?_
  refine carries_bind (carries_readImage w3) fun x _ => ?_
  have w4 := (State.formed_countImage (g := .reader) (va := s2.me.readX a) (n := tileImageBytes)).2 w3
  split
  · exact w4
  · dsimp only
    split
    · next h => exact (carries_bindIfNeeded w4).stop h
    · next h => simp [(carries_bindIfNeeded w4).ok h]

end Sys2Proof.Machine
end

section
/-!
The vector loads and stores, and the appends.
-/

namespace Sys2Proof.Machine

@[simp] theorem State.formed_countLoaded {s : State} {addr : Nat → Word} {lo : Nat} {xs : List (Option (Place × Nat))} :
    (s.countLoaded addr lo xs).Formed ↔ s.Formed := by
  simp [State.countLoaded]

@[simp] theorem State.formed_chargePasses {s : State} {ps : List Place} : (s.chargePasses ps).Formed ↔ s.Formed := by
  simp [State.chargePasses]

@[simp] theorem carries_landTile {s : State} {d : Reg} {lo : Nat} {xs : List (Option (Place × Nat))} (w : s.Formed) :
    Carries State.Formed (s.landTile d lo xs) := by
  unfold State.landTile
  split <;> simp [w]

@[simp] theorem carries_landBelow {s : State} {d : Reg} {lo hi : Nat} {xs : List (Option (Place × Nat))}
    (w : s.Formed) : Carries State.Formed (s.landBelow d lo hi xs) := by
  unfold State.landBelow
  dsimp only
  split <;> simp [w]

@[simp] theorem Stop.formed_haltAt {i : Nat} {h : Halt} {s : State} (w : s.Formed) : (haltAt i h s).Formed := by
  cases h <;> simp [haltAt, w]

theorem carries_loadTile {s : State} {d : Reg} {addr : Nat → Word} {note : List (Option (Place × Nat)) → State → State}
    (w : s.Formed) (hn : ∀ xs s, s.Formed → (note xs s).Formed) : Carries State.Formed (s.loadTile d addr note) := by
  unfold State.loadTile
  dsimp only
  split
  · simp [w]
  have w1 := fun xs lo => hn xs _ (State.formed_chargePasses.2 (State.formed_countLoaded.2 w) :
    ((s.countLoaded addr lo xs).chargePasses (loadedPlaces xs)).Formed)
  split
  · exact w1 _ _
  · split
    · next h => exact (carries_landBelow (w1 _ _)).stop h
    · next h => simp [(carries_landBelow (w1 _ _)).ok h]
  · exact carries_landTile (w1 _ _)

/-- A load that records nothing of its elements. -/
@[simp] theorem carries_loadTile_plain {s : State} {d : Reg} {addr : Nat → Word} (w : s.Formed) :
    Carries State.Formed (s.loadTile d addr) :=
  carries_loadTile w fun _ _ w => w

theorem formedNext_vectorLoad {addr : Hart → Word → Nat → Word} {d a : Reg} {off : BitVec 8} {fa : Bool} {s : State}
    (w : s.Formed) : FormedNext (vectorLoad addr d a off fa s) :=
  formedNext_issue w fun _ w1 => carries_loadTile_plain w1

theorem formedNext_execVldff {d a : Reg} {off : BitVec 8} {fa : Bool} {s : State} (w : s.Formed) :
    FormedNext (execVldff d a off fa s) := by
  refine formedNext_issue w fun s1 w1 => ?_
  extract_lets lo addr
  split
  · simp [w1]
  split
  rename_i xs r _
  have w2 : (s1.countLoaded addr lo xs).Formed := State.formed_countLoaded.2 w1
  split
  · split
    · have w3 := (State.formed_chargePasses (ps := loadedPlaces xs)).2 w2
      split
      · next h => exact (carries_landTile w3).stop h
      · next h => simp [(carries_landTile w3).ok h]
    · split
      · next h => exact (carries_landBelow w2).stop h
      · next h => simp [(carries_landBelow w2).ok h]
  · exact carries_loadTile_plain w1

@[simp] theorem State.formed_placeStores {s : State} {es : List (Place × Nat × Nat)} :
    (s.placeStores es).Formed ↔ s.Formed := by
  simp [State.placeStores]

@[simp] theorem carries_storeTile {s : State} {addr : Nat → Word} {f : Nat → Nat} (w : s.Formed) :
    Carries State.Formed (s.storeTile addr f) := by
  unfold State.storeTile
  dsimp only
  split
  · simp [w]
  · split <;> simp [w]

@[simp] theorem carries_checkPlace {s : State} (w : s.Formed) : Carries (fun _ => True) s.checkPlace :=
  carries_require w

@[simp] theorem State.formed_countStore {s : State} : s.countStore.Formed ↔ s.Formed := by
  simp [State.countStore]

theorem carries_storeWith {s : State} {rs : List Reg} {body : List (Reg × Nat) → State → Except Stop State}
    (w : s.Formed) (hb : ∀ xs s, s.Formed → Carries State.Formed (body xs s)) :
    Carries State.Formed (s.storeWith rs body) := by
  unfold State.storeWith
  split
  · next h => exact (carries_checkPlace w).stop h
  · split
    · next h => exact (carries_withTiles w hb).stop h
    · next h => simp [(carries_withTiles w hb).ok h]

theorem formedNext_vectorStore {addr : Hart → Word → Nat → Word} {d a : Reg} {off : BitVec 8} {fa fd : Bool}
    {s : State} (w : s.Formed) : FormedNext (vectorStore addr d a off fa fd s) := by
  unfold vectorStore
  refine formedNext_issue w fun s1 w1 => ?_
  refine carries_storeWith w1 fun xs2 s2 w2 => ?_
  simp [w2]

theorem formedNext_execVldx {d a b : Reg} {fa fb : Bool} {s : State} (w : s.Formed) :
    FormedNext (execVldx d a b fa fb s) :=
  formedNext_issue w fun _ w1 => carries_withTiles w1 fun _ _ w2 => carries_loadTile_plain w2

theorem formedNext_execVstx {d a b : Reg} {fa fb : Bool} {s : State} (w : s.Formed) :
    FormedNext (execVstx d a b fa fb s) := by
  unfold execVstx
  refine formedNext_issue w fun s1 w1 => ?_
  refine carries_storeWith w1 fun xs2 s2 w2 => ?_
  simp [w2]

@[simp] theorem State.formed_evictLine {s : State} {sl : SliceId} (w : s.Formed) : (s.evictLine sl).Formed := by
  unfold State.evictLine
  split
  · exact w
  · exact State.formed_mapCores (fun _ => ⟨rfl, rfl⟩) rfl w

@[simp] theorem State.formed_linkLine {s : State} {pa : Nat} (w : s.Formed) : (s.linkLine pa).Formed := by
  unfold State.linkLine
  dsimp only
  split
  · exact w
  · simp [w]

@[simp] theorem Core.bufs_linkBuffer (k : Core) (a : Nat) :
    (k.linkBuffer a).bufW = k.bufW ∧ (k.linkBuffer a).bufX = k.bufX := by
  unfold Core.linkBuffer
  simp

@[simp] theorem State.formed_linkAll {s : State} {ps : List Place} (w : s.Formed) : (s.linkAll ps).Formed :=
  State.formed_foldl _ (fun s p w => by split <;> simp [w]) _ w

@[simp] theorem State.formed_noteLinks {addr : Nat → Word} {xs : List (Option (Place × Nat))} {s : State}
    (w : s.Formed) : (State.noteLinks addr xs s).Formed := by
  unfold State.noteLinks
  simp [w]

theorem formedNext_execVldl {d a b : Reg} {fa fb : Bool} {s : State} (w : s.Formed) :
    FormedNext (execVldl d a b fa fb s) :=
  formedNext_issue w fun _ w1 => carries_withTiles w1 fun _ _ w2 =>
    carries_loadTile w2 fun _ _ w3 => State.formed_noteLinks w3

@[simp] theorem carries_storeLinked {data : Nat} : {n i : Nat} → {s : State} → s.Formed →
    Carries (fun r => r.2.Formed) (State.storeLinked data n i s)
  | 0, _, _, w => w
  | n + 1, i, s, w => by
    unfold State.storeLinked
    split
    · split
      · next h => exact (carries_storeLinked w).stop h
      · next h =>
        have w1 := (carries_storeLinked w).ok h
        exact w1
    · split
      · exact w
      · split
        · exact w
        · split
          · next h => exact (carries_storeLinked (by simp [State.formed_performStores, w])).stop h
          · next h =>
            have w1 := (carries_storeLinked (by simp [State.formed_performStores, w])).ok h
            exact w1

@[simp] theorem carries_storeConditional {s : State} {d : Reg} {data : Nat} (w : s.Formed) :
    Carries State.Formed (s.storeConditional d data) := by
  unfold State.storeConditional
  dsimp only
  split
  · next h1 => exact (carries_storeLinked w).stop h1
  · next h1 => simp [(carries_storeLinked w).ok h1]

theorem formedNext_execVstc {d a : Reg} {fa : Bool} {s : State} (w : s.Formed) : FormedNext (execVstc d a fa s) := by
  unfold execVstc
  refine formedNext_issue w fun s1 w1 => ?_
  refine carries_withTiles w1 fun xs2 s2 w2 => ?_
  split
  · simp [w2]
  split
  · exact w2
  split
  · simp [w2]
  split
  · next h6 => exact (carries_storeConditional (by simp [w2])).stop h6
  · next h6 => simp [(carries_storeConditional (by simp [w2])).ok h6]

@[simp] theorem carries_scaddChecks {s : State} (w : s.Formed) : Carries (fun _ => True) s.scaddChecks := by
  unfold State.scaddChecks
  dsimp only
  split
  · exact w
  split
  · exact w
  · simp

theorem formedNext_execVscadd {d a b : Reg} {fa fb : Bool} {s : State} (w : s.Formed) :
    FormedNext (execVscadd d a b fa fb s) := by
  unfold execVscadd
  refine formedNext_issue w fun s1 w1 => ?_
  dsimp only
  split
  · next h2 => exact (carries_scaddChecks w1).stop h2
  · refine carries_storeWith w1 fun xs3 s3 w3 => ?_
    split <;> simp [w3]

@[simp] theorem carries_appendFrom {data : Nat} {base t : Word} : {n i k : Nat} → {s : State} → s.Formed →
    Carries State.Formed (State.appendFrom data base t n i k s)
  | 0, _, _, _, w => w
  | n + 1, i, k, s, w => by
    unfold State.appendFrom
    dsimp only
    split
    · split
      · simp [w]
      · exact carries_appendFrom (by simp [State.formed_performStores, w])
    · exact carries_appendFrom w

@[simp] theorem carries_workHeader {s : State} {va : Word} (w : s.Formed) :
    Carries (fun _ => True) (s.workHeader va) := by
  unfold State.workHeader
  split
  · exact w
  split
  · next h2 => exact (carries_place w).stop h2
  · split
    · exact w
    · simp
  · exact w

@[simp] theorem carries_appendPayload {s : State} {u : Uses} {b : Reg} {data : Nat} {base t : Word} {lo : Nat}
    (w : s.Formed) : Carries State.Formed (s.appendPayload u b data base t lo) := by
  unfold State.appendPayload
  dsimp only
  split
  · next h1 =>
    have w1 : State.Formed _ := (carries_appendFrom w).stop h1
    simp [w1]
  · next h1 => exact (carries_appendFrom w).stop h1
  · next h1 =>
    have w1 := (carries_appendFrom w).ok h1
    split <;> simp [w1]

theorem formedNext_execCappend {d a b : Reg} {fa fb : Bool} {s : State} (w : s.Formed) :
    FormedNext (execCappend d a b fa fb s) := by
  refine formedNext_issue w fun s1 w1 => carries_withWhole w1 fun xs s2 w2 => ?_
  split
  · exact carries_appendPayload w2
  split
  · next h => exact (carries_workHeader w2).stop h
  · next pa base tail cap h =>
    extract_lets n slots places s3 s4
    have w3 : s3.Formed := State.formed_count.2 w2
    have w4 : s4.Formed := by
      dsimp only [s4]
      split <;> simp [w3, State.formed_putWord]
    split
    · simp [w2]
    split
    · exact w2
    split
    · exact carries_appendPayload ((State.formed_modifyMe _).2 (State.formed_chargePasses.2 w4))
    · exact (State.formed_modifyMe _).2 w3

theorem formedNext_execStripc {s : State} (w : s.Formed) : FormedNext (execStripc s) := by
  unfold execStripc
  split
  · simp [w]
  · refine formedNext_issue w fun s2 w2 => ?_
    exact w2

end Sys2Proof.Machine
end

section
/-!
The copy commands and the circular buffers.
-/

namespace Sys2Proof.Machine

@[simp] theorem carries_apertureSide {s : State} {p : Place} {va : Word} {stride : Int} {shape : Word} (w : s.Formed) :
    Carries (fun _ => True) (s.apertureSide p va stride shape) := by
  unfold State.apertureSide
  split
  · split
    · exact w
    · simp
  · split <;> exact w
  · simp

@[simp] theorem carries_checkCopy {s : State} {src dst shape strides : Word} (w : s.Formed) :
    Carries (fun _ => True) (s.checkCopy src dst shape strides) := by
  refine carries_bind (carries_require w) fun _ _ => ?_
  split
  · exact w
  split
  · trivial
  refine carries_bind (carries_place w) fun ps _ => ?_
  split
  · exact carries_bind (carries_apertureSide w) fun _ _ => trivial
  · exact carries_bind (carries_place w) fun _ _ => carries_bind (carries_apertureSide w) fun _ _ =>
      carries_bind (carries_apertureSide w) fun _ _ => trivial

theorem formedNext_execCpy {d a b : Reg} {fa fb : Bool} {s : State} (w : s.Formed) :
    FormedNext (execCpy d a b fa fb s) := by
  unfold execCpy
  refine formedNext_issue w fun s1 w1 => ?_
  dsimp only
  split
  · next h2 => exact (carries_checkCopy w1).stop h2
  split
  · exact w1
  · simp [w1]

theorem formedNext_execCpymma {d a : Reg} {fa : Bool} {z sa sb : Reg} {fmt : BitVec 4} {kn : BitVec 2} {acc : Bool}
    {s : State} (w : s.Formed) : FormedNext (execCpymma d a fa z sa sb fmt kn acc s) := by
  unfold execCpymma
  refine formedNext_issue w fun s1 w1 => ?_
  dsimp only
  split
  · next h2 => exact (carries_checkCopy w1).stop h2
  split
  · next h3 => exact (carries_prepareMma w1).stop h3
  · next h3 =>
    have w3 := (carries_prepareMma w1).ok h3
    split
    · exact w1
    · simp [w3]

@[simp] theorem State.formed_carry {s : State} {p : Place} {run : Nat × Nat} : (s.carry p run).Formed ↔ s.Formed := by
  unfold State.carry
  split <;> simp

@[simp] theorem State.formed_writeParts {s : State} {wrote : List (Place × Nat)} {xs : List (RowPart × Place)}
    (w : s.Formed) : (s.writeParts wrote xs).Formed := by
  unfold State.writeParts
  simp +contextual [w, State.formed_performMore, State.formed_foldl]

@[simp] theorem State.formed_fillRow {s : State} {q : CopyCmd} (w : s.Formed) : (s.fillRow q).1.Formed := by
  simp [State.fillRow, w]

@[simp] theorem State.formed_flushRow {s : State} {q : CopyCmd} {n : Nat} (w : s.Formed) :
    (s.flushRow q n).1.Formed := by
  unfold State.flushRow
  dsimp only
  split <;> simp [w]

@[simp] theorem State.formed_moveRows : {rows n : Nat} → {s : State} → {q : CopyCmd} → s.Formed →
    (State.moveRows rows n s q).1.Formed
  | 0, _, _, _, w => w
  | rows + 1, n, s, q, w => by
    unfold State.moveRows
    split
    · exact w
    split
    · next h =>
      have w1 := State.formed_of_fst h (State.formed_fillRow w)
      split
      · exact w1
      split
      · next h2 => exact State.formed_of_fst h2 (State.formed_flushRow w1)
      · next h2 => exact State.formed_of_fst h2 (State.formed_flushRow w1)
    · next h =>
      have w1 := State.formed_of_fst h (State.formed_fillRow w)
      split
      · next h2 => exact State.formed_of_fst h2 (State.formed_flushRow w1)
      · next h2 =>
        have w2 := State.formed_of_fst h2 (State.formed_flushRow w1)
        split
        · exact State.formed_moveRows w2
        · exact w2

@[simp] theorem State.formed_abortCopy {s : State} {q : CopyCmd} {f : Held} :
    (s.abortCopy q f).Formed ↔ s.Formed := by
  simp [State.abortCopy]

@[simp] theorem State.formed_postEngine {s : State} {src : Nat} {ticket pc : Word} {f : Held} :
    (s.postEngine src ticket pc f).Formed ↔ s.Formed := by
  simp [State.postEngine]

@[simp] theorem State.formed_chargeCopy {s : State} {old new : CopyCmd} :
    (s.chargeCopy old new).Formed ↔ s.Formed := by
  simp [State.chargeCopy]

@[simp] theorem State.formed_settleCopy {s : State} {q : CopyCmd} {b : Option ByteStop} (w : s.Formed) :
    (s.settleCopy q b).Formed := by
  cases b with
  | none => simp [State.settleCopy, w]
  | some b =>
    unfold State.settleCopy
    dsimp only
    (repeat' split) <;> simp [w]

@[simp] theorem State.formed_startCopy {s : State} {n : Nat} (w : s.Formed) : (s.startCopy n).Formed := by
  unfold State.startCopy
  dsimp only
  split
  · exact w
  · split <;> simp [w]

theorem formedNext_execCopyCommandStart {core : CoreId} {turn : CopyTurn} {s : State} (w : s.Formed) :
    FormedNext (execCopyCommandStart core turn s) := by
  unfold execCopyCommandStart
  dsimp only
  split
  · simp [w, ↓State.formed_frame]
  · exact w

@[simp] theorem State.formed_completeCopy {s : State} {q : CopyCmd} : (s.completeCopy q).Formed ↔ s.Formed := by
  simp [State.completeCopy]

theorem formedNext_execCopyCommandComplete {core : CoreId} {ctx : ContextId} {s : State} (w : s.Formed) :
    FormedNext (execCopyCommandComplete core ctx s) := by
  unfold execCopyCommandComplete
  dsimp only
  split
  · split
    · simp [w, ↓State.formed_frame]
    · exact w
  · exact w

@[simp] theorem State.formed_runFollowOn {s : State} {f : FollowOn} {n : Nat} (w : s.Formed) :
    (s.runFollowOn f n).Formed := by
  unfold State.runFollowOn
  dsimp only
  split
  · next h1 => simp [State.formed_of_fst h1 (State.formed_runMma (by simp [w]))]
  · next h1 => simp [State.formed_of_fst h1 (State.formed_runMma (by simp [w]))]

theorem formedNext_execMmaComplete {core : CoreId} {turn : MmaTurn} {s : State} (w : s.Formed) :
    FormedNext (execMmaComplete core turn s) := by
  unfold execMmaComplete
  dsimp only
  split
  · split
    · simp [w, ↓State.formed_frame]
    · exact w
  · exact w

@[simp] theorem State.formed_abortCommand {s : State} {t : Word} {regs : TrapRegs} (w : s.Formed) :
    (s.abortCommand t regs).Formed := by
  unfold State.abortCommand
  split
  · split
    · next h2 => simp [State.formed_of_fst h2 (State.formed_flushRow w)]
  · simp [w]

theorem formedNext_execCpywait {d a : Reg} {fa : Bool} {s : State} (w : s.Formed) :
    FormedNext (execCpywait d a fa s) := by
  refine formedNext_issue w fun s1 w1 => ?_
  extract_lets h t
  clear_value t
  split
  · exact w1
  split
  · simp [w1]
  · split <;> simp [w1]

@[simp] theorem carries_circRange {s : State} {base : Word} {n : Nat} (w : s.Formed) :
    Carries (fun _ => True) (s.circRange base n) := by
  unfold State.circRange
  dsimp only
  split
  · exact w
  · split
    · exact w
    split
    · exact w
    · simp
  · exact w

theorem formedNext_execCbinit {d a b : Reg} {fa fb : Bool} {s : State} (w : s.Formed) :
    FormedNext (execCbinit d a b fa fb s) := by
  refine formedNext_issue w fun s1 w1 => ?_
  dsimp only
  split
  · exact w1
  · exact carries_bind (carries_require w1) fun _ _ => carries_bind (carries_require w1) fun _ _ =>
      carries_bind (carries_circRange w1) fun _ _ => (State.formed_modifyMe _).2 w1

theorem formedNext_execCbwait {d a : Reg} {s : State} (w : s.Formed) : FormedNext (execCbwait d a s) := by
  unfold execCbwait
  refine formedNext_issue w fun s1 w1 => ?_
  dsimp only
  split
  · exact w1
  split
  · exact w1
  · simp [w1]

theorem formedNext_execCbrel {d a : Reg} {b : Src} {s : State} (w : s.Formed) : FormedNext (execCbrel d a b s) := by
  unfold execCbrel
  refine formedNext_issue w fun s1 w1 => ?_
  dsimp only
  split
  · exact w1
  split
  · exact w1
  · simp [w1]

theorem formedNext_execCbstat {d a : Reg} {s : State} (w : s.Formed) : FormedNext (execCbstat d a s) := by
  unfold execCbstat
  refine formedNext_issue w fun s1 w1 => ?_
  simp [w1]

end Sys2Proof.Machine
end

section
/-!
Objects, watermarks, barriers, notifications and promises.
-/

namespace Sys2Proof.Machine

@[simp] theorem State.formed_modifyHartOf {s : State} {id : BitVec 48} {f : Hart → Hart} :
    (s.modifyHartOf id f).Formed ↔ s.Formed := by
  unfold State.modifyHartOf
  split <;> simp

@[simp] theorem carries_syncHome {s : State} {align : Nat} {va : Word} (w : s.Formed) :
    Carries (fun r => r.2.Formed) (s.syncHome align va) := by
  unfold State.syncHome
  split
  · exact w
  split
  · next h2 => exact (carries_rmwPlace w).stop h2
  · next h2 => exact (carries_rmwPlace w).ok h2

theorem State.formed_onBehalf {s : State} {pa : Nat} {f : State → State} (w : s.Formed) (hf : (f s).Formed) :
    (s.onBehalf pa f).Formed := by
  unfold State.onBehalf
  split
  · simp [w]
  · exact hf

@[simp] theorem State.formed_setBoost {s : State} {pa : Nat} (w : s.Formed) : (s.setBoost pa).Formed := by
  unfold State.setBoost
  simp [w, State.formed_putWord]

@[simp] theorem State.formed_giveObject {s : State} {pa : Nat} {id : BitVec 48} (w : s.Formed) :
    (s.giveObject pa id).Formed := by
  unfold State.giveObject
  simp [w, State.formed_putWord]

@[simp] theorem State.formed_freeObject {s : State} {pa : Nat} {abandoned : Bool} (w : s.Formed) :
    (s.freeObject pa abandoned).Formed := by
  unfold State.freeObject
  extract_lets s1 first
  have w1 : s1.Formed := by
    dsimp only [s1]
    split <;> simp [w, State.formed_putWord]
  split
  · exact State.formed_setBoost ((State.formed_updateDev rfl).2 (State.formed_giveObject w1))
  · exact State.formed_setBoost ((State.formed_updateDev rfl).2 (State.formed_putWord _ _ w1))

@[simp] theorem State.formed_releaseObject {s : State} {pa : Nat} (w : s.Formed) : (s.releaseObject pa).Formed := by
  unfold State.releaseObject
  simp [w, State.formed_putWord]

@[simp] theorem State.formed_unqueueAcq {s : State} {pa : Nat} (w : s.Formed) : (s.unqueueAcq pa).Formed := by
  unfold State.unqueueAcq
  simp [w]

@[simp] theorem State.formed_queueAcq {s : State} {va : Word} {pa : Nat} (w : s.Formed) :
    (s.queueAcq va pa).Formed := by
  unfold State.queueAcq
  simp [w]

theorem formedNext_execAcq {d a : Reg} {fa : Bool} {s : State} (w : s.Formed) : FormedNext (execAcq d a fa s) := by
  unfold execAcq
  refine formedNext_issue w fun s1 w1 => ?_
  dsimp only
  split
  · simp [w1]
  split
  · next h3 => exact (carries_syncHome w1).stop h3
  · next h3 =>
    have w3 := (carries_syncHome w1).ok h3
    split <;> simp [w3]

theorem formedNext_execRel {a : Reg} {fa : Bool} {s : State} (w : s.Formed) : FormedNext (execRel a fa s) := by
  unfold execRel
  refine formedNext_issue w fun s1 w1 => ?_
  dsimp only
  split
  · next h2 => exact (carries_syncHome w1).stop h2
  · next h2 =>
    have w2 := (carries_syncHome w1).ok h2
    split
    · exact w2
    split
    · exact w1
    · simp [w2]

theorem formedNext_execAcqGrant {core : CoreId} {ctx : UserCtx} {s : State} (w : s.Formed) :
    FormedNext (execAcqGrant core ctx s) := by
  unfold execAcqGrant
  dsimp only
  split
  · split
    · exact w
    · simp [w]
  · exact w

theorem formedNext_execBind {d a : Reg} {b : Src} {fa : Bool} {s : State} (w : s.Formed) :
    FormedNext (execBind d a b fa s) := by
  unfold execBind
  refine formedNext_issue w fun s1 w1 => ?_
  dsimp only
  split
  · exact w1
  split
  · simp [w1]
  split
  · exact w1
  · simp [w1]

theorem formedNext_execUnbind {d a : Reg} {fa : Bool} {s : State} (w : s.Formed) :
    FormedNext (execUnbind d a fa s) := by
  unfold execUnbind
  refine formedNext_issue w fun s1 w1 => ?_
  simp [w1]

theorem formedNext_releaseFence {orders : Bool} {s : State} (w : s.Formed) : FormedNext (releaseFence orders s) := by
  unfold releaseFence
  refine formedNext_issue w fun s1 w1 => ?_
  exact w1

theorem formedNext_execFenceAcq {s : State} (w : s.Formed) : FormedNext (execFenceAcq s) := by
  unfold execFenceAcq
  refine formedNext_issue w fun s1 w1 => ?_
  exact w1

theorem formedNext_execFenceIfetch {s : State} (w : s.Formed) : FormedNext (execFenceIfetch s) := by
  unfold execFenceIfetch
  refine formedNext_issue w fun s1 w1 => ?_
  simp [w1]

theorem formedNext_execWmlink {d a : Reg} {fa : Bool} {s : State} (w : s.Formed) :
    FormedNext (execWmlink d a fa s) := by
  unfold execWmlink
  refine formedNext_issue w fun s1 w1 => ?_
  dsimp only
  split
  · exact w1
  split
  · next h3 => exact (carries_loadWords w1).stop h3
  · next h3 => simp [(carries_loadWords w1).ok h3]

theorem formedNext_execWmpub {d : Reg} {b : Src} {s : State} (w : s.Formed) : FormedNext (execWmpub d b s) := by
  unfold execWmpub
  refine formedNext_issue w fun s1 w1 => ?_
  dsimp only
  split
  · exact w1
  split
  · next h3 => exact (carries_rmwPlace w1).stop h3
  · next h3 =>
    have w3 := (carries_rmwPlace w1).ok h3
    simp [w3, State.formed_putWord]

theorem formedNext_execWatermarkRelease {core : CoreId} {ctx : UserCtx} {s : State} (w : s.Formed) :
    FormedNext (execWatermarkRelease core ctx s) := by
  unfold execWatermarkRelease
  split
  · split
    · simp [w]
    · exact w
  · exact w

@[simp] theorem State.formed_settleBarrier {s : State} {pa : Nat} (w : s.Formed) : (s.settleBarrier pa).Formed := by
  unfold State.settleBarrier
  simp [w, State.formed_putWord]

@[simp] theorem State.formed_leaveBarrier {s : State} {pa : Nat} {arrived : Bool} (w : s.Formed) :
    (s.leaveBarrier pa arrived).Formed := by
  unfold State.leaveBarrier
  extract_lets s1 s2 s3
  have w1 : s1.Formed := State.formed_putWord _ _ w
  have w2 : s2.Formed := by
    dsimp only [s2]
    split
    · exact State.formed_putWord _ _ w1
    · exact w1
  have w3 : s3.Formed := by
    dsimp only [s3]
    split
    · exact State.formed_putWord _ _ (State.formed_putWord _ _ w2)
    · exact w2
  exact State.formed_settleBarrier w3

@[simp] theorem State.formed_leaveMember {s : State} {m : Membership} {pa : Nat} (w : s.Formed) :
    (s.leaveMember m pa).Formed := by
  unfold State.leaveMember
  simp [w]

theorem formedNext_execBarjoin {d a : Reg} {fa : Bool} {s : State} (w : s.Formed) :
    FormedNext (execBarjoin d a fa s) := by
  unfold execBarjoin
  refine formedNext_issue w fun s1 w1 => ?_
  dsimp only
  split
  · next h2 => exact (carries_syncHome w1).stop h2
  · next h2 =>
    have w2 := (carries_syncHome w1).ok h2
    simp [w2, State.formed_putWord]

@[simp] theorem State.formed_arriveAt {s : State} {m : Membership} {pa : Nat} (w : s.Formed) :
    (s.arriveAt m pa).1.Formed := by
  unfold State.arriveAt
  dsimp only
  split <;> simp [w, State.formed_putWord]

@[simp] theorem State.formed_queueBar {s : State} {va : Word} {pa : Nat} : (s.queueBar va pa).Formed ↔ s.Formed := by
  simp [State.queueBar]

theorem formedNext_execBar {d a : Reg} {fa : Bool} {s : State} (w : s.Formed) : FormedNext (execBar d a fa s) := by
  refine formedNext_issue w fun s1 w1 => ?_
  extract_lets va finish
  have wf : ∀ t m, t.Formed → (finish t m).Formed := fun t m w => (State.formed_modifyMe _).2 w
  split
  · next h => exact (carries_syncHome w1).stop h
  · next pa s2 h =>
    have w2 : s2.Formed := (carries_syncHome w1).ok h
    split
    · exact w2
    split
    · exact wf _ _ w2
    split
    · exact (State.formed_modifyMe _).2 w2
    split
    rename_i s3 m3 h3
    have w3 : s3.Formed := by
      split at h3
      · cases h3; exact w2
      · exact State.formed_of_fst h3 (State.formed_arriveAt w2)
    split
    · exact wf _ _ w3
    · exact State.formed_queueBar.2 w3

theorem formedNext_execBarleave {a : Reg} {fa : Bool} {s : State} (w : s.Formed) :
    FormedNext (execBarleave a fa s) := by
  unfold execBarleave
  refine formedNext_issue w fun s1 w1 => ?_
  dsimp only
  split
  · next h2 => exact (carries_syncHome w1).stop h2
  · next h2 =>
    have w2 := (carries_syncHome w1).ok h2
    split
    · exact w2
    · simp [w2]

theorem formedNext_execNotify {a : Reg} {b : Src} {fa : Bool} {s : State} (w : s.Formed) :
    FormedNext (execNotify a b fa s) := by
  unfold execNotify
  refine formedNext_issue w fun s1 w1 => ?_
  dsimp only
  split
  · exact w1
  · simp [w1]

theorem formedNext_execWaitn {d a : Reg} {s : State} (w : s.Formed) : FormedNext (execWaitn d a s) := by
  refine formedNext_issue w fun s1 w1 => ?_
  extract_lets n c x mine first w' s2
  have w2 : s2.Formed := by
    dsimp only [s2]
    split <;> simp [w1]
  split
  · exact (State.formed_modifyMe _).2 ((State.formed_updateDev rfl).2 ((State.formed_updateCore rfl rfl).2 w1))
  · exact w2

@[simp] theorem carries_visitCell {s : State} {va : Word} (w : s.Formed) :
    Carries (fun r => r.2.Formed) (s.visitCell va) := by
  unfold State.visitCell
  dsimp only
  split
  · next h1 => exact (carries_rmwPlace w).stop h1
  · next h1 =>
    have w1 := (carries_rmwPlace w).ok h1
    split <;> exact w1

@[simp] theorem carries_findRoot : {n : Nat} → {s : State} → {va : Word} → s.Formed →
    Carries (fun r => r.2.Formed) (State.findRoot n s va)
  | 0, _, _, w => by simp [State.findRoot, w]
  | n + 1, s, va, w => by
    unfold State.findRoot
    split
    · next h => exact (carries_visitCell w).stop h
    · next h =>
      have w1 := (carries_visitCell w).ok h
      split
      · exact w1
      split
      · next h2 => exact (carries_visitCell w1).stop h2
      · next h2 =>
        have w2 := (carries_visitCell w1).ok h2
        split
        · exact w2
        · exact carries_findRoot (State.formed_putWord _ _ w2)

@[simp] theorem carries_find {s : State} {va : Word} (w : s.Formed) : Carries (fun r => r.2.Formed) (s.find va) := by
  unfold State.find
  simp [w]

@[simp] theorem State.formed_wakePromise {s : State} {root : Nat} (w : s.Formed) : (s.wakePromise root).Formed := by
  unfold State.wakePromise
  simp +contextual [w, State.formed_foldl]

theorem formedNext_execPinit {a : Reg} {fa : Bool} {s : State} (w : s.Formed) : FormedNext (execPinit a fa s) := by
  unfold execPinit
  refine formedNext_issue w fun s1 w1 => ?_
  dsimp only
  split
  · exact w1
  split
  · next h3 => exact (carries_rmwPlace w1).stop h3
  · next h3 =>
    have w3 := (carries_rmwPlace w1).ok h3
    simp [w3, State.formed_putWord]

theorem formedNext_execPfill {d a : Reg} {b : Src} {fa : Bool} {s : State} (w : s.Formed) :
    FormedNext (execPfill d a b fa s) := by
  refine formedNext_issue w fun s1 w1 => ?_
  dsimp only
  split
  · exact w1
  split
  · next h => exact (carries_find w1).stop h
  · next c s2 h =>
    have w2 : s2.Formed := (carries_find w1).ok h
    split
    · exact (State.formed_modifyMe _).2 (State.formed_wakePromise (State.formed_putWord _ _ (State.formed_putWord _ _ w2)))
    · split <;> simp [w2]

@[simp] theorem State.formed_unite {s : State} {x y : Cell} (w : s.Formed) : (s.unite x y).Formed := by
  unfold State.unite
  extract_lets xFirst root other rank fills s1 s2 s3 move s4
  have w1 : s1.Formed := by
    dsimp only [s1]
    split
    · exact State.formed_putWord _ _ w
    · exact w
  have w3 : s3.Formed := State.formed_putWord _ _ (State.formed_putWord _ _ w1)
  have w4 : s4.Formed := (State.formed_updateDev rfl).2 w3
  split
  · exact State.formed_wakePromise w4
  · exact w4

theorem formedNext_execPeq {d a b : Reg} {fa fb : Bool} {s : State} (w : s.Formed) :
    FormedNext (execPeq d a b fa fb s) := by
  refine formedNext_issue w fun s1 w1 => ?_
  refine carries_bind (carries_require w1) fun _ _ => carries_bind (carries_require w1) fun _ _ => ?_
  refine carries_bind (carries_find w1) fun r2 w2 => carries_bind (carries_find w2) fun r3 w3 => ?_
  refine carries_bind (carries_find w3) fun r4 w4 => ?_
  dsimp only
  split
  · exact (State.formed_modifyMe _).2 w4
  split
  · exact w4
  · exact (State.formed_modifyMe _).2 (State.formed_unite w4)

@[simp] theorem State.formed_registerPromise {s : State} {cell : Word} {root : Nat} {dest : Reg} :
    (s.registerPromise cell root dest).Formed ↔ s.Formed := by
  simp [State.registerPromise]

theorem formedNext_execPwait {d a : Reg} {fa : Bool} {s : State} (w : s.Formed) :
    FormedNext (execPwait d a fa s) := by
  unfold execPwait
  refine formedNext_issue w fun s1 w1 => ?_
  dsimp only
  split
  · exact w1
  split
  · next h3 => exact (carries_find w1).stop h3
  · next h3 =>
    have w3 := (carries_find w1).ok h3
    split <;> simp [w3]

theorem formedNext_execPtest {d a : Reg} {fa : Bool} {s : State} (w : s.Formed) :
    FormedNext (execPtest d a fa s) := by
  unfold execPtest
  refine formedNext_issue w fun s1 w1 => ?_
  split
  · next h2 => exact (carries_find w1).stop h2
  · next h2 => simp [(carries_find w1).ok h2]

@[simp] theorem State.formed_leaveQueues {s : State} (w : s.Formed) : s.leaveQueues.Formed := by
  unfold State.leaveQueues
  extract_lets id objects s1
  have w1 : s1.Formed := (State.formed_updateDev rfl).2 w
  exact State.formed_foldl _ (fun _ _ w => State.formed_onBehalf w (State.formed_setBoost w)) _ w1

/-- However the search for the root of a promise ends, the state that it leaves is in canonical form. -/
theorem State.formed_searchFor {s t : State} {p : PendingPromise}
    (h : (∃ c, s.searchFor p = .ok (c, t)) ∨ ∃ e, s.searchFor p = .error (e, t)) (w : s.Formed) : t.Formed := by
  have hr := carries_findRoot (n := searchFuel) (va := p.cell) w
  unfold State.searchFor at h
  split at h
  · next hf => rcases h with ⟨c, h⟩ | ⟨e, h⟩ <;> cases h; exact hr.ok hf
  · next hf =>
    have w1 := hr.stop hf
    rcases h with ⟨c, h⟩ | ⟨e, h⟩
    · cases h
    · split at h <;> cases h
      · simpa using w1
      · exact w1
  · rcases h with ⟨c, h⟩ | ⟨e, h⟩ <;> cases h; exact w

@[simp] theorem State.formed_interruptWith {s : State} {t : Trap} (w : s.Formed) : (s.interruptWith t).Formed := by
  unfold State.interruptWith
  simp [w, State.formed_takeTrap]

@[simp] theorem State.formed_pollPromise {s : State} {p : PendingPromise} (w : s.Formed) :
    (s.pollPromise p).Formed := by
  unfold State.pollPromise
  extract_lets mine
  split
  · split
    · next h =>
      have w1 := State.formed_searchFor (.inl ⟨_, h⟩) w
      split
      · exact (State.formed_updateDev rfl).2 ((State.formed_modifyMe _).2 w1)
      · exact w1
    · next h => exact State.formed_searchFor (.inr ⟨_, h⟩) w
    · next h => exact State.formed_interruptWith (State.formed_searchFor (.inr ⟨_, h⟩) w)
  · exact w

@[simp] theorem State.formed_pollAcq {s : State} (w : s.Formed) : s.pollAcq.Formed := by
  unfold State.pollAcq
  extract_lets mine
  split
  · refine State.formed_onBehalf w ?_
    extract_lets s1 g
    have w1 : s1.Formed := State.formed_count.2 w
    split
    · exact w1
    · exact (State.formed_modifyMe _).2 (State.formed_setBoost ((State.formed_updateDev rfl).2 (State.formed_giveObject w1)))
  · exact w

theorem formedNext_execWaiterPoll {core : CoreId} {ctx : UserCtx} {s : State} (w : s.Formed) :
    FormedNext (execWaiterPoll core ctx s) := by
  unfold execWaiterPoll
  dsimp only
  split
  · exact w
  · simp +contextual [w, ↓State.formed_frame, State.formed_foldl]

@[simp] theorem State.formed_takeDue {s : State} {t : Trap} (w : s.Formed) : (s.takeDue t).Formed :=
  State.formed_takeTrap t ((State.formed_modifyMe _).2 (State.formed_leaveQueues w))

@[simp] theorem State.formed_withdrawPromises {s : State} : s.withdrawPromises.Formed ↔ s.Formed := by
  simp [State.withdrawPromises]

@[simp] theorem State.formed_endHolding {s : State} {exited : Bool} {pa : Nat} (w : s.Formed) :
    (s.endHolding exited pa).Formed := by
  unfold State.endHolding
  split
  · refine State.formed_onBehalf w ?_
    split <;> simp [w]
  · exact (State.formed_updateDev rfl).2 w

@[simp] theorem State.formed_endMember {s : State} {exited : Bool} {e : Member} (w : s.Formed) :
    (s.endMember exited e).Formed := by
  unfold State.endMember
  split
  · exact w
  · refine State.formed_onBehalf w (State.formed_leaveMember ?_)
    split
    · exact w
    · exact State.formed_putWord _ _ w

@[simp] theorem State.formed_endSync {s : State} {exited : Bool} (w : s.Formed) : (s.endSync exited).Formed := by
  unfold State.endSync
  extract_lets id s1 s2 s3
  have w1 : s1.Formed := State.formed_leaveQueues (State.formed_withdrawPromises.2 w)
  have w2 : s2.Formed := State.formed_foldl _ (fun _ _ => State.formed_endHolding) _ w1
  have w3 : s3.Formed := State.formed_foldl _ (fun _ _ => State.formed_endMember) _ w2
  exact (State.formed_modifyMe _).2 w3

end Sys2Proof.Machine
end

section
/-!
Packets between devices, and the remote streams.
-/

namespace Sys2Proof.Machine

@[simp] theorem carries_readGroup {s : State} {va : Word} (w : s.Formed) :
    Carries (fun r => r.2.Formed) (s.readGroup va) := by
  unfold State.readGroup
  split
  · next h1 => exact (carries_place w).stop h1
  split
  · next h2 => exact (carries_readImage w).stop h2
  · simp [w]

@[simp] theorem State.formed_fenceAwaiting {s : State} {p : XPacket} (w : s.Formed) : (s.fenceAwaiting p).Formed := by
  unfold State.fenceAwaiting
  simp +contextual [w, State.formed_foldl]

@[simp] theorem State.formed_writeResult {s : State} {p : XPacket} {n x : Nat} (w : s.Formed) :
    (s.writeResult p n x).Formed := by
  unfold State.writeResult
  simp [w, State.formed_performStores]

@[simp] theorem State.formed_writeStatus {s : State} {p : XPacket} {status : Nat} (w : s.Formed) :
    (s.writeStatus p status).Formed := by
  unfold State.writeStatus
  split
  · split
    · simp [w]
    · exact State.formed_modifyDev _ w (Device.wf_store _ _ _ (Device.wf_store _ _ _ w.1))
  · split <;> simp [w]
  · exact w

@[simp] theorem State.formed_sendResults {s : State} {p : XPacket} {res : List Nat} (w : s.Formed) :
    (s.sendResults p res).Formed := by
  unfold State.sendResults
  simp [w]

@[simp] theorem State.formed_sendStatus {s : State} {status : Nat} {p : XPacket} (w : s.Formed) :
    (s.sendStatus status p).Formed := by
  unfold State.sendStatus
  simp [w]

@[simp] theorem State.formed_finishPackets {s : State} {ps : List XPacket} {status : Nat} {res : List Nat}
    (w : s.Formed) : (s.finishPackets ps status res).Formed := by
  unfold State.finishPackets
  extract_lets s1
  have w1 : s1.Formed := State.formed_foldl _ (fun _ _ => State.formed_sendResults) _ w
  split
  · exact (State.formed_updateDev rfl).2 w1
  · exact State.formed_foldl _ (fun _ _ => State.formed_sendStatus) _ w1

@[simp] theorem State.formed_settleFinishing {s : State} (w : s.Formed) : s.settleFinishing.Formed :=
  State.formed_foldl _ (fun _ _ w => State.formed_foldl _ (fun _ _ => State.formed_sendStatus) _ w) _
    ((State.formed_updateDev rfl).2 w)

@[simp] theorem State.formed_resultWritten {s : State} {p : XPacket} (w : s.Formed) : (s.resultWritten p).Formed := by
  unfold State.resultWritten
  simp [w]

@[simp] theorem State.formed_deviceFenced {s : State} {device : BitVec 16} (w : s.Formed) :
    (s.deviceFenced device).Formed := by
  unfold State.deviceFenced
  simp [w]

@[simp] theorem Device.mem_markDone (d : Device) (root : Nat) (gen : Word) : (d.markDone root gen).mem = d.mem := by
  unfold Device.markDone
  simp

@[simp] theorem State.formed_completeGeneration {s : State} {g : XGeneration} (w : s.Formed) :
    (s.completeGeneration g).Formed := by
  unfold State.completeGeneration
  dsimp only
  split
  · simp +contextual [w, State.formed_foldl]
  split
  · split
    · exact w
    · simp [w]
  · exact w

@[simp] theorem Device.mem_addPacket (d : Device) (root : Nat) (p : XPacket) : (d.addPacket root p).mem = d.mem := by
  unfold Device.addPacket
  simp

@[simp] theorem State.formed_arrive {s : State} {p : XPacket} (w : s.Formed) : (s.arrive p).Formed := by
  unfold State.arrive
  dsimp only
  split
  · simp [w]
  split
  · simp [w]
  split
  · simp [w]
  · split <;> simp [w]

@[simp] theorem State.formed_poisonGroup {s : State} {root : Nat} (w : s.Formed) : (s.poisonGroup root).Formed :=
  State.formed_foldl _ (fun _ _ w => State.formed_finishPackets ((State.formed_updateDev rfl).2 w)) _
    ((State.formed_updateDev rfl).2 w)

theorem State.formed_of_takePacket {s t : State} {p : XPacket} {here : Bool} (h : s.takePacket p here = some t)
    (w : s.Formed) : t.Formed := by
  unfold State.takePacket at h
  split at h
  · cases h; simp [w]
  · cases h

@[simp] theorem State.formed_takePackets : {ps : List XPacket} → {s : State} → s.Formed → (s.takePackets ps).2.Formed
  | [], _, w => w
  | p :: ps, s, w => by
    unfold State.takePackets
    split
    · exact State.formed_takePackets w
    · next h => exact State.formed_takePackets (State.formed_of_takePacket h w)

@[simp] theorem State.formed_completedElsewhere {s : State} {ps : List XPacket} {status : Nat} {results : List Nat}
    (w : s.Formed) : (s.completedElsewhere ps status results).Formed := by
  unfold State.completedElsewhere
  simp [w]

@[simp] theorem State.formed_settlePoison {s : State} {e : GroupPoison} (w : s.Formed) :
    (s.settlePoison e).Formed := by
  unfold State.settlePoison
  dsimp only
  split
  · simp [w]
  split
  · split <;> simp [w]
  · exact w

theorem formedNext_execXredPacketArrival {message : XMessage} {s : State} (w : s.Formed) :
    FormedNext (execXredPacketArrival message s) := by
  cases message with
  | packet p =>
    simp only [execXredPacketArrival]
    split
    · exact w
    split
    · cases h : s.takePacket p true with
      | none => exact w
      | some t => exact State.formed_arrive (State.formed_of_takePacket h w)
    · exact State.formed_arrive w
  | complete ps status results => exact State.formed_completedElsewhere w
  | poison root trRoot => exact State.formed_settlePoison w
  | poisonRetry => exact State.formed_foldl _ (fun _ _ => State.formed_settlePoison) _ w
  | written p => exact State.formed_resultWritten w
  | fenced device => exact State.formed_deviceFenced w

@[simp] theorem State.formed_recordArrival {s : State} {m : Arrival} : (s.recordArrival m).Formed ↔ s.Formed := by
  simp [State.recordArrival]

@[simp] theorem carries_checkArrival {s : State} {va : Word} (w : s.Formed) :
    Carries (fun r => r.2.Formed) (s.checkArrival va) := by
  unfold State.checkArrival
  split
  · next h1 => exact (carries_readGroup w).stop h1
  · next h1 =>
    have w1 := (carries_readGroup w).ok h1
    split
    · next h2 => exact (carries_place w1).stop h2
    · simp [w1]

@[simp] theorem State.formed_sendPacket {s : State} {g : Group} {p : XPacket} :
    (s.sendPacket g p).Formed ↔ s.Formed := by
  simp [State.sendPacket]

theorem formedNext_execXred {d a : Reg} {b : Src} {fa : Bool} {s : State} (w : s.Formed) :
    FormedNext (execXred d a b fa s) := by
  unfold execXred
  refine formedNext_issue w fun s1 w1 => ?_
  dsimp only
  split
  · next h2 => exact (carries_checkArrival w1).stop h2
  · next h2 =>
    have w2 := (carries_checkArrival w1).ok h2
    split
    · exact w2
    split
    · exact w2
    split
    · exact w2
    · refine carries_withWhole w2 fun xs6 s6 w6 => ?_
      simp [w6]

theorem formedNext_execXbar {d : Reg} {s : State} (w : s.Formed) : FormedNext (execXbar d s) := by
  unfold execXbar
  refine formedNext_issue w fun s1 w1 => ?_
  dsimp only
  split
  · next h2 => exact (carries_checkArrival w1).stop h2
  · next h2 =>
    have w2 := (carries_checkArrival w1).ok h2
    split
    · exact w2
    · simp [w2]

theorem formedNext_execXwait {d a : Reg} {fa : Bool} {s : State} (w : s.Formed) :
    FormedNext (execXwait d a fa s) := by
  unfold execXwait
  refine formedNext_issue w fun s1 w1 => ?_
  dsimp only
  split
  · next h2 => exact (carries_readGroup w1).stop h2
  · next h2 =>
    have w2 := (carries_readGroup w1).ok h2
    split
    · simp [w2]
    split
    · simp [w2]
    split
    · exact w2
    · split <;> exact w2

@[simp] theorem State.formed_poisonArrival {s : State} {m : Arrival} (w : s.Formed) : (s.poisonArrival m).Formed := by
  unfold State.poisonArrival
  simp [w]

@[simp] theorem State.formed_endFabric {s : State} {exited : Bool} (w : s.Formed) : (s.endFabric exited).Formed := by
  unfold State.endFabric
  simp +contextual [w, State.formed_foldl]

end Sys2Proof.Machine
end

section
/-!
The vector configuration, gangs, and what is resident on a core.
-/

namespace Sys2Proof.Machine

@[simp] theorem State.formed_clearVectorOf {s : State} {c : CoreId} {x : CtxId} :
    (s.clearVectorOf c x).Formed ↔ s.Formed := by
  simp [State.clearVectorOf]

theorem formedNext_execVconf {d : Reg} {b : Src} {s : State} (w : s.Formed) : FormedNext (execVconf d b s) := by
  unfold execVconf
  refine formedNext_issue w fun s1 w1 => ?_
  simp [w1]

@[simp] theorem State.formed_wakeTile {s : State} : s.wakeTile.Formed ↔ s.Formed := by
  simp [State.wakeTile]

theorem formedNext_execVsetl {d : Reg} {b : Src} {s : State} (w : s.Formed) : FormedNext (execVsetl d b s) := by
  unfold execVsetl
  refine formedNext_issue w fun s1 w1 => ?_
  simp [w1]

theorem formedNext_execVsetr {d : Reg} {b : Src} {s : State} (w : s.Formed) : FormedNext (execVsetr d b s) := by
  unfold execVsetr
  refine formedNext_issue w fun s1 w1 => ?_
  simp [w1]

theorem formedNext_execVsetcfg {d : Reg} {b : Src} {s : State} (w : s.Formed) : FormedNext (execVsetcfg d b s) := by
  unfold execVsetcfg
  refine formedNext_issue w fun s1 w1 => ?_
  dsimp only
  split
  · exact w1
  · simp [w1]

theorem formedNext_execVsetst {d : Reg} {b : Src} {s : State} (w : s.Formed) : FormedNext (execVsetst d b s) := by
  unfold execVsetst
  refine formedNext_issue w fun s1 w1 => ?_
  simp [w1]

theorem formedNext_execVcfgrd {d sel : Reg} {s : State} (w : s.Formed) : FormedNext (execVcfgrd d sel s) := by
  unfold execVcfgrd
  refine formedNext_issue w fun s1 w1 => ?_
  simp [w1]

theorem formedNext_execVsave {a : Reg} {fa : Bool} {s : State} (w : s.Formed) : FormedNext (execVsave a fa s) := by
  unfold execVsave
  refine formedNext_issue w fun s1 w1 => ?_
  simp [w1]

@[simp] theorem carries_readVectorImage {s : State} {va : Word} (w : s.Formed) :
    Carries (fun r => r.2.2.Formed) (s.readVectorImage va) := by
  unfold State.readVectorImage
  dsimp only
  split
  · next h1 => exact (carries_readImage w).stop h1
  split
  · simp [w]
  split
  · next h3 => exact (carries_readImage w).stop h3
  · simp [w]

theorem formedNext_execVrestore {a : Reg} {fa : Bool} {s : State} (w : s.Formed) :
    FormedNext (execVrestore a fa s) := by
  unfold execVrestore
  refine formedNext_issue w fun s1 w1 => ?_
  dsimp only
  split
  · exact w1
  split
  · next h3 => exact (carries_readVectorImage w1).stop h3
  · next h3 => exact (carries_readVectorImage w1).ok h3
  · next h3 => simp [(carries_readVectorImage w1).ok h3]

@[simp] theorem State.formed_fuse {s : State} {c : CoreId} {x : CtxId} : (s.fuse c x).Formed ↔ s.Formed := by
  simp [State.fuse]

@[simp] theorem State.formed_releaseParked {s : State} {u : CoreId} {id : BitVec 48} {verdict : Word} :
    (s.releaseParked u id verdict).Formed ↔ s.Formed :=
  (State.formed_updateDev rfl).trans (State.formed_updateCore rfl rfl)

@[simp] theorem State.formed_clearReleased {s : State} {u : CoreId} {id : BitVec 48} (w : s.Formed) :
    (s.clearReleased u id).Formed := by
  refine State.formed_foldl _ (fun t i wt => ?_) _ w
  dsimp only
  split <;> simp [wt]

@[simp] theorem State.formed_separate {s : State} {c : CoreId} {x : CtxId} {verdict : Word} (w : s.Formed) :
    (s.separate c x verdict).Formed := by
  unfold State.separate
  simp [w]

@[simp] theorem State.formed_leavePartner {s : State} {u : CoreId} {id : BitVec 48} (w : s.Formed) :
    (s.leavePartner u id).Formed := by
  unfold State.leavePartner
  extract_lets c s1
  have w1 : s1.Formed := by
    refine State.formed_foldl _ (fun t i wt => ?_) _ w
    dsimp only
    split <;> simp [wt]
  clear_value s1
  exact (State.formed_updateDev rfl).2 w1

theorem formedNext_execGang {d : Reg} {s : State} (w : s.Formed) : FormedNext (execGang d s) := by
  unfold execGang
  refine formedNext_issue w fun s1 w1 => ?_
  dsimp only
  split <;> simp [w1]

theorem formedNext_execUngang {d : Reg} {s : State} (w : s.Formed) : FormedNext (execUngang d s) := by
  unfold execUngang
  refine formedNext_issue w fun s1 w1 => ?_
  simp [w1]

@[simp] theorem State.formed_residencyChanged {s : State} {c : CoreId} :
    (s.residencyChanged c).Formed ↔ s.Formed := by
  simp [State.residencyChanged]

@[simp] theorem Core.bufs_loadBook (k : Core) (b : Option Book) :
    (k.loadBook b).bufW = k.bufW ∧ (k.loadBook b).bufX = k.bufX := by
  unfold Core.loadBook
  split <;> simp

@[simp] theorem Device.mem_enterLaunch (d : Device) (l : LaunchLink) : (d.enterLaunch l).mem = d.mem := by
  unfold Device.enterLaunch
  simp

@[simp] theorem State.formed_settleQueues {s : State} (w : s.Formed) : s.settleQueues.Formed := by
  unfold State.settleQueues
  simp +contextual [w, State.formed_foldl]

@[simp] theorem Core.bufs_releaseSlots (k : Core) (owner : BitVec 48) :
    (k.releaseSlots owner).bufW = k.bufW ∧ (k.releaseSlots owner).bufX = k.bufX := by
  unfold Core.releaseSlots
  simp

@[simp] theorem State.formed_addCompletion {s : State} {l : LaunchLink} (w : s.Formed) :
    (s.addCompletion l).Formed := by
  unfold State.addCompletion
  dsimp only
  split
  · exact w
  split
  · simp [w]
  split
  · simp [w, State.formed_putWord]
  · simp [w]
  · simp [w]

@[simp] theorem State.formed_endLaunch {s : State} {l : LaunchLink} (w : s.Formed) : (s.endLaunch l).Formed :=
  State.formed_addCompletion (State.formed_mapCores (fun _ => ⟨rfl, rfl⟩) rfl w)

@[simp] theorem State.formed_countHart {s : State} {l : LaunchLink} {failed : Bool} (w : s.Formed) :
    (s.countHart l failed).Formed := by
  unfold State.countHart
  simp [w]

@[simp] theorem State.formed_freeContext {s : State} {c : CoreId} {x : CtxId} :
    (s.freeContext c x).Formed ↔ s.Formed := by
  unfold State.freeContext
  split <;> simp

@[simp] theorem State.formed_dropLazy {s : State} {owner : BitVec 48} (w : s.Formed) : (s.dropLazy owner).Formed :=
  State.formed_mapCores (fun _ => ⟨rfl, rfl⟩) rfl w

@[simp] theorem State.formed_quitEngines {s : State} (w : s.Formed) : s.quitEngines.Formed := by
  unfold State.quitEngines
  simp [w, State.formed_commitStrip]

@[simp] theorem State.formed_endHart {s : State} {exited : Bool} (w : s.Formed) : (s.endHart exited).Formed := by
  unfold State.endHart
  extract_lets c x h s1 s2 s3 s4
  have w1 : s1.Formed := State.formed_quitEngines w
  have w2 : s2.Formed := State.formed_endFabric (State.formed_endSync w1)
  have w3 : s3.Formed := (State.formed_updateCore rfl rfl).2 w2
  have w4 : s4.Formed := by
    dsimp only [s4]
    split <;> simp [w3]
  exact State.formed_freeContext.2 (State.formed_countHart (State.formed_dropLazy w4))

@[simp] theorem State.formed_killHart {s : State} {c : CoreId} {x : CtxId} (w : s.Formed) :
    (s.killHart c x).Formed := by
  unfold State.killHart
  simp [w, ↓State.formed_frame]

@[simp] theorem State.formed_quitFor {s : State} {c : CoreId} {x : CtxId} (w : s.Formed) :
    (s.quitFor c x).Formed := by
  unfold State.quitFor
  simp [w, ↓State.formed_frame]

end Sys2Proof.Machine
end

section
/-!
The streams and the elements that they fetch and push.
-/

namespace Sys2Proof.Machine

@[simp] theorem State.formed_modifyStream {s : State} {i : StreamId} {f : Stream → Stream} :
    (s.modifyStream i f).Formed ↔ s.Formed := by
  simp [State.modifyStream]

theorem formedNext_execSspec {d a : Reg} {fa : Bool} {s : State} (w : s.Formed) :
    FormedNext (execSspec d a fa s) := by
  unfold execSspec
  refine formedNext_issue w fun s1 w1 => ?_
  dsimp only
  split
  · exact w1
  split
  · next h3 => exact (carries_loadBytes w1).stop h3
  · next h3 => simp [(carries_loadBytes w1).ok h3]

theorem formedNext_execSbind {d a : Reg} {fa : Bool} {s : State} (w : s.Formed) :
    FormedNext (execSbind d a fa s) := by
  unfold execSbind
  refine formedNext_issue w fun s1 w1 => ?_
  simp [w1]

theorem formedNext_execSunbind {d : Reg} {s : State} (w : s.Formed) : FormedNext (execSunbind d s) := by
  unfold execSunbind
  refine formedNext_issue w fun s1 w1 => ?_
  simp [w1]

theorem formedNext_execSbar {a : Reg} {fa : Bool} {s : State} (w : s.Formed) : FormedNext (execSbar a fa s) := by
  unfold execSbar
  refine formedNext_issue w fun s1 w1 => ?_
  simp [w1]

theorem formedNext_execScond {d a : Reg} {b : Src} {fa : Bool} {s : State} (w : s.Formed) :
    FormedNext (execScond d a b fa s) := by
  unfold execScond
  refine formedNext_issue w fun s1 w1 => ?_
  dsimp only
  split
  · exact w1
  split
  · next h3 => exact (carries_place w1).stop h3
  · simp [w1]

theorem formedNext_execSpos {d a : Reg} {s : State} (w : s.Formed) : FormedNext (execSpos d a s) := by
  unfold execSpos
  refine formedNext_issue w fun s1 w1 => ?_
  simp [w1]

theorem formedNext_execSstart {d : Reg} {s : State} (w : s.Formed) : FormedNext (execSstart d s) := by
  unfold execSstart
  refine formedNext_issue w fun s1 w1 => ?_
  simp [w1]

theorem formedNext_execSwait {d : Reg} {s : State} (w : s.Formed) : FormedNext (execSwait d s) := by
  unfold execSwait
  refine formedNext_issue w fun s1 w1 => ?_
  dsimp only
  split
  · simp [w1]
  split
  · exact w1
  split
  · simp [w1]
  · exact w1

@[simp] theorem State.formed_countElement {s : State} {t : Stream} {x : Fetched} :
    (s.countElement t x).Formed ↔ s.Formed := by
  cases x <;> simp [State.countElement]

theorem formedNext_execStreamElementFetch {core : CoreId} {ctx : ContextId} {stream : StreamId} {reply : RemoteReply}
    {s : State} (w : s.Formed) : FormedNext (execStreamElementFetch core ctx stream reply s) := by
  unfold execStreamElementFetch
  dsimp only
  split
  · split
    · simp [w]
    · exact w
  · exact w

theorem formedNext_execStreamConditionRead {core : CoreId} {ctx : ContextId} {stream : StreamId} {s : State}
    (w : s.Formed) : FormedNext (execStreamConditionRead core ctx stream s) := by
  unfold execStreamConditionRead
  dsimp only
  split
  · simp [w]
  · exact w

@[simp] theorem State.formed_localDoneAdd {s : State} {t : Stream} (w : s.Formed) : (s.localDoneAdd t).1.Formed := by
  unfold State.localDoneAdd
  split
  · exact w
  · split
    · exact w
    · exact State.formed_putWord _ _ (State.formed_count.2 w)
  · exact w

@[simp] theorem State.formed_makeAdd {s : State} {t : Stream} {reply : RemoteReply} (w : s.Formed) :
    (s.makeAdd t reply).1.Formed := by
  unfold State.makeAdd
  split <;> simp [w]

theorem formedNext_execStreamDoneadd {core : CoreId} {ctx : ContextId} {stream : StreamId} {reply : RemoteReply}
    {s : State} (w : s.Formed) : FormedNext (execStreamDoneadd core ctx stream reply s) := by
  unfold execStreamDoneadd
  dsimp only
  split
  · exact w
  split
  · split
    · exact w
    · next h3 => simp [State.formed_of_fst h3 (State.formed_makeAdd w)]
  split
  · simp [w]
  split
  · simp [w]
  · exact w

@[simp] theorem State.formed_postRemoteFault {s : State} {r : RemoteRequest} {data : Option Word} :
    (s.postRemoteFault r data).Formed ↔ s.Formed := by
  unfold State.postRemoteFault
  dsimp only
  split <;> simp

@[simp] theorem State.formed_replyTo {s : State} {r : RemoteRequest} {x : RemoteReply} :
    (s.replyTo r x).Formed ↔ s.Formed := by
  simp [State.replyTo]

@[simp] theorem State.formed_serveRead {s : State} {r : RemoteRequest} : (s.serveRead r).Formed ↔ s.Formed := by
  unfold State.serveRead
  split <;> simp

@[simp] theorem State.formed_serveAdd {s : State} {r : RemoteRequest} (w : s.Formed) : (s.serveAdd r).Formed := by
  unfold State.serveAdd
  split
  · simp [w]
  · simp [w, State.formed_putWord]
  · exact w

@[simp] theorem State.formed_serveRequest {s : State} {r : RemoteRequest} (w : s.Formed) :
    (s.serveRequest r).Formed := by
  unfold State.serveRequest
  simp [w]

@[simp] theorem State.formed_servePush {s : State} {r : RemoteRequest} {x : Word} (w : s.Formed) :
    (s.servePush r x).Formed := by
  unfold State.servePush
  split
  · simp [w]
  · simp [w, State.formed_performStore]

theorem formedNext_execRemoteStreamRequest {request : RemoteRequest} {s : State} (w : s.Formed) :
    FormedNext (execRemoteStreamRequest request s) := by
  unfold execRemoteStreamRequest
  split
  · exact w
  · simp [w]

@[simp] theorem State.formed_pushAnswered {s : State} {p : Pusher} {va : Word} {reply : RemoteReply} :
    (s.pushAnswered p va reply).Formed ↔ s.Formed := by
  unfold State.pushAnswered
  dsimp only
  (repeat' split) <;> simp

theorem formedNext_execRemotePushPerform {request : RemoteRequest} {data : BitVec 64} {stage : PushStage} {s : State}
    (w : s.Formed) : FormedNext (execRemotePushPerform request data stage s) := by
  unfold execRemotePushPerform
  split
  · split
    · exact w
    · simp [w]
  · simp [w]

theorem formedNext_execScatterAddPerform {add : ScatterAdd} {s : State} (w : s.Formed) :
    FormedNext (execScatterAddPerform add s) := by
  unfold execScatterAddPerform
  (repeat' split)
  · exact w
  · exact State.formed_addUnordered _ w
  · exact State.formed_modifyDev _ w (Device.wf_store _ _ _ w.1)

theorem formedNext_execLongLatencyResult {core : CoreId} {turn : ResultTurn} {s : State} (w : s.Formed) :
    FormedNext (execLongLatencyResult core turn s) := by
  unfold execLongLatencyResult
  simp [w]

theorem formedNext_execStripCommitComplete {core : CoreId} {ctx : ContextId} {s : State} (w : s.Formed) :
    FormedNext (execStripCommitComplete core ctx s) := by
  unfold execStripCommitComplete
  extract_lets s1 t
  have w1 : s1.Formed := (State.formed_actingAs _ _).2 w
  have wt : t.Formed := State.formed_commitStrip (State.formed_landVectors.2 w1)
  split
  · split
    · exact State.formed_complete.2 wt
    · exact (State.formed_setStatus _ _ _).2 wt
  · split
    · split
      · exact State.formed_commitStrip w1
      · exact w
    · exact w

theorem formedNext_execStriplost {core : CoreId} {ctx : ContextId} {s : State} (w : s.Formed) :
    FormedNext (execStriplost core ctx s) := by
  unfold execStriplost
  dsimp only
  split
  · simp [w, State.formed_loseStrip]
  · exact w

end Sys2Proof.Machine
end

section
/-!
Launches, the host queues and the arbiter; a launch that is placed takes its pieces of the typed buffers, zeroed.
-/

namespace Sys2Proof.Machine

@[simp] theorem State.formed_acceptLaunch {s : State} {m : Launch} {fromRing : Bool} :
    (s.acceptLaunch m fromRing).Formed ↔ s.Formed := by
  simp [State.acceptLaunch]

theorem formedNext_launchWith {waits : Bool} {d a : Reg} {fa : Bool} {s : State} (w : s.Formed) :
    FormedNext (launchWith waits d a fa s) := by
  unfold launchWith
  refine formedNext_issue w fun s1 w1 => ?_
  dsimp only
  split
  · exact w1
  split
  · next h3 => exact (carries_place w1).stop h3
  split
  · next h4 => exact (carries_readImage w1).stop h4
  · split <;> simp [w1]

@[simp] theorem State.formed_cancel {s : State} {level : Nat} {id : Word} (w : s.Formed) :
    (s.cancel level id).Formed := by
  unfold State.cancel
  extract_lets s1 s2 name tell
  have w1 : s1.Formed := (State.formed_updateDev rfl).2 w
  have w2 : s2.Formed := (State.formed_updateDev (by simp)).2 w1
  exact State.formed_mapCores (fun _ => ⟨rfl, rfl⟩) rfl w2

theorem formedNext_execCancel {d a b : Reg} {fa : Bool} {s : State} (w : s.Formed) :
    FormedNext (execCancel d a b fa s) := by
  unfold execCancel
  refine formedNext_issue w fun s1 w1 => ?_
  simp [w1]

theorem formedNext_execCwait {d a b : Reg} {fa : Bool} {s : State} (w : s.Formed) :
    FormedNext (execCwait d a b fa s) := by
  unfold execCwait
  refine formedNext_issue w fun s1 w1 => ?_
  simp [w1]

theorem formedNext_execCntrd {d a b : Reg} {fa : Bool} {s : State} (w : s.Formed) :
    FormedNext (execCntrd d a b fa s) := by
  unfold execCntrd
  refine formedNext_issue w fun s1 w1 => ?_
  simp [w1]

theorem formedNext_execSelf {d b : Reg} {s : State} (w : s.Formed) : FormedNext (execSelf d b s) := by
  unfold execSelf
  refine formedNext_issue w fun s1 w1 => ?_
  simp [w1]

theorem formedNext_execExit {s : State} (w : s.Formed) : FormedNext (execExit s) := by
  unfold execExit
  split
  · exact formedNext_issue w fun _ w1 => w1
  · have hp := (formedResult_iff _).1 (State.formed_prepare { commits := true, orders := true } w)
    split
    · next h => exact formedNext_finish (hp.stop h)
    · next h =>
      have w1 := hp.ok h
      split
      · exact State.formed_endHart (State.formed_charge.2 w1)
      · exact formedNext_finish w1

@[simp] theorem State.formed_dropDescriptor {s : State} {q : QueueId} {slot : Nat} :
    (s.dropDescriptor q slot).Formed ↔ s.Formed := by
  simp [State.dropDescriptor]

@[simp] theorem Core.bufs_pruneBooks (k : Core) (launch : Word) :
    (k.pruneBooks launch).bufW = k.bufW ∧ (k.pruneBooks launch).bufX = k.bufX := by
  unfold Core.pruneBooks
  simp

@[simp] theorem Core.bufs_stage (k : Core) (b : Book) : (k.stage b).bufW = k.bufW ∧ (k.stage b).bufX = k.bufX := by
  unfold Core.stage
  simp

@[simp] theorem State.formed_stageBook {s : State} {b : Book} (w : s.Formed) : (s.stageBook b).Formed := by
  unfold State.stageBook
  extract_lets refused stays s1 s2
  have w1 : s1.Formed := State.formed_mapCores (fun k => Core.bufs_stage k b) rfl w
  have w2 : s2.Formed := State.formed_foldl _ (fun _ _ w => (State.formed_updateDev (Device.mem_report _ _ _)).2 w) _ w1
  split
  · exact w2
  · exact (State.formed_updateDev rfl).2 w2

@[simp] theorem State.formed_replaceBook {s : State} {q : QueueId} {slot : Nat} {d : Desc} (w : s.Formed) :
    (s.replaceBook q slot d).Formed := by
  unfold State.replaceBook
  split <;> simp [w]

@[simp] theorem State.formed_takeDescriptor {s : State} {q : QueueId} {slot : Nat} {d : Desc} (w : s.Formed) :
    (s.takeDescriptor q slot d).Formed := by
  unfold State.takeDescriptor
  dsimp only
  split
  · simp [w]
  split
  · simp [w]
  split
  · simp [w]
  · split <;> simp [w]

theorem formedNext_execDescriptorArrival {queue : QueueId} {descriptor : BitVec 2048} {s : State} (w : s.Formed) :
    FormedNext (execDescriptorArrival queue descriptor s) := by
  unfold execDescriptorArrival
  dsimp only
  split
  · simp [w]
  · exact w

theorem formedNext_execQtailWrite {queue : QueueId} {value : BitVec 64} {s : State} (w : s.Formed) :
    FormedNext (execQtailWrite queue value s) := by
  unfold execQtailWrite
  exact w

theorem formedNext_execQctlWrite {queue : QueueId} {value : BitVec 64} {s : State} (w : s.Formed) :
    FormedNext (execQctlWrite queue value s) := by
  unfold execQctlWrite
  exact w

@[simp] theorem State.formed_retryUnaccepted {s : State} (w : s.Formed) : s.retryUnaccepted.Formed := by
  unfold State.retryUnaccepted
  simp +contextual [w, State.formed_foldl]

theorem formedNext_execJobRetired {job : BitVec 64} {s : State} (w : s.Formed) :
    FormedNext (execJobRetired job s) := by
  unfold execJobRetired
  split
  · split
    · simp [w]
    · exact w
  · exact w

@[simp] theorem State.formed_deliverDue {s : State} {c : CoreId} {x : CtxId} {cause : BitVec 8} (w : s.Formed) :
    (s.deliverDue c x cause).Formed := by
  unfold State.deliverDue
  dsimp only
  split
  · simp [w, ↓State.formed_frame]
  · exact w

theorem formedNext_execHartCancelled {core : CoreId} {ctx : UserCtx} {s : State} (w : s.Formed) :
    FormedNext (execHartCancelled core ctx s) := by
  unfold execHartCancelled
  simp [w]

theorem formedNext_execHartFenced {core : CoreId} {ctx : UserCtx} {s : State} (w : s.Formed) :
    FormedNext (execHartFenced core ctx s) := by
  unfold execHartFenced
  simp [w]

@[simp] theorem Device.mem_replenish (d : Device) (qs : List QueueId) : (d.replenish qs).mem = d.mem := by
  unfold Device.replenish
  simp

@[simp] theorem State.formed_select {s : State} {blocked : List QueueId} (w : s.Formed) :
    (s.select blocked).2.Formed := by
  unfold State.select
  dsimp only
  split
  · simp [w]
  · dsimp only
    split <;> simp [w]

theorem Core.formed_zeroPiece {k : Core} {b : BufId} {n : Nat} (w : k.bufW.wf = true ∧ k.bufX.wf = true) :
    (k.zeroPiece b n).bufW.wf = true ∧ (k.zeroPiece b n).bufX.wf = true := by
  have w1 := Core.formed_setBuffer (b := b) w
    (Mem.wf_filter (fun e => !overlap e.1 1 (n * 65536) 65536) (Core.formed_buffer b w))
  cases b <;> exact w1

theorem Core.formed_givePiece {k : Core} {b : BufId} {launch : Word} {asn : BitVec 16} {n : Nat}
    (w : k.bufW.wf = true ∧ k.bufX.wf = true) :
    (k.givePiece b launch asn n).bufW.wf = true ∧ (k.givePiece b launch asn n).bufX.wf = true := by
  unfold Core.givePiece
  dsimp only
  split
  · exact Core.formed_zeroPiece w
  · exact w

theorem Core.formed_foldl {α : Type} {f : Core → α → Core}
    (h : ∀ k a, k.bufW.wf = true ∧ k.bufX.wf = true → (f k a).bufW.wf = true ∧ (f k a).bufX.wf = true) :
    (xs : List α) → {k : Core} → k.bufW.wf = true ∧ k.bufX.wf = true →
      (xs.foldl f k).bufW.wf = true ∧ (xs.foldl f k).bufX.wf = true
  | [], _, w => w
  | x :: xs, _, w => Core.formed_foldl h xs (h _ x w)

theorem Core.formed_givePieces {k : Core} {m : Launch} (w : k.bufW.wf = true ∧ k.bufX.wf = true) :
    (k.givePieces m).bufW.wf = true ∧ (k.givePieces m).bufX.wf = true :=
  Core.formed_foldl (fun _ _ => Core.formed_givePiece) _ (Core.formed_foldl (fun _ _ => Core.formed_givePiece) _ w)

@[simp] theorem State.formed_placeHart {s : State} {m : Launch} {index : Nat} {t : Seat} :
    (s.placeHart m index t).Formed ↔ s.Formed :=
  (State.formed_updateDev rfl).trans (State.formed_updateCore (Core.bufs_loadBook _ _).1 (Core.bufs_loadBook _ _).2)

@[simp] theorem Device.mem_addPlaced (d : Device) (m : Launch) : (d.addPlaced m).mem = d.mem := by
  unfold Device.addPlaced
  simp

@[simp] theorem State.formed_placeLaunch {s : State} {m : Launch} {seats : List Seat} (w : s.Formed) :
    (s.placeLaunch m seats).Formed := by
  unfold State.placeLaunch
  extract_lets used s1 s2 s3
  have w1 : s1.Formed :=
    State.formed_foldl _ (fun _ c w => State.formed_modifyCore c _ w (Core.formed_givePieces (w.2 c))) _ w
  have w2 : s2.Formed := State.formed_foldl _ (fun _ _ w => State.formed_placeHart.2 w) _ w1
  have w3 : s3.Formed := (State.formed_updateDev (Device.mem_addPlaced _ _)).2 w2
  exact State.formed_foldl _ (fun _ _ w => State.formed_wakeCore.2 (State.formed_residencyChanged.2 w)) _ w3

@[simp] theorem State.formed_endElsewhere {s : State} {launch : Word} {failed : Bool} (w : s.Formed) :
    (s.endElsewhere launch failed).Formed := by
  unfold State.endElsewhere
  dsimp only
  split
  · exact w
  · simp [w]

theorem formedNext_execLaunchPlacement {s : State} (w : s.Formed) : FormedNext (execLaunchPlacement s) := by
  unfold execLaunchPlacement
  dsimp only
  split
  · exact w
  split
  · simp [w]
  · exact w

@[simp] theorem State.formed_stopContext {s : State} {c : CoreId} {x : UserCtx} (w : s.Formed) :
    (s.stopContext c x).Formed := by
  unfold State.stopContext
  extract_lets t q stop
  have wq : q.Formed := State.formed_resetAdvice.2 (State.formed_quiesce ((State.formed_actingAs c (userId x)).2 w))
  have ws : ∀ a, (stop a).Formed := fun a => (State.formed_frame _ _ _).2
    ((State.formed_updateCore rfl rfl).2 ((State.formed_updateDev rfl).2 ((State.formed_modifyMe _).2 wq)))
  split
  · split
    · exact w
    · exact ws _
  · split
    · exact w
    · exact ws _
  · exact w

@[simp] theorem State.formed_evict {s : State} {c : CoreId} {x : UserCtx} (w : s.Formed) : (s.evict c x).Formed := by
  unfold State.evict
  simp [w]

@[simp] theorem State.formed_postRestore {s : State} {o : SwitchedOut} {c : CoreId} {x : UserCtx} :
    (s.postRestore o c x).Formed ↔ s.Formed := by
  simp [State.postRestore]

@[simp] theorem State.formed_serve {s : State} {q : QueueId} : (s.serve q).Formed ↔ s.Formed := by
  simp [State.serve]

theorem State.formed_of_give {s t : State} {q : QueueId} {x : Work} (h : s.give q x = some t) (w : s.Formed) :
    t.Formed := by
  unfold State.give at h
  split at h
  · rw [Option.map_eq_some_iff] at h
    obtain ⟨p, -, rfl⟩ := h
    simp [w]
  · split at h
    · cases h; simp [w]
    · cases h

@[simp] theorem State.formed_arbitrate : {n : Nat} → {s : State} → {blocked : List QueueId} → s.Formed →
    (s.arbitrate n blocked).Formed
  | 0, _, _, w => w
  | n + 1, s, blocked, w => by
    unfold State.arbitrate
    split
    · next h => exact State.formed_of_snd h (State.formed_select w)
    · next h =>
      have w1 := State.formed_of_snd h (State.formed_select w)
      split
      · next h2 => exact State.formed_of_give h2 w1
      · refine State.formed_arbitrate ?_
        split
        · exact w1
        · split <;> simp [w1]

theorem formedNext_execArbiterSelection {s : State} (w : s.Formed) : FormedNext (execArbiterSelection s) := by
  unfold execArbiterSelection
  split
  · exact w
  · simp [w]

theorem formedNext_execArbiterBoundary {core : CoreId} {s : State} (w : s.Formed) :
    FormedNext (execArbiterBoundary core s) := by
  unfold execArbiterBoundary
  split
  · exact w
  split
  · exact w
  · next h2 =>
    have w2 := State.formed_of_snd h2 (State.formed_select w)
    split
    · exact w2
    split
    · simp [w2]
    · exact w2

theorem formedNext_execQueueWeightWrite {queue : QueueId} {value : BitVec 64} {s : State} (w : s.Formed) :
    FormedNext (execQueueWeightWrite queue value s) := by
  unfold execQueueWeightWrite
  exact w

end Sys2Proof.Machine
end

section
/-!
The context switch, traps and the system registers.
-/

namespace Sys2Proof.Machine

@[simp] theorem State.formed_switchOut {s : State} {c : CoreId} {x : UserCtx} {image : Word} (w : s.Formed) :
    (s.switchOut c x image).Formed := by
  unfold State.switchOut
  extract_lets t h regions t1 t2 t3 t4
  have w1 : t1.Formed := State.formed_withdrawPromises.2 ((State.formed_actingAs _ _).2 w)
  have w3 : t3.Formed := (State.formed_updateCore rfl rfl).2 ((State.formed_updateDev rfl).2 w1)
  have w4 : t4.Formed := by
    dsimp only [t4]
    split <;> simp [w3]
  exact State.formed_freeContext.2 w4

@[simp] theorem State.formed_commitRest {s : State} {c : CoreId} {x : CtxId} (w : s.Formed) :
    (s.commitRest c x).Formed := by
  unfold State.commitRest
  simp [w, ↓State.formed_frame, State.formed_commitStrip]

@[simp] theorem State.formed_countSwitch {s : State} {c : CoreId} {x : UserCtx} :
    (s.countSwitch c x).Formed ↔ s.Formed := by
  simp [State.countSwitch]

@[simp] theorem carries_answer {s : State} {d : Reg} {x : Nat} (w : s.Formed) :
    Carries State.Formed (s.answer d x) := by
  unfold State.answer
  simp [w]

@[simp] theorem carries_switchOutOp {d : Reg} {va : Word} {s : State} (w : s.Formed) :
    Carries State.Formed (switchOutOp d va s) := by
  unfold switchOutOp
  dsimp only
  split
  · simp [w]
  split
  · simp [w]
  split
  · next h3 => exact (carries_writeImage (by simp [w])).stop h3
  · next h3 => simp [(carries_writeImage (by simp [w])).ok h3]

@[simp] theorem State.formed_freeVector {s : State} {vlmax : Nat} (w : s.Formed) : (s.freeVector vlmax).2.Formed := w

@[simp] theorem State.formed_rearmPromise {s : State} {p : PendingPromise} (w : s.Formed) :
    (s.rearmPromise p).Formed := by
  unfold State.rearmPromise
  extract_lets register
  have wr : ∀ t root polls, t.Formed → (register t root polls).Formed := fun t root polls w => by simp [register, w]
  split
  · next h =>
    have w1 := State.formed_searchFor (.inl ⟨_, h⟩) w
    split
    · simp [w1]
    · exact wr _ _ _ w1
  · next h => exact wr _ _ _ (State.formed_searchFor (.inr ⟨_, h⟩) w)

@[simp] theorem State.formed_switchIn {s : State} {c : CoreId} {x : UserCtx} {image : Nat} {quarter : Fin 4}
    (w : s.Formed) : (s.switchIn c x image quarter).Formed := by
  unfold State.switchIn
  extract_lets saved h regions separated own
  split
  rename_i vec s1 h1
  have w1 : s1.Formed := by
    cases hown : own with
    | some r => rw [hown] at h1; cases h1; exact w
    | none => rw [hown] at h1; exact State.formed_of_snd h1 (State.formed_freeVector w)
  extract_lets h2 book s2 s3 s4 s5 s6
  have w2 : s2.Formed :=
    (State.formed_updateCore (Core.bufs_loadBook _ _).1 (Core.bufs_loadBook _ _).2).2 (State.formed_dropLazy w1)
  have w3 : s3.Formed := (State.formed_updateDev rfl).2 w2
  have w4 : s4.Formed := State.formed_residencyChanged.2 w3
  have w5 : s5.Formed := by
    dsimp only [s5]
    split <;> simp [w4]
  exact State.formed_foldl _ (fun _ _ => State.formed_rearmPromise) _ ((State.formed_actingAs _ _).2 w5)

@[simp] theorem carries_switchInOp {d : Reg} {va : Word} {s : State} (w : s.Formed) :
    Carries State.Formed (switchInOp d va s) := by
  unfold switchInOp
  dsimp only
  split
  · next h1 => exact (carries_readImage w).stop h1
  split
  · simp [w]
  split
  · simp [w]
  split
  · simp [w]
  · split <;> simp [w]

@[simp] theorem carries_vectorOutOp {d : Reg} {va : Word} {s : State} (w : s.Formed) :
    Carries State.Formed (vectorOutOp d va s) := by
  unfold vectorOutOp
  dsimp only
  split
  · simp [w]
  split
  · simp [w]
  split
  · next h3 => exact (carries_writeImage w).stop h3
  · next h3 =>
    have w3 := (carries_writeImage w).ok h3
    split
    · next h4 => exact (carries_writeImage w3).stop h4
    · next h4 => simp [(carries_writeImage w3).ok h4]

@[simp] theorem State.formed_claimRegion {s : State} {c : CoreId} {x : CtxId} {vec : VecState} (w : s.Formed) :
    (s.claimRegion c x vec).Formed := by
  unfold State.claimRegion
  simp +contextual [w, State.formed_foldl]

@[simp] theorem carries_vectorInOp {d : Reg} {va : Word} {s : State} (w : s.Formed) :
    Carries State.Formed (vectorInOp d va s) := by
  unfold vectorInOp
  dsimp only
  split
  · simp [w]
  split
  · simp [w]
  split
  · next h3 => exact (carries_readVectorImage w).stop h3
  · next h3 => simp [(carries_readVectorImage w).ok h3]
  · next h3 => simp [(carries_readVectorImage w).ok h3]

@[simp] theorem carries_accumOutOp {d : Reg} {va : Word} {s : State} (w : s.Formed) :
    Carries State.Formed (accumOutOp d va s) := by
  unfold accumOutOp
  dsimp only
  split
  · next h1 => exact (carries_readImage w).stop h1
  split
  · simp [w]
  split
  · next h3 => exact (carries_writeImage (by simp [w])).stop h3
  · next h3 =>
    have w3 := (carries_writeImage (by simp [w])).ok h3
    split
    · next h4 => exact (carries_writeImage w3).stop h4
    · next h4 =>
      have w4 := (carries_writeImage w3).ok h4
      split <;> simp [w4]

@[simp] theorem State.formed_bindSaved {c : CoreId} {id : BitVec 48} :
    {ts : List (Nat × Nat)} → {s : State} → s.Formed → (s.bindSaved c id ts).1.Formed
  | [], _, w => w
  | _ :: _, s, w => by
    unfold State.bindSaved
    split
    · exact State.formed_bindSaved w
    · split
      · exact w
      · exact State.formed_bindSaved (by simp [w])

@[simp] theorem carries_readAccImage {s : State} {va : Word} (w : s.Formed) :
    Carries (fun r => r.2.Formed) (s.readAccImage va) := by
  unfold State.readAccImage
  split
  · next h => exact (carries_readImage w).stop h
  · split
    · simp [w]
    · dsimp only
      split
      · next h => exact (carries_readImage w).stop h
      · simp [w]

@[simp] theorem carries_accumInOp {d : Reg} {s : State} (w : s.Formed) : Carries State.Formed (accumInOp d s) := by
  unfold accumInOp
  dsimp only
  split
  · simp [w]
  split
  · simp [w]
  split
  · simp [w]
  split
  · next h4 => exact (carries_readAccImage w).stop h4
  · next h4 => simp [(carries_readAccImage w).ok h4]
  · next h4 =>
    have w4 := (carries_readAccImage w).ok h4
    split
    · next h5 => simp [State.formed_of_fst h5 (State.formed_bindSaved w4)]
    · next h5 => simp [State.formed_of_fst h5 (State.formed_bindSaved w4)]

theorem formedNext_contextOp {d a : Reg} {fa : Bool} {op : Word → State → Except Stop State} {s : State} (w : s.Formed)
    (ho : ∀ va s, s.Formed → Carries State.Formed (op va s)) : FormedNext (contextOp d a fa op s) := by
  refine formedNext_issue w fun s1 w1 => ?_
  dsimp only
  split
  · exact carries_answer w1
  · exact ho _ _ w1

theorem formedNext_execTrap {b : Src} {s : State} (w : s.Formed) : FormedNext (execTrap b s) := by
  unfold execTrap
  extract_lets u
  refine formedNext_issue w fun _ w1 => ?_
  exact State.formed_chargeUses.2 w1

theorem formedNext_execBrk {s : State} (w : s.Formed) : FormedNext (execBrk s) := by
  unfold execBrk
  extract_lets u
  refine formedNext_issue w fun _ w1 => ?_
  exact State.formed_chargeUses.2 w1

theorem formedNext_execRdcyc {d : Reg} {s : State} (w : s.Formed) : FormedNext (execRdcyc d s) := by
  unfold execRdcyc
  refine formedNext_issue w fun s1 w1 => ?_
  simp [w1]

theorem formedNext_execRdnrg {d : Reg} {s : State} (w : s.Formed) : FormedNext (execRdnrg d s) := by
  unfold execRdnrg
  refine formedNext_issue w fun s1 w1 => ?_
  simp [w1]

@[simp] theorem Core.bufs_setTrapRegs (k : Core) (f : TrapRegs → TrapRegs) :
    (k.setTrapRegs f).bufW = k.bufW ∧ (k.setTrapRegs f).bufX = k.bufX := by
  unfold Core.setTrapRegs
  dsimp only
  split
  · simp
  · split <;> simp

@[simp] theorem Core.bufs_writeTepc (k : Core) (x : Word) :
    (k.writeTepc x).bufW = k.bufW ∧ (k.writeTepc x).bufX = k.bufX := by
  unfold Core.writeTepc
  simp

theorem formedNext_execSysrd {d a : Reg} {s : State} (w : s.Formed) : FormedNext (execSysrd d a s) := by
  unfold execSysrd
  refine formedNext_issue w fun s1 w1 => ?_
  simp [w1]

@[simp] theorem Core.bufs_writeGcap (k : Core) (x : Word) :
    (k.writeGcap x).bufW = k.bufW ∧ (k.writeGcap x).bufX = k.bufX := by
  unfold Core.writeGcap
  simp

@[simp] theorem State.formed_relocate {s : State} {c : CoreId} {x : CtxId} : (s.relocate c x).Formed ↔ s.Formed := by
  unfold State.relocate
  simp [↓State.formed_frame]

@[simp] theorem State.formed_relocateAll {s : State} {c : CoreId} {ganged : Bool} (w : s.Formed) :
    (s.relocateAll c ganged).Formed := by
  unfold State.relocateAll
  simp +contextual [w, State.formed_foldl]

@[simp] theorem State.formed_writeLanemap {s : State} {c : CoreId} {x : Word} (w : s.Formed) :
    (s.writeLanemap c x).Formed := by
  unfold State.writeLanemap
  extract_lets lanes s1 s2 s3
  have w1 : s1.Formed := (State.formed_updateCore rfl rfl).2 (State.formed_relocateAll w)
  have w2 : s2.Formed := by
    dsimp only [s2]
    split <;> simp [w1]
  have w3 : s3.Formed := State.formed_foldl _ (fun _ _ w => State.formed_resetAdvice.2 w) _ w2
  split
  · exact w
  · split
    · exact State.formed_fenceCore.2 w3
    · exact w3

@[simp] theorem State.formed_writeSystemRegister {s : State} {c : CoreId} {n : Nat} {x : Word} (w : s.Formed) :
    (s.writeSystemRegister c n x).Formed := by
  unfold State.writeSystemRegister
  split <;> simp [w]

theorem formedNext_execSyswr {d : Reg} {b : Src} {s : State} (w : s.Formed) : FormedNext (execSyswr d b s) := by
  unfold execSyswr
  refine formedNext_issue w fun s1 w1 => ?_
  simp [w1]

theorem formedNext_execLanemapWrite {core : CoreId} {value : BitVec 64} {s : State} (w : s.Formed) :
    FormedNext (execLanemapWrite core value s) := by
  unfold execLanemapWrite
  simp [w]

theorem formedNext_execGcapWrite {core : CoreId} {value : BitVec 64} {s : State} (w : s.Formed) :
    FormedNext (execGcapWrite core value s) := by
  unfold execGcapWrite
  simp [w]

theorem formedNext_execActwWrite {core : CoreId} {value : BitVec 64} {s : State} (w : s.Formed) :
    FormedNext (execActwWrite core value s) := by
  unfold execActwWrite
  simp [w]

theorem formedNext_execFwrootWrite {core : CoreId} {value : BitVec 64} {s : State} (w : s.Formed) :
    FormedNext (execFwrootWrite core value s) := by
  unfold execFwrootWrite
  simp [w]

theorem formedNext_execSlotset {a : Reg} {fa : Bool} {s : State} (w : s.Formed) :
    FormedNext (execSlotset a fa s) := by
  unfold execSlotset
  refine formedNext_issue w fun s1 w1 => ?_
  dsimp only
  split
  · exact w1
  · simp [w1]

@[simp] theorem Core.bufs_takeInHand (k : Core) (r : Record) :
    (k.takeInHand r).bufW = k.bufW ∧ (k.takeInHand r).bufX = k.bufX := by
  unfold Core.takeInHand
  simp

theorem Core.bufs_of_nextRecord {k l : Core} {r : Record} (h : k.nextRecord = some (r, l)) :
    l.bufW = k.bufW ∧ l.bufX = k.bufX := by
  unfold Core.nextRecord at h
  split at h <;> cases h <;> exact ⟨rfl, rfl⟩

@[simp] theorem State.formed_takeStaged {s : State} {i : StagedImage} (w : s.Formed) : (s.takeStaged i).Formed := by
  have w1 : (s.finishRecord s.cur.core).Formed := State.formed_finishRecord.2 w
  exact (State.formed_modifyMe _).2 ((State.formed_updateCore rfl rfl).2
    (State.formed_modifyDev _ w1 (Device.wf_placeImage w1.1)))

theorem State.formed_of_takeRecord {s t : State} {d : Reg} (h : s.takeRecord d = some t) (w : s.Formed) : t.Formed := by
  unfold State.takeRecord at h
  split at h
  · cases h
  · rw [Option.map_eq_some_iff] at h
    obtain ⟨⟨r, k⟩, hk, rfl⟩ := h
    have hb := Core.bufs_of_nextRecord hk
    have w1 : (s.finishRecord s.cur.core).Formed := by simp [w]
    refine (State.formed_modifyMe _).2 (State.formed_modifyCore _ _ w1 ?_)
    simp only [Core.bufs_enqueue, Core.bufs_takeInHand, hb]
    exact w1.2 _

theorem formedNext_execWfn {d : Reg} {s : State} (w : s.Formed) : FormedNext (execWfn d s) := by
  unfold execWfn
  refine formedNext_issueTo w fun s1 w1 => ?_
  split
  · simp [w1]
  split
  · exact w1
  · next h3 => exact State.formed_of_takeRecord h3 w1

@[simp] theorem State.formed_completeWfn {s : State} {c : CoreId} (w : s.Formed) : (s.completeWfn c).Formed := by
  unfold State.completeWfn
  dsimp only
  split
  · split
    · exact w
    · next h2 =>
      have w2 := State.formed_of_takeRecord h2 w
      simp [w2, ↓State.formed_frame]
  · exact w

@[simp] theorem State.formed_beginCycle {s : State} {c : CoreId} (w : s.Formed) : (s.beginCycle c).Formed :=
  State.formed_issueCycle (State.formed_completeWfn (State.formed_settleQueues w))

theorem formedNext_execIssueCycle {core : CoreId} {s : State} (w : s.Formed) :
    FormedNext (execIssueCycle core s) := by
  unfold execIssueCycle
  simp [w]

@[simp] theorem carries_resumable {s : State} {c : CoreId} {x : CtxId} {pc : Word} (w : s.Formed) :
    Carries (fun _ => True) (s.resumable c x pc) := by
  unfold State.resumable
  split
  · exact w
  split
  · simp [w]
  · simp

@[simp] theorem carries_returnTo {s : State} {kill : Bool} {x : CtxId} (w : s.Formed) :
    Carries State.Formed (s.returnTo kill x) := by
  unfold State.returnTo
  dsimp only
  split
  · simp [w]
  split
  · next h2 => exact (carries_resumable w).stop h2
  · simp [w]

@[simp] theorem carries_returnToAll {kill : Bool} : {xs : List CtxId} → {s : State} → s.Formed →
    Carries State.Formed (s.returnToAll kill xs)
  | [], _, w => w
  | _ :: _, _, w => by
    unfold State.returnToAll
    split
    · next h => exact (carries_returnTo w).stop h
    · next h => exact carries_returnToAll ((carries_returnTo w).ok h)

@[simp] theorem State.formed_returnToCommand {s : State} {kill : Bool} {ticket : Word} {regs : TrapRegs}
    (w : s.Formed) : (s.returnToCommand kill ticket regs).Formed := by
  unfold State.returnToCommand
  simp [w, ↓State.formed_frame]

@[simp] theorem State.formed_returnToRequest {s : State} {kill : Bool} {r : RemoteRequest} {data : Option Word}
    (w : s.Formed) : (s.returnToRequest kill r data).Formed := by
  unfold State.returnToRequest
  split
  · exact w
  · split <;> simp [w]

theorem carries_returnToEngine {s : State} {kill : Bool} {regs : TrapRegs} {act : State → State} (w : s.Formed)
    (ha : ∀ s, s.Formed → (act s).Formed) : Carries State.Formed (s.returnToEngine kill regs act) := by
  unfold State.returnToEngine
  split
  · exact carries_returnTo w
  · exact State.formed_finishRecord.2 (ha s w)

theorem formedNext_rte {kill : Bool} {s : State} (w : s.Formed) : FormedNext (rte kill s) := by
  refine formedNext_issue w fun s1 w1 => ?_
  split
  · exact carries_returnToEngine w1 fun _ w2 => State.formed_returnToCommand w2
  · exact carries_returnToEngine w1 fun _ w2 => State.formed_returnToRequest w2
  · split
    · simp [w1]
    · split
      · next h => exact (carries_returnToAll w1).stop h
      · next h => exact State.formed_finishRecord.2 ((carries_returnToAll w1).ok h)

theorem formedNext_execFatalError {core : CoreId} {struck : BitVec 7} {s : State} (w : s.Formed) :
    FormedNext (execFatalError core struck s) := by
  unfold execFatalError
  split
  · simp [w]
  · exact w

@[simp] theorem State.formed_postLane {s : State} {c : CoreId} {lane : Nat} (w : s.Formed) :
    (s.postLane c lane).Formed := by
  unfold State.postLane
  simp +contextual [w, State.formed_foldl]

theorem formedNext_execLaneError {core : CoreId} {lane : Lane} {struck : Struck} {s : State} (w : s.Formed) :
    FormedNext (execLaneError core lane struck s) :=
  State.formed_postLane (State.formed_foldl _ (fun _ _ w => State.formed_fenceLaunch.2 w) _ w)

theorem formedNext_execCorrectedError {core : CoreId} {lane : Option Lane} {s : State} (w : s.Formed) :
    FormedNext (execCorrectedError core lane s) := by
  unfold execCorrectedError
  dsimp only
  split
  · exact w
  · split <;> simp [w]

end Sys2Proof.Machine
end

section
/-!
Power, the frames of memory with their errors, and the mask and permutation instructions.
-/

namespace Sys2Proof.Machine

theorem formedNext_execPowerControllerUpdate {core : CoreId} {grant : BitVec 13} {gate : BitVec 8} {gateCore : Bool}
    {withdraw : BitVec 8} {s : State} (w : s.Formed) :
    FormedNext (execPowerControllerUpdate core grant gate gateCore withdraw s) := by
  unfold execPowerControllerUpdate
  simp [w]

theorem formedNext_execPowerHoldExpire {core : CoreId} {part : PowerPart} {s : State} (w : s.Formed) :
    FormedNext (execPowerHoldExpire core part s) := by
  unfold execPowerHoldExpire
  dsimp only
  split
  · simp [w]
  split
  · simp [w]
  · exact w

theorem formedNext_execSwitchOpeningComplete {core : CoreId} {part : PowerPart} {s : State} (w : s.Formed) :
    FormedNext (execSwitchOpeningComplete core part s) := by
  unfold execSwitchOpeningComplete
  dsimp only
  split
  · split
    · simp [w]
    · exact w
  split
  · simp [w]
  · exact w

theorem formedNext_execInrushGrant {s : State} (w : s.Formed) : FormedNext (execInrushGrant s) := by
  unfold execInrushGrant
  split
  · split <;> exact w
  · exact w

@[simp] theorem Core.bufs_powerUp (k : Core) : (k.powerUp).bufW = k.bufW ∧ (k.powerUp).bufX = k.bufX := by
  unfold Core.powerUp
  split <;> simp

theorem formedNext_execTurnOnComplete {core : CoreId} {group : BitVec 3} {s : State} (w : s.Formed) :
    FormedNext (execTurnOnComplete core group s) := by
  unfold execTurnOnComplete
  dsimp only
  split
  · exact (State.formed_updateCore (by split <;> simp) (by split <;> simp)).2 ((State.formed_updateDev rfl).2 w)
  · exact w

theorem formedNext_execClusterClockChange {core : CoreId} {running : Bool} {s : State} (w : s.Formed) :
    FormedNext (execClusterClockChange core running s) :=
  State.formed_mapCores (fun _ => ⟨rfl, rfl⟩) rfl w

@[simp] theorem Device.mem_endEpoch (d : Device) (i : FrameInfo) : (d.endEpoch i).mem = d.mem := by
  unfold Device.endEpoch
  simp

theorem formedNext_execPageEpoch {slice : SliceId} {s : State} (w : s.Formed) : FormedNext (execPageEpoch slice s) :=
  (State.formed_updateDev (Device.mem_foldl _ Device.mem_endEpoch _ _)).2 w

@[simp] theorem Device.mem_rehome (d : Device) (frame : Nat) (t : SliceId) : (d.rehome frame t).mem = d.mem := by
  unfold Device.rehome
  simp

theorem formedNext_execFrameMoveSwitch {frame : BitVec 36} {s : State} (w : s.Formed) :
    FormedNext (execFrameMoveSwitch frame s) := by
  unfold execFrameMoveSwitch
  split <;> exact w

@[simp] theorem State.formed_performAllReads {s : State} (w : s.Formed) : s.performAllReads.Formed :=
  (State.formed_frame _ _ _).2
    (State.formed_foldl _ (fun _ _ w => State.formed_performReads.2 ((State.formed_actingAs _ _).2 w)) _ w)

theorem formedNext_execModuleUncorrectableError {line : BitVec 46} {s : State} (w : s.Formed) :
    FormedNext (execModuleUncorrectableError line s) := by
  have w1 := State.formed_performAllReads w
  unfold execModuleUncorrectableError
  generalize s.performAllReads = t at w1 ⊢
  dsimp only
  split
  · exact w
  · exact (State.formed_updateDev rfl).2 w1

theorem formedNext_execBufferWordError {core : CoreId} {buf : TypedBuf} {word : BitVec 19} {s : State} (w : s.Formed) :
    FormedNext (execBufferWordError core buf word s) := by
  cases buf with
  | wx b =>
    have w1 := State.formed_performAllReads w
    simp only [execBufferWordError]
    generalize s.performAllReads = t at w1 ⊢
    split
    · exact w
    · exact (State.formed_updateCore (Core.bufs_setPoison _ _ _).1 (Core.bufs_setPoison _ _ _).2).2 w1
  | z => exact (State.formed_updateCore rfl rfl).2 w

theorem Device.wf_lose {d : Device} {fs : List Nat} (h : d.mem.wf = true) : (d.lose fs).mem.wf = true := by
  unfold Device.lose
  rw [Device.mem_foldl _ fun _ _ => Device.mem_report _ _ _]
  exact Mem.wf_filter _ h

@[simp] theorem Device.mem_rehomeAll : (fs : List Nat) → (d : Device) → (Device.rehomeAll fs d).1.mem = d.mem
  | [], _ => rfl
  | f :: fs, d => by
    unfold Device.rehomeAll
    split
    · rw [Device.mem_rehomeAll, Device.mem_rehome]
    · exact Device.mem_rehomeAll fs d

@[simp] theorem Device.mem_dropLink (d : Device) (l : LinkId) : (d.dropLink l).mem = d.mem := by
  unfold Device.dropLink
  simp

@[simp] theorem Device.mem_setLanes (d : Device) (quinsia : Bool) (n : BitVec 16) (lanes : Nat) :
    (d.setLanes quinsia n lanes).mem = d.mem := by
  unfold Device.setLanes
  simp

@[simp] theorem Device.mem_endCommand (d : Device) (code result : Nat) : (d.endCommand code result).mem = d.mem := by
  unfold Device.endCommand
  simp

@[simp] theorem Device.mem_endRetire (d : Device) (l : LinkId) : (d.endRetire l).mem = d.mem := by
  unfold Device.endRetire
  simp

theorem Device.wf_leaveService {d : Device} {l : LinkId} {gone : List Nat} (h : d.mem.wf = true) :
    (d.leaveService l gone).mem.wf = true := by
  unfold Device.leaveService
  rw [Device.mem_endRetire, Device.mem_report]
  exact Device.wf_lose (by simpa using h)

theorem formedNext_execLinkFailure {link : LinkId} {readable : Bool} {s : State} (w : s.Formed) :
    FormedNext (execLinkFailure link readable s) := by
  unfold execLinkFailure
  split
  · exact w
  split
  · exact (State.formed_updateDev rfl).2 w
  · have w1 := State.formed_foldl (fun s l => s.fenceLaunch l causeFenced) (fun _ _ w => State.formed_fenceLaunch.2 w)
      (s.launchesWaitingAt fun t => linkOf t == link) w
    exact State.formed_modifyDev _ w1 (Device.wf_leaveService w1.1)

theorem formedNext_execModuleRetireComplete {link : LinkId} {s : State} (w : s.Formed) :
    FormedNext (execModuleRetireComplete link s) := by
  unfold execModuleRetireComplete
  split
  · exact w
  · refine State.formed_modifyDev _ w ?_
    refine Device.wf_leaveService ?_
    rw [Device.mem_rehomeAll]
    exact w.1

theorem formedNext_execSliceUncorrectableError {slice : SliceId} {s : State} (w : s.Formed) :
    FormedNext (execSliceUncorrectableError slice s) := by
  unfold execSliceUncorrectableError
  split
  · exact w
  · have w1 := State.formed_foldl (fun s l => s.fenceLaunch l causeFenced) (fun _ _ w => State.formed_fenceLaunch.2 w)
      (s.launchesWaitingAt (· == slice)) w
    refine State.formed_modifyDev _ w1 (Device.wf_lose ?_)
    exact w1.1

@[simp] theorem Device.mem_housed (d : Device) : (d.housed).mem = d.mem := by
  unfold Device.housed
  simp

@[simp] theorem Device.mem_house : (fs : List Nat) → (d : Device) → (Device.house fs d).mem = d.mem
  | [], _ => rfl
  | f :: fs, d => by
    unfold Device.house
    dsimp only
    split
    · rw [Device.mem_house]
    · rw [Device.mem_house, Device.mem_rehome]

@[simp] theorem Device.mem_resize (d : Device) (n : Nat) : (d.resize n).mem = d.mem := by
  unfold Device.resize
  simp

theorem formedNext_execMrsvWrite {value : BitVec 64} {s : State} (w : s.Formed) :
    FormedNext (execMrsvWrite value s) := by
  unfold execMrsvWrite
  dsimp only
  split
  · exact w
  · simp [w]

/-- After a reset the memories are empty. -/
theorem formedNext_execDeviceReset {s : State} : FormedNext (execDeviceReset s) :=
  ⟨by simp only [Device.mem_housed]; rfl, reset_formed.2⟩

theorem formedNext_maskOp {regs : List Field} {d : Reg} {f : Hart → Nat → Bool} {s : State} (w : s.Formed) :
    FormedNext (maskOp regs d f s) := by
  unfold maskOp
  refine formedNext_issue w fun s1 w1 => ?_
  simp [w1]

theorem formedNext_maskScan {f : Hart → Nat → Word} {d a : Reg} {s : State} (w : s.Formed) :
    FormedNext (maskScan f d a s) := by
  unfold maskScan
  refine formedNext_issue w fun s1 w1 => ?_
  simp [w1]

theorem formedNext_permuteBy {f : Hart → Nat → Word → Nat → Option Nat} {d a : Reg} {b : Src} {fa : Bool} {s : State}
    (w : s.Formed) : FormedNext (permuteBy f d a b fa s) := by
  unfold permuteBy
  refine formedNext_issue w fun s1 w1 => ?_
  refine carries_withWhole w1 fun xs2 s2 w2 => ?_
  simp [w2]

theorem formedNext_permuteOne {whole : Bool} {f : Hart → Nat → Nat → Option Nat} {d a : Reg} {fa : Bool} {s : State}
    (w : s.Formed) : FormedNext (permuteOne whole f d a fa s) := by
  unfold permuteOne
  refine formedNext_issue w fun s1 w1 => ?_
  refine carries_withWhole w1 fun xs2 s2 w2 => ?_
  simp [w2]

theorem formedNext_permuteTwo {f : Hart → Nat → Nat → Nat → Nat} {d a b : Reg} {fa fb : Bool} {s : State}
    (w : s.Formed) : FormedNext (permuteTwo f d a b fa fb s) := by
  unfold permuteTwo
  refine formedNext_issue w fun s1 w1 => ?_
  refine carries_withWhole w1 fun xs2 s2 w2 => ?_
  simp [w2]

theorem formedNext_execViota {d a : Reg} {s : State} (w : s.Formed) : FormedNext (execViota d a s) := by
  unfold execViota
  refine formedNext_issue w fun s1 w1 => ?_
  simp [w1]

theorem formedNext_execVbcast {d : Reg} {b : Src} {s : State} (w : s.Formed) : FormedNext (execVbcast d b s) := by
  unfold execVbcast
  refine formedNext_issue w fun s1 w1 => ?_
  simp [w1]

theorem formedNext_execVextract {d a : Reg} {b : Src} {fa : Bool} {s : State} (w : s.Formed) :
    FormedNext (execVextract d a b fa s) := by
  unfold execVextract
  refine formedNext_issue w fun s1 w1 => ?_
  refine carries_withWhole w1 fun xs2 s2 w2 => ?_
  simp [w2]

theorem formedNext_execVinsert {d a : Reg} {b : Src} {fa : Bool} {s : State} (w : s.Formed) :
    FormedNext (execVinsert d a b fa s) := by
  unfold execVinsert
  refine formedNext_issue w fun s1 w1 => ?_
  simp [w1]

end Sys2Proof.Machine
end

section
/-!
The host's registers, the service commands, and the boot.
-/

namespace Sys2Proof.Machine

theorem formedNext_execDevnumWrite {value : BitVec 64} {s : State} (w : s.Formed) :
    FormedNext (execDevnumWrite value s) := by
  unfold execDevnumWrite
  dsimp only
  split <;> exact w

theorem formedNext_execTinvGo {value : BitVec 64} {s : State} (w : s.Formed) : FormedNext (execTinvGo value s) := by
  unfold execTinvGo
  split <;> exact w

@[simp] theorem State.formed_dropLinksOf {s : State} {asn : BitVec 16} {base len : Word} (w : s.Formed) :
    (s.dropLinksOf asn base len).Formed :=
  State.formed_mapCores (fun _ => ⟨rfl, rfl⟩) rfl w

@[simp] theorem State.formed_dropCached {s : State} {asn : BitVec 16} {base len : Word} (w : s.Formed) :
    (s.dropCached asn base len).Formed :=
  State.formed_mapCores (fun _ => ⟨rfl, rfl⟩) rfl w

theorem formedNext_execTinvComplete {s : State} (w : s.Formed) : FormedNext (execTinvComplete s) := by
  unfold execTinvComplete
  split
  · exact w
  split
  · simp [w]
  · exact w

theorem formedNext_execRrInstall {s : State} (w : s.Formed) : FormedNext (execRrInstall s) := by
  unfold execRrInstall
  dsimp only
  split
  · exact w
  · split <;> exact w

theorem formedNext_execRrRemove {s : State} (w : s.Formed) : FormedNext (execRrRemove s) := by
  unfold execRrRemove
  dsimp only
  split
  · exact w
  · split <;> exact w

@[simp] theorem Device.mem_flushReports : (n : Nat) → (d : Device) → (Device.flushReports n d).mem = d.mem
  | 0, _ => rfl
  | n + 1, d => by
    unfold Device.flushReports
    split
    · split
      · rfl
      · rw [Device.mem_flushReports, Device.mem_writeReport]
    · rfl

theorem formedNext_execRepheadWrite {value : BitVec 64} {s : State} (w : s.Formed) :
    FormedNext (execRepheadWrite value s) := by
  unfold execRepheadWrite
  simp [w]

theorem formedNext_service {s : State} {code : Nat} {result : State → Nat × State} (w : s.Formed)
    (hr : ∀ s, s.Formed → (result s).2.Formed) : FormedNext (s.service code result) := by
  unfold State.service
  split
  · exact w
  · exact (State.formed_updateDev (Device.mem_endCommand _ _ _)).2 (hr _ ((State.formed_updateDev rfl).2 w))

@[simp] theorem State.formed_fenceOther {s : State} {n : Nat} (w : s.Formed) : (s.fenceOther n).Formed := by
  unfold State.fenceOther
  split
  · exact w
  · have w1 := fun xs : List (Word × Bool) =>
      State.formed_foldl (fun s e => s.fenceLaunch e.1 causeFenced) (fun _ _ w => State.formed_fenceLaunch.2 w) xs w
    exact (State.formed_updateDev (Device.mem_report _ _ _)).2 (w1 _)

theorem formedNext_execSvcFencecore {s : State} (w : s.Formed) : FormedNext (execSvcFencecore s) := by
  refine formedNext_service w fun s1 w1 => ?_
  dsimp only
  split
  · exact State.formed_fenceCore.2 w1
  split
  · exact State.formed_fenceOther w1
  · exact w1

@[simp] theorem Device.mem_startRetire (d : Device) (l : LinkId) : (d.startRetire l).mem = d.mem := by
  unfold Device.startRetire
  simp

theorem formedNext_execSvcRetiremod {s : State} (w : s.Formed) : FormedNext (execSvcRetiremod s) := by
  unfold execSvcRetiremod
  split
  · exact formedNext_service w fun _ w1 => w1
  split
  · exact (State.formed_updateDev rfl).2 w
  split
  · exact w
  · exact (State.formed_updateDev (Device.mem_startRetire _ _)).2 w

theorem formedNext_execSvcReturnmod {s : State} (w : s.Formed) : FormedNext (execSvcReturnmod s) := by
  refine formedNext_service w fun s1 w1 => ?_
  split
  · exact w1
  · split
    · exact w1
    · exact (State.formed_updateDev (by simp)).2 w1

theorem formedNext_execSvcRecal {s : State} (w : s.Formed) : FormedNext (execSvcRecal s) := by
  unfold execSvcRecal
  extract_lets quinsia n width mask lanes
  refine formedNext_ite w (formedNext_ite ?_ (formedNext_ite ?_ ?_))
  · exact formedNext_service (result := fun s => (3, s)) w fun _ w1 => w1
  · exact formedNext_service (result := fun s => (1, s)) w fun _ w1 => w1
  · refine (State.formed_updateDev ?_).2 w
    rfl

@[simp] theorem Device.mem_endRecal (d : Device) : (d.endRecal).mem = d.mem := by
  unfold Device.endRecal
  dsimp only
  split <;> simp

theorem formedNext_execRecalLaneReturn {quinsia : Bool} {link : BitVec 16} {lane : BitVec 3} {s : State}
    (w : s.Formed) : FormedNext (execRecalLaneReturn quinsia link lane s) := by
  unfold execRecalLaneReturn
  dsimp only
  split
  · simp [w]
  · exact w

theorem formedNext_execSvcStagefw {image : FirmwareImage} {s : State} (w : s.Formed) :
    FormedNext (execSvcStagefw image s) := by
  refine formedNext_service w fun s1 w1 => ?_
  dsimp only
  split
  · exact w1
  split
  · exact w1
  · exact State.formed_foldl _ (fun s c w => by split <;> simp [w]) _ ((State.formed_updateDev rfl).2 w1)

theorem formedNext_execSvcAttest {s : State} (w : s.Formed) : FormedNext (execSvcAttest s) := by
  refine formedNext_service w fun s1 w1 => ?_
  extract_lets nonce out
  split
  · exact w1
  · refine State.formed_modifyDev _ w1 ?_
    dsimp only
    exact Device.wf_store _ _ _ w1.1

@[simp] theorem Device.mem_writePlain (d : Device) (off : Nat) (x : Word) : (d.writePlain off x).mem = d.mem := by
  unfold Device.writePlain
  split <;> simp

@[simp] theorem Device.mem_writeQbase (d : Device) (q : QueueId) (x : Word) : (d.writeQbase q x).mem = d.mem := by
  unfold Device.writeQbase
  simp

theorem formedNext_writeCommand {s : State} {x : Word} (w : s.Formed) : FormedNext (s.writeCommand x) := by
  unfold State.writeCommand
  split
  · exact formedNext_execSvcFencecore w
  · exact formedNext_execSvcRetiremod w
  · exact formedNext_execSvcReturnmod w
  · exact formedNext_execSvcRecal w
  · exact formedNext_execSvcStagefw w
  · exact formedNext_execSvcAttest w
  · exact formedNext_service w fun _ w1 => w1

theorem formedNext_execRegisterWrite {offset : BitVec 20} {value : BitVec 64} {s : State} (w : s.Formed) :
    FormedNext (execRegisterWrite offset value s) := by
  unfold execRegisterWrite
  extract_lets off q
  clear_value off q
  split
  · split
    · exact (State.formed_updateDev (Device.mem_writeQbase _ _ _)).2 w
    · exact formedNext_execQctlWrite w
    · exact formedNext_execQtailWrite w
    · exact w
  · split
    · exact formedNext_execDevnumWrite w
    · exact formedNext_execMrsvWrite w
    · exact formedNext_execTinvGo w
    · split
      · exact formedNext_execRrInstall w
      · exact formedNext_execRrRemove w
      · exact w
    · exact formedNext_execRepheadWrite w
    · exact formedNext_writeCommand w
    · exact (State.formed_updateDev (Device.mem_writePlain _ _ _)).2 w

theorem formedNext_execHostBar2Access {offset : BitVec 36} {access : HostAccess} {data : BitVec 64} {s : State}
    (w : s.Formed) : FormedNext (execHostBar2Access offset access data s) := by
  unfold execHostBar2Access
  dsimp only
  split
  · exact w
  split
  · simp
  split
  · exact w
  · simp [w, State.formed_performStores]

theorem formedNext_execPowerOnBoot {boot : BootImage} {tvec fwroot : BitVec 64} {image : List Host.Cell} {s : State}
    (w : s.Formed) : FormedNext (execPowerOnBoot boot tvec fwroot image s) := by
  unfold execPowerOnBoot
  split
  · exact w
  · exact ⟨Device.wf_placeImage w.1, fun c => by simpa [State.core] using w.2 c⟩

theorem formedNext_execLinkStateChanged {quinsia : Bool} {link : BitVec 16} {lanes : BitVec 4} {s : State}
    (w : s.Formed) : FormedNext (execLinkStateChanged quinsia link lanes s) := by
  unfold execLinkStateChanged
  dsimp only
  split
  · split
    · exact w
    · simp [w]
  split
  · exact w
  · simp [w]

theorem formedNext_execDomainReachabilityChange {domain : BitVec 6} {reachable : Bool} {s : State} (w : s.Formed) :
    FormedNext (execDomainReachabilityChange domain reachable s) := by
  unfold execDomainReachabilityChange
  exact w

end Sys2Proof.Machine
end

section
/-!
Every instruction and every act of an agent keeps the memories in canonical form.
-/

namespace Sys2Proof.Machine

/-- The obligation for one instruction or act, by the lemma of its function; most arithmetic shares that of its family. -/
theorem formedNext_exec {s : State} (w : s.Formed) (i : Instr) : FormedNext (exec i s) := by
  cases i with
  | add => rw [exec_add, execAdd]; exact formedNext_scalarBinary w
  | sub => rw [exec_sub, execSub]; exact formedNext_scalarBinary w
  | mul => rw [exec_mul, execMul]; exact formedNext_scalarBinary w
  | mulhs => rw [exec_mulhs, execMulhs]; exact formedNext_scalarBinary w
  | mulhu => rw [exec_mulhu, execMulhu]; exact formedNext_scalarBinary w
  | divs => rw [exec_divs, execDivs]; exact formedNext_scalarBinary w
  | divu => rw [exec_divu, execDivu]; exact formedNext_scalarBinary w
  | rems => rw [exec_rems, execRems]; exact formedNext_scalarBinary w
  | remu => rw [exec_remu, execRemu]; exact formedNext_scalarBinary w
  | and => rw [exec_and, execAnd]; exact formedNext_scalarBinary w
  | or => rw [exec_or, execOr]; exact formedNext_scalarBinary w
  | xor => rw [exec_xor, execXor]; exact formedNext_scalarBinary w
  | andn => rw [exec_andn, execAndn]; exact formedNext_scalarBinary w
  | shl => rw [exec_shl, execShl]; exact formedNext_scalarBinary w
  | shr => rw [exec_shr, execShr]; exact formedNext_scalarBinary w
  | sra => rw [exec_sra, execSra]; exact formedNext_scalarBinary w
  | rotl => rw [exec_rotl, execRotl]; exact formedNext_scalarBinary w
  | clz => rw [exec_clz, execClz]; exact formedNext_scalarUnary w
  | ctz => rw [exec_ctz, execCtz]; exact formedNext_scalarUnary w
  | popc => rw [exec_popc, execPopc]; exact formedNext_scalarUnary w
  | mins => rw [exec_mins, execMins]; exact formedNext_scalarBinary w
  | maxs => rw [exec_maxs, execMaxs]; exact formedNext_scalarBinary w
  | minu => rw [exec_minu, execMinu]; exact formedNext_scalarBinary w
  | maxu => rw [exec_maxu, execMaxu]; exact formedNext_scalarBinary w
  | slt => rw [exec_slt, execSlt]; exact formedNext_scalarBinary w
  | sltu => rw [exec_sltu, execSltu]; exact formedNext_scalarBinary w
  | seq => rw [exec_seq, execSeq]; exact formedNext_scalarBinary w
  | cmov => exact formedNext_execCmov w
  | exts => rw [exec_exts, execExts]; exact formedNext_scalarBinary w
  | addi => exact formedNext_execAddi w
  | li => rw [exec_li, execLi]; exact formedNext_scalarConst w
  | fli => rw [exec_fli, execFli]; exact formedNext_scalarConst w
  | lc => rw [exec_lc, execLc]; exact formedNext_scalarConst w
  | fadd => rw [exec_fadd, execFadd]; exact formedNext_floatBinary w
  | fsub => rw [exec_fsub, execFsub]; exact formedNext_floatBinary w
  | fmul => rw [exec_fmul, execFmul]; exact formedNext_floatBinary w
  | fdiv => rw [exec_fdiv, execFdiv]; exact formedNext_floatBinary w
  | fsqrt => rw [exec_fsqrt, execFsqrt]; exact formedNext_floatUnary w
  | fmin => rw [exec_fmin, execFmin]; exact formedNext_floatBinary w
  | fmax => rw [exec_fmax, execFmax]; exact formedNext_floatBinary w
  | ffma => exact formedNext_execFfma w
  | feq => rw [exec_feq, execFeq]; exact formedNext_floatBinary w
  | flt => rw [exec_flt, execFlt]; exact formedNext_floatBinary w
  | fle => rw [exec_fle, execFle]; exact formedNext_floatBinary w
  | fcvtif => rw [exec_fcvtif, execFcvtif]; exact formedNext_floatUnary w
  | fcvtfi => rw [exec_fcvtfi, execFcvtfi]; exact formedNext_floatUnary w
  | fsgnj => rw [exec_fsgnj, execFsgnj]; exact formedNext_floatBinary w
  | fclass => rw [exec_fclass, execFclass]; exact formedNext_floatUnary w
  | br => exact formedNext_execBr w
  | jal => exact formedNext_execJal w
  | jr => exact formedNext_execJr w
  | jtab => exact formedNext_execJtab w
  | mark => exact formedNext_execMark w
  | strip => exact formedNext_execStrip w
  | ldb => rw [exec_ldb, execLdb]; exact formedNext_scalarLoad w
  | ldh => rw [exec_ldh, execLdh]; exact formedNext_scalarLoad w
  | ldw => rw [exec_ldw, execLdw]; exact formedNext_scalarLoad w
  | ldd => rw [exec_ldd, execLdd]; exact formedNext_scalarLoad w
  | ldbs => rw [exec_ldbs, execLdbs]; exact formedNext_scalarLoad w
  | ldhs => rw [exec_ldhs, execLdhs]; exact formedNext_scalarLoad w
  | ldws => rw [exec_ldws, execLdws]; exact formedNext_scalarLoad w
  | stb => rw [exec_stb, execStb]; exact formedNext_scalarStore w
  | sth => rw [exec_sth, execSth]; exact formedNext_scalarStore w
  | stw => rw [exec_stw, execStw]; exact formedNext_scalarStore w
  | std => rw [exec_std, execStd]; exact formedNext_scalarStore w
  | amoadd => rw [exec_amoadd, execAmoadd]; exact formedNext_scalarAtomic w
  | amoand => rw [exec_amoand, execAmoand]; exact formedNext_scalarAtomic w
  | amoor => rw [exec_amoor, execAmoor]; exact formedNext_scalarAtomic w
  | amoxor => rw [exec_amoxor, execAmoxor]; exact formedNext_scalarAtomic w
  | amomins => rw [exec_amomins, execAmomins]; exact formedNext_scalarAtomic w
  | amomaxs => rw [exec_amomaxs, execAmomaxs]; exact formedNext_scalarAtomic w
  | amominu => rw [exec_amominu, execAmominu]; exact formedNext_scalarAtomic w
  | amomaxu => rw [exec_amomaxu, execAmomaxu]; exact formedNext_scalarAtomic w
  | amoswap => rw [exec_amoswap, execAmoswap]; exact formedNext_scalarAtomic w
  | amocas => rw [exec_amocas, execAmocas]; exact formedNext_scalarAtomic w
  | amofadd => rw [exec_amofadd, execAmofadd]; exact formedNext_scalarAtomic w
  | vadd => rw [exec_vadd, execVadd]; exact formedNext_vectorBinary w
  | vsub => rw [exec_vsub, execVsub]; exact formedNext_vectorBinary w
  | vmul => rw [exec_vmul, execVmul]; exact formedNext_vectorBinary w
  | vmulhs => rw [exec_vmulhs, execVmulhs]; exact formedNext_vectorBinary w
  | vmulhu => rw [exec_vmulhu, execVmulhu]; exact formedNext_vectorBinary w
  | vmadd => exact formedNext_execVmadd w
  | vand => rw [exec_vand, execVand]; exact formedNext_vectorBinary w
  | vor => rw [exec_vor, execVor]; exact formedNext_vectorBinary w
  | vxor => rw [exec_vxor, execVxor]; exact formedNext_vectorBinary w
  | vshl => rw [exec_vshl, execVshl]; exact formedNext_vectorBinary w
  | vshr => rw [exec_vshr, execVshr]; exact formedNext_vectorBinary w
  | vsra => rw [exec_vsra, execVsra]; exact formedNext_vectorBinary w
  | vmins => rw [exec_vmins, execVmins]; exact formedNext_vectorBinary w
  | vmaxs => rw [exec_vmaxs, execVmaxs]; exact formedNext_vectorBinary w
  | vminu => rw [exec_vminu, execVminu]; exact formedNext_vectorBinary w
  | vmaxu => rw [exec_vmaxu, execVmaxu]; exact formedNext_vectorBinary w
  | vadc => rw [exec_vadc, execVadc]; exact formedNext_vectorCarry w
  | vsbc => rw [exec_vsbc, execVsbc]; exact formedNext_vectorCarry w
  | vcmpeq => rw [exec_vcmpeq, execVcmpeq]; exact formedNext_vectorCompare w
  | vcmplt => rw [exec_vcmplt, execVcmplt]; exact formedNext_vectorCompare w
  | vcmpltu => rw [exec_vcmpltu, execVcmpltu]; exact formedNext_vectorCompare w
  | vcmple => rw [exec_vcmple, execVcmple]; exact formedNext_vectorCompare w
  | vcmpleu => rw [exec_vcmpleu, execVcmpleu]; exact formedNext_vectorCompare w
  | vmerge => exact formedNext_execVmerge w
  | vabs => rw [exec_vabs, execVabs]; exact formedNext_vectorUnary w
  | vclz => rw [exec_vclz, execVclz]; exact formedNext_vectorUnary w
  | vpopc => rw [exec_vpopc, execVpopc]; exact formedNext_vectorUnary w
  | vnarrow => exact formedNext_execVnarrow w
  | vwidens => rw [exec_vwidens, execVwidens]; exact formedNext_vectorWiden w
  | vwidenu => rw [exec_vwidenu, execVwidenu]; exact formedNext_vectorWiden w
  | vfadd => rw [exec_vfadd, execVfadd]; exact formedNext_vfloatBinary w
  | vfsub => rw [exec_vfsub, execVfsub]; exact formedNext_vfloatBinary w
  | vfmul => rw [exec_vfmul, execVfmul]; exact formedNext_vfloatBinary w
  | vfdiv => rw [exec_vfdiv, execVfdiv]; exact formedNext_vfloatBinary w
  | vfsqrt => rw [exec_vfsqrt, execVfsqrt]; exact formedNext_vfloatUnary w
  | vfmin => rw [exec_vfmin, execVfmin]; exact formedNext_vfloatBinary w
  | vfmax => rw [exec_vfmax, execVfmax]; exact formedNext_vfloatBinary w
  | vffma => rw [exec_vffma, execVffma]; exact formedNext_vfloatFused w
  | vffms => rw [exec_vffms, execVffms]; exact formedNext_vfloatFused w
  | vfcmpeq => rw [exec_vfcmpeq, execVfcmpeq]; exact formedNext_vfloatCompare w
  | vfcmplt => rw [exec_vfcmplt, execVfcmplt]; exact formedNext_vfloatCompare w
  | vfcmple => rw [exec_vfcmple, execVfcmple]; exact formedNext_vfloatCompare w
  | vfabs => rw [exec_vfabs, execVfabs]; exact formedNext_vfloatUnary w
  | vfneg => rw [exec_vfneg, execVfneg]; exact formedNext_vfloatUnary w
  | vfclass => rw [exec_vfclass, execVfclass]; exact formedNext_vfloatUnary w
  | vfcvt => rw [exec_vfcvt, execVfcvt]; exact formedNext_convertElems w
  | vcvtif => rw [exec_vcvtif, execVcvtif]; exact formedNext_convertElems w
  | vcvtfi => rw [exec_vcvtfi, execVcvtfi]; exact formedNext_convertElems w
  | vquant => exact formedNext_execVquant w
  | vdequant => exact formedNext_execVdequant w
  | vamax => exact formedNext_execVamax w
  | amscl => exact formedNext_execAmscl w
  | vredsum => rw [exec_vredsum, execVredsum]; exact formedNext_reduce w
  | vredfsum => rw [exec_vredfsum, execVredfsum]; exact formedNext_reduce w
  | vredmax => rw [exec_vredmax, execVredmax]; exact formedNext_reduce w
  | vredmin => rw [exec_vredmin, execVredmin]; exact formedNext_reduce w
  | vredfmax => rw [exec_vredfmax, execVredfmax]; exact formedNext_reduce w
  | vredfmin => rw [exec_vredfmin, execVredfmin]; exact formedNext_reduce w
  | vredand => rw [exec_vredand, execVredand]; exact formedNext_reduce w
  | vredor => rw [exec_vredor, execVredor]; exact formedNext_reduce w
  | vslideup => rw [exec_vslideup, execVslideup]; exact formedNext_permuteBy w
  | vslidedn => rw [exec_vslidedn, execVslidedn]; exact formedNext_permuteBy w
  | vperm => rw [exec_vperm, execVperm]; exact formedNext_permuteTwo w
  | vcompress => rw [exec_vcompress, execVcompress]; exact formedNext_permuteOne w
  | vexpand => rw [exec_vexpand, execVexpand]; exact formedNext_permuteOne w
  | viota => exact formedNext_execViota w
  | vbcast => exact formedNext_execVbcast w
  | vextract => exact formedNext_execVextract w
  | vinsert => exact formedNext_execVinsert w
  | vtrans => rw [exec_vtrans, execVtrans]; exact formedNext_permuteOne w
  | vzip => rw [exec_vzip, execVzip]; exact formedNext_permuteTwo w
  | vunzip => rw [exec_vunzip, execVunzip]; exact formedNext_permuteBy w
  | mand => rw [exec_mand, execMand]; exact formedNext_maskOp w
  | mor => rw [exec_mor, execMor]; exact formedNext_maskOp w
  | mxor => rw [exec_mxor, execMxor]; exact formedNext_maskOp w
  | mandn => rw [exec_mandn, execMandn]; exact formedNext_maskOp w
  | mnot => rw [exec_mnot, execMnot]; exact formedNext_maskOp w
  | mmov => rw [exec_mmov, execMmov]; exact formedNext_maskOp w
  | msbf => rw [exec_msbf, execMsbf]; exact formedNext_maskOp w
  | msif => rw [exec_msif, execMsif]; exact formedNext_maskOp w
  | msof => rw [exec_msof, execMsof]; exact formedNext_maskOp w
  | mshup => rw [exec_mshup, execMshup]; exact formedNext_maskOp w
  | mshdn => rw [exec_mshdn, execMshdn]; exact formedNext_maskOp w
  | mset => rw [exec_mset, execMset]; exact formedNext_maskOp w
  | mclr => rw [exec_mclr, execMclr]; exact formedNext_maskOp w
  | mpop => rw [exec_mpop, execMpop]; exact formedNext_maskScan w
  | mfirst => rw [exec_mfirst, execMfirst]; exact formedNext_maskScan w
  | vld => rw [exec_vld, execVld]; exact formedNext_vectorLoad w
  | vlds => rw [exec_vlds, execVlds]; exact formedNext_vectorLoad w
  | vldff => exact formedNext_execVldff w
  | vst => rw [exec_vst, execVst]; exact formedNext_vectorStore w
  | vsts => rw [exec_vsts, execVsts]; exact formedNext_vectorStore w
  | vldx => exact formedNext_execVldx w
  | vstx => exact formedNext_execVstx w
  | vldl => exact formedNext_execVldl w
  | vstc => exact formedNext_execVstc w
  | vscadd => exact formedNext_execVscadd w
  | cappend => exact formedNext_execCappend w
  | sspec => exact formedNext_execSspec w
  | sbind => rw [exec_sbind]; exact formedNext_execSbind w
  | sunbind => exact formedNext_execSunbind w
  | sbar => exact formedNext_execSbar w
  | scond => exact formedNext_execScond w
  | spos => exact formedNext_execSpos w
  | sstart => exact formedNext_execSstart w
  | swait => exact formedNext_execSwait w
  | vconf => exact formedNext_execVconf w
  | vsetl => exact formedNext_execVsetl w
  | vsetr => exact formedNext_execVsetr w
  | vsetcfg => exact formedNext_execVsetcfg w
  | vsetst => exact formedNext_execVsetst w
  | gang => exact formedNext_execGang w
  | ungang => exact formedNext_execUngang w
  | vsave => exact formedNext_execVsave w
  | vrestore => exact formedNext_execVrestore w
  | vcfgrd => exact formedNext_execVcfgrd w
  | mma => exact formedNext_execMma w
  | zscacc => exact formedNext_execZscacc w
  | zzero => exact formedNext_execZzero w
  | zrel => exact formedNext_execZrel w
  | zext => exact formedNext_execZext w
  | zins => exact formedNext_execZins w
  | zsave => exact formedNext_execZsave w
  | zload => exact formedNext_execZload w
  | zamax => exact formedNext_execZamax w
  | mdset => exact formedNext_execMdset w
  | mdadv => exact formedNext_execMdadv w
  | zstat => exact formedNext_execZstat w
  | kset => exact formedNext_execKset w
  | kseed => exact formedNext_execKseed w
  | korg => exact formedNext_execKorg w
  | vgen => exact formedNext_execVgen w
  | kget => exact formedNext_execKget w
  | cpy => exact formedNext_execCpy w
  | cpymma => exact formedNext_execCpymma w
  | cpywait => exact formedNext_execCpywait w
  | cbinit => exact formedNext_execCbinit w
  | cbwait => exact formedNext_execCbwait w
  | cbrel => exact formedNext_execCbrel w
  | cbstat => exact formedNext_execCbstat w
  | acq => exact formedNext_execAcq w
  | rel => exact formedNext_execRel w
  | bind => exact formedNext_execBind w
  | unbind => exact formedNext_execUnbind w
  | wmpub => exact formedNext_execWmpub w
  | wmlink => exact formedNext_execWmlink w
  | bar => exact formedNext_execBar w
  | barjoin => exact formedNext_execBarjoin w
  | barleave => exact formedNext_execBarleave w
  | notify => exact formedNext_execNotify w
  | waitn => exact formedNext_execWaitn w
  | pinit => exact formedNext_execPinit w
  | pfill => exact formedNext_execPfill w
  | peq => exact formedNext_execPeq w
  | pwait => exact formedNext_execPwait w
  | ptest => exact formedNext_execPtest w
  | xred => exact formedNext_execXred w
  | xbar => exact formedNext_execXbar w
  | xwait => exact formedNext_execXwait w
  | launch => rw [exec_launch, execLaunch]; exact formedNext_launchWith w
  | launchnb => rw [exec_launchnb, execLaunchnb]; exact formedNext_launchWith w
  | cancel => exact formedNext_execCancel w
  | cwait => exact formedNext_execCwait w
  | self => exact formedNext_execSelf w
  | cntrd => exact formedNext_execCntrd w
  | trap => exact formedNext_execTrap w
  | sysrd => exact formedNext_execSysrd w
  | rdcyc => exact formedNext_execRdcyc w
  | rdnrg => exact formedNext_execRdnrg w
  | kfreq => exact formedNext_execKfreq w
  | syswr => exact formedNext_execSyswr w
  | slotset => exact formedNext_execSlotset w
  | ctxswSout => rw [exec_ctxswSout, execCtxswSout]; exact formedNext_contextOp w fun _ _ w1 => carries_switchOutOp w1
  | ctxswSin => rw [exec_ctxswSin, execCtxswSin]; exact formedNext_contextOp w fun _ _ w1 => carries_switchInOp w1
  | ctxswVout => rw [exec_ctxswVout, execCtxswVout]; exact formedNext_contextOp w fun _ _ w1 => carries_vectorOutOp w1
  | ctxswVin => rw [exec_ctxswVin, execCtxswVin]; exact formedNext_contextOp w fun _ _ w1 => carries_vectorInOp w1
  | ctxswZout => rw [exec_ctxswZout, execCtxswZout]; exact formedNext_contextOp w fun _ _ w1 => carries_accumOutOp w1
  | ctxswZin => rw [exec_ctxswZin, execCtxswZin]; exact formedNext_contextOp w fun _ _ w1 => carries_accumInOp w1
  | wfn => exact formedNext_execWfn w
  | apf => exact formedNext_execApf w
  | ahome => exact formedNext_execAhome w
  | aprio => exact formedNext_execAprio w
  | aorder => exact formedNext_execAorder w
  | awake => exact formedNext_execAwake w
  | aj => exact formedNext_execAj w
  | aloop => exact formedNext_execAloop w
  | aadd => exact formedNext_execAadd w
  | ali => exact formedNext_execAli w
  | asnap => exact formedNext_execAsnap w
  | await => exact formedNext_execAwait w
  | stripc => exact formedNext_execStripc w
  | fenceFull => rw [exec_fenceFull, execFenceFull]; exact formedNext_releaseFence w
  | fenceRel => rw [exec_fenceRel, execFenceRel]; exact formedNext_releaseFence w
  | fenceAcq => exact formedNext_execFenceAcq w
  | fenceIfetch => exact formedNext_execFenceIfetch w
  | exit => exact formedNext_execExit w
  | rteResume => rw [exec_rteResume, execRteResume]; exact formedNext_rte w
  | rteKill => rw [exec_rteKill, execRteKill]; exact formedNext_rte w
  | brk => exact formedNext_execBrk w
  | aend => exact formedNext_execAend w
  | secondMarkConsume => exact formedNext_execSecondMarkConsume w
  | adviceActionAccept => exact formedNext_execAdviceActionAccept w
  | fatalError => exact formedNext_execFatalError w
  | laneError => exact formedNext_execLaneError w
  | correctedError => exact formedNext_execCorrectedError w
  | arbiterSelection => exact formedNext_execArbiterSelection w
  | arbiterBoundary => exact formedNext_execArbiterBoundary w
  | launchPlacement => exact formedNext_execLaunchPlacement w
  | descriptorArrival => exact formedNext_execDescriptorArrival w
  | qtailWrite => exact formedNext_execQtailWrite w
  | qctlWrite => exact formedNext_execQctlWrite w
  | hartCancelled => exact formedNext_execHartCancelled w
  | hartFenced => exact formedNext_execHartFenced w
  | issueCycle => exact formedNext_execIssueCycle w
  | activityMeterCycle => exact formedNext_execActivityMeterCycle w
  | pageEpoch => exact formedNext_execPageEpoch w
  | frameMoveSwitch => exact formedNext_execFrameMoveSwitch w
  | moduleUncorrectableError => exact formedNext_execModuleUncorrectableError w
  | bufferWordError => exact formedNext_execBufferWordError w
  | striplost => exact formedNext_execStriplost w
  | linkFailure => exact formedNext_execLinkFailure w
  | moduleRetireComplete => exact formedNext_execModuleRetireComplete w
  | copyCommandStart => exact formedNext_execCopyCommandStart w
  | copyCommandComplete => exact formedNext_execCopyCommandComplete w
  | mmaComplete => exact formedNext_execMmaComplete w
  | longLatencyResult => exact formedNext_execLongLatencyResult w
  | stripCommitComplete => exact formedNext_execStripCommitComplete w
  | scatterAddPerform => exact formedNext_execScatterAddPerform w
  | streamElementFetch => exact formedNext_execStreamElementFetch w
  | streamConditionRead => exact formedNext_execStreamConditionRead w
  | streamDoneadd => exact formedNext_execStreamDoneadd w
  | remotePushPerform => exact formedNext_execRemotePushPerform w
  | remoteStreamRequest => exact formedNext_execRemoteStreamRequest w
  | xredPacketArrival => exact formedNext_execXredPacketArrival w
  | acqGrant => exact formedNext_execAcqGrant w
  | waiterPoll => exact formedNext_execWaiterPoll w
  | watermarkRelease => exact formedNext_execWatermarkRelease w
  | queueWeightWrite => exact formedNext_execQueueWeightWrite w
  | powerControllerUpdate => exact formedNext_execPowerControllerUpdate w
  | powerHoldExpire => exact formedNext_execPowerHoldExpire w
  | switchOpeningComplete => exact formedNext_execSwitchOpeningComplete w
  | inrushGrant => exact formedNext_execInrushGrant w
  | turnOnComplete => exact formedNext_execTurnOnComplete w
  | gcapWrite => exact formedNext_execGcapWrite w
  | actwWrite => exact formedNext_execActwWrite w
  | lanemapWrite => exact formedNext_execLanemapWrite w
  | mrsvWrite => exact formedNext_execMrsvWrite w
  | fwrootWrite => exact formedNext_execFwrootWrite w
  | devnumWrite => exact formedNext_execDevnumWrite w
  | tinvGo => exact formedNext_execTinvGo w
  | tinvComplete => exact formedNext_execTinvComplete w
  | rrInstall => exact formedNext_execRrInstall w
  | rrRemove => exact formedNext_execRrRemove w
  | repheadWrite => exact formedNext_execRepheadWrite w
  | svcFencecore => exact formedNext_execSvcFencecore w
  | svcRetiremod => exact formedNext_execSvcRetiremod w
  | svcReturnmod => exact formedNext_execSvcReturnmod w
  | svcRecal => exact formedNext_execSvcRecal w
  | recalLaneReturn => exact formedNext_execRecalLaneReturn w
  | svcStagefw => exact formedNext_execSvcStagefw w
  | svcAttest => exact formedNext_execSvcAttest w
  | registerWrite => rw [exec_registerWrite]; exact formedNext_execRegisterWrite w
  | hostBar2Access => exact formedNext_execHostBar2Access w
  | powerOnBoot => exact formedNext_execPowerOnBoot w
  | deviceReset => exact formedNext_execDeviceReset
  | linkStateChanged => exact formedNext_execLinkStateChanged w
  | domainReachabilityChange => exact formedNext_execDomainReachabilityChange w
  | sliceUncorrectableError => exact formedNext_execSliceUncorrectableError w
  | clusterClockChange => rw [exec_clusterClockChange]; exact formedNext_execClusterClockChange w
  | jobRetired => exact formedNext_execJobRetired w

end Sys2Proof.Machine
end

section
/-!
From the instructions to the step: what comes before an instruction's own checks, the acts of the agenda, the deeds of the
model's own order, and the cycle of a core.
-/

namespace Sys2Proof.Machine

theorem carries_nextInstr {s : State} (w : s.Formed) : Carries (fun r => r.2.Formed) s.nextInstr := by
  unfold State.nextInstr
  split
  · exact (State.formed_modifyMe _).2 (State.formed_leaveQueues w)
  · extract_lets pc
    split
    · exact carries_raise _ _ w
    split
    · exact carries_raiseAhead _ _ w
    · next ws s1 h =>
      have w1 : s1.Formed := State.formed_of_fetchBlock h w
      extract_lets n word lit cur s2
      have w2 : s2.Formed := (State.formed_frame _ _ _).2 ((State.formed_modifyMe _).2 w1)
      split
      · exact carries_raise _ _ w1
      split
      · exact carries_raise _ _ w2
      split
      · exact carries_raise _ _ w2
      · split
        · exact w2
        · exact carries_raise _ _ w2

theorem formedNext_runIssued {s : State} (w : s.Formed) : FormedNext s.runIssued := by
  unfold State.runIssued
  split
  · exact State.formed_stall.2 w
  · split
    · next h => exact formedNext_finish ((carries_nextInstr w).stop h)
    · next h => exact formedNext_exec ((carries_nextInstr w).ok h) _

theorem State.formed_of_nextAdvice {s t : State} (h : s.nextAdvice = .error t) (w : s.Formed) : t.Formed := by
  have wi : s.adviceIdle.Formed := State.formed_adviceIdle.2 w
  have wd (n : Nat) : (s.dropWord n).Formed := State.formed_dropWord.2 w
  unfold State.nextAdvice at h
  split at h
  · cases h; exact w
  split at h
  · cases h; exact wi
  dsimp only at h
  split at h
  · cases h; exact wi
  split at h
  · cases h; exact wd _
  split at h
  · cases h; exact wd _
  split at h
  · cases h; exact wd _
  split at h
  · cases h
  · cases h; exact wd _

theorem formedNext_runSecond {s : State} (w : s.Formed) : FormedNext s.runSecond := by
  unfold State.runSecond
  split
  · next h => exact State.formed_of_nextAdvice h w
  · exact formedNext_exec w _

theorem formedNext_perform {s : State} (w : s.Formed) : (a : Act) → FormedNext (s.perform a)
  | .event i => formedNext_ite (formedNext_exec w i) w
  | .second _ _ => formedNext_runSecond ((State.formed_actingAs _ _).2 w)
  | .ended _ _ => State.formed_endElsewhere w
  | .translationKept _ _ _ =>
    (State.formed_frame _ _ _).2 (State.formed_keepTranslation.2 ((State.formed_actingAs _ _).2 w))
  | .translationDropped _ _ => (State.formed_updateCore rfl rfl).2 w
  | .commitPace _ _ _ => (State.formed_setHart _ _ _).2 w

theorem formedNext_runIfIssued {s : State} (w : s.Formed) : FormedNext s.runIfIssued :=
  formedNext_ite (formedNext_runIssued ((State.formed_frame _ _ _).2 w)) w

theorem formedNext_performAndIssue {s : State} (w : s.Formed) (a : Act) : FormedNext (s.performAndIssue a) := by
  have h := formedNext_perform w a
  unfold State.performAndIssue
  cases ha : s.perform a with
  | next t => exact formedNext_runIfIssued (s := t) (by simpa [ha] using h)
  | fault e => trivial
  | refused e => trivial

/-! ### The model's own order -/

/-- The deed keeps the memories in canonical form. -/
def Deed.Keeps (d : Deed) : Prop := ∀ s : State, s.Formed → FormedNext (d s)

theorem addWhenDue_keeps (c : CoreId) (x : CtxId) (i : StreamId) : Deed.Keeps (addWhenDue c x i) := fun _ w =>
  formedNext_ite (formedNext_execStreamDoneadd w) w

theorem contextDeeds_keep (c : CoreId) (x : CtxId) : ∀ d ∈ contextDeeds c x, Deed.Keeps d := by
  simp only [contextDeeds, List.forall_mem_append, List.forall_mem_cons, List.not_mem_nil,
    IsEmpty.forall_iff, implies_true, List.forall_mem_flatMap, and_true]
  refine ⟨⟨?_, ?_, ?_, ?_, ?_⟩, fun i _ => ⟨?_, ?_, addWhenDue_keeps c x i⟩⟩
  · exact fun _ w => formedNext_execCopyCommandStart w
  · exact fun _ w => formedNext_execCopyCommandComplete w
  · exact fun _ w => formedNext_execMmaComplete w
  · exact fun _ w => formedNext_execStripCommitComplete w
  · exact fun _ w => formedNext_execLongLatencyResult w
  · exact fun _ w => formedNext_execStreamConditionRead w
  · exact fun _ w => formedNext_execStreamElementFetch w

theorem userDeeds_keep (c : CoreId) (x : UserCtx) : ∀ d ∈ userDeeds c x, Deed.Keeps d := by
  simp only [userDeeds, List.forall_mem_cons, List.not_mem_nil, IsEmpty.forall_iff, implies_true, and_true]
  refine ⟨?_, ?_, ?_, ?_, ?_, ?_, ?_⟩
  · exact fun _ w => formedNext_execAcqGrant w
  · exact fun _ w => formedNext_execWaiterPoll w
  · exact fun _ w => formedNext_execHartCancelled w
  · exact fun _ w => formedNext_execHartFenced w
  · exact fun _ w => formedNext_execSecondMarkConsume w
  · exact fun _ w => formedNext_execAdviceActionAccept w
  · exact fun _ w => formedNext_runSecond ((State.formed_actingAs _ _).2 w)

theorem powerDeeds_keep (c : CoreId) : ∀ d ∈ powerDeeds c, Deed.Keeps d := by
  simp only [powerDeeds, List.forall_mem_append, List.forall_mem_flatMap, List.forall_mem_map, List.forall_mem_cons,
    List.not_mem_nil, IsEmpty.forall_iff, implies_true, and_true]
  refine ⟨⟨⟨?_, ?_⟩, fun g _ => ⟨?_, ?_⟩⟩, fun g _ => ?_⟩
  · exact fun _ w => formedNext_execPowerHoldExpire w
  · exact fun _ w => formedNext_execSwitchOpeningComplete w
  · exact fun _ w => formedNext_execPowerHoldExpire w
  · exact fun _ w => formedNext_execSwitchOpeningComplete w
  · exact fun _ w => formedNext_execTurnOnComplete w

theorem State.deviceDeeds_keep (s : State) : ∀ d ∈ s.deviceDeeds, Deed.Keeps d := by
  simp only [State.deviceDeeds, List.forall_mem_append, List.forall_mem_map, List.forall_mem_cons, List.not_mem_nil,
    IsEmpty.forall_iff, implies_true, and_true]
  refine ⟨⟨⟨⟨⟨⟨⟨⟨?_, ?_, ?_, ?_⟩, ?_⟩, ?_⟩, ?_⟩, ?_⟩, ?_⟩, ?_⟩, ?_⟩
  · exact fun _ w => formedNext_execArbiterSelection w
  · exact fun _ w => formedNext_execLaunchPlacement w
  · exact fun _ w => formedNext_execInrushGrant w
  · exact fun _ w => formedNext_execTinvComplete w
  · exact fun _ _ _ w => formedNext_execArbiterBoundary w
  · split <;> simp only [List.forall_mem_cons, List.not_mem_nil, IsEmpty.forall_iff, implies_true, and_true]
    exact fun _ w => formedNext_execRrRemove w
  · intro d hd
    obtain ⟨o, -, ho⟩ := List.mem_filterMap.1 hd
    split at ho
    · split at ho <;> cases ho
      exact fun _ w => formedNext_execXredPacketArrival w
    · cases ho
  · split <;> simp only [List.forall_mem_cons, List.not_mem_nil, IsEmpty.forall_iff, implies_true, and_true]
    exact fun _ w => formedNext_execXredPacketArrival w
  · exact fun _ _ _ w => formedNext_execFrameMoveSwitch w
  · exact fun _ _ _ w => formedNext_execModuleRetireComplete w
  · exact fun _ _ _ w => formedNext_execRecalLaneReturn w

theorem mem_of_mem_rotateLeft {α : Type} {xs : List α} {n : Nat} {x : α} (h : x ∈ xs.rotateLeft n) : x ∈ xs := by
  unfold List.rotateLeft at h
  dsimp only at h
  split at h
  · exact h
  · rcases List.mem_append.1 h with h | h
    · exact List.mem_of_mem_drop h
    · exact List.mem_of_mem_take h

theorem State.deeds_keep (s : State) : ∀ d ∈ s.deeds, Deed.Keeps d := by
  intro d hd
  unfold State.deeds at hd
  rcases List.mem_append.1 (mem_of_mem_rotateLeft hd) with h | h
  · exact s.deviceDeeds_keep d h
  · obtain ⟨c, -, h⟩ := List.mem_flatMap.1 h
    rcases List.mem_append.1 h with h | h
    · rcases List.mem_append.1 h with h | h
      · obtain ⟨x, -, h⟩ := List.mem_flatMap.1 h
        exact contextDeeds_keep c x d h
      · obtain ⟨x, -, h⟩ := List.mem_flatMap.1 h
        exact userDeeds_keep c x d h
    · exact powerDeeds_keep c d h

theorem State.formed_firstDeed {s : State} (w : s.Formed) : (ds : List Deed) → (∀ d ∈ ds, Deed.Keeps d) →
    (s.firstDeed ds).Formed
  | [], _ => w
  | d :: ds, h => by
    have hd := h d List.mem_cons_self s w
    have hds := State.formed_firstDeed w ds fun e he => h e (List.mem_cons_of_mem _ he)
    unfold State.firstDeed
    split
    · next t ht =>
      rw [ht] at hd
      dsimp only
      split
      · exact hds
      · exact (State.formed_frame _ _ _).2 hd
    · exact hds

theorem State.formed_of_freeStep {s t : State} (w : s.Formed) (h : s.freeStep = .next t) : t.Formed := by
  unfold State.freeStep at h
  have w1 : (s.firstDeed s.deeds).Formed := State.formed_firstDeed w s.deeds s.deeds_keep
  generalize s.firstDeed s.deeds = s1 at h w1
  have hr := formedNext_runIfIssued
    (State.formed_beginCycle (c := s1.nextCore) (State.formed_meterCycle (c := s1.nextCore) w1))
  rw [h] at hr
  exact hr

theorem formedNext_advance {s : State} (w : s.Formed) : FormedNext s.advance := by
  unfold State.advance
  extract_lets cur s1
  have w1 : s1.Formed := (State.formed_frame _ _ _).2 w
  clear_value s1
  split
  · refine formedNext_performAndIssue ?_ _
    exact (State.formed_frame _ _ _).2 w1
  · cases h : s1.freeStep with
    | next t => exact State.formed_of_freeStep w1 h
    | fault e => trivial
    | refused e => trivial

theorem formedNext_step {s : State} (w : s.Formed) : FormedNext (step s) := formedNext_advance w

/-- Settles O59: every instruction and every act of an agent leaves main memory and the typed buffers in canonical form
(`formedNext_exec`), and a step is made of these. -/
theorem stepKeepsMemoryForm : Obligations.StepKeepsMemoryForm := by
  unfold Obligations.StepKeepsMemoryForm
  intro s t hmem hbufs hstep
  have h := formedNext_step (s := s) ⟨hmem, hbufs⟩
  rw [hstep] at h
  exact h

end Sys2Proof.Machine
end

section
/-!
Encoding and decoding agree (O55).  A word of each format has the fields that the encoder put into it (`IsR`, `IsM`), as the
decoder takes them out; `ReadsBack` says of an instruction that its words fit and are read as it, and each layout of
operands gets one lemma.
-/

namespace Sys2Proof.Laws.ReadBack

open Sys2Proof Sys2Proof.Laws.WordForm

/-! ### The fields of a word -/

/-- The word `w` has these fields of format R (R38); ranges of adjoining fields are those that the decoder tests. -/
structure IsR (w maj D A B BK FA FB FN : Nat) : Prop where
  major : w / 2 ^ 26 = maj
  fn : field w 0 4 = FN
  fb : field w 4 1 = FB
  fa : field w 5 1 = FA
  bk : field w 6 2 = BK
  b : field w 8 6 = B
  a : field w 14 6 = A
  d : field w 20 6 = D
  low : w % 2 ^ 8 = BK * 2 ^ 6 + FA * 2 ^ 5 + FB * 2 ^ 4 + FN
  ready : field w 4 2 = FA * 2 + FB
  faBk : field w 5 3 = BK * 2 + FA
  readyBk : field w 4 4 = BK * 4 + FA * 2 + FB
  bBk : field w 6 8 = B * 4 + BK
  belowA : field w 4 10 = B * 2 ^ 4 + BK * 4 + FA * 2 + FB
  belowD : field w 4 16 = A * 2 ^ 10 + B * 2 ^ 4 + BK * 4 + FA * 2 + FB
  belowMajor : field w 4 22 = D * 2 ^ 16 + A * 2 ^ 10 + B * 2 ^ 4 + BK * 4 + FA * 2 + FB
  da : field w 14 12 = D * 2 ^ 6 + A
  dBits : bits w 20 6 = BitVec.ofNat 6 D
  aBits : bits w 14 6 = BitVec.ofNat 6 A
  bBits : bits w 8 6 = BitVec.ofNat 6 B
  bkBits : bits w 6 2 = BitVec.ofNat 2 BK

theorem isR_wordR {maj d a b k fa fb fn : Nat} (hd : d < 2 ^ 6) (ha : a < 2 ^ 6) (hb : b < 2 ^ 6) (hk : k < 2 ^ 2)
    (hfa : fa < 2 ^ 1) (hfb : fb < 2 ^ 1) (hfn : fn < 2 ^ 4) : IsR (wordR maj d a b k fa fb fn) maj d a b k fa fb fn := by
  generalize hw : wordR maj d a b k fa fb fn = w
  unfold wordR at hw
  constructor
  case dBits | aBits | bBits | bkBits =>
    refine BitVec.eq_of_toNat_eq ?_
    simp only [bits, BitVec.toNat_ofNat]
    omega
  case major | low => omega
  all_goals
    unfold field
    omega

/-- The word `w` has these fields of format M (R38). -/
structure IsM (w maj D A off FA FB FN : Nat) : Prop where
  major : w / 2 ^ 26 = maj
  fn : field w 0 4 = FN
  fb : field w 4 1 = FB
  fa : field w 5 1 = FA
  offBits : bits w 6 8 = BitVec.ofNat 8 off
  dBits : bits w 20 6 = BitVec.ofNat 6 D
  aBits : bits w 14 6 = BitVec.ofNat 6 A

theorem isM_wordM {maj d a off fa fb fn : Nat} (hd : d < 2 ^ 6) (ha : a < 2 ^ 6) (ho : off < 2 ^ 8)
    (hfa : fa < 2 ^ 1) (hfb : fb < 2 ^ 1) (hfn : fn < 2 ^ 4) : IsM (wordM maj d a off fa fb fn) maj d a off fa fb fn := by
  generalize hw : wordM maj d a off fa fb fn = w
  unfold wordM at hw
  constructor
  case dBits | aBits | offBits =>
    refine BitVec.eq_of_toNat_eq ?_
    simp only [bits, BitVec.toNat_ofNat]
    omega
  case major => omega
  all_goals
    unfold field
    omega

theorem bit_le_one (x : Bool) : bit x ≤ 1 := Nat.le_of_lt_succ (bit_lt x)

@[simp] theorem bit_beq_one (x : Bool) : (bit x == 1) = x := by cases x <;> rfl

/-- Bits of a word that stand for the value of a bit vector are that vector. -/
theorem bits_eq {w n : Nat} (lo : Nat) (x : BitVec n) (h : w / 2 ^ lo % 2 ^ n = x.toNat) : bits w lo n = x :=
  BitVec.eq_of_toNat_eq (by simpa [bits] using h)

theorem flag_eq {w lo : Nat} (x : Bool) (h : w / 2 ^ lo % 2 ^ 1 = bit x) : flag w lo = x := by
  simp only [flag, field, h, bit_beq_one]

/-- The fields of an MMA word (R236), whose FMT, KN and ACC stand where BK, FA, FB and FN of format R do. -/
theorem IsR.mma {w maj z a b : Nat} {fmt : BitVec 4} {kn : BitVec 2} {acc : Bool}
    (h : IsR w maj z a b (fmt.toNat / 4) (fmt.toNat / 2 % 2) (fmt.toNat % 2) (kn.toNat * 4 + bit acc * 2)) :
    bits w 4 4 = fmt ∧ bits w 2 2 = kn ∧ flag w 1 = acc ∧ field w 0 1 = 0 := by
  have hlow := h.low
  have hacc := bit_lt acc
  exact ⟨bits_eq 4 fmt (by omega), bits_eq 2 kn (by omega), flag_eq acc (by omega), by unfold field; omega⟩

theorem isR_mma (z a b : Reg) (fmt : BitVec 4) (kn : BitVec 2) (acc : Bool) :
    IsR (wordR 0x30 z.toNat a.toNat b.toNat (fmt.toNat / 4) (fmt.toNat / 2 % 2) (fmt.toNat % 2)
      (kn.toNat * 4 + bit acc * 2)) 0x30 z.toNat a.toNat b.toNat (fmt.toNat / 4) (fmt.toNat / 2 % 2) (fmt.toNat % 2)
      (kn.toNat * 4 + bit acc * 2) :=
  have hacc := bit_lt acc
  isR_wordR z.isLt a.isLt b.isLt (by omega) (by omega) (by omega) (by omega)

/-! ### Source B -/

theorem code_lt (b : Src) : b.code < 2 ^ 6 := by
  cases b with
  | reg r fb | scalar r fb => exact r.isLt
  | const n => exact n.isLt
  | lit w => exact Nat.two_pow_pos 6

theorem kind_lt (b : Src) : b.kind < 2 ^ 2 := by cases b <;> simp [Src.kind]

theorem ready_lt (b : Src) : b.ready < 2 ^ 1 := by
  cases b with
  | reg r fb | scalar r fb => exact bit_lt fb
  | const n | lit w => exact Nat.two_pow_pos 1

theorem decodeSource_of_isR {w maj d a fa fn : Nat} {b : Src} (lit : Nat)
    (h : IsR w maj d a b.code b.kind fa b.ready fn) : decodeSource w (b.literal.headD lit) = .ok b := by
  unfold decodeSource flag
  rw [h.bk, h.bBits, h.fb, h.b]
  cases b <;> simp [Src.kind, Src.ready, Src.code, Src.literal]

theorem ready_of_isAdviceKind {b : Src} (h : b.isAdviceKind = true) : b.ready = 0 := by
  cases b <;> simp_all [Src.isAdviceKind, Src.ready, Sys2Proof.bit]

theorem ready_of_isTargetKind {b : Src} (h : b.isTargetKind = true) : b.ready = 0 := by
  cases b <;> simp_all [Src.isTargetKind, Src.ready, Sys2Proof.bit]

theorem withSource_of_isR {w maj d a fa fn : Nat} {b : Src} (lit : Nat) (mk : Src → Except DecodeError Instr)
    (h : IsR w maj d a b.code b.kind fa b.ready fn) : withSource w (b.literal.headD lit) mk = mk b := by
  rw [withSource, decodeSource_of_isR lit h]

/-! ### Instructions that are read back -/

/-- The words of an instruction fit (R42, R43), and the decoder reads the instruction from the first of them, its trailing
word being the second, or whatever follows. -/
def ReadsBack (i : Instr) : Prop :=
  Fits (encodeNat i) ∧ ∀ w lits lit, encodeNat i = w :: lits → decodeWord w (lits.headD lit) = .ok i

theorem ReadsBack.ofNone {i : Instr} (e : encodeNat i = []) : ReadsBack i :=
  ⟨e ▸ WordForm.ofNone, fun _ _ _ h => by simp [e] at h⟩

theorem ReadsBack.ofOne {i : Instr} {w : Nat} (e : encodeNat i = [w]) (hf : Fits [w]) (h : ∀ lit, decodeWord w lit = .ok i) :
    ReadsBack i :=
  ⟨e ▸ hf, fun _ _ lit h' => by cases e.symm.trans h'; exact h lit⟩

theorem ReadsBack.ofR {i : Instr} {maj d a b k fa fb fn : Nat} (e : encodeNat i = [wordR maj d a b k fa fb fn])
    (h : ∀ w lit, IsR w maj d a b k fa fb fn → decodeWord w lit = .ok i)
    (hj : maj < 2 ^ 6 := by decide)
    (hd : d < 2 ^ 6 := by omega)
    (ha : a < 2 ^ 6 := by omega)
    (hb : b < 2 ^ 6 := by omega)
    (hk : k < 2 ^ 2 := by omega)
    (hfa : fa < 2 ^ 1 := by simp [bit_le_one])
    (hfb : fb < 2 ^ 1 := by simp [bit_le_one])
    (hfn : fn < 2 ^ 4 := by decide)
    (hl : k ≠ 3 ∨ bearers.contains maj = false := by decide) : ReadsBack i :=
  .ofOne e (WordForm.ofR hj hd ha hb hk hfa hfb hfn hl) fun lit => h _ lit (isR_wordR hd ha hb hk hfa hfb hfn)

theorem ReadsBack.ofS {i : Instr} {maj d a fa fn : Nat} {b : Src} (e : encodeNat i = wordS maj d a b fa fn)
    (h : ∀ w lit, IsR w maj d a b.code b.kind fa b.ready fn → (∀ mk, withSource w lit mk = mk b) → decodeWord w lit = .ok i)
    (hj : maj < 2 ^ 6 ∧ bearers.contains maj = true := by decide)
    (hd : d < 2 ^ 6 := by omega)
    (ha : a < 2 ^ 6 := by omega)
    (hfa : fa < 2 ^ 1 := by simp [bit_le_one])
    (hfn : fn < 2 ^ 4 := by decide) : ReadsBack i := by
  refine ⟨e ▸ WordForm.ofS b hj hd ha hfa hfn, fun w lits lit h' => ?_⟩
  cases e.symm.trans h'
  have hw := isR_wordR (maj := maj) hd ha (code_lt b) (kind_lt b) hfa (ready_lt b) hfn
  exact h _ _ hw fun mk => withSource_of_isR lit mk hw

theorem ReadsBack.ofIA {i : Instr} {maj d : Nat} {imm : BitVec 20} (e : encodeNat i = [wordIA maj d imm.toNat])
    (h : ∀ w lit, w / 2 ^ 26 = maj → field w 20 6 = d → bits w 20 6 = BitVec.ofNat 6 d → bits w 0 20 = imm →
      decodeWord w lit = .ok i)
    (hj : maj < 2 ^ 6 := by decide)
    (hd : d < 2 ^ 6 := by omega)
    (hl : bearers.contains maj = false := by decide) : ReadsBack i := by
  refine .ofOne e (WordForm.ofIA hj hd imm.isLt hl) fun lit => ?_
  generalize hw : wordIA maj d imm.toNat = w
  unfold wordIA at hw
  exact h w lit (by omega) (by unfold field; omega) (bits_eq 20 _ (by rw [BitVec.toNat_ofNat]; omega)) (bits_eq 0 imm (by omega))

theorem ReadsBack.ofM {i : Instr} {maj d a off fa fb fn : Nat} (e : encodeNat i = [wordM maj d a off fa fb fn])
    (h : ∀ w lit, IsM w maj d a off fa fb fn → decodeWord w lit = .ok i)
    (hj : maj < 2 ^ 6 := by decide)
    (hd : d < 2 ^ 6 := by exact BitVec.isLt _)
    (ha : a < 2 ^ 6 := by exact BitVec.isLt _)
    (ho : off < 2 ^ 8 := by exact BitVec.isLt _)
    (hfa : fa < 2 ^ 1 := by exact bit_lt _)
    (hfb : fb < 2 ^ 1 := by simp [bit_le_one])
    (hfn : fn < 2 ^ 4 := by decide)
    (hl : bearers.contains maj = false := by decide) : ReadsBack i :=
  .ofOne e (WordForm.ofM hj hd ha ho hfa hfb hfn hl) fun lit => h _ lit (isM_wordM hd ha ho hfa hfb hfn)

/-- The operands of an instruction as its words hold them: D and A with a source B in format R (R40), D and A with FA
alone, others in format R, or another format or no word at all (R38). -/
inductive Layout where
  | source
  | unary
  | fields
  | other

def layout : Instr → Layout
  | .add .. | .sub .. | .mul .. | .mulhs .. | .mulhu .. | .divs .. | .divu .. | .rems .. | .remu .. | .and ..
  | .or .. | .xor .. | .andn .. | .shl .. | .shr .. | .sra .. | .rotl .. | .mins .. | .maxs .. | .minu .. | .maxu ..
  | .slt .. | .sltu .. | .seq .. | .cmov .. | .exts .. | .fadd .. | .fsub .. | .fmul .. | .fdiv .. | .fmin ..
  | .fmax .. | .ffma .. | .feq .. | .flt .. | .fle .. | .fsgnj .. | .vadd .. | .vsub .. | .vmul .. | .vmulhs ..
  | .vmulhu .. | .vmadd .. | .vand .. | .vor .. | .vxor .. | .vshl .. | .vshr .. | .vsra .. | .vmins .. | .vmaxs ..
  | .vminu .. | .vmaxu .. | .vadc .. | .vsbc .. | .vcmpeq .. | .vcmplt .. | .vcmpltu .. | .vcmple .. | .vcmpleu ..
  | .vmerge .. | .vnarrow .. | .vfadd .. | .vfsub .. | .vfmul .. | .vfdiv .. | .vfmin .. | .vfmax .. | .vffma ..
  | .vffms .. | .vfcmpeq .. | .vfcmplt .. | .vfcmple .. | .vredsum .. | .vredfsum .. | .vredmax .. | .vredmin ..
  | .vredfmax .. | .vredfmin .. | .vredand .. | .vredor .. | .vslideup .. | .vslidedn .. | .vextract .. | .vinsert ..
  | .vunzip .. | .scond .. | .zins .. | .mdset .. | .kset .. | .korg .. | .bind .. | .pfill .. | .xred ..
  | .vbcast .. | .vconf .. | .vsetl .. | .vsetr .. | .vsetcfg .. | .vsetst .. | .mdadv .. | .kseed .. | .wmpub ..
  | .syswr .. | .ali .. | .zext .. | .kget .. | .cbrel .. | .apf .. | .aj .. | .aadd .. | .notify .. | .trap ..
  | .aprio .. | .aorder .. | .awake .. | .ahome .. | .aloop .. => .source
  | .clz .. | .ctz .. | .popc .. | .fsqrt .. | .fcvtif .. | .fcvtfi .. | .fclass .. | .jr .. | .vabs .. | .vclz ..
  | .vpopc .. | .vwidens .. | .vwidenu .. | .vfsqrt .. | .vfabs .. | .vfneg .. | .vfclass .. | .vcompress ..
  | .vexpand .. | .vtrans .. | .vstc .. | .sspec .. | .sbind .. | .zsave .. | .zload .. | .kfreq .. | .cpywait ..
  | .acq .. | .unbind .. | .wmlink .. | .bar .. | .barjoin .. | .pwait .. | .ptest .. | .xwait .. | .launch ..
  | .launchnb .. | .ctxswSout .. | .ctxswSin .. | .ctxswVout .. | .ctxswVin .. | .ctxswZout .. | .ctxswZin .. => .unary
  | .jtab .. | .vperm .. | .vzip .. | .vldx .. | .vstx .. | .vldl .. | .vscadd .. | .cappend .. | .cpy ..
  | .cbinit .. | .peq .. | .amoadd .. | .amoand .. | .amoor .. | .amoxor .. | .amomins .. | .amomaxs .. | .amominu ..
  | .amomaxu .. | .amoswap .. | .amocas .. | .amofadd .. | .vquant .. | .vdequant .. | .vamax .. | .amscl ..
  | .mand .. | .mor .. | .mxor .. | .mandn .. | .viota .. | .mnot .. | .mmov .. | .msbf .. | .msif .. | .msof ..
  | .mshup .. | .mshdn .. | .mpop .. | .mfirst .. | .spos .. | .zzero .. | .zstat .. | .vgen .. | .cbwait ..
  | .cbstat .. | .waitn .. | .sysrd .. | .asnap .. | .mset .. | .mclr .. | .sunbind .. | .sstart .. | .swait ..
  | .gang .. | .ungang .. | .zrel .. | .xbar .. | .rdcyc .. | .rdnrg .. | .wfn .. | .sbar .. | .vsave ..
  | .vrestore .. | .rel .. | .barleave .. | .pinit .. | .slotset .. | .stripc | .fenceFull | .exit | .rteResume
  | .brk | .aend | .vcfgrd .. | .zscacc .. | .zamax .. | .fenceRel | .rteKill | .fenceAcq | .fenceIfetch | .cancel ..
  | .cwait .. | .cntrd .. | .self .. => .fields
  | _ => .other

theorem readsBack_of_source {i : Instr} (hwf : i.wf = true) (h : layout i = .source) : ReadsBack i := by
  cases i with
  | add d a b fa | sub d a b fa | mul d a b fa | mulhs d a b fa | mulhu d a b fa | divs d a b fa | divu d a b fa
  | rems d a b fa | remu d a b fa | and d a b fa | or d a b fa | xor d a b fa | andn d a b fa | shl d a b fa
  | shr d a b fa | sra d a b fa | rotl d a b fa | mins d a b fa | maxs d a b fa | minu d a b fa | maxu d a b fa
  | slt d a b fa | sltu d a b fa | seq d a b fa | cmov d a b fa | exts d a b fa | fadd d a b fa | fsub d a b fa
  | fmul d a b fa | fdiv d a b fa | fmin d a b fa | fmax d a b fa | ffma d a b fa | feq d a b fa | flt d a b fa
  | fle d a b fa | fsgnj d a b fa | vadd d a b fa | vsub d a b fa | vmul d a b fa | vmulhs d a b fa | vmulhu d a b fa
  | vmadd d a b fa | vand d a b fa | vor d a b fa | vxor d a b fa | vshl d a b fa | vshr d a b fa | vsra d a b fa
  | vmins d a b fa | vmaxs d a b fa | vminu d a b fa | vmaxu d a b fa | vadc d a b fa | vsbc d a b fa
  | vcmpeq d a b fa | vcmplt d a b fa | vcmpltu d a b fa | vcmple d a b fa | vcmpleu d a b fa | vmerge d a b fa
  | vnarrow d a b fa | vfadd d a b fa | vfsub d a b fa | vfmul d a b fa | vfdiv d a b fa | vfmin d a b fa
  | vfmax d a b fa | vffma d a b fa | vffms d a b fa | vfcmpeq d a b fa | vfcmplt d a b fa | vfcmple d a b fa
  | vredsum d a b fa | vredfsum d a b fa | vredmax d a b fa | vredmin d a b fa | vredfmax d a b fa
  | vredfmin d a b fa | vredand d a b fa | vredor d a b fa | vslideup d a b fa | vslidedn d a b fa
  | vextract d a b fa | vinsert d a b fa | vunzip d a b fa | scond d a b fa | zins d a b fa | mdset d a b fa
  | kset d a b fa | korg d a b fa | bind d a b fa | pfill d a b fa | xred d a b fa | vbcast d b | vconf d b
  | vsetl d b | vsetr d b | vsetcfg d b | vsetst d b | mdadv d b | kseed d b | wmpub d b | syswr d b | zext d a b
  | kget d a b | cbrel d a b | notify a b fa | trap b =>
    exact .ofS rfl fun w lit h hs => by
      rw [decodeWord, h.major]
      simp [decodeMajor01, decodeMajor02, decodeMajor0C, decodeMajor18, decodeMajor19, decodeMajor20, decodeMajor24,
        decodeMajor25, decodeMajor2C, decodeMajor2E, decodeMajor31, decodeMajor34, decodeMajor35, decodeMajor36,
        decodeMajor37, decodeMajor38, decodeMajor3A,
        h.fn, hs, h.aBits, h.dBits, flag, h.fa, h.a, h.d, h.da]
  | ali d b | apf d a b | aadd d a b | aprio b | aorder b | awake b | ahome a b =>
    have hb : b.ready = 0 := ready_of_isAdviceKind hwf
    exact .ofS rfl fun w lit h hs => by
      rw [decodeWord, h.major]
      simp [decodeMajor3C, h.fn, hs, h.aBits, h.dBits, h.a, h.d, h.ready, h.da, hb]
  | aj d a b | aloop a b =>
    have hb : b.ready = 0 := ready_of_isTargetKind hwf
    exact .ofS rfl fun w lit h hs => by
      rw [decodeWord, h.major]
      simp [decodeMajor3C, h.fn, hs, h.aBits, h.dBits, h.d, h.ready, hb]
  | _ => cases h

theorem readsBack_of_unary {i : Instr} (h : layout i = .unary) : ReadsBack i := by
  cases i with
  | clz d a fa | ctz d a fa | popc d a fa | fsqrt d a fa | fcvtif d a fa | fcvtfi d a fa | fclass d a fa | jr d a fa
  | vabs d a fa | vclz d a fa | vpopc d a fa | vwidens d a fa | vwidenu d a fa | vfsqrt d a fa | vfabs d a fa
  | vfneg d a fa | vfclass d a fa | vcompress d a fa | vexpand d a fa | vtrans d a fa | vstc d a fa | sspec d a fa
  | sbind d a fa | zsave d a fa | zload d a fa | kfreq d a fa | cpywait d a fa | acq d a fa | unbind d a fa
  | wmlink d a fa | bar d a fa | barjoin d a fa | pwait d a fa | ptest d a fa | xwait d a fa | launch d a fa
  | launchnb d a fa | ctxswSout d a fa | ctxswSin d a fa | ctxswVout d a fa | ctxswVin d a fa | ctxswZout d a fa
  | ctxswZin d a fa =>
    exact .ofR rfl (fun w lit h => by
      rw [decodeWord, h.major]
      simp [decodeMajor02, decodeMajor0C, decodeMajor12, decodeMajor19, decodeMajor20, decodeMajor24, decodeMajor25,
        decodeMajor29, decodeMajor2C, decodeMajor31, decodeMajor34, decodeMajor35, decodeMajor36, decodeMajor37,
        decodeMajor38, decodeMajor39, decodeMajor3A, h.fn, h.fb, h.bBk, h.b, h.aBits, h.dBits, flag, h.fa])
  | _ => cases h

theorem readsBack_of_fields {i : Instr} (h : layout i = .fields) : ReadsBack i := by
  cases i with
  | amoadd d a b ord fa fb | amoand d a b ord fa fb | amoor d a b ord fa fb | amoxor d a b ord fa fb
  | amomins d a b ord fa fb | amomaxs d a b ord fa fb | amominu d a b ord fa fb | amomaxu d a b ord fa fb
  | amoswap d a b ord fa fb | amocas d a b ord fa fb | amofadd d a b ord fa fb =>
    exact .ofR rfl (fun w lit h => by
      rw [decodeWord, h.major]
      simp [decodeMajor16, h.fn, h.aBits, h.dBits, h.bBits, h.bkBits, flag, h.fa, h.fb]) (hl := .inr (by decide))
  | jtab d a b fa fb | vperm d a b fa fb | vzip d a b fa fb | vldx d a b fa fb | vstx d a b fa fb | vldl d a b fa fb
  | vscadd d a b fa fb | cappend d a b fa fb | cpy d a b fa fb | cbinit d a b fa fb | peq d a b fa fb
  | vquant d a b fa fb | vdequant d a b fa fb =>
    exact .ofR rfl (fun w lit h => by
      rw [decodeWord, h.major]
      simp [decodeMajor12, decodeMajor21, decodeMajor24, decodeMajor25, decodeMajor29, decodeMajor35, decodeMajor37, h.fn,
        h.bk, h.aBits, h.dBits, h.bBits, flag, h.fa, h.fb])
  | viota d a | mnot d a | mmov d a | msbf d a | msif d a | msof d a | mshup d a | mshdn d a | mpop d a | mfirst d a
  | spos d a | zzero d a | zstat d a | vgen d a | cbwait d a | cbstat d a | waitn d a | sysrd d a | asnap d a
  | mset d | mclr d | sunbind d | sstart d | swait d | gang d | ungang d | zrel d | xbar d | rdcyc d | rdnrg d
  | wfn d | stripc | fenceFull | exit | rteResume | brk | aend | vcfgrd d sel | fenceRel | rteKill | fenceAcq
  | fenceIfetch =>
    exact .ofR rfl (fun w lit h => by
      rw [decodeWord, h.major]
      simp [decodeMajor24, decodeMajor26, decodeMajor2C, decodeMajor2E, decodeMajor31, decodeMajor34, decodeMajor35,
        decodeMajor36, decodeMajor38, decodeMajor39, decodeMajor3A, decodeMajor3C, h.fn, h.b, h.belowA, h.belowD,
        h.belowMajor, h.aBits, h.dBits])
  | vamax a b fa | amscl d a b | mand d a b | mor d a b | mxor d a b | mandn d a b | sbar a fa | vsave a fa
  | vrestore a fa | rel a fa | barleave a fa | pinit a fa | slotset a fa | zscacc d a b fb | zamax a b
  | cancel d a b fa | cwait d a b fa | cntrd d a b fa | self d b =>
    exact .ofR rfl (fun w lit h => by
      rw [decodeWord, h.major]
      simp [decodeMajor21, decodeMajor26, decodeMajor2C, decodeMajor2E, decodeMajor31, decodeMajor36, decodeMajor37,
        decodeMajor39, decodeMajor3A, h.fn, h.fb, h.bk, h.d, h.a, h.bBk, h.faBk, h.readyBk, h.aBits, h.dBits, h.bBits,
        flag, h.fa])
  | _ => cases h

theorem readsBack_of_other {i : Instr} (hwf : i.wf = true) (h : layout i = .other) : ReadsBack i := by
  cases i with
  | ldb d a off fa | ldh d a off fa | ldw d a off fa | ldd d a off fa | ldbs d a off fa | ldhs d a off fa
  | ldws d a off fa | vld d a off fa | vlds d a off fa | vldff d a off fa | stb d a off fa fb | sth d a off fa fb
  | stw d a off fa fb | std d a off fa fb | vst d a off fa fb | vsts d a off fa fb =>
    exact .ofM rfl fun w lit h => by
      rw [decodeWord, h.major]
      simp [decodeMajor15, decodeMajor28, h.fn, h.aBits, h.dBits, h.offBits, flag, h.fa, h.fb]
  | addi d a imm =>
    refine .ofOne rfl (WordForm.addi d a imm) fun lit => ?_
    generalize hw : wordI 0x03 d.toNat a.toNat imm.toNat = w
    unfold wordI at hw
    rw [decodeWord, show w / 2 ^ 26 = 3 by omega]
    simp only [decodeMajor03, bits_eq 20 d (show w / 2 ^ 20 % 2 ^ 6 = d.toNat by omega),
      bits_eq 14 a (show w / 2 ^ 14 % 2 ^ 6 = a.toNat by omega), bits_eq 0 imm (show w / 2 ^ 0 % 2 ^ 14 = imm.toNat by omega)]
  | li d imm | fli d imm | jal d imm | mark imm | await imm =>
    exact .ofIA rfl fun w lit hm hd hdBits hi => by
      rw [decodeWord, hm]
      simp [decodeMajor04, decodeMajor06, decodeMajor11, decodeMajor13, decodeMajor3D, hd, hdBits, hi]
  | lc d n =>
    refine .ofOne rfl (WordForm.lc d n) fun lit => ?_
    generalize hw : wordI 0x07 d.toNat 0 n.toNat = w
    unfold wordI at hw
    rw [decodeWord, show w / 2 ^ 26 = 7 by omega]
    simp only [decodeMajor07, bits_eq 20 d (show w / 2 ^ 20 % 2 ^ 6 = d.toNat by omega),
      bits_eq 0 n (show w / 2 ^ 0 % 2 ^ 6 = n.toNat by omega), show field w 6 14 = 0 by unfold field; omega, if_true]
  | br a cond off =>
    refine .ofOne rfl (WordForm.br a cond off) fun lit => ?_
    generalize hw : wordB 0x10 a.toNat cond.toNat off.toNat = w
    unfold wordB at hw
    rw [decodeWord, show w / 2 ^ 26 = 16 by omega]
    simp only [decodeMajor10, bits_eq 20 a (show w / 2 ^ 20 % 2 ^ 6 = a.toNat by omega),
      bits_eq 17 cond (show w / 2 ^ 17 % 2 ^ 3 = cond.toNat by omega),
      bits_eq 0 off (show w / 2 ^ 0 % 2 ^ 17 = off.toNat by omega)]
  | strip cnt asel off =>
    refine .ofOne rfl (WordForm.strip cnt asel off) fun lit => ?_
    generalize hw : wordStrip 0x14 cnt.toNat asel.toNat off.toNat = w
    unfold wordStrip at hw
    rw [decodeWord, show w / 2 ^ 26 = 20 by omega]
    simp only [decodeMajor14, bits_eq 20 cnt (show w / 2 ^ 20 % 2 ^ 6 = cnt.toNat by omega),
      bits_eq 16 asel (show w / 2 ^ 16 % 2 ^ 4 = asel.toNat by omega),
      bits_eq 0 off (show w / 2 ^ 0 % 2 ^ 16 = off.toNat by omega)]
  | vfcvt d a fd fs fa | vcvtif d a fd fs fa | vcvtfi d a fd fs fa =>
    refine .ofR rfl (hb := by omega) fun w lit h => ?_
    have hfd : bits w 11 3 = fd := bits_eq 11 fd (by have := h.b; unfold field at this; omega)
    have hfs : bits w 8 3 = fs := bits_eq 8 fs (by have := h.b; unfold field at this; omega)
    rw [decodeWord, h.major]
    simp [decodeMajor21, h.fn, h.fb, h.bk, h.dBits, h.aBits, flag, h.fa, hfd, hfs]
  | mma z a b fmt kn acc =>
    refine .ofOne rfl (WordForm.mma z a b fmt kn acc) fun lit => ?_
    have hw := isR_mma z a b fmt kn acc
    generalize wordR 0x30 z.toNat a.toNat b.toNat _ _ _ _ = w at hw
    obtain ⟨hfmt, hkn, hacc, h0⟩ := hw.mma
    rw [decodeWord, hw.major]
    simp [decodeMajor30, hw.dBits, hw.aBits, hw.bBits, hfmt, hkn, hacc, h0]
  | cpymma d a fa z sa sb fmt kn acc =>
    refine ⟨WordForm.cpymma d a fa z sa sb fmt kn acc, fun w lits lit e => ?_⟩
    cases e
    have hv := isR_mma z sa sb fmt kn acc
    generalize wordR 0x30 z.toNat sa.toNat sb.toNat _ _ _ _ = v at hv
    obtain ⟨hfmt, hkn, hacc, h0⟩ := hv.mma
    have hw := isR_wordR (maj := 0x35) (b := 0) (k := 3) (fb := 0) (fn := 1) d.isLt a.isLt (by decide) (by decide)
      (bit_lt fa) (by decide) (by decide)
    generalize wordR 0x35 d.toNat a.toNat 0 3 (bit fa) 0 1 = w at hw
    have hm : isMmaFormat fmt = true := hwf
    have hmajor : v / 67108864 = 48 := hv.major
    rw [decodeWord, hw.major]
    simp [decodeMajor35, decodeCpymma, hw.fn, hw.bk, hw.b, hw.fb, hw.dBits, hw.aBits, flag, hw.fa, hmajor, h0, hfmt, hm,
      hv.dBits, hv.aBits, hv.bBits, hkn]
    exact hacc
  | secondMarkConsume  | adviceActionAccept  | fatalError  | correctedError  | descriptorArrival  | qtailWrite
  | qctlWrite  | hartCancelled  | hartFenced  | striplost  | linkFailure  | copyCommandStart  | copyCommandComplete
  | mmaComplete  | longLatencyResult  | stripCommitComplete  | acqGrant  | waiterPoll  | watermarkRelease
  | queueWeightWrite  | powerHoldExpire  | switchOpeningComplete  | turnOnComplete  | gcapWrite  | actwWrite
  | lanemapWrite  | fwrootWrite  | registerWrite  | domainReachabilityChange  | clusterClockChange  | laneError
  | bufferWordError  | streamConditionRead  | remotePushPerform  | recalLaneReturn  | hostBar2Access
  | linkStateChanged  | arbiterSelection | launchPlacement | inrushGrant | tinvComplete | rrInstall | rrRemove
  | svcFencecore | svcRetiremod | svcReturnmod | svcRecal | svcAttest | deviceReset | arbiterBoundary  | issueCycle
  | activityMeterCycle  | pageEpoch  | frameMoveSwitch  | moduleUncorrectableError  | moduleRetireComplete
  | scatterAddPerform  | remoteStreamRequest  | xredPacketArrival  | mrsvWrite  | devnumWrite  | tinvGo
  | repheadWrite  | svcStagefw  | sliceUncorrectableError  | jobRetired  | streamElementFetch  | streamDoneadd
  | powerOnBoot  | powerControllerUpdate =>
    exact .ofNone rfl
  | _ => cases h

theorem readsBack (i : Instr) (hwf : i.wf = true) : ReadsBack i := by
  cases h : layout i with
  | source => exact readsBack_of_source hwf h
  | unary => exact readsBack_of_unary h
  | fields => exact readsBack_of_fields h
  | other => exact readsBack_of_other hwf h

/-- Words that fit are read as the decoder reads the first of them, its trailing word being the second. -/
theorem decode_of_readsBack {i : Instr} (h : ReadsBack i) (he : encode i ≠ []) (ws : List (BitVec 32)) :
    decode (encode i ++ ws) = .ok (i, ws) := by
  obtain ⟨⟨hlen, hlt, hlit⟩, hread⟩ := h
  unfold encode at he ⊢
  match hw : encodeNat i with
  | [] => simp [hw] at he
  | [w] =>
    have hw32 : w < 2 ^ 32 := hlt w (by simp [hw])
    have hb : literalBearing w = false := hlit w [] hw
    have hr := hread w [] (ws.headD 0#32).toNat hw
    simp only [List.map, List.cons_append, List.nil_append, decode, BitVec.toNat_ofNat, Nat.mod_eq_of_lt hw32]
    rw [show decodeWord w (ws.headD 0#32).toNat = .ok i from hr]
    simp [hb]
  | [w, v] =>
    have hw32 : w < 2 ^ 32 := hlt w (by simp [hw])
    have hv32 : v < 2 ^ 32 := hlt v (by simp [hw])
    have hb : literalBearing w = true := hlit w [v] hw
    have hr := hread w [v] 0 hw
    simp only [List.map, List.cons_append, List.nil_append, decode, BitVec.toNat_ofNat, Nat.mod_eq_of_lt hw32,
      List.headD_cons, Nat.mod_eq_of_lt hv32]
    rw [show decodeWord w v = .ok i from hr]
    simp [hb]
  | _ :: _ :: _ :: _ => simp [hw] at hlen

end Sys2Proof.Laws.ReadBack

namespace Sys2Proof.Machine

/-- Settles O55: format by format, the decoder finds in a word the fields that the encoder put there. -/
theorem decodeEncode : Obligations.DecodeEncode := by
  unfold Obligations.DecodeEncode
  intro i ws hwf he
  exact Laws.ReadBack.decode_of_readsBack (Laws.ReadBack.readsBack i hwf) he ws

end Sys2Proof.Machine
end

section
/-!
What the checks of R51 raise (O42), from `State.prepare`; words read one by one (O56), and the way from the agenda to the
instruction that a step runs (O57).
-/

namespace Sys2Proof.Machine

/-! ### The checks before an instruction (R51) -/

/-- An instruction that its checks stop with a trap. -/
theorem issue_of_prepare_trap {s s' : State} {u : Uses} {tr : Trap} (body : State → Except Stop State)
    (h : s.prepare u = .error (.trap tr s')) : issue s u body = .next (s'.takeTrap tr) := by
  unfold issue issueTo
  rw [h]
  rfl

@[simp] theorem State.isFirmware_eq_true {s : State} : s.isFirmware = true ↔ s.cur.ctx = 4 := by
  simp [State.isFirmware]

@[simp] theorem State.isFirmware_eq_false {s : State} : s.isFirmware = false ↔ s.cur.ctx ≠ 4 := by
  simp [State.isFirmware]

theorem fieldVal_eq (pos : Nat) (r : Reg) : fieldVal pos r = word (r.toNat + 256 * pos) := by
  rw [fieldVal, Nat.mul_comm]

section
variable {s : State} {u : Uses}

theorem State.prepare_illegal (h : (u.illegal || u.reads.any s.me.badRead || u.writes.any s.me.badWrite) = true) :
    s.prepare u = .error (.trap { cause := causeIllegal, val := s.wordVal } s) := by
  unfold State.prepare
  rw [if_pos h]
  rfl

variable (hi : (u.illegal || u.reads.any s.me.badRead || u.writes.any s.me.badWrite) = false)
include hi

theorem State.prepare_priv (hp : ((u.priv && !s.isFirmware) || (u.userOnly && s.isFirmware)) = true) :
    s.prepare u = .error (.trap { cause := causePriv, val := s.wordVal } s) := by
  simp only [State.prepare, hi, hp, Bool.false_eq_true, if_false, if_true]
  rfl

variable (hp : ((u.priv && !s.isFirmware) || (u.userOnly && s.isFirmware)) = false)
include hp

theorem State.prepare_illreg {f : Field} (hf : u.regs.find? (fun f => !f.ok) = some f) :
    s.prepare u = .error (.trap { cause := causeIllreg, val := fieldVal f.pos f.reg } s) := by
  simp only [State.prepare, hi, hp, hf, Bool.false_eq_true, if_false]
  rfl

variable (hr : u.regs.find? (fun f => !f.ok) = none)
include hr

theorem State.prepare_vown (hv : (u.vown && s.me.vlazy) = true) : s.prepare u = .error (.trap
    { cause := causeVown, val := 0, elt := Machine.word s.me.eltDone, row := BitVec.ofNat 5 s.me.rowDone } s) := by
  simp only [State.prepare, hi, hp, hr, hv, Bool.false_eq_true, if_false, if_true]
  rfl

theorem State.prepare_emptyreg (hv : (u.vown && s.me.vlazy) = false) {q : Source}
    (hq : u.sources.find? (fun q => q.ready && s.me.isEmptySource q) = some q) : s.prepare u = .error (.trap
    { cause := causeEmptyreg, val := fieldVal q.pos q.reg, elt := Machine.word s.me.eltDone
      row := BitVec.ofNat 5 s.me.rowDone } s) := by
  simp only [State.prepare, hi, hp, hr, hv, hq, Bool.false_eq_true, if_false]
  rfl

end

/-- Settles O42: the checks of `State.prepare`, one after the other. -/
theorem checksRaiseTraps : Obligations.ChecksRaiseTraps := by
  unfold Obligations.ChecksRaiseTraps
  intro s u body traps restartable illegal privileged
  have hill : (u.illegal || u.reads.any s.me.badRead || u.writes.any s.me.badWrite) = true ↔ illegal := by
    simp [illegal, or_assoc]
  have hpriv : ((u.priv && !s.isFirmware) || (u.userOnly && s.isFirmware)) = true ↔ privileged := by
    simp [privileged]
  refine ⟨fun hi => issue_of_prepare_trap body (State.prepare_illegal (hill.2 hi)), fun hi hp => ?_, fun hi hp => ⟨?_, ?_⟩⟩ <;>
    replace hi := Bool.eq_false_iff.2 (mt hill.1 hi)
  · exact issue_of_prepare_trap body (State.prepare_priv hi (hpriv.2 hp))
  · intro f hf
    have h := issue_of_prepare_trap body (State.prepare_illreg hi (Bool.eq_false_iff.2 (mt hpriv.1 hp)) hf)
    rwa [fieldVal_eq] at h
  · intro hok
    replace hp := Bool.eq_false_iff.2 (mt hpriv.1 hp)
    have hr : u.regs.find? (fun f => !f.ok) = none := List.find?_eq_none.2 fun f hf => by simp [hok f hf]
    refine ⟨fun hv hl => issue_of_prepare_trap body (State.prepare_vown hi hp hr (by rw [hv, hl]; rfl)), fun hv q hq => ?_⟩
    have hv' : (u.vown && s.me.vlazy) = false := by
      cases h : u.vown with
      | false => rfl
      | true => exact hv h
    have h := issue_of_prepare_trap body (State.prepare_emptyreg hi hp hr hv' hq)
    rwa [fieldVal_eq] at h

/-! ### Words of the worked encodings -/

/-- A major that the opcode map reserves is rejected by name (R46). -/
theorem decodeWord_of_reserved {w : Nat} (lit : Nat) (h : w / 2 ^ 26 ∈ [0x00, 0x05, 0x08, 0x09, 0x0A, 0x0B, 0x0D, 0x0E, 0x0F,
    0x17, 0x1A, 0x1B, 0x1C, 0x1D, 0x1E, 0x1F, 0x22, 0x23, 0x27, 0x2A, 0x2B, 0x2D, 0x2F, 0x32, 0x33, 0x3B, 0x3E, 0x3F]) :
    decodeWord w lit = .error .major := by
  unfold decodeWord
  generalize w / 2 ^ 26 = m at h
  fin_cases h <;> rfl

theorem decodeWord_major3A {w lit : Nat} (hw : w / 2 ^ 26 = 0x3A) (hf : 10 ≤ w % 16) : decodeWord w lit = .error .function := by
  rw [decodeWord, hw]
  have hfn : 10 ≤ field w 0 4 ∧ field w 0 4 < 16 := by unfold field; omega
  simp only [decodeMajor3A]
  generalize field w 0 4 = fn at hfn
  obtain ⟨hlo, hhi⟩ := hfn
  interval_cases fn <;> rfl

theorem decodeWord_major3C {w lit : Nat} (hw : w / 2 ^ 26 = 0x3C) (hf : 11 ≤ w % 16) : decodeWord w lit = .error .function := by
  rw [decodeWord, hw]
  have hfn : 11 ≤ field w 0 4 ∧ field w 0 4 < 16 := by unfold field; omega
  simp only [decodeMajor3C]
  generalize field w 0 4 = fn at hfn
  obtain ⟨hlo, hhi⟩ := hfn
  interval_cases fn <;> rfl

/-- Every word of the table is read as its instruction, by evaluation of the decoder. -/
theorem decode_wordTable : ∀ e ∈ Stated.wordTable, decode e.1 = .ok (e.2, []) := by
  simp only [Stated.wordTable, List.forall_mem_cons, List.not_mem_nil, false_imp_iff, implies_true, and_true]
  and_intros <;> rfl

/-- Settles O56. -/
theorem workedEncodings : Obligations.WorkedEncodings := by
  unfold Obligations.WorkedEncodings
  exact ⟨decode_wordTable, fun _ lit => decodeWord_of_reserved lit, fun _ _ => decodeWord_major3A, fun _ _ => decodeWord_major3C⟩

/-! ### From the agenda to the instruction -/

/-- A cycle of a core that the agenda names next, in which a hart issues. -/
theorem step_of_issueCycle {s : State} {c : CoreId} {rest : List Act} (ha : s.agenda = .event (.issueCycle c) :: rest)
    (hi : (({ s with agenda := rest, cur := { s.cur with issues := false } } : State).beginCycle c).cur.issues = true) :
    step s =
      let s1 := ({ s with agenda := rest, cur := { s.cur with issues := false } } : State).beginCycle c
      ({ s1 with cur := { s1.cur with issues := false } } : State).runIssued := by
  unfold step State.advance
  simp only [ha]
  exact if_pos hi

theorem State.performAndIssue_of_next {s t : State} {a : Act} (h : s.perform a = .next t) :
    s.performAndIssue a = t.runIfIssued := by
  unfold State.performAndIssue
  rw [h]

/-- The word of a Second that the agenda names next. -/
theorem step_of_second {s t : State} {c : CoreId} {x : UserCtx} {rest : List Act} (ha : s.agenda = .second c x :: rest)
    (ht : (({ s with agenda := rest, cur := { s.cur with issues := false } } : State).actingAs c (userId x)).runSecond = .next t)
    (hi : t.cur.issues = false) : step s = .next t := by
  unfold step State.advance
  simp only [ha]
  refine (State.performAndIssue_of_next (a := .second c x) ht).trans ?_
  exact if_neg (by simp [hi])

theorem State.runIssued_heldBack {s : State} (hd : s.me.dueTrap = none) (hb : s.heldBack = true) : s.runIssued = .next s.stall :=
  if_pos (by simp [hb, hd])

theorem State.runIssued_of_error {s : State} {e : Stop} (hb : s.heldBack = false) (hn : s.nextInstr = .error e) :
    s.runIssued = finish (.error e) := by
  unfold State.runIssued
  rw [hn, if_neg (by simp [hb])]

theorem State.runIssued_of_ok {s t : State} {i : Instr} (hb : s.heldBack = false) (hn : s.nextInstr = .ok (i, t)) :
    s.runIssued = exec i t := by
  unfold State.runIssued
  rw [hn, if_neg (by simp [hb])]

section
variable {s : State} (hd : s.me.dueTrap = none) (ha : s.me.first = true → s.me.pc.toNat % 4 = 0)
include hd ha

theorem State.nextInstr_of_fault {cause : BitVec 8} (hf : s.fetchBlock s.me.pc = .error cause) :
    s.nextInstr = raiseAhead s cause s.me.pc := by
  have hal : (s.me.first && decide (s.me.pc.toNat % 4 ≠ 0)) = false := by
    cases hfirst : s.me.first with
    | false => rfl
    | true => simp [ha hfirst]
  simp only [State.nextInstr, hd, hal, hf, Bool.false_eq_true, if_false]

/-- The word at the program counter, in a block that could be fetched (R43, R44, R47). -/
theorem State.nextInstr_of_block {ws : List (BitVec 32)} {s3 : State} (hf : s.fetchBlock s.me.pc = .ok (ws, s3))
    (hfirst : s3.me.first = s.me.first) (hl : s.me.first = true → isLiteralAt ws s.me.pc = false) :
    let n := wordIndex s.me.pc
    let w := (ws[n]?).getD 0
    let lit := (ws[n + 1]?).getD 0
    let s4 : State := { s3.modifyMe fun h => { h with first := false } with cur := { s3.cur with word := w } }
    isAdviceWord w.toNat = false → (n = 15 → literalBearing w.toNat = false) →
      (∀ i, decodeWord w.toNat lit.toNat = .ok i → i.wf = true → s.nextInstr = .ok (i, s4)) ∧
      ∀ e, e ≠ .followOn → decodeWord w.toNat lit.toNat = .error e →
        s.nextInstr = raise s4 causeIllegal (Machine.word w.toNat) := by
  intro n w lit s4 hadv hlit
  have hal : (s.me.first && decide (s.me.pc.toNat % 4 ≠ 0)) = false := by
    cases hfirst : s.me.first with
    | false => rfl
    | true => simp [ha hfirst]
  have hland : (s3.me.first && isLiteralAt ws s.me.pc) = false := by
    cases h : s.me.first with
    | false => rw [hfirst, h]; rfl
    | true => rw [hl h, Bool.and_false]
  have hill : (isAdviceWord w.toNat || (n == 15 && literalBearing w.toNat)) = false := by
    by_cases h15 : n = 15
    · rw [hadv, hlit h15, Bool.and_false]
      rfl
    · rw [hadv, beq_false_of_ne h15]
      rfl
  constructor
  · intro i hdec hwf
    simp only [State.nextInstr, hd, hal, hf, hland, Bool.false_eq_true, if_false]
    refine (if_neg (Bool.eq_false_iff.1 hill)).trans ?_
    rw [show decodeWord ((ws[wordIndex s.me.pc]?).getD 0#32).toNat ((ws[wordIndex s.me.pc + 1]?).getD 0#32).toNat = .ok i from hdec]
    refine (if_pos hwf).trans ?_
    simp only [BitVec.ofNat_toNat, BitVec.setWidth_eq]
    rfl
  · intro e he hdec
    simp only [State.nextInstr, hd, hal, hf, hland, Bool.false_eq_true, if_false]
    refine (if_neg (Bool.eq_false_iff.1 hill)).trans ?_
    rw [show decodeWord ((ws[wordIndex s.me.pc]?).getD 0#32).toNat ((ws[wordIndex s.me.pc + 1]?).getD 0#32).toNat = .error e from hdec]
    simp only [illegalWord, if_neg he, BitVec.ofNat_toNat, BitVec.setWidth_eq]
    rfl

end

@[simp] theorem State.cur_count (s : State) (p : Place) : (s.count p).cur = s.cur := by unfold State.count; split <;> rfl
@[simp] theorem State.cores_count (s : State) (p : Place) : (s.count p).cores = s.cores := by
  unfold State.count; split <;> rfl
@[simp] theorem State.me_count (s : State) (p : Place) : (s.count p).me = s.me := by unfold State.count; split <;> rfl

theorem State.fetchBlock_first {s t : State} {va : Word} {ws : List (BitVec 32)} (h : s.fetchBlock va = .ok (ws, t)) :
    t.me.first = s.me.first := by
  unfold State.fetchBlock at h
  extract_lets key at h
  split at h
  · cases h
    rfl
  · split at h
    · cases h
    · split at h
      · cases h
      · cases h
        simp
    · cases h

/-- The word of a Second that it runs (R48, R333). -/
theorem State.runSecond_of_word {s : State} {x : UserCtx} {book : Book} {i : Instr} (hx : s.cur.ctx = userId x)
    (hr : (s.myCore.advice[x.val]).running = true) (hb : s.myCore.bookOf x = some book) :
    let v := s.myCore.advice[x.val]
    let w := ((book.code[v.pc]?).getD 0).toNat
    v.pc < book.code.length → isAdviceWord w = true → (v.pc % 16 = 15 → literalBearing w = false) →
      decodeWord w ((book.code[v.pc + 1]?).getD 0).toNat = .ok i → i.wf = true → s.runSecond = exec i s := by
  intro v w hpc hadv hlit hdec hwf
  have hme : s.advisee = x := by
    unfold State.advisee
    rw [dif_pos (by rw [hx]; exact x.isLt)]
    exact Fin.ext (by simp [hx, userId])
  have hv : s.advice = v := by simp only [State.advice, hme, v]
  obtain ⟨wd, hwd⟩ : ∃ wd, book.code[v.pc]? = some wd := ⟨_, List.getElem?_eq_getElem hpc⟩
  have hw : w = wd.toNat := by simp [w, hwd]
  have hlast : ¬(v.pc % 16 = 15 ∧ literalBearing wd.toNat = true) := fun ⟨h15, hl⟩ => by simp [hw ▸ hlit h15] at hl
  unfold State.runSecond State.nextAdvice
  rw [hv, hme, hb]
  rw [hw] at hadv hdec
  simp only [show v.running = true from hr, hwd, hlast, hadv, Bool.not_true, Bool.false_eq_true, if_false]
  rw [show decodeWord wd.toNat ((book.code[v.pc + 1]?).getD 0#32).toNat = .ok i from hdec]
  simp [hwf]

/-- Settles O57: `step_of_issueCycle` and `step_of_second` lead from the agenda to the word, `State.nextInstr_of_block` and
`State.runSecond_of_word` from the word to `exec`. -/
theorem stepRunsDecoded : Obligations.StepRunsDecoded := by
  unfold Obligations.StepRunsDecoded
  intro s c x rest i book
  constructor
  · intro s0 s1 s2 pc n hag hiss hdue
    have hstep : step s = s2.runIssued := step_of_issueCycle hag hiss
    refine ⟨fun hb => hstep.trans (State.runIssued_heldBack hdue hb), fun hb hal => ?_⟩
    cases hf : s2.fetchBlock pc with
    | error cause => exact hstep.trans (State.runIssued_of_error hb (State.nextInstr_of_fault hdue hal hf))
    | ok r =>
      obtain ⟨ws, s3⟩ := r
      intro hl h3C h3D hlit
      have hadv : isAdviceWord ((ws[n]?).getD 0).toNat = false := by
        rw [isAdviceWord, beq_false_of_ne h3C, beq_false_of_ne h3D]
        rfl
      obtain ⟨hok, herr⟩ := State.nextInstr_of_block hdue hal hf (State.fetchBlock_first hf) hl hadv hlit
      exact ⟨fun hdec hwf => hstep.trans (State.runIssued_of_ok hb (hok i hdec hwf)),
        fun e he hdec => hstep.trans (State.runIssued_of_error hb (herr e he hdec))⟩
  · intro s0 s1 v w hag hrun hbook hpc hmaj hlit hdec hwf t ht hiss
    have hadv : isAdviceWord w.toNat = true := by simpa [isAdviceWord] using hmaj
    exact step_of_second hag ((State.runSecond_of_word (s := s1) (x := x) rfl hrun hbook hpc hadv hlit hdec hwf).trans ht) hiss

end Sys2Proof.Machine
end

section
/-!
What the effects of a strip, a fence and the reads of a hart leave as they are: who acts, what every context does, and of
every hart all but the parts that a commit works with.
-/

namespace Sys2Proof.Machine

/-! ### The parts of a hart that a commit leaves -/

/-- A result on its way, without what its reads have still to bring. -/
def Fill.shape (f : Fill) : Fill := { f with value := 0, reads := [] }

/-- The hart without the parts that an item of a strip, a fence of a launch or a read that performs may change. -/
def Hart.still (h : Hart) : Hart :=
  { h with
    fills := h.fills.map Fill.shape
    vec := { h.vec with bufs := Vector.replicate 16 {} }
    cmds := []
    strip := []
    pushes := 0
    additions := []
    fenceDue := false }

/-- The hart without the parts that a commit of its strip may change. -/
def Hart.calm (h : Hart) : Hart := { h.still with stripCount := 0, pace := none, closing := false, checkpoint := {} }

@[simp] theorem Hart.still_setCirc (h : Hart) (n : Nat) (b : CircBuf) : (h.setCirc n b).still = h.still := rfl

@[simp] theorem Hart.still_returnSlot (h : Hart) (q : CopyCmd) : (h.returnSlot q).still = h.still := by
  unfold Hart.returnSlot
  split <;> rfl

@[simp] theorem Hart.still_discardCmd (h : Hart) (q : CopyCmd) : (h.discardCmd q).still = h.still :=
  Hart.still_returnSlot _ q

theorem Hart.still_discardCmds : (qs : List CopyCmd) → (h : Hart) → (qs.foldl Hart.discardCmd h).still = h.still
  | [], _ => rfl
  | q :: qs, h => (Hart.still_discardCmds qs (h.discardCmd q)).trans (h.still_discardCmd q)

@[simp] theorem Hart.still_endCommands (h : Hart) : h.endCommands.still = h.still :=
  Hart.still_discardCmds _ h

/-- Reads and strip items may go, and values may come, without a change of the still parts. -/
theorem Hart.still_withFills (h : Hart) (items : List StripItem) {g : Fill → Fill} (hg : ∀ f, (g f).shape = f.shape) :
    ({ h with strip := items, fills := h.fills.map g } : Hart).still = h.still := by
  unfold Hart.still
  rw [List.map_map, show Fill.shape ∘ g = Fill.shape from funext hg]

@[simp] theorem Hart.still_keepItems (h : Hart) (keep : StripItem → Bool) : (h.keepItems keep).still = h.still :=
  h.still_withFills _ fun _ => rfl

@[simp] theorem Hart.still_fenceIf (launch : Word) (h : Hart) : (h.fenceIf launch).still = h.still := by
  unfold Hart.fenceIf
  split
  · exact (Hart.still_keepItems h.endCommands _).trans h.still_endCommands
  · rfl

@[simp] theorem Hart.still_replaceFirst (h : Hart) (items : List StripItem) : (h.replaceFirst items).still = h.still :=
  h.still_withFills _ fun _ => rfl

theorem Fill.shape_takes (s : State) : (rs : List PendingRead) → (f : Fill) →
    (rs.foldl (fun g r => g.take r (s.readPending r)) f).shape = f.shape
  | [], _ => rfl
  | _ :: rs, _ => (Fill.shape_takes s rs _).trans rfl

theorem State.shape_performFill (s : State) (f : Fill) : (s.performFill f).shape = f.shape :=
  (Fill.shape_takes s f.reads _).trans rfl

theorem State.shape_performSome (s : State) (these : PendingRead → Bool) (f : Fill) : (s.performSome these f).shape = f.shape := rfl

/-! ### What a step of a commit leaves -/

/-- Two states in which the same context acts, every context does the same, and of every hart the part `φ` is the same. -/
def State.Alike (φ : Hart → Hart) (s t : State) : Prop :=
  t.cur = s.cur ∧ ∀ c x, t.status c x = s.status c x ∧ φ (t.hart c x) = φ (s.hart c x)

/-- What a part of two harts shows, they show alike. -/
theorem Hart.of_part {α : Type} {φ : Hart → Hart} {h k : Hart} (e : φ h = φ k) (f : Hart → α) (hf : ∀ h, f (φ h) = f h) :
    f h = f k := (hf h).symm.trans ((congrArg f e).trans (hf k))

/-- What one item of a strip leaves. -/
abbrev State.SameHarts : State → State → Prop := State.Alike Hart.still

section
variable {φ : Hart → Hart}

theorem State.Alike.refl (s : State) : s.Alike φ s := ⟨rfl, fun _ _ => ⟨rfl, rfl⟩⟩

theorem State.Alike.trans {s t r : State} (h : s.Alike φ t) (k : t.Alike φ r) : s.Alike φ r :=
  ⟨k.1.trans h.1, fun c x => ⟨(k.2 c x).1.trans (h.2 c x).1, (k.2 c x).2.trans (h.2 c x).2⟩⟩

theorem State.Alike.map {s t : State} (ψ : Hart → Hart) (h : s.Alike φ t) : s.Alike (ψ ∘ φ) t :=
  ⟨h.1, fun c x => ⟨(h.2 c x).1, congrArg ψ (h.2 c x).2⟩⟩

theorem State.Alike.me {s t : State} (h : s.Alike φ t) : φ t.me = φ s.me := by
  unfold State.me
  rw [h.1]
  exact (h.2 _ _).2

theorem State.alike_modifyDev (s : State) (f : Device → Device) : s.Alike φ (s.modifyDev f) := .refl s

theorem State.alike_modifyCore (s : State) (c : CoreId) (f : Core → Core)
    (h : ∀ x, (f (s.core c)).status x = (s.core c).status x ∧ φ ((f (s.core c)).hart x) = φ ((s.core c).hart x)) :
    s.Alike φ (s.modifyCore c f) := by
  refine ⟨rfl, fun d x => ?_⟩
  unfold State.status State.hart
  by_cases hd : d = c
  · subst hd; rw [State.core_modifyCore]; exact h x
  · rw [State.core_modifyCore_ne _ _ _ _ hd]; exact ⟨rfl, rfl⟩

theorem State.alike_setHart {s : State} {c : CoreId} {x : CtxId} {h : Hart} (hs : φ h = φ (s.hart c x)) :
    s.Alike φ (s.setHart c x h) := by
  refine s.alike_modifyCore _ _ fun y => ⟨by simp, ?_⟩
  by_cases hy : y = x
  · subst hy; rw [Core.hart_setHart]; exact hs
  · rw [Core.hart_setHart_ne _ _ _ _ hy]

theorem State.alike_modifyMe {s : State} {f : Hart → Hart} (hf : φ (f s.me) = φ s.me) :
    s.Alike φ (s.modifyMe f) := State.alike_setHart hf

theorem State.alike_foldl {α : Type} (f : State → α → State) (h : ∀ s a, State.Alike φ s (f s a)) :
    (xs : List α) → (s : State) → s.Alike φ (xs.foldl f s)
  | [], s => .refl s
  | x :: xs, s => (h s x).trans (State.alike_foldl f h xs (f s x))

end

theorem State.sameHarts_count (s : State) (p : Place) : s.SameHarts (s.count p) := by
  unfold State.count
  split <;> exact .refl s

theorem State.sameHarts_wakeCore (s : State) (c : CoreId) : s.SameHarts (s.wakeCore c) := by
  unfold State.wakeCore
  split
  · exact .refl s
  · exact .refl s
  · exact s.alike_modifyCore c _ fun _ => ⟨rfl, rfl⟩
  · exact s.alike_modifyCore c _ fun _ => ⟨rfl, rfl⟩
  · exact s.alike_modifyCore c (fun k => { k with power := .waking }) fun _ => ⟨rfl, rfl⟩

theorem State.sameHarts_notifyWrite (s : State) (core n : Nat) (x : Word) : s.SameHarts (s.notifyWrite core n x) := by
  unfold State.notifyWrite
  split
  · dsimp only
    split
    · exact .refl s
    · split
      · exact s.alike_modifyCore _ _ fun _ => ⟨rfl, rfl⟩
      · exact (s.sameHarts_wakeCore _).trans (State.alike_modifyCore _ _ _ fun _ => ⟨rfl, rfl⟩)
      · exact (s.alike_modifyCore _ _ fun _ => ⟨rfl, rfl⟩).trans (State.sameHarts_wakeCore _ _)
  · exact .refl s

@[simp] theorem Core.status_fenceLaunch (launch : Word) (k : Core) (x : CtxId) :
    (k.fenceLaunch launch).status x = k.status x := by
  unfold Core.fenceLaunch Core.status
  split
  · simp only [Vector.getElem_map]
    split <;> rfl
  · rfl

theorem Core.hart_fenceLaunch (launch : Word) (k : Core) (x : CtxId) :
    (k.fenceLaunch launch).hart x = k.hart x ∨ (k.fenceLaunch launch).hart x = (k.hart x).fenceIf launch := by
  unfold Core.fenceLaunch Core.hart
  split
  · simp only [Vector.getElem_map]
    split
    · exact .inl rfl
    · exact .inr rfl
  · exact .inl rfl

theorem State.core_fenceLaunch (s : State) (launch : Word) (cause : BitVec 8) (c : CoreId) :
    (s.fenceLaunch launch cause).core c = s.core c ∨
      (s.fenceLaunch launch cause).core c = (s.core c).fenceLaunch launch := by
  unfold State.fenceLaunch
  split
  · exact .inr (Vector.getElem_map _ _)
  · exact .inl rfl

@[simp] theorem State.fenceLaunch_cur (s : State) (launch : Word) (cause : BitVec 8) :
    (s.fenceLaunch launch cause).cur = s.cur := by
  unfold State.fenceLaunch
  split <;> rfl

theorem State.sameHarts_fenceLaunch (s : State) (launch : Word) (cause : BitVec 8) :
    s.SameHarts (s.fenceLaunch launch cause) := by
  refine ⟨s.fenceLaunch_cur launch cause, fun c x => ?_⟩
  unfold State.status State.hart
  rcases s.core_fenceLaunch launch cause c with h | h <;> rw [h]
  · exact ⟨rfl, rfl⟩
  · refine ⟨by simp, ?_⟩
    rcases Core.hart_fenceLaunch launch (s.core c) x with h | h <;> rw [h]
    exact Hart.still_fenceIf launch _

/-! ### The strip -/

theorem State.sameHarts_setBuffer (s : State) (c : CoreId) (b : BufId) (a n : Nat) (m : Core → Mem) :
    s.SameHarts (s.modifyCore c fun k => (k.setBuffer b (m k)).bumpBuffer b a n) :=
  s.alike_modifyCore c _ fun _ => by cases b <;> exact ⟨rfl, rfl⟩

theorem State.sameHarts_performStore (s : State) (p : Place) (n x : Nat) : s.SameHarts (s.performStore p n x) := by
  unfold State.performStore
  split
  · split
    · exact s.sameHarts_fenceLaunch _ _
    · exact .refl s
  · exact s.sameHarts_setBuffer _ _ _ _ fun k => (k.buffer _).write _ n x
  · exact s.sameHarts_notifyWrite _ _ _
  all_goals exact .refl s

theorem State.sameHarts_clearWritten (s : State) (rs : List (Place × Nat)) : s.SameHarts (s.clearWritten rs) :=
  (s.alike_modifyDev _).trans (State.alike_modifyCore _ _ _ fun _ => ⟨rfl, rfl⟩)

theorem State.sameHarts_performMore (s : State) (wrote : List (Place × Nat)) (es : List (Place × Nat × Nat)) :
    s.SameHarts (s.performMore wrote es) :=
  (State.alike_foldl _ (fun s e => s.sameHarts_performStore e.1 e.2.1 e.2.2) es s).trans
    (State.sameHarts_clearWritten _ _)

theorem State.sameHarts_performScatter (s : State) (a : ScatterAdd) (free : Bool) :
    s.SameHarts (s.performScatter a free) := by
  unfold State.performScatter
  split
  · exact s.sameHarts_fenceLaunch _ _
  · split <;> exact .refl s

theorem State.sameHarts_performItem (s : State) (i : StripItem) : s.SameHarts (s.performItem i) := by
  cases i with
  | stores es wrote => exact s.sameHarts_performMore wrote es
  | scatter a free => exact s.sameHarts_performScatter a free
  | push d st va n x => exact (s.alike_modifyDev _).trans (State.alike_modifyMe rfl)
  | command t => exact State.alike_modifyMe rfl

theorem State.sameHarts_takeForeign (s : State) (rs : List PendingRead) : s.SameHarts (s.takeForeign rs) := by
  unfold State.takeForeign
  split <;> exact .refl s

theorem State.sameHarts_withFills (s : State) {g : Fill → Fill} (hg : ∀ f, (g f).shape = f.shape) :
    s.SameHarts (s.modifyMe fun h => { h with fills := h.fills.map g }) :=
  State.alike_modifyMe (s.me.still_withFills s.me.strip hg)

theorem State.sameHarts_performReads (s : State) : s.SameHarts s.performReads :=
  (s.sameHarts_withFills s.shape_performFill).trans (State.sameHarts_takeForeign _ _)

theorem State.sameHarts_performThese (s : State) (these : PendingRead → Bool) : s.SameHarts (s.performThese these) :=
  (s.sameHarts_withFills (s.shape_performSome these)).trans (State.sameHarts_takeForeign _ _)

theorem State.sameHarts_commitFirst (s : State) (n : Option Nat) : s.SameHarts (s.commitFirst n) := by
  have reads (b : Bool) : s.SameHarts (if b then s.performThese (·.upTo == 0) else s) := by
    cases b
    · exact .refl s
    · exact s.sameHarts_performThese _
  unfold State.commitFirst
  split
  · exact .refl s
  · dsimp only
    split
    · exact (reads _).trans ((State.sameHarts_performMore _ _ _).trans (State.alike_modifyMe (Hart.still_replaceFirst _ _)))
    · exact (reads _).trans (State.Alike.trans (State.alike_modifyMe (Hart.still_replaceFirst _ _)) (State.sameHarts_performItem _ _))

theorem State.sameHarts_commitItems : (fuel : Nat) → (pace : Option Nat) → (s : State) →
    s.SameHarts (State.commitItems fuel pace s)
  | 0, _, s => .refl s
  | fuel + 1, pace, s => by
    unfold State.commitItems
    split
    · exact .refl s
    · split
      · exact .refl s
      · split
        · exact (s.sameHarts_commitFirst _).trans (State.sameHarts_commitItems fuel _ _)
        · split
          · exact (s.sameHarts_commitFirst _).trans (State.sameHarts_commitItems fuel _ _)
          · split
            · exact .refl s
            · exact s.sameHarts_commitFirst _

/-- What a commit leaves of the harts. -/
abbrev State.SameCalm : State → State → Prop := State.Alike Hart.calm

theorem State.SameHarts.calm {s t : State} (h : s.SameHarts t) : s.SameCalm t :=
  h.map fun h => { h with stripCount := 0, pace := none, closing := false, checkpoint := {} }

theorem State.sameCalm_commitStrip (s : State) : s.SameCalm s.commitStrip :=
  (State.SameHarts.calm (State.sameHarts_commitItems _ _ s)).trans (State.alike_modifyMe rfl)

theorem State.sameCalm_committed (s : State) (u : Uses) : s.SameCalm (s.committed u) := by
  have begins (t : State) : t.SameCalm (t.commitStrip.modifyMe fun h => if h.strip.isEmpty then h.beginStrip h.pc else h) :=
    t.sameCalm_commitStrip.trans (State.alike_modifyMe (by split <;> rfl))
  unfold State.committed
  dsimp only
  split
  · exact (State.SameHarts.calm s.sameHarts_performReads).trans (begins _)
  · exact begins s

theorem State.sameCalm_begun (s : State) (u : Uses) : s.SameCalm (s.begun u) := by
  unfold State.begun
  split
  · exact s.sameCalm_committed u
  · exact .refl s

@[simp] theorem State.begun_cur (s : State) (u : Uses) : (s.begun u).cur = s.cur := (s.sameCalm_begun u).1

@[simp] theorem State.begun_me_pc (s : State) (u : Uses) : (s.begun u).me.pc = s.me.pc :=
  Hart.of_part (s.sameCalm_begun u).me Hart.pc fun _ => rfl

end Sys2Proof.Machine
end

section
/-!
Facts about the hart that acts, and the instructions that configure its tile (O24).
-/

namespace Sys2Proof.Machine

open Stated

/-! ### The hart that acts, changed twice -/

theorem Core.setHart_setHart (k : Core) (x : CtxId) (h h' : Hart) : (k.setHart x h).setHart x h' = k.setHart x h' := by
  unfold Core.setHart
  split <;> simp

theorem State.modifyCore_modifyCore (s : State) (c : CoreId) (f g : Core → Core) :
    (s.modifyCore c f).modifyCore c g = s.modifyCore c (g ∘ f) := by
  simp [State.modifyCore]

theorem State.modifyMe_modifyMe (s : State) (f g : Hart → Hart) :
    (s.modifyMe f).modifyMe g = s.modifyMe fun h => g (f h) := by
  unfold State.modifyMe
  rw [State.me_setMe]
  unfold State.setMe State.setHart
  simp only [State.modifyCore_modifyCore, State.modifyCore_cur]
  congr 1
  funext k
  exact Core.setHart_setHart _ _ _ _

/-- Two changes that agree on the hart that acts are one. -/
theorem State.modifyMe_congr {s : State} {f g : Hart → Hart} (h : f s.me = g s.me) : s.modifyMe f = s.modifyMe g :=
  congrArg s.setMe h

/-! ### An instruction that goes on -/

/-- An instruction completes when its own effect does. -/
theorem goes_of_body {i : Instr} {s t : State} {u : Uses} {body : State → Except Stop State} (hi : exec i s = issue s u body)
    (ha : s.Admits u) (hb : body (s.begun u) = .ok t) : Goes i s u t :=
  hi.trans (issue_of_admits ha hb)

/-! ### Bits and fields -/

theorem bitAt_toNat {n : Nat} (x : BitVec n) (i : Nat) : bitAt x.toNat i = x.getLsbD i := by
  rw [BitVec.getLsbD, Nat.testBit_eq_decide_div_mod_eq]
  rfl

/-! ### VLMAX and the grant of VSETL (R29, R30) -/

@[simp] theorem State.core_lanes_setHart (k : Core) (x : CtxId) (h : Hart) : (k.setHart x h).lanes = k.lanes := by
  simp [Core.lanes]

theorem State.core_lanes_modifyMe (s : State) (f : Hart → Hart) (c : CoreId) :
    ((s.modifyMe f).core c).lanes = (s.core c).lanes := by
  unfold State.modifyMe State.setMe State.setHart
  by_cases hc : c = s.cur.core
  · subst hc; simp
  · rw [State.core_modifyCore_ne _ _ _ _ hc]

/-- VLMAX depends on the lanes, the gang state and the partition only. -/
theorem vlmaxFor_modifyMe {s : State} {f : Hart → Hart} (n : Nat) (hg : (f s.me).gang = s.me.gang)
    (hl : (f s.me).link = s.me.link) : vlmaxFor (s.modifyMe f) n = vlmaxFor s n := by
  simp only [vlmaxFor, State.hartLanes, State.me_modifyMe, State.core_lanes_modifyMe, State.modifyMe_cur, hg, hl]

theorem State.myVlmax_of_user {s : State} (hc : s.cur.ctx ≠ 4) : s.myVlmax = vlmaxFor s s.me.names.toNat := by
  rw [State.myVlmax, State.vlmaxNow, if_neg hc]
  rfl

theorem State.vlmaxNow_of_user {s : State} (hc : s.cur.ctx ≠ 4) :
    s.vlmaxNow s.cur.core s.cur.ctx = vlmaxFor s s.me.names.toNat := State.myVlmax_of_user hc

/-! ### VCONF to VCFGRD (R186-R192) -/

theorem VecState.cleared_eq (v : VecState) (m : Nat) : v.cleared m = { v with
    v := Vector.replicate 64 0
    m := Vector.ofFn fun i : Fin 8 => if i = 0 then 2 ^ (8 * m) - 1 else 0 } := by
  unfold VecState.cleared
  congr 1

/-- What VCONF leaves of a hart: N, the cleared vector state under it, and VLMAX in D. -/
def Hart.configured (h : Hart) (d : Reg) (n : Word) (vlmax : Nat) : Hart :=
  (Hart.clearVector { h with names := n.setWidth 7 } vlmax).writeX d (word vlmax)

/-- The own effect of VCONF, in a user context and with an N that it accepts. -/
theorem State.clearVectorOf_names {t : State} {n : Word} (hc : t.cur.ctx ≠ 4) (h : n = 8 ∨ n = 16 ∨ n = 32 ∨ n = 64) :
    State.clearVectorOf (t.modifyMe fun h => { h with names := n.setWidth 7 }) t.cur.core t.cur.ctx =
      t.modifyMe fun h => Hart.clearVector { h with names := n.setWidth 7 } (vlmaxFor t n.toNat) := by
  have hn : (n.setWidth 7).toNat = n.toNat := by rcases h with h | h | h | h <;> subst h <;> rfl
  have hm : State.vlmaxNow (t.modifyMe fun h => { h with names := n.setWidth 7 }) t.cur.core t.cur.ctx = vlmaxFor t n.toNat := by
    refine (State.vlmaxNow_of_user (s := t.modifyMe fun h => { h with names := n.setWidth 7 }) hc).trans ?_
    rw [vlmaxFor_modifyMe (f := fun h => { h with names := n.setWidth 7 }) _ rfl rfl, State.me_modifyMe, hn]
  rw [← State.modifyMe_modifyMe t (fun h => { h with names := n.setWidth 7 }) (fun h => h.clearVector (vlmaxFor t n.toNat)), ← hm]
  rfl

theorem State.vconf_effect {t : State} {d : Reg} {n : Word} (hc : t.cur.ctx ≠ 4) (h : n = 8 ∨ n = 16 ∨ n = 32 ∨ n = 64)
    {r : State} (hr : r = State.clearVectorOf (t.modifyMe fun h => { h with names := n.setWidth 7 }) t.cur.core t.cur.ctx) :
    (r.modifyMe fun h => h.writeX d (word r.myVlmax)) = t.modifyMe fun h => h.configured d n (vlmaxFor t n.toNat) := by
  have hn : (n.setWidth 7).toNat = n.toNat := by rcases h with h | h | h | h <;> subst h <;> rfl
  rw [State.clearVectorOf_names hc h] at hr
  have hm : r.myVlmax = vlmaxFor t n.toNat := by
    rw [State.myVlmax_of_user (by rw [hr]; exact hc), hr, vlmaxFor_modifyMe _ rfl rfl, State.me_modifyMe]
    exact congrArg (vlmaxFor t) hn
  rw [hm, hr, State.modifyMe_modifyMe]
  rfl

theorem vconf_goes {s : State} {d : Reg} {b : Src} {u : Uses} (hu : u = { configUses d b with vown := true, commits := true })
    (hc : s.cur.ctx ≠ 4) (ha : s.Admits u) {n : Word} (hn : (s.begun u).me.srcWord b = n) (h : n = 8 ∨ n = 16 ∨ n = 32 ∨ n = 64) :
    Goes (.vconf d b) s u ((s.begun u).modifyMe fun h => h.configured d n (vlmaxFor (s.begun u) n.toNat)) := by
  subst hu hn
  refine goes_of_body (exec_vconf d b s) ha ?_
  dsimp only
  rw [if_pos h]
  exact congrArg Except.ok (State.vconf_effect (by rwa [s.begun_cur]) h rfl)

/-- The vector state that VSETL leaves (R187, R198). -/
def Hart.fitted (h : Hart) (vlmax : Nat) : VecState := if vlmax < h.vlmax.toNat then (h.shrink vlmax).vec else h.vec

theorem vsetl_goes {s : State} {d : Reg} {b : Src} {u : Uses} {m vl : Nat} (hc : s.cur.ctx ≠ 4)
    (hm : m = vlmaxFor s s.me.names.toNat)
    (hvl : vl = min (s.me.srcWord b).toNat
      (min (m * 64 / s.me.sew / s.me.vrows.toNat) (s.myCore.grant.toNat * 64 / s.me.sew)))
    (hu : u = { configUses d b with vown := decide (m < s.me.vlmax.toNat) }) (ha : s.Admits u) :
    Goes (.vsetl d b) s u ((s.modifyMe fun h =>
      { h with
        vec := s.me.fitted m, shrunk := h.shrunk || decide (m < h.vlmax.toNat), vlmax := BitVec.ofNat 16 m, reloc := false
        vl := BitVec.ofNat 32 vl }).wakeTile.modifyMe fun h => h.writeX d (word vl)) := by
  have hmy : s.myVlmax = m := (State.myVlmax_of_user hc).trans hm.symm
  have hg : s.grantedVl (s.me.srcWord b) = vl := by rw [State.grantedVl, hmy, hvl]
  have hw : s.wouldShrink = decide (m < s.me.vlmax.toNat) := by rw [State.wouldShrink, hmy]
  have he : exec (.vsetl d b) s = issue s { configUses d b with vown := s.wouldShrink } _ := exec_vsetl d b s
  rw [hw, ← hu] at he
  refine goes_of_body he ha ?_
  have hb : s.begun u = s := State.begun_of_open (by rw [hu]; rfl)
  simp only [hb, hmy, hg]
  refine congrArg (fun t : State => Except.ok (t.wakeTile.modifyMe fun h => h.writeX d (word vl))) (State.modifyMe_congr ?_)
  unfold Hart.fitted
  by_cases hlt : m < s.me.vlmax.toNat
  · simp only [if_pos hlt, decide_eq_true hlt, Bool.or_true]
    rfl
  · simp only [if_neg hlt, decide_eq_false hlt, Bool.or_false]

theorem vsetr_goes {s : State} {d : Reg} {b : Src} (ha : s.Admits (configUses d b)) (h1 : 1 ≤ (s.me.srcWord b).toNat)
    (h32 : (s.me.srcWord b).toNat ≤ 32) : Goes (.vsetr d b) s (configUses d b) (s.modifyMe fun h =>
      ({ h with vrows := BitVec.ofNat 6 (s.me.srcWord b).toNat, vl := 0 } : Hart).writeX d (word h.vrows.toNat)) := by
  refine goes_of_body (exec_vsetr d b s) ha ?_
  simp only [s.begun_of_open (u := configUses d b) rfl]
  rw [if_pos ⟨h1, h32⟩]
  rfl

theorem vcfgFault_eq_none {x : Word} {en : Bool} (h11 : x.toNat < 2 ^ 11) (h3 : x.getLsbD 3 = false)
    (hrm : x.toNat / 2 ^ 4 % 8 < 6) (hscope : x.toNat / 2 ^ 8 < 5 ∨ x.toNat / 2 ^ 8 = 5 ∧ en = true) :
    vcfgFault x en = none := by
  have hb : bitAt x.toNat 3 = false := (bitAt_toNat x 3).trans h3
  have h8 : fieldOf x.toNat 8 3 = x.toNat / 2 ^ 8 := Nat.mod_eq_of_lt (by omega)
  have h4 : fieldOf x.toNat 4 3 < 6 := hrm
  unfold vcfgFault
  rw [if_neg (by simp only [hb, Bool.false_eq_true, or_false]; omega), if_neg (by omega), if_neg]
  rw [h8]
  rintro ⟨h5, he⟩
  rcases hscope with h | ⟨-, h⟩
  · omega
  · simp [h] at he

theorem vsetcfg_goes {s : State} {d : Reg} {b : Src} (ha : s.Admits (configUses d b))
    (h : vcfgFault (s.me.srcWord b) s.myCore.srhEnabled = none) :
    Goes (.vsetcfg d b) s (configUses d b) (s.modifyMe fun h =>
      ({ h with vcfg := s.me.srcWord b
                vl := if (s.me.srcWord b).toNat % 4 = h.vcfg.toNat % 4 then h.vl else 0 } : Hart).writeX d h.vcfg) := by
  refine goes_of_body (exec_vsetcfg d b s) ha ?_
  simp only [s.begun_of_open (u := configUses d b) rfl, h]
  refine congrArg Except.ok (State.modifyMe_congr ?_)
  simp only [fieldOf, Nat.pow_zero, Nat.div_one, beq_iff_eq]
  grind

theorem vsetst_goes {s : State} {d : Reg} {b : Src} (ha : s.Admits (configUses d b)) :
    Goes (.vsetst d b) s (configUses d b) (s.modifyMe fun h => ({ h with vst := s.me.srcWord b } : Hart).writeX d h.vst) := by
  refine goes_of_body (exec_vsetst d b s) ha ?_
  simp only [s.begun_of_open (u := configUses d b) rfl]
  rfl

/-- Settles O24, instruction by instruction. -/
theorem vectorConfigCompletes : Obligations.VectorConfigCompletes := by
  unfold Obligations.VectorConfigCompletes
  intro s d b sel hc uConf u uRead h n
  refine ⟨fun ha hv => ?_, fun ha => ?_, vsetr_goes, fun ha h11 h3 hrm hscope => ?_, vsetst_goes, fun ha => goes_of_body (exec_vcfgrd d sel s) ha rfl⟩
  · have hg := vconf_goes rfl hc ha rfl hv
    rw [show (fun h : Hart => h.configured d _ _) = _ from funext fun h => by
      rw [Hart.configured, Hart.clearVector, VecState.cleared_eq]] at hg
    exact hg
  · refine ⟨_, vsetl_goes hc rfl rfl rfl ha, ?_, ?_, fun hle => if_neg (Nat.not_lt.2 hle), fun hlt => ?_⟩
    · unfold Hart.fitted; split <;> rfl
    · unfold Hart.fitted; split <;> rfl
    · rw [Hart.fitted, if_pos hlt]
      exact ⟨fun r => Vector.getElem_map _ _, fun r => Vector.getElem_map _ _⟩
  · exact vsetcfg_goes ha (vcfgFault_eq_none h11 h3 hrm (hscope.imp_right fun ⟨h5, he⟩ =>
      ⟨h5, (bitAt_toNat s.myCore.srhen 0).trans he⟩))

end Sys2Proof.Machine
end

section
/-!
The copy instructions (O32) and the circular buffers (O33).
-/

namespace Sys2Proof.Machine

open Stated

/-! ### Operations that may stop -/

theorem eq_ok_of_succeeds {ε α : Type} {r : Except ε α} (h : Succeeds r) (x : α) : r = .ok (given x r) := by
  obtain ⟨y, rfl⟩ := h
  rfl

@[simp] theorem require_of {p : Bool} (h : p = true) (s : State) (cause : BitVec 8) (v : Word) :
    require p s cause v = .ok () := by
  unfold require
  rw [if_pos h]

theorem isAligned_of {n : Nat} {a : Word} (h : a.toNat % n = 0) : isAligned n a = true := by
  simpa [isAligned] using h

/-- An instruction whose own effect ends in a trap. -/
theorem issue_of_trap {s s' : State} {u : Uses} {body : State → Except Stop State} {tr : Trap} (ha : s.Admits u)
    (hb : body (s.begun u) = .error (.trap tr s')) : issue s u body = .next (s'.takeTrap tr) :=
  issue_of_stop ha hb

/-! ### Circular buffers (R157-R160) -/

theorem cbinit_geometry {x : Word} (h1 : 1 ≤ x.toNat / 2 ^ 24) (h8 : x.toNat / 2 ^ 24 < 2 ^ 8) (hs : x.toNat % 2 ^ 24 ≠ 0)
    (h64 : x.toNat % 2 ^ 24 % 64 = 0) :
    fieldOf x.toNat 0 24 = x.toNat % 2 ^ 24 ∧ fieldOf x.toNat 24 8 = x.toNat / 2 ^ 24 ∧
      (fieldOf x.toNat 32 32 == 0 && fieldOf x.toNat 24 8 != 0 && fieldOf x.toNat 0 24 != 0
        && fieldOf x.toNat 0 24 % 64 == 0) = true := by
  have e0 : fieldOf x.toNat 0 24 = x.toNat % 2 ^ 24 := by simp [fieldOf]
  have e24 : fieldOf x.toNat 24 8 = x.toNat / 2 ^ 24 := Nat.mod_eq_of_lt h8
  have e32 : fieldOf x.toNat 32 32 = 0 := by unfold fieldOf; omega
  refine ⟨e0, e24, ?_⟩
  rw [e0, e24, e32]
  simp only [Bool.and_eq_true, beq_iff_eq, bne_iff_ne]
  exact ⟨⟨⟨trivial, by omega⟩, hs⟩, h64⟩

theorem cbinit_goes {s t : State} {d a b : Reg} {fa fb : Bool} {u : Uses} (hu : u =
      { regs := [⟨2, d, s.me.isCirc d⟩, ⟨0, a, isAddress a⟩, ⟨1, b, isG b⟩], vown := true
        sources := [⟨0, .x, a, fa⟩, ⟨1, .x, b, fb⟩], commits := true }) (ht : t = s.begun u) (ha : s.Admits u)
    {slot count : Nat} (hslot : slot = (t.me.readX b).toNat % 2 ^ 24) (hcount : count = (t.me.readX b).toNat / 2 ^ 24)
    (free : ∀ q ∈ t.me.cmds, shapeBuffer q.shape ≠ some d.toNat) (h1 : 1 ≤ count) (h8 : count < 2 ^ 8) (hs : slot ≠ 0)
    (h64 : slot % 64 = 0) (hbase : (t.me.readX a).toNat % 64 = 0) {at_ : BufId × Nat}
    (hr : t.circRange (t.me.readX a) (count * slot) = .ok at_) :
    Goes (.cbinit d a b fa fb) s u (t.modifyMe fun h => h.setCirc d.toNat
      { init := true, base := t.me.readX a, buf := at_.1, localBase := at_.2, slot := BitVec.ofNat 24 slot
        count := BitVec.ofNat 8 count, free := BitVec.ofNat 8 count, filled := 0, held := 0, p := 0, c := 0 }) := by
  subst hu hslot hcount
  obtain ⟨e0, e24, hgeo⟩ := cbinit_geometry h1 h8 hs h64
  refine goes_of_body (exec_cbinit d a b fa fb s) ha ?_
  rw [← ht]
  have hq : (t.me.cmds.any fun q => shapeBuffer q.shape == some d.toNat) = false := by simpa using free
  simp only [hq, Bool.false_eq_true, if_false, require_of hgeo, require_of (isAligned_of hbase)]
  rw [e0, e24]
  simp only [hr]
  rfl

theorem cbwait_goes {s t : State} {d a : Reg} (ht : t = s.begun (s.me.circUses d a)) (ha : s.Admits (s.me.circUses d a))
    (hi : (t.me.circ a.toNat).init = true) (hf : (t.me.circ a.toNat).filled ≠ 0) :
    Goes (.cbwait d a) s (s.me.circUses d a) (t.modifyMe fun h =>
      (h.setCirc a.toNat { t.me.circ a.toNat with
        filled := (t.me.circ a.toNat).filled - 1, held := (t.me.circ a.toNat).held + 1
        c := BitVec.ofNat 8 (((t.me.circ a.toNat).c.toNat + 1) % (t.me.circ a.toNat).count.toNat) }).produceX d
          ((t.me.circ a.toNat).base + word ((t.me.circ a.toNat).c.toNat * (t.me.circ a.toNat).slot.toNat))) := by
  refine goes_of_body (exec_cbwait d a s) ha ?_
  simp only [← ht, hi, Bool.not_true, Bool.false_eq_true, if_false, hf]

theorem cbrel_goes {s t : State} {d a : Reg} {n : Src} {u : Uses} (hu : u = { s.me.circUses d a with
      len := srcBytes n, regs := [⟨2, d, isScalar d⟩, ⟨0, a, s.me.isCirc a⟩] ++ srcField isScalar n, sources := srcSource .x n })
    (ht : t = s.begun u) (ha : s.Admits u) (hi : (t.me.circ a.toNat).init = true) (hr : t.circReads a.toNat = false) {k : Nat}
    (hk : k = min (t.me.srcWord n).toNat (t.me.circ a.toNat).held.toNat) :
    Goes (.cbrel d a n) s u (t.modifyMe fun h =>
      (h.setCirc a.toNat { t.me.circ a.toNat with
        held := (t.me.circ a.toNat).held - BitVec.ofNat 8 k, free := (t.me.circ a.toNat).free + BitVec.ofNat 8 k }).writeX d
        (word k)) := by
  subst hu hk
  refine goes_of_body (exec_cbrel d a n s) ha ?_
  simp only [← ht, hi, hr, Bool.not_true, Bool.false_eq_true, if_false]

/-- Settles O33, instruction by instruction. -/
theorem circularBuffersComplete : Obligations.CircularBuffersComplete := by
  unfold Obligations.CircularBuffersComplete
  intro s d a b n fa fb
  refine ⟨fun ha free h1 h8 hs h64 hbase hr => ?_, fun ha => ⟨cbwait_goes rfl ha, ?_⟩, fun ha hi hr => cbrel_goes rfl rfl ha hi hr rfl⟩
  · exact cbinit_goes rfl rfl ha rfl rfl free h1 h8 hs h64 hbase (eq_ok_of_succeeds hr _)
  · refine goes_of_body (exec_cbstat d a s) ha ?_
    rfl

/-! ### The checks of a copy command (R147) -/

theorem shiftBy_zero_aligned {z : Int} (h : z % 8 = 0) : isAligned 8 (shiftBy 0 z) = true := by
  apply isAligned_of
  rw [shiftBy, show (0 : Word) + word (wrap 64 z) = word (wrap 64 z) from BitVec.zero_add _, word, BitVec.toNat_ofNat, wrap]
  omega

theorem signed_mod_eight {x : Nat} (h : x % 8 = 0) : signed 32 x % 8 = 0 := by
  unfold signed
  split <;> omega

theorem find_not_eq_none {α : Type} {p : α → Bool} {xs : List α} (h : ∀ x ∈ xs, p x = true) :
    (xs.find? fun x => !p x) = none := List.find?_eq_none.2 fun x hx => by simp [h x hx]

/-- A shape word without CBV and with rows and bytes, in the fields of R146. -/
theorem shape_fields {shape : Word} (h : shape.toNat / 2 ^ 40 = 0) :
    shapeCbv shape = false ∧ shapeCb shape = 0 ∧ fieldOf shape.toNat 40 19 = 0 ∧ shapeRows shape = shape.toNat / 2 ^ 24 ∧
      shapeLen shape = shape.toNat % 2 ^ 24 := by
  have hb : shape.toNat < 2 ^ 40 := by omega
  have h63 : fieldOf shape.toNat 63 1 = 0 := by unfold fieldOf; omega
  refine ⟨?_, ?_, ?_, Nat.mod_eq_of_lt (by omega), by simp [shapeLen, fieldOf]⟩
  · rw [shapeCbv, bitAt, h63]; rfl
  · unfold shapeCb fieldOf; omega
  · unfold fieldOf; omega

theorem unalignedCopy_eq_none {src dst shape strides : Word} (hc : shapeCbv shape = false) (hs : src.toNat % 8 = 0)
    (hd : dst.toNat % 8 = 0) (h0 : strides.toNat % 8 = 0) (h32 : strides.toNat / 2 ^ 32 % 8 = 0)
    (hl : shapeLen shape % 8 = 0) : unalignedCopy src dst shape strides = none := by
  have h1 : isAligned 8 (shiftBy 0 (srcStride strides)) = true :=
    shiftBy_zero_aligned (signed_mod_eight (by unfold fieldOf; omega))
  have h2 : isAligned 8 (shiftBy 0 (dstStride strides)) = true :=
    shiftBy_zero_aligned (signed_mod_eight (by unfold fieldOf; omega))
  have h3 : isAligned 8 (word (shapeLen shape)) = true := isAligned_of (by rw [word, BitVec.toNat_ofNat]; omega)
  unfold unalignedCopy
  rw [hc]
  refine find_not_eq_none (p := isAligned 8) ?_
  simp only [Bool.false_eq_true, if_false, List.cons_append, List.nil_append, List.forall_mem_cons, List.not_mem_nil,
    false_imp_iff, implies_true, and_true]
  exact ⟨isAligned_of hs, isAligned_of hd, h1, h2, h3⟩

/-- Between two pages of main memory a command with aligned operands passes the checks. -/
theorem State.checkCopy_of_main {s : State} {src dst shape strides : Word} (h40 : shape.toNat / 2 ^ 40 = 0)
    (hlen : shape.toNat % 2 ^ 24 ≠ 0) (hrows : shape.toNat / 2 ^ 24 ≠ 0) (hu : unalignedCopy src dst shape strides = none)
    {p q : Nat} (hp : s.place .copy .load src = .ok (.main p)) (hq : s.place .copy .store dst = .ok (.main q)) :
    s.checkCopy src dst shape strides = .ok (none, none) := by
  obtain ⟨hcbv, hcb, h19, hr, hl⟩ := shape_fields h40
  have hok : s.me.shapeOk shape = true := by simp [Hart.shapeOk, hcbv, hcb, h19]
  have hne : ¬(shapeRows shape = 0 ∨ shapeLen shape = 0) := by rw [hr, hl]; tauto
  unfold State.checkCopy
  rw [require_of hok, hu]
  simp only [if_neg hne, hp, hq, hcbv]
  rfl

/-! ### CPY (R144, R147) -/

theorem Hart.queueCopy_eq_queued (h : Hart) (age : Nat) (src dst shape strides : Word) (follow : Option MmaWork)
    (sides : Option (BufId × Nat) × Option (BufId × Nat)) :
    h.queueCopy age src dst shape strides follow sides = queued age h src dst shape strides follow sides := by
  unfold Hart.queueCopy queued
  cases h.strip.any holdsStore <;> simp

theorem State.copyQueueFull_of_lt {s : State} (h : s.myCore.queuedCopies < 32) : s.copyQueueFull = false := by
  simpa [State.copyQueueFull] using h

theorem cpy_goes {s : State} {d a b : Reg} {fa fb : Bool} {u : Uses} (hu : u =
      { regs := [⟨2, d, isG d⟩, ⟨0, a, isAddressPair a⟩, ⟨1, b, isGPair b⟩], vown := s.me.namesCirc b
        sources := [⟨0, .xs 2, a, fa⟩, ⟨1, .xs 2, b, fb⟩], dests := [(.x, d)] }) (ha : s.Admits u)
    {sides : Option (BufId × Nat) × Option (BufId × Nat)}
    (hs : s.checkCopy (s.me.readX a) (s.me.readX (a + 1)) (s.me.readX b) (s.me.readX (b + 1)) = .ok sides)
    (hq : s.myCore.queuedCopies < 32) :
    Goes (.cpy d a b fa fb) s u ((s.handOff s.cur.core).modifyMe fun h =>
      (queued s.myCore.handed h (h.readX a) (h.readX (a + 1)) (h.readX b) (h.readX (b + 1)) none sides).writeX d (h.seq + 1)) := by
  subst hu
  refine goes_of_body (exec_cpy d a b fa fb s) ha ?_
  rw [s.begun_of_open rfl]
  simp only [hs, State.copyQueueFull_of_lt hq, Bool.false_eq_true, if_false, Hart.queueCopy_eq_queued]
  rfl

/-! ### The report that CPYWAIT delivers (R152) -/

/-- The lower of two reports by their tickets, the earlier one where they are equal. -/
def CopyReport.lower (acc : Option CopyReport) (r : CopyReport) : Option CopyReport :=
  match acc with
  | none => some r
  | some a => if r.ticket < a.ticket then some r else some a

theorem lowestReport_eq (p : CopyReport → Bool) (t : Word) (rs : List CopyReport) : lowestReport p t rs =
    (rs.filter fun r => p r && decide (r.ticket ≤ t)).foldl CopyReport.lower none := rfl

/-- A report that stands below every other one of a list is what the list comes to. -/
theorem CopyReport.foldl_lower {a : CopyReport} : (rs : List CopyReport) → (acc : Option CopyReport) →
    (∀ r ∈ rs, r = a ∨ a.ticket < r.ticket) → (∀ b, acc = some b → b = a ∨ a.ticket < b.ticket) → (a ∈ rs ∨ acc = some a) →
    rs.foldl CopyReport.lower acc = some a
  | [], acc, _, _, hm => hm.resolve_left List.not_mem_nil
  | r :: rs, acc, hrs, hacc, hm => by
    rw [List.forall_mem_cons] at hrs
    obtain ⟨hr, hrs⟩ := hrs
    refine CopyReport.foldl_lower rs _ hrs ?_ ?_
    · intro b hb
      cases acc with
      | none => cases hb; exact hr
      | some c =>
        simp only [CopyReport.lower] at hb
        split at hb <;> cases hb
        · exact hr
        · exact hacc _ rfl
    · rcases hm with hm | rfl
      · rcases List.mem_cons.1 hm with rfl | hm
        · right
          cases acc with
          | none => rfl
          | some c =>
            rcases hacc c rfl with hc | hc
            · simp [CopyReport.lower, hc]
            · simp [CopyReport.lower, hc]
        · exact .inl hm
      · right
        rcases hr with rfl | hr
        · simp [CopyReport.lower]
        · simp only [CopyReport.lower]
          rw [if_neg]
          intro hlt
          rw [BitVec.lt_def] at hr hlt
          omega

theorem lowestReport_eq_none {p : CopyReport → Bool} {t : Word} {rs : List CopyReport}
    (h : ∀ r ∈ rs, r.ticket ≤ t → p r = false) : lowestReport p t rs = none := by
  rw [lowestReport_eq, List.filter_eq_nil_iff.2]
  · rfl
  · intro r hr
    simp only [Bool.and_eq_true, decide_eq_true_eq, not_and]
    intro hp hle
    rw [h r hr hle] at hp
    cases hp

theorem lowestReport_eq_some {p : CopyReport → Bool} {t : Word} {rs : List CopyReport} {a : CopyReport} (ha : a ∈ rs)
    (hp : p a = true) (ht : a.ticket ≤ t) (h : ∀ r ∈ rs, p r = true → r.ticket ≤ t → r = a ∨ a.ticket < r.ticket) :
    lowestReport p t rs = some a := by
  rw [lowestReport_eq]
  refine CopyReport.foldl_lower _ _ (fun r hr => ?_) (fun b hb => ?_) (.inl ?_)
  · simp only [List.mem_filter, Bool.and_eq_true, decide_eq_true_eq] at hr
    obtain ⟨hr, hpr, hle⟩ := hr
    exact h r hr hpr hle
  · cases hb
  · simp [ha, hp, ht]

section
variable {s t : State} {d a : Reg} {fa : Bool} {n : Word} (ht : t = s.begun (waitUses d a fa))
  (hn : n = if t.me.readX a = 0 ∨ t.me.seq < t.me.readX a then t.me.seq else t.me.readX a) (ha : s.Admits (waitUses d a fa))
  (hd : t.me.copiesDone n = true)
include ht hn ha hd

theorem cpywait_goes_none (hr : ∀ r ∈ t.me.copyReports, ¬r.ticket ≤ n) :
    Goes (.cpywait d a fa) s (waitUses d a fa) (t.modifyMe fun h => h.produceX d 0) := by
  refine goes_of_body (exec_cpywait d a fa s) ha ?_
  have none (p : CopyReport → Bool) : lowestReport p n t.me.copyReports = none :=
    lowestReport_eq_none fun r hm hle => absurd hle (hr r hm)
  simp only [← ht, ← hn, hd, none, Bool.not_true, Bool.false_eq_true, if_false]

theorem cpywait_goes_discarded {k : Word} (hm : .discarded k ∈ t.me.copyReports) (hk : k ≤ n)
    (hr : ∀ r ∈ t.me.copyReports, r.ticket ≤ n → r.isAbort = false ∧ (r = .discarded k ∨ k < r.ticket)) :
    Goes (.cpywait d a fa) s (waitUses d a fa) (t.modifyMe fun h =>
      ({ h with copyReports := eraseFirst (· == .discarded k) h.copyReports } : Hart).produceX d k) := by
  refine goes_of_body (exec_cpywait d a fa s) ha ?_
  have aborts : lowestReport CopyReport.isAbort n t.me.copyReports = none :=
    lowestReport_eq_none fun r hm hle => (hr r hm hle).1
  have lowest : lowestReport (fun r => !r.isAbort) n t.me.copyReports = some (.discarded k) :=
    lowestReport_eq_some hm rfl hk fun r hm _ hle => (hr r hm hle).2
  simp only [← ht, ← hn, hd, aborts, lowest, Bool.not_true, Bool.false_eq_true, if_false]
  rfl

theorem cpywait_traps {k : Word} {f : Held} (hm : .aborted k f ∈ t.me.copyReports) (hk : k ≤ n)
    (hr : ∀ r ∈ t.me.copyReports, r.ticket ≤ n → r.isAbort = true → r = .aborted k f ∨ k < r.ticket) :
    exec (.cpywait d a fa) s = .next (((t.modifyMe fun h =>
      ({ h with copyReports := eraseFirst (· == .aborted k f) h.copyReports } : Hart).writeX d k).chargeUses
        (waitUses d a fa)).takeTrap
      { cause := f.cause, val := f.val, elt := f.elt, row := f.row, epc := some (s.me.pc + 4) }) := by
  have lowest : lowestReport CopyReport.isAbort n t.me.copyReports = some (.aborted k f) :=
    lowestReport_eq_some hm rfl hk fun r hm hp hle => hr r hm hle hp
  have hpc : t.me.pc = s.me.pc := by rw [ht, s.begun_me_pc]
  rw [exec_cpywait, ← hpc]
  refine issue_of_trap ha ?_
  simp only [← ht, ← hn, hd, lowest, Bool.not_true, Bool.false_eq_true, if_false]
  rfl

end

theorem Hart.copiesDone_of {h : Hart} {n : Word} (hc : ∀ q ∈ h.cmds, n.toNat < q.ticket.toNat)
    (hf : ∀ f ∈ h.followOns, n.toNat < f.ticket.toNat) : h.copiesDone n = true := by
  unfold Hart.copiesDone
  simp only [Bool.and_eq_true, Bool.not_eq_true', List.any_eq_false, decide_eq_true_eq, BitVec.le_def]
  exact ⟨fun q hq => Nat.not_le.2 (hc q hq), fun f hq => Nat.not_le.2 (hf f hq)⟩

/-! ### Slots (R242-R244) -/

theorem State.hart_modifyCore_of {s : State} {c : CoreId} {f : Core → Core}
    (h : ∀ x, (f (s.core c)).hart x = (s.core c).hart x) (e : CoreId) (x : CtxId) :
    (s.modifyCore c f).hart e x = s.hart e x := by
  unfold State.hart
  by_cases he : e = c
  · subst he; rw [State.core_modifyCore]; exact h x
  · rw [State.core_modifyCore_ne _ _ _ _ he]

@[simp] theorem State.modifySlot_me (s : State) (z : Reg) (f : Slot → Slot) : (s.modifySlot z f).me = s.me :=
  State.hart_modifyCore_of (fun _ => rfl) _ _

@[simp] theorem State.modifySlot_dev (s : State) (z : Reg) (f : Slot → Slot) : (s.modifySlot z f).dev = s.dev := rfl

@[simp] theorem State.modifySlot_cur (s : State) (z : Reg) (f : Slot → Slot) : (s.modifySlot z f).cur = s.cur := rfl

/-- The slot that is searched for a handle of the hart that acts. -/
def Slot.isOf (owner : BitVec 48) (z : Reg) (q : Slot) : Bool := q.owner == owner && q.handle.toNat == z.toNat

theorem State.slotOf_eq (s : State) (z : Reg) : s.slotOf z = s.myCore.slots.find? (Slot.isOf s.me.id z) := rfl

theorem State.modifySlot_slots (s : State) (z : Reg) (f : Slot → Slot) :
    (s.modifySlot z f).myCore.slots = s.myCore.slots.map fun q => if Slot.isOf s.me.id z q then f q else q := by
  unfold State.myCore State.modifySlot
  exact congrArg Core.slots (State.core_modifyCore s s.cur.core _)

/-- A change of a slot that keeps its owner and its handle. -/
def KeepsOwner (f : Slot → Slot) : Prop := ∀ q, (f q).owner = q.owner ∧ (f q).handle = q.handle

theorem Slot.isOf_keeps {f : Slot → Slot} (hf : KeepsOwner f) (owner : BitVec 48) (y z : Reg) (q : Slot) :
    Slot.isOf owner y (if Slot.isOf owner z q then f q else q) = Slot.isOf owner y q := by
  split
  · unfold Slot.isOf; rw [(hf q).1, (hf q).2]
  · rfl

theorem State.slotOf_modifySlot {s : State} {f : Slot → Slot} (hf : KeepsOwner f) (y z : Reg) :
    (s.modifySlot z f).slotOf y = (s.slotOf y).map fun q => if Slot.isOf s.me.id z q then f q else q := by
  rw [State.slotOf_eq, State.modifySlot_slots, State.modifySlot_me, List.find?_map, State.slotOf_eq]
  exact congrArg (fun p => Option.map _ (List.find? p _)) (funext fun q => Slot.isOf_keeps hf _ y z q)

theorem State.slotOf_modifySlot_same {s : State} {f : Slot → Slot} (hf : KeepsOwner f) (z : Reg) :
    (s.modifySlot z f).slotOf z = (s.slotOf z).map f := by
  rw [State.slotOf_modifySlot hf]
  cases h : s.slotOf z with
  | none => rfl
  | some q =>
    have hq : Slot.isOf s.me.id z q = true := List.find?_some h
    simp [hq]

theorem State.slotOf_modifySlot_ne {s : State} {f : Slot → Slot} (hf : KeepsOwner f) {y z : Reg} (hn : y ≠ z) :
    (s.modifySlot z f).slotOf y = s.slotOf y := by
  rw [State.slotOf_modifySlot hf]
  cases h : s.slotOf y with
  | none => rfl
  | some q =>
    have hq : Slot.isOf s.me.id y q = true := List.find?_some h
    have hz : Slot.isOf s.me.id z q = false := by
      simp only [Slot.isOf, Bool.and_eq_true, beq_iff_eq, Bool.and_eq_false_iff, beq_eq_false_iff_ne] at hq ⊢
      exact .inr fun e => hn (BitVec.eq_of_toNat_eq (hq.2.symm.trans e))
    simp [hz]

/-- A change of one slot leaves memory, the hart, and every other slot. -/
theorem State.onlySlot_modifySlot {s : State} {f : Slot → Slot} (hf : KeepsOwner f) (z : Reg) :
    OnlySlot s (s.modifySlot z f) z := by
  unfold OnlySlot
  rw [State.modifySlot_me]
  exact ⟨rfl, rfl, rfl, rfl, fun y _ hn => State.slotOf_modifySlot_ne hf hn⟩

theorem onlySlot_trans {s t r : State} {z : Reg} (h : OnlySlot s t z) (k : OnlySlot t r z) : OnlySlot s r z := by
  obtain ⟨hm, hx, hv, hc, hs⟩ := h
  obtain ⟨km, kx, kv, kc, ks⟩ := k
  exact ⟨km.trans hm, kx.trans hx, kv.trans hv, kc.trans hc, fun y hy hn => (ks y hy hn).trans (hs y hy hn)⟩

/-- A binding of a handle that has no slot (R243). -/
theorem State.bindSlot_of_bindable {s : State} {z : Reg} {n : Nat} (kind : ZKind) (hz : z.toNat < 16) (hb : Bindable s z n) :
    ∃ t, s.bindSlot z kind = .ok t ∧ t.me = s.me ∧ t.dev = s.dev ∧ t.cur = s.cur ∧ OnlySlot s t z ∧
      ∃ q, t.slotOf z = some q ∧ q.kind = kind ∧ q.tile = 0 ∧ q.poison = [] ∧ q.number.toNat = n % 128 := by
  obtain ⟨hnone, hfree⟩ := hb
  let bound : Slot := { number := BitVec.ofNat 7 n, owner := s.me.id, handle := BitVec.ofNat 4 z.toNat, kind, tile := 0 }
  let t := s.modifyCore s.cur.core fun k => { k with slots := k.slots ++ [bound] }
  have hme : t.me = s.me := State.hart_modifyCore_of (fun _ => rfl) _ _
  have hslot (y : Reg) : t.slotOf y = (s.slotOf y).or ([bound].find? (Slot.isOf s.me.id y)) := by
    rw [State.slotOf_eq, State.slotOf_eq, hme, ← List.find?_append]
    exact congrArg (fun k : Core => k.slots.find? _) (State.core_modifyCore s s.cur.core _)
  have hhandle : bound.handle.toNat = z.toNat := by simp [bound]; omega
  refine ⟨t, ?_, hme, rfl, rfl, ⟨rfl, by rw [hme], by rw [hme], by rw [hme], fun y _ hn => ?_⟩, bound, ?_, rfl, rfl, rfl, ?_⟩
  · unfold State.bindSlot
    cases hs : s.myCore.freeSlots with
    | nil => rw [hs] at hfree; cases hfree
    | cons m ms => rw [hs] at hfree; cases hfree; rfl
  · have hy : Slot.isOf s.me.id y bound = false := by
      simp only [Slot.isOf, hhandle, Bool.and_eq_false_iff, beq_eq_false_iff_ne]
      exact .inr fun e => hn (BitVec.eq_of_toNat_eq e.symm)
    rw [hslot, List.find?_cons_of_neg (by simp [hy])]
    simp
  · have hy : Slot.isOf s.me.id z bound = true := by
      simp only [Slot.isOf, hhandle, Bool.and_eq_true, beq_iff_eq, and_true]
      rfl
    rw [hslot, hnone, List.find?_cons_of_pos hy]
    rfl
  · exact BitVec.toNat_ofNat _ _

theorem State.bindIfNeeded_of_some {s : State} {z : Reg} (kind : ZKind) {q : Slot} (h : s.slotOf z = some q) :
    s.bindIfNeeded z kind = .ok s := by
  unfold State.bindIfNeeded
  rw [h]

theorem State.bindIfNeeded_of_none {s : State} {z : Reg} (kind : ZKind) (h : s.slotOf z = none) :
    s.bindIfNeeded z kind = s.bindSlot z kind := by
  unfold State.bindIfNeeded
  rw [h]

/-! ### CPYMMA (R153) -/

/-- The work of an MMA as its registers stand. -/
def Hart.mmaWorkOf (h : Hart) (z a b : Reg) (fmt : BitVec 4) (kn : BitVec 2) (acc : Bool) : MmaWork :=
  { word := mmaWord z a b fmt kn acc, z := z.setWidth 4, fmt, kn, acc, a := h.mmaOperand a, b := h.mmaOperand b }

/-- The slot of an MMA: bound, in its own kind where it adds, or to be bound. -/
def MmaSlot (s : State) (z : Reg) (kind : ZKind) (acc : Bool) : Prop :=
  if acc then ∃ q, s.slotOf z = some q ∧ q.kind = kind else (s.slotOf z).isSome = true ∨ ∃ n, Bindable s z n

/-- The state in which the handle of an MMA is bound. -/
theorem State.bindIfNeeded_ok {s : State} {z : Reg} {kind : ZKind} {acc : Bool} (hz : z.toNat < 16) (hs : MmaSlot s z kind acc) :
    ∃ t q, s.bindIfNeeded z kind = .ok t ∧ t.me = s.me ∧ t.dev = s.dev ∧ OnlySlot s t z ∧ t.slotOf z = some q ∧
      ∀ o, s.slotOf z = some o → q = o := by
  have bound {q : Slot} (h : s.slotOf z = some q) : ∃ t q, s.bindIfNeeded z kind = .ok t ∧ t.me = s.me ∧ t.dev = s.dev ∧
      OnlySlot s t z ∧ t.slotOf z = some q ∧ ∀ o, s.slotOf z = some o → q = o :=
    ⟨s, q, State.bindIfNeeded_of_some kind h, rfl, rfl, ⟨rfl, rfl, rfl, rfl, fun _ _ _ => rfl⟩, h, fun o ho => by
      rw [h] at ho; exact Option.some.inj ho⟩
  unfold MmaSlot at hs
  cases h : s.slotOf z with
  | some q => rw [← h]; exact bound h
  | none =>
    obtain ⟨n, hb⟩ : ∃ n, Bindable s z n := by
      simp only [h, Option.isSome_none, reduceCtorEq, false_and, exists_false, false_or, Bool.false_eq_true, if_false_left] at hs
      exact hs.2
    obtain ⟨t, ht, hme, hdev, -, honly, q, hq, -⟩ := State.bindSlot_of_bindable kind hz hb
    exact ⟨t, q, (State.bindIfNeeded_of_none kind h).trans ht, hme, hdev, honly, hq, fun o ho => by cases ho⟩

theorem keepsOwner_setKind (kind : ZKind) : KeepsOwner fun q => { q with kind } := fun _ => ⟨rfl, rfl⟩

theorem State.prepareMma_ok {s : State} {z a b : Reg} {fmt : BitVec 4} {kn : BitVec 2} {acc : Bool} (hz : z.toNat < 16)
    (hs : MmaSlot s z (mmaKind fmt.toNat) acc) (ha : (s.me.mmaOperand a).misaligned fmt.toNat = none)
    (hb : (s.me.mmaOperand b).misaligned fmt.toNat = none) (hg : 8 ≤ a.toNat ∨ 8 ≤ b.toNat → fmt ≠ 7 ∧ fmt ≠ 8) :
    ∃ t q, s.prepareMma z a b fmt kn acc = .ok (s.me.mmaWorkOf z a b fmt kn acc, t) ∧ t.me = s.me ∧ t.dev = s.dev ∧
      OnlySlot s t z ∧ t.slotOf z = some q ∧ q.kind = mmaKind fmt.toNat ∧
      ∀ o, s.slotOf z = some o → q = { o with kind := mmaKind fmt.toNat } := by
  obtain ⟨t, q, ht, hme, hdev, honly, hq, hold⟩ := State.bindIfNeeded_ok hz hs
  have keeps := keepsOwner_setKind (mmaKind fmt.toNat)
  refine ⟨t.modifySlot z fun q => { q with kind := mmaKind fmt.toNat }, { q with kind := mmaKind fmt.toNat }, ?_,
    (t.modifySlot_me z _).trans hme, hdev, onlySlot_trans honly (State.onlySlot_modifySlot keeps z), ?_, rfl,
    fun o ho => by rw [hold o ho]⟩
  · have defined : (acc && (s.slotOf z).isNone) = false ∧ (acc && (s.slotOf z).any fun q => q.kind != mmaKind fmt.toNat) = false := by
      cases acc with
      | false => exact ⟨rfl, rfl⟩
      | true =>
        obtain ⟨o, ho, hk⟩ : ∃ o, s.slotOf z = some o ∧ o.kind = mmaKind fmt.toNat := hs
        simp [ho, hk]
    have generators : ([a, b].find? fun r => isGen r && (fmt.toNat == 7 || fmt.toNat == 8)) = none := by
      rw [List.find?_eq_none]
      intro r hr hp
      simp only [isGen, Bool.and_eq_true, Bool.or_eq_true, decide_eq_true_eq, beq_iff_eq] at hp
      obtain ⟨⟨h8, -⟩, hf⟩ := hp
      obtain ⟨h7, h8⟩ := hg (by simp only [List.mem_cons, List.not_mem_nil, or_false] at hr; rcases hr with rfl | rfl; exacts [.inl h8, .inr h8])
      exact hf.elim (fun e => h7 (BitVec.eq_of_toNat_eq e)) fun e => h8 (BitVec.eq_of_toNat_eq e)
    unfold State.prepareMma
    simp only [defined, generators, ha, hb, ht, Bool.false_eq_true, if_false, Option.orElse]
    rfl
  · rw [State.slotOf_modifySlot_same keeps, hq]
    rfl

theorem cpymma_goes {s : State} {d a z sa sb : Reg} {fa : Bool} {fmt : BitVec 4} {kn : BitVec 2} {acc : Bool} {u : Uses} (hu : u =
      { len := 8
        regs := [⟨2, d, isGPair d⟩, ⟨0, a, isAddressPair a⟩, ⟨3, z, isHandle z⟩, ⟨3, sa, isHandle sa⟩, ⟨3, sb, isHandle sb⟩]
        vown := s.me.namesCirc d, sources := [⟨0, .xs 2, a, fa⟩, ⟨2, .xs 2, d, false⟩] }) (ha : s.Admits u)
    {sides : Option (BufId × Nat) × Option (BufId × Nat)} {w : MmaWork} {t : State}
    (hs : s.checkCopy (s.me.readX a) (s.me.readX (a + 1)) (s.me.readX d) (s.me.readX (d + 1)) = .ok sides)
    (hw : s.prepareMma z sa sb fmt kn acc = .ok (w, t)) (hq : s.myCore.queuedCopies < 32) :
    Goes (.cpymma d a fa z sa sb fmt kn acc) s u ((t.handOff t.cur.core).modifyMe fun h =>
      queued t.myCore.handed h (h.readX a) (h.readX (a + 1)) (h.readX d) (h.readX (d + 1)) (some w) sides) := by
  subst hu
  refine goes_of_body (exec_cpymma d a fa z sa sb fmt kn acc s) ha ?_
  rw [s.begun_of_open rfl]
  simp only [hs, hw, State.copyQueueFull_of_lt hq, Bool.false_eq_true, if_false, Hart.queueCopy_eq_queued]

/-- Settles O32: the checks, CPY, CPYMMA and the three answers of CPYWAIT. -/
theorem copyInstructionsComplete : Obligations.CopyInstructionsComplete := by
  unfold Obligations.CopyInstructionsComplete
  intro s d a b z sa sb fa fb fmt kn acc h work
  refine ⟨fun src dst shape strides h40 hlen hrows hsrc hdst h0 h32 h8 hp hq => ?_, fun ha hs hq => ?_,
    fun ha hs hq hslot hma hmb hgen => ?_, fun ha hcmds hfollow => ?_⟩
  · obtain ⟨p, hp⟩ := hp
    obtain ⟨q, hq⟩ := hq
    obtain ⟨hcbv, -, -, -, hl⟩ := shape_fields h40
    exact State.checkCopy_of_main h40 hlen hrows (unalignedCopy_eq_none hcbv hsrc hdst h0 h32 (by rw [hl]; omega)) hp hq
  · exact cpy_goes rfl ha (eq_ok_of_succeeds hs _) hq
  · have hz : z.toNat < 16 := by
      have := ha.fields ⟨3, z, isHandle z⟩ (by simp)
      simpa [isHandle] using this
    obtain ⟨t, q, ht, hme, hdev, honly, hqs, hkind, hold⟩ := State.prepareMma_ok (kn := kn) hz hslot hma hmb hgen
    exact ⟨t, q, hme, hdev, honly, hqs, hkind, hold, cpymma_goes rfl ha (eq_ok_of_succeeds hs _) ht hq⟩
  · have hd := Hart.copiesDone_of hcmds hfollow
    refine ⟨fun hr => cpywait_goes_none rfl rfl ha hd fun r hm hle => hr ⟨r, hm, hle⟩, fun k hk hr => ?_, fun k f hk hr => ?_⟩
    · exact cpywait_goes_discarded rfl rfl ha hd hk.1 hk.2 fun r hm hle => hr r ⟨hm, hle⟩
    · exact cpywait_traps rfl rfl ha hd hk.1 hk.2 fun r hm hle => hr r ⟨hm, hle⟩

end Sys2Proof.Machine
end

section
/-!
Fields of numbers and words of lists, and the accumulator instructions that compute (O29).
-/

namespace Sys2Proof.Machine

open Stated

/-! ### Fields of a number written and read -/

theorem fieldOf_add_mul {a f c lo w : Nat} (ha : a < 2 ^ lo) (hf : f < 2 ^ w) : fieldOf (a + 2 ^ lo * (f + 2 ^ w * c)) lo w = f := by
  rw [fieldOf, Nat.add_mul_div_left _ _ (Nat.two_pow_pos lo), Nat.div_eq_of_lt ha, Nat.zero_add, Nat.add_mul_mod_self_left,
    Nat.mod_eq_of_lt hf]

/-- A number as what stands below a field, the field, and what stands above it. -/
theorem eq_parts (x lo w : Nat) : x = x % 2 ^ lo + 2 ^ lo * (fieldOf x lo w + 2 ^ w * (x / 2 ^ (lo + w))) := by
  rw [fieldOf, Nat.pow_add, ← Nat.div_div_eq_div_mul, Nat.mod_add_div, Nat.mod_add_div]

theorem setField_eq (x lo w v : Nat) : setField x lo w v = x % 2 ^ lo + 2 ^ lo * (v % 2 ^ w + 2 ^ w * (x / 2 ^ (lo + w))) := by
  have h := eq_parts x lo w
  have e : 2 ^ lo * (fieldOf x lo w + 2 ^ w * (x / 2 ^ (lo + w))) =
    fieldOf x lo w * 2 ^ lo + 2 ^ lo * (2 ^ w * (x / 2 ^ (lo + w))) := by ring
  rw [setField, Nat.mul_add, Nat.mul_comm (2 ^ lo) (v % 2 ^ w)]
  omega

/-- A field reads as what was written to it. -/
theorem fieldOf_setField (x lo w v : Nat) : fieldOf (setField x lo w v) lo w = v % 2 ^ w := by
  rw [setField_eq, fieldOf_add_mul (Nat.mod_lt _ (Nat.two_pow_pos lo)) (Nat.mod_lt _ (Nat.two_pow_pos w))]

theorem fieldOf_eq_mod_div (x lo w : Nat) : fieldOf x lo w = x % 2 ^ (lo + w) / 2 ^ lo := by
  rw [fieldOf, Nat.pow_add, Nat.mod_mul_right_div_self]

theorem fieldOf_congr_above {x y lo w hi : Nat} (h : hi ≤ lo) (he : x / 2 ^ hi = y / 2 ^ hi) : fieldOf x lo w = fieldOf y lo w := by
  obtain ⟨k, rfl⟩ := Nat.exists_eq_add_of_le h
  rw [fieldOf, fieldOf, Nat.pow_add, ← Nat.div_div_eq_div_mul, ← Nat.div_div_eq_div_mul, he]

theorem fieldOf_congr_below {x y lo w hi : Nat} (h : lo + w ≤ hi) (he : x % 2 ^ hi = y % 2 ^ hi) : fieldOf x lo w = fieldOf y lo w := by
  rw [fieldOf_eq_mod_div, fieldOf_eq_mod_div, ← Nat.mod_mod_of_dvd x (Nat.pow_dvd_pow 2 h), he,
    Nat.mod_mod_of_dvd y (Nat.pow_dvd_pow 2 h)]

/-- A write of a field leaves what lies above and below it. -/
theorem fieldOf_setField_of_disjoint {x lo w v lo' w' : Nat} (h : lo + w ≤ lo' ∨ lo' + w' ≤ lo) :
    fieldOf (setField x lo w v) lo' w' = fieldOf x lo' w' := by
  have hlo := Nat.mod_lt x (Nat.two_pow_pos lo)
  rcases h with h | h
  · refine fieldOf_congr_above h ?_
    rw [setField_eq, Nat.pow_add, ← Nat.div_div_eq_div_mul, Nat.add_mul_div_left _ _ (Nat.two_pow_pos lo),
      Nat.div_eq_of_lt hlo, Nat.zero_add, Nat.add_mul_div_left _ _ (Nat.two_pow_pos w),
      Nat.div_eq_of_lt (Nat.mod_lt _ (Nat.two_pow_pos w)), Nat.zero_add]
  · refine fieldOf_congr_below h ?_
    rw [setField_eq, Nat.add_mul_mod_self_left, Nat.mod_mod]

/-! ### Words of a list -/

theorem ofWords_lt (w : Nat) : (xs : List Nat) → ofWords w xs < 2 ^ (xs.length * w)
  | [] => by simp [ofWords]
  | x :: xs => by
    have ih := ofWords_lt w xs
    have hx := Nat.mod_lt x (Nat.two_pow_pos w)
    rw [ofWords, List.length_cons, Nat.add_mul, Nat.one_mul, Nat.add_comm (xs.length * w), Nat.pow_add]
    calc x % 2 ^ w + 2 ^ w * ofWords w xs < 2 ^ w + 2 ^ w * ofWords w xs := by omega
      _ = 2 ^ w * (ofWords w xs + 1) := by ring
      _ ≤ 2 ^ w * 2 ^ (xs.length * w) := Nat.mul_le_mul_left _ ih

theorem ofWords_cons_div (w x : Nat) (xs : List Nat) : ofWords w (x :: xs) / 2 ^ w = ofWords w xs := by
  rw [ofWords, Nat.add_mul_div_left _ _ (Nat.two_pow_pos w), Nat.div_eq_of_lt (Nat.mod_lt _ (Nat.two_pow_pos w)), Nat.zero_add]

/-- The words of a list read one by one; beyond it they are 0. -/
theorem elem_ofWords (w : Nat) : (xs : List Nat) → (i : Nat) → elem w (ofWords w xs) i = xs.getD i 0 % 2 ^ w
  | [], i => by simp [ofWords, elem, fieldOf]
  | x :: xs, 0 => by
    rw [elem, Nat.zero_mul, fieldOf, Nat.pow_zero, Nat.div_one, ofWords, Nat.add_mul_mod_self_left, Nat.mod_mod]
    rfl
  | x :: xs, i + 1 => by
    have ih := elem_ofWords w xs i
    rw [elem, fieldOf] at ih ⊢
    rw [Nat.add_mul, Nat.one_mul, Nat.add_comm (i * w), Nat.pow_add, ← Nat.div_div_eq_div_mul, ofWords_cons_div, ih]
    rfl

/-- The elements of a register whose first ones are replaced (R23). -/
theorem elem_splice (w old : Nat) (xs : List Nat) (i : Nat) :
    elem w (splice w old xs) i = if i < xs.length then xs.getD i 0 % 2 ^ w else elem w old i := by
  have ho := ofWords_lt w xs
  split
  · rename_i h
    rw [← elem_ofWords, elem, elem]
    refine fieldOf_congr_below (hi := xs.length * w) ?_ ?_
    · calc i * w + w = (i + 1) * w := by ring
        _ ≤ xs.length * w := Nat.mul_le_mul_right _ h
    · rw [splice, Nat.mul_comm, Nat.add_comm, Nat.add_mul_mod_self_left]
  · rename_i h
    refine fieldOf_congr_above (hi := xs.length * w) (Nat.mul_le_mul_right _ (Nat.not_lt.1 h)) ?_
    rw [splice, Nat.mul_comm (old / _), Nat.add_comm, Nat.add_mul_div_left _ _ (Nat.two_pow_pos _), Nat.div_eq_of_lt ho, Nat.zero_add]

/-- The elements of a register written over the tile. -/
theorem elem_tileOf (h : Hart) (old : Nat) (f : Nat → Option Nat) (i : Nat) :
    elem h.sew (h.tileOf old f) i = if i < h.tile then (f i).getD (elem h.sew old i) % 2 ^ h.sew else elem h.sew old i := by
  rw [Hart.tileOf, elem_splice, List.length_map, List.length_range]
  split
  · rename_i hi
    rw [List.getD_eq_getElem?_getD, List.getElem?_map, List.getElem?_range hi]
    rfl
  · rfl

/-- An entry of a tile that is written as a list of 1,024 words. -/
theorem entry_ofWords (f : Nat → Nat) {i j : Nat} (hi : i < 32) (hj : j < 32) :
    entry (ofWords 64 ((List.range 1024).map f)) i j = f (32 * i + j) % 2 ^ 64 := by
  have h := elem_ofWords 64 ((List.range 1024).map f) (32 * i + j)
  rw [elem, List.getD_eq_getElem?_getD, List.getElem?_map, List.getElem?_range (by omega), Nat.mul_comm] at h
  exact h

/-! ### Entries written one by one -/

section
variable (at_ val : Nat → Nat)

/-- Entries written in the order of a list. -/
def writeEntries (tile : Nat) (xs : List Nat) : Nat := xs.foldl (fun y i => setField y (64 * at_ i) 64 (val i)) tile

theorem fieldOf_writeEntries_ne {n : Nat} : (xs : List Nat) → (tile : Nat) → (∀ i ∈ xs, at_ i ≠ n) →
    fieldOf (writeEntries at_ val tile xs) (64 * n) 64 = fieldOf tile (64 * n) 64
  | [], _, _ => rfl
  | i :: xs, tile, h => by
    rw [List.forall_mem_cons] at h
    obtain ⟨hi, h⟩ := h
    refine (fieldOf_writeEntries_ne xs _ h).trans (fieldOf_setField_of_disjoint ?_)
    omega

/-- An entry that one element of the list alone writes. -/
theorem fieldOf_writeEntries {n i : Nat} : (xs : List Nat) → (tile : Nat) → i ∈ xs → at_ i = n → (∀ j ∈ xs, at_ j = n → j = i) →
    fieldOf (writeEntries at_ val tile xs) (64 * n) 64 = val i % 2 ^ 64
  | j :: xs, tile, hm, hi, h => by
    rw [List.forall_mem_cons] at h
    obtain ⟨hj, h⟩ := h
    by_cases hx : i ∈ xs
    · exact fieldOf_writeEntries xs _ hx hi h
    · obtain rfl := (List.mem_cons.1 hm).resolve_right hx
      refine (fieldOf_writeEntries_ne at_ val xs _ fun k hk e => hx (h k hk e ▸ hk)).trans ?_
      rw [← hi]
      exact fieldOf_setField _ _ _ _

end

/-! ### Tiles in registers -/

theorem State.readTiles_of_unbound {s : State} (want : Nat → Bool) {r : Reg} (h : Unbound s.me [r]) :
    s.readTiles want [r] = .ok ([(r, s.me.readV r)], none, s) := by
  have hr : s.me.streamOf r = none := h r (List.mem_singleton_self r)
  simp [State.readTiles, hr]

theorem State.popTiles_of_unbound {s : State} (want : Nat → Bool) {r : Reg} (h : Unbound s.me [r]) : s.popTiles want [r] = s := by
  have hr : s.me.streamOf r = none := h r (List.mem_singleton_self r)
  simp [State.popTiles, hr]

@[simp] theorem tileOfName_self (r : Reg) (x : Nat) : tileOfName [(r, x)] r = x := by simp [tileOfName]

/-- An instruction over the active elements of one register. -/
theorem State.withTiles_of_unbound {s t : State} {r : Reg} {body : List (Reg × Nat) → State → Except Stop State}
    (h : Unbound s.me [r]) (hb : body [(r, s.me.readV r)] s = .ok t) (ht : Unbound t.me [r]) : s.withTiles [r] body = .ok t := by
  unfold State.withTiles State.withTilesOf
  rw [State.readTiles_of_unbound _ h]
  simp only [hb, State.popTiles_of_unbound _ ht]

theorem Hart.redo_streams (h : Hart) : h.redo.streams = h.streams := by
  unfold Hart.redo
  split <;> rfl

theorem Hart.redo_vec (h : Hart) : h.redo.vec = h.vec := by
  unfold Hart.redo
  split <;> rfl

theorem Hart.streamOf_congr {h k : Hart} (he : h.streams = k.streams) (r : Reg) : h.streamOf r = k.streamOf r := by
  unfold Hart.streamOf
  rw [he]

theorem unbound_congr {h k : Hart} (he : h.streams = k.streams) {rs : List Reg} (hu : Unbound k rs) : Unbound h rs :=
  fun r hr => (Hart.streamOf_congr he r).trans (hu r hr)

/-- An instruction over one whole register; it begins in the state in which an earlier attempt is undone. -/
theorem State.withWhole_of_unbound {s t : State} {want : Nat → Bool} {r : Reg}
    {body : List (Reg × Nat) → State → Except Stop State} (h : Unbound s.me [r])
    (hb : body [(r, s.me.readV r)] (s.modifyMe Hart.redo) = .ok t) (ht : Unbound t.me [r]) : s.withWhole want [r] body = .ok t := by
  have hu : Unbound (s.modifyMe Hart.redo).me [r] := unbound_congr (by rw [State.me_modifyMe, Hart.redo_streams]) h
  have hv : (s.modifyMe Hart.redo).me.readV r = s.me.readV r := by
    rw [State.me_modifyMe, Hart.readV, Hart.redo_vec]; rfl
  unfold State.withWhole
  rw [State.readTiles_of_unbound _ hu, hv]
  simp only [hb, State.popTiles_of_unbound _ ht]

/-! ### The accumulator instructions -/

theorem State.afterFollowOns_of_settled {s : State} (h : Settled s) (body : State → Except Stop State) :
    s.afterFollowOns body = body s := by
  unfold State.afterFollowOns
  rw [h]
  rfl

theorem State.slot_of {s : State} {z : Reg} {q : Slot} (h : s.slotOf z = some q) : s.slot z = .ok q := by
  unfold State.slot
  rw [h]

theorem requireClean_of {s : State} {q : Slot} {reads : Nat → Bool} (h : ∀ n ∈ q.poison, reads n = false) :
    requireClean s q reads = .ok () := by
  refine require_of ?_ s _ _
  simpa [List.any_eq_false] using h

theorem requireClean_of_nil {s : State} {q : Slot} {reads : Nat → Bool} (h : q.poison = []) : requireClean s q reads = .ok () :=
  requireClean_of (by simp [h])

/-- The operand of a position, in the bits that R245 gives it. -/
theorem position_bits {rb cb : Nat} (hr : rb < 32) (hc : cb < 32) : word (rb + 256 * cb) &&& ~~~(0x1F1F : Word) = 0 := by
  have hn : rb + 256 * cb = 2 ^ 8 * cb + rb := by omega
  refine BitVec.eq_of_getLsbD_eq fun i hi => ?_
  have hbit : (rb + 256 * cb).testBit i = true → i < 5 ∨ 8 ≤ i ∧ i < 13 := by
    rw [hn, Nat.testBit_two_pow_mul_add _ (by omega)]
    intro h
    by_contra hne
    split at h
    · rw [Nat.testBit_lt_two_pow (lt_of_lt_of_le (show rb < 2 ^ 5 from hr) (Nat.pow_le_pow_right (by omega) (by omega)))] at h
      cases h
    · rw [Nat.testBit_lt_two_pow (lt_of_lt_of_le (show cb < 2 ^ 5 from hc) (Nat.pow_le_pow_right (by omega) (by omega)))] at h
      cases h
  rw [BitVec.getLsbD_and, word, BitVec.getLsbD_ofNat]
  cases hb : (rb + 256 * cb).testBit i with
  | false => simp
  | true =>
    rcases hbit hb with h | ⟨h8, h13⟩ <;> interval_cases i <;> rfl

theorem State.position_of {s : State} {b : Src} {rb cb : Nat} (h : At s.me b rb cb) : s.position b = .ok (rb, cb) := by
  obtain ⟨hw, hr, hc, hrow, hcol⟩ := h
  have hn : (word (rb + 256 * cb)).toNat = rb + 256 * cb := by rw [word, BitVec.toNat_ofNat]; omega
  have h0 : fieldOf (rb + 256 * cb) 0 5 = rb := by unfold fieldOf; omega
  have h8 : fieldOf (rb + 256 * cb) 8 5 = cb := by unfold fieldOf; omega
  unfold State.position
  simp only [hw, hn, h0, h8, position_bits hr hc]
  rw [if_neg (by simp only [ne_eq, not_true_eq_false, false_or]; omega)]

/-! ### What completing an instruction leaves -/

theorem State.modifyCore_me_of {s : State} {c : CoreId} {f : Core → Core} (h : ∀ x, (f (s.core c)).hart x = (s.core c).hart x) :
    (s.modifyCore c f).me = s.me := State.hart_modifyCore_of h _ _

/-- What the busy cycles of an instruction leave: the hart, the device, who acts, and every slot. -/
def State.SameSlots (s t : State) : Prop :=
  t.cur = s.cur ∧ t.dev = s.dev ∧ t.me = s.me ∧ ∀ c, (t.core c).slots = (s.core c).slots

theorem State.SameSlots.refl (s : State) : s.SameSlots s := ⟨rfl, rfl, rfl, fun _ => rfl⟩

theorem State.SameSlots.trans {s t r : State} (h : s.SameSlots t) (k : t.SameSlots r) : s.SameSlots r :=
  ⟨k.1.trans h.1, k.2.1.trans h.2.1, k.2.2.1.trans h.2.2.1, fun c => (k.2.2.2 c).trans (h.2.2.2 c)⟩

theorem State.sameSlots_modifyCore (s : State) (c : CoreId) (f : Core → Core)
    (h : ∀ x, (f (s.core c)).hart x = (s.core c).hart x) (hs : (f (s.core c)).slots = (s.core c).slots) :
    s.SameSlots (s.modifyCore c f) := by
  refine ⟨rfl, rfl, State.modifyCore_me_of h, fun d => ?_⟩
  by_cases hd : d = c
  · subst hd; rw [State.core_modifyCore]; exact hs
  · rw [State.core_modifyCore_ne _ _ _ _ hd]

theorem State.sameSlots_handOff (s : State) (c : CoreId) : s.SameSlots (s.handOff c) :=
  s.sameSlots_modifyCore c _ (fun _ => rfl) rfl

theorem State.sameSlots_chargeAged (s : State) (c : CoreId) (age : Nat) (work : List (ActClass × Nat)) :
    s.SameSlots (s.chargeAged c age work) := by
  unfold State.chargeAged
  split
  · exact s.sameSlots_modifyCore c _ (fun _ => rfl) rfl
  · exact .refl s

theorem State.sameSlots_chargeOn (s : State) (c : CoreId) (work : List (ActClass × Nat)) : s.SameSlots (s.chargeOn c work) :=
  (s.sameSlots_chargeAged c _ work).trans (State.sameSlots_handOff _ _)

theorem State.sameSlots_chargeUses (s : State) (u : Uses) : s.SameSlots (s.chargeUses u) := by
  unfold State.chargeUses State.chargeLanes State.charge
  split
  · split
    · exact (s.sameSlots_chargeOn _ _).trans (State.sameSlots_chargeOn _ _ _)
    · exact s.sameSlots_chargeOn _ _
  · exact s.sameSlots_chargeOn _ _

theorem State.SameSlots.slotOf {s t : State} (h : s.SameSlots t) (z : Reg) : t.slotOf z = s.slotOf z := by
  obtain ⟨hcur, -, hme, hslots⟩ := h
  rw [State.slotOf_eq, State.slotOf_eq, State.myCore, State.myCore, hcur, hme, hslots]

@[simp] theorem Core.slots_setHart (k : Core) (x : CtxId) (h : Hart) : (k.setHart x h).slots = k.slots := by
  unfold Core.setHart
  split <;> rfl

theorem State.slots_setHart (s : State) (c : CoreId) (x : CtxId) (h : Hart) (d : CoreId) :
    ((s.setHart c x h).core d).slots = (s.core d).slots := by
  unfold State.setHart
  by_cases hd : d = c
  · subst hd; rw [State.core_modifyCore, Core.slots_setHart]
  · rw [State.core_modifyCore_ne _ _ _ _ hd]

/-- A change of the hart that leaves its identity leaves its slots. -/
theorem State.slotOf_modifyMe {s : State} {f : Hart → Hart} (hid : (f s.me).id = s.me.id) (z : Reg) :
    (s.modifyMe f).slotOf z = s.slotOf z := by
  rw [State.slotOf_eq, State.slotOf_eq, State.me_modifyMe, hid]
  exact congrArg (List.find? _) (State.slots_setHart _ _ _ _ _)

/-- The hart as an instruction leaves it that completes at `pc`. -/
def Hart.completed (h : Hart) (u : Uses) (pc : Word) : Hart :=
  let h := { h with pc := pc, eltDone := 0, popFault := false, appending := none, rowDone := 0 }
  if u.commits then h.beginStrip pc else h

theorem State.complete_eq (s : State) (u : Uses) (pc : Word) : s.complete u pc = (s.chargeUses u).modifyMe fun h => h.completed u pc := rfl

theorem State.me_complete (s : State) (u : Uses) (pc : Word) : (s.complete u pc).me = s.me.completed u pc := by
  rw [State.complete_eq, State.me_modifyMe, (s.sameSlots_chargeUses u).2.2.1]

@[simp] theorem Hart.completed_pc (h : Hart) (u : Uses) (pc : Word) : (h.completed u pc).pc = pc := by
  unfold Hart.completed; dsimp only; split <;> rfl

@[simp] theorem Hart.completed_x (h : Hart) (u : Uses) (pc : Word) : (h.completed u pc).x = h.x := by
  unfold Hart.completed; dsimp only; split <;> rfl

@[simp] theorem Hart.completed_full (h : Hart) (u : Uses) (pc : Word) : (h.completed u pc).full = h.full := by
  unfold Hart.completed; dsimp only; split <;> rfl

@[simp] theorem Hart.completed_fills (h : Hart) (u : Uses) (pc : Word) : (h.completed u pc).fills = h.fills := by
  unfold Hart.completed; dsimp only; split <;> rfl

@[simp] theorem Hart.completed_vec (h : Hart) (u : Uses) (pc : Word) : (h.completed u pc).vec = h.vec := by
  unfold Hart.completed; dsimp only; split <;> rfl

@[simp] theorem Hart.completed_vcfg (h : Hart) (u : Uses) (pc : Word) : (h.completed u pc).vcfg = h.vcfg := by
  unfold Hart.completed; dsimp only; split <;> rfl

@[simp] theorem Hart.completed_id (h : Hart) (u : Uses) (pc : Word) : (h.completed u pc).id = h.id := by
  unfold Hart.completed; dsimp only; split <;> rfl

theorem State.slotOf_complete (s : State) (u : Uses) (pc : Word) (z : Reg) : (s.complete u pc).slotOf z = s.slotOf z :=
  (State.slotOf_modifyMe (s := s.chargeUses u) (Hart.completed_id _ u pc) z).trans ((s.sameSlots_chargeUses u).slotOf z)

@[simp] theorem State.complete_dev (s : State) (u : Uses) (pc : Word) : (s.complete u pc).dev = s.dev :=
  (s.sameSlots_chargeUses u).2.1

theorem State.onlySlot_complete (s : State) (u : Uses) (pc : Word) (z : Reg) : OnlySlot s (s.complete u pc) z :=
  ⟨by rw [State.complete_dev], by rw [State.me_complete, Hart.completed_x], by rw [State.me_complete, Hart.completed_vec],
    by rw [State.me_complete, Hart.completed_vcfg], fun y _ _ => s.slotOf_complete u pc y⟩

end Sys2Proof.Machine
end

section
/-!
ZSCACC, ZEXT, ZINS and ZAMAX (O29).
-/

namespace Sys2Proof.Machine

open Stated

/-! ### ZSCACC (R246) -/

/-- Entry n of the tile that ZSCACC leaves, from the old entries, those of A and the scales. -/
def scaccEntry (kind : ZKind) (x old new n : Nat) : Nat :=
  roundF .fp32 .nearest ((Fmt.fp32.value (entry old (n / 32) (n % 32))).add false
    (((Fmt.fp32.value (elem 32 x (n / 32))).mul (kind.value (entry new (n / 32) (n % 32)))).mul
      (Fmt.fp32.value (elem 32 x (32 + n % 32)))))

theorem keepsOwner_setTile (tile : Nat) : KeepsOwner fun q => { q with tile } := fun _ => ⟨rfl, rfl⟩

theorem onlySlot_redo (t : State) (z : Reg) : OnlySlot t (t.modifyMe Hart.redo) z := by
  have hr : t.me.redo.x = t.me.x ∧ t.me.redo.vec = t.me.vec ∧ t.me.redo.vcfg = t.me.vcfg ∧ t.me.redo.id = t.me.id := by
    unfold Hart.redo
    split <;> exact ⟨rfl, rfl, rfl, rfl⟩
  obtain ⟨hx, hv, hc, hid⟩ := hr
  exact ⟨rfl, by rw [State.me_modifyMe, hx], by rw [State.me_modifyMe, hv], by rw [State.me_modifyMe, hc],
    fun y _ _ => State.slotOf_modifyMe hid y⟩

theorem State.contentBits_of_unbound {s : State} {r : Reg} (h : Unbound s.me [r]) (xs : List (Reg × Nat)) (n : Nat) :
    s.contentBits xs r n = tileOfName xs r := by
  have hr : s.me.streamOf r = none := h r (List.mem_singleton_self r)
  simp [State.contentBits, hr]

theorem State.takeContent_of_unbound {s : State} {r : Reg} (h : Unbound s.me [r]) : s.takeContent r = s := by
  have hr : s.me.streamOf r = none := h r (List.mem_singleton_self r)
  simp [State.takeContent, hr]

theorem State.unbound_redo {t : State} {rs : List Reg} (h : Unbound t.me rs) : Unbound (t.modifyMe Hart.redo).me rs :=
  unbound_congr (by rw [State.me_modifyMe, Hart.redo_streams]) h

theorem zscacc_goes {s t : State} {d a b : Reg} {fb : Bool} {u : Uses} (hu : u =
      { regs := [⟨2, d, isHandle d⟩, ⟨0, a, isHandle a⟩, ⟨1, b, s.me.isVector b⟩], vown := true
        sources := [⟨1, .v, b, fb⟩], reads := [b], commits := true, work := [(.zsc, 8)] }) (ht : t = s.begun u) (ha : s.Admits u)
    {q p : Slot} (hset : Settled t) (hub : Unbound t.me [b]) (hq : CleanSlot t d q) (hp : CleanSlot t a p)
    (hqk : q.kind = .fp32) (hpk : p.kind ≠ .fp64) :
    Goes (.zscacc d a b fb) s u ((t.modifyMe Hart.redo).modifySlot d fun z =>
      { z with tile := ofWords 64 ((List.range 1024).map (scaccEntry p.kind (t.me.readV b) q.tile p.tile)) }) := by
  obtain ⟨hq, hqc⟩ := hq
  obtain ⟨hp, hpc⟩ := hp
  have hur := State.unbound_redo hub
  subst hu
  refine goes_of_body (exec_zscacc d a b fb s) ha ?_
  rw [← ht]
  simp only [State.afterFollowOns_of_settled hset, State.slot_of hq, State.slot_of hp]
  have hkind : (q.kind == .fp32 && p.kind != .fp64) = true := by simp [hqk, hpk]
  simp only [Bind.bind, Except.bind, require_of hkind, requireClean_of_nil hqc, requireClean_of_nil hpc]
  refine State.withWhole_of_unbound hub ?_ (by rw [State.modifySlot_me]; exact hur)
  simp only [State.contentBits_of_unbound hur, State.takeContent_of_unbound hur, tileOfName_self]
  unfold scaccEntry elem
  simp only [Nat.mul_comm]

/-! ### ZEXT and ZINS (R248, R249) -/

/-- The entry of a tile at which element i of a hart's tile stands from a position on. -/
def Hart.entryAt (h : Hart) (rb cb i : Nat) : Nat := 32 * (rb + i / h.vl.toNat) + cb + i % h.vl.toNat

/-- What ZEXT writes to element i. -/
def State.extracted (s : State) (q : Slot) (rb cb i : Nat) : Nat :=
  s.extractEntry q.kind (fieldOf q.tile (64 * s.me.entryAt rb cb i) 64) i

theorem zext_goes {s t : State} {d a : Reg} {pos : Src} {u : Uses} (hu : u =
      { len := srcBytes pos, regs := [⟨2, d, s.me.isVector d⟩, ⟨0, a, isHandle a⟩] ++ srcField isScalar pos
        vown := true, sources := srcSource .x pos, dests := [(.v, d)], writes := [d], lanes := true, commits := true
        work := [(.vint, s.tileCycles s.me.tile)] }) (ht : t = s.begun u) (ha : s.Admits u) {q : Slot} {rb cb : Nat}
    (hset : Settled t) (hub : Unbound t.me [d]) (hq : t.slotOf a = some q) (hat : At t.me pos rb cb)
    (hk : q.kind ≠ .int32 → t.me.sewCode ≠ 0)
    (hclean : ∀ j, j < t.me.tile → t.me.masked j = true → t.me.entryAt rb cb j ∉ q.poison) :
    Goes (.zext d a pos) s u (t.modifyMe fun h => h.produceV d (t.me.tileOf (t.me.readV d) fun i =>
      some (if t.me.masked i then t.extracted q rb cb i else 0))) := by
  have hd : t.me.streamOf d = none := hub d (List.mem_singleton_self d)
  subst hu
  refine goes_of_body (exec_zext d a pos s) ha ?_
  rw [← ht]
  have hkind : (q.kind == .int32 || t.me.sewCode != 0) = true := by
    simp only [Bool.or_eq_true, beq_iff_eq, bne_iff_ne]
    exact or_iff_not_imp_left.2 hk
  have hpoison : ∀ n ∈ q.poison, (((List.range t.me.tile).filter t.me.masked).any fun i => t.me.entryAt rb cb i == n) = false := by
    intro n hn
    simp only [List.any_eq_false, List.mem_filter, List.mem_range, beq_iff_eq]
    rintro i ⟨hi, hm⟩ rfl
    exact hclean i hi hm hn
  have hclean : requireClean t q (fun n => ((List.range t.me.tile).filter t.me.masked).any fun i => t.me.entryAt rb cb i == n) =
      .ok () := requireClean_of hpoison
  unfold Hart.entryAt at hclean
  simp only [State.afterFollowOns_of_settled hset, State.position_of hat, State.slot_of hq, Bind.bind, Except.bind,
    require_of hkind, hclean, hd]
  rfl

/-- What ZINS leaves of a slot. -/
def Slot.inserted (q : Slot) (h : Hart) (kind : ZKind) (x rb cb : Nat) : Slot :=
  let active := (List.range h.tile).filter h.active
  { q with
    tile := writeEntries (h.entryAt rb cb) (fun i => h.insertEntry kind (elem h.sew x i)) q.tile active
    poison := q.poison.filter fun n => !active.any fun i => h.entryAt rb cb i == n }

@[simp] theorem Slot.inserted_kind (q : Slot) (h : Hart) (kind : ZKind) (x rb cb : Nat) :
    (q.inserted h kind x rb cb).kind = q.kind := by
  simp only [Slot.inserted]

@[simp] theorem Slot.inserted_number (q : Slot) (h : Hart) (kind : ZKind) (x rb cb : Nat) :
    (q.inserted h kind x rb cb).number = q.number := by
  simp only [Slot.inserted]

theorem keepsOwner_inserted (h : Hart) (kind : ZKind) (x rb cb : Nat) : KeepsOwner fun q => q.inserted h kind x rb cb :=
  fun _ => ⟨rfl, rfl⟩

theorem zins_goes {s t : State} {d a : Reg} {pos : Src} {fa : Bool} {u : Uses} (hu : u =
      { len := srcBytes pos, regs := [⟨2, d, isHandle d⟩, ⟨0, a, s.me.isVector a⟩] ++ srcField isScalar pos
        vown := true, sources := ⟨0, .v, a, fa⟩ :: srcSource .x pos, reads := [a], lanes := true, commits := true
        work := [(.vint, s.tileCycles s.me.tile)] }) (ht : t = s.begun u) (ha : s.Admits u) {q : Slot} {rb cb : Nat}
    (hset : Settled t) (hub : Unbound t.me [a]) (hq : t.slotOf d = some q) (hat : At t.me pos rb cb)
    (hk : q.kind ≠ .int32 → t.me.sewCode ≠ 0) :
    Goes (.zins d a pos fa) s u (t.modifySlot d fun z => z.inserted t.me q.kind (t.me.readV a) rb cb) := by
  subst hu
  refine goes_of_body (exec_zins d a pos fa s) ha ?_
  rw [← ht]
  have hkind : (q.kind == .int32 || t.me.sewCode != 0) = true := by
    simp only [Bool.or_eq_true, beq_iff_eq, bne_iff_ne]
    exact or_iff_not_imp_left.2 hk
  simp only [State.afterFollowOns_of_settled hset, State.position_of hat, State.slot_of hq, Bind.bind, Except.bind,
    require_of hkind]
  refine State.withTiles_of_unbound hub ?_ (by rw [State.modifySlot_me]; exact hub)
  rw [tileOfName_self]
  rfl

section
variable {h : Hart} {rb cb : Nat} (hcol : cb + h.vl.toNat ≤ 32)
include hcol

/-- Element i of a tile stands in row rb + i / vl and column cb + i % vl, and no other element does. -/
theorem Hart.entryAt_eq_iff {i r k : Nat} (hi : i < h.tile) (hk : k < 32) : h.entryAt rb cb i = 32 * r + k ↔
    (rb ≤ r ∧ r < rb + h.vrows.toNat ∧ cb ≤ k ∧ k < cb + h.vl.toNat) ∧ i = (r - rb) * h.vl.toNat + (k - cb) := by
  have hvl : 0 < h.vl.toNat := by
    rcases Nat.eq_zero_or_pos h.vl.toNat with h0 | h0
    · rw [Hart.tile, h0] at hi; omega
    · exact h0
  have hmod := Nat.mod_lt i hvl
  have hdiv : i / h.vl.toNat < h.vrows.toNat := Nat.div_lt_of_lt_mul (by rw [Nat.mul_comm]; exact hi)
  have hsum := Nat.div_add_mod' i h.vl.toNat
  unfold Hart.entryAt
  constructor
  · intro he
    have hr : r = rb + i / h.vl.toNat := by omega
    have hc : k = cb + i % h.vl.toNat := by omega
    rw [hr, hc, Nat.add_sub_cancel_left, Nat.add_sub_cancel_left]
    exact ⟨⟨Nat.le_add_right _ _, by omega, Nat.le_add_right _ _, by omega⟩, hsum.symm⟩
  · rintro ⟨⟨h1, h2, h3, h4⟩, rfl⟩
    have e1 : ((r - rb) * h.vl.toNat + (k - cb)) / h.vl.toNat = r - rb := by
      rw [Nat.mul_comm, Nat.mul_add_div hvl, Nat.div_eq_of_lt (show k - cb < h.vl.toNat by omega), Nat.add_zero]
    have e2 : ((r - rb) * h.vl.toNat + (k - cb)) % h.vl.toNat = k - cb := by
      rw [Nat.mul_comm, Nat.mul_add_mod, Nat.mod_eq_of_lt (show k - cb < h.vl.toNat by omega)]
    rw [e1, e2]
    omega

/-- An entry of a slot is inserted where an active element of the tile stands on it. -/
def Hart.insertsAt (h : Hart) (rb cb r k : Nat) : Prop :=
  rb ≤ r ∧ r < rb + h.vrows.toNat ∧ cb ≤ k ∧ k < cb + h.vl.toNat ∧ h.active ((r - rb) * h.vl.toNat + (k - cb)) = true

theorem Hart.insertsAt_iff {r k : Nat} (hk : k < 32) : h.insertsAt rb cb r k ↔
    ∃ i ∈ (List.range h.tile).filter h.active, h.entryAt rb cb i = 32 * r + k := by
  simp only [List.mem_filter, List.mem_range]
  constructor
  · rintro ⟨h1, h2, h3, h4, ha⟩
    have hi : (r - rb) * h.vl.toNat + (k - cb) < h.tile := by
      have hr : r - rb + 1 ≤ h.vrows.toNat := by omega
      have := Nat.mul_le_mul_right h.vl.toNat hr
      rw [Nat.add_mul] at this
      unfold Hart.tile
      omega
    exact ⟨_, ⟨hi, ha⟩, (Hart.entryAt_eq_iff hcol hi hk).2 ⟨⟨h1, h2, h3, h4⟩, rfl⟩⟩
  · rintro ⟨i, ⟨hi, ha⟩, he⟩
    obtain ⟨⟨h1, h2, h3, h4⟩, rfl⟩ := (Hart.entryAt_eq_iff hcol hi hk).1 he
    exact ⟨h1, h2, h3, h4, ha⟩

theorem Slot.entry_inserted (q : Slot) (kind : ZKind) (x : Nat) {r k : Nat} (hk : k < 32) (hin : h.insertsAt rb cb r k) :
    entry (q.inserted h kind x rb cb).tile r k =
      h.insertEntry kind (elem h.sew x ((r - rb) * h.vl.toNat + (k - cb))) % 2 ^ 64 := by
  obtain ⟨i, hm, he⟩ := (Hart.insertsAt_iff hcol hk).1 hin
  have only (j : Nat) (hj : j ∈ (List.range h.tile).filter h.active) (e : h.entryAt rb cb j = 32 * r + k) :
      j = (r - rb) * h.vl.toNat + (k - cb) :=
    ((Hart.entryAt_eq_iff hcol (List.mem_range.1 (List.mem_filter.1 hj).1) hk).1 e).2
  rw [← only i hm he]
  exact fieldOf_writeEntries _ _ _ _ hm he fun j hj e => (only j hj e).trans (only i hm he).symm

theorem Slot.entry_inserted_of_not (q : Slot) (kind : ZKind) (x : Nat) {r k : Nat} (hk : k < 32)
    (hout : ¬h.insertsAt rb cb r k) : entry (q.inserted h kind x rb cb).tile r k = entry q.tile r k :=
  fieldOf_writeEntries_ne _ _ _ _ fun i hm e => hout ((Hart.insertsAt_iff hcol hk).2 ⟨i, hm, e⟩)

theorem Slot.poison_inserted (q : Slot) (kind : ZKind) (x : Nat) {r k : Nat} (hk : k < 32) :
    32 * r + k ∈ (q.inserted h kind x rb cb).poison ↔ 32 * r + k ∈ q.poison ∧ ¬h.insertsAt rb cb r k := by
  rw [Hart.insertsAt_iff hcol hk]
  simp [Slot.inserted]

end

/-! ### The slot that an instruction leaves -/

/-- The slot that an instruction on a handle leaves when its own effect is a change of that slot alone. -/
theorem slot_result {i : Instr} {s t t' : State} {u : Uses} {z : Reg} {q : Slot} {f : Slot → Slot} (hf : KeepsOwner f)
    (ho : OnlySlot t t' z) (hq : t'.slotOf z = some q) (hg : Goes i s u (t'.modifySlot z f)) :
    ∃ r, exec i s = .next r ∧ r.me.pc = s.me.pc + word u.len ∧ OnlySlot t r z ∧ r.slotOf z = some (f q) := by
  refine ⟨_, hg, by rw [State.me_complete, Hart.completed_pc],
    onlySlot_trans (onlySlot_trans ho (State.onlySlot_modifySlot hf z)) (State.onlySlot_complete _ u _ z), ?_⟩
  rw [State.slotOf_complete, State.slotOf_modifySlot_same hf, hq]
  rfl

theorem OnlySlot.refl (t : State) (z : Reg) : OnlySlot t t z := ⟨rfl, rfl, rfl, rfl, fun _ _ _ => rfl⟩

theorem State.slotOf_redo (t : State) (z : Reg) : (t.modifyMe Hart.redo).slotOf z = t.slotOf z :=
  State.slotOf_modifyMe (by unfold Hart.redo; split <;> rfl) z

/-- Settles O29, instruction by instruction. -/
theorem tileArithmetic : Obligations.TileArithmetic := by
  unfold Obligations.TileArithmetic
  intro s d a b pos fa fb q p rb cb
  refine ⟨?_, ?_, ?_, ?_⟩
  · intro u t scale ha hset hub hq hp hqk hpk
    obtain ⟨r, hr, hpc, honly, hz⟩ := slot_result (keepsOwner_setTile _) (onlySlot_redo t d)
      ((t.slotOf_redo d).trans hq.1) (zscacc_goes rfl rfl ha hset hub hq hp hqk hpk)
    refine ⟨r, _, hr, hpc, honly, hz, hqk, rfl, fun i j hi hj => ?_⟩
    rw [entry_ofWords _ hi hj, scaccEntry, show (32 * i + j) / 32 = i by omega, show (32 * i + j) % 32 = j by omega]
  · intro u t h extract ha hset hub hq hat hk hclean
    refine ⟨_, zext_goes rfl rfl ha hset hub hq hat hk fun j hj hm => hclean j hj hm, fun j => ?_⟩
    rw [elem_tileOf]
    split
    · cases h.masked j with
      | false => rfl
      | true =>
        simp only [if_true, Option.getD_some]
        refine congrArg (· % 2 ^ h.sew) ?_
        have he : fieldOf q.tile (64 * h.entryAt rb cb j) 64 = entry q.tile (rb + Stated.rowOf h j) (cb + Stated.colOf h j) := by
          rw [entry, Hart.entryAt, Nat.add_assoc]
          rfl
        unfold State.extracted
        rw [he]
        simp only [extract]
        cases q.kind <;> rfl
    · rfl
  · intro u t h insert ha hset hub hq hat hk
    obtain ⟨-, -, -, -, hcol⟩ := id hat
    obtain ⟨r, hr, hpc, honly, hz⟩ := slot_result (keepsOwner_inserted t.me q.kind (t.me.readV a) rb cb) (OnlySlot.refl t d) hq
      (zins_goes rfl rfl ha hset hub hq hat hk)
    refine ⟨r, _, hr, hpc, honly, hz, q.inserted_kind .., q.inserted_number .., fun i k hi hk => ⟨?_, Slot.poison_inserted hcol q q.kind _ hk⟩⟩
    split
    · rename_i hin
      exact Slot.entry_inserted hcol q q.kind _ hk hin
    · rename_i hout
      exact Slot.entry_inserted_of_not hcol q q.kind _ hk hout
  · intro u t ring values new ha hset hq
    refine goes_of_body (exec_zamax a b s) ha ?_
    show t.afterFollowOns _ = _
    rw [State.afterFollowOns_of_settled hset]
    simp only [State.slot_of hq.1, Bind.bind, Except.bind, requireClean_of_nil hq.2]
    rfl

end Sys2Proof.Machine
end

section
/-!
What a read of a hart depends on: two states that agree in the memories and in the words of the windows are seen alike
through a strip.  With it scalar loads (O7).
-/

namespace Sys2Proof.Machine

open Stated

/-! ### What reads depend on -/

/-- The parts of a core that the reads and the effects of a strip depend on. -/
structure CoreView where
  bufW : Mem
  bufX : Mem
  poisonW : List Nat
  poisonX : List Nat
  grant : BitVec 13
  groups : Vector Power 8
  power : Power
  fenced : Bool

/-- The parts of the device that they depend on. -/
structure DeviceView where
  mem : Mem
  poison : List Nat
  lost : List Nat
  sums : List FloatSum
  queues : Vector HostQueue 256

def Core.view (k : Core) : CoreView :=
  { bufW := k.bufW, bufX := k.bufX, poisonW := k.poisonW, poisonX := k.poisonX, grant := k.grant, groups := k.groups
    power := k.power, fenced := k.fenced }

def Device.view (d : Device) : DeviceView :=
  { mem := d.mem, poison := d.poison, lost := d.lost, sums := d.sums, queues := d.queues }

/-- Two states are seen alike. -/
structure State.SameView (s t : State) : Prop where
  core : t.cur.core = s.cur.core
  fresh : t.fresh = s.fresh
  dev : t.dev.view = s.dev.view
  cores : ∀ c, (t.core c).view = (s.core c).view

theorem State.SameView.refl (s : State) : s.SameView s := ⟨rfl, rfl, rfl, fun _ => rfl⟩

theorem State.SameView.trans {s t r : State} (h : s.SameView t) (k : t.SameView r) : s.SameView r :=
  ⟨k.core.trans h.core, k.fresh.trans h.fresh, k.dev.trans h.dev, fun c => (k.cores c).trans (h.cores c)⟩

theorem State.SameView.symm {s t : State} (h : s.SameView t) : t.SameView s :=
  ⟨h.core.symm, h.fresh.symm, h.dev.symm, fun c => (h.cores c).symm⟩

/-! ### What leaves the view -/

theorem State.sameView_modifyDev (s : State) {f : Device → Device} (h : (f s.dev).view = s.dev.view) :
    s.SameView (s.modifyDev f) := ⟨rfl, rfl, h, fun _ => rfl⟩

theorem State.sameView_modifyCore (s : State) (c : CoreId) {f : Core → Core} (h : (f (s.core c)).view = (s.core c).view) :
    s.SameView (s.modifyCore c f) := by
  refine ⟨rfl, rfl, rfl, fun d => ?_⟩
  by_cases hd : d = c
  · subst hd; rw [State.core_modifyCore]; exact h
  · rw [State.core_modifyCore_ne _ _ _ _ hd]

@[simp] theorem Core.view_setHart (k : Core) (x : CtxId) (h : Hart) : (k.setHart x h).view = k.view := by
  unfold Core.setHart
  split <;> rfl

theorem State.sameView_modifyMe (s : State) (f : Hart → Hart) : s.SameView (s.modifyMe f) :=
  s.sameView_modifyCore s.cur.core (f := fun k => k.setHart s.cur.ctx (f s.me)) (Core.view_setHart _ _ _)

theorem State.sameView_count (s : State) (p : Place) : s.SameView (s.count p) := by
  unfold State.count
  split
  · exact s.sameView_modifyDev rfl
  · exact .refl s

theorem State.sameView_chargeOn (s : State) (c : CoreId) (work : List (ActClass × Nat)) : s.SameView (s.chargeOn c work) := by
  unfold State.chargeOn State.handOff State.chargeAged
  split
  · exact (s.sameView_modifyCore c rfl).trans (State.sameView_modifyCore _ c rfl)
  · exact s.sameView_modifyCore c rfl

theorem State.sameView_chargeUses (s : State) (u : Uses) : s.SameView (s.chargeUses u) := by
  unfold State.chargeUses State.chargeLanes State.charge
  split
  · split
    · exact (s.sameView_chargeOn _ _).trans (State.sameView_chargeOn _ _ _)
    · exact s.sameView_chargeOn _ _
  · exact s.sameView_chargeOn _ _

theorem State.sameView_complete (s : State) (u : Uses) (pc : Word) : s.SameView (s.complete u pc) :=
  (s.sameView_chargeUses u).trans (State.sameView_modifyMe _ _)

@[simp] theorem Device.view_countEnded (d : Device) (l : LaunchLink) (n : Nat) (failed : Bool) :
    (d.countEnded l n failed).view = d.view := rfl

theorem Device.view_foldl {α : Type} (f : Device → α → Device) (h : ∀ d a, (f d a).view = d.view) :
    (xs : List α) → (d : Device) → (xs.foldl f d).view = d.view
  | [], _ => rfl
  | x :: xs, d => (Device.view_foldl f h xs (f d x)).trans (h d x)

@[simp] theorem Device.view_dropPool (d : Device) (hit : LaunchLink → Bool) : (d.dropPool hit).view = d.view :=
  Device.view_foldl (fun d (e : PoolEntry) => d.countEnded e.launch.link e.launch.link.harts true) (fun _ _ => rfl) _ _

@[simp] theorem Device.view_report (d : Device) (k : Nat) (args : List Word) : (d.report k args).view = d.view := by
  unfold Device.report
  split
  · rfl
  · split <;> rfl

theorem State.sameView_fenceLaunch (s : State) (launch : Word) (cause : BitVec 8) : s.SameView (s.fenceLaunch launch cause) := by
  refine ⟨by rw [State.fenceLaunch_cur], ?_, ?_, fun c => ?_⟩
  · unfold State.fenceLaunch; split <;> rfl
  · unfold State.fenceLaunch
    split
    · simp only [Device.view_report, Device.view_dropPool]
      rfl
    · rfl
  · rcases s.core_fenceLaunch launch cause c with h | h <;> rw [h]
    rfl

/-! ### What keeps two states alike -/

section
variable {s t : State} (h : s.SameView t)
include h

theorem State.SameView.dev_eq : t.dev.mem = s.dev.mem ∧ t.dev.poison = s.dev.poison ∧ t.dev.lost = s.dev.lost ∧
    t.dev.sums = s.dev.sums ∧ t.dev.queues = s.dev.queues := by
  have hd := h.dev
  simpa only [Device.view, DeviceView.mk.injEq] using hd

theorem State.SameView.core_eq (c : CoreId) : (t.core c).bufW = (s.core c).bufW ∧ (t.core c).bufX = (s.core c).bufX ∧
    (t.core c).poisonW = (s.core c).poisonW ∧ (t.core c).poisonX = (s.core c).poisonX ∧ (t.core c).grant = (s.core c).grant ∧
    (t.core c).groups = (s.core c).groups ∧ (t.core c).power = (s.core c).power ∧ (t.core c).fenced = (s.core c).fenced := by
  have hc := h.cores c
  simpa only [Core.view, CoreView.mk.injEq] using hc

theorem State.SameView.modifyDev {f g : Device → Device} (hf : (g t.dev).view = (f s.dev).view) :
    (s.modifyDev f).SameView (t.modifyDev g) := ⟨h.core, h.fresh, hf, h.cores⟩

theorem State.SameView.takeFresh : s.takeFresh.SameView t.takeFresh :=
  ⟨h.core, congrArg (· + 1) h.fresh, h.dev, h.cores⟩

theorem State.SameView.modifyCore (c : CoreId) {f g : Core → Core} (hf : (g (t.core c)).view = (f (s.core c)).view) :
    (s.modifyCore c f).SameView (t.modifyCore c g) := by
  refine ⟨h.core, h.fresh, h.dev, fun d => ?_⟩
  by_cases hd : d = c
  · subst hd; rw [State.core_modifyCore, State.core_modifyCore]; exact hf
  · rw [State.core_modifyCore_ne _ _ _ _ hd, State.core_modifyCore_ne _ _ _ _ hd]; exact h.cores d

theorem State.SameView.wakeCore (c : CoreId) : (s.wakeCore c).SameView (t.wakeCore c) := by
  obtain ⟨hW, hX, hpW, hpX, hgr, hgs, hp, hf⟩ := h.core_eq c
  unfold State.wakeCore
  rw [hp]
  cases (s.core c).power with
  | on => exact h
  | waking => exact h
  | hold => exact h.modifyCore c (by simp only [Core.view, hW, hX, hpW, hpX, hgr, hgs, hf])
  | opening b => exact h.modifyCore c (by simp only [Core.view, hW, hX, hpW, hpX, hgr, hgs, hf])
  | gated =>
    refine (h.modifyCore c (f := fun k => { k with power := .waking }) (g := fun k => { k with power := .waking })
      (by simp only [Core.view, hW, hX, hpW, hpX, hgr, hgs, hf])).modifyDev ?_
    have queueWake (d : Device) (w : Wake) : (d.queueWake w).view = d.view := by unfold Device.queueWake; split <;> rfl
    rw [queueWake, queueWake]
    exact h.dev

theorem State.SameView.notifyWrite (core n : Nat) (x : Word) : (s.notifyWrite core n x).SameView (t.notifyWrite core n x) := by
  unfold State.notifyWrite
  split
  · rename_i hc
    obtain ⟨-, -, -, -, -, -, hp, hf⟩ := h.core_eq ⟨core, hc⟩
    dsimp only
    rw [hf]
    split
    · exact h
    · rw [hp]
      have hv := h.cores ⟨core, hc⟩
      cases (s.core ⟨core, hc⟩).power with
      | on => exact h.modifyCore _ hv
      | hold => exact (h.wakeCore _).modifyCore _ ((h.wakeCore ⟨core, hc⟩).cores ⟨core, hc⟩)
      | waking => exact (h.modifyCore _ hv).wakeCore _
      | opening b => exact (h.modifyCore _ hv).wakeCore _
      | gated => exact (h.modifyCore _ hv).wakeCore _
  · exact h

theorem State.SameView.fenceLaunch (l l' : Word) (cause : BitVec 8) : (s.fenceLaunch l cause).SameView (t.fenceLaunch l' cause) :=
  ((s.sameView_fenceLaunch l cause).symm.trans h).trans (t.sameView_fenceLaunch l' cause)

theorem State.SameView.modifyMe (f g : Hart → Hart) : (s.modifyMe f).SameView (t.modifyMe g) :=
  ((s.sameView_modifyMe f).symm.trans h).trans (t.sameView_modifyMe g)

theorem State.SameView.performStore (p : Place) (n x : Nat) : (s.performStore p n x).SameView (t.performStore p n x) := by
  obtain ⟨hm, hpo, hl, hs, hq⟩ := h.dev_eq
  cases p with
  | main pa =>
    have hlost : t.dev.isLost pa = s.dev.isLost pa := by rw [Device.isLost, Device.isLost, hl]
    simp only [State.performStore]
    rw [hlost]
    split
    · exact h.fenceLaunch _ _ _
    · refine h.modifyDev ?_
      have clear (d : Device) : (d.clearGroup pa n x).view = d.view := by unfold Device.clearGroup; split <;> rfl
      rw [clear, clear]
      simp only [Device.store, Device.view, hm, hpo, hl, hs, hq]
  | buffer c b a =>
    obtain ⟨hW, hX, hpW, hpX, hgr, hgs, hp, hf⟩ := h.core_eq c
    simp only [State.performStore]
    refine h.modifyCore c ?_
    cases b <;> simp only [Core.view, Core.setBuffer, Core.bumpBuffer, Core.buffer, hW, hX, hpW, hpX, hgr, hgs, hp, hf]
  | notify c r => exact h.notifyWrite c r _
  | weight q =>
    simp only [State.performStore]
    exact h.modifyDev (by simp only [Device.view, hm, hpo, hl, hs, hq])
  | power c r => exact h
  | apertureZ z => exact h
  | device => exact h

theorem State.SameView.inPoison (r : Place × Nat) : t.inPoison r = s.inPoison r := by
  obtain ⟨-, hpo, -⟩ := h.dev_eq
  obtain ⟨p, n⟩ := r
  cases p with
  | main pa => simp only [State.inPoison, hpo]
  | buffer c b a =>
    obtain ⟨-, -, hpW, hpX, -⟩ := h.core_eq c
    cases b <;> simp only [State.inPoison, Core.poisonOf, hpW, hpX]
  | _ => rfl

theorem State.SameView.poisonedRuns (wrote : List (Place × Nat)) (es : List (Place × Nat × Nat)) :
    t.poisonedRuns wrote es = s.poisonedRuns wrote es := by
  unfold State.poisonedRuns
  rw [funext h.inPoison]

theorem State.SameView.clearWritten (rs : List (Place × Nat)) : (s.clearWritten rs).SameView (t.clearWritten rs) := by
  obtain ⟨hm, hpo, hl, hs, hq⟩ := h.dev_eq
  obtain ⟨hW, hX, hpW, hpX, hgr, hgs, hp, hf⟩ := h.core_eq s.cur.core
  have hd := h.modifyDev (f := fun d => { d with poison := clearCovered 64 (mainRuns rs) d.poison })
    (g := fun d => { d with poison := clearCovered 64 (mainRuns rs) d.poison }) (by simp only [Device.view, hm, hpo, hl, hs, hq])
  unfold State.clearWritten
  simp only [State.modifyDev_cur, h.core]
  refine hd.modifyCore _ ?_
  simp only [Core.view, State.core_modifyDev, hW, hX, hpW, hpX, hgr, hgs, hp, hf]

end

theorem State.SameView.foldl {α : Type} {f : State → α → State} (hf : ∀ {s t : State} (a : α), s.SameView t → (f s a).SameView (f t a)) :
    (xs : List α) → {s t : State} → s.SameView t → (xs.foldl f s).SameView (xs.foldl f t)
  | [], _, _, h => h
  | x :: xs, _, _, h => State.SameView.foldl hf xs (hf x h)

section
variable {s t : State} (h : s.SameView t)
include h

theorem State.SameView.performMore (wrote : List (Place × Nat)) (es : List (Place × Nat × Nat)) :
    (s.performMore wrote es).SameView (t.performMore wrote es) := by
  unfold State.performMore
  rw [h.poisonedRuns]
  exact (State.SameView.foldl (fun e k => k.performStore e.1 e.2.1 e.2.2) es h).clearWritten _

theorem State.SameView.performScatter (a : ScatterAdd) (free : Bool) : (s.performScatter a free).SameView (t.performScatter a free) := by
  obtain ⟨hm, hpo, hl, hs, hq⟩ := h.dev_eq
  have hload (pa n : Nat) : t.dev.load pa n = s.dev.load pa n := by rw [Device.load, Device.load, hm]
  have hadd : t.dev.addable a = s.dev.addable a := by
    simp only [Device.addable, Device.isPoisoned, Device.isLost, hpo, hl]
  have hleaves : t.dev.leavesAt a = s.dev.leavesAt a := by simp only [Device.leavesAt, hs, hload]
  have hpick : t.pick = s.pick := funext fun i => by rw [State.pick, State.pick, h.fresh]
  unfold State.performScatter
  rw [hadd, hs]
  split
  · exact h.fenceLaunch _ _ _
  · split
    · unfold State.addUnordered
      rw [hleaves, hpick]
      refine State.SameView.takeFresh (h.modifyDev ?_)
      simp only [Device.store, Device.view, hm, hpo, hl, hs, hq]
    · refine h.modifyDev ?_
      simp only [Device.scatter, Device.store, Device.view, hload, hm, hpo, hl, hs, hq]

theorem State.SameView.performItem (i : StripItem) : (s.performItem i).SameView (t.performItem i) := by
  cases i with
  | stores es wrote => exact h.performMore wrote es
  | scatter a free => exact h.performScatter a free
  | push d st va n x =>
    simp only [State.performItem]
    refine State.SameView.modifyMe (h.modifyDev ?_) _ _
    exact h.dev
  | command k =>
    simp only [State.performItem]
    exact h.modifyMe _ _

/-- Two states that are seen alike read alike at every place. -/
theorem State.SameView.readPlace (p : Place) (n : Nat) : t.readPlace p n = s.readPlace p n := by
  obtain ⟨hm, -, -, -, hq⟩ := h.dev_eq
  cases p with
  | main pa => simp only [State.readPlace, Device.load, hm]
  | buffer c b a =>
    obtain ⟨hW, hX, -⟩ := h.core_eq c
    cases b <;> simp only [State.readPlace, Core.buffer, hW, hX]
  | power c r =>
    simp only [State.readPlace, State.powerWord]
    split
    · rename_i hc
      obtain ⟨-, -, -, -, hgr, hgs, hp, -⟩ := h.core_eq ⟨c, hc⟩
      rw [hgr, hgs, hp]
    · rw [h.fresh]
  | weight q => simp only [State.readPlace, State.weightWord, hq]
  | _ => rfl

end

theorem State.SameView.items {s t : State} (h : s.SameView t) (xs : List StripItem) :
    (xs.foldl State.performItem s).SameView (xs.foldl State.performItem t) :=
  State.SameView.foldl (fun i k => k.performItem i) xs h

/-! ### Sign extension -/

theorem word_wrap (z : Int) : word (wrap 64 z) = BitVec.ofInt 64 z := by
  apply BitVec.eq_of_toNat_eq
  rw [word, BitVec.toNat_ofNat, BitVec.toNat_ofInt, wrap, Nat.mod_eq_of_lt]
  omega

theorem signed_eq_toInt {w : Nat} (hw : 0 < w) (x : Nat) : signed w x = (BitVec.ofNat w x).toInt := by
  obtain ⟨v, rfl⟩ := Nat.exists_eq_add_of_lt hw
  have hp : 2 ^ (0 + v + 1) = 2 * 2 ^ v := by ring
  have hf : fieldOf x (0 + v + 1 - 1) 1 = x % 2 ^ (0 + v + 1) / 2 ^ v := by
    rw [fieldOf_eq_mod_div, show 0 + v + 1 - 1 = v by omega, show v + 1 = 0 + v + 1 by omega]
  have hlt := Nat.mod_lt x (Nat.two_pow_pos (0 + v + 1))
  rw [signed, hf, BitVec.toInt_eq_toNat_cond, BitVec.toNat_ofNat]
  generalize x % 2 ^ (0 + v + 1) = y at hlt ⊢
  rw [hp] at hlt ⊢
  have hv := Nat.two_pow_pos v
  generalize 2 ^ v = m at hlt hv ⊢
  by_cases hy : y < m
  · rw [Nat.div_eq_of_lt hy, if_neg (by omega), if_pos (by omega)]
  · rw [show y / m = 1 from Nat.div_eq_of_lt_le (by omega) (by omega), if_pos rfl, if_neg (by omega)]

theorem word_wrap_signed {w : Nat} (hw : 0 < w) (x : Nat) : word (wrap 64 (signed w x)) = (BitVec.ofNat w x).signExtend 64 := by
  rw [word_wrap, signed_eq_toInt hw, BitVec.signExtend]

/-! ### Scalar loads (R131) -/

theorem memAddress_eq (base : Word) (off : BitVec 8) (n : Nat) :
    memAddress base off n = BitVec.ofInt 64 (base.toInt + off.toInt * n) := by
  rw [memAddress, BitVec.ofInt_add, BitVec.ofInt_mul, BitVec.ofInt_toInt, BitVec.signExtend, BitVec.ofInt_natCast]
  rfl

/-- The result of a load on its way (R304). -/
def loadFill (d : Reg) (p : Place) (n upTo : Nat) (sext : Bool) : Fill :=
  { vector := false, reg := d, value := 0, reads := [{ place := p, bytes := n, upTo, lo := 0, width := 64, sext }] }

@[simp] theorem State.count_me (s : State) (p : Place) : (s.count p).me = s.me := by
  unfold State.count
  split <;> rfl

@[simp] theorem Hart.completed_strip (h : Hart) (u : Uses) (pc : Word) : (h.completed u pc).strip = h.strip := by
  unfold Hart.completed; dsimp only; split <;> rfl

section
variable {n : Nat} {sext : Bool} {s : State} {d a : Reg} {off : BitVec 8} {fa : Bool} {p : Place}

theorem scalarLoad_next {va : Word} (hva : va = BitVec.ofInt 64 ((s.me.readX a).toInt + off.toInt * n))
    (ha : s.Admits (loadUses d a fa)) (hal : va.toNat % n = 0) (hp : s.place (.scalar (n == 8)) .load va = .ok p)
    (hm : s.meetsPoison p n = false) : scalarLoad n sext d a off fa s =
      .next ((s.count p).after (loadUses d a fa) fun h => h.await (loadFill d p n s.me.strip.length sext)) := by
  rw [← memAddress_eq] at hva
  subst hva
  rw [State.after, State.count_me]
  refine issue_of_admits ha ?_
  rw [s.begun_of_open rfl]
  simp only [hp, hm, isAligned_of hal, Bool.not_true, Bool.false_eq_true, if_false]
  refine congrArg Except.ok (State.modifyMe_congr ?_)
  rw [State.count_me]
  rfl

/-- The hart after a load has issued. -/
theorem me_after_load : ((s.count p).after (loadUses d a fa) fun h => h.await (loadFill d p n s.me.strip.length sext)).me =
    (s.me.await (loadFill d p n s.me.strip.length sext)).completed (loadUses d a fa) (s.me.pc + 4) := by
  rw [State.after, State.me_complete, State.me_modifyMe, State.count_me]
  rfl

theorem sameView_after (t : State) (u : Uses) (f : Hart → Hart) : t.SameView (t.after u f) :=
  (t.sameView_modifyMe f).trans (State.sameView_complete _ u _)

theorem Hart.await_of_scalar {h : Hart} {f : Fill} (hv : f.vector = false) (hr : f.reg ≠ 0) :
    h.await f = { h with full := setFlag h.full f.reg.toNat false, fills := h.fills ++ [f] } := by
  rw [Hart.await, if_neg (by simp [hv]), if_neg hr]

theorem setFlag_getLsbD {n : Nat} (x : BitVec n) {i : Nat} (hi : i < n) (b : Bool) : (setFlag x i b).getLsbD i = b := by
  have hp : (BitVec.ofNat n (2 ^ i)).getLsbD i = true := by
    rw [BitVec.getLsbD_ofNat, Nat.testBit_two_pow_self, decide_eq_true hi, Bool.and_true]
  cases b with
  | true => rw [setFlag, if_pos rfl, BitVec.getLsbD_or, hp, Bool.or_true]
  | false => rw [setFlag, if_neg Bool.false_ne_true, BitVec.getLsbD_and, BitVec.getLsbD_not, hp, Bool.not_true, Bool.and_false, Bool.and_false]

theorem Hart.isFull_eq {h : Hart} {r : Reg} (h0 : r ≠ 0) (hr : r.toNat < 48) : h.isFull r = h.full.getLsbD r.toNat := by
  rw [Hart.isFull, beq_false_of_ne h0, decide_eq_false (Nat.not_le.2 hr), Bool.false_or, Bool.false_or]

/-- D is empty after a load has issued (R32). -/
theorem isFull_after_load (h0 : d ≠ 0) (hd : d.toNat < 48) :
    ((s.count p).after (loadUses d a fa) fun h => h.await (loadFill d p n s.me.strip.length sext)).me.isFull d = false := by
  rw [me_after_load, Hart.isFull_eq h0 hd, Hart.completed_full, Hart.await_of_scalar rfl h0]
  exact setFlag_getLsbD _ hd false

/-- A scalar result that is delivered fills its register. -/
theorem Hart.isFull_writeX (h : Hart) {r : Reg} (v : Word) (h0 : r ≠ 0) (hr : r.toNat < 48) : (h.writeX r v).isFull r = true := by
  rw [Hart.isFull_eq h0 hr, Hart.writeX, if_neg h0]
  exact setFlag_getLsbD _ hr true

theorem deliverFirst_me {t : State} {f : Fill} {fs : List Fill} (h : t.me.fills = f :: fs) :
    t.deliverFirst.me = ({ t.me with fills := fs } : Hart).deliver (t.performFill f) := by
  unfold State.deliverFirst State.takeForeign
  rw [h]
  dsimp only
  split <;> simp

theorem Hart.deliver_of_scalar {h : Hart} {f : Fill} (hv : f.vector = false) :
    h.deliver f = ({ h with checkpoint := h.checkpoint.take f } : Hart).writeX f.reg (word f.value) := by
  unfold Hart.deliver
  simp [hv]

theorem setField_zero_word (x : Nat) : word (setField 0 0 64 x) = word x := by
  apply BitVec.eq_of_toNat_eq
  simp [setField, fieldOf, word]

/-- The value that the one read of a load brings. -/
theorem performFill_load (t : State) {v : Word}
    (hv : word (t.readPending { place := p, bytes := n, upTo := s.me.strip.length, lo := 0, width := 64, sext }) = v) :
    (t.performFill (loadFill d p n s.me.strip.length sext)).vector = false ∧
      (t.performFill (loadFill d p n s.me.strip.length sext)).reg = d ∧
        word (t.performFill (loadFill d p n s.me.strip.length sext)).value = v := by
  refine ⟨rfl, rfl, ?_⟩
  rw [← hv]
  exact setField_zero_word _

/-- The bytes of a load as a strip that nothing has joined shows them. -/
theorem readPending_after_load {t : State} (hv : s.SameView t) (hs : t.me.strip = s.me.strip) :
    t.readPending { place := p, bytes := n, upTo := s.me.strip.length, lo := 0, width := 64, sext } =
      if sext then wrap 64 (signed (8 * n) (s.viewed.readPlace p n)) else s.viewed.readPlace p n := by
  unfold State.readPending State.viewed
  simp only [hs, List.take_length, (hv.items s.me.strip).readPlace]

end

/-- A load of `n` bytes, with what it makes of them. -/
def LoadsAs (i : Reg → Reg → BitVec 8 → Bool → Instr) (n : Nat) (value : Nat → Word) (sext : Bool) : Prop :=
  (∀ d a off fa s, exec (i d a off fa) s = scalarLoad n sext d a off fa s) ∧
    ∀ x, word (if sext then wrap 64 (signed (8 * n) x) else x) = value x

theorem loadTable_loads : ∀ e ∈ loadTable, ∃ sext, LoadsAs e.1 e.2.1 e.2.2 sext := by
  have plain {i : Reg → Reg → BitVec 8 → Bool → Instr} {n : Nat} (hi : ∀ d a off fa s, exec (i d a off fa) s =
      scalarLoad n false d a off fa s) : ∃ sext, LoadsAs i n word sext := ⟨false, hi, fun _ => rfl⟩
  have signed_ {i : Reg → Reg → BitVec 8 → Bool → Instr} {n : Nat} (h0 : 0 < n) (hi : ∀ d a off fa s, exec (i d a off fa) s =
      scalarLoad n true d a off fa s) : ∃ sext, LoadsAs i n (fun x => (BitVec.ofNat (8 * n) x).signExtend 64) sext :=
    ⟨true, hi, fun x => word_wrap_signed (by omega) x⟩
  simp only [loadTable, List.forall_mem_cons, List.not_mem_nil, false_imp_iff, implies_true, and_true]
  exact ⟨plain exec_ldb, plain exec_ldh, plain exec_ldw, plain exec_ldd, signed_ (by decide) exec_ldbs,
    signed_ (by decide) exec_ldhs, signed_ (by decide) exec_ldws⟩

/-- Settles O7: the read that `scalarLoad` leaves on its way, and what it brings when it performs. -/
theorem loadsComplete : Obligations.LoadsComplete := by
  unfold Obligations.LoadsComplete
  intro e he s d a off fa p n va ha hal hp hm
  obtain ⟨sext, hexec, hvalue⟩ := loadTable_loads e he
  have hd : d.toNat < 48 := by
    have := ha.fields ⟨2, d, isScalar d⟩ (by simp [loadUses])
    simpa [isScalar] using this
  refine ⟨_, (hexec d a off fa s).trans (scalarLoad_next rfl ha hal hp hm), ⟨_, rfl, rfl, rfl⟩,
    fun h0 => isFull_after_load h0 hd, fun h0 hf => ?_⟩
  have hme := me_after_load (n := n) (sext := sext) (s := s) (d := d) (a := a) (fa := fa) (p := p)
  have hview := (s.sameView_count p).trans (sameView_after (s.count p) (loadUses d a fa) fun h =>
    h.await (loadFill d p n s.me.strip.length sext))
  generalize (s.count p).after (loadUses d a fa) (fun h => h.await (loadFill d p n s.me.strip.length sext)) = t at hme hview
  have hfills : t.me.fills = [loadFill d p n s.me.strip.length sext] := by
    rw [hme, Hart.completed_fills, Hart.await_of_scalar rfl h0, hf]
    rfl
  have hstrip : t.me.strip = s.me.strip := by rw [hme, Hart.completed_strip, Hart.await_strip]
  obtain ⟨hv, hr, hx⟩ := performFill_load (s := s) (d := d) (p := p) (n := n) (sext := sext) t
    (v := e.2.2 (s.viewed.readPlace p n)) (by rw [readPending_after_load hview hstrip]; exact hvalue _)
  rw [deliverFirst_me hfills, Hart.deliver_of_scalar hv, hr, hx]
  exact ⟨Hart.isFull_writeX _ _ h0 hd, Hart.readX_writeX _ _ _ h0 hd⟩

end Sys2Proof.Machine
end

section
/-!
The acts of the engines of a context on results and strips (O47): LONG_LATENCY_RESULT, STRIP_COMMIT_COMPLETE and STRIPLOST.
-/

namespace Sys2Proof.Machine

open Stated

/-! ### The hart that an act is for -/

theorem occurs_of {i : Instr} {s t : State} {p : State → Prop} (h : exec i s = .next t) (hp : p t) : Occurs i s p := ⟨t, h, hp⟩

theorem State.me_actingAs (s : State) (c : CoreId) (x : CtxId) : (s.actingAs c x).me = s.hart c x := rfl

/-- The hart of a context is the one that acts in a state in which that context does. -/
theorem State.hart_eq_me {r : State} {c : CoreId} {x : CtxId} (hc : r.cur.core = c) (hx : r.cur.ctx = x) : r.hart c x = r.me := by
  subst hc hx
  rfl

theorem State.hart_eq_me_of {s r : State} {c : CoreId} {x : CtxId} (h : r.cur = (s.actingAs c x).cur) : r.hart c x = r.me :=
  State.hart_eq_me (by rw [h]; rfl) (by rw [h]; rfl)

@[simp] theorem State.complete_cur (s : State) (u : Uses) (pc : Word) : (s.complete u pc).cur = s.cur :=
  (s.sameSlots_chargeUses u).1

@[simp] theorem Hart.completed_stripCount (h : Hart) (u : Uses) (pc : Word) : (h.completed u pc).stripCount = h.stripCount := by
  unfold Hart.completed; dsimp only; split <;> rfl

@[simp] theorem Hart.completed_closing (h : Hart) (u : Uses) (pc : Word) : (h.completed u pc).closing = h.closing := by
  unfold Hart.completed; dsimp only; split <;> rfl

theorem Hart.calm_fills (h : Hart) : h.calm.fills = h.fills.map Fill.shape := rfl

theorem State.Alike.hart_eq_me {φ : Hart → Hart} {s r : State} {c : CoreId} {x : CtxId} (h : (s.actingAs c x).Alike φ r) :
    r.hart c x = r.me :=
  State.hart_eq_me (by rw [h.1]; rfl) (by rw [h.1]; rfl)

/-! ### Results on their way (R32, R304) -/

@[simp] theorem State.takeForeign_me (s : State) (rs : List PendingRead) : (s.takeForeign rs).me = s.me := by
  unfold State.takeForeign
  split <;> rfl

@[simp] theorem State.takeForeign_dev (s : State) (rs : List PendingRead) : (s.takeForeign rs).dev = s.dev := by
  unfold State.takeForeign
  split <;> rfl

@[simp] theorem State.takeForeign_cur (s : State) (rs : List PendingRead) : (s.takeForeign rs).cur = s.cur := by
  unfold State.takeForeign
  split <;> rfl

theorem Hart.deliver_fills (h : Hart) (f : Fill) : (h.deliver f).fills = h.fills := by
  unfold Hart.deliver
  dsimp only
  split <;> simp

theorem Hart.brings_deliver (h : Hart) (f : Fill) : Brings (h.deliver f) f := by
  unfold Brings Hart.deliver
  split
  · exact ⟨Hart.readV_writeV _ _ _ (by omega), setFlag_getLsbD _ (by omega) true⟩
  · exact fun h0 h48 => ⟨Hart.readX_writeX _ _ _ h0 h48, Hart.isFull_writeX _ _ h0 h48⟩

section
variable {a : State} {n e : Nat} {g : Fill} (hg : a.me.fills[n]? = some g)
include hg

/-- A result without reads left reaches its register. -/
theorem State.performOne_of_done (hr : g.reads = []) : a.performOne n e = a.modifyMe fun h =>
    ({ h with fills := h.fills.eraseIdx n } : Hart).deliver g := by
  unfold State.performOne
  rw [hg]
  simp only [hr]
  rfl

/-- The one read of a result performs where no earlier result has a read. -/
theorem State.performOne_of_read {read : PendingRead} (hr : g.reads = [read]) (hb : (a.me.fills.take n).all (·.reads.isEmpty) = true) :
    a.performOne n e = (a.modifyMe fun h => { h with
      fills := (h.fills.take (n + 1)).map (a.performSome [read].contains) ++ h.fills.drop (n + 1) }).takeForeign [read] := by
  have hbefore : (a.me.fills.take n).flatMap (·.reads) = [] := by
    rw [List.flatMap_eq_nil_iff]
    intro f hf
    exact List.isEmpty_iff.1 (List.all_eq_true.1 hb f hf)
  unfold State.performOne
  rw [hg]
  simp only [hr, List.length_singleton, Nat.mod_one, List.getElem?_cons_zero, List.take_zero, List.append_nil, hbefore]
  rfl

omit hg in
/-- A result without reads is left as it is by reads that perform. -/
theorem State.performSome_of_done {f : Fill} (hr : f.reads = []) (these : PendingRead → Bool) : a.performSome these f = f := by
  unfold State.performSome
  rw [hr]
  cases f
  cases hr
  rfl

theorem State.fills_performOne {read : PendingRead} (hr : g.reads = [read]) (hb : (a.me.fills.take n).all (·.reads.isEmpty) = true) :
    (a.me.fills.take (n + 1)).map (a.performSome [read].contains) ++ a.me.fills.drop (n + 1) =
      a.me.fills.set n { g with value := setField g.value read.lo read.width (a.readPending read), reads := [] } := by
  have hlt : n < a.me.fills.length := (List.getElem?_eq_some_iff.1 hg).1
  have hn : a.me.fills[n] = g := (List.getElem?_eq_some_iff.1 hg).2
  have hsome : a.performSome [read].contains g =
      { g with value := setField g.value read.lo read.width (a.readPending read), reads := [] } := by
    unfold State.performSome
    simp only [hr, List.filter_cons, List.filter_nil]
    simp [Fill.take]
  have hsame : (a.me.fills.take n).map (a.performSome [read].contains) = a.me.fills.take n :=
    (List.map_congr_left fun f hf =>
      State.performSome_of_done (List.isEmpty_iff.1 (List.all_eq_true.1 hb f hf)) _).trans (List.map_id _)
  rw [List.take_succ_eq_append_getElem hlt, List.map_append, hsame, hn, List.set_eq_take_append_cons_drop, if_pos hlt]
  simp [hsome]

end

theorem longLatencyResult_index {n len : Nat} (hn : n < 2 ^ 16) (hl : n < len) : (BitVec.ofNat 16 n).toNat % len = n := by
  rw [BitVec.toNat_ofNat, Nat.mod_eq_of_lt hn, Nat.mod_eq_of_lt hl]

theorem exec_longLatencyResult_eq {s : State} {c : CoreId} {x : CtxId} {n : Nat} {e : BitVec 16} {g : Fill} (hn : n < 2 ^ 16)
    (hg : (s.hart c x).fills[n]? = some g) : exec (.longLatencyResult c ⟨x, BitVec.ofNat 16 n, e⟩) s =
      .next ((s.actingAs c x).performOne n e.toNat) := by
  have hlt : n < (s.hart c x).fills.length := (List.getElem?_eq_some_iff.1 hg).1
  rw [exec_longLatencyResult]
  unfold execLongLatencyResult
  simp only [State.me_actingAs, longLatencyResult_index hn hlt]

section
variable {s : State} {c : CoreId} {x : CtxId} {n : Nat} {e : BitVec 16} {g : Fill} (hn : n < 2 ^ 16)
  (hg : (s.hart c x).fills[n]? = some g)
include hn hg

theorem longLatencyResult_delivers (hr : g.reads = []) : Occurs (.longLatencyResult c ⟨x, BitVec.ofNat 16 n, e⟩) s fun r =>
    Brings (r.hart c x) g ∧ (r.hart c x).fills = (s.hart c x).fills.eraseIdx n ∧ r.dev = s.dev := by
  refine occurs_of (exec_longLatencyResult_eq hn hg) ?_
  rw [State.performOne_of_done (a := s.actingAs c x) hg hr, State.hart_eq_me (by rfl) (by rfl), State.me_modifyMe]
  exact ⟨Hart.brings_deliver _ _, Hart.deliver_fills _ _, rfl⟩

theorem longLatencyResult_performs {read : PendingRead} (hr : g.reads = [read])
    (hb : ((s.hart c x).fills.take n).all (·.reads.isEmpty) = true) :
    Occurs (.longLatencyResult c ⟨x, BitVec.ofNat 16 n, e⟩) s fun r =>
      (r.hart c x).fills = (s.hart c x).fills.set n { g with
        value := setField g.value read.lo read.width ((s.actingAs c x).readPending read), reads := [] } ∧
      (r.hart c x).x = (s.hart c x).x ∧ (r.hart c x).vec = (s.hart c x).vec ∧ r.dev = s.dev := by
  refine occurs_of (exec_longLatencyResult_eq hn hg) ?_
  rw [State.performOne_of_read (a := s.actingAs c x) hg hr hb, State.hart_eq_me (by rw [State.takeForeign_cur]; rfl)
    (by rw [State.takeForeign_cur]; rfl), State.takeForeign_me, State.me_modifyMe, State.takeForeign_dev]
  exact ⟨State.fills_performOne (a := s.actingAs c x) hg hr hb, rfl, rfl, rfl⟩

end

/-! ### The commit of a strip (R179, R182) -/

/-- What a commit makes of the hart once its items have taken effect. -/
theorem State.commitStrip_eq (s : State) : s.commitStrip =
    (State.commitItems s.me.strip.length s.me.pace s).modifyMe fun h =>
      { h with
        pace := if s.me.strip.isEmpty then h.pace else none
        stripCount := if h.strip.isEmpty then 0 else h.stripCount
        closing := h.closing && !h.strip.isEmpty } := rfl

theorem State.commitStrip_stripCount {s : State} (h : s.commitStrip.me.strip = []) : s.commitStrip.me.stripCount = 0 := by
  rw [State.commitStrip_eq, State.me_modifyMe] at h ⊢
  simp only at h ⊢
  rw [h]
  rfl

/-- A strip that has committed whole is not closing any more; one of which something is left goes on closing. -/
theorem State.commitStrip_closing (s : State) : s.commitStrip.me.closing = (s.me.closing && !s.commitStrip.me.strip.isEmpty) := by
  have hc : (State.commitItems s.me.strip.length s.me.pace s).me.closing = s.me.closing :=
    Hart.of_part (State.sameHarts_commitItems s.me.strip.length s.me.pace s).me Hart.closing fun _ => rfl
  rw [State.commitStrip_eq, State.me_modifyMe]
  exact congrArg (· && _) hc

theorem vector_of_shapes {fs gs : List Fill} (he : fs.map Fill.shape = gs.map Fill.shape) (h : ∀ f ∈ gs, f.vector = false) :
    ∀ f ∈ fs, f.vector = false := by
  intro f hf
  obtain ⟨g, hg, hs⟩ := List.mem_map.1 (he ▸ List.mem_map_of_mem hf)
  exact (congrArg Fill.vector hs).symm.trans (h g hg)

theorem Hart.deliver_closing (h : Hart) (f : Fill) : (h.deliver f).closing = h.closing ∧ (h.deliver f).pc = h.pc := by
  unfold Hart.deliver
  dsimp only
  split <;> simp

theorem Hart.delivers_keep : (fs : List Fill) → (h : Hart) → (fs.foldl Hart.deliver h).fills = h.fills ∧
    (fs.foldl Hart.deliver h).closing = h.closing ∧ (fs.foldl Hart.deliver h).pc = h.pc
  | [], _ => ⟨rfl, rfl, rfl⟩
  | f :: fs, h => by
    obtain ⟨h1, h2, h3⟩ := Hart.delivers_keep fs (h.deliver f)
    obtain ⟨k2, k3⟩ := h.deliver_closing f
    exact ⟨h1.trans (h.deliver_fills f), h2.trans k2, h3.trans k3⟩

theorem State.landVectors_me (s : State) : (∀ f ∈ s.landVectors.me.fills, f.vector = false) ∧
    s.landVectors.me.closing = s.me.closing ∧ s.landVectors.me.pc = s.me.pc := by
  unfold State.landVectors
  rw [State.me_modifyMe]
  obtain ⟨h1, h2, h3⟩ := Hart.delivers_keep
    ((s.performBefore ((s.me.fills.filter (·.vector)).flatMap (·.reads))).me.fills.filter (·.vector))
    { (s.performBefore ((s.me.fills.filter (·.vector)).flatMap (·.reads))).me with
      fills := (s.performBefore ((s.me.fills.filter (·.vector)).flatMap (·.reads))).me.fills.filter (!·.vector) }
  have hs := State.sameHarts_performThese s (splitReads ((s.me.fills.filter (·.vector)).flatMap (·.reads)) s.me.pendingReads.reverse).1.contains
  rw [h1, h2, h3]
  refine ⟨fun f hf => by simpa using (List.mem_filter.1 hf).2, ?_, ?_⟩
  · exact Hart.of_part hs.me Hart.closing fun _ => rfl
  · exact Hart.of_part hs.me Hart.pc fun _ => rfl

theorem State.landVectors_cur (s : State) : s.landVectors.cur = s.cur :=
  (State.sameHarts_performThese s _).1

section
variable {s done : State} {c : CoreId} {x : CtxId}

theorem landVectors_commit (hd : done = (s.actingAs c x).landVectors.commitStrip) : done.cur = (s.actingAs c x).cur ∧
    (∀ f ∈ done.me.fills, f.vector = false) ∧ done.me.pc = (s.hart c x).pc ∧
      done.me.closing = ((s.hart c x).closing && !done.me.strip.isEmpty) ∧ (done.me.strip = [] → done.me.stripCount = 0) := by
  obtain ⟨hv, hc, hpc⟩ := (s.actingAs c x).landVectors_me
  have hlcur := (s.actingAs c x).landVectors_cur
  generalize (s.actingAs c x).landVectors = landed at hd hv hc hpc hlcur
  have hcalm := landed.sameCalm_commitStrip
  have hclose := landed.commitStrip_closing
  have hcount : landed.commitStrip.me.strip = [] → landed.commitStrip.me.stripCount = 0 := State.commitStrip_stripCount
  rw [← hd] at hcalm hclose hcount
  have hfills := congrArg Hart.fills hcalm.me
  rw [Hart.calm_fills, Hart.calm_fills] at hfills
  rw [hc] at hclose
  exact ⟨hcalm.1.trans hlcur, vector_of_shapes hfills hv, (Hart.of_part hcalm.me Hart.pc fun _ => rfl).trans hpc, hclose, hcount⟩

variable (hd : done = (s.actingAs c x).landVectors.commitStrip) (hc : (s.hart c x).closing = true)
include hd hc

/-- STRIPC completes where nothing of its strip is left. -/
theorem stripCommitComplete_completes (hs : done.me.strip = []) : Occurs (.stripCommitComplete c x) s fun r =>
    (r.hart c x).strip = [] ∧ (r.hart c x).stripCount = 0 ∧ (r.hart c x).closing = false ∧
      (∀ g ∈ (r.hart c x).fills, g.vector = false) ∧ (r.hart c x).pc = (s.hart c x).pc + 4 ∧ r.dev.mem = done.dev.mem := by
  obtain ⟨hcur, hv, hpc, hclose, hcount⟩ := landVectors_commit hd
  have he : exec (.stripCommitComplete c x) s = .next (done.complete { commits := true } ((s.hart c x).pc + 4)) := by
    rw [exec_stripCommitComplete]
    unfold execStripCommitComplete
    simp only [State.me_actingAs, hc, ← hd, hs, if_true, List.isEmpty_nil]
  have hme := done.me_complete { commits := true } ((s.hart c x).pc + 4)
  refine occurs_of he ?_
  rw [State.hart_eq_me_of ((State.complete_cur _ _ _).trans hcur), hme, Hart.completed_strip, Hart.completed_stripCount,
    Hart.completed_closing, Hart.completed_fills, Hart.completed_pc, State.complete_dev]
  exact ⟨hs, hcount hs, by rw [hclose, hs]; exact Bool.and_false _, hv, rfl, rfl⟩

/-- STRIPC waits for what is left of its strip. -/
theorem stripCommitComplete_waits (hs : done.me.strip ≠ []) : Occurs (.stripCommitComplete c x) s fun r =>
    (r.hart c x).closing = true ∧ (r.hart c x).strip = done.me.strip ∧ (r.hart c x).pc = (s.hart c x).pc ∧
      r.dev.mem = done.dev.mem ∧ r.status c x = .waiting .strip := by
  obtain ⟨hcur, -, hpc, hclose, -⟩ := landVectors_commit hd
  have hne : done.me.strip.isEmpty = false := List.isEmpty_eq_false_iff.2 hs
  have he : exec (.stripCommitComplete c x) s = .next (done.setStatus c x (.waiting .strip)) := by
    rw [exec_stripCommitComplete]
    unfold execStripCommitComplete
    simp only [State.me_actingAs, hc, ← hd, hne, if_true, Bool.false_eq_true, if_false]
  refine occurs_of he ?_
  rw [State.hart_setStatus, State.hart_eq_me_of hcur, hclose, hc, hne]
  exact ⟨rfl, rfl, hpc, rfl, State.status_setStatus _ _ _ _⟩

end

/-- What a hart in GANG has left of its own strip commits (R308, R448). -/
theorem stripCommitComplete_gang {s : State} {c : CoreId} {x : CtxId} {w : Wait} (hc : (s.hart c x).closing = false)
    (hw : s.status c x = .waiting w) (hg : w.isGang = true) : Occurs (.stripCommitComplete c x) s fun r =>
      (r.hart c x).strip = (s.actingAs c x).commitStrip.me.strip ∧ r.dev.mem = (s.actingAs c x).commitStrip.dev.mem ∧
        (r.hart c x).pc = (s.hart c x).pc := by
  have hcalm := (s.actingAs c x).sameCalm_commitStrip
  have he : exec (.stripCommitComplete c x) s = .next { (s.actingAs c x).commitStrip with cur := s.cur } := by
    rw [exec_stripCommitComplete]
    unfold execStripCommitComplete
    simp only [State.me_actingAs, hc, hw, hg, if_true, Bool.false_eq_true, if_false]
  refine occurs_of he ⟨?_, rfl, ?_⟩
  · exact congrArg Hart.strip hcalm.hart_eq_me
  · exact (congrArg Hart.pc hcalm.hart_eq_me).trans (Hart.of_part hcalm.me Hart.pc fun _ => rfl)

/-! ### The entry into a trap (R394) -/

/-- The hart without the counters of ADVSTAT. -/
def Hart.noAdv (h : Hart) : Hart := { h with adv := {} }

/-- A reset of the Second changes nothing of a hart but its counters. -/
theorem State.alike_resetAdvice (s : State) (c : CoreId) (x : CtxId) : s.Alike Hart.noAdv (s.resetAdvice c x) := by
  unfold State.resetAdvice
  split
  · rename_i hx
    refine s.alike_modifyCore c _ fun y => ?_
    unfold Core.status Core.hart
    by_cases hy : y.val < 4
    · simp only [dif_pos hy]
      by_cases he : x.val = y.val
      · simp only [he, Vector.getElem_set_self]
        exact ⟨trivial, rfl⟩
      · simp only [Vector.getElem_set_ne hx hy he]
        exact ⟨trivial, trivial⟩
    · simp only [dif_neg hy]
      exact ⟨trivial, trivial⟩
  · exact .refl s

/-- The hart whose trap has been entered. -/
def Hart.trapped (h : Hart) (regs : TrapRegs) : Hart :=
  { h with links := [], trap := regs, eltDone := 0, eltEnd := none, rowDone := 0, trapDue := none }

/-- The state in which the trap of a user context has been entered and posted. -/
def State.entered (s : State) (t : Trap) : State :=
  (((s.resetAdvice s.cur.core s.cur.ctx).modifyMe fun h => h.trapped (s.trapRegs t)).setStatus s.cur.core s.cur.ctx .trapped).post
    s.cur.core { regs := s.trapRegs t, of := .hart }

theorem State.enterTrap_of_user {s : State} (t : Trap) (hx : s.cur.ctx ≠ 4) : s.enterTrap t =
    if t.cause = causeFenced then (s.entered t).fenceLaunch (s.entered t).me.link.launch causeFenced else s.entered t := by
  have hcur := (s.alike_resetAdvice s.cur.core s.cur.ctx).1
  have hf : ((s.resetAdvice s.cur.core s.cur.ctx).modifyMe fun h => h.trapped (s.trapRegs t)).isFirmware = false := by
    rw [State.isFirmware_modifyMe, State.isFirmware_eq_false, hcur]
    exact hx
  unfold State.enterTrap
  unfold Hart.trapped at hf
  simp only [hf, Bool.false_eq_true, if_false]
  rfl

theorem State.alike_wakeCore {φ : Hart → Hart} (s : State) (c : CoreId) : s.Alike φ (s.wakeCore c) := by
  unfold State.wakeCore
  split
  · exact .refl s
  · exact .refl s
  · exact s.alike_modifyCore c _ fun _ => ⟨rfl, rfl⟩
  · exact s.alike_modifyCore c _ fun _ => ⟨rfl, rfl⟩
  · exact s.alike_modifyCore c (fun k => { k with power := .waking }) fun _ => ⟨rfl, rfl⟩

theorem State.alike_post {φ : Hart → Hart} (s : State) (c : CoreId) (r : Record) : s.Alike φ (s.post c r) :=
  (s.alike_modifyCore c _ fun _ => ⟨rfl, rfl⟩).trans (State.alike_wakeCore _ _)

theorem State.alike_setStatus_me {φ : Hart → Hart} (s : State) (t : Status) : φ (s.setStatus s.cur.core s.cur.ctx t).me = φ s.me := by
  unfold State.me
  rw [State.setStatus_cur, State.hart_setStatus]

section
variable (s : State) (t : Trap)

theorem State.entered_cur : (s.entered t).cur = s.cur :=
  (State.alike_post (φ := Hart.noAdv) _ _ _).1.trans (s.alike_resetAdvice _ _).1

theorem State.entered_status : (s.entered t).status s.cur.core s.cur.ctx = .trapped := by
  unfold State.entered
  rw [((State.alike_post (φ := Hart.noAdv) _ _ _).2 _ _).1, State.status_setStatus]

/-- The hart in its trap: all but the counters of its Second is as it was, or as the entry sets it. -/
theorem State.entered_me : (s.entered t).me.noAdv = (s.me.trapped (s.trapRegs t)).noAdv := by
  have hr := s.alike_resetAdvice s.cur.core s.cur.ctx
  have hp := State.alike_post (φ := Hart.noAdv)
    (((s.resetAdvice s.cur.core s.cur.ctx).modifyMe fun h => h.trapped (s.trapRegs t)).setStatus s.cur.core s.cur.ctx .trapped)
    s.cur.core { regs := s.trapRegs t, of := .hart }
  have hs := State.alike_setStatus_me (φ := Hart.noAdv)
    ((s.resetAdvice s.cur.core s.cur.ctx).modifyMe fun h => h.trapped (s.trapRegs t)) .trapped
  rw [State.modifyMe_cur, hr.1] at hs
  refine (hp.me.trans hs).trans ?_
  rw [State.me_modifyMe]
  exact congrArg (fun h => Hart.trapped h (s.trapRegs t)) hr.me

theorem State.entered_mem : (s.entered t).dev.mem = s.dev.mem := by
  have hp := (State.sameMem_post
    (((s.resetAdvice s.cur.core s.cur.ctx).modifyMe fun h => h.trapped (s.trapRegs t)).setStatus s.cur.core s.cur.ctx .trapped)
    s.cur.core { regs := s.trapRegs t, of := .hart }).1
  refine hp.trans ?_
  simp only [State.setStatus_dev, State.modifyMe_dev]
  unfold State.resetAdvice
  split <;> rfl

end

/-! ### STRIPLOST (R182) -/

theorem State.performReads_me (s : State) : s.performReads.me = { s.me with fills := s.me.fills.map s.performFill } := by
  unfold State.performReads
  rw [State.takeForeign_me, State.me_modifyMe]

theorem State.performReads_dev (s : State) : s.performReads.dev = s.dev := by
  unfold State.performReads
  rw [State.takeForeign_dev, State.modifyMe_dev]

/-- Nothing of an empty strip has to take effect. -/
theorem State.commitStrip_of_empty {s : State} (h : s.me.strip = []) :
    s.commitStrip = s.modifyMe fun h => { h with stripCount := 0, closing := false } := by
  rw [State.commitStrip_eq, h]
  refine State.modifyMe_congr (s := s) ?_
  simp only [h, List.isEmpty_nil, if_true, Bool.not_true, Bool.and_false]

theorem Hart.deliver_strip (h : Hart) (f : Fill) : (h.deliver f).strip = h.strip := by
  unfold Hart.deliver
  dsimp only
  split <;> simp

theorem Hart.delivers_strip : (fs : List Fill) → (h : Hart) → (fs.foldl Hart.deliver h).strip = h.strip
  | [], _ => rfl
  | f :: fs, h => (Hart.delivers_strip fs _).trans (h.deliver_strip f)

theorem Hart.settle_strip (h : Hart) : h.settle.strip = h.strip := Hart.delivers_strip h.fills _

theorem State.quiesce_of_empty {s : State} (h : s.me.strip = []) : s.quiesce =
    (s.performReads.modifyMe Hart.settle).modifyMe fun h => { h with stripCount := 0, closing := false } := by
  refine State.commitStrip_of_empty ?_
  rw [State.me_modifyMe, Hart.settle_strip, State.performReads_me]
  exact h

/-- The trap of a strip that is lost. -/
def lostTrap (k : Checkpoint) (met : Word) : Trap := { cause := 0x14, val := met, elt := k.elemBase, epc := some k.pc }

section
variable {a : State} (met : Word)

/-- The state in which a discarded strip has been returned to its checkpoint and the results still owed have arrived. -/
theorem State.discarded_quiesce : (a.modifyMe Hart.discardStrip).quiesce.me =
    { ({ a.me.discardStrip with
         fills := a.me.discardStrip.fills.map (a.modifyMe Hart.discardStrip).performFill } : Hart).settle with
      stripCount := 0, closing := false } := by
  rw [State.quiesce_of_empty (by rw [State.me_modifyMe]; rfl), State.me_modifyMe, State.me_modifyMe, State.performReads_me,
    State.me_modifyMe]

theorem State.discarded_strip : (a.modifyMe Hart.discardStrip).quiesce.me.strip = [] := by
  rw [State.discarded_quiesce]
  exact Hart.settle_strip _

theorem State.discarded_cur : (a.modifyMe Hart.discardStrip).quiesce.cur = a.cur := by
  rw [State.quiesce_of_empty (by rw [State.me_modifyMe]; rfl), State.modifyMe_cur, State.modifyMe_cur]
  exact ((a.modifyMe Hart.discardStrip).sameHarts_performReads).1

theorem State.discarded_dev : (a.modifyMe Hart.discardStrip).quiesce.dev = a.dev := by
  rw [State.quiesce_of_empty (by rw [State.me_modifyMe]; rfl), State.modifyMe_dev, State.modifyMe_dev, State.performReads_dev,
    State.modifyMe_dev]

theorem State.loseStrip_of_user (hx : a.cur.ctx ≠ 4) :
    a.loseStrip met = (a.modifyMe Hart.discardStrip).quiesce.entered (lostTrap a.me.checkpoint met) := by
  unfold State.loseStrip State.takeTrap
  simp only [State.discarded_strip, List.isEmpty_nil, if_true]
  rw [State.enterTrap_of_user _ (by rw [State.discarded_cur]; exact hx), if_neg (show (0x14 : BitVec 8) ≠ causeFenced by decide)]
  rfl

/-- Without results that the checkpoint is owed, the registers are those of the checkpoint. -/
theorem State.discarded_registers (ho : ∀ g ∈ a.me.fills, (g.vector, g.reg) ∉ a.me.checkpoint.owed) :
    (a.modifyMe Hart.discardStrip).quiesce.me.x = a.me.checkpoint.x ∧
      (a.modifyMe Hart.discardStrip).quiesce.me.vec.v = a.me.checkpoint.v := by
  have hf : a.me.discardStrip.fills = [] := by
    have hn : (a.me.fills.filter fun f => a.me.checkpoint.owed.contains (f.vector, f.reg)) = [] := by
      rw [List.filter_eq_nil_iff]
      intro g hg
      simpa using ho g hg
    unfold Hart.discardStrip
    simp only [hn, List.map_nil]
  rw [State.discarded_quiesce, hf]
  exact ⟨rfl, rfl⟩

end

theorem striplost_occurs {s : State} {c : CoreId} {x : CtxId} (hs : (s.hart c x).strip ≠ []) (hd : (s.hart c x).trapDue = none)
    (hst : s.status c x = .running ∨ ∃ w, s.status c x = .waiting w ∧ w ≠ .strip ∧ w.isGang = false) (hx : x ≠ 4) :
    let lost := ((s.actingAs c x).modifyMe Hart.discardStrip).quiesce.me
    let h := s.hart c x
    Occurs (.striplost c x) s fun r =>
      r.status c x = .trapped ∧ (r.hart c x).strip = [] ∧ (r.hart c x).x = lost.x ∧ (r.hart c x).vec.v = lost.vec.v ∧
        ((∀ g ∈ h.fills, (g.vector, g.reg) ∉ h.checkpoint.owed) →
          (r.hart c x).x = h.checkpoint.x ∧ (r.hart c x).vec.v = h.checkpoint.v) ∧
        (r.hart c x).trap.cause = 0x14 ∧ (r.hart c x).trap.val = h.pc ∧
        (r.hart c x).trap.epc = h.checkpoint.pc ∧ (r.hart c x).trap.elt = h.checkpoint.elemBase ∧ r.dev.mem = s.dev.mem := by
  intro lost h
  have hw : s.stripIsWhole c x = true := by
    have hne : (s.hart c x).strip.isEmpty = false := List.isEmpty_eq_false_iff.2 hs
    unfold State.stripIsWhole
    rw [hne, hd]
    rcases hst with hr | ⟨w, hr, hne, hg⟩
    · rw [hr]; rfl
    · simp [hr, hg, hne]
  have he : exec (.striplost c x) s = .next (((s.actingAs c x).modifyMe Hart.discardStrip).quiesce.entered
      (lostTrap h.checkpoint h.pc)) := by
    rw [exec_striplost]
    unfold execStriplost
    rw [if_pos hw, State.loseStrip_of_user _ hx]
    rfl
  have hcur := State.discarded_cur (a := s.actingAs c x)
  have hregs := State.discarded_registers (a := s.actingAs c x)
  have hstrip := State.discarded_strip (a := s.actingAs c x)
  have hdev := State.discarded_dev (a := s.actingAs c x)
  have hlost : lost = ((s.actingAs c x).modifyMe Hart.discardStrip).quiesce.me := rfl
  generalize ((s.actingAs c x).modifyMe Hart.discardStrip).quiesce = q at he hcur hregs hstrip hdev hlost
  have hme := q.entered_me (lostTrap h.checkpoint h.pc)
  have hq : (q.entered (lostTrap h.checkpoint h.pc)).hart c x = (q.entered (lostTrap h.checkpoint h.pc)).me :=
    State.hart_eq_me_of ((q.entered_cur _).trans hcur)
  have hstatus := q.entered_status (lostTrap h.checkpoint h.pc)
  have hmem := q.entered_mem (lostTrap h.checkpoint h.pc)
  rw [hcur] at hstatus
  rw [← hq] at hme
  have field {α : Type} (f : Hart → α) (hf : ∀ h, f (Hart.noAdv h) = f h) :
      f ((q.entered (lostTrap h.checkpoint h.pc)).hart c x) = f (q.me.trapped (q.trapRegs (lostTrap h.checkpoint h.pc))) :=
    Hart.of_part hme f hf
  refine occurs_of he ⟨hstatus, (field Hart.strip fun _ => rfl).trans hstrip, ?_, ?_, fun ho => ?_, ?_, ?_, ?_, ?_, ?_⟩
  · rw [hlost]; exact field Hart.x fun _ => rfl
  · rw [hlost]; exact field (fun h => h.vec.v) fun _ => rfl
  · obtain ⟨h1, h2⟩ := hregs ho
    exact ⟨(field Hart.x fun _ => rfl).trans h1, (field (fun h => h.vec.v) fun _ => rfl).trans h2⟩
  · exact field (fun h => h.trap.cause) fun _ => rfl
  · exact field (fun h => h.trap.val) fun _ => rfl
  · exact field (fun h => h.trap.epc) fun _ => rfl
  · exact field (fun h => h.trap.elt) fun _ => rfl
  · rw [hmem, hdev]; rfl

end Sys2Proof.Machine
end

section
/-!
The copy engine (O47): COPY_COMMAND_START and COPY_COMMAND_COMPLETE.
-/

namespace Sys2Proof.Machine

open Stated

/-! ### What translations depend on -/

/-- Two states that are seen alike and translate alike, for the hart that acts. -/
structure State.SameReach (s t : State) : Prop where
  view : s.SameView t
  cur : t.cur = s.cur
  frames : t.dev.frames = s.dev.frames
  tlb : t.myCore.tlb = s.myCore.tlb
  fwroot : t.myCore.fwroot = s.myCore.fwroot
  link : t.me.link = s.me.link

theorem State.SameReach.refl (s : State) : s.SameReach s := ⟨.refl s, rfl, rfl, rfl, rfl, rfl⟩

theorem State.SameReach.trans {s t r : State} (h : s.SameReach t) (k : t.SameReach r) : s.SameReach r :=
  ⟨h.view.trans k.view, k.cur.trans h.cur, k.frames.trans h.frames, k.tlb.trans h.tlb, k.fwroot.trans h.fwroot,
    k.link.trans h.link⟩

theorem State.sameReach_count (s : State) (p : Place) : s.SameReach (s.count p) := by
  refine ⟨s.sameView_count p, ?_, ?_, ?_, ?_, ?_⟩ <;> unfold State.count <;> split <;> rfl

theorem State.sameReach_foldl {α : Type} (f : State → α → State) (h : ∀ s a, State.SameReach s (f s a)) :
    (xs : List α) → (s : State) → s.SameReach (xs.foldl f s)
  | [], s => .refl s
  | x :: xs, s => (h s x).trans (State.sameReach_foldl f h xs (f s x))

theorem State.sameReach_countAll (s : State) (ps : List Place) : s.SameReach (s.countAll ps) :=
  State.sameReach_foldl _ State.sameReach_count ps s

section
variable {s t : State} (h : s.SameReach t)
include h

theorem State.SameReach.walk (va : Nat) : (left at_ : Nat) → Machine.walk t.dev va left at_ = Machine.walk s.dev va left at_
  | 0, _ => rfl
  | left + 1, at_ => by
    obtain ⟨hm, hp, hl, -⟩ := h.view.dev_eq
    unfold Machine.walk
    simp only [Device.isPoisoned, Device.isLost, hm, hp, hl, h.frames, State.SameReach.walk va left]
    rfl

theorem State.SameReach.place (l : Leaf) (core : CoreId) (fw : Bool) (g : Agent) (k : Access) (va : Word) :
    l.place t.dev core fw g k va = l.place s.dev core fw g k va := by
  obtain ⟨-, -, hl, -⟩ := h.view.dev_eq
  unfold Leaf.place
  simp only [Device.isLost, hl, h.frames]
  rfl

/-- Two such states translate every address alike. -/
theorem State.SameReach.locate (g : Agent) (k : Access) (va : Word) : t.locate g k va = s.locate g k va := by
  have hroot : t.root = s.root := by
    unfold State.root State.isFirmware
    rw [h.cur, h.fwroot, h.link]
  have hwalk (root : Word) : walkFrom t.dev root va = walkFrom s.dev root va := by
    unfold walkFrom
    rw [h.frames, h.walk]
  have htr (root : Word) (core : CoreId) (fw : Bool) : translate t.dev root core fw g k va = translate s.dev root core fw g k va := by
    unfold translate
    rw [hwalk]
    split
    · rfl
    · exact h.place _ _ _ _ _ _
  unfold State.locate State.isFirmware
  simp only [hroot, h.cur, h.tlb, htr, h.place]

end

/-! ### A command that goes on -/

theorem State.setMe_self (s : State) : s.setMe s.me = s := by
  have hc (k : Core) (x : CtxId) : k.setHart x (k.hart x) = k := by
    unfold Core.setHart Core.hart
    split
    · rw [Vector.set_getElem_self]
    · rfl
  unfold State.setMe State.setHart State.modifyCore State.me State.hart State.core
  dsimp only
  rw [hc, Vector.set_getElem_self]

theorem State.modifyMe_self {s : State} {f : Hart → Hart} (h : f s.me = s.me) : s.modifyMe f = s := by
  unfold State.modifyMe
  rw [h, State.setMe_self]

theorem Hart.takeSlot_of_memory {h : Hart} {q : CopyCmd} (hc : shapeCbv q.shape = false) : h.takeSlot q = h := by
  unfold Hart.takeSlot
  rw [if_neg (by simp [hc])]

/-- The state in which a command starts: a pending read of the hart that meets its range performs first (R150). -/
def State.beforeCopy (a : State) (q : CopyCmd) : State := if a.me.readsMeet q then a.performReads else a

/-- What an act moves of a command, and how it stops. -/
def State.movedBy (a : State) (q : CopyCmd) (n : Nat) : State × CopyCmd × Option ByteStop :=
  State.moveRows (if shapeRows q.shape * shapeLen q.shape = 0 then 0 else shapeRows q.shape - q.progress / shapeLen q.shape) n
    (a.beforeCopy q) q

theorem State.startCopy_of {a : State} {q : CopyCmd} (hq : a.me.headCmd = some q) (hp : q.phase = .queued)
    (hc : shapeCbv q.shape = false) (n : Nat) : a.startCopy n =
      ((a.movedBy q n).1.chargeCopy q (a.movedBy q n).2.1).settleCopy { (a.movedBy q n).2.1 with started := true }
        (a.movedBy q n).2.2 := by
  have hs : (a.modifyMe fun h => h.takeSlot q) = a := State.modifyMe_self (Hart.takeSlot_of_memory hc)
  have hne : q.phase ≠ .ending := by rw [hp]; decide
  unfold State.startCopy
  simp only [hq, hs, if_neg hne]
  rfl

/-- What stays of a command while its bytes move. -/
def CopyCmd.SameWork (p q : CopyCmd) : Prop := q.ticket = p.ticket ∧ q.phase = p.phase ∧ q.shape = p.shape

theorem State.fillRow_keeps (s : State) (q : CopyCmd) : s.SameHarts (s.fillRow q).1 ∧ q.SameWork (s.fillRow q).2.1 :=
  ⟨State.alike_foldl _ State.sameHarts_count _ _, rfl, rfl, rfl⟩

theorem State.sameHarts_carry (s : State) (p : Place) (run : Nat × Nat) : s.SameHarts (s.carry p run) := by
  unfold State.carry
  split
  · exact .refl s
  · rename_i c b a
    exact s.alike_modifyCore c _ fun _ => by cases b <;> exact ⟨rfl, rfl⟩
  · exact .refl s

theorem State.sameHarts_writeParts (s : State) (wrote : List (Place × Nat)) (xs : List (RowPart × Place)) :
    s.SameHarts (s.writeParts wrote xs) :=
  ((s.sameHarts_performMore _ _).trans (State.alike_foldl _ State.sameHarts_count _ _)).trans
    (State.alike_foldl _ (fun s x => State.alike_foldl _ (fun s run => s.sameHarts_carry x.2 run) x.1.taint s) xs _)

theorem State.flushRow_keeps (s : State) (q : CopyCmd) (n : Nat) :
    s.SameHarts (s.flushRow q n).1 ∧ q.SameWork (s.flushRow q n).2.1 := by
  unfold State.flushRow
  dsimp only
  split
  · exact ⟨.refl s, rfl, rfl, rfl⟩
  · exact ⟨s.sameHarts_writeParts _ _, rfl, rfl, rfl⟩

theorem CopyCmd.SameWork.trans {p q r : CopyCmd} (h : p.SameWork q) (k : q.SameWork r) : p.SameWork r :=
  ⟨k.1.trans h.1, k.2.1.trans h.2.1, k.2.2.trans h.2.2⟩

theorem State.moveRows_keeps : (rows n : Nat) → (s : State) → (q : CopyCmd) →
    s.SameHarts (State.moveRows rows n s q).1 ∧ q.SameWork (State.moveRows rows n s q).2.1
  | 0, _, s, q => ⟨.refl s, rfl, rfl, rfl⟩
  | rows + 1, n, s, q => by
    obtain ⟨hs, hq⟩ := s.fillRow_keeps q
    unfold State.moveRows
    split
    · exact ⟨.refl s, rfl, rfl, rfl⟩
    · split
      · rename_i s1 q1 b he
        rw [he] at hs hq
        obtain ⟨ks, kq⟩ := s1.flushRow_keeps q1 (partBytes q1.parts)
        split
        · exact ⟨hs, hq⟩
        · split <;> rename_i hf <;> rw [hf] at ks kq <;> exact ⟨hs.trans ks, hq.trans kq⟩
      · rename_i s1 q1 he
        rw [he] at hs hq
        obtain ⟨ks, kq⟩ := s1.flushRow_keeps q1 n
        split
        · rename_i hf
          rw [hf] at ks kq
          exact ⟨hs.trans ks, hq.trans kq⟩
        · rename_i s2 q2 hf
          rw [hf] at ks kq
          split
          · obtain ⟨ls, lq⟩ := State.moveRows_keeps rows (n - (q2.progress - q1.progress)) s2 q2
            exact ⟨(hs.trans ks).trans ls, (hq.trans kq).trans lq⟩
          · exact ⟨hs.trans ks, hq.trans kq⟩

theorem State.sameSlots_chargeCopy (s : State) (p q : CopyCmd) : s.SameSlots (s.chargeCopy p q) := by
  have key (n : Nat) : s.SameSlots (if n = 0 then s else s.chargeAged s.cur.core p.age [(ActClass.copy, n)]) := by
    split
    · exact .refl s
    · exact s.sameSlots_chargeAged _ _ _
  exact key _

end Sys2Proof.Machine
end

section
/-!
The acts of the copy engine (O47): COPY_COMMAND_START and COPY_COMMAND_COMPLETE.
-/

namespace Sys2Proof.Machine

open Stated

/-! ### An act of the copy engine -/

theorem occurs_imp {i : Instr} {s : State} {p p' : State → Prop} (h : Occurs i s p) (hp : ∀ r, p r → p' r) : Occurs i s p' := by
  obtain ⟨r, hr, hr'⟩ := h
  exact ⟨r, hr, hp r hr'⟩

theorem Hart.canStartCopy_of {h : Hart} {q : CopyCmd} (hq : h.headCmd = some q) (hp : q.phase = .queued)
    (hc : shapeCbv q.shape = false) : h.canStartCopy = true := by
  unfold Hart.canStartCopy
  simp only [hq, hp, hc]
  rfl

theorem exec_copyCommandStart_of {s : State} {c : CoreId} {x : CtxId} {q : CopyCmd} {n : BitVec 48} (he : EngineFree s c 1)
    (hq : (s.hart c x).headCmd = some q) (hp : q.phase = .queued) (hc : shapeCbv q.shape = false)
    (ho : q.started = true ∨ s.outranked c x Hart.copyReady = false) :
    exec (.copyCommandStart c ⟨x, n⟩) s = .next { (s.actingAs c x).startCopy n.toNat with cur := s.cur } := by
  obtain ⟨hpow, hclk, hdev, hheld⟩ := he
  rw [exec_copyCommandStart]
  unfold execCopyCommandStart State.enginesRun
  simp only [hpow, hclk, hdev, hheld, Hart.canStartCopy_of hq hp hc]
  rw [if_pos]
  rcases ho with ho | ho
  · simp [hq, ho]
  · simp [ho]

theorem State.beforeCopy_keeps (a : State) (q : CopyCmd) : a.SameHarts (a.beforeCopy q) ∧ (a.beforeCopy q).dev = a.dev ∧
    (a.beforeCopy q).me.cmds = a.me.cmds ∧ (a.beforeCopy q).me.followOns = a.me.followOns := by
  unfold State.beforeCopy
  split
  · exact ⟨a.sameHarts_performReads, a.performReads_dev, by rw [a.performReads_me], by rw [a.performReads_me]⟩
  · exact ⟨.refl a, rfl, rfl, rfl⟩

/-- A command that goes on without a stop, with the bytes that its act moved. -/
theorem copyCommandStart_moves {s : State} {c : CoreId} {x : CtxId} {q p : CopyCmd} {n : BitVec 48} {t : State} (he : EngineFree s c 1)
    (hq : (s.hart c x).headCmd = some q) (hp : q.phase = .queued) (hc : shapeCbv q.shape = false)
    (ho : q.started = true ∨ s.outranked c x Hart.copyReady = false)
    (hm : (s.actingAs c x).movedBy q n.toNat = (t, p, none)) :
    Occurs (.copyCommandStart c ⟨x, n⟩) s fun r =>
      r.dev = t.dev ∧ (r.hart c x).cmds = modifyFirst (fun o => o.ticket == p.ticket) (fun _ => { p with
        started := true
        phase := if shapeRows q.shape * shapeLen q.shape ≤ p.progress then .moved else .queued }) t.me.cmds := by
  set a := s.actingAs c x
  obtain ⟨ht, hw⟩ := State.moveRows_keeps (if shapeRows q.shape * shapeLen q.shape = 0 then 0
    else shapeRows q.shape - q.progress / shapeLen q.shape) n.toNat (a.beforeCopy q) q
  change (a.beforeCopy q).SameHarts (a.movedBy q n.toNat).1 at ht
  change q.SameWork (a.movedBy q n.toNat).2.1 at hw
  rw [hm] at ht hw
  obtain ⟨-, hphase, hshape⟩ := hw
  obtain ⟨hcur, hdev, hme, -⟩ := t.sameSlots_chargeCopy q p
  refine occurs_of (exec_copyCommandStart_of he hq hp hc ho) ?_
  rw [State.startCopy_of (a := a) hq hp hc, hm]
  unfold State.settleCopy
  dsimp only at hphase hshape ⊢
  rw [if_neg (by rw [hphase, hp]; decide)]
  generalize t.chargeCopy q p = u at hcur hdev hme ⊢
  refine ⟨hdev, ?_⟩
  have hu : u.cur = a.cur := hcur.trans (ht.1.trans (a.beforeCopy_keeps q).1.1)
  have hr (f : Hart → Hart) : ({ u.modifyMe f with cur := s.cur } : State).hart c x = f u.me :=
    (State.hart_eq_me_of (r := u.modifyMe f) hu).trans (State.me_modifyMe _ _)
  rw [hr, ← hme]
  unfold Hart.modifyCmd CopyCmd.total
  dsimp only
  rw [hshape]

theorem headCmd_modifyFirst {h k : Hart} {q : CopyCmd} {f : CopyCmd → CopyCmd} {t : Word} (hq : h.headCmd = some q) (ht : q.ticket = t)
    (hk : k.cmds = modifyFirst (fun o => o.ticket == t) f h.cmds) : k.headCmd = some (f q) := by
  unfold Hart.headCmd at hq ⊢
  rw [hk]
  obtain ⟨qs, hqs⟩ : ∃ qs, h.cmds = q :: qs := by
    cases hc : h.cmds with
    | nil => rw [hc] at hq; cases hq
    | cons o qs => rw [hc] at hq; cases hq; exact ⟨qs, rfl⟩
  rw [hqs, modifyFirst, if_pos (by simp [ht]), List.head?_cons]

/-- A command without bytes has moved at once. -/
theorem copyCommandStart_empty {s : State} {c : CoreId} {x : CtxId} {q : CopyCmd} {n : BitVec 48} (he : EngineFree s c 1)
    (hq : (s.hart c x).headCmd = some q) (hp : q.phase = .queued) (hc : shapeCbv q.shape = false)
    (ho : q.started = true ∨ s.outranked c x Hart.copyReady = false) (h0 : shapeRows q.shape * shapeLen q.shape = 0) :
    Occurs (.copyCommandStart c ⟨x, n⟩) s fun r =>
      (r.hart c x).headCmd = some { q with phase := .moved, started := true } ∧ r.dev.mem = s.dev.mem := by
  obtain ⟨-, hdev, hcmds, -⟩ := (s.actingAs c x).beforeCopy_keeps q
  have hm : (s.actingAs c x).movedBy q n.toNat = ((s.actingAs c x).beforeCopy q, q, none) := by
    unfold State.movedBy
    rw [if_pos h0]
    rfl
  refine occurs_imp (copyCommandStart_moves he hq hp hc ho hm) fun r ⟨hr, hrc⟩ => ⟨?_, ?_⟩
  · rw [if_pos (by omega), hcmds] at hrc
    exact headCmd_modifyFirst hq rfl hrc
  · rw [hr, hdev]
    rfl

/-! ### The only row of a command -/

theorem shiftBy_zero (va : Word) : shiftBy va 0 = va := by
  unfold shiftBy
  rw [word_wrap]
  simp

/-- Two states with the same harts, who acts, and memory, up to its counts and marks. -/
structure State.SameBytes (s t : State) : Prop where
  alike : s.Alike id t
  mem : t.dev.mem = s.dev.mem

theorem State.SameBytes.refl (s : State) : s.SameBytes s := ⟨.refl s, rfl⟩

theorem State.SameBytes.trans {s t r : State} (h : s.SameBytes t) (k : t.SameBytes r) : s.SameBytes r :=
  ⟨h.alike.trans k.alike, k.mem.trans h.mem⟩

theorem State.sameBytes_foldl {α : Type} (f : State → α → State) (h : ∀ s a, State.SameBytes s (f s a)) :
    (xs : List α) → (s : State) → s.SameBytes (xs.foldl f s)
  | [], s => .refl s
  | x :: xs, s => (h s x).trans (State.sameBytes_foldl f h xs (f s x))

theorem State.sameBytes_count (s : State) (p : Place) : s.SameBytes (s.count p) := by
  refine ⟨?_, (s.sameView_count p).dev_eq.1⟩
  unfold State.count
  split <;> exact .refl s

theorem State.sameBytes_clearWritten (s : State) (rs : List (Place × Nat)) : s.SameBytes (s.clearWritten rs) :=
  ⟨(s.alike_modifyDev _).trans (State.alike_modifyCore _ _ _ fun _ => ⟨rfl, rfl⟩), rfl⟩

theorem State.sameBytes_carry (s : State) (p : Place) (run : Nat × Nat) : s.SameBytes (s.carry p run) := by
  unfold State.carry
  split
  · exact ⟨s.alike_modifyDev _, rfl⟩
  · rename_i c b a
    exact ⟨s.alike_modifyCore c _ fun _ => by cases b <;> exact ⟨rfl, rfl⟩, rfl⟩
  · exact .refl s

theorem Device.clearGroup_mem (d : Device) (pa n x : Nat) : (d.clearGroup pa n x).mem = d.mem := by
  unfold Device.clearGroup
  split <;> rfl

/-- One part written to memory that is not lost. -/
theorem State.writeParts_main {s : State} (wrote : List (Place × Nat)) (x : RowPart) {pa : Nat} (hl : s.dev.isLost pa = false) :
    s.Alike id (s.writeParts wrote [(x, .main pa)]) ∧
      (s.writeParts wrote [(x, .main pa)]).dev.mem = s.dev.mem.write pa x.bytes x.data := by
  have hst : s.performStore (.main pa) x.bytes x.data = s.modifyDev fun d => (d.store pa x.bytes x.data).clearGroup pa x.bytes x.data := by
    simp only [State.performStore, hl]
    rfl
  have hk : (s.performStore (.main pa) x.bytes x.data).SameBytes (s.writeParts wrote [(x, .main pa)]) :=
    ((State.sameBytes_clearWritten _ _).trans (State.sameBytes_foldl _ State.sameBytes_count _ _)).trans
      (State.sameBytes_foldl _ (fun s (y : RowPart × Place) => State.sameBytes_foldl _ (fun s run => s.sameBytes_carry y.2 run) y.1.taint s) _ _)
  rw [hst] at hk
  exact ⟨(s.alike_modifyDev _).trans hk.alike, hk.mem.trans (Device.clearGroup_mem _ _ _ _)⟩

theorem rowParts_single {src dst : Word} {k n : Nat} (hn : n ≠ 0) (hs : src.toNat % 65536 + n ≤ 65536)
    (hd : dst.toNat % 65536 + n ≤ 65536) : rowParts src dst (k + 1) 0 n = [(0, n)] := by
  have hrest : rowParts src dst k (0 + n) (n - n) = [] := by
    cases k with
    | zero => rfl
    | succ k => rw [rowParts, if_pos (Nat.sub_self n)]
  have hw (va : Word) : va + word 0 = va := by simp [word]
  rw [rowParts, if_neg hn]
  dsimp only
  rw [hw, hw, show min n (min (65536 - src.toNat % 65536) (65536 - dst.toNat % 65536)) = n by omega, hrest]

section
variable {t : State} {q : CopyCmd} {ps pd n : Nat} (hlen : shapeLen q.shape ≠ 0) (hq0 : q.progress = 0) (hqp : q.parts = [])
  (hsb : q.srcBuf = none) (hdb : q.dstBuf = none)
  (hsp : q.src.toNat % 65536 + shapeLen q.shape ≤ 65536) (hdp : q.dst.toNat % 65536 + shapeLen q.shape ≤ 65536)
  (hls : t.locate .copy .load q.src = .ok (.main ps)) (hld : t.locate .copy .store q.dst = .ok (.main pd))
include hlen hq0 hqp hsb hsp hdp hls

/-- The only row of a command is read as one part. -/
theorem State.fillRow_single : t.fillRow q = (t.countAll [.main ps],
    { q with parts := [t.readPart 0 (shapeLen q.shape) (.main ps)] }, none) := by
  have hplace : t.sidePlace q.srcBuf q.src (srcStride q.strides) .load 0 0 = .ok (.main ps) := by
    unfold State.sidePlace
    simp [hsb, shiftBy_zero, hls]
  have hrow : t.readRow q 0 [(0, shapeLen q.shape)] = ([(t.readPart 0 (shapeLen q.shape) (.main ps), .main ps)], none) := by
    simp only [State.readRow, hplace, State.cleanPrefix, Nat.lt_irrefl, if_false]
  unfold State.fillRow
  simp only [hq0, hqp, Nat.zero_div, Nat.zero_mod, partBytes, List.map_nil, List.sum_nil, Nat.cast_zero, zero_mul, shiftBy_zero,
    Nat.add_zero, Nat.sub_zero, rowParts_single hlen hsp hdp, hrow, List.nil_append, List.map_cons]

include hdb hld in
/-- The only row of a command, within a page on both sides, moves in one act. -/
theorem State.moveRows_single (hl : t.dev.isLost pd = false) (hf : t.me.followOns = []) (hn : shapeLen q.shape ≤ n) :
    ∃ u p, State.moveRows 1 n t q = (u, p, none) ∧ t.Alike id u ∧ p.ticket = q.ticket ∧ p.progress = shapeLen q.shape ∧
      u.dev.mem = t.dev.mem.write pd (shapeLen q.shape) (t.dev.mem.read ps (shapeLen q.shape)) := by
  set len := shapeLen q.shape with hle
  set part := t.readPart 0 len (.main ps) with hpart
  set t1 := t.countAll [.main ps] with ht1
  have hk : t.SameBytes t1 := State.sameBytes_foldl _ State.sameBytes_count _ t
  have hv : t.SameReach t1 := t.sameReach_countAll _
  have hplace (z : Int) : t1.sidePlace q.dstBuf q.dst z .store 0 0 = .ok (.main pd) := by
    unfold State.sidePlace
    simp [hdb, shiftBy_zero, hv.locate, hld]
  have hfree (es : List (Place × Nat)) : t1.blocksEngine es = false := by
    have : t1.me = t.me := hk.alike.me
    unfold State.blocksEngine
    rw [this, hf]
    rfl
  have hsplit (k : Nat) (hkn : len ≤ k) : splitParts k [part] = ([part], []) := by
    unfold splitParts
    rw [if_neg (by omega), if_pos (by exact hkn)]
    rfl
  have hw := State.writeParts_main (s := t1) q.wrote part (pa := pd) (by
    obtain ⟨-, -, hlost, -⟩ := hv.view.dev_eq
    unfold Device.isLost at hl ⊢
    rw [hlost, hl])
  have hflush : t1.flushRow { q with parts := [part] } n = (t1.writeParts q.wrote [(part, .main pd)],
      { q with progress := len, parts := [], wrote := t1.wroteAfter q.wrote [(part, .main pd)] }, none) := by
    have hbytes : partBytes [part] = len := by simp [partBytes, hpart, State.readPart]
    have hrow : t1.placeRow { q with parts := [part] } (q.progress / len) (splitParts n [part]).1 = ([(part, .main pd)], none) := by
      rw [hsplit n hn, show q.progress / len = 0 by rw [hq0, Nat.zero_div]]
      simp only [State.placeRow, show part.off = 0 from rfl, hplace]
    unfold State.flushRow
    dsimp only
    rw [← hle, hrow]
    simp only [hfree, List.map_cons, List.map_nil, hbytes, hsplit len le_rfl, hq0, Nat.zero_add]
    rfl
  refine ⟨t1.writeParts q.wrote [(part, .main pd)],
    { q with progress := len, parts := [], wrote := t1.wroteAfter q.wrote [(part, .main pd)] }, ?_, hk.alike.trans hw.1, rfl, rfl, hw.2.trans ?_⟩
  · rw [State.moveRows, if_neg (by omega), State.fillRow_single hlen hq0 hqp hsb hsp hdp hls]
    dsimp only
    rw [← hle, ← hpart, ← ht1, hflush]
    rfl
  · rw [hk.mem]
    rfl

end

/-- A command of one row, between two pages of memory, moves it in one act. -/
theorem copyCommandStart_row {s : State} {c : CoreId} {x : CtxId} {q : CopyCmd} {n : BitVec 48} {ps pd : Nat} (he : EngineFree s c 1)
    (hq : (s.hart c x).headCmd = some q) (hp : q.phase = .queued) (hc : shapeCbv q.shape = false)
    (ho : q.started = true ∨ s.outranked c x Hart.copyReady = false)
    (hrows : shapeRows q.shape = 1) (hlen : shapeLen q.shape ≠ 0) (hn : shapeLen q.shape ≤ n.toNat) (hq0 : q.progress = 0)
    (hqp : q.parts = []) (hsb : q.srcBuf = none) (hdb : q.dstBuf = none)
    (hsp : q.src.toNat % 65536 + shapeLen q.shape ≤ 65536) (hdp : q.dst.toNat % 65536 + shapeLen q.shape ≤ 65536)
    (hls : ((s.actingAs c x).beforeCopy q).locate .copy .load q.src = .ok (.main ps))
    (hld : ((s.actingAs c x).beforeCopy q).locate .copy .store q.dst = .ok (.main pd))
    (hl : s.dev.isLost pd = false) (hf : (s.hart c x).followOns = []) :
    Occurs (.copyCommandStart c ⟨x, n⟩) s fun r =>
      r.dev.mem = s.dev.mem.write pd (shapeLen q.shape) (s.dev.mem.read ps (shapeLen q.shape)) ∧
        ∃ o, (r.hart c x).headCmd = some o ∧ o.phase = .moved ∧ o.progress = shapeLen q.shape := by
  obtain ⟨-, hdev, hcmds, hfol⟩ := (s.actingAs c x).beforeCopy_keeps q
  obtain ⟨u, p, hm, hu, htick, hprog, hmem⟩ := State.moveRows_single hlen hq0 hqp hsb hdb hsp hdp hls hld (by rw [hdev]; exact hl)
    (hfol.trans hf) hn
  have hmoved : (s.actingAs c x).movedBy q n.toNat = (u, p, none) := by
    unfold State.movedBy
    rw [hrows, if_neg (by omega), hq0, Nat.zero_div]
    exact hm
  have hume : u.me.cmds = (s.hart c x).cmds := (congrArg Hart.cmds hu.me).trans hcmds
  refine occurs_imp (copyCommandStart_moves he hq hp hc ho hmoved) fun r ⟨hr, hrc⟩ => ?_
  rw [hume] at hrc
  refine ⟨?_, _, headCmd_modifyFirst hq htick.symm hrc, if_pos (by rw [hrows, hprog]; omega), hprog⟩
  rw [hr, hmem, hdev]
  rfl

/-! ### A command completes -/

theorem Hart.circ_setCirc (h : Hart) {n : Nat} (hn : n < 16) (b : CircBuf) : (h.setCirc n b).circ n = b := by
  simp [Hart.circ, Hart.setCirc, vget, vset, hn]

theorem copyCommandComplete_occurs {s : State} {c : CoreId} {x : CtxId} {q : CopyCmd} (hpow : (s.core c).power.runs = true)
    (hclk : (s.core c).clock = true) (hdev : s.dev.ready = true) (hq : (s.hart c x).headCmd = some q) (hp : q.phase = .moved) :
    Occurs (.copyCommandComplete c x) s fun r =>
      (r.hart c x).cmds = (s.hart c x).cmds.filter (fun o => o.ticket != q.ticket) ∧ r.dev = s.dev ∧
      (q.slotBase.isSome = true →
        ((r.hart c x).circ (shapeCb q.shape)).filled = ((s.hart c x).circ (shapeCb q.shape)).filled + 1) ∧
      (r.hart c x).followOns = (s.hart c x).followOns ++ (match q.follow with
        | some w => [{ ticket := q.ticket, pc := q.pc, work := w, row := 0, started := false, stopped := false, age := q.age
                       bytes := shapeRows q.shape * shapeLen q.shape }]
        | none => []) := by
  have hex : exec (.copyCommandComplete c x) s = .next { (s.actingAs c x).completeCopy q with cur := s.cur } := by
    rw [exec_copyCommandComplete]
    unfold execCopyCommandComplete State.enginesRun
    rw [hq]
    dsimp only
    rw [if_pos (by rw [hpow, hclk, hdev, hp]; rfl)]
  have hcb : shapeCb q.shape < 16 := by unfold shapeCb fieldOf; exact Nat.mod_lt _ (by decide)
  refine occurs_of hex ?_
  have hr (f : Hart → Hart) : ({ (s.actingAs c x).modifyMe f with cur := s.cur } : State).hart c x = f (s.hart c x) :=
    State.me_modifyMe (s.actingAs c x) f
  unfold State.completeCopy
  rw [hr]
  refine ⟨?_, rfl, ?_, ?_⟩
  · cases q.follow <;> cases hb : q.slotBase.isSome <;> rfl
  · intro hb
    have hfill (k : Hart) (b : CircBuf) : ((k.setCirc (shapeCb q.shape) b).circ (shapeCb q.shape)).filled = b.filled := by
      rw [Hart.circ_setCirc _ hcb]
    simp only [hb, if_true]
    cases q.follow <;> exact hfill _ _
  · cases q.follow <;> cases hb : q.slotBase.isSome <;> simp [Hart.dropCmd, Hart.setCirc, CopyCmd.total]

end Sys2Proof.Machine
end

section
/-!
The acts of the matrix unit and of the scatter-add units (O47): MMA_COMPLETE and SCATTER_ADD_PERFORM.
-/

namespace Sys2Proof.Machine

open Stated

/-! ### What the load pipes read -/

/-- Two states that read the operands of an MMA alike, with the same hart that acts. -/
structure State.SameReads (s t : State) : Prop where
  reach : s.SameReach t
  me : t.me = s.me

theorem State.SameReads.refl (s : State) : s.SameReads s := ⟨.refl s, rfl⟩

theorem State.SameReads.trans {s t r : State} (h : s.SameReads t) (k : t.SameReads r) : s.SameReads r :=
  ⟨h.reach.trans k.reach, k.me.trans h.me⟩

theorem State.sameReads_count (s : State) (p : Place) : s.SameReads (s.count p) := by
  refine ⟨s.sameReach_count p, ?_⟩
  unfold State.count
  split <;> rfl

theorem State.sameReads_countAll : (ps : List Place) → (s : State) → s.SameReads (s.countAll ps)
  | [], s => .refl s
  | p :: ps, s => (s.sameReads_count p).trans (State.sameReads_countAll ps (s.count p))

theorem State.slotOf_countAll (z : Reg) : (ps : List Place) → (s : State) → (s.countAll ps).slotOf z = s.slotOf z
  | [], _ => rfl
  | p :: ps, s => (State.slotOf_countAll z ps (s.count p)).trans (by unfold State.count; split <;> rfl)

/-- A change of the core that leaves its view, its translations and its harts. -/
theorem State.sameReads_modifyCore (s : State) (c : CoreId) {f : Core → Core} (hv : (f (s.core c)).view = (s.core c).view)
    (ht : (f (s.core c)).tlb = (s.core c).tlb ∧ (f (s.core c)).fwroot = (s.core c).fwroot)
    (hh : ∀ x, (f (s.core c)).hart x = (s.core c).hart x) : s.SameReads (s.modifyCore c f) := by
  have hme : (s.modifyCore c f).me = s.me := State.modifyCore_me_of hh
  have hcore : (s.modifyCore c f).myCore.tlb = s.myCore.tlb ∧ (s.modifyCore c f).myCore.fwroot = s.myCore.fwroot := by
    change ((s.modifyCore c f).core s.cur.core).tlb = _ ∧ ((s.modifyCore c f).core s.cur.core).fwroot = _
    by_cases hd : s.cur.core = c
    · subst hd
      rw [State.core_modifyCore]
      exact ht
    · rw [State.core_modifyCore_ne _ _ _ _ hd]
      exact ⟨rfl, rfl⟩
  exact ⟨⟨s.sameView_modifyCore c hv, rfl, rfl, hcore.1, hcore.2, congrArg Hart.link hme⟩, hme⟩

theorem State.sameReads_modifySlot (s : State) (z : Reg) (f : Slot → Slot) : s.SameReads (s.modifySlot z f) :=
  s.sameReads_modifyCore _ rfl ⟨rfl, rfl⟩ fun _ => rfl

theorem State.sameReads_chargeAged (s : State) (c : CoreId) (age : Nat) (work : List (ActClass × Nat)) :
    s.SameReads (s.chargeAged c age work) := by
  unfold State.chargeAged
  split
  · exact s.sameReads_modifyCore c rfl ⟨rfl, rfl⟩ fun _ => rfl
  · exact .refl s

section
variable {s t : State}

theorem State.SameReach.placeRuns (h : s.SameReach t) (g : Agent) (k : Access) :
    (rs : List (Word × Nat × Nat)) → t.placeRuns g k rs = s.placeRuns g k rs
  | [] => rfl
  | (va, off, n) :: rs => by
    rw [State.placeRuns, State.placeRuns, h.locate, State.SameReach.placeRuns h g k rs]

theorem State.SameView.poisonIn (h : s.SameView t) (p : Place) (n : Nat) : t.poisonIn p n = s.poisonIn p n := by
  obtain ⟨-, hp, -⟩ := h.dev_eq
  cases p with
  | main pa => simp only [State.poisonIn, hp]
  | buffer c b a =>
    obtain ⟨-, -, hW, hX, -⟩ := h.core_eq c
    cases b <;> simp only [State.poisonIn, Core.poisonOf, hW, hX]
  | _ => rfl

theorem State.SameReach.pipeRead (h : s.SameReach t) (va : Word) (n : Nat) : t.pipeRead va n = s.pipeRead va n := by
  unfold State.pipeRead State.poisonedVa
  simp only [h.placeRuns, h.view.poisonIn, h.view.readPlace]

/-- Two states that read alike read the same lines. -/
theorem State.SameReach.mmaLine (h : s.SameReach t) (w : MmaWork) (isB : Bool) (l : Nat) :
    t.mmaLine w isB l = s.mmaLine w isB l := by
  unfold State.mmaLine
  simp only [h.pipeRead, h.link]

theorem State.SameReach.mmaLines (h : s.SameReach t) (w : MmaWork) : (n l : Nat) → t.mmaLines w n l = s.mmaLines w n l
  | 0, _ => rfl
  | n + 1, l => by rw [State.mmaLines, State.mmaLines, h.mmaLine, State.SameReach.mmaLines h w n (l + 1)]

end

/-- The elements of line l of an operand that the pipes can read. -/
def State.lineOf (s : State) (w : MmaWork) (isB : Bool) (l : Nat) : List FVal := (given ([], []) (s.mmaLine w isB l)).1

theorem State.mmaLine_lineOf {s : State} {w : MmaWork} {isB : Bool} {l : Nat} (h : Succeeds (s.mmaLine w isB l)) :
    ∃ ps, s.mmaLine w isB l = .ok (s.lineOf w isB l, ps) := by
  obtain ⟨⟨xs, ps⟩, h⟩ := h
  exact ⟨ps, by rw [State.lineOf, h]; rfl⟩

/-- The lines of B, read from l on. -/
theorem State.mmaLines_ok {s : State} {w : MmaWork} (h : ∀ l, l < 32 → Succeeds (s.mmaLine w true l)) : (n l : Nat) → l + n ≤ 32 →
    ∃ ps, s.mmaLines w n l = .ok ((List.range n).map fun k => s.lineOf w true (l + k), ps)
  | 0, _, _ => ⟨[], rfl⟩
  | n + 1, l, hl => by
    obtain ⟨ps, hps⟩ := State.mmaLine_lineOf (h l (by omega))
    obtain ⟨qs, hqs⟩ := State.mmaLines_ok h n (l + 1) (by omega)
    refine ⟨ps ++ qs, ?_⟩
    simp only [State.mmaLines, hps, hqs, List.range_succ_eq_map, List.map_cons, List.map_map, Nat.add_zero]
    congr 3
    refine List.map_congr_left fun k _ => ?_
    rw [Function.comp, show l + k.succ = l + 1 + k by omega]

/-! ### A row written -/

theorem fieldOf_fieldOf {x lo w lo' w' : Nat} (h : lo' + w' ≤ w) : fieldOf (fieldOf x lo w) lo' w' = fieldOf x (lo + lo') w' := by
  have hm : fieldOf (x / 2 ^ lo % 2 ^ w) lo' w' = fieldOf (x / 2 ^ lo) lo' w' := fieldOf_congr_below h (Nat.mod_mod _ _)
  rw [show fieldOf x lo w = x / 2 ^ lo % 2 ^ w from rfl, hm, fieldOf, fieldOf, Nat.div_div_eq_div_mul, ← pow_add]

theorem entry_setRow {tile r i j : Nat} {xs : List Nat} (hx : xs.length = 32) (hj : j < 32) :
    entry (setField tile (2048 * r) 2048 (ofWords 64 xs)) i j = if i = r then xs.getD j 0 % 2 ^ 64 else entry tile i j := by
  unfold entry
  split
  · rename_i h
    subst h
    have hlt : ofWords 64 xs < 2 ^ 2048 := by
      rw [show 2048 = xs.length * 64 by omega]
      exact ofWords_lt 64 xs
    have he := elem_ofWords 64 xs j
    rw [elem, Nat.mul_comm] at he
    rw [show 64 * (32 * i + j) = 2048 * i + 64 * j by ring, ← fieldOf_fieldOf (w := 2048) (by omega), fieldOf_setField,
      Nat.mod_eq_of_lt hlt, he]
  · exact fieldOf_setField_of_disjoint (by omega)

/-- Row r of a tile as one step of an MMA leaves it. -/
def State.rowOf (s : State) (w : MmaWork) (tile r : Nat) : List Nat :=
  rowEntries w (mmaKind w.fmt.toNat) tile r (s.lineOf w false r) ((List.range 32).map fun k => s.lineOf w true (0 + k))

/-- What an MMA makes of an entry of its accumulator. -/
def State.entryOf (s : State) (w : MmaWork) (tile i j : Nat) : Nat :=
  blockSteps (mmaKind w.fmt.toNat) (2 ^ w.kn.toNat) (if w.acc then some (entry tile i j) else none) (s.lineOf w false i)
    (s.lineOf w true j)

theorem State.rowOf_length (s : State) (w : MmaWork) (tile r : Nat) : (s.rowOf w tile r).length = 32 := by
  simp [State.rowOf, rowEntries]

theorem State.rowOf_getD (s : State) (w : MmaWork) (tile r : Nat) {j : Nat} (hj : j < 32) :
    (s.rowOf w tile r).getD j 0 = s.entryOf w tile r j := by
  simp [State.rowOf, State.entryOf, rowEntries, hj]

theorem keepsOwner_writeRow (i : Nat) (xs : List Nat) : KeepsOwner fun q => q.writeRow i xs := fun _ => ⟨rfl, rfl⟩

theorem Slot.rowPoisoned_writeRow {q : Slot} {i k : Nat} {xs : List Nat} (h : q.rowPoisoned k = false) :
    (q.writeRow i xs).rowPoisoned k = false := by
  unfold Slot.rowPoisoned Slot.writeRow at *
  rw [List.any_eq_false] at h ⊢
  exact fun n hn => h n (List.mem_of_mem_filter hn)

/-! ### The rows of an act (R239) -/

/-- The rows from `lo` up to `hi` of a tile done, and the others as they were. -/
def State.RowsDone (s : State) (w : MmaWork) (old new lo hi : Nat) : Prop := ∀ i j, i < 32 → j < 32 →
  entry new i j = if lo ≤ i ∧ i < hi then s.entryOf w old i j % 2 ^ 64 else entry old i j

theorem State.RowsDone.step {s : State} {w : MmaWork} {old new lo n : Nat}
    (h : s.RowsDone w (setField old (2048 * lo) 2048 (ofWords 64 (s.rowOf w old lo))) new (lo + 1) (lo + 1 + n)) :
    s.RowsDone w old new lo (lo + (n + 1)) := by
  intro i j hi hj
  have hrow (i : Nat) := entry_setRow (tile := old) (r := lo) (i := i) (s.rowOf_length w old lo) hj
  rw [h i j hi hj]
  by_cases he : i = lo
  · subst he
    rw [if_neg (by omega), if_pos (by omega), hrow, if_pos rfl, s.rowOf_getD w old i hj]
  · have hk := (hrow i).trans (if_neg he)
    by_cases hc : lo + 1 ≤ i ∧ i < lo + 1 + n
    · rw [if_pos hc, if_pos (by omega), State.entryOf, State.entryOf, hk]
    · rw [if_neg hc, if_neg (by omega), hk]

section
variable {s : State} {w : MmaWork} {ps : List Place} (hl : ∀ l, l < 32 → Succeeds (s.mmaLine w false l))
include hl

theorem State.mmaRows_ok : (n i : Nat) → {u : State} → {slot : Slot} → i + n ≤ 32 → s.SameReads u →
    u.slotOf (w.z.setWidth 6) = some slot → (w.acc = true → ∀ k, i ≤ k → k < i + n → slot.rowPoisoned k = false) →
    ∃ t o, u.mmaRows w (.ok ((List.range 32).map fun k => s.lineOf w true (0 + k), ps)) n i = (t, none) ∧ s.SameReads t ∧
      t.slotOf (w.z.setWidth 6) = some o ∧ s.RowsDone w slot.tile o.tile i (i + n)
  | 0, i, u, slot, _, hu, hslot, _ => ⟨u, slot, rfl, hu, hslot, fun _ _ _ _ => (if_neg (by omega)).symm⟩
  | n + 1, i, u, slot, hi, hu, hslot, hp => by
    obtain ⟨qs, hqs⟩ := State.mmaLine_lineOf (hl i (by omega))
    set row := s.rowOf w slot.tile i
    have hclean : (w.acc && slot.rowPoisoned i) = false := by
      cases ha : w.acc with
      | false => rfl
      | true => rw [hp ha i le_rfl (by omega)]; rfl
    have hstep : u.mmaRows w (.ok ((List.range 32).map fun k => s.lineOf w true (0 + k), ps)) (n + 1) i =
        ((u.countAll qs).modifySlot (w.z.setWidth 6) fun q => q.writeRow i row).mmaRows w
          (.ok ((List.range 32).map fun k => s.lineOf w true (0 + k), ps)) n (i + 1) := by
      conv_lhs => unfold State.mmaRows
      simp only [hu.reach.mmaLine, hqs, hslot, hclean]
      rfl
    have hnext : (((u.countAll qs).modifySlot (w.z.setWidth 6) fun q => q.writeRow i row).slotOf (w.z.setWidth 6)) =
        some (slot.writeRow i row) := by
      rw [State.slotOf_modifySlot_same (keepsOwner_writeRow i row), State.slotOf_countAll, hslot]
      rfl
    obtain ⟨t, o, ht, hr, ho, hd⟩ := State.mmaRows_ok n (i + 1) (by omega)
      ((hu.trans (State.sameReads_countAll qs u)).trans (State.sameReads_modifySlot _ _ _)) hnext
      fun ha k hk hk' => Slot.rowPoisoned_writeRow (hp ha k (by omega) (by omega))
    exact ⟨t, o, hstep.trans ht, hr, ho, hd.step⟩

end

/-- Rows of an MMA whose operands can be read. -/
theorem State.runMma_ok {s u : State} {w : MmaWork} {n i : Nat} {slot : Slot} (hu : s.SameReads u)
    (hl : ∀ l, l < 32 → Succeeds (s.mmaLine w false l) ∧ Succeeds (s.mmaLine w true l)) (hi : i + n ≤ 32)
    (hslot : u.slotOf (w.z.setWidth 6) = some slot) (hp : w.acc = true → ∀ k, i ≤ k → k < i + n → slot.rowPoisoned k = false) :
    ∃ t o, u.runMma w n i = (t, none) ∧ s.SameReads t ∧ t.slotOf (w.z.setWidth 6) = some o ∧
      s.RowsDone w slot.tile o.tile i (i + n) := by
  obtain ⟨ps, hps⟩ := State.mmaLines_ok (fun l h => (hl l h).2) 32 0 (by omega)
  obtain ⟨t, o, ht, hr, ho, hd⟩ := State.mmaRows_ok (ps := ps) (fun l h => (hl l h).1) n i hi
    (hu.trans (State.sameReads_countAll ps u)) ((State.slotOf_countAll _ ps u).trans hslot) hp
  refine ⟨t, o, ?_, hr, ho, hd⟩
  rw [← ht, State.runMma, hu.reach.mmaLines, hps]

theorem State.actingAs_withCur {s u : State} {c : CoreId} {x : CtxId} (h : u.cur = (s.actingAs c x).cur) :
    ({ u with cur := s.cur } : State).actingAs c x = u := by
  cases u
  cases h
  rfl

/-- MMA_COMPLETE on the first follow-on of a hart. -/
theorem mmaComplete_occurs {s : State} {c : CoreId} {x : CtxId} {f : FollowOn} {fs : List FollowOn} {rows : BitVec 6} {slot : Slot}
    (he : EngineFree s c 2) (hf : (s.hart c x).followOns = f :: fs) (hs : f.stopped = false) (hr : f.row < 32)
    (ho : s.outranked c x Hart.followReady = false)
    (hl : ∀ l, l < 32 → Succeeds ((s.actingAs c x).mmaLine f.work false l) ∧ Succeeds ((s.actingAs c x).mmaLine f.work true l))
    (hslot : (s.actingAs c x).slotOf (f.work.z.setWidth 6) = some slot)
    (hp : f.work.acc = true → ∀ k, f.row ≤ k → k < f.row + min rows.toNat (32 - f.row) → slot.rowPoisoned k = false) :
    Occurs (.mmaComplete c ⟨x, rows⟩) s fun r =>
      r.dev.mem = s.dev.mem ∧
      (r.hart c x).followOns = (if f.row + min rows.toNat (32 - f.row) = 32
        then (s.hart c x).followOns.filter (fun g => g.ticket != f.ticket)
        else { f with row := f.row + min rows.toNat (32 - f.row), started := true } :: fs) ∧
      ∃ o, (r.actingAs c x).slotOf (f.work.z.setWidth 6) = some o ∧
        (s.actingAs c x).RowsDone f.work slot.tile o.tile f.row (f.row + min rows.toNat (32 - f.row)) := by
  obtain ⟨hpow, hclk, hdev, hheld⟩ := he
  set a := s.actingAs c x with ha
  set m := min rows.toNat (32 - f.row) with hm
  have hex : exec (.mmaComplete c ⟨x, rows⟩) s = .next { a.runFollowOn f rows.toNat with cur := s.cur } := by
    rw [exec_mmaComplete]
    unfold execMmaComplete State.enginesRun
    simp only [hf]
    rw [if_pos (by simp [hpow, hclk, hdev, hheld, hs, ho])]
  set u := if f.started then a
    else a.chargeAged a.cur.core f.age [mmaCycles f.work.fmt.toNat f.work.kn.toNat (f.work.a.isGenerated || f.work.b.isGenerated)]
    with hu
  have hreads : a.SameReads u := by
    rw [hu]
    split
    · exact .refl a
    · exact a.sameReads_chargeAged _ _ _
  have huslot : u.slotOf (f.work.z.setWidth 6) = some slot := by
    rw [hu]
    split
    · exact hslot
    · exact ((a.sameSlots_chargeAged _ _ _).slotOf _).trans hslot
  obtain ⟨t, o, ht, hrt, hto, hd⟩ := State.runMma_ok hreads hl (by omega) huslot hp
  have hrun : a.runFollowOn f rows.toNat = t.modifyMe fun h => if 32 ≤ f.row + m then h.dropFollow f.ticket
      else h.modifyFollow f.ticket fun g => { g with row := f.row + m, started := true } := by
    unfold State.runFollowOn
    rw [← hu]
    dsimp only
    rw [ht]
  have hcur (g : Hart → Hart) : (t.modifyMe g).cur = a.cur := hrt.reach.cur
  refine occurs_of hex ?_
  rw [hrun]
  refine ⟨hrt.reach.view.dev_eq.1, ?_, o, ?_, hd⟩
  · have hr (g : Hart → Hart) : ({ t.modifyMe g with cur := s.cur } : State).hart c x = g (s.hart c x) :=
      (State.hart_eq_me_of (r := t.modifyMe g) (hcur g)).trans ((State.me_modifyMe _ _).trans (congrArg g hrt.me))
    rw [hr]
    by_cases h32 : f.row + m = 32
    · rw [if_pos h32, if_pos (by omega)]
      rfl
    · rw [if_neg h32, if_neg (by omega)]
      simp [Hart.modifyFollow, hf, modifyFirst]
  · rw [State.actingAs_withCur (u := t.modifyMe _) (hcur _), State.slotOf_modifyMe ?_ _, hto]
    split <;> rfl

/-! ### Unordered sums (R75, R327) -/

theorem treeOf_perm {op : Nat → Nat → Nat} {xs ys : List Nat} {v : Nat} (h : TreeOf op xs v) (hp : xs.Perm ys) : TreeOf op ys v := by
  cases h with
  | leaf =>
    obtain rfl := List.singleton_perm.mp hp
    exact .leaf v
  | node hx hy hz => exact .node hx hy (hp.symm.trans hz)

/-- A leaf that is itself the node of two others. -/
theorem treeOf_split {op : Nat → Nat → Nat} {x y v : Nat} {zs : List Nat} (h : TreeOf op zs v) :
    (rest : List Nat) → zs.Perm (op x y :: rest) → TreeOf op (x :: y :: rest) v := by
  induction h with
  | leaf z =>
    intro rest hp
    obtain ⟨rfl, rfl⟩ : z = op x y ∧ rest = [] := by simpa using List.singleton_perm.mp hp
    exact .node (.leaf x) (.leaf y) (.refl _)
  | @node xs ys zs v w _ _ hz ihx ihy =>
    intro rest hp
    have hall : (xs ++ ys).Perm (op x y :: rest) := hz.symm.trans hp
    have hmem : op x y ∈ xs ++ ys := hall.mem_iff.mpr List.mem_cons_self
    rcases List.mem_append.mp hmem with hm | hm
    · have he := List.perm_cons_erase hm
      have hr : rest.Perm (xs.erase (op x y) ++ ys) := (hall.symm.trans (he.append_right ys)).cons_inv
      exact .node (ihx _ he) ‹_› ((hr.cons y).cons x)
    · have he := List.perm_cons_erase hm
      have hr : rest.Perm (xs ++ ys.erase (op x y)) :=
        (hall.symm.trans ((he.append_left xs).trans List.perm_middle)).cons_inv
      exact .node ‹TreeOf op xs v› (ihy _ he) (((hr.cons y).cons x).trans (List.perm_append_comm_assoc xs [x, y] _).symm)

/-- The step of a choice over three values or more. -/
theorem treeSum_step (op : Nat → Nat → Nat) (pick : Nat → Nat) (n : Nat) {xs : List Nat} {i j : Nat} (h : 3 ≤ xs.length)
    (hi : pick (2 * n) % xs.length = i) (hj : pick (2 * n + 1) % (xs.eraseIdx i).length = j) (hil : i < xs.length)
    (hjl : j < (xs.eraseIdx i).length) :
    treeSum op pick (n + 1) xs = treeSum op pick n (op xs[i] (xs.eraseIdx i)[j] :: (xs.eraseIdx i).eraseIdx j) := by
  have hx : xs[i] = (xs[i]?).getD 0 := by rw [List.getElem?_eq_getElem hil]; rfl
  have hy : (xs.eraseIdx i)[j] = ((xs.eraseIdx i)[j]?).getD 0 := by rw [List.getElem?_eq_getElem hjl]; rfl
  rw [hx, hy]
  subst hj hi
  match xs, h with
  | _ :: _ :: _ :: _, _ => rfl

/-- The value of the tree that a choice of pairs makes. -/
theorem treeOf_treeSum (op : Nat → Nat → Nat) (pick : Nat → Nat) : (n : Nat) → (xs : List Nat) → xs ≠ [] → xs.length ≤ n + 1 →
    TreeOf op xs (treeSum op pick n xs)
  | _, [], h, _ => absurd rfl h
  | 0, [x], _, _ => .leaf x
  | _ + 1, [x], _, _ => .leaf x
  | _ + 1, [x, y], _, _ => .node (.leaf x) (.leaf y) (.refl _)
  | n + 1, x :: y :: z :: zs, _, hn => by
    generalize hxs : x :: y :: z :: zs = xs at hn ⊢
    have h3 : 3 ≤ xs.length := by simp [← hxs]
    have hi : pick (2 * n) % xs.length < xs.length := Nat.mod_lt _ (by omega)
    generalize hdi : pick (2 * n) % xs.length = i at hi
    have hlen : (xs.eraseIdx i).length = xs.length - 1 := List.length_eraseIdx_of_lt hi
    have hj : pick (2 * n + 1) % (xs.eraseIdx i).length < (xs.eraseIdx i).length := Nat.mod_lt _ (by omega)
    generalize hdj : pick (2 * n + 1) % (xs.eraseIdx i).length = j at hj
    have ih := treeOf_treeSum op pick n (op xs[i] (xs.eraseIdx i)[j] :: (xs.eraseIdx i).eraseIdx j) (List.cons_ne_nil _ _) (by
      rw [List.length_cons, List.length_eraseIdx_of_lt hj, hlen]
      omega)
    rw [treeSum_step op pick n h3 hdi hdj hi hj]
    exact treeOf_perm (treeOf_split ih _ (.refl _))
      (((List.getElem_cons_eraseIdx_perm hj).cons _).trans (List.getElem_cons_eraseIdx_perm hi))

section
variable {s : State} {add : ScatterAdd}

theorem scatterAddPerform_held (h : s.dev.isPoisoned add.pa.toNat = true ∨ s.dev.isLost add.pa.toNat = true) :
    exec (.scatterAddPerform add) s = .next s := by
  rw [exec_scatterAddPerform]
  unfold execScatterAddPerform Device.addable
  rw [if_pos (by rcases h with h | h <;> simp [h])]

variable (hp : s.dev.isPoisoned add.pa.toNat = false) (hl : s.dev.isLost add.pa.toNat = false)
include hp hl

theorem scatterAddPerform_integer (hf : add.isFloat = false) : Occurs (.scatterAddPerform add) s fun r =>
    r.cores = s.cores ∧ r.dev.mem = s.dev.mem.write add.pa.toNat (2 ^ add.log2Size.val)
      ((s.dev.mem.read add.pa.toNat (2 ^ add.log2Size.val) + add.addend.toNat % 2 ^ (8 * 2 ^ add.log2Size.val)) %
        2 ^ (8 * 2 ^ add.log2Size.val)) := by
  have hex : exec (.scatterAddPerform add) s = .next (s.modifyDev (·.scatter add)) := by
    rw [exec_scatterAddPerform]
    unfold execScatterAddPerform Device.addable
    simp [hp, hl, hf]
  refine occurs_of hex ⟨rfl, ?_⟩
  change s.dev.mem.write _ _ (scatterSum add _) = _
  unfold scatterSum
  rw [hf, if_neg Bool.false_ne_true, Nat.add_mod_mod]
  rfl

theorem scatterAddPerform_float (hf : add.isFloat = true) : Occurs (.scatterAddPerform add) s fun r =>
    r.cores = s.cores ∧ ∃ y, TreeOf (addBits (scatterFmt add) .nearest)
      (s.dev.leavesAt add ++ [add.addend.toNat % 2 ^ (8 * 2 ^ add.log2Size.val)]) y ∧
      r.dev.mem = s.dev.mem.write add.pa.toNat (2 ^ add.log2Size.val) y := by
  have hex : exec (.scatterAddPerform add) s = .next (s.addUnordered add) := by
    rw [exec_scatterAddPerform]
    unfold execScatterAddPerform Device.addable
    simp [hp, hl, hf]
  refine occurs_of hex ⟨rfl, _, ?_, rfl⟩
  exact treeOf_treeSum _ _ _ _ (by simp) (Nat.sub_add_cancel (by simp)).ge

end

end Sys2Proof.Machine
end

section
/-!
The engines of a context (O47).
-/

namespace Sys2Proof.Machine

open Stated

/-- Settles O47: the acts of the engines of a context, each by what its own act does. -/
theorem engineActsComplete : Obligations.EngineActsComplete := by
  unfold Obligations.EngineActsComplete
  intro s c x q f add count some_ n e
  dsimp only
  refine ⟨fun g hn hg => ⟨fun hr => longLatencyResult_delivers hn hg hr, fun read hr hb => longLatencyResult_performs hn hg hr hb⟩,
    ⟨fun hc hs => stripCommitComplete_completes rfl hc hs, fun hc hs => stripCommitComplete_waits rfl hc hs⟩,
    fun hc ⟨w, hw, hg⟩ => stripCommitComplete_gang hc hw hg,
    fun hs hd hst hx => striplost_occurs hs hd hst hx,
    fun he hq hp hc ho => ⟨fun h0 => ?_, fun hm => ?_, ?_⟩,
    copyCommandComplete_occurs, ?_, scatterAddPerform_held, ?_⟩
  · exact copyCommandStart_empty he hq hp hc ho (by rcases h0 with h | h <;> simp [h])
  · exact copyCommandStart_moves he hq hp hc ho (Prod.ext rfl (Prod.ext rfl hm))
  · intro ps pd hrows hlen hn hq0 hqp hsb hdb hsp hdp hls hld hl hf
    exact copyCommandStart_row he hq hp hc ho hrows hlen hn hq0 hqp hsb hdb hsp hdp hls hld hl hf
  · intro fs slot he hf hs hr ho hl hslot hp
    exact mmaComplete_occurs he hf hs hr ho hl hslot hp
  · exact fun hp hl => ⟨scatterAddPerform_integer hp hl, scatterAddPerform_float hp hl⟩

end Sys2Proof.Machine
end

section
/-!
Host queues (O48): DESCRIPTOR_ARRIVAL, the writes of a queue's registers, and JOB_RETIRED.
-/

namespace Sys2Proof.Machine

open Stated

/-! ### The registers of a queue (R365, R436) -/

/-- A queue changed. -/
def State.setQueue (s : State) (q : QueueId) (t : HostQueue) : State :=
  s.modifyDev fun d => { d with queues := d.queues.set q.val t }

theorem HostQueue.end_toNat (t : HostQueue) : t.end_.toNat = t.tail.toNat % 2 ^ t.log2n.toNat := by
  have h := t.tail.isLt
  rw [HostQueue.end_, BitVec.toNat_ofNat, Nat.mod_eq_of_lt (lt_of_le_of_lt (Nat.mod_le _ _) h)]

/-- A queue has a slot that has not arrived. -/
theorem HostQueue.head_ne_end (t : HostQueue) : (t.head != t.end_) = decide (t.head.toNat ≠ t.tail.toNat % 2 ^ t.log2n.toNat) := by
  rw [Bool.eq_iff_iff, bne_iff_ne, decide_eq_true_iff, ← t.end_toNat, Ne, Ne, ← BitVec.toNat_inj]

theorem exec_qtailWrite_eq (s : State) (q : QueueId) (v : Word) : exec (.qtailWrite q v) s =
    .next (s.setQueue q { s.dev.queues[q.val] with tail := BitVec.ofNat 16 v.toNat }) := by
  rw [exec_qtailWrite]
  unfold execQtailWrite
  rw [show v.setWidth 16 = BitVec.ofNat 16 v.toNat from rfl]
  rfl

theorem exec_queueWeightWrite_eq (s : State) (q : QueueId) (v : Word) : exec (.queueWeightWrite q v) s =
    .next (s.setQueue q { s.dev.queues[q.val] with weight := BitVec.ofNat 8 v.toNat }) := exec_queueWeightWrite q v s

theorem level_of_field (v : Nat) : BitVec.ofNat 3 (fieldOf v 8 3) = BitVec.ofNat 3 (v / 2 ^ 8) := by
  apply BitVec.eq_of_toNat_eq
  rw [BitVec.toNat_ofNat, BitVec.toNat_ofNat, fieldOf, Nat.mod_mod]

theorem exec_qctlWrite_eq (s : State) (q : QueueId) (v : Word) : exec (.qctlWrite q v) s =
    .next (s.setQueue q { s.dev.queues[q.val] with
      en := bitAt v.toNat 31
      level := BitVec.ofNat 3 (v.toNat / 2 ^ 8)
      log2n := if s.dev.queues[q.val].en then s.dev.queues[q.val].log2n
        else if 1 ≤ v.toNat % 32 ∧ v.toNat % 32 ≤ 16 then BitVec.ofNat 5 (v.toNat % 32) else 16
      inFlight := (s.dev.queues[q.val].en || s.dev.queues[q.val].inFlight) && !bitAt v.toNat 31 &&
        decide (s.dev.queues[q.val].head.toNat ≠ s.dev.queues[q.val].tail.toNat % 2 ^ s.dev.queues[q.val].log2n.toNat) }) := by
  rw [exec_qctlWrite]
  unfold execQctlWrite
  simp only [HostQueue.head_ne_end, level_of_field, show fieldOf v.toNat 0 5 = v.toNat % 32 by simp [fieldOf]]
  rfl

/-! ### A descriptor arrives (R355, R359) -/

/-- The queue as a descriptor of it has arrived. -/
def HostQueue.advanced (t : HostQueue) : HostQueue :=
  { t with head := BitVec.ofNat 16 ((t.head.toNat + 1) % 2 ^ t.log2n.toNat), inFlight := false }

section
variable {s : State} {q : QueueId} {desc : Desc}

theorem descriptorArrival_held (h : s.dev.ready = false ∨ (s.dev.queues[q.val].en = false ∧ s.dev.queues[q.val].inFlight = false)) :
    exec (.descriptorArrival q desc) s = .next s := by
  rw [exec_descriptorArrival]
  unfold execDescriptorArrival
  rcases h with h | ⟨h, k⟩
  · simp [h]
  · simp [h, k]

variable (hr : s.dev.ready = true) (ho : s.dev.queues[q.val].en = true ∨ s.dev.queues[q.val].inFlight = true)
  (hh : s.dev.queues[q.val].head.toNat ≠ s.dev.queues[q.val].tail.toNat % 2 ^ s.dev.queues[q.val].log2n.toNat)
include hr ho hh

theorem descriptorArrival_eq : exec (.descriptorArrival q desc) s = .next
    ((s.setQueue q s.dev.queues[q.val].advanced).takeDescriptor q s.dev.queues[q.val].head.toNat desc) := by
  rw [exec_descriptorArrival]
  unfold execDescriptorArrival
  rw [if_pos (by rw [HostQueue.head_ne_end, hr]; rcases ho with h | h <;> simp [h, hh])]
  rfl

end

/-- The link of a descriptor does not depend on where its queue stands. -/
theorem State.level_setQueue (s : State) (q : QueueId) :
    (s.setQueue q s.dev.queues[q.val].advanced).dev.queues[q.val].level = s.dev.queues[q.val].level := by
  unfold State.setQueue
  simp only [State.modifyDev]
  rw [Vector.getElem_set_self]
  rfl

section
variable {t : State} {q : QueueId} {slot : Nat} {desc : Desc} {link : LaunchLink} (hlink : desc.link q t.dev.queues[q.val].level = link)
include hlink

theorem takeDescriptor_dropped (h : desc.valid t.anySrh = false ∨ t.dev.cancelledId link ≠ none) :
    t.takeDescriptor q slot desc = t.dropDescriptor q slot := by
  unfold State.takeDescriptor
  rw [hlink]
  dsimp only
  rw [if_pos]
  rcases h with h | h
  · simp [h]
  · simp [Option.isSome_iff_ne_none.2 h]

variable (hv : desc.valid t.anySrh = true) (hc : t.dev.cancelledId link = none)
include hv hc

theorem takeDescriptor_repl (hr : desc.repl = true) : t.takeDescriptor q slot desc = t.replaceBook q slot desc := by
  unfold State.takeDescriptor
  simp [hlink, hv, hc, hr]

variable (hr : desc.repl = false)
include hr

theorem takeDescriptor_tooLarge (hf : t.fitsService link = false) : t.takeDescriptor q slot desc = t.dropDescriptor q slot := by
  unfold State.takeDescriptor
  simp [hlink, hv, hc, hr, hf]

variable (hf : t.fitsService link = true)
include hf

theorem takeDescriptor_refused (hm : ∀ m ps, t.launchOf desc link ≠ .ok (some m, ps)) :
    t.takeDescriptor q slot desc = t.dropDescriptor q slot := by
  unfold State.takeDescriptor
  simp only [hlink, hv, hc, hr, hf, Bool.not_true, Bool.false_or, Option.isSome_none, Bool.false_eq_true, if_false]

variable {m : Launch} {ps : List Place} (hm : t.launchOf desc link = .ok (some m, ps))
include hm

theorem takeDescriptor_waits (hw : t.dev.unaccepted.any (·.1 == q) = true ∨ t.dev.recordsFree link = false) :
    t.takeDescriptor q slot desc = t.modifyDev fun d => { d with unaccepted := d.unaccepted ++ [(q, slot, desc)] } := by
  unfold State.takeDescriptor
  simp only [hlink, hv, hc, hr, hf, hm, Bool.not_true, Bool.false_or, Option.isSome_none, Bool.false_eq_true, if_false]
  rw [if_pos (by rcases hw with h | h <;> simp [h])]

theorem takeDescriptor_accepts (hu : t.dev.unaccepted.any (·.1 == q) = false) (hw : t.dev.recordsFree link = true) :
    t.takeDescriptor q slot desc = t.acceptLaunch m true := by
  unfold State.takeDescriptor
  simp only [hlink, hv, hc, hr, hf, hm, Bool.not_true, Bool.false_or, Option.isSome_none, Bool.false_eq_true, if_false]
  rw [if_neg (by simp [hu, hw])]

end

theorem State.replaceBook_absent {t : State} {q : QueueId} {slot : Nat} {desc : Desc}
    (h : t.dev.placed.any (·.link.launch == desc.word 24) = false) : t.replaceBook q slot desc = t.dropDescriptor q slot := by
  unfold State.replaceBook
  simp only [h, Bool.false_eq_true, if_false]
  split <;> rfl

section
variable {t : State} {q : QueueId} {slot : Nat} {desc : Desc} (h : t.dev.placed.any (·.link.launch == desc.word 24) = true)

include h in
theorem State.replaceBook_staged {code : List (BitVec 32)} {index : List (Nat × Nat)} {ps : List Place}
    (hb : (t.readBook desc.root (desc.word 8)).run [] = .ok (some (some (code, index)), ps)) : t.replaceBook q slot desc =
      t.stageBook { launch := desc.word 24, version := t.bookVersion (desc.word 24) + 1, code, index } := by
  unfold State.replaceBook
  rw [hb]
  exact if_pos h

theorem State.replaceBook_unread
    (hb : ∀ code index ps, (t.readBook desc.root (desc.word 8)).run [] ≠ .ok (some (some (code, index)), ps)) :
    t.replaceBook q slot desc = t.dropDescriptor q slot := by
  unfold State.replaceBook
  split
  · rename_i he
    exact absurd he (hb _ _ _)
  · rfl

end

/-- What becomes of a descriptor that has arrived: `t` is the state in which its queue has advanced (R355, R359). -/
theorem descriptorArrival_arrives {s t : State} {q : QueueId} {desc : Desc} {link : LaunchLink} {slot : Nat}
    (ht : t = s.setQueue q s.dev.queues[q.val].advanced)
    (he : exec (.descriptorArrival q desc) s = .next (t.takeDescriptor q slot desc))
    (hlink : desc.link q t.dev.queues[q.val].level = link) :
    let dropped : Prop := exec (.descriptorArrival q desc) s = .next (t.modifyDev fun d => d.report 4 [word q.val, word slot])
    (desc.valid t.anySrh = false ∨ t.dev.cancelledId link ≠ none → dropped) ∧
    (desc.valid t.anySrh = true → t.dev.cancelledId link = none →
      (desc.repl = true →
        (s.dev.placed.any (·.link.launch == desc.word 24) = false → dropped) ∧
        (s.dev.placed.any (·.link.launch == desc.word 24) = true →
          match (t.readBook desc.root (desc.word 8)).run [] with
          | .ok (some (some (code, index)), _) => exec (.descriptorArrival q desc) s = .next (t.stageBook
              { launch := desc.word 24, version := t.bookVersion (desc.word 24) + 1, code, index })
          | _ => dropped)) ∧
      (desc.repl = false → t.fitsService link = false → dropped) ∧
      (desc.repl = false → t.fitsService link = true →
        match t.launchOf desc link with
        | .ok (some m, _) =>
          (t.dev.unaccepted.any (·.1 == q) = true ∨ t.dev.recordsFree link = false →
            exec (.descriptorArrival q desc) s = .next (t.modifyDev fun d =>
              { d with unaccepted := d.unaccepted ++ [(q, slot, desc)] })) ∧
          (t.dev.unaccepted.any (·.1 == q) = false → t.dev.recordsFree link = true →
            Occurs (.descriptorArrival q desc) s fun r =>
              r.dev.pool = s.dev.pool ++ [{ launch := m, fromRing := true }] ∧ r.dev.queues = t.dev.queues ∧
                r.dev.records = (s.dev.enterLaunch m.link).records)
        | _ => dropped)) := by
  intro dropped
  have hplaced : s.dev.placed = t.dev.placed := by rw [ht]; rfl
  have hpool : s.dev.pool = t.dev.pool := by rw [ht]; rfl
  have hrecords (l : LaunchLink) : (s.dev.enterLaunch l).records = (t.dev.enterLaunch l).records := by rw [ht]; rfl
  clear ht
  rw [hplaced, hpool]
  refine ⟨fun h => he.trans (congrArg _ (takeDescriptor_dropped hlink h)), fun hv hc => ⟨fun hrepl => ?_,
    fun hrepl hf => he.trans (congrArg _ (takeDescriptor_tooLarge hlink hv hc hrepl hf)), fun hrepl hf => ?_⟩⟩
  · rw [takeDescriptor_repl hlink hv hc hrepl] at he
    refine ⟨fun ha => he.trans (congrArg _ (State.replaceBook_absent ha)), fun ha => ?_⟩
    split
    · rename_i hb
      exact he.trans (congrArg _ (State.replaceBook_staged ha hb))
    · rename_i hb
      exact he.trans (congrArg _ (State.replaceBook_unread fun _ _ _ h => hb _ _ _ h))
  · split
    · rename_i hm
      exact ⟨fun hw => he.trans (congrArg _ (takeDescriptor_waits hlink hv hc hrepl hf hm hw)), fun hu hw =>
        occurs_of (he.trans (congrArg _ (takeDescriptor_accepts hlink hv hc hrepl hf hm hu hw))) ⟨rfl, rfl, (hrecords _).symm⟩⟩
    · rename_i hm
      exact he.trans (congrArg _ (takeDescriptor_refused hlink hv hc hrepl hf fun _ _ h => hm _ _ h))

/-! ### A job retires (R353) -/

theorem exec_jobRetired_eq {s : State} {job : Word} {r : Completion} (h : s.dev.record 4 job = some r) : exec (.jobRetired job) s =
    if r.out = 0 then .next (s.modifyDev fun d => { d with records := d.records.filter (·.job != job) }).retryUnaccepted else .next s := by
  rw [exec_jobRetired]
  unfold execJobRetired
  rw [h]

theorem jobRetired_unknown {s : State} {job : Word} (h : s.dev.record 4 job = none) : exec (.jobRetired job) s = .next s := by
  rw [exec_jobRetired]
  unfold execJobRetired
  rw [h]

theorem State.retryUnaccepted_of_empty {s : State} (h : s.dev.unaccepted = []) : s.retryUnaccepted = s := by
  cases s with
  | mk cores dev cur agenda fresh =>
    cases dev
    cases h
    rfl

theorem jobRetired_free {s : State} {job : Word} {r : Completion} (h : s.dev.record 4 job = some r) (ho : r.out = 0)
    (hu : s.dev.unaccepted = []) : exec (.jobRetired job) s =
      .next (s.modifyDev fun d => { d with records := d.records.filter fun r => r.job != job }) := by
  rw [exec_jobRetired_eq h, if_pos ho]
  exact congrArg _ (State.retryUnaccepted_of_empty (s := s.modifyDev _) hu)

end Sys2Proof.Machine
end

section
/-!
The Arbiter (O48): ARBITER_SELECTION and ARBITER_BOUNDARY.
-/

namespace Sys2Proof.Machine

open Stated

section
variable {s : State}

theorem arbiterSelection_held (h : s.dev.selected ≠ none) : exec .arbiterSelection s = .next s := by
  rw [exec_arbiterSelection]
  unfold execArbiterSelection
  rw [if_pos (Option.isSome_iff_ne_none.2 h)]

theorem arbiterBoundary_held {c : CoreId} (h : (s.core c).cycles.toNat % 4096 ≠ 0 ∨ s.dev.selected ≠ none) :
    exec (.arbiterBoundary c) s = .next s := by
  rw [exec_arbiterBoundary]
  unfold execArbiterBoundary
  rw [if_pos (h.imp id Option.isSome_iff_ne_none.2)]

variable (h : s.dev.selected = none)
include h

/-! ### Selection (R363) -/

theorem arbiterSelection_eq : exec .arbiterSelection s = .next (s.arbitrate 256 []) := by
  rw [exec_arbiterSelection]
  unfold execArbiterSelection
  rw [h]
  rfl

theorem arbiterSelection_idle {s1 : State} (hs : s.select [] = (none, s1)) : exec .arbiterSelection s = .next s1 := by
  rw [arbiterSelection_eq h, State.arbitrate, hs]

theorem arbiterSelection_gives {s1 t : State} {n : QueueId} {w : Work} (hs : s.select [] = (some (n, w), s1))
    (hg : s1.give n w = some t) : exec .arbiterSelection s = .next t := by
  rw [arbiterSelection_eq h, State.arbitrate, hs]
  dsimp only
  rw [hg]

theorem arbiterSelection_entry {s1 : State} {n : QueueId} {e : PoolEntry} (hs : s.select [] = (some (n, .entry e), s1))
    (hp : (s1.plan e.launch).isSome = true) : Occurs .arbiterSelection s fun t =>
      t.dev.selected = some e ∧ t.dev.lastQueue = some n ∧ t.dev.pool = eraseFirst (· == e) s1.dev.pool ∧ t.cores = s1.cores :=
  occurs_of (arbiterSelection_gives h hs (if_pos hp)) ⟨rfl, rfl, rfl, rfl⟩

end

/-- A record posted on a core whose queue has room. -/
theorem State.post_ordinary {s : State} {c : CoreId} {r : Record} (ho : (s.core c).outside = []) (hn : (s.core c).ordinary.length < 60) :
    ((s.post c r).core c).ordinary = (s.core c).ordinary ++ [r] := by
  have hwake (t : State) : ((t.wakeCore c).core c).ordinary = (t.core c).ordinary := by
    have key (f : Core → Core) (hf : (f (t.core c)).ordinary = (t.core c).ordinary) :
        ((t.modifyCore c f).core c).ordinary = (t.core c).ordinary :=
      (congrArg Core.ordinary (State.core_modifyCore t c f)).trans hf
    unfold State.wakeCore
    split
    · rfl
    · rfl
    · exact key _ rfl
    · exact key _ rfl
    · exact key (fun k => { k with power := .waking }) rfl
  have htake : [r].take (60 - (s.core c).ordinary.length) = [r] := List.take_of_length_le (by simp; omega)
  rw [State.post, hwake, State.core_modifyCore]
  simp only [Core.enqueue, ho, List.nil_append, htake]

theorem tstat_ctx (fatal svc : Bool) (src : Nat) (restart : Bool) (code : Nat) {ctx : Nat} (hx : ctx < 8) :
    (tstat fatal svc src restart code ctx).toNat % 8 = ctx := by
  have key : (tstat fatal svc src restart code ctx).toNat % 8 = ((if fatal then 2 ^ 63 else 0) + (if svc then 2 ^ 62 else 0) +
      src % 16 * 2 ^ 58 + (if restart then 2 ^ 57 else 0) + code % 256 * 2 ^ 40 + ctx % 8) % 8 := by
    rw [tstat, word, BitVec.toNat_ofNat, Nat.mod_mod_of_dvd _ (by decide)]
  rw [key]
  cases fatal <;> cases svc <;> cases restart <;> simp <;> omega

theorem arbiterSelection_context {s s1 : State} (h : s.dev.selected = none) {n : QueueId} {o : SwitchedOut}
    (hs : s.select [] = (some (n, .context o), s1)) {seat : CoreId × UserCtx} (hseat : s1.restoreSeat o = some seat) :
    Occurs .arbiterSelection s fun t => t.dev.lastQueue = some n ∧ ∃ r : Record, r.regs.val = o.image ∧ r.of = .restore o.id ∧
      r.regs.stat.toNat % 8 = seat.2.val ∧ ((s1.core seat.1).outside = [] → (s1.core seat.1).ordinary.length < 60 →
        (t.core seat.1).ordinary = (s1.core seat.1).ordinary ++ [r]) := by
  have hg : s1.give n (.context o) = some ((s1.postRestore o seat.1 seat.2).serve n) := by
    change (s1.restoreSeat o).map _ = _
    rw [hseat]
    rfl
  have hx : seat.2.val < 8 := by omega
  refine occurs_of (arbiterSelection_gives h hs hg) ⟨rfl,
    { regs := { val := o.image, stat := tstat false true 4 false 2 seat.2.val }, of := .restore o.id }, rfl, rfl,
    tstat_ctx _ _ _ _ _ hx, fun ho hn => ?_⟩
  exact State.post_ordinary (s := s1.modifyDev _) ho hn

/-! ### The boundary of 4,096 cycles (R366) -/

section
variable {s s1 : State} {c : CoreId} (h : s.dev.selected = none) (hc : (s.core c).cycles.toNat % 4096 = 0)
include h hc

theorem arbiterBoundary_idle (hs : s.select [] = (none, s1)) : exec (.arbiterBoundary c) s = .next s := by
  rw [exec_arbiterBoundary]
  unfold execArbiterBoundary
  rw [if_neg (by simp [h, hc]), hs]

variable {n : QueueId} {w : Work} (hs : s.select [] = (some (n, w), s1))
include hs

theorem arbiterBoundary_spares (hb : (s1.give n w).isSome = true ∨ allCores.any s1.evictPending = true ∨
    s1.dev.queues[n.val].deficit ≤ 0) : exec (.arbiterBoundary c) s = .next s1 := by
  rw [exec_arbiterBoundary]
  unfold execArbiterBoundary
  rw [if_neg (by simp [h, hc]), hs]
  dsimp only
  rw [if_pos]
  rcases hb with hb | hb | hb <;> simp [hb]

theorem arbiterBoundary_eq (hb : ¬((s1.give n w).isSome = true ∨ allCores.any s1.evictPending = true ∨
    s1.dev.queues[n.val].deficit ≤ 0)) : exec (.arbiterBoundary c) s =
      match (s1.victim (s1.workLevel w)).or (s1.victimAtBoundary c (s1.workLevel w)) with
      | some p => .next (s1.evict p.1 p.2)
      | none => .next s1 := by
  rw [exec_arbiterBoundary]
  unfold execArbiterBoundary
  rw [if_neg (by simp [h, hc]), hs]
  dsimp only
  rw [if_neg (by rwa [Bool.or_eq_true, Bool.or_eq_true, decide_eq_true_iff, or_assoc])] <;> rfl

end

@[simp] theorem Core.status_userId (k : Core) (x : UserCtx) : k.status (userId x) = k.ctxs[x.val].status := dif_pos x.isLt

@[simp] theorem Core.hart_userId (k : Core) (x : UserCtx) : k.hart (userId x) = k.ctxs[x.val].hart := dif_pos x.isLt

/-- A running context that a service record stops. -/
theorem State.evict_status {s : State} {c : CoreId} {x : UserCtx} (hr : s.status c (userId x) = .running)
    (hd : (s.hart c (userId x)).trapDue = none) : (s.evict c x).status c (userId x) = .stopped := by
  have hpost (t : State) (r : Record) : (t.post c r).status c (userId x) = t.status c (userId x) :=
    ((State.alike_post (φ := id) t c r).2 c (userId x)).1
  have hset (t : State) (f : Core → Core) (hf : (f (t.core c)).ctxs[x.val].status = .stopped) :
      ({ t.modifyCore c f with cur := s.cur } : State).status c (userId x) = .stopped := by
    rw [← hf, ← Core.status_userId]
    exact congrArg (fun k => Core.status k (userId x)) (State.core_modifyCore t c f)
  unfold State.evict
  rw [hpost]
  unfold State.stopContext
  simp only [hr, State.me_actingAs, hd, Option.isSome_none, Bool.false_eq_true, if_false]
  exact hset _ _ (congrArg Ctx.status (Vector.getElem_set_self x.isLt))

end Sys2Proof.Machine
end

section
/-!
The launch scheduler (O48): LAUNCH_PLACEMENT.
-/

namespace Sys2Proof.Machine

open Stated

/-! ### What the steps around the start of harts leave -/

/-- What the pieces, the table of issue and a wake of a core leave: every hart, the counters of harts, and the lanes. -/
structure State.SamePlaces (s t : State) : Prop where
  alike : s.Alike id t
  serial : t.dev.serial = s.dev.serial
  selected : t.dev.selected = s.dev.selected
  devnum : t.dev.devnum = s.dev.devnum
  lanes : ∀ c, (t.core c).lanemap = (s.core c).lanemap

theorem State.SamePlaces.refl (s : State) : s.SamePlaces s := ⟨.refl s, rfl, rfl, rfl, fun _ => rfl⟩

theorem State.SamePlaces.trans {s t r : State} (h : s.SamePlaces t) (k : t.SamePlaces r) : s.SamePlaces r :=
  ⟨h.alike.trans k.alike, k.serial.trans h.serial, k.selected.trans h.selected, k.devnum.trans h.devnum,
    fun c => (k.lanes c).trans (h.lanes c)⟩

theorem State.samePlaces_foldl {α : Type} (f : State → α → State) (h : ∀ s a, State.SamePlaces s (f s a)) :
    (xs : List α) → (s : State) → s.SamePlaces (xs.foldl f s)
  | [], s => .refl s
  | x :: xs, s => (h s x).trans (State.samePlaces_foldl f h xs (f s x))

theorem State.samePlaces_modifyDev (s : State) {f : Device → Device} (h : (f s.dev).serial = s.dev.serial)
    (hs : (f s.dev).selected = s.dev.selected) (hd : (f s.dev).devnum = s.dev.devnum) : s.SamePlaces (s.modifyDev f) :=
  ⟨s.alike_modifyDev _, h, hs, hd, fun _ => rfl⟩

theorem State.samePlaces_modifyCore (s : State) (c : CoreId) {f : Core → Core} (h : ∀ k, (f k).ctxs = k.ctxs)
    (hw : ∀ k, (f k).fw = k.fw ∧ (f k).fwStatus = k.fwStatus) (hl : ∀ k, (f k).lanemap = k.lanemap) : s.SamePlaces (s.modifyCore c f) := by
  refine ⟨s.alike_modifyCore c f fun x => ?_, rfl, rfl, rfl, fun d => ?_⟩
  · unfold Core.status Core.hart
    simp only [h, (hw _).1, (hw _).2, and_self]
  · by_cases hd : d = c
    · subst hd
      rw [State.core_modifyCore, hl]
    · rw [State.core_modifyCore_ne _ _ _ _ hd]

theorem Device.queueWake_keeps (d : Device) (w : Wake) : (d.queueWake w).serial = d.serial ∧ (d.queueWake w).selected = d.selected ∧
    (d.queueWake w).devnum = d.devnum := by
  unfold Device.queueWake
  split <;> exact ⟨rfl, rfl, rfl⟩

theorem State.samePlaces_wakeCore (s : State) (c : CoreId) : s.SamePlaces (s.wakeCore c) := by
  unfold State.wakeCore
  split
  · exact .refl s
  · exact .refl s
  · exact s.samePlaces_modifyCore c (fun _ => rfl) (fun _ => ⟨rfl, rfl⟩) fun _ => rfl
  · exact s.samePlaces_modifyCore c (fun _ => rfl) (fun _ => ⟨rfl, rfl⟩) fun _ => rfl
  · have hw := s.samePlaces_modifyCore c (f := fun k => { k with power := .waking }) (fun _ => rfl) (fun _ => ⟨rfl, rfl⟩) fun _ => rfl
    obtain ⟨h, hs, hd⟩ := Device.queueWake_keeps s.dev { core := c, group := 0 }
    exact hw.trans (State.samePlaces_modifyDev _ h hs hd)

theorem State.samePlaces_residencyChanged (s : State) (c : CoreId) : s.SamePlaces (s.residencyChanged c) :=
  s.samePlaces_modifyCore c (fun _ => rfl) (fun _ => ⟨rfl, rfl⟩) fun _ => rfl

/-- A core with other pieces, buffers and marks. -/
def Core.SameButPieces (k l : Core) : Prop := l.ctxs = k.ctxs ∧ l.fw = k.fw ∧ l.fwStatus = k.fwStatus ∧ l.lanemap = k.lanemap

theorem Core.sameButPieces_givePiece (k : Core) (b : BufId) (launch : Word) (asn : BitVec 16) (n : Nat) :
    k.SameButPieces (k.givePiece b launch asn n) := by
  unfold Core.givePiece
  dsimp only
  split
  · cases b <;> exact ⟨rfl, rfl, rfl, rfl⟩
  · exact ⟨rfl, rfl, rfl, rfl⟩

theorem Core.sameButPieces_foldl (b : BufId) (launch : Word) (asn : BitVec 16) : (ns : List Nat) → (k : Core) →
    k.SameButPieces (ns.foldl (fun k n => k.givePiece b launch asn n) k)
  | [], _ => ⟨rfl, rfl, rfl, rfl⟩
  | n :: ns, k => by
    obtain ⟨hc, hf, hs, hl⟩ := k.sameButPieces_givePiece b launch asn n
    obtain ⟨kc, kf, ks, kl⟩ := Core.sameButPieces_foldl b launch asn ns (k.givePiece b launch asn n)
    exact ⟨kc.trans hc, kf.trans hf, ks.trans hs, kl.trans hl⟩

theorem Core.sameButPieces_givePieces (k : Core) (m : Launch) : k.SameButPieces (k.givePieces m) := by
  unfold Core.givePieces
  dsimp only
  generalize ((k.freePieces .w).take m.wpc) = ns
  obtain ⟨hc, hf, hs, hl⟩ := Core.sameButPieces_foldl .w m.link.launch (m.link.root.setWidth 16) ns k
  generalize ns.foldl (fun k n => k.givePiece .w m.link.launch (m.link.root.setWidth 16) n) k = j at *
  obtain ⟨kc, kf, ks, kl⟩ := Core.sameButPieces_foldl .x m.link.launch (m.link.root.setWidth 16) ((j.freePieces .x).take m.xpc) j
  exact ⟨kc.trans hc, kf.trans hf, ks.trans hs, kl.trans hl⟩

theorem State.samePlaces_givePieces (s : State) (c : CoreId) (m : Launch) : s.SamePlaces (s.modifyCore c fun k => k.givePieces m) :=
  s.samePlaces_modifyCore c (fun k => (k.sameButPieces_givePieces m).1)
    (fun k => ⟨(k.sameButPieces_givePieces m).2.1, (k.sameButPieces_givePieces m).2.2.1⟩) fun k => (k.sameButPieces_givePieces m).2.2.2

/-! ### A hart placed on its seat (R357) -/

theorem Core.loadBook_lanes (k : Core) (b : Option Book) : (k.loadBook b).lanes = k.lanes ∧ (k.loadBook b).ctxs = k.ctxs := by
  unfold Core.loadBook
  split
  · exact ⟨rfl, rfl⟩
  · split
    · exact ⟨rfl, rfl⟩
    · split <;> exact ⟨rfl, rfl⟩

/-- The core with a hart at its start on a seat. -/
def Core.seatHart (k : Core) (m : Launch) (i : Nat) (t : Seat) (id : BitVec 48) (cancelled : Option Word) : Core :=
  let k := k.loadBook m.book0
  let h := startHart m i id t.quarter k.lanes (!(k.lazyIn m.link.part t.quarter).isEmpty) cancelled
  let k := { k with ctxs := k.ctxs.set t.ctx.val { status := .running, hart := h, since := k.cycles.toNat } }
  { k with advice := k.advice.set t.ctx.val { running := (k.bookOf t.ctx).isSome } }

section
variable (s : State) (m : Launch) (i : Nat) (t : Seat)

theorem State.placeHart_eq : s.placeHart m i t = (s.modifyCore t.core fun k => k.seatHart m i t
    (BitVec.ofNat 48 (s.dev.devnum.toNat * 2 ^ 32 + s.dev.serial.toNat)) (s.dev.cancelledId m.link)).modifyDev fun d =>
      { d with serial := d.serial + 1 } := rfl

theorem Core.seatHart_ctxs (k : Core) (id : BitVec 48) (cancelled : Option Word) : ∃ lazy_ since,
    (k.seatHart m i t id cancelled).ctxs = k.ctxs.set t.ctx.val
      { status := .running, since, hart := startHart m i id t.quarter k.lanes lazy_ cancelled } := by
  obtain ⟨hl, hc⟩ := k.loadBook_lanes m.book0
  refine ⟨!((k.loadBook m.book0).lazyIn m.link.part t.quarter).isEmpty, (k.loadBook m.book0).cycles.toNat, ?_⟩
  rw [← hl, ← hc]
  rfl

theorem State.placeHart_core : (s.placeHart m i t).core t.core = (s.core t.core).seatHart m i t
    (BitVec.ofNat 48 (s.dev.devnum.toNat * 2 ^ 32 + s.dev.serial.toNat)) (s.dev.cancelledId m.link) := by
  rw [State.placeHart_eq, State.core_modifyDev]
  exact State.core_modifyCore s t.core _

theorem State.placeHart_ctxs : ∃ lazy_ since, ((s.placeHart m i t).core t.core).ctxs = (s.core t.core).ctxs.set t.ctx.val
    { status := .running, since, hart := startHart m i (BitVec.ofNat 48 (s.dev.devnum.toNat * 2 ^ 32 + s.dev.serial.toNat)) t.quarter
        (s.core t.core).lanes lazy_ (s.dev.cancelledId m.link) } := by
  rw [State.placeHart_core]
  exact Core.seatHart_ctxs m i t _ _ _

theorem State.placeHart_core_ne {c : CoreId} (h : c ≠ t.core) : (s.placeHart m i t).core c = s.core c := by
  rw [State.placeHart_eq, State.core_modifyDev]
  exact State.core_modifyCore_ne s t.core c _ h

theorem State.placeHart_dev : (s.placeHart m i t).dev.serial = s.dev.serial + 1 ∧ (s.placeHart m i t).dev.selected = s.dev.selected :=
  ⟨rfl, rfl⟩

theorem State.placeHart_running : (s.placeHart m i t).status t.core (userId t.ctx) = .running := by
  obtain ⟨l, since, h⟩ := s.placeHart_ctxs m i t
  rw [State.status, Core.status_userId, h, Vector.getElem_set_self]

theorem State.placeHart_keeps {c : CoreId} {x : UserCtx} (h : s.status c (userId x) = .running) :
    (s.placeHart m i t).status c (userId x) = .running := by
  by_cases hc : c = t.core
  · subst hc
    by_cases hx : x = t.ctx
    · subst hx
      exact s.placeHart_running m i t
    · obtain ⟨l, since, hk⟩ := s.placeHart_ctxs m i t
      rw [State.status, Core.status_userId] at h ⊢
      rw [hk, Vector.getElem_set_ne _ _ (fun he => hx (Fin.ext he.symm))]
      exact h
  · rw [State.status, s.placeHart_core_ne m i t hc]
    exact h

end

/-- The harts of a launch placed one after the other. -/
def State.placeHarts (s : State) (m : Launch) (seats : List (Seat × Nat)) : State :=
  seats.foldl (fun s t => s.placeHart m t.2 t.1) s

theorem State.placeHarts_cons (s : State) (m : Launch) (t : Seat × Nat) (seats : List (Seat × Nat)) :
    s.placeHarts m (t :: seats) = (s.placeHart m t.2 t.1).placeHarts m seats := rfl

theorem State.placeHarts_keeps {m : Launch} : (seats : List (Seat × Nat)) → {s : State} → {c : CoreId} → {x : UserCtx} →
    s.status c (userId x) = .running → (s.placeHarts m seats).status c (userId x) = .running
  | [], _, _, _, h => h
  | t :: seats, s, _, _, h => by
    rw [State.placeHarts_cons]
    exact State.placeHarts_keeps seats (s.placeHart_keeps m t.2 t.1 h)

theorem State.placeHarts_running {m : Launch} : (seats : List (Seat × Nat)) → (s : State) → ∀ t ∈ seats,
    (s.placeHarts m seats).status t.1.core (userId t.1.ctx) = .running
  | [], _, _, ht => absurd ht List.not_mem_nil
  | u :: seats, s, t, ht => by
    rw [State.placeHarts_cons]
    rcases List.mem_cons.1 ht with rfl | ht
    · exact State.placeHarts_keeps seats (s.placeHart_running m t.2 t.1)
    · exact State.placeHarts_running seats (s.placeHart m u.2 u.1) t ht

theorem State.placeHarts_dev {m : Launch} : (seats : List (Seat × Nat)) → (s : State) →
    (s.placeHarts m seats).dev.serial = s.dev.serial + BitVec.ofNat 32 seats.length ∧
      (s.placeHarts m seats).dev.selected = s.dev.selected
  | [], s => ⟨(BitVec.add_zero _).symm, rfl⟩
  | t :: seats, s => by
    obtain ⟨h, hs⟩ := State.placeHarts_dev (m := m) seats (s.placeHart m t.2 t.1)
    obtain ⟨k, ks⟩ := s.placeHart_dev m t.2 t.1
    rw [State.placeHarts_cons]
    refine ⟨h.trans ?_, hs.trans ks⟩
    rw [k, List.length_cons, BitVec.add_assoc, Nat.add_comm seats.length 1, BitVec.ofNat_add]
    rfl

/-! ### A launch placed whole (R360) -/

theorem Device.addPlaced_keeps (d : Device) (m : Launch) : (d.addPlaced m).serial = d.serial ∧ (d.addPlaced m).selected = d.selected ∧
    (d.addPlaced m).devnum = d.devnum := by
  unfold Device.addPlaced
  split <;> exact ⟨rfl, rfl, rfl⟩

theorem State.placeLaunch_steps (s : State) (m : Launch) (seats : List Seat) : ∃ t, s.SamePlaces t ∧
    (t.placeHarts m seats.zipIdx).SamePlaces (s.placeLaunch m seats) := by
  refine ⟨(allCores.filter fun c => seats.any (·.core == c)).foldl (fun s c => s.modifyCore c fun k => k.givePieces m) s,
    State.samePlaces_foldl _ (fun s c => s.samePlaces_givePieces c m) _ s, ?_⟩
  obtain ⟨h, hs, hd⟩ := Device.addPlaced_keeps (State.placeHarts _ m seats.zipIdx).dev m
  exact (State.samePlaces_modifyDev _ h hs hd).trans (State.samePlaces_foldl _
    (fun s c => (s.samePlaces_residencyChanged c).trans (State.samePlaces_wakeCore _ c)) _ _)

theorem State.placeLaunch_all (s : State) (m : Launch) (seats : List Seat) :
    (∀ seat ∈ seats, (s.placeLaunch m seats).status seat.core (userId seat.ctx) = .running) ∧
      (s.placeLaunch m seats).dev.serial = s.dev.serial + BitVec.ofNat 32 seats.length ∧
      (s.placeLaunch m seats).dev.selected = s.dev.selected := by
  obtain ⟨t, ht, hr⟩ := s.placeLaunch_steps m seats
  obtain ⟨hserial, hselected⟩ := State.placeHarts_dev (m := m) seats.zipIdx t
  rw [List.length_zipIdx, ht.serial] at hserial
  refine ⟨fun seat hm => ?_, hr.serial.trans hserial, hr.selected.trans (hselected.trans ht.selected)⟩
  obtain ⟨i, hi⟩ : ∃ i, (seat, i) ∈ seats.zipIdx := by
    obtain ⟨i, hi, rfl⟩ := List.getElem_of_mem hm
    exact ⟨i, by simp [List.mk_mem_zipIdx_iff_getElem?, hi]⟩
  rw [(hr.alike.2 _ _).1]
  exact State.placeHarts_running _ t _ hi

/-- The only hart of a launch at its start. -/
theorem State.placeLaunch_single (s : State) (m : Launch) (t : Seat) : ∃ lazy_ cancelled,
    (s.placeLaunch m [t]).hart t.core (userId t.ctx) =
      startHart m 0 (BitVec.ofNat 48 (s.dev.devnum.toNat * 2 ^ 32 + s.dev.serial.toNat)) t.quarter (s.core t.core).lanes lazy_ cancelled := by
  obtain ⟨u, hu, hr⟩ := s.placeLaunch_steps m [t]
  obtain ⟨l, since, hk⟩ := u.placeHart_ctxs m 0 t
  have hlanes : (u.core t.core).lanes = (s.core t.core).lanes := by rw [Core.lanes, Core.lanes, hu.lanes]
  refine ⟨l, u.dev.cancelledId m.link, ?_⟩
  rw [← hlanes, ← hu.devnum, ← hu.serial]
  have hh := (hr.alike.2 t.core (userId t.ctx)).2
  refine hh.trans ?_
  change ((u.placeHart m 0 t).core t.core).hart (userId t.ctx) = _
  rw [Core.hart_userId, hk, Vector.getElem_set_self]

/-- The mask m0 of a hart at its start selects every element. -/
theorem startHart_mask {m : Launch} {i : Nat} {id : BitVec 48} {quarter : Fin 4} {lanes : Nat} {lazy_ : Bool} {cancelled : Option Word} :
    (startHart m i id quarter lanes lazy_ cancelled).readM 0 = 2 ^ (8 * vlmaxOf lanes m.link.part 32) - 1 := by
  change vget ((Vector.replicate 8 0).set 0 (2 ^ (8 * vlmaxOf lanes m.link.part 32) - 1)) 0 0 = _
  simp [vget]

/-- The state without the launch that the Arbiter has selected. -/
def State.unselected (s : State) : State := s.modifyDev fun d => { d with selected := none }

section
variable {s : State}

theorem launchPlacement_idle (h : s.dev.selected = none) : exec .launchPlacement s = .next s := by
  rw [exec_launchPlacement]
  unfold execLaunchPlacement
  rw [h]

variable {e : PoolEntry} (h : s.dev.selected = some e)
include h

theorem launchPlacement_eq : exec .launchPlacement s = match s.unselected.plan e.launch with
    | some seats => .next (s.unselected.placeLaunch e.launch seats)
    | none => .next (s.unselected.modifyDev fun d => { d with pool := e :: d.pool }) := by
  rw [exec_launchPlacement]
  unfold execLaunchPlacement
  rw [h]
  rfl

theorem launchPlacement_returns (hp : s.unselected.plan e.launch = none) :
    exec .launchPlacement s = .next (s.unselected.modifyDev fun d => { d with pool := e :: d.pool }) := by
  rw [launchPlacement_eq h, hp]

theorem launchPlacement_places {seats : List Seat} (hp : s.unselected.plan e.launch = some seats) :
    exec .launchPlacement s = .next (s.unselected.placeLaunch e.launch seats) := by
  rw [launchPlacement_eq h, hp]

theorem launchPlacement_runs {seats : List Seat} (hp : s.unselected.plan e.launch = some seats) : Occurs .launchPlacement s fun r =>
    (∀ seat ∈ seats, r.status seat.core (userId seat.ctx) = .running) ∧
      r.dev.serial = s.dev.serial + BitVec.ofNat 32 seats.length ∧ r.dev.selected = none :=
  occurs_of (launchPlacement_places h hp) (s.unselected.placeLaunch_all e.launch seats)

theorem launchPlacement_starts {seat : Seat} (hp : s.unselected.plan e.launch = some [seat]) : Occurs .launchPlacement s fun r =>
    let h := r.hart seat.core (userId seat.ctx)
    r.status seat.core (userId seat.ctx) = .running ∧ h.pc = e.launch.entry ∧ h.x = e.launch.x ∧
      h.vcfg = e.launch.vcfg ∧ h.c = e.launch.c ∧ h.md = e.launch.md ∧ h.w = e.launch.w ∧
      h.streams = e.launch.streams ∧ h.vl = 0 ∧ h.vrows = 1 ∧ h.vst = 0 ∧ h.names = 32 ∧ h.seq = 0 ∧
      h.elemBase = 0 ∧ h.full = BitVec.allOnes 48 ∧ h.vfull = BitVec.allOnes 64 ∧ h.first = true ∧
      h.vec.v = Vector.replicate 64 0 ∧
      h.readM 0 = 2 ^ (8 * vlmaxOf (s.core seat.core).lanes e.launch.link.part 32) - 1 ∧
      h.id = BitVec.ofNat 48 (s.dev.devnum.toNat * 2 ^ 32 + s.dev.serial.toNat) ∧
      h.link = { e.launch.link with index := 0 } := by
  obtain ⟨hrun, -⟩ := s.unselected.placeLaunch_all e.launch [seat]
  obtain ⟨l, cancelled, hh⟩ := s.unselected.placeLaunch_single e.launch seat
  refine occurs_of (launchPlacement_places h hp) ⟨hrun seat List.mem_cons_self, ?_⟩
  rw [hh]
  exact ⟨rfl, rfl, rfl, rfl, rfl, rfl, rfl, rfl, rfl, rfl, rfl, rfl, rfl, rfl, rfl, rfl, rfl, startHart_mask, rfl, rfl⟩

end

end Sys2Proof.Machine
end

section
/-!
What reaches a hart (O48): HART_CANCELLED, HART_FENCED, ACQ_GRANT, WAITER_POLL and WATERMARK_RELEASE.
-/

namespace Sys2Proof.Machine

open Stated

/-! ### A trap that is due (R372, R394, R417) -/

theorem State.sameHarts_onBehalf {s : State} {pa : Nat} {f : State → State} (hf : s.SameHarts (f s)) : s.SameHarts (s.onBehalf pa f) := by
  unfold State.onBehalf
  split
  · exact s.sameHarts_fenceLaunch _ _
  · exact hf

theorem State.sameHarts_leaveQueues (s : State) : s.SameHarts s.leaveQueues :=
  (s.alike_modifyDev _).trans (State.alike_foldl _ (fun s pa => State.sameHarts_onBehalf (pa := pa) (s.alike_modifyDev _)) _ _)

theorem State.quiesce_keeps (s : State) : s.quiesce.cur = s.cur ∧ s.quiesce.me.pc = s.me.pc := by
  have hr := s.sameHarts_performReads
  have hc := (s.performReads.modifyMe Hart.settle).sameCalm_commitStrip
  refine ⟨hc.1.trans ((State.modifyMe_cur _ _).trans hr.1), ?_⟩
  refine (Hart.of_part hc.me Hart.pc fun _ => rfl).trans ?_
  rw [State.me_modifyMe]
  exact (Hart.delivers_keep s.performReads.me.fills { s.performReads.me with fills := [] }).2.2.trans
    (Hart.of_part hr.me Hart.pc fun _ => rfl)

/-- A trap of a user context whose strip has taken effect whole. -/
theorem State.takeTrap_enters {s : State} {t : Trap} (hx : s.cur.ctx ≠ 4) (hs : s.quiesce.me.strip = []) (he : t.epc = none) :
    (s.takeTrap t).cur = s.cur ∧ (s.takeTrap t).status s.cur.core s.cur.ctx = .trapped ∧ (s.takeTrap t).me.trap.cause = t.cause ∧
      (s.takeTrap t).me.trap.val = t.val ∧ (s.takeTrap t).me.trap.epc = s.me.pc := by
  obtain ⟨hcur, hpc⟩ := s.quiesce_keeps
  have htake : s.takeTrap t = s.quiesce.enterTrap t := if_pos (by rw [hs]; rfl)
  have hsame : (s.quiesce.entered t).SameHarts (s.quiesce.enterTrap t) := by
    rw [State.enterTrap_of_user t (by rw [hcur]; exact hx)]
    split
    · exact State.sameHarts_fenceLaunch _ _ _
    · exact .refl _
  have hstatus := s.quiesce.entered_status t
  rw [hcur] at hstatus
  have htrap : (s.quiesce.enterTrap t).me.trap = s.quiesce.trapRegs t :=
    (Hart.of_part hsame.me Hart.trap fun _ => rfl).trans (Hart.of_part (s.quiesce.entered_me t) Hart.trap fun _ => rfl)
  rw [htake, htrap]
  refine ⟨hsame.1.trans ((s.quiesce.entered_cur t).trans hcur), (hsame.2 _ _).1.trans hstatus, rfl, rfl, ?_⟩
  rw [State.trapRegs, he]
  exact hpc

/-- A trap that waits for its strip. -/
theorem State.takeTrap_waits {s : State} {t : Trap} (hs : s.quiesce.me.strip ≠ []) :
    (s.takeTrap t).cur = s.cur ∧ (s.takeTrap t).status s.cur.core s.cur.ctx = .waiting .strip ∧ (s.takeTrap t).me.trapDue = some t := by
  obtain ⟨hcur, -⟩ := s.quiesce_keeps
  have htake : s.takeTrap t = (s.quiesce.modifyMe fun h => { h with trapDue := some t }).setStatus s.quiesce.cur.core s.quiesce.cur.ctx
      (.waiting .strip) := if_neg (by simpa using hs)
  generalize s.quiesce = q at hcur htake
  rw [htake, ← hcur]
  refine ⟨rfl, State.status_setStatus _ _ _ _, ?_⟩
  rw [State.me, State.setStatus_cur, State.hart_setStatus]
  exact congrArg Hart.trapDue (State.me_modifyMe _ _)

/-- The state in which a trap that is due to a hart is taken. -/
def State.leaving (s : State) (c : CoreId) (x : UserCtx) : State := (s.actingAs c (userId x)).leaveQueues.modifyMe Hart.clearDue

theorem State.leaving_keeps (s : State) (c : CoreId) (x : UserCtx) :
    (s.leaving c x).cur = (s.actingAs c (userId x)).cur ∧ (s.leaving c x).me.pc = (s.hart c (userId x)).pc := by
  have hq := (s.actingAs c (userId x)).sameHarts_leaveQueues
  refine ⟨hq.1, ?_⟩
  have hclear (h : Hart) : h.clearDue.pc = h.pc := by
    unfold Hart.clearDue
    split
    · rfl
    · split <;> rfl
  rw [State.leaving, State.me_modifyMe, hclear]
  exact Hart.of_part hq.me Hart.pc fun _ => rfl

/-- What a trap that is due makes of a state. -/
def TakesDue (s : State) (c : CoreId) (x : UserCtx) (cause : BitVec 8) (val : Word) (t : State) : Prop := t.cur = s.cur ∧
  ((s.leaving c x).quiesce.me.strip = [] → t.status c (userId x) = .trapped ∧ (t.hart c (userId x)).trap.cause = cause ∧
    (t.hart c (userId x)).trap.val = val ∧ (t.hart c (userId x)).trap.epc = (s.hart c (userId x)).pc) ∧
  ((s.leaving c x).quiesce.me.strip ≠ [] → t.status c (userId x) = .waiting .strip ∧
    (t.hart c (userId x)).trapDue = some { cause := cause, val := val })

theorem takesDue_of {s u : State} {c : CoreId} {x : UserCtx} {cause : BitVec 8} {val : Word}
    (hu : (s.leaving c x).takeTrap { cause := cause, val := val } = u) : TakesDue s c x cause val { u with cur := s.cur } := by
  obtain ⟨hcur, hpc⟩ := s.leaving_keeps c x
  have hin := State.takeTrap_enters (s := s.leaving c x) (t := { cause := cause, val := val })
  have hwait := State.takeTrap_waits (s := s.leaving c x) (t := { cause := cause, val := val })
  have hne : (s.leaving c x).cur.ctx ≠ 4 := by
    rw [hcur]
    exact fun h => absurd (congrArg Fin.val h) (Nat.ne_of_lt x.isLt)
  unfold TakesDue
  rw [hu, hcur, hpc] at hin
  rw [hu, hcur] at hwait
  rw [hcur] at hne
  refine ⟨rfl, fun hs => ?_, fun hs => ?_⟩
  · obtain ⟨htcur, hst, h1, h2, h3⟩ := hin hne hs rfl
    rw [← State.hart_eq_me_of htcur] at h1 h2 h3
    exact ⟨hst, h1, h2, h3⟩
  · obtain ⟨htcur, hst, h1⟩ := hwait hs
    rw [← State.hart_eq_me_of htcur] at h1
    exact ⟨hst, h1⟩

section
variable {s : State} {c : CoreId} {x : UserCtx} (hv : (s.hart c (userId x)).verdict = none)
  (hg : (s.hart c (userId x)).gang ≠ .parked) (hd : (s.hart c (userId x)).trapDue = none)
include hv hd

theorem State.deliverDue_eq (cause : BitVec 8) : s.deliverDue c (userId x) cause =
    match (s.hart c (userId x)).dueTrap with
    | some trap => if (match s.status c (userId x) with
        | .running => true
        | .waiting _ => true
        | _ => false) && trap.cause == cause then { (s.actingAs c (userId x)).takeDue trap with cur := s.cur } else s
    | none => s := by
  have hfin : (if (s.core c).fenced then (s.actingAs c (userId x)).modifyMe Hart.finishGang else s.actingAs c (userId x)) =
      s.actingAs c (userId x) := by
    split
    · refine State.modifyMe_self ?_
      rw [Hart.finishGang, State.me_actingAs, hv]
    · rfl
  unfold State.deliverDue
  dsimp only
  rw [hfin, State.me_actingAs, hd]
  rfl

include hg

theorem Hart.dueTrap_of_undue : (s.hart c (userId x)).dueTrap = match (s.hart c (userId x)).cancelled with
    | some id => some { cause := causeCancelled, val := id }
    | none => if (s.hart c (userId x)).fenceDue then some { cause := causeFenced } else none := by
  unfold Hart.dueTrap
  rw [hd, hv]
  dsimp only
  rw [if_neg (by simpa using hg)] <;> rfl

theorem hartCancelled_none (hc : (s.hart c (userId x)).cancelled = none) : exec (.hartCancelled c x) s = .next s := by
  rw [exec_hartCancelled]
  unfold execHartCancelled
  rw [State.deliverDue_eq hv hd, Hart.dueTrap_of_undue hv hg hd, hc]
  cases (s.hart c (userId x)).fenceDue with
  | false => rfl
  | true => exact congrArg Host.Outcome.next (if_neg (by rw [Bool.and_eq_true]; exact fun h => absurd h.2 (by decide)))

variable (hst : s.status c (userId x) = .running ∨ ∃ w, s.status c (userId x) = .waiting w)
include hst

omit hg in
theorem State.deliverDue_takes {cause : BitVec 8} {val : Word}
    (hdue : (s.hart c (userId x)).dueTrap = some { cause := cause, val := val }) : s.deliverDue c (userId x) cause =
      { (s.leaving c x).takeTrap { cause := cause, val := val } with cur := s.cur } := by
  rw [State.deliverDue_eq hv hd, hdue]
  refine if_pos ?_
  rcases hst with h | ⟨w, h⟩ <;> simp [h]

theorem hartCancelled_takes {id : Word} (hc : (s.hart c (userId x)).cancelled = some id) :
    Occurs (.hartCancelled c x) s (TakesDue s c x 0x11 id) := by
  have hdue := Hart.dueTrap_of_undue hv hg hd
  rw [hc] at hdue
  refine occurs_of (exec_hartCancelled _ _ _) ?_
  rw [State.deliverDue_takes hv hd hst hdue]
  exact takesDue_of rfl

theorem hartFenced_takes (hc : (s.hart c (userId x)).cancelled = none) (hf : (s.hart c (userId x)).fenceDue = true) :
    Occurs (.hartFenced c x) s (TakesDue s c x 0x15 0) := by
  have hdue := Hart.dueTrap_of_undue hv hg hd
  rw [hc, hf] at hdue
  refine occurs_of (exec_hartFenced _ _ _) ?_
  rw [State.deliverDue_takes hv hd hst hdue]
  exact takesDue_of rfl

end

/-! ### What a wait is for reaches the hart (R279, R285) -/

theorem acqGrant_occurs {s : State} {c : CoreId} {x : UserCtx} {k : Waiter} (hs : s.status c (userId x) ≠ .free)
    (hk : s.dev.acqWaiters.find? (fun w => w.hart == (s.hart c (userId x)).id && w.granted.isSome) = some k) :
    Occurs (.acqGrant c x) s fun t =>
      (t.hart c (userId x)).grant = k.granted.map (fun d => (k.va, if d then 1 else 0)) ∧
        (t.hart c (userId x)).x = (s.hart c (userId x)).x ∧ t.dev.mem = s.dev.mem ∧
        t.dev.acqWaiters = eraseFirst (fun w => w.hart == (s.hart c (userId x)).id && w.granted.isSome) s.dev.acqWaiters := by
  have he : exec (.acqGrant c x) s = .next ((s.modifyDev fun d =>
      { d with acqWaiters := eraseFirst (fun w => w.hart == (s.hart c (userId x)).id && w.granted.isSome) d.acqWaiters }).setHart c (userId x)
        { s.hart c (userId x) with grant := k.granted.map fun g => (k.va, wordOfBool g) }) := by
    rw [exec_acqGrant]
    unfold execAcqGrant
    dsimp only
    rw [hk]
    exact if_neg hs
  refine occurs_of he ?_
  rw [State.hart_setHart]
  exact ⟨rfl, rfl, rfl, rfl⟩

/-! ### A word of an object (R277) -/

theorem State.putWord_mem (s : State) (pa x : Nat) : (s.putWord pa x).dev.mem = s.dev.mem.write pa 8 x := Device.clearGroup_mem _ _ _ _

theorem State.getWord_putWord {s : State} (h : s.dev.mem.wf = true) (pa x : Nat) : (s.putWord pa x).getWord pa = x % 2 ^ 64 := by
  unfold State.getWord Device.load
  rw [State.putWord_mem, Mem.read_write h]
  norm_num

/-- A word with another hart as the holder of its object, and a boost. -/
theorem held_word (w b : Nat) (id : BitVec 48) :
    let y := setField (setField (setBit (setBit w 62 false) 63 true) 0 48 id.toNat % 2 ^ 64) 56 3 b % 2 ^ 64
    bitAt y 63 = true ∧ y % 2 ^ 48 = id.toNat := by
  intro y
  have hlow (z lo width : Nat) (h : lo + width ≤ 64) : fieldOf (z % 2 ^ 64) lo width = fieldOf z lo width :=
    fieldOf_congr_below h (Nat.mod_mod _ _)
  constructor
  · unfold bitAt
    rw [hlow _ _ _ (by omega), fieldOf_setField_of_disjoint (by omega), hlow _ _ _ (by omega), fieldOf_setField_of_disjoint (by omega),
      setBit, fieldOf_setField]
    rfl
  · have hid : fieldOf y 0 48 = id.toNat := by
      rw [hlow _ _ _ (by omega), fieldOf_setField_of_disjoint (by omega), hlow _ _ _ (by omega), fieldOf_setField,
        Nat.mod_eq_of_lt id.isLt]
    rwa [fieldOf, pow_zero, Nat.div_one] at hid

/-- An object taken for a hart whose entry in the queue goes, with the boost of those left (R279, R281). -/
def State.takeFor (s : State) (k : Waiter) (mine : Waiter → Bool) (id : BitVec 48) : State :=
  ((s.giveObject k.pa id).modifyDev fun d => { d with acqWaiters := eraseFirst mine d.acqWaiters }).setBoost k.pa

theorem State.takeFor_word {s : State} (hw : s.dev.mem.wf = true) (k : Waiter) (mine : Waiter → Bool) (id : BitVec 48) :
    bitAt ((s.takeFor k mine id).getWord k.pa) 63 = true ∧ (s.takeFor k mine id).getWord k.pa % 2 ^ 48 = id.toNat ∧
      OnlyWords s (s.takeFor k mine id) [k.pa] := by
  set held := setField (setBit (setBit (s.getWord k.pa) 62 false) 63 true) 0 48 id.toNat with hheld
  set u := (s.giveObject k.pa id).modifyDev fun d => { d with acqWaiters := eraseFirst mine d.acqWaiters } with hu
  have hum : u.dev.mem = s.dev.mem.write k.pa 8 held := s.putWord_mem k.pa held
  have huw : u.dev.mem.wf = true := by rw [hum]; exact Mem.wf_write _ _ hw
  have hword : u.getWord k.pa = held % 2 ^ 64 := State.getWord_putWord hw k.pa held
  have hboost : ∃ b, s.takeFor k mine id = u.putWord k.pa (setField (held % 2 ^ 64) 56 3 b) := ⟨_, by rw [← hword]; rfl⟩
  obtain ⟨b, hb⟩ := hboost
  obtain ⟨h63, hid⟩ := held_word (s.getWord k.pa) b id
  rw [hb, State.getWord_putWord huw]
  refine ⟨h63, hid, fun a ha => ?_⟩
  have hout := ha k.pa List.mem_cons_self
  rw [State.putWord_mem, Mem.byte_write_of_outside huw hout, hum, Mem.byte_write_of_outside hw hout]

/-! ### A polled object (R279) -/

section
variable {s : State} {c : CoreId} {x : UserCtx} {k : Waiter} (hs : s.status c (userId x) ≠ .free)
  (hpr : (s.hart c (userId x)).promises = [])
  (hk : s.dev.acqWaiters.find? (fun w => w.hart == (s.hart c (userId x)).id && w.polls && w.granted.isNone) = some k)
  (hp : s.dev.isPoisoned k.pa = false) (hl : s.dev.isLost k.pa = false)
include hk hp hl

theorem State.pollAcq_eq : (s.actingAs c (userId x)).pollAcq =
    if bitAt (s.getWord k.pa) 63 then (s.actingAs c (userId x)).count (.main k.pa)
    else (((s.actingAs c (userId x)).count (.main k.pa)).takeFor k
      (fun w => w.hart == (s.hart c (userId x)).id && w.polls && w.granted.isNone) (s.hart c (userId x)).id).modifyMe fun h =>
        { h with grant := some (k.va, wordOfBool (bitAt (s.getWord k.pa) 62)) } := by
  have hmine : (s.actingAs c (userId x)).dev.acqWaiters.find?
      (fun w => w.hart == (s.actingAs c (userId x)).me.id && w.polls && w.granted.isNone) = some k := hk
  have hfree : ((s.actingAs c (userId x)).dev.isPoisoned k.pa || (s.actingAs c (userId x)).dev.isLost k.pa) = false := by
    rw [Bool.or_eq_false_iff]
    exact ⟨hp, hl⟩
  unfold State.pollAcq
  dsimp only
  rw [hmine]
  unfold State.onBehalf
  dsimp only
  rw [hfree]
  rfl

include hs hpr

theorem waiterPoll_held (hb : bitAt (s.getWord k.pa) 63 = true) : Occurs (.waiterPoll c x) s fun t =>
    t.cores = s.cores ∧ t.dev.mem = s.dev.mem ∧ t.dev.acqWaiters = s.dev.acqWaiters := by
  have hpoll := State.pollAcq_eq hk hp hl
  rw [if_pos hb] at hpoll
  have he : exec (.waiterPoll c x) s = .next { (s.actingAs c (userId x)).count (.main k.pa) with cur := s.cur } := by
    rw [exec_waiterPoll]
    unfold execWaiterPoll
    dsimp only
    rw [if_neg hs, hpoll, show ((s.actingAs c (userId x)).count (.main k.pa)).me.promises = [] from hpr]
    rfl
  refine occurs_of he ⟨rfl, ((s.actingAs c (userId x)).sameView_count _).dev_eq.1, rfl⟩

theorem waiterPoll_takes (hb : bitAt (s.getWord k.pa) 63 = false) (hw : s.dev.mem.wf = true) : Occurs (.waiterPoll c x) s fun t =>
    (t.hart c (userId x)).grant = some (k.va, if bitAt (s.getWord k.pa) 62 then 1 else 0) ∧ bitAt (t.getWord k.pa) 63 = true ∧
      t.getWord k.pa % 2 ^ 48 = (s.hart c (userId x)).id.toNat ∧ OnlyWords s t [k.pa] := by
  have hpoll := State.pollAcq_eq hk hp hl
  rw [if_neg (by rw [hb]; exact Bool.false_ne_true)] at hpoll
  have hmem := ((s.actingAs c (userId x)).sameView_count (.main k.pa)).dev_eq.1
  have hword := State.takeFor_word (s := (s.actingAs c (userId x)).count (.main k.pa)) (by rw [hmem]; exact hw) k
    (fun w => w.hart == (s.hart c (userId x)).id && w.polls && w.granted.isNone) (s.hart c (userId x)).id
  have hme : (((s.actingAs c (userId x)).count (.main k.pa)).takeFor k
    (fun w => w.hart == (s.hart c (userId x)).id && w.polls && w.granted.isNone) (s.hart c (userId x)).id).me = s.hart c (userId x) := rfl
  have hcur : (((s.actingAs c (userId x)).count (.main k.pa)).takeFor k
    (fun w => w.hart == (s.hart c (userId x)).id && w.polls && w.granted.isNone) (s.hart c (userId x)).id).cur =
      (s.actingAs c (userId x)).cur := rfl
  unfold OnlyWords at hword ⊢
  rw [hmem] at hword
  generalize ((s.actingAs c (userId x)).count (.main k.pa)).takeFor k
    (fun w => w.hart == (s.hart c (userId x)).id && w.polls && w.granted.isNone) (s.hart c (userId x)).id = u at hpoll hword hme hcur
  have hu := State.me_modifyMe u fun h => { h with grant := some (k.va, wordOfBool (bitAt (s.getWord k.pa) 62)) }
  rw [hme] at hu
  have he : exec (.waiterPoll c x) s = .next { u.modifyMe (fun h =>
      { h with grant := some (k.va, wordOfBool (bitAt (s.getWord k.pa) 62)) }) with cur := s.cur } := by
    rw [exec_waiterPoll]
    unfold execWaiterPoll
    dsimp only
    rw [if_neg hs, hpoll, hu, hpr]
    rfl
  obtain ⟨h63, hid, honly⟩ := hword
  refine occurs_of he ⟨?_, h63, hid, honly⟩
  exact congrArg Hart.grant ((State.hart_eq_me_of (r := u.modifyMe _) hcur).trans hu)

end

/-! ### A watermark (R285) -/

section
variable {s : State} {c : CoreId} {x : UserCtx} {va : Word} {n : Nat} (h : s.status c (userId x) = .waiting (.watermark va n))
include h

theorem watermarkRelease_eq : exec (.watermarkRelease c x) s =
    if s.watermarkPassed c (userId x) va n then .next (s.setStatus c (userId x) .running) else .next s := by
  rw [exec_watermarkRelease]
  unfold execWatermarkRelease
  rw [h]

end

end Sys2Proof.Machine
end

section
/-!
Fabric collectives (O48): XRED_PACKET_ARRIVAL.
-/

namespace Sys2Proof.Machine

open Stated

/-! ### A generation without results (R323) -/

theorem State.foldl_sendResults_nil (s : State) : (ps : List XPacket) → ps.foldl (State.sendResults · · []) s = s
  | [] => rfl
  | _ :: ps => State.foldl_sendResults_nil s ps

/-- The completion that a participant elsewhere is told of. -/
def statusTo (p : XPacket) (n : Nat) : Outgoing := .xstatus p.device p.descriptor p.generation n

theorem State.sendStatus_elsewhere {s : State} {p : XPacket} (h : p.device ≠ s.dev.devnum) (n : Nat) :
    s.sendStatus n p = s.modifyDev fun d => { d with outgoing := d.outgoing ++ [statusTo p n] } := if_neg h

theorem State.finishPackets_nil {s : State} {ps : List XPacket} (h : s.dev.resultsAway ps = false) (n : Nat) :
    s.finishPackets ps n [] = ps.foldl (State.sendStatus · n ·) s := by
  unfold State.finishPackets
  dsimp only
  rw [State.foldl_sendResults_nil]
  exact if_neg (by rw [h]; exact Bool.false_ne_true)

theorem Device.markDone_contains (d : Device) (root : Nat) (gen : Word) : (root, gen) ∈ (d.markDone root gen).xdone := by
  unfold Device.markDone
  dsimp only
  split
  · rename_i h
    exact List.contains_iff_mem.1 h
  · simp

/-- A packet that joins changes only the generations at hand. -/
theorem Device.addPacket_eq (d : Device) (root : Nat) (p : XPacket) : ∃ gs, d.addPacket root p = { d with xgroups := gs } := by
  unfold Device.addPacket
  split
  · exact ⟨_, rfl⟩
  · exact ⟨_, rfl⟩

/-! ### A packet reaches its root -/

/-- What is left where a generation at a root has completed. -/
def Ended (s : State) (pa : Nat) (gen : Word) (r : State) (os : List Outgoing) : Prop :=
  r.dev.mem = s.dev.mem ∧ r.dev.outgoing = s.dev.outgoing ++ os ∧ (pa, gen) ∈ r.dev.xdone

theorem ended_markDone {s t : State} {pa : Nat} {gen : Word} (hm : t.dev.mem = s.dev.mem) (ho : t.dev.outgoing = s.dev.outgoing) :
    Ended s pa gen (t.modifyDev (·.markDone pa gen)) [] :=
  ⟨hm, ho.trans (List.append_nil _).symm, t.dev.markDone_contains pa gen⟩

theorem ended_send {s t : State} {pa : Nat} {gen : Word} {os : List Outgoing} {o : Outgoing} (h : Ended s pa gen t os) :
    Ended s pa gen (t.modifyDev fun d => { d with outgoing := d.outgoing ++ [o] }) (os ++ [o]) := by
  obtain ⟨hm, ho, hx⟩ := h
  exact ⟨hm, (congrArg (· ++ [o]) ho).trans (List.append_assoc _ _ _), hx⟩

theorem heldPackets_single (p : XPacket) : heldPackets [p] = [p] := rfl

theorem heldPackets_pair {o p : XPacket} (h : o.index ≠ p.index) : heldPackets [o, p] = [o, p] := by
  simp [heldPackets, h]

/-- A generation of more than one participant stays open at its first packet. -/
theorem State.completeGeneration_first {s : State} {p : XPacket} {pa : Nat} {gen : Word} (hd : p.device ≠ s.dev.devnum)
    (hk : s.getWord (pa + 8) % 16 ≠ 0) : s.completeGeneration { root := pa, gen, packets := [p] } = s := by
  have hfew : ((List.range (2 ^ fieldOf (s.getWord (pa + 8)) 0 4)).all fun d =>
      (heldPackets [p]).any fun q => q.index.toNat == d) = false := by
    have h4 : fieldOf (s.getWord (pa + 8)) 0 4 ≠ 0 := by simpa [fieldOf] using hk
    have h2 : 1 < 2 ^ fieldOf (s.getWord (pa + 8)) 0 4 := Nat.one_lt_two_pow h4
    rw [Bool.eq_false_iff]
    intro hall
    rw [List.all_eq_true] at hall
    have h0 := hall 0 (List.mem_range.2 (by omega))
    have h1 := hall 1 (List.mem_range.2 h2)
    simp only [heldPackets_single, List.any_cons, List.any_nil, Bool.or_false, beq_iff_eq] at h0 h1
    omega
  have hnone : [p].filter (·.device == s.dev.devnum) = [] := by simp [hd]
  unfold State.completeGeneration
  dsimp only
  rw [hfew, hnone]
  simp

theorem packetDisagrees_self (p : XPacket) : packetDisagrees p p = false := by simp [packetDisagrees]

theorem State.combined_nil {s : State} {p : XPacket} (h : p.n = 0) (k : Nat) (held : List XPacket) : s.combined k held p = [] := by
  unfold State.combined
  rw [h]
  rfl

/-- A generation of two participants elsewhere completes. -/
theorem State.completeGeneration_pair {s : State} {o p : XPacket} {pa : Nat} {gen : Word} (hod : o.device ≠ s.dev.devnum)
    (hd : p.device ≠ s.dev.devnum) (hi : o.index.toNat + p.index.toNat = 1) (hn : o.n = 0) (hdis : packetDisagrees o p = false)
    (ha : s.dev.resultsAway [o, p] = false) (hk : s.getWord (pa + 8) % 16 = 1) (hp : s.dev.isPoisoned pa = false)
    (hl : s.dev.isLost pa = false) : s.completeGeneration { root := pa, gen, packets := [o, p] } =
      (((s.modifyDev (·.markDone pa gen)).modifyDev fun d => { d with outgoing := d.outgoing ++ [statusTo o 0] }).modifyDev
        fun d => { d with outgoing := d.outgoing ++ [statusTo p 0] }).takeFresh := by
  have hne : o.index ≠ p.index := fun h => by rw [h] at hi; omega
  have hall : ((List.range (2 ^ fieldOf (s.getWord (pa + 8)) 0 4)).all fun d =>
      (heldPackets [o, p]).any fun q => q.index.toNat == d) = true := by
    rw [show fieldOf (s.getWord (pa + 8)) 0 4 = 1 by simpa [fieldOf] using hk, heldPackets_pair hne, List.all_eq_true]
    intro d hd
    have : d < 2 := List.mem_range.1 hd
    simp only [List.any_cons, List.any_nil, Bool.or_false, Bool.or_eq_true, beq_iff_eq]
    omega
  have hagree : [o, p].any (packetDisagrees o) = false := by simp [packetDisagrees_self, hdis]
  have hfin := State.finishPackets_nil (s := s.modifyDev (·.markDone pa gen)) (ps := [o, p]) ha 0
  rw [List.foldl_cons, List.foldl_cons, List.foldl_nil, State.sendStatus_elsewhere (s := s.modifyDev (·.markDone pa gen)) hod,
    State.sendStatus_elsewhere (s := (s.modifyDev (·.markDone pa gen)).modifyDev _) hd] at hfin
  rw [← hfin]
  unfold State.completeGeneration
  dsimp only
  rw [hall, hp, hl, heldPackets_pair hne]
  dsimp only
  rw [hagree, State.combined_nil hn]
  simp

section
variable {s : State} {p : XPacket} {pa : Nat} (hr : s.rootHome p.trRoot p.root = .ok pa) (hd : p.device ≠ s.dev.devnum)
include hr hd

theorem exec_packet_elsewhere : exec (.xredPacketArrival (.packet p)) s = .next (s.arrive p) := by
  have ha : s.rootAway p = false := by rw [State.rootAway, hr]
  rw [exec_xredPacketArrival]
  unfold execXredPacketArrival
  dsimp only
  rw [if_neg (by rw [ha]; exact Bool.false_ne_true), if_neg hd]

theorem packet_poisoned (hp : s.dev.poisonedGroups.contains pa = true) (ha : s.dev.resultsAway [p] = false) :
    Occurs (.xredPacketArrival (.packet p)) s fun t => Ended s pa p.generation t [statusTo p 2] := by
  have he : s.arrive p = (s.modifyDev (·.markDone pa p.generation)).modifyDev fun d =>
      { d with outgoing := d.outgoing ++ [statusTo p 2] } := by
    unfold State.arrive
    rw [hr]
    dsimp only
    rw [if_pos hp, State.finishPackets_nil (s := s.modifyDev (·.markDone pa p.generation)) ha]
    exact State.sendStatus_elsewhere (s := s.modifyDev (·.markDone pa p.generation)) hd 2
  refine occurs_of (exec_packet_elsewhere hr hd) ?_
  rw [he]
  exact ended_send (ended_markDone rfl rfl)

variable (hp : s.dev.poisonedGroups.contains pa = false) (hx : (pa, p.generation) ∉ s.dev.xdone)
include hp hx

omit hd in
/-- A packet that joins a generation. -/
theorem State.arrive_joins {g : XGeneration}
    (hg : (s.dev.addPacket pa p).xgroups.find? (fun g => g.root == pa && g.gen == p.generation) = some g) :
    s.arrive p = (s.modifyDev (·.addPacket pa p)).completeGeneration g := by
  have hdone : s.dev.xdone.contains (pa, p.generation) = false := by simpa using hx
  unfold State.arrive
  rw [hr]
  dsimp only
  rw [if_neg (by rw [hp]; exact Bool.false_ne_true), if_neg (by rw [hdone]; exact Bool.false_ne_true)]
  rw [show (s.modifyDev (·.addPacket pa p)).dev.xgroups.find? (fun g => g.root == pa && g.gen == p.generation) = some g from hg]

/-- The first packet of a generation of more than one. -/
theorem packet_first (hn : ∀ g ∈ s.dev.xgroups, g.root ≠ pa ∨ g.gen ≠ p.generation) (hk : s.getWord (pa + 8) % 16 ≠ 0) :
    exec (.xredPacketArrival (.packet p)) s = .next (s.modifyDev fun d =>
      { d with xgroups := d.xgroups ++ [{ root := pa, gen := p.generation, packets := [p] }] }) := by
  have hnone : ∀ g ∈ s.dev.xgroups, (g.root == pa && g.gen == p.generation) = false := fun g hg => by
    rcases hn g hg with h | h <;> simp [h]
  have hany : s.dev.xgroups.any (fun g => g.root == pa && g.gen == p.generation) = false :=
    List.any_eq_false.2 fun g hg => by rw [hnone g hg]; exact Bool.false_ne_true
  have hadd : s.dev.addPacket pa p = { s.dev with
      xgroups := s.dev.xgroups ++ [{ root := pa, gen := p.generation, packets := [p] }] } := by
    unfold Device.addPacket
    rw [hany]
    rfl
  have hfind : (s.dev.addPacket pa p).xgroups.find? (fun g => g.root == pa && g.gen == p.generation) =
      some { root := pa, gen := p.generation, packets := [p] } := by
    rw [hadd]
    dsimp only
    rw [List.find?_append, List.find?_eq_none.2 fun g hg => by rw [hnone g hg]; exact Bool.false_ne_true]
    simp
  have hstep : (s.modifyDev (·.addPacket pa p)) = s.modifyDev fun d =>
      { d with xgroups := d.xgroups ++ [{ root := pa, gen := p.generation, packets := [p] }] } :=
    congrArg (fun d => ({ s with dev := d } : State)) hadd
  rw [exec_packet_elsewhere hr hd, State.arrive_joins hr hp hx hfind, hstep]
  exact congrArg Host.Outcome.next (State.completeGeneration_first hd hk)

/-- The second packet of a generation of two, both from elsewhere and without elements. -/
theorem packet_last {o : XPacket} (hg : s.dev.xgroups = [{ root := pa, gen := p.generation, packets := [o] }])
    (hod : o.device ≠ s.dev.devnum) (hi : o.index.toNat + p.index.toNat = 1) (hn : o.n = 0)
    (hdis : packetDisagrees o p = false) (ha : s.dev.resultsAway [o, p] = false) (hk : s.getWord (pa + 8) % 16 = 1)
    (hpo : s.dev.isPoisoned pa = false) (hlo : s.dev.isLost pa = false) :
    Occurs (.xredPacketArrival (.packet p)) s fun t => Ended s pa p.generation t [statusTo o 0, statusTo p 0] := by
  have hadd : (s.dev.addPacket pa p).xgroups = [{ root := pa, gen := p.generation, packets := [o, p] }] := by
    unfold Device.addPacket
    rw [hg]
    simp [modifyFirst]
  have hfind : (s.dev.addPacket pa p).xgroups.find? (fun g => g.root == pa && g.gen == p.generation) =
      some { root := pa, gen := p.generation, packets := [o, p] } := by
    rw [hadd]
    simp
  refine occurs_of (exec_packet_elsewhere hr hd) ?_
  obtain ⟨gs, hgs⟩ := s.dev.addPacket_eq pa p
  have hstep : (s.modifyDev (·.addPacket pa p)) = s.modifyDev fun d => { d with xgroups := gs } :=
    congrArg (fun d => ({ s with dev := d } : State)) hgs
  have hpair := State.completeGeneration_pair (s := s.modifyDev fun d => { d with xgroups := gs }) (gen := p.generation) hod hd hi hn
    hdis ha hk hpo hlo
  rw [State.arrive_joins hr hp hx hfind, hstep, hpair]
  exact ended_send (ended_send (ended_markDone (s := s) (t := s.modifyDev fun d => { d with xgroups := gs }) rfl rfl))

end

/-! ### The other messages (R174, R323-R325) -/

/-- A group without generations at hand is poisoned at its root. -/
theorem poison_here {s : State} {root tr : Word} {pa : Nat} (hr : s.rootHome tr root = .ok pa) (hg : ∀ g ∈ s.dev.xgroups, g.root ≠ pa)
    (hp : pa ∉ s.dev.poisonedGroups) : exec (.xredPacketArrival (.poison root tr)) s =
      .next (s.modifyDev fun d => { d with
        poisonDue := d.poisonDue.filter (· != { byDescriptor := false, va := root, trRoot := tr, launch := 0 })
        poisonedGroups := d.poisonedGroups ++ [pa] }) := by
  have hnone : s.dev.xgroups.filter (·.root == pa) = [] := List.filter_eq_nil_iff.2 fun g h => by simpa using hg g h
  have hnew : s.dev.poisonedGroups.contains pa = false := by simpa using hp
  rw [exec_xredPacketArrival]
  unfold execXredPacketArrival State.settlePoison State.groupRoot
  dsimp only
  rw [if_pos (by rfl)]
  dsimp only
  rw [if_pos rfl, hr]
  dsimp only
  unfold State.poisonGroup
  rw [show (s.modifyDev fun d => { d with poisonDue := d.poisonDue.filter (· !=
    { byDescriptor := false, va := root, trRoot := tr, launch := 0 }) }).dev.xgroups.filter (·.root == pa) = [] from hnone]
  refine congrArg Host.Outcome.next (congrArg (fun gs => ({ s with dev := { s.dev with
    poisonDue := s.dev.poisonDue.filter (· != { byDescriptor := false, va := root, trRoot := tr, launch := 0 })
    poisonedGroups := gs } } : State)) (if_neg (Bool.eq_false_iff.1 hnew)))

theorem poisonRetry_none {s : State} (h : s.dev.poisonDue = []) : exec (.xredPacketArrival .poisonRetry) s = .next s := by
  rw [exec_xredPacketArrival]
  unfold execXredPacketArrival
  rw [h]
  rfl

theorem State.settleFinishing_none {s : State} (h : s.dev.xfinishing = []) : s.settleFinishing = s := by
  obtain ⟨cores, dev, cur, agenda, fresh⟩ := s
  cases dev
  cases h
  rfl

theorem State.settleFinishing_single {s : State} {p : XPacket} (h : s.dev.xfinishing = [{ packets := [p], status := 0 }])
    (ho : s.dev.outgoing = []) (hd : p.device ≠ s.dev.devnum) :
    s.settleFinishing = s.modifyDev fun d => { d with outgoing := [statusTo p 0], xfinishing := [] } := by
  have hw : s.dev.resultsAway [p] = false := by simp [Device.resultsAway, ho]
  have hsend := State.sendStatus_elsewhere (s := s.modifyDev fun d => { d with xfinishing := [] }) hd 0
  unfold State.settleFinishing
  simp only [h, hw, List.filter_cons, List.filter_nil, Bool.not_false, if_true,
    List.foldl_cons, List.foldl_nil]
  refine Eq.trans ?_ (hsend.trans ?_)
  · simp only [State.modifyDev, h, hw, List.filter_cons, List.filter_nil, Bool.not_false, Bool.not_true, Bool.false_eq_true, if_false]
  · exact congrArg (fun os => ({ s with dev := { s.dev with xfinishing := [], outgoing := os ++ [statusTo p 0] } } : State)) ho

/-- The only result on its way has been written. -/
theorem written_last {s : State} {p : XPacket} {n x : Nat} (ho : s.dev.outgoing = [.xresult p n x])
    (hf : s.dev.xfinishing = [{ packets := [p], status := 0 }]) (hd : p.device ≠ s.dev.devnum) :
    exec (.xredPacketArrival (.written p)) s = .next (s.modifyDev fun d => { d with outgoing := [statusTo p 0], xfinishing := [] }) := by
  have herase : eraseFirst (isResultOf p) s.dev.outgoing = [] := by simp [ho, eraseFirst, isResultOf]
  rw [exec_xredPacketArrival]
  exact congrArg Host.Outcome.next (State.settleFinishing_single (s := s.modifyDev fun d =>
    { d with outgoing := eraseFirst (isResultOf p) d.outgoing }) hf herase hd)

theorem fenced_none {s : State} {device : BitVec 16} (hf : s.dev.xfinishing = []) :
    Occurs (.xredPacketArrival (.fenced device)) s fun t =>
      device ∈ t.dev.fencedDevices ∧ t.cores = s.cores ∧ t.dev.mem = s.dev.mem := by
  refine occurs_of (exec_xredPacketArrival _ _) ?_
  unfold State.deviceFenced
  rw [State.settleFinishing_none (by exact hf)]
  refine ⟨?_, rfl, rfl⟩
  dsimp only [State.modifyDev]
  split
  · rename_i h
    exact List.contains_iff_mem.1 h
  · simp

theorem State.takePackets_only {s : State} {p : XPacket} {device : BitVec 16} (ho : s.dev.outgoing = [.packet device p])
    (hn : device ≠ s.dev.devnum) : s.takePackets [p] = ([p], s.modifyDev fun d => { d with outgoing := [] }) := by
  have htake : s.takePacket p false = some (s.modifyDev fun d => { d with outgoing := eraseFirst (isPacket p) d.outgoing }) := by
    unfold State.takePacket
    rw [if_pos (by simp [ho, isPacket, hn])]
  have herase : eraseFirst (isPacket p) s.dev.outgoing = [] := by simp [ho, eraseFirst, isPacket]
  unfold State.takePackets
  rw [htake]
  exact congrArg (fun os => ([p], ({ s with dev := { s.dev with outgoing := os } } : State))) herase

/-- A root elsewhere completes a generation for the only packet of this device. -/
theorem complete_here {s : State} {p : XPacket} {device : BitVec 16} {status : BitVec 2} (ho : s.dev.outgoing = [.packet device p])
    (hn : device ≠ s.dev.devnum) (hp : p.device = s.dev.devnum) : exec (.xredPacketArrival (.complete [p] status [])) s =
      .next ((s.modifyDev fun d => { d with outgoing := [] }).writeStatus p status.toNat) := by
  have hfin : (s.modifyDev fun d => { d with outgoing := [] }).finishPackets [p] status.toNat [] =
      (s.modifyDev fun d => { d with outgoing := [] }).writeStatus p status.toNat := by
    rw [State.finishPackets_nil rfl]
    exact if_pos hp
  rw [exec_xredPacketArrival, ← hfin]
  unfold execXredPacketArrival State.completedElsewhere
  dsimp only
  rw [State.takePackets_only ho hn]

end Sys2Proof.Machine
end

section
/-!
The Arbiter, the launch scheduler, host queues, and what reaches a waiting hart (O48).
-/

namespace Sys2Proof.Machine

open Stated

/-- Settles O48: each constructor by the branches of its own act. -/
theorem schedulerActsComplete : Obligations.SchedulerActsComplete := by
  unfold Obligations.SchedulerActsComplete
  intro s c x q e v desc job k p pa
  dsimp only
  refine ⟨⟨fun h => ⟨arbiterSelection_held h, arbiterBoundary_held (.inr h)⟩, fun h => arbiterBoundary_held (.inl h), fun h => ⟨?_, ?_⟩⟩,
    launchPlacement_idle, fun h => ?_, ⟨descriptorArrival_held, ?_⟩, exec_qtailWrite_eq s q v, exec_queueWeightWrite_eq s q v,
    exec_qctlWrite_eq s q v, jobRetired_unknown, ?_, ?_, ?_, ?_, ?_, ?_, poisonRetry_none, ?_, fun device hf => fenced_none hf,
    fun status device ho hn hp => complete_here ho hn hp⟩
  · rcases hs : s.select [] with ⟨_ | ⟨n, o | e⟩, s1⟩
    · exact arbiterSelection_idle h hs
    · exact fun seat hseat => arbiterSelection_context h hs hseat
    · exact arbiterSelection_entry h hs
  · intro hc
    rcases hs : s.select [] with ⟨_ | ⟨n, w⟩, s1⟩
    · exact arbiterBoundary_idle h hc hs
    · dsimp only
      split
      · rename_i hb
        exact arbiterBoundary_spares h hc hs hb
      · rename_i hb
        have he := arbiterBoundary_eq h hc hs hb
        split
        · rename_i hv
          rw [he, hv]
        · rename_i hv
          rw [he, hv]
          exact ⟨rfl, State.evict_status⟩
  · split
    · rename_i hp
      exact launchPlacement_returns h hp
    · rename_i hp
      refine ⟨launchPlacement_runs h hp, fun seat hseat => ?_⟩
      subst hseat
      exact launchPlacement_starts h hp
  · rintro ⟨hr, ho, -, hh⟩
    exact descriptorArrival_arrives rfl (descriptorArrival_eq hr ho hh) (congrArg (Desc.link desc q) (s.level_setQueue q))
  · exact fun r hr => ⟨fun ho => (exec_jobRetired_eq hr).trans (if_neg ho), jobRetired_free hr⟩
  · intro hv hg hd hst
    exact ⟨fun id hc => hartCancelled_takes hv hg hd hst hc, hartFenced_takes hv hg hd hst, hartCancelled_none hv hg hd⟩
  · intro hs
    exact ⟨acqGrant_occurs hs, fun hpr hk hp hl => ⟨waiterPoll_held hs hpr hk hp hl, waiterPoll_takes hs hpr hk hp hl⟩⟩
  · intro va n hw
    rw [watermarkRelease_eq hw]
    exact ⟨fun h => if_pos h, fun h => if_neg (by rw [h]; exact Bool.false_ne_true)⟩
  · intro hr hd
    exact ⟨packet_poisoned hr hd, fun hp hx => ⟨packet_first hr hd hp hx, fun o hg _ hod hi hn _ hdis ha hk hpo hlo =>
      packet_last hr hd hp hx hg hod hi hn hdis ha hk hpo hlo⟩⟩
  · exact fun root tr hr hg hp => poison_here hr hg hp
  · exact fun n x ho hf hd => written_last ho hf hd

end Sys2Proof.Machine
end

section
/-!
Tiles of registers: the names that an instruction reads where no stream is bound to them, and what it writes to the
elements of a register and to the bits of a mask (R203, R204).
-/

namespace Sys2Proof.Machine

open Stated

/-! ### Names read as their registers hold them -/

/-- Contents of the names listed, as the registers of a hart hold them. -/
def Hart.Holds (h : Hart) (rs : List Reg) (xs : List (Reg × Nat)) : Prop := ∀ r ∈ rs, tileOfName xs r = h.readV r

theorem tileOfName_of_all {h : Hart} {r : Reg} {xs : List (Reg × Nat)} (hx : ∀ p ∈ xs, p.2 = h.readV p.1)
    (hr : xs.any (fun p => p.1 == r) = true) : tileOfName xs r = h.readV r := by
  obtain ⟨p, hp⟩ : ∃ p, xs.find? (fun p => p.1 == r) = some p := by
    rw [← Option.isSome_iff_exists, List.find?_isSome]
    simpa using hr
  have hpr : p.1 = r := by simpa using List.find?_some hp
  rw [tileOfName, hp, ← hpr]
  exact hx p (List.mem_of_find?_eq_some hp)

theorem unbound_of_subset {h : Hart} {rs qs : List Reg} (hu : Unbound h qs) (hs : rs ⊆ qs) : Unbound h rs := fun r hr => hu r (hs hr)

theorem State.readTiles_all_unbound {s : State} (want : Nat → Bool) : {rs : List Reg} → Unbound s.me rs →
    ∃ xs, s.readTiles want rs = .ok (xs, none, s) ∧ (∀ p ∈ xs, p.2 = s.me.readV p.1) ∧
      ∀ r ∈ rs, xs.any (fun p => p.1 == r) = true
  | [], _ => ⟨[], rfl, by simp, by simp⟩
  | r :: rs, h => by
    obtain ⟨xs, hxs, hread, hall⟩ := State.readTiles_all_unbound want (unbound_of_subset h (List.subset_cons_self r rs))
    have hr : s.me.streamOf r = none := h r List.mem_cons_self
    cases hany : xs.any (fun p => p.1 == r) with
    | true =>
      refine ⟨xs, by simp only [State.readTiles, hxs, hany, if_true], hread, fun q hq => ?_⟩
      rcases List.mem_cons.1 hq with rfl | hq
      · exact hany
      · exact hall q hq
    | false =>
      refine ⟨(r, s.me.readV r) :: xs, by simp only [State.readTiles, hxs, hany, hr, Bool.false_eq_true, if_false], ?_, fun q hq => ?_⟩
      · exact List.forall_mem_cons.2 ⟨rfl, hread⟩
      · rcases List.mem_cons.1 hq with rfl | hq
        · simp
        · simp [hall q hq]

theorem State.popTiles_all_unbound {s : State} (want : Nat → Bool) {rs : List Reg} (h : Unbound s.me rs) : s.popTiles want rs = s := by
  have hnone : rs.filterMap s.me.streamOf = [] := List.filterMap_eq_nil_iff.2 h
  simp [State.popTiles, hnone]

/-- An instruction over the active elements of registers. -/
theorem State.withTiles_all_unbound {s t : State} {rs : List Reg} {body : List (Reg × Nat) → State → Except Stop State}
    (h : Unbound s.me rs) (hb : ∀ xs, s.me.Holds rs xs → body xs s = .ok t) (ht : Unbound t.me rs) : s.withTiles rs body = .ok t := by
  obtain ⟨xs, hxs, hread, hall⟩ := State.readTiles_all_unbound s.me.active h
  unfold State.withTiles State.withTilesOf
  rw [hxs]
  simp only [hb xs fun r hr => tileOfName_of_all hread (hall r hr), State.popTiles_all_unbound _ ht]

/-- An element of source B (R41). -/
theorem Hart.elemB_eq {h : Hart} {xs : List (Reg × Nat)} {b : Src} (hx : h.Holds (srcTiles b) xs) (isFloat : Bool) (i : Nat) :
    h.elemB xs isFloat b i = bElem h isFloat b i := by
  cases b with
  | reg r fb => simp only [Hart.elemB, bElem, vElem, hx r (List.mem_singleton_self r)]
  | scalar r fb => rfl
  | const n => rfl
  | lit w => rfl

/-! ### Elements and bits written -/

theorem elem_mod (w x i : Nat) : elem w x i % 2 ^ w = elem w x i := Nat.mod_mod _ _

theorem Hart.elem_tileOf_readV (h : Hart) (d : Reg) (f : Nat → Option Nat) (j : Nat) : elem h.sew (h.tileOf (h.readV d) f) j =
    if j < h.tile then ((f j).map (· % 2 ^ h.sew)).getD (vElem h d j) else vElem h d j := by
  rw [Machine.elem_tileOf]
  split
  · cases f j with
    | none => exact elem_mod _ _ _
    | some x => rfl
  · rfl

theorem State.writeActive_of_unbound {s : State} {d : Reg} (h : Unbound s.me [d]) (f : Nat → Nat) : s.writeActive d f =
    .ok (s.modifyMe fun h => h.writeV d (s.me.tileOf (s.me.readV d) fun i => if s.me.active i then some (f i) else none)) := by
  have hd : s.me.streamOf d = none := h d (List.mem_singleton_self d)
  unfold State.writeActive State.writeTile
  rw [hd]
  rfl

/-- An instruction over tiles of registers that writes the active elements of one of them. -/
theorem writesActive_of_tiles {i : Instr} {s : State} {u : Uses} {d : Reg} {rs : List Reg} {f : Nat → Nat}
    {body : List (Reg × Nat) → State → Except Stop State} (hi : exec i s = issue s u fun s => s.withTiles rs body)
    (hc : u.commits = false) (ha : s.Admits u) (hub : Unbound s.me (d :: rs))
    (hb : ∀ xs, s.me.Holds rs xs → body xs s = s.writeActive d f) : WritesActive i s u d f := by
  have hd := State.writeActive_of_unbound (unbound_of_subset hub (List.cons_subset_cons d (List.nil_subset rs))) f
  have hrs := unbound_of_subset hub (List.subset_cons_self d rs)
  refine ⟨_, hi.trans (issue_after ha hc (State.withTiles_all_unbound hrs (fun xs hx => (hb xs hx).trans hd) ?_)), s.me.elem_tileOf_readV d _⟩
  rw [State.me_modifyMe]
  exact unbound_congr rfl hrs

/-- The bits of a mask written over the tile. -/
theorem Hart.bitAt_maskOf (h : Hart) (old : Nat) (f : Nat → Option Bool) (j : Nat) :
    bitAt (h.maskOf old f) j = if j < h.tile then (f j).getD (bitAt old j) else bitAt old j := by
  have hbit {x y : Nat} (he : elem 1 x j = elem 1 y j) : bitAt x j = bitAt y j := by
    rw [bitAt, bitAt]
    rw [elem, elem, Nat.mul_one] at he
    rw [he]
  have hs : elem 1 (h.maskOf old f) j = _ := elem_splice 1 old _ j
  rw [List.length_map, List.length_range] at hs
  split
  · rename_i hj
    rw [if_pos hj, List.getD_eq_getElem?_getD, List.getElem?_map, List.getElem?_range hj] at hs
    cases hf : f j with
    | some b =>
      rw [elem, Nat.mul_one] at hs
      rw [bitAt, hs]
      cases b <;> simp [hf]
    | none =>
      refine hbit (hs.trans ?_)
      simp only [Option.map_some, Option.getD_some, hf]
      rw [elem, Nat.mul_one]
      exact Nat.mod_mod _ _
  · rename_i hj
    rw [if_neg hj] at hs
    exact hbit hs

/-- An instruction over tiles of registers that writes the active bits of a mask. -/
theorem writesMask_of_tiles {i : Instr} {s : State} {u : Uses} {d : Reg} {rs : List Reg} {p : Nat → Bool}
    {body : List (Reg × Nat) → State → Except Stop State} (hi : exec i s = issue s u fun s => s.withTiles rs body)
    (hc : u.commits = false) (ha : s.Admits u) (hub : Unbound s.me rs)
    (hb : ∀ xs, s.me.Holds rs xs → body xs s = .ok (s.modifyMe fun h => h.setActive d p)) :
    WritesMask i s u d s.me.active fun j => p j = true := by
  refine ⟨s.me.maskOf (s.me.readM d) fun i => if s.me.active i then some (p i) else none, ?_, fun j => ?_⟩
  · refine hi.trans (issue_after ha hc (State.withTiles_all_unbound hub (fun xs hx => (hb xs hx).trans rfl) ?_))
    rw [State.me_modifyMe]
    exact unbound_congr rfl hub
  · rw [Hart.bitAt_maskOf]
    by_cases ht : j < s.me.tile
    · cases hj : s.me.active j <;> simp [ht]
    · simp [ht]

end Sys2Proof.Machine
end

section
/-!
Vector float arithmetic (O15).
-/

namespace Sys2Proof.Machine

open Stated

section
variable {s : State} {d a : Reg} {b : Src} {fa : Bool} {i : Instr}

/-- A float instruction of two sources (R219). -/
theorem vfloatBinary_writesActive {op : Fmt → Rounding → Nat → Nat → Nat} (hi : exec i s = vfloatBinary op d a b fa s)
    (ha : s.Admits (s.floatUses d a b fa false)) (hub : Unbound s.me ([d, a] ++ srcTiles b)) :
    WritesActive i s (s.floatUses d a b fa false) d fun j => op s.me.fmt (s.rounding j) (vElem s.me a j) (bElem s.me true b j) := by
  refine writesActive_of_tiles hi rfl ha hub fun xs hx => ?_
  have hxa : tileOfName xs a = s.me.readV a := hx a List.mem_cons_self
  have hxb : s.me.Holds (srcTiles b) xs := fun r hr => hx r (List.mem_cons_of_mem a hr)
  simp only [hxa, Hart.elemB_eq hxb]
  rfl

/-- A float instruction of one source (R219, R220). -/
theorem vfloatUnary_writesActive {op : Fmt → Rounding → Nat → Nat} (hi : exec i s = vfloatUnary op d a fa s)
    (ha : s.Admits (s.floatUnaryUses d a fa)) (hub : Unbound s.me [d, a]) :
    WritesActive i s (s.floatUnaryUses d a fa) d fun j => op s.me.fmt (s.rounding j) (vElem s.me a j) := by
  refine writesActive_of_tiles hi rfl ha hub fun xs hx => ?_
  have hxa : tileOfName xs a = s.me.readV a := hx a List.mem_cons_self
  simp only [hxa]
  rfl

/-- A multiply-add: the exact product and the old element of D combined, and rounded once (R219). -/
theorem vfloatFused_writesActive {op : Bool → FVal → FVal → FVal} (hi : exec i s = vfloatFused op d a b fa s)
    (ha : s.Admits (s.floatUses d a b fa true)) (hub : Unbound s.me ([d, a] ++ srcTiles b)) :
    WritesActive i s (s.floatUses d a b fa true) d fun j => roundF s.me.fmt (s.rounding j) (op (s.me.rm == .rdn)
      ((s.me.fmt.value (vElem s.me a j)).mul (s.me.fmt.value (bElem s.me true b j))) (s.me.fmt.value (vElem s.me d j))) := by
  have hall : Unbound s.me (d :: (a :: srcTiles b ++ [d])) := unbound_of_subset hub (by simp)
  refine writesActive_of_tiles hi rfl ha hall fun xs hx => ?_
  have hxa : tileOfName xs a = s.me.readV a := hx a (by simp)
  have hxd : tileOfName xs d = s.me.readV d := hx d (by simp)
  have hxb : s.me.Holds (srcTiles b) xs := fun r hr => hx r (by simp [hr])
  simp only [hxa, hxd, Hart.elemB_eq hxb]
  rfl

/-- A float compare (R220). -/
theorem vfloatCompare_writesMask {op : FVal → FVal → Bool} (hi : exec i s = vfloatCompare op d a b fa s) {u : Uses}
    (hu : u = { s.compareUses s.me.floatClass d a b fa with illegal := s.me.sewCode == 0 }) (ha : s.Admits u)
    (hub : Unbound s.me (a :: srcTiles b)) : WritesMask i s u d s.me.active fun j =>
      op (s.me.fmt.value (vElem s.me a j)) (s.me.fmt.value (bElem s.me true b j)) = true := by
  subst hu
  refine writesMask_of_tiles hi rfl ha hub fun xs hx => congrArg Except.ok (State.modifyMe_congr ?_)
  have hxa : tileOfName xs a = s.me.readV a := hx a List.mem_cons_self
  have hxb : s.me.Holds (srcTiles b) xs := fun r hr => hx r (List.mem_cons_of_mem a hr)
  simp only [hxa, Hart.elemB_eq hxb]
  rfl

end

/-- The sign bit inverted (R220). -/
theorem negBits_eq (f : Fmt) (x : Nat) :
    negBits f x = x % 2 ^ (f.width - 1) + if bitAt x (f.width - 1) then 0 else 2 ^ (f.width - 1) := by
  unfold negBits absBits Fmt.signBit
  cases bitAt x (f.width - 1) <;> rfl

theorem exec_of_mem_vectorFloatTable (d a : Reg) (b : Src) (fa : Bool) (s : State) :
    ∀ e ∈ vectorFloatTable, exec (e.1 d a b fa) s = vfloatBinary e.2 d a b fa s := by
  simp only [vectorFloatTable, List.forall_mem_cons]
  exact ⟨exec_vfadd d a b fa s, exec_vfsub d a b fa s, exec_vfmul d a b fa s, exec_vfdiv d a b fa s, exec_vfmin d a b fa s,
    exec_vfmax d a b fa s, by simp⟩

theorem exec_of_mem_vectorFloatUnaryTable (d a : Reg) (fa : Bool) (s : State) :
    ∀ e ∈ vectorFloatUnaryTable, exec (e.1 d a fa) s = vfloatUnary e.2 d a fa s := by
  have hneg : (fun f (_ : Rounding) x => negBits f x) = fun f _ x =>
      x % 2 ^ (f.width - 1) + if bitAt x (f.width - 1) then 0 else 2 ^ (f.width - 1) := by
    funext f _ x; exact negBits_eq f x
  simp only [vectorFloatUnaryTable, List.forall_mem_cons, ← hneg]
  exact ⟨exec_vfsqrt d a fa s, exec_vfabs d a fa s, exec_vfneg d a fa s, exec_vfclass d a fa s, by simp⟩

theorem exec_of_mem_vectorFloatCompareTable (d a : Reg) (b : Src) (fa : Bool) (s : State) :
    ∀ e ∈ vectorFloatCompareTable, exec (e.1 d a b fa) s = vfloatCompare e.2 d a b fa s := by
  simp only [vectorFloatCompareTable, List.forall_mem_cons]
  exact ⟨exec_vfcmpeq d a b fa s, exec_vfcmplt d a b fa s, exec_vfcmple d a b fa s, by simp⟩

/-- Settles O15: one lemma for each shape of instruction, and for each table the operation that its entries name. -/
theorem vectorFloatResults : Obligations.VectorFloatResults := by
  unfold Obligations.VectorFloatResults
  intro s d a b fa h f
  refine ⟨fun ha hub e he => ?_, fun ha hub => ⟨?_, ?_⟩, fun ha hub e he => ?_, fun ha hub e he => ?_⟩
  · exact vfloatBinary_writesActive (exec_of_mem_vectorFloatTable d a b fa s e he) ha hub
  · exact vfloatFused_writesActive (exec_vffma d a b fa s) ha hub
  · exact vfloatFused_writesActive (exec_vffms d a b fa s) ha hub
  · exact vfloatCompare_writesMask (exec_of_mem_vectorFloatCompareTable d a b fa s e he) rfl ha hub
  · exact vfloatUnary_writesActive (exec_of_mem_vectorFloatUnaryTable d a fa s e he) ha hub

end Sys2Proof.Machine
end

section
/-!
Sums of fixed shape (R73) over operations that combine in any order, for the integer reductions of R227.
-/

namespace Sys2Proof.Machine

open Stated

/-! ### HalvingSum of an operation that is a fold -/

/-- The values present in a list combined by `g`, as `φ` sees them. -/
def combined {β : Type} (g : β → β → β) (φ : Nat → β) (e : β) (zs : List (Option Nat)) : β :=
  (zs.filterMap id).foldr (fun x acc => g (φ x) acc) e

section
variable {β : Type} {g : β → β → β} {φ : Nat → β} {e : β}

@[simp] theorem combined_nil : combined g φ e [] = e := rfl

@[simp] theorem combined_none (zs : List (Option Nat)) : combined g φ e (none :: zs) = combined g φ e zs := rfl

@[simp] theorem combined_some (x : Nat) (zs : List (Option Nat)) : combined g φ e (some x :: zs) = g (φ x) (combined g φ e zs) := rfl

variable [Std.Associative g] [Std.Commutative g] (he : g e e = e)
include he

theorem identity_combined : (zs : List (Option Nat)) → g e (combined g φ e zs) = combined g φ e zs
  | [] => he
  | none :: zs => identity_combined zs
  | some x :: zs => by
    rw [combined_some]
    calc g e (g (φ x) (combined g φ e zs)) = g (φ x) (g e (combined g φ e zs)) := by ac_rfl
      _ = g (φ x) (combined g φ e zs) := by rw [identity_combined zs]

theorem combined_append : (xs ys : List (Option Nat)) → combined g φ e (xs ++ ys) = g (combined g φ e xs) (combined g φ e ys)
  | [], ys => (identity_combined he ys).symm
  | none :: xs, ys => combined_append xs ys
  | some x :: xs, ys => by
    rw [List.cons_append, combined_some, combined_append xs ys, combined_some]
    ac_rfl

variable {op : Nat → Nat → Nat → Nat} (hop : ∀ i x y, φ (op i x y) = g (φ x) (φ y))
include hop

/-- A level keeps what the values combine to. -/
theorem combined_halveLevel : (i : Nat) → (xs ys : List (Option Nat)) →
    combined g φ e (halveLevel op i xs ys) = g (combined g φ e xs) (combined g φ e ys)
  | _, [], [] => he.symm
  | _, [], y :: ys => by rw [halveLevel, combined_nil, identity_combined he]; simp
  | _, x :: xs, [] => by
    rw [halveLevel, combined_nil]
    exact (identity_combined he _).symm.trans (Std.Commutative.comm _ _)
  | i, x :: xs, y :: ys => by
    have ih := combined_halveLevel (i + 1) xs ys
    cases x with
    | none => cases y with
      | none => exact ih
      | some b => simp only [halveLevel, combined_some, combined_none, ih]; ac_rfl
    | some a => cases y with
      | none => simp only [halveLevel, combined_some, combined_none, ih]; ac_rfl
      | some b => simp only [halveLevel, combined_some, ih, hop]; ac_rfl

omit he hop in
theorem halveLevel_length : (i : Nat) → (xs ys : List (Option Nat)) → (halveLevel op i xs ys).length = max xs.length ys.length
  | _, [], [] => rfl
  | _, [], y :: ys => by simp [halveLevel]
  | _, x :: xs, [] => by simp [halveLevel]
  | i, x :: xs, y :: ys => by simp [halveLevel, halveLevel_length (i + 1) xs ys]

theorem combined_halvingSum : (k : Nat) → (zs : List (Option Nat)) → zs.length ≤ 2 ^ k →
    combined g φ e [halvingSum op k zs] = combined g φ e zs
  | 0, [], _ => rfl
  | 0, [z], _ => rfl
  | 0, _ :: _ :: _, h => by simp at h
  | k + 1, zs, h => by
    have hlen : (halveLevel op 0 (zs.take (2 ^ k)) (zs.drop (2 ^ k))).length ≤ 2 ^ k := by
      rw [halveLevel_length, List.length_take, List.length_drop]
      omega
    rw [halvingSum, combined_halvingSum k _ hlen, combined_halveLevel he hop, ← combined_append he, List.take_append_drop]

omit he hop in
theorem le_two_pow_log2_powerAbove (n : Nat) : n ≤ 2 ^ (powerAbove n).log2 := by
  unfold powerAbove
  split
  · exact ‹n ≤ 1›
  · rw [Nat.log2_two_pow]
    have := Nat.lt_log2_self (n := n - 1)
    omega

/-- A sum of fixed shape with the identity combined for what is missing, as one fold over the values present. -/
theorem fixedSum_eq_foldl {e0 : Nat} (h0 : φ e0 = e) (zs : List (Option Nat)) :
    φ (op 0 ((fixedSum op zs).getD e0) e0) = ((zs.filterMap id).map φ).foldl g e := by
  have hsum := combined_halvingSum he hop _ zs (le_two_pow_log2_powerAbove zs.length)
  have hlast : φ (op 0 ((fixedSum op zs).getD e0) e0) = combined g φ e [fixedSum op zs] := by
    rw [hop, h0]
    cases fixedSum op zs with
    | none => exact (congrArg (g · e) h0).trans he
    | some x => rfl
  rw [hlast]
  refine hsum.trans ?_
  have : LeftCommutative g := ⟨fun a b c => by ac_rfl⟩
  rw [List.foldl_eq_foldr, List.foldr_map]
  rfl

end

/-- The values present among the elements below n. -/
theorem filterMap_present (h : Hart) (a : Reg) (n : Nat) :
    ((List.range n).map fun j => if h.masked j then some (vElem h a j) else none).filterMap id = present h a n := by
  unfold present
  induction List.range n with
  | nil => rfl
  | cons j js ih => cases hj : h.masked j <;> simp [hj] at ih ⊢ <;> exact ih

/-! ### What the integer reductions combine to -/

theorem foldl_add_mod (m : Nat) : (xs : List Nat) → (c : Nat) → xs.foldl (fun x y => (x + y) % m) c % m = (c + xs.sum) % m
  | [], c => by simp
  | x :: xs, c => by
    rw [List.foldl_cons, foldl_add_mod m xs, List.sum_cons, Nat.mod_add_mod, Nat.add_assoc]

theorem foldl_and_le : (xs : List Nat) → (c : Nat) → xs.foldl (· &&& ·) c ≤ c
  | [], _ => le_rfl
  | x :: xs, c => (foldl_and_le xs (c &&& x)).trans Nat.and_le_left

theorem foldl_or_lt {w : Nat} : (xs : List Nat) → (c : Nat) → c < 2 ^ w → (∀ x ∈ xs, x < 2 ^ w) → xs.foldl (· ||| ·) c < 2 ^ w
  | [], _, hc, _ => hc
  | x :: xs, c, hc, h => by
    rw [List.forall_mem_cons] at h
    exact foldl_or_lt xs (c ||| x) (Nat.or_lt_two_pow hc h.1) h.2

theorem signed_maxSigned (w x y : Nat) : signed w (maxSigned w x y) = max (signed w x) (signed w y) := by
  unfold maxSigned
  split
  · exact (max_eq_right ‹_›).symm
  · exact (max_eq_left (by omega)).symm

theorem signed_minSigned (w x y : Nat) : signed w (minSigned w x y) = min (signed w x) (signed w y) := by
  unfold minSigned
  split
  · exact (min_eq_left ‹_›).symm
  · exact (min_eq_right (by omega)).symm

theorem wrap_signed (w x : Nat) : wrap w (signed w x) = x % 2 ^ w := by
  have hm : ((x % 2 ^ w : Nat) : Int) % (2 ^ w : Nat) = (x % 2 ^ w : Nat) := by
    rw [← Int.natCast_emod, Nat.mod_mod]
  unfold wrap signed
  split
  · rw [Int.sub_emod_right, hm, Int.toNat_natCast]
  · rw [hm, Int.toNat_natCast]

theorem two_pow_eq_double {w : Nat} (hw : 0 < w) : 2 ^ w = 2 * 2 ^ (w - 1) := by
  rw [← Nat.pow_succ', Nat.succ_eq_add_one, Nat.sub_add_cancel hw]

theorem signed_of_lt {w x : Nat} (hw : 0 < w) (h : x < 2 ^ (w - 1)) : signed w x = x := by
  have h2 : 2 ^ w = 2 * 2 ^ (w - 1) := two_pow_eq_double hw
  unfold signed
  rw [if_neg (by rw [fieldOf, Nat.div_eq_of_lt h]; decide), Nat.mod_eq_of_lt (by omega)]

theorem signed_two_pow {w : Nat} (hw : 0 < w) : signed w (2 ^ (w - 1)) = -(2 ^ (w - 1) : Nat) := by
  have h2 : 2 ^ w = 2 * 2 ^ (w - 1) := two_pow_eq_double hw
  have hp := Nat.two_pow_pos (w - 1)
  unfold signed
  rw [if_pos (by rw [fieldOf, Nat.div_self hp]; rfl), Nat.mod_eq_of_lt (by omega), h2]
  push_cast
  ring

end Sys2Proof.Machine
end

section
/-!
The order of float values, and the scale that AMSCL takes from a ring (R72, R226).
-/

namespace Sys2Proof.Machine

open Stated

/-! ### Values in their order -/

/-- ±m × 2^e. -/
def ratOf (neg : Bool) (m : Nat) (e : Int) : ℚ := (if neg then -(m : ℚ) else m) * 2 ^ e

/-- A value in the order of values: the rationals between the two infinities. -/
def FVal.rank : FVal → WithBot (WithTop ℚ)
  | .nan => 0
  | .inf neg => if neg then ⊥ else ((⊤ : WithTop ℚ) : WithBot (WithTop ℚ))
  | .fin neg m e => ((ratOf neg m e : WithTop ℚ) : WithBot (WithTop ℚ))

theorem coe_rat_lt_top (x : ℚ) : ((x : WithTop ℚ) : WithBot (WithTop ℚ)) < ⊤ := WithBot.coe_lt_coe.2 (WithTop.coe_lt_top x)

theorem scaled_mul_pow (neg : Bool) (m : Nat) {e q : Int} (h : q ≤ e) : (scaled neg m e q : ℚ) * 2 ^ q = ratOf neg m e := by
  have hp : (2 : ℚ) ^ (e - q).toNat * 2 ^ q = 2 ^ e := by
    rw [← zpow_natCast, ← zpow_add₀ (by norm_num), Int.toNat_of_nonneg (by omega), Int.sub_add_cancel]
  unfold scaled ratOf
  cases neg <;> simp [mul_assoc, hp]

theorem scaled_lt_iff (a b : Bool) (m n : Nat) {e f q : Int} (he : q ≤ e) (hf : q ≤ f) :
    scaled a m e q < scaled b n f q ↔ ratOf a m e < ratOf b n f := by
  rw [← scaled_mul_pow a m he, ← scaled_mul_pow b n hf, mul_lt_mul_iff_left₀ (by positivity), Int.cast_lt]

theorem FVal.compare_eq_lt {x y : FVal} (hx : x.isNaN = false) (hy : y.isNaN = false) : x.compare y = .lt ↔ x.rank < y.rank := by
  cases x with
  | nan => cases hx
  | inf a => cases y with
    | nan => cases hy
    | inf b => cases a <;> cases b <;> simp [FVal.compare, FVal.rank]
    | fin b n f => cases a <;> simp [FVal.compare, FVal.rank]
  | fin a m e => cases y with
    | nan => cases hy
    | inf b => cases b <;> simp [FVal.compare, FVal.rank, coe_rat_lt_top]
    | fin b n f =>
      simp only [FVal.compare, FVal.rank, WithBot.coe_lt_coe, WithTop.coe_lt_coe]
      rw [← scaled_lt_iff a b m n (q := if e ≤ f then e else f) (by split <;> omega) (by split <;> omega)]
      grind

theorem FVal.compare_eq_gt {x y : FVal} (hx : x.isNaN = false) (hy : y.isNaN = false) : x.compare y = .gt ↔ y.rank < x.rank := by
  cases x with
  | nan => cases hx
  | inf a => cases y with
    | nan => cases hy
    | inf b => cases a <;> cases b <;> simp [FVal.compare, FVal.rank]
    | fin b n f => cases a <;> simp [FVal.compare, FVal.rank, coe_rat_lt_top]
  | fin a m e => cases y with
    | nan => cases hy
    | inf b => cases b <;> simp [FVal.compare, FVal.rank]
    | fin b n f =>
      simp only [FVal.compare, FVal.rank, WithBot.coe_lt_coe, WithTop.coe_lt_coe]
      rw [← scaled_lt_iff b a n m (q := if e ≤ f then e else f) (by split <;> omega) (by split <;> omega)]
      grind

theorem FVal.le_iff {x y : FVal} (hx : x.isNaN = false) (hy : y.isNaN = false) : x.le y = true ↔ x.rank ≤ y.rank := by
  have h := FVal.compare_eq_gt hx hy
  rw [← not_lt, ← h]
  simp [FVal.le, hx, hy]

/-! ### A scale depends on the value alone (R72) -/

theorem ratOf_scale (neg : Bool) (m : Nat) (e j : Int) : ratOf neg m (e + j) = ratOf neg m e * 2 ^ j := by
  rw [ratOf, ratOf, zpow_add₀ (by norm_num), mul_assoc]

theorem ratOf_eq_zero {neg : Bool} {m : Nat} {e : Int} : ratOf neg m e = 0 ↔ m = 0 := by
  have : (2 : ℚ) ^ e ≠ 0 := zpow_ne_zero _ (by norm_num)
  cases neg <;> simp [ratOf, this]

theorem FVal.scaleBy_isNaN (x : FVal) (j : Int) : (x.scaleBy j).isNaN = x.isNaN := by cases x <;> rfl

theorem FVal.rank_scaleBy {x y : FVal} (hx : x.isNaN = false) (hy : y.isNaN = false) (h : x.rank = y.rank) (j : Int) :
    (x.scaleBy j).rank = (y.scaleBy j).rank := by
  cases x with
  | nan => cases hx
  | inf a => cases y with
    | nan => cases hy
    | inf b => exact h
    | fin b n f => cases a <;> simp [FVal.rank] at h
  | fin a m e => cases y with
    | nan => cases hy
    | inf b => cases b <;> simp [FVal.rank] at h
    | fin b n f =>
      simp only [FVal.rank, WithBot.coe_inj, WithTop.coe_inj] at h
      simp only [FVal.scaleBy, FVal.rank, ratOf_scale, h]

theorem targetMax_isNaN (code : Nat) : (targetMax code).isNaN = false := by
  unfold targetMax
  split <;> rfl

theorem FVal.scaleBy_le_congr {x y : FVal} (hx : x.isNaN = false) (hy : y.isNaN = false) (h : x.rank = y.rank) (j : Int) (code : Nat) :
    (x.scaleBy j).le (targetMax code) = (y.scaleBy j).le (targetMax code) := by
  rw [Bool.eq_iff_iff, FVal.le_iff ((x.scaleBy_isNaN j).trans hx) (targetMax_isNaN code),
    FVal.le_iff ((y.scaleBy_isNaN j).trans hy) (targetMax_isNaN code), FVal.rank_scaleBy hx hy h]

/-- Whether a value is a zero. -/
def FVal.isZero : FVal → Bool
  | .fin _ 0 _ => true
  | _ => false

theorem FVal.isZero_iff {x : FVal} (hx : x.isNaN = false) : x.isZero = true ↔ x.rank = 0 := by
  cases x with
  | nan => cases hx
  | inf a => cases a with
    | false => exact iff_of_false Bool.false_ne_true (coe_rat_lt_top 0).ne'
    | true => exact iff_of_false Bool.false_ne_true WithBot.bot_ne_coe
  | fin a m e =>
    have hz : (FVal.fin a m e).isZero = true ↔ m = 0 := by cases m <;> simp [FVal.isZero]
    rw [hz, ← ratOf_eq_zero (neg := a) (e := e)]
    simp only [FVal.rank]
    norm_cast

/-- The scale of a zero is the least one; any other value takes the first power of two that fits its target. -/
theorem ringScale_eq (m : FVal) (code : Nat) : ringScale m code = if m.isZero then word ((0 + 1023 : Int).toNat * 2 ^ 52) else
    word ((127 - (((List.range 253).find? fun k => (m.scaleBy (127 - (k : Nat))).le (targetMax code)).getD 253 : Nat) + 1023 : Int).toNat *
      2 ^ 52) := by
  unfold ringScale
  split
  · rfl
  · rename_i hz
    have hm : m.isZero = false := by
      unfold FVal.isZero
      split
      · exact absurd rfl (hz _ _)
      · rfl
    rw [hm]
    rfl

theorem ringScale_congr {x y : FVal} (hx : x.isNaN = false) (hy : y.isNaN = false) (h : x.rank = y.rank) (code : Nat) :
    ringScale x code = ringScale y code := by
  have hz : x.isZero = y.isZero := by rw [Bool.eq_iff_iff, FVal.isZero_iff hx, FVal.isZero_iff hy, h]
  simp only [ringScale_eq, hz, FVal.scaleBy_le_congr hx hy h]

/-! ### The largest entry of a ring (R226) -/

/-- The step of the search for the largest value. -/
def larger (m x : FVal) : FVal := if m.compare x == .lt then x else m

theorem foldl_larger_max : (vs : List FVal) → (v : FVal) → (∀ x ∈ v :: vs, x.isNaN = false) →
    vs.foldl larger v ∈ v :: vs ∧ ∀ x ∈ v :: vs, x.rank ≤ (vs.foldl larger v).rank
  | [], v, _ => by simp
  | w :: vs, v, h => by
    simp only [List.forall_mem_cons] at h
    obtain ⟨hv, hw, hvs⟩ := h
    have hlt := FVal.compare_eq_lt hv hw
    have hl : larger v w = v ∨ larger v w = w := by unfold larger; split <;> simp
    have hrank : v.rank ≤ (larger v w).rank ∧ w.rank ≤ (larger v w).rank := by
      unfold larger
      by_cases hc : v.compare w = .lt
      · simp [hc, (hlt.1 hc).le]
      · simp [hc, not_lt.1 (mt hlt.2 hc)]
    have hn : (larger v w).isNaN = false := by rcases hl with h | h <;> rw [h] <;> assumption
    obtain ⟨hm, hmax⟩ := foldl_larger_max vs (larger v w) (List.forall_mem_cons.2 ⟨hn, hvs⟩)
    rw [List.forall_mem_cons] at hmax
    rw [List.foldl_cons]
    refine ⟨?_, ?_⟩
    · rcases List.mem_cons.1 hm with h | h
      · rw [h]; rcases hl with h | h <;> simp [h]
      · simp [h]
    · simp only [List.forall_mem_cons]
      exact ⟨hrank.1.trans hmax.1, hrank.2.trans hmax.1, hmax.2⟩

/-- The values of the entries of a ring. -/
def Ring.values (q : Ring) : List FVal := q.entries.toList.map fun e => Fmt.fp32.value e.toNat

/-- The maximum of a ring takes the scale of every largest entry. -/
theorem ringScale_maximum {q : Ring} {m : FVal} (hm : m ∈ q.values) (hn : m.isNaN = false)
    (hmax : ∀ v ∈ q.values, v.isNaN = false → v.le m = true) (code : Nat) : ringScale q.maximum code = ringScale m code := by
  have hmem : m ∈ q.values.filter fun v => !v.isNaN := by simp [hm, hn]
  cases hf : q.values.filter fun v => !v.isNaN with
  | nil => rw [hf] at hmem; cases hmem
  | cons v vs =>
    have hall : ∀ x ∈ v :: vs, x ∈ q.values ∧ x.isNaN = false := by
      rw [← hf]; intro x hx; simpa using hx
    have hq : q.maximum = vs.foldl larger v := by
      unfold Ring.maximum
      rw [← Ring.values, hf]
      rfl
    obtain ⟨hmem', hrank⟩ := foldl_larger_max vs v fun x hx => (hall x hx).2
    obtain ⟨hv, hvn⟩ := hall _ hmem'
    rw [hq]
    refine ringScale_congr hvn hn (le_antisymm ?_ (hrank m (hf ▸ hmem))) code
    exact (FVal.le_iff hvn hn).1 (hmax _ hv hvn)

end Sys2Proof.Machine
end

section
/-!
Reductions, VAMAX and AMSCL (O17).
-/

namespace Sys2Proof.Machine

open Stated

/-! ### Completing after a change of the hart -/

theorem State.modifyCore_comm {s : State} {c e : CoreId} {f g : Core → Core} (h : ∀ k, f (g k) = g (f k)) :
    (s.modifyCore c f).modifyCore e g = (s.modifyCore e g).modifyCore c f := by
  by_cases hc : c = e
  · subst hc
    rw [State.modifyCore_modifyCore, State.modifyCore_modifyCore, show g ∘ f = f ∘ g from funext fun k => (h k).symm]
  · have hv : c.val ≠ e.val := fun hv => hc (Fin.ext hv)
    simp only [State.modifyCore, Vector.getElem_set_ne _ _ hv, Vector.getElem_set_ne _ _ hv.symm, Vector.set_comm _ _ hv]

/-- A change of a core beside its harts, before and after a change of the hart that acts. -/
theorem State.modifyMe_modifyCore {s : State} {c : CoreId} {g : Core → Core} (f : Hart → Hart)
    (hset : ∀ k x h, (g k).setHart x h = g (k.setHart x h)) (hhart : ∀ k x, (g k).hart x = k.hart x) :
    (s.modifyMe f).modifyCore c g = (s.modifyCore c g).modifyMe f := by
  have hme : (s.modifyCore c g).me = s.me := State.modifyCore_me_of (hhart _)
  have hcomm := State.modifyCore_comm (s := s) (c := s.cur.core) (e := c) (f := fun k => k.setHart s.cur.ctx (f s.me)) (g := g)
    fun k => hset k _ _
  refine hcomm.trans ?_
  rw [State.modifyMe, hme]
  rfl

/-- Busy cycles queue alike before and after a change of the hart that leaves its identity. -/
theorem State.chargeOn_modifyMe {s : State} {f : Hart → Hart} (hid : (f s.me).id = s.me.id) (c : CoreId) (work : List (ActClass × Nat)) :
    (s.modifyMe f).chargeOn c work = (s.chargeOn c work).modifyMe f := by
  have hhanded : ((s.modifyMe f).core c).handed = (s.core c).handed := by
    unfold State.modifyMe State.setMe State.setHart
    by_cases hc : c = s.cur.core
    · subst hc
      rw [State.core_modifyCore, Core.setHart_handed]
    · rw [State.core_modifyCore_ne _ _ _ _ hc]
  have haged : (s.modifyMe f).chargeAged c (s.core c).handed work = (s.chargeAged c (s.core c).handed work).modifyMe f := by
    unfold State.chargeAged
    simp only [State.modifyMe_cur, State.me_modifyMe, hid]
    split
    · exact State.modifyMe_modifyCore f (fun k x h => by unfold Core.setHart; split <;> rfl) fun _ _ => rfl
    · rfl
  unfold State.chargeOn
  rw [hhanded, haged]
  exact State.modifyMe_modifyCore f (fun k x h => by unfold Core.setHart; split <;> rfl) fun _ _ => rfl

theorem State.chargeUses_modifyMe {s : State} {f : Hart → Hart} (hid : (f s.me).id = s.me.id) (hgang : (f s.me).gang = s.me.gang)
    (u : Uses) : (s.modifyMe f).chargeUses u = (s.chargeUses u).modifyMe f := by
  have hcharge (c : CoreId) (work : List (ActClass × Nat)) := State.chargeOn_modifyMe hid c work
  have hme (c : CoreId) (work : List (ActClass × Nat)) : (s.chargeOn c work).me = s.me := (s.sameSlots_chargeOn c work).2.2.1
  unfold State.chargeUses State.chargeLanes State.charge
  simp only [State.modifyMe_cur, State.me_modifyMe, hgang, hcharge]
  split
  · split
    · exact State.chargeOn_modifyMe (by rw [hme, hid]) _ _
    · rfl
  · rfl

/-- Two changes of the hart that completing an instruction makes one. -/
theorem State.complete_congr {s : State} {f g : Hart → Hart} {u : Uses} {pc : Word} (hf : (f s.me).id = s.me.id ∧ (f s.me).gang = s.me.gang)
    (hg : (g s.me).id = s.me.id ∧ (g s.me).gang = s.me.gang) (h : (f s.me).completed u pc = (g s.me).completed u pc) :
    (s.modifyMe f).complete u pc = (s.modifyMe g).complete u pc := by
  have hme := (s.sameSlots_chargeUses u).2.2.1
  rw [State.complete_eq, State.complete_eq, State.chargeUses_modifyMe hf.1 hf.2, State.chargeUses_modifyMe hg.1 hg.2,
    State.modifyMe_modifyMe, State.modifyMe_modifyMe]
  exact State.modifyMe_congr (by rw [hme]; exact h)

/-! ### An instruction that begins again (log 60) -/

theorem Hart.redo_eq (h : Hart) : ∃ e p, h.redo = { h with eltDone := e, popFault := p } := by
  unfold Hart.redo
  split
  · exact ⟨0, false, rfl⟩
  · exact ⟨h.eltDone, h.popFault, rfl⟩

theorem State.rounding_redo (s : State) (i : Nat) : (s.modifyMe Hart.redo).rounding i = s.rounding i := by
  obtain ⟨e, p, h⟩ := s.me.redo_eq
  have hs : (s.modifyMe Hart.redo).myCore.srhen = s.myCore.srhen := by
    unfold State.myCore State.modifyMe State.setMe State.setHart
    rw [State.modifyCore_cur, State.core_modifyCore, Core.setHart_srhen]
  unfold State.rounding
  rw [State.me_modifyMe, h, hs]
  rfl

/-- Completing leaves nothing of what an earlier attempt has noted. -/
theorem State.complete_redo_writeV (s : State) (u : Uses) (pc : Word) (d : Reg) (x : Nat) :
    ((s.modifyMe Hart.redo).modifyMe fun h => h.writeV d x).complete u pc = (s.modifyMe fun h => h.writeV d x).complete u pc := by
  obtain ⟨e, p, h⟩ := s.me.redo_eq
  rw [State.modifyMe_modifyMe]
  exact State.complete_congr (by rw [h]; exact ⟨rfl, rfl⟩) ⟨rfl, rfl⟩ (by rw [h]; rfl)

/-! ### Reductions (R227) -/

/-- The elements of A below n, a missing one where m0 is clear. -/
def Hart.reducible (h : Hart) (a : Reg) (n : Nat) : List (Option Nat) :=
  (List.range n).map fun j => if h.masked j then some (vElem h a j) else none

/-- What a reduction writes: the sum of fixed shape, with the identity, where there is one, combined for what is missing. -/
def State.reduced (s : State) (op : Hart → Rounding → Nat → Nat → Nat) (identity : Hart → Option Nat) (a : Reg) (n : Nat) : Nat :=
  let combine (i x y : Nat) : Nat := op s.me { s.rounding 0 with r := 0, e := i } x y
  let sum := fixedSum combine (s.me.reducible a n)
  (identity s.me).elim (sum.getD 0) fun e => combine 0 (sum.getD e) e

/-- What a reduction of n elements asks of the hart. -/
def State.reduceUses (s : State) (isFloat : Bool) (d a : Reg) (b : Src) (fa : Bool) (n : Nat) : Uses :=
  { s.elemUses .vint d a b fa false with
    illegal := isFloat && s.me.sewCode == 0
    work := [(if isFloat then s.me.floatClass else .vint, s.tileCycles n)] }

/-- An operation and its identity do not see what an earlier attempt has noted in the hart. -/
def SeesNoAttempt (op : Hart → Rounding → Nat → Nat → Nat) (identity : Hart → Option Nat) : Prop :=
  ∀ (h : Hart) (e : Nat) (p : Bool), op { h with eltDone := e, popFault := p } = op h ∧
    identity { h with eltDone := e, popFault := p } = identity h

theorem reduce_of_unbound {isFloat : Bool} {op : Hart → Rounding → Nat → Nat → Nat} {identity : Hart → Option Nat} {s : State}
    {d a : Reg} {b : Src} {fa : Bool} {n : Nat} (hb : (s.me.srcWord b).toNat = n) (hn : n ≤ s.me.vlmaxSew)
    (hub : Unbound s.me [d, a]) (hs : SeesNoAttempt op identity) (ha : s.Admits (s.reduceUses isFloat d a b fa n)) : reduce isFloat op identity d a b fa s =
      .next (s.after (s.reduceUses isFloat d a b fa n) fun h =>
        h.writeV d (setField (s.me.readV d) (0 * s.me.sew) s.me.sew (s.reduced op identity a n))) := by
  subst hb
  have huba : Unbound s.me [a] := unbound_of_subset hub (by simp)
  have hur := State.unbound_redo huba
  have hd : (s.modifyMe Hart.redo).me.streamOf d = none := State.unbound_redo hub d (by simp)
  obtain ⟨e, p, hredo⟩ := s.me.redo_eq
  have hbegun := s.begun_of_open (u := s.reduceUses isFloat d a b fa (s.me.srcWord b).toNat) rfl
  refine (issue_of_admits (t := (s.modifyMe Hart.redo).modifyMe fun h =>
    h.writeV d (setField (s.me.readV d) (0 * s.me.sew) s.me.sew (s.reduced op identity a (s.me.srcWord b).toNat))) ha ?_).trans
      (congrArg Host.Outcome.next (s.complete_redo_writeV _ _ d _))
  rw [hbegun, if_neg (Nat.not_lt.2 hn)]
  refine State.withWhole_of_unbound huba ?_ (by rw [State.me_modifyMe]; exact unbound_congr rfl hur)
  dsimp only
  rw [State.contentBits_of_unbound hur, State.takeContent_of_unbound hur, tileOfName_self]
  unfold State.writeOne
  rw [hd]
  refine congrArg Except.ok (State.modifyMe_congr ?_)
  obtain ⟨hop, hid⟩ := hs s.me e p
  simp only [State.rounding_redo, State.me_modifyMe, hredo, hop, hid]
  unfold State.reduced
  cases identity s.me <;> rfl

/-! ### Element 0 of D -/

theorem elem_setField (w x v j : Nat) : elem w (setField x (0 * w) w v) j = if j = 0 then v % 2 ^ w else elem w x j := by
  unfold elem
  split
  · rename_i h
    subst h
    exact fieldOf_setField _ _ _ _
  · rename_i h
    refine fieldOf_setField_of_disjoint (.inl ?_)
    rw [Nat.zero_mul, Nat.zero_add]
    exact Nat.le_mul_of_pos_left w (Nat.pos_of_ne_zero h)

/-- A reduction goes on with its result in element 0 of D, and the other elements as they were. -/
def Reduces (i : Instr) (s : State) (u : Uses) (d : Reg) (v : Nat) : Prop :=
  ∃ x, exec i s = .next (s.after u fun h => h.writeV d x) ∧ elem s.me.sew x 0 = v ∧ ∀ j, j ≠ 0 → elem s.me.sew x j = vElem s.me d j

theorem reduces_of_reduce {i : Instr} {isFloat : Bool} {op : Hart → Rounding → Nat → Nat → Nat} {identity : Hart → Option Nat} {s : State}
    {d a : Reg} {b : Src} {fa : Bool} {n v : Nat} (hi : exec i s = reduce isFloat op identity d a b fa s)
    (hb : (s.me.srcWord b).toNat = n) (hn : n ≤ s.me.vlmaxSew) (hub : Unbound s.me [d, a]) (hs : SeesNoAttempt op identity)
    (ha : s.Admits (s.reduceUses isFloat d a b fa n)) (hv : s.reduced op identity a n % 2 ^ s.me.sew = v) :
    Reduces i s (s.reduceUses isFloat d a b fa n) d v :=
  ⟨_, hi.trans (reduce_of_unbound hb hn hub hs ha), by rw [elem_setField, if_pos rfl, hv],
    fun j hj => by rw [elem_setField, if_neg hj]; rfl⟩

/-! ### Integer reductions -/

theorem Hart.sew_pos (h : Hart) : 0 < h.sew := Nat.mul_pos (by omega) (Nat.two_pow_pos _)

theorem vElem_lt (h : Hart) (r : Reg) (j : Nat) : vElem h r j < 2 ^ h.sew := Nat.mod_lt _ (Nat.two_pow_pos _)

theorem present_lt (h : Hart) (a : Reg) (n : Nat) : ∀ x ∈ present h a n, x < 2 ^ h.sew := by
  intro x hx
  obtain ⟨j, -, rfl⟩ := List.mem_map.1 hx
  exact vElem_lt h a j

/-- A reduction with an identity, whose operation `φ` turns into `g`, is one fold over the values present. -/
theorem State.reduced_eq_foldl {β : Type} {g : β → β → β} [Std.Associative g] [Std.Commutative g] {φ : Nat → β} {s : State}
    {op : Hart → Rounding → Nat → Nat → Nat} {identity : Hart → Option Nat} {e0 : Nat} (h0 : identity s.me = some e0)
    (he : g (φ e0) (φ e0) = φ e0) (hop : ∀ rd x y, φ (op s.me rd x y) = g (φ x) (φ y)) (a : Reg) (n : Nat) :
    φ (s.reduced op identity a n) = ((present s.me a n).map φ).foldl g (φ e0) := by
  unfold State.reduced
  rw [h0, ← filterMap_present]
  exact fixedSum_eq_foldl (op := fun i => op s.me { s.rounding 0 with r := 0, e := i }) he (fun i x y => hop _ x y) rfl _

theorem State.reduced_sum (s : State) (a : Reg) (n : Nat) :
    s.reduced (fun h _ x y => (x + y) % 2 ^ h.sew) (fun _ => some 0) a n % 2 ^ s.me.sew = (present s.me a n).sum % 2 ^ s.me.sew := by
  have : Std.Associative fun x y : Nat => (x + y) % 2 ^ s.me.sew := ⟨fun x y z => by simp [Nat.add_assoc]⟩
  have : Std.Commutative fun x y : Nat => (x + y) % 2 ^ s.me.sew := ⟨fun x y => by simp [Nat.add_comm]⟩
  have h := State.reduced_eq_foldl (s := s) (g := fun x y => (x + y) % 2 ^ s.me.sew) (φ := id)
    (op := fun h _ x y => (x + y) % 2 ^ h.sew) (identity := fun _ => some 0) rfl (Nat.zero_mod _) (fun _ _ _ => rfl) a n
  rw [List.map_id, id] at h
  rw [h, foldl_add_mod, id, Nat.zero_add]

theorem State.reduced_max (s : State) (a : Reg) (n : Nat) :
    s.reduced (fun h _ x y => maxSigned h.sew x y) (fun h => some (signedExtreme false h)) a n % 2 ^ s.me.sew =
      wrap s.me.sew (((present s.me a n).map (signed s.me.sew)).foldl max (-(2 ^ (s.me.sew - 1) : Nat))) := by
  have h := State.reduced_eq_foldl (s := s) (g := max) (φ := signed s.me.sew) (op := fun h _ x y => maxSigned h.sew x y)
    (identity := fun h => some (signedExtreme false h)) rfl (max_self _) (fun _ x y => signed_maxSigned _ x y) a n
  have he : signed s.me.sew (signedExtreme false s.me) = -(2 ^ (s.me.sew - 1) : Nat) := signed_two_pow s.me.sew_pos
  rw [← he, ← h, wrap_signed]

theorem State.reduced_min (s : State) (a : Reg) (n : Nat) :
    s.reduced (fun h _ x y => minSigned h.sew x y) (fun h => some (signedExtreme true h)) a n % 2 ^ s.me.sew =
      wrap s.me.sew (((present s.me a n).map (signed s.me.sew)).foldl min ((2 ^ (s.me.sew - 1) : Nat) - 1)) := by
  have h := State.reduced_eq_foldl (s := s) (g := min) (φ := signed s.me.sew) (op := fun h _ x y => minSigned h.sew x y)
    (identity := fun h => some (signedExtreme true h)) rfl (min_self _) (fun _ x y => signed_minSigned _ x y) a n
  have hp := Nat.two_pow_pos (s.me.sew - 1)
  have he : signed s.me.sew (signedExtreme true s.me) = (2 ^ (s.me.sew - 1) : Nat) - 1 :=
    (signed_of_lt s.me.sew_pos (Nat.sub_lt hp Nat.one_pos)).trans (Int.natCast_pred_of_pos hp)
  rw [← he, ← h, wrap_signed]

theorem State.reduced_and (s : State) (a : Reg) (n : Nat) :
    s.reduced (fun _ _ x y => x &&& y) (fun h => some (2 ^ h.sew - 1)) a n % 2 ^ s.me.sew =
      (present s.me a n).foldl (· &&& ·) (2 ^ s.me.sew - 1) := by
  have h := State.reduced_eq_foldl (s := s) (g := fun x y => x &&& y) (φ := id) (op := fun _ _ x y => x &&& y)
    (identity := fun h => some (2 ^ h.sew - 1)) rfl (Nat.and_self _) (fun _ _ _ => rfl) a n
  rw [List.map_id, id] at h
  rw [h]
  exact Nat.mod_eq_of_lt (lt_of_le_of_lt (foldl_and_le _ _) (Nat.sub_lt (Nat.two_pow_pos _) Nat.one_pos))

theorem State.reduced_or (s : State) (a : Reg) (n : Nat) :
    s.reduced (fun _ _ x y => x ||| y) (fun _ => some 0) a n % 2 ^ s.me.sew = (present s.me a n).foldl (· ||| ·) 0 := by
  have h := State.reduced_eq_foldl (s := s) (g := fun x y => x ||| y) (φ := id) (op := fun _ _ x y => x ||| y)
    (identity := fun _ => some 0) rfl (Nat.or_self _) (fun _ _ _ => rfl) a n
  rw [List.map_id, id] at h
  rw [h]
  exact Nat.mod_eq_of_lt (foldl_or_lt _ _ (Nat.two_pow_pos _) (present_lt s.me a n))

/-- The integer reductions, table entry by table entry. -/
theorem integerReductions {s : State} {d a : Reg} {b : Src} {fa : Bool} {n : Nat} (hb : (s.me.srcWord b).toNat = n)
    (hn : n ≤ s.me.vlmaxSew) (hub : Unbound s.me [d, a]) (ha : s.Admits (s.reduceUses false d a b fa n)) :
    ∀ e ∈ integerReductionTable, Reduces (e.1 d a b fa) s (s.reduceUses false d a b fa n) d (e.2 s.me.sew (present s.me a n)) := by
  simp only [integerReductionTable, List.forall_mem_cons]
  exact ⟨reduces_of_reduce (exec_vredsum d a b fa s) hb hn hub (fun _ _ _ => ⟨rfl, rfl⟩) ha (s.reduced_sum a n),
    reduces_of_reduce (exec_vredmax d a b fa s) hb hn hub (fun _ _ _ => ⟨rfl, rfl⟩) ha (s.reduced_max a n),
    reduces_of_reduce (exec_vredmin d a b fa s) hb hn hub (fun _ _ _ => ⟨rfl, rfl⟩) ha (s.reduced_min a n),
    reduces_of_reduce (exec_vredand d a b fa s) hb hn hub (fun _ _ _ => ⟨rfl, rfl⟩) ha (s.reduced_and a n),
    reduces_of_reduce (exec_vredor d a b fa s) hb hn hub (fun _ _ _ => ⟨rfl, rfl⟩) ha (s.reduced_or a n), by simp⟩

/-! ### Float reductions -/

theorem Fmt.value_nan_isNaN (f : Fmt) : (f.value f.nan).isNaN = true := by cases f <;> decide

/-- The identity of a maximum makes of a lone NaN the canonical one, and leaves a number. -/
theorem maxBits_nan (f : Fmt) (o : Option Nat) : maxBits f (o.getD f.nan) f.nan = canonical f o := by
  cases o with
  | none => simp [maxBits, canonical, f.value_nan_isNaN]
  | some x => simp [maxBits, canonical, f.value_nan_isNaN]

theorem minBits_nan (f : Fmt) (o : Option Nat) : minBits f (o.getD f.nan) f.nan = canonical f o := by
  cases o with
  | none => simp [minBits, canonical, f.value_nan_isNaN]
  | some x => simp [minBits, canonical, f.value_nan_isNaN]

/-- The float reductions, table entry by table entry. -/
theorem floatReductions {s : State} {d a : Reg} {b : Src} {fa : Bool} {n : Nat} (hb : (s.me.srcWord b).toNat = n)
    (hn : n ≤ s.me.vlmaxSew) (hub : Unbound s.me [d, a]) (ha : s.Admits (s.reduceUses true d a b fa n)) :
    ∀ e ∈ floatReductionTable, Reduces (e.1 d a b fa) s (s.reduceUses true d a b fa n) d
      (e.2.2 s.me.fmt (fixedSum (fun i x y => e.2.1 s.me.fmt { s.rounding 0 with r := 0, e := i } x y) (s.me.reducible a n)) %
        2 ^ s.me.sew) := by
  simp only [floatReductionTable, List.forall_mem_cons]
  exact ⟨reduces_of_reduce (exec_vredfsum d a b fa s) hb hn hub (fun _ _ _ => ⟨rfl, rfl⟩) ha rfl,
    reduces_of_reduce (exec_vredfmax d a b fa s) hb hn hub (fun _ _ _ => ⟨rfl, rfl⟩) ha
      (congrArg (· % 2 ^ s.me.sew) (maxBits_nan s.me.fmt _)),
    reduces_of_reduce (exec_vredfmin d a b fa s) hb hn hub (fun _ _ _ => ⟨rfl, rfl⟩) ha
      (congrArg (· % 2 ^ s.me.sew) (minBits_nan s.me.fmt _)), by simp⟩

/-! ### The ring of VAMAX (R71, R225) -/

theorem vget_vset_same {α : Type} {n : Nat} (v : Vector α n) {i : Nat} (hi : i < n) (x d : α) : vget (vset v i x) i d = x := by
  simp [vget, vset, hi]

theorem vget_vset_ne {α : Type} {n : Nat} (v : Vector α n) {i k : Nat} (h : i ≠ k) (x d : α) : vget (vset v i x) k d = vget v k d := by
  unfold vset
  split
  · unfold vget
    split
    · exact Vector.getElem_set_ne _ _ h
    · rfl
  · rfl

/-- The largest magnitude of VAMAX joins its ring. -/
theorem vamax_goes {s t : State} {a b : Reg} {fa : Bool} {u : Uses} (hu : u =
      { illegal := s.me.sewCode == 0
        regs := [⟨0, a, s.me.isVector a⟩, ⟨1, b, isBelow s.me.ringCount b⟩]
        vown := true, sources := [⟨0, .v, a, fa⟩], reads := [a], lanes := true, commits := true
        work := [(s.me.floatClass, s.tileCycles s.me.tile)] }) (ht : t = s.begun u) (ha : s.Admits u) (hub : Unbound t.me [a]) :
    Goes (.vamax a b fa) s u ((t.modifyMe Hart.redo).modifyMe fun h =>
      h.recordMax b (((List.range t.me.tile).filter t.me.masked).map fun j => t.me.fmt.value (vElem t.me a j))) := by
  subst hu
  refine goes_of_body (exec_vamax a b fa s) ha ?_
  rw [← ht]
  refine State.withWhole_of_unbound hub ?_ (by rw [State.me_modifyMe]; exact unbound_congr rfl (State.unbound_redo hub))
  obtain ⟨e, p, hredo⟩ := t.me.redo_eq
  rw [tileOfName_self]
  refine congrArg Except.ok (State.modifyMe_congr ?_)
  rw [State.me_modifyMe, hredo]
  rfl

/-- A ring with one more entry at its head. -/
theorem Hart.ring_recordMax (h : Hart) {b : Reg} (hb : b.toNat < 16) (vs : List FVal) :
    vget (h.recordMax b vs).vec.rings b.toNat {} =
      { entries := vset (vget h.vec.rings b.toNat {}).entries (vget h.vec.rings b.toNat {}).head.toNat (BitVec.ofNat 32 (ringEntry vs))
        head := (vget h.vec.rings b.toNat {}).head + 1 } := vget_vset_same _ hb _ _

theorem Hart.ring_recordMax_ne (h : Hart) {b : Reg} {k : Nat} (hk : k ≠ b.toNat) (vs : List FVal) :
    vget (h.recordMax b vs).vec.rings k {} = vget h.vec.rings k {} := vget_vset_ne _ hk.symm _ _

/-- Settles O17: the reductions by their tables, VAMAX by the entry that joins its ring, AMSCL by the order of values. -/
theorem reductionAndAbsmaxResults : Obligations.ReductionAndAbsmaxResults := by
  unfold Obligations.ReductionAndAbsmaxResults
  refine ⟨fun s d a b fa => ?_, fun s d a b fa => ⟨?_, ?_⟩⟩
  · intro h n hn _ hub
    exact ⟨fun ha => integerReductions rfl hn hub ha, fun ha => floatReductions rfl hn hub ha⟩
  · intro u h ha hub hb
    obtain ⟨e, p, hredo⟩ := h.redo_eq
    refine ⟨_, vamax_goes rfl rfl ha hub, by rw [State.me_complete, Hart.completed_pc]; rfl, ?_⟩
    rw [State.me_complete, Hart.completed_x, Hart.completed_vec, State.me_modifyMe, State.me_modifyMe, hredo]
    refine ⟨rfl, rfl, ?_, fun k hk => ?_, fun k => ?_⟩
    · rw [Hart.ring_recordMax _ hb]
    · rw [Hart.ring_recordMax_ne _ hk]
    · rw [Hart.ring_recordMax _ hb]
      split
      · rename_i hk
        subst hk
        exact vget_vset_same _ (BitVec.isLt _) _ _
      · rename_i hk
        exact vget_vset_ne _ (fun e => hk (BitVec.eq_of_toNat_eq e.symm)) _ _
  · intro u entries ha m hm hn hmax
    refine (exec_amscl d a b s).trans (issue_after (u := u) ha rfl (congrArg Except.ok (State.modifyMe_congr ?_)))
    exact congrArg (s.me.writeX d) (ringScale_maximum hm hn hmax b.toNat)

end Sys2Proof.Machine
end

section
/-!
The atomics (O9): a word of main memory read, and written anew in the same act.
-/

namespace Sys2Proof.Machine

open Stated

/-! ### A word that an rmw meets nothing at (R241, R273) -/

/-- The address register names an aligned word of main memory that is not poisoned and that no follow-on of the hart has
still to read. -/
structure FreeWord (s : State) (a : Reg) (pa : Nat) : Prop where
  aligned : (s.me.readX a).toNat % 8 = 0
  placed : s.place .memory .rmw (s.me.readX a) = .ok (.main pa)
  clean : s.dev.isPoisoned pa = false
  unblocked : s.blocksWrite [(.main pa, 8)] = false

/-- The word counted and brought to D. -/
def State.tookWord (s : State) (d : Reg) (pa : Nat) : State :=
  (s.count (.main pa)).modifyMe fun h => h.writeX d (word (s.getWord pa))

/-- The addition that AMOFADD makes at a word. -/
def floatAdd (pa : Nat) (x : Word) : ScatterAdd := { pa := BitVec.ofNat 52 pa, log2Size := 3, isFloat := true, bf := false, addend := x }

/-- The state that an atomic leaves with the new word in hand, none where nothing is written. -/
def State.rmwWord (s : State) (float : Bool) (d b : Reg) (pa : Nat) : Option Word → State
  | some x =>
    if float && !s.me.det then (s.tookWord d pa).addUnordered (floatAdd pa (s.me.readX b)) else (s.tookWord d pa).putWord pa x.toNat
  | none => s.tookWord d pa

/-- An atomic at a free word, with the order of a float sum as DET and SCOPE allow it. -/
theorem scalarAtomic_of_free {readsD float : Bool} {f : Word → Word → Word → Option Word} {s t : State} {d a b : Reg} {ord : BitVec 2}
    {fa fb : Bool} {pa : Nat} {u : Uses} (hu : u = atomicUses readsD d a b fa fb (ordRelease s.me ord)) (ht : t = s.begun u)
    (ha : s.Admits u) (hf : FreeWord t a pa) (hd : float = true → t.me.det = true → t.me.scope = 0) :
    scalarAtomic readsD float f d a b ord fa fb s =
      .next ((t.rmwWord float d b pa (f (word (t.getWord pa)) (t.me.readX b) (t.me.readX d))).complete u (s.me.pc + 4)) := by
  obtain ⟨haligned, hplaced, hclean, hunblocked⟩ := hf
  have hdet : (float && t.me.det && decide (t.me.scope ≠ 0)) = false := by
    cases float with
    | false => rfl
    | true =>
      cases hdt : t.me.det with
      | false => rfl
      | true => simp [hd rfl hdt]
  subst hu
  refine issue_of_admits (u := atomicUses readsD d a b fa fb (ordRelease s.me ord)) ha ?_
  rw [← ht]
  simp only [isAligned, haligned, beq_self_eq_true, Bool.not_true, Bool.false_eq_true, if_false, hplaced, hdet,
    State.isPoisonedAt, hclean, hunblocked, show t.readPlace (.main pa) 8 = t.getWord pa from rfl]
  cases f (word (t.getWord pa)) (t.me.readX b) (t.me.readX d) with
  | none => rfl
  | some x => exact (apply_ite Except.ok _ _ _).symm

/-! ### The operations (R273) -/

/-- The smaller of two signed words, and the larger. -/
theorem ite_slt_eq_ite_toInt_le {x y u v : Word} (h : x = y → u = v) : (if x.slt y then u else v) = if x.toInt ≤ y.toInt then u else v := by
  rcases lt_trichotomy x.toInt y.toInt with hlt | heq | hgt
  · rw [if_pos (by simpa [BitVec.slt] using hlt), if_pos hlt.le]
  · rw [h (BitVec.eq_of_toInt_eq heq), ite_self, ite_self]
  · rw [if_neg (by simpa [BitVec.slt] using hgt.le), if_neg (by omega)]

/-- The smaller of two unsigned words, and the larger. -/
theorem ite_lt_eq_ite_toNat_le {x y u v : Word} (h : x = y → u = v) : (if x < y then u else v) = if x.toNat ≤ y.toNat then u else v := by
  rcases lt_trichotomy x.toNat y.toNat with hlt | heq | hgt
  · rw [if_pos (BitVec.lt_def.2 hlt), if_pos hlt.le]
  · rw [h (BitVec.eq_of_toNat_eq heq), ite_self, ite_self]
  · rw [if_neg (by rw [BitVec.lt_def]; omega), if_neg (by omega)]

theorem exec_of_mem_atomicTable (d a b : Reg) (ord : BitVec 2) (fa fb : Bool) (s : State) :
    ∀ e ∈ atomicTable, exec (e.1 d a b ord fa fb) s = atomicOp e.2 d a b ord fa fb s := by
  have op {f g : Word → Word → Word} (h : ∀ x y, f x y = g x y) : atomicOp f d a b ord fa fb s = atomicOp g d a b ord fa fb s := by
    rw [show f = g from funext fun x => funext (h x)]
  simp only [atomicTable, List.forall_mem_cons]
  refine ⟨exec_amoadd .., exec_amoand .., exec_amoor .., exec_amoxor .., (exec_amomins ..).trans (op fun x y => ?_),
    (exec_amomaxs ..).trans (op fun x y => ?_), (exec_amominu ..).trans (op fun x y => ?_), (exec_amomaxu ..).trans (op fun x y => ?_),
    exec_amoswap .., by simp⟩
  · exact ite_slt_eq_ite_toInt_le id
  · exact ite_slt_eq_ite_toInt_le Eq.symm
  · exact ite_lt_eq_ite_toNat_le id
  · exact ite_lt_eq_ite_toNat_le Eq.symm

/-! ### A sum is a pattern of its format (R53) -/

theorem Fmt.two_pow_width (f : Fmt) : 2 ^ f.width = 2 ^ (f.width - 1) + 2 ^ (f.width - 1) := by cases f <;> rfl

theorem Fmt.signBit_add_lt {f : Fmt} (neg : Bool) {x : Nat} (h : x < 2 ^ (f.width - 1)) : f.signBit neg + x < 2 ^ f.width := by
  rw [Fmt.two_pow_width]
  unfold Fmt.signBit
  split <;> omega

theorem Fmt.special_lt (f : Fmt) : f.maxFinite < 2 ^ (f.width - 1) ∧ f.inf < 2 ^ (f.width - 1) ∧ f.nan < 2 ^ (f.width - 1) := by
  cases f <;> decide

theorem roundFin_lt (f : Fmt) (rd : Rounding) (neg : Bool) (m : Nat) (e : Int) : roundFin f rd neg m e < 2 ^ f.width := by
  obtain ⟨hmax, hinf, -⟩ := f.special_lt
  have hlt {x : Nat} (h : x < 2 ^ (f.width - 1)) := Fmt.signBit_add_lt neg h
  have hfits (pat : Nat) : (if pat ≤ f.maxFinite then f.signBit neg + pat
      else if f = .e4m3 ∨ f = .e5m2 then f.signBit neg + f.maxFinite
      else if overflowsToInf rd neg then f.signBit neg + f.inf else f.signBit neg + f.maxFinite) < 2 ^ f.width := by
    split
    · exact hlt (lt_of_le_of_lt ‹_› hmax)
    · split
      · exact hlt hmax
      · split
        · exact hlt hinf
        · exact hlt hmax
  unfold roundFin
  split
  · exact hlt (Nat.two_pow_pos _)
  · exact hfits _

theorem roundF_lt (f : Fmt) (rd : Rounding) (v : FVal) : roundF f rd v < 2 ^ f.width := by
  obtain ⟨hmax, hinf, hnan⟩ := f.special_lt
  cases v with
  | nan => exact lt_of_lt_of_le hnan (Nat.pow_le_pow_right (by omega) (by omega))
  | inf neg =>
    change (if f = .e4m3 then f.signBit neg + f.maxFinite else f.signBit neg + f.inf) < _
    split
    · exact Fmt.signBit_add_lt neg hmax
    · exact Fmt.signBit_add_lt neg hinf
  | fin neg m e => exact roundFin_lt f rd neg m e

/-! ### A float sum in no fixed order (R75, R274) -/

theorem State.sameView_tookWord (s : State) (d : Reg) (pa : Nat) : s.SameView (s.tookWord d pa) :=
  (s.sameView_count _).trans (State.sameView_modifyMe _ _)

theorem State.SameView.leavesAt {s t : State} (h : s.SameView t) (add : ScatterAdd) : t.dev.leavesAt add = s.dev.leavesAt add := by
  obtain ⟨hm, -, -, hs, -⟩ := h.dev_eq
  unfold Device.leavesAt Device.load
  rw [hm, hs]

/-- An addition to a word: a tree over what the word stands for and the addend. -/
theorem State.addUnordered_word {s : State} {pa : Nat} {x : Word} (hpa : pa < 2 ^ 52) (hw : s.dev.mem.wf = true) :
    let t := s.addUnordered (floatAdd pa x)
    t.me = s.me ∧ (∀ y, y < pa ∨ pa + 8 ≤ y → t.dev.mem.byte y = s.dev.mem.byte y) ∧
      ∃ y, TreeOf (addBits .fp64 .nearest) (s.dev.leavesAt (floatAdd pa x) ++ [x.toNat]) y ∧ t.getWord pa = y % 2 ^ 64 := by
  intro t
  have hat : (floatAdd pa x).pa.toNat = pa := by simp [floatAdd]; omega
  have hx : (floatAdd pa x).addend.toNat % 2 ^ (8 * scatterBytes (floatAdd pa x)) = x.toNat := Nat.mod_eq_of_lt x.isLt
  set xs := s.dev.leavesAt (floatAdd pa x) ++ [x.toNat] with hxs
  set y := treeSum (addBits .fp64 .nearest) s.pick (xs.length - 1) xs with hy
  have hmem : t.dev.mem = s.dev.mem.write pa 8 y := by
    have h : t.dev.mem = s.dev.mem.write (floatAdd pa x).pa.toNat 8 _ := rfl
    rw [h, hat, hx]
    rfl
  refine ⟨rfl, fun b hb => ?_, y, treeOf_treeSum _ _ _ _ (by simp [hxs]) (Nat.sub_add_cancel (by simp [hxs])).ge, ?_⟩
  · rw [hmem, Mem.byte_write_of_outside hw hb]
  · unfold State.getWord Device.load
    rw [hmem, Mem.read_write hw]
    norm_num

/-- Settles O9: `scalarAtomic_of_free` for each operation, and `State.addUnordered_word` for a sum in no fixed order. -/
theorem atomicsComplete : Obligations.AtomicsComplete := by
  unfold Obligations.AtomicsComplete
  intro s d a b ord fa fb pa release free
  have freeWord {s1 : State} : free s1 → FreeWord s1 a pa := fun ⟨haligned, hplaced, hclean, hunblocked⟩ =>
    ⟨haligned, hplaced, hclean, hunblocked⟩
  refine ⟨?always, ?cas⟩
  case always =>
    intro e he u s1 old s2 add ha hf
    replace hf := freeWord hf
    refine ⟨?_, fun hdet hscope => ?_, fun hdet hpa hw => ?_⟩
    · exact (exec_of_mem_atomicTable d a b ord fa fb s e he).trans (scalarAtomic_of_free rfl rfl ha hf nofun)
    · refine (exec_amofadd d a b ord fa fb s).trans ((scalarAtomic_of_free (t := s1) rfl rfl ha hf fun _ _ => hscope).trans ?_)
      have hsum (x y : Nat) : (word (addBits .fp64 .nearest x y)).toNat = addBits .fp64 .nearest x y :=
        Nat.mod_eq_of_lt (roundF_lt .fp64 _ _)
      rw [State.rmwWord, hdet, hsum]
      rfl
    · have hview := s1.sameView_tookWord d pa
      obtain ⟨hme, hout, y, hy, hword⟩ := State.addUnordered_word (s := s1.tookWord d pa) (x := s1.me.readX b) hpa
        (by rw [hview.dev_eq.1]; exact hw)
      rw [hview.leavesAt] at hy
      refine ⟨_, (exec_amofadd d a b ord fa fb s).trans ((scalarAtomic_of_free (t := s1) rfl rfl ha hf fun _ h => ?_).trans ?_), hme,
        fun x hx => (hout x hx).trans (by rw [hview.dev_eq.1]), y, hy, hword⟩
      · exact absurd h (by rw [hdet]; exact Bool.false_ne_true)
      · rw [State.rmwWord, hdet]
        rfl
  case cas =>
    intro u s1 old ha hf
    refine (exec_amocas d a b ord fa fb s).trans
      ((scalarAtomic_of_free (readsD := true) (float := false) (t := s1) rfl rfl ha (freeWord hf) nofun).trans ?_)
    by_cases he : old = s1.me.readX d
    · rw [if_pos he, if_pos he]
      rfl
    · rw [if_neg he, if_neg he]
      rfl

end Sys2Proof.Machine
end

section
/-!
MMA (O27): the slot that it binds, and the rows that it does in one act.
-/

namespace Sys2Proof.Machine

open Stated

/-! ### Binding a slot leaves what the load pipes read -/

theorem State.sameReads_bindSlot {s t : State} {z : Reg} {kind : ZKind} (h : s.bindSlot z kind = .ok t) : s.SameReads t := by
  unfold State.bindSlot at h
  split at h
  · cases h
  · cases h
    exact s.sameReads_modifyCore _ rfl ⟨rfl, rfl⟩ fun _ => rfl

theorem State.sameReads_bindIfNeeded {s t : State} {z : Reg} {kind : ZKind} (h : s.bindIfNeeded z kind = .ok t) : s.SameReads t := by
  cases hz : s.slotOf z with
  | some q =>
    rw [State.bindIfNeeded_of_some kind hz] at h
    cases h
    exact .refl s
  | none => exact State.sameReads_bindSlot ((State.bindIfNeeded_of_none kind hz).symm.trans h)

theorem State.sameReads_prepareMma {s t : State} {z a b : Reg} {fmt : BitVec 4} {kn : BitVec 2} {acc : Bool} {w : MmaWork}
    (h : s.prepareMma z a b fmt kn acc = .ok (w, t)) : s.SameReads t := by
  unfold State.prepareMma at h
  dsimp only at h
  split at h
  · cases h
  · split at h
    · cases h
    · split at h
      · cases h
      · split at h
        · cases h
        · split at h
          · cases h
          · rename_i hb
            cases h
            exact (State.sameReads_bindIfNeeded hb).trans (State.sameReads_modifySlot _ _ _)

/-! ### What the rows of an MMA leave -/

theorem State.onlySlot_countAll (s : State) (ps : List Place) (z : Reg) : OnlySlot s (s.countAll ps) z := by
  have hme := (s.sameReads_countAll ps).me
  obtain ⟨hmem, -⟩ := (s.sameReads_countAll ps).reach.view.dev_eq
  exact ⟨hmem, by rw [hme], by rw [hme], by rw [hme], fun y _ _ => State.slotOf_countAll y ps s⟩

/-- What a row of an MMA leaves: a stop, or the state with the row written and the rows after it. -/
theorem State.mmaRows_succ (s : State) (w : MmaWork) (bs : Except (BitVec 8 × Word) (List (List FVal) × List Place)) (n i : Nat) :
    (∃ e, s.mmaRows w bs (n + 1) i = (s, some e)) ∨ (s.slotOf (w.z.setWidth 6) = none ∧ s.mmaRows w bs (n + 1) i = (s, none)) ∨
      ∃ ps xs, s.mmaRows w bs (n + 1) i =
        ((s.countAll ps).modifySlot (w.z.setWidth 6) fun q => q.writeRow i xs).mmaRows w bs n (i + 1) := by
  generalize hr : s.mmaRows w bs (n + 1) i = r
  unfold State.mmaRows at hr
  dsimp only at hr
  split at hr
  · exact .inl ⟨_, hr.symm⟩
  · exact .inl ⟨_, hr.symm⟩
  · exact .inr (.inl ⟨‹_›, hr.symm⟩)
  · split at hr
    · exact .inl ⟨_, hr.symm⟩
    · exact .inr (.inr ⟨_, _, hr.symm⟩)

theorem State.onlySlot_mmaRows (w : MmaWork) (bs : Except (BitVec 8 × Word) (List (List FVal) × List Place)) :
    (n i : Nat) → (s : State) → OnlySlot s (s.mmaRows w bs n i).1 (w.z.setWidth 6)
  | 0, _, s => OnlySlot.refl s _
  | n + 1, i, s => by
    rcases s.mmaRows_succ w bs n i with ⟨e, h⟩ | ⟨-, h⟩ | ⟨ps, xs, h⟩ <;> rw [h]
    · exact OnlySlot.refl s _
    · exact OnlySlot.refl s _
    · exact onlySlot_trans (onlySlot_trans (s.onlySlot_countAll _ _) (State.onlySlot_modifySlot (keepsOwner_writeRow i _) _))
        (State.onlySlot_mmaRows w bs n (i + 1) _)

theorem State.onlySlot_runMma (s : State) (w : MmaWork) (n i : Nat) : OnlySlot s (s.runMma w n i).1 (w.z.setWidth 6) := by
  unfold State.runMma
  dsimp only
  refine onlySlot_trans ?_ (State.onlySlot_mmaRows w _ n i _)
  split
  · exact s.onlySlot_countAll _ _
  · exact OnlySlot.refl s _

/-- A slot some of whose rows have been written: of its kind, and with no mark in those rows (R140). -/
def Slot.RowsClean (q o : Slot) (lo hi : Nat) : Prop :=
  o.kind = q.kind ∧ ∀ m ∈ o.poison, m ∈ q.poison ∧ ¬(lo ≤ m / 32 ∧ m / 32 < hi)

theorem Slot.RowsClean.step {q o : Slot} {i n : Nat} {xs : List Nat} (h : (q.writeRow i xs).RowsClean o (i + 1) (i + 1 + n)) :
    q.RowsClean o i (i + (n + 1)) := by
  obtain ⟨hk, hp⟩ := h
  refine ⟨hk, fun m hm => ?_⟩
  obtain ⟨hq, hout⟩ := hp m hm
  obtain ⟨hq, hi⟩ : m ∈ q.poison ∧ m / 32 ≠ i := by simpa [Slot.writeRow] using hq
  exact ⟨hq, by omega⟩

theorem State.slotOf_mmaRows {w : MmaWork} {bs : Except (BitVec 8 × Word) (List (List FVal) × List Place)} {t : State} :
    (n i : Nat) → {s : State} → {q : Slot} → s.slotOf (w.z.setWidth 6) = some q → s.mmaRows w bs n i = (t, none) →
    ∃ o, t.slotOf (w.z.setWidth 6) = some o ∧ q.RowsClean o i (i + n)
  | 0, i, s, q, hq, h => by
    cases h
    exact ⟨q, hq, rfl, fun m hm => ⟨hm, by omega⟩⟩
  | n + 1, i, s, q, hq, h => by
    rcases s.mmaRows_succ w bs n i with ⟨e, hr⟩ | ⟨hnone, -⟩ | ⟨ps, xs, hr⟩
    · rw [hr] at h; cases h
    · rw [hq] at hnone; cases hnone
    · have hrow : ((s.countAll ps).modifySlot (w.z.setWidth 6) fun q => q.writeRow i xs).slotOf (w.z.setWidth 6) =
          some (q.writeRow i xs) := by
        rw [State.slotOf_modifySlot_same (keepsOwner_writeRow i xs), State.slotOf_countAll, hq]
        rfl
      obtain ⟨o, ho, hc⟩ := State.slotOf_mmaRows n (i + 1) hrow (hr.symm.trans h)
      exact ⟨o, ho, hc.step⟩

theorem State.slotOf_runMma {s t : State} {w : MmaWork} {n i : Nat} {q : Slot} (hq : s.slotOf (w.z.setWidth 6) = some q)
    (h : s.runMma w n i = (t, none)) : ∃ o, t.slotOf (w.z.setWidth 6) = some o ∧ q.RowsClean o i (i + n) := by
  unfold State.runMma at h
  dsimp only at h
  refine State.slotOf_mmaRows n i ?_ h
  split
  · exact (State.slotOf_countAll _ _ s).trans hq
  · exact hq

/-! ### MMA -/

/-- The hart past an MMA that has completed. -/
def Hart.pastMma (h : Hart) : Hart := { h with mma := none, trap := { h.trap with row := 0 } }

theorem State.finishMma_ok {s t : State} {w : MmaWork} (hc : s.me.cmds = []) (hp : s.me.pace = none)
    (h : s.runMma w 32 0 = (t, none)) : s.finishMma w 0 = .ok (t.modifyMe Hart.pastMma) := by
  have hheld : s.operandHeld w = none := by unfold State.operandHeld; rw [hc]; rfl
  have hpause : s.me.pauseAt 0 32 = none := by unfold Hart.pauseAt; rw [hp]; rfl
  unfold State.finishMma
  simp only [hheld, hpause, Option.getD_none, Nat.sub_zero, h]
  rfl

/-- An MMA that does its rows in one act. -/
theorem mma_goes {s t : State} {z a b : Reg} {fmt : BitVec 4} {kn : BitVec 2} {acc : Bool} {u : Uses} (hu : u =
      { regs := [⟨3, z, isHandle z⟩, ⟨3, a, isHandle a⟩, ⟨3, b, isHandle b⟩], commits := true
        work := [mmaCycles fmt.toNat kn.toNat (isGen a || isGen b)] }) (ht : t = s.begun u) (ha : s.Admits u)
    (hset : Settled t) (hrow : t.me.rowDone = 0) (hpace : t.me.pace = none) (hcmds : t.me.cmds = []) {w : MmaWork} {p r : State}
    (hprep : t.prepareMma z a b fmt kn acc = .ok (w, p)) (hme : p.me = t.me) (hrun : p.runMma w 32 0 = (r, none)) :
    Goes (.mma z a b fmt kn acc) s u (r.modifyMe Hart.pastMma) := by
  subst hu
  refine goes_of_body (exec_mma z a b fmt kn acc s) ha ?_
  rw [← ht]
  have hrestart : t.me.restartMma (mmaWord z a b fmt kn acc) = none := by unfold Hart.restartMma; rw [if_pos hrow]
  simp only [State.afterFollowOns_of_settled hset, hrestart, hprep]
  exact State.finishMma_ok (by rw [hme, hcmds]) (by rw [hme, hpace]) hrun

theorem setWidth_handle {z : Reg} (h : z.toNat < 16) : (z.setWidth 4).setWidth 6 = z := by
  apply BitVec.eq_of_toNat_eq
  simp only [BitVec.toNat_setWidth]
  omega

/-- All the rows of an MMA whose operands can be read as in the state `s`. -/
theorem State.runMma_all {s p : State} {w : MmaWork} {q : Slot} (hp : s.SameReads p)
    (hl : ∀ l, l < 32 → Succeeds (s.mmaLine w false l) ∧ Succeeds (s.mmaLine w true l)) (hq : p.slotOf (w.z.setWidth 6) = some q)
    (hc : w.acc = true → q.poison = []) : ∃ r o, p.runMma w 32 0 = (r, none) ∧ OnlySlot p r (w.z.setWidth 6) ∧
      r.slotOf (w.z.setWidth 6) = some o ∧ o.kind = q.kind ∧ (∀ m ∈ o.poison, 1024 ≤ m) ∧
      ∀ i j, i < 32 → j < 32 → entry o.tile i j = s.entryOf w q.tile i j % 2 ^ 64 := by
  obtain ⟨r, o, hrun, -, ho, hdone⟩ := State.runMma_ok (n := 32) (i := 0) hp hl le_rfl hq fun h k _ _ => by
    rw [Slot.rowPoisoned, hc h]
    rfl
  obtain ⟨o', ho', hkind, hpoison⟩ := State.slotOf_runMma hq hrun
  obtain rfl : o = o' := Option.some.inj (ho.symm.trans ho')
  have honly := p.onlySlot_runMma w 32 0
  rw [hrun] at honly
  refine ⟨r, o, hrun, honly, ho, hkind, fun m hm => ?_, fun i j hi hj => ?_⟩
  · obtain ⟨-, hout⟩ := hpoison m hm
    omega
  · rw [hdone i j hi hj, if_pos ⟨Nat.zero_le i, by omega⟩]

/-- What the past MMA leaves beside the marks of its restart. -/
theorem onlySlot_pastMma (r : State) (z : Reg) : OnlySlot r (r.modifyMe Hart.pastMma) z :=
  ⟨rfl, by rw [State.me_modifyMe]; rfl, by rw [State.me_modifyMe]; rfl, by rw [State.me_modifyMe]; rfl,
    fun y _ _ => State.slotOf_modifyMe rfl y⟩

theorem Hart.completed_trap (h : Hart) (u : Uses) (pc : Word) : (h.completed u pc).trap = h.trap := by
  unfold Hart.completed; dsimp only; split <;> rfl

/-- The lines of the operands do not depend on the word of an MMA. -/
theorem State.mmaLine_withWord (s : State) (w : MmaWork) (x : BitVec 32) (isB : Bool) (l : Nat) :
    s.mmaLine { w with word := x } isB l = s.mmaLine w isB l := by
  unfold State.mmaLine MmaWork.depth
  rfl

/-- Settles O27: the handle is bound, and the rows of the one act are those of `State.runMma_all`. -/
theorem matrixMultiply : Obligations.MatrixMultiply := by
  unfold Obligations.MatrixMultiply
  intro s z a b fmt kn acc u t w line old ha hset hrow hpace hcmds hma hmb hgen hslot hlines
  have hz : z.toNat < 16 := by simpa [isHandle] using ha.fields ⟨3, z, isHandle z⟩ (by simp [u])
  have hbound : MmaSlot t z (mmaKind fmt.toNat) acc := by
    unfold MmaSlot
    cases acc with
    | true =>
      obtain ⟨q, hq, hk⟩ := hslot
      exact ⟨q, hq.1, hk⟩
    | false => exact hslot
  obtain ⟨p, q, hp, hme, -, honly, hq, hkind, hold⟩ := State.prepareMma_ok (kn := kn) hz hbound hma hmb hgen
  have hwz : (t.me.mmaWorkOf z a b fmt kn acc).z.setWidth 6 = z := setWidth_handle hz
  have hline (isB : Bool) (l : Nat) : t.mmaLine (t.me.mmaWorkOf z a b fmt kn acc) isB l = t.mmaLine w isB l :=
    t.mmaLine_withWord w (mmaWord z a b fmt kn acc) isB l
  -- an accumulating MMA finds its own slot, and no mark in it
  have hown (h : acc = true) : ∃ o, t.slotOf z = some o ∧ q.tile = o.tile ∧ q.poison = [] := by
    rw [if_pos h] at hslot
    obtain ⟨o, ⟨ho, hc⟩, -⟩ := hslot
    rw [hold o ho]
    exact ⟨o, ho, rfl, hc⟩
  obtain ⟨r, o, hrun, hrows, ho, hok, hpoison, hentry⟩ := State.runMma_all (w := t.me.mmaWorkOf z a b fmt kn acc)
    (State.sameReads_prepareMma hp) (fun l hl => by rw [hline, hline]; exact hlines l hl) (by rw [hwz]; exact hq) fun h => by
      obtain ⟨_, -, -, hc⟩ := hown h
      exact hc
  rw [hwz] at hrows ho
  refine ⟨_, o, mma_goes rfl rfl ha hset hrow hpace hcmds hp hme hrun, by rw [State.me_complete, Hart.completed_pc]; rfl,
    onlySlot_trans honly (onlySlot_trans hrows (onlySlot_trans (onlySlot_pastMma r z) (State.onlySlot_complete _ u _ z))), ?_, ?_,
    hok.trans hkind, List.all_eq_true.2 fun m hm => decide_eq_true (hpoison m hm), fun i j hi hj => ?_⟩
  · rw [State.me_complete, Hart.completed_trap, State.me_modifyMe]
    rfl
  · rw [State.slotOf_complete, State.slotOf_modifyMe (f := Hart.pastMma) rfl, ho]
  · rw [hentry i j hi hj, State.entryOf, State.lineOf, State.lineOf, hline, hline]
    cases hacc : acc with
    | false => rfl
    | true =>
      obtain ⟨o, ho, htile, -⟩ := hown hacc
      have hold : old i j = entry q.tile i j := by simp only [old, ho, htile, Option.elim]
      rw [hold]
      rfl

end Sys2Proof.Machine
end


section
/-!
Two-operand scalar instructions (O1, O2): the operations of R80 and R81 in whole numbers.
-/

namespace Sys2Proof.Machine

open Stated

/-! ### The operations of R80 in whole numbers -/

theorem add_eq_word (x y : Word) : x + y = word (x.toNat + y.toNat) :=
  BitVec.eq_of_toNat_eq (by simp [word])

theorem mul_eq_word (x y : Word) : x * y = word (x.toNat * y.toNat) :=
  BitVec.eq_of_toNat_eq (by simp [word])

theorem sub_eq_ofInt (x y : Word) : x - y = BitVec.ofInt 64 (x.toInt - y.toInt) :=
  BitVec.eq_of_toInt_eq (by simp)

/-- The quotient that is rounded towards 0 (R81). -/
theorem sdiv_eq_ofInt (x y : Word) : BitVec.sdiv x y = BitVec.ofInt 64 (x.toInt.tdiv y.toInt) :=
  BitVec.eq_of_toInt_eq (by rw [BitVec.toInt_sdiv, BitVec.toInt_ofInt])

theorem divSigned_eq_quotient (x y : Word) : divSigned x y = quotient x y := by
  rw [divSigned, quotient, sdiv_eq_ofInt]

theorem remSigned_eq_quotient (x y : Word) : remSigned x y = x - y * quotient x y := by
  rw [remSigned, ← divSigned_eq_quotient, divSigned]
  split
  · rename_i h
    simp [h]
  · rfl

theorem udiv_eq_word (x y : Word) : x / y = word (x.toNat / y.toNat) :=
  BitVec.eq_of_toNat_eq (by
    rw [BitVec.toNat_udiv, word, BitVec.toNat_ofNat, Nat.mod_eq_of_lt (Nat.lt_of_le_of_lt (Nat.div_le_self _ _) x.isLt)])

theorem umod_eq_word (x y : Word) : x % y = word (x.toNat % y.toNat) :=
  BitVec.eq_of_toNat_eq (by
    rw [BitVec.toNat_umod, word, BitVec.toNat_ofNat, Nat.mod_eq_of_lt (Nat.lt_of_le_of_lt (Nat.mod_le _ _) x.isLt)])

theorem shl_eq_word (x : Word) (n : Nat) : x <<< n = word (x.toNat * 2 ^ n) :=
  BitVec.eq_of_toNat_eq (by simp [word, Nat.shiftLeft_eq])

theorem shr_eq_word (x : Word) (n : Nat) : x >>> n = word (x.toNat / 2 ^ n) :=
  BitVec.eq_of_toNat_eq (by
    rw [BitVec.toNat_ushiftRight, Nat.shiftRight_eq_div_pow, word, BitVec.toNat_ofNat,
      Nat.mod_eq_of_lt (Nat.lt_of_le_of_lt (Nat.div_le_self _ _) x.isLt)])

theorem sra_eq_ofInt (x : Word) (n : Nat) : x.sshiftRight n = BitVec.ofInt 64 (x.toInt / 2 ^ n) := by
  rw [BitVec.sshiftRight_eq, Int.shiftRight_eq_div_pow]
  norm_cast

theorem rotl_eq_or (x y : Word) : rotateLeft x y = (x <<< sh y) ||| (x >>> (64 - sh y)) := by
  have hs : sh y < 64 := Nat.mod_lt _ (by decide)
  rw [rotateLeft, show shiftAmount y = sh y from rfl, BitVec.rotateLeft_def, Nat.mod_eq_of_lt hs]

theorem signExtendFrom_eq_ofInt (x y : Word) : signExtendFrom x y = BitVec.ofInt 64 ((x.toNat : Int).bmod (2 ^ (sh y + 1))) := by
  rw [signExtendFrom, word_wrap, signed_eq_toInt (Nat.succ_pos _), BitVec.toInt_ofNat']
  rfl

/-- A signed compare chooses between two words; where they are equal the choice is none. -/
theorem ite_sLess (x y u v : Word) : (if sLess x y then u else v) = if x.toInt < y.toInt then u else v := by
  rw [sLess, BitVec.slt]
  exact ite_congr (by simp) (fun _ => rfl) fun _ => rfl

theorem minSignedWord_eq (x y : Word) : (if sLess y x then y else x) = if x.toInt < y.toInt then x else y := by
  rw [ite_sLess]
  split
  · rw [if_neg (by omega)]
  · split
    · rfl
    · exact BitVec.eq_of_toInt_eq (by omega)

theorem minUnsignedWord_eq (x y : Word) : (if y < x then y else x) = if x.toNat < y.toNat then x else y := by
  simp only [BitVec.lt_def]
  split
  · rw [if_neg (by omega)]
  · split
    · rfl
    · exact BitVec.eq_of_toNat_eq (by omega)

/-- The instructions of R80 are of one shape, with the operations that the table names. -/
theorem exec_of_mem_integerTable (d a : Reg) (b : Src) (fa : Bool) (s : State) :
    ∀ e ∈ integerTable, exec (e.1 d a b fa) s = scalarBinary d a b fa e.2 s := by
  have op {i : Instr} {f g : Word → Word → Word} (hi : exec i s = scalarBinary d a b fa f s) (h : ∀ x y, f x y = g x y) :
      exec i s = scalarBinary d a b fa g s := hi.trans (congrArg (scalarBinary d a b fa · s) (funext₂ h))
  simp only [integerTable, List.forall_mem_cons]
  refine ⟨op (exec_add d a b fa s) add_eq_word, op (exec_sub d a b fa s) sub_eq_ofInt, op (exec_mul d a b fa s) mul_eq_word,
    exec_mulhs d a b fa s, exec_mulhu d a b fa s, op (exec_divs d a b fa s) divSigned_eq_quotient,
    op (exec_divu d a b fa s) fun x y => ?divu, op (exec_rems d a b fa s) remSigned_eq_quotient,
    op (exec_remu d a b fa s) fun x y => ?remu, exec_and d a b fa s, exec_or d a b fa s, exec_xor d a b fa s, exec_andn d a b fa s,
    op (exec_shl d a b fa s) fun x y => shl_eq_word x _, op (exec_shr d a b fa s) fun x y => shr_eq_word x _,
    op (exec_sra d a b fa s) fun x y => sra_eq_ofInt x _, op (exec_rotl d a b fa s) rotl_eq_or,
    op (exec_mins d a b fa s) minSignedWord_eq, op (exec_maxs d a b fa s) fun x y => ite_sLess x y y x,
    op (exec_minu d a b fa s) minUnsignedWord_eq, op (exec_maxu d a b fa s) fun x y => ?maxu,
    op (exec_slt d a b fa s) fun x y => ite_sLess x y 1 0, op (exec_sltu d a b fa s) fun x y => ?sltu,
    op (exec_seq d a b fa s) fun x y => ?seq, op (exec_exts d a b fa s) signExtendFrom_eq_ofInt, by simp⟩
  case divu => rw [divUnsigned, udiv_eq_word]
  case remu => rw [remUnsigned, umod_eq_word]
  case maxu => simp only [BitVec.lt_def]
  case sltu => simp only [BitVec.lt_def, wordOfBool, decide_eq_true_eq]
  case seq => simp only [wordOfBool, beq_iff_eq]

/-- Settles O1: one shape of instruction, and for each entry of the table the operation in whole numbers. -/
theorem integerResults : Obligations.IntegerResults := by
  unfold Obligations.IntegerResults
  intro e he s d a b fa ha
  exact (exec_of_mem_integerTable d a b fa s e he).trans (scalarBinary_of_admits e.2 ha)

/-! ### Division (R81) -/

/-- A scalar register in scalar use has a number below 48 (R39). -/
theorem scalar_lt_of_admits {s : State} {u : Uses} {d : Reg} {p : Nat} (ha : s.Admits u) (h : ⟨p, d, isScalar d⟩ ∈ u.regs) :
    d.toNat < 48 := by
  simpa [isScalar] using ha.fields _ h

theorem Hart.readX_completed (h : Hart) (u : Uses) (pc : Word) (r : Reg) : (h.completed u pc).readX r = h.readX r := by
  rw [Hart.readX, Hart.readX, Hart.completed_x]

/-- What an instruction of two operands that goes on leaves in D, and where the hart goes on. -/
theorem scalarBinary_gives {s : State} {i : Instr} {d a : Reg} {b : Src} {fa : Bool} {f : Word → Word → Word} {v : Word}
    (hi : exec i s = scalarBinary d a b fa f s) (ha : s.Admits (binaryUses d a b fa))
    (hv : f (s.me.readX a) (s.me.srcWord b) = v) :
    ∃ t, exec i s = .next t ∧ t.me.pc = s.me.pc + word (srcBytes b) ∧ t.me.readX d = if d = 0 then 0 else v := by
  refine ⟨_, hi.trans (scalarBinary_of_admits f ha), ?_, ?_⟩
  · rw [State.after, State.me_complete, Hart.completed_pc]
    rfl
  · rw [State.after, State.me_complete, Hart.readX_completed, State.me_modifyMe, hv]
    by_cases hd : d = 0
    · subst hd
      rw [Hart.readX_zero, if_pos rfl]
    · rw [if_neg hd, Hart.readX_writeX _ _ _ hd (scalar_lt_of_admits ha List.mem_cons_self)]

/-- Settles O2: each division writes one value, and the boundary cases are values of its operation. -/
theorem divisionNeverTraps : Obligations.DivisionNeverTraps := by
  unfold Obligations.DivisionNeverTraps
  intro s d a b fa ha x y gives
  have hdivs {v : Word} (hv : divSigned x y = v) : gives (.divs d a b fa) v := scalarBinary_gives (exec_divs d a b fa s) ha hv
  have hdivu {v : Word} (hv : divUnsigned x y = v) : gives (.divu d a b fa) v := scalarBinary_gives (exec_divu d a b fa s) ha hv
  have hrems {v : Word} (hv : remSigned x y = v) : gives (.rems d a b fa) v := scalarBinary_gives (exec_rems d a b fa s) ha hv
  have hremu {v : Word} (hv : remUnsigned x y = v) : gives (.remu d a b fa) v := scalarBinary_gives (exec_remu d a b fa s) ha hv
  refine ⟨?goesOn, fun hy => ⟨hdivs ?_, hdivu ?_, hrems ?_, hremu ?_⟩, fun hx hy => ⟨hdivs ?_, hrems ?_⟩,
    fun hx hy => ⟨hdivs ?_, hrems ?_⟩, fun hx hy => ⟨hdivs ?_, hrems ?_⟩⟩
  case goesOn =>
    simp only [List.forall_mem_cons, List.not_mem_nil, false_imp_iff, implies_true, and_true]
    exact ⟨⟨_, hdivs rfl⟩, ⟨_, hdivu rfl⟩, ⟨_, hrems rfl⟩, ⟨_, hremu rfl⟩⟩
  · exact if_pos hy
  · exact if_pos hy
  · rw [remSigned, hy]
    simp
  · exact if_pos hy
  all_goals
    rw [hx, hy]
    decide

end Sys2Proof.Machine
end

section
/-!
The other scalar integer instructions (O3): counts of bits, and constants.
-/

namespace Sys2Proof.Machine

open Stated

/-! ### Counts of bits (R80) -/

/-- The leading zeros of a number below 2^w: the bits above them, and the first one set. -/
theorem leadingZeros_spec {w x : Nat} (hx : x < 2 ^ w) : leadingZeros w x ≤ w ∧
    (∀ i, w - leadingZeros w x ≤ i → i < w → x.testBit i = false) ∧
    (leadingZeros w x < w → x.testBit (w - 1 - leadingZeros w x) = true) := by
  rw [leadingZeros, Nat.mod_eq_of_lt hx]
  by_cases h0 : x = 0
  · subst h0
    simp
  · have hlog : x.log2 < w := (Nat.log2_lt h0).2 hx
    rw [if_neg h0]
    refine ⟨by omega, fun i hi _ => Nat.testBit_lt_two_pow ?_, fun _ => ?_⟩
    · exact Nat.lt_of_lt_of_le Nat.lt_log2_self (Nat.pow_le_pow_right (by decide) (by omega))
    · rw [show w - 1 - (w - 1 - x.log2) = x.log2 by omega]
      exact Nat.testBit_log2 h0

/-- The trailing zeros: the bits below the first one set, and that one. -/
theorem firstSet_spec : (n x : Nat) → firstSet n x ≤ n ∧ (∀ i, i < firstSet n x → x.testBit i = false) ∧
    (firstSet n x < n → x.testBit (firstSet n x) = true)
  | 0, _ => ⟨Nat.le_refl 0, fun i hi => absurd hi (Nat.not_lt_zero i), fun h => absurd h (Nat.lt_irrefl 0)⟩
  | n + 1, x => by
    obtain ⟨hle, hbelow, hat⟩ := firstSet_spec n (x / 2)
    unfold firstSet
    split
    · rename_i h
      exact ⟨Nat.zero_le _, fun i hi => absurd hi (Nat.not_lt_zero i), fun _ => by rw [Nat.testBit_zero, h]; rfl⟩
    · rename_i h
      refine ⟨Nat.succ_le_succ hle, fun i hi => ?_, fun hlt => ?_⟩
      · cases i with
        | zero => rw [Nat.testBit_zero, decide_eq_false h]
        | succ i => rw [Nat.testBit_succ]; exact hbelow i (Nat.lt_of_succ_lt_succ hi)
      · rw [Nat.testBit_succ]
        exact hat (Nat.lt_of_succ_lt_succ hlt)

/-- The bits that are set, counted. -/
theorem popCount_eq_countP : (n x : Nat) → popCount n x = (List.range n).countP x.testBit
  | 0, _ => rfl
  | n + 1, x => by
    have hshift : x.testBit ∘ Nat.succ = (x / 2).testBit := funext fun i => Nat.testBit_succ x i
    rw [popCount, popCount_eq_countP n (x / 2), List.range_succ_eq_map, List.countP_cons, List.countP_map, hshift,
      Nat.testBit_zero, Nat.add_comm]
    have hx := Nat.mod_two_eq_zero_or_one x
    rcases hx with h | h <;> simp [h]

/-! ### Constants (R82, R83) -/

/-- An immediate added to a register, in whole numbers. -/
theorem add_signExtend_eq_ofInt {n : Nat} (x : Word) (imm : BitVec n) :
    x + imm.signExtend 64 = BitVec.ofInt 64 (x.toInt + imm.toInt) := by
  rw [BitVec.ofInt_add, BitVec.ofInt_toInt, BitVec.signExtend]

/-- Two changes that agree on the hart that acts leave the same state. -/
theorem State.after_congr {s : State} {u : Uses} {f g : Hart → Hart} (h : f s.me = g s.me) : s.after u f = s.after u g :=
  congrArg (State.complete · u (s.me.pc + word u.len)) (State.modifyMe_congr h)

/-- A unary instruction whose result is known. -/
theorem scalarUnary_result {s : State} {d a : Reg} {fa : Bool} {i : Instr} {f : Word → Word} {v : Word}
    (hi : exec i s = scalarUnary d a fa f s) (ha : s.Admits (unaryUses d a fa)) (hv : f (s.me.readX a) = v) :
    exec i s = .next (s.after (unaryUses d a fa) fun h => h.writeX d v) := by
  rw [hi, scalarUnary_of_admits f ha, State.after_congr]
  rw [hv]

/-- Settles O3: the counts by the bits that they count, and the constants by their definitions. -/
theorem unaryAndConstantResults : Obligations.UnaryAndConstantResults := by
  unfold Obligations.UnaryAndConstantResults
  intro s d a n b fa imm imm20
  refine ⟨fun ha => ⟨?clz, ?ctz, ?popc⟩, fun ha => ?cmov, fun ha => ?addi, fun ha => ⟨?li, ?lc⟩⟩
  case clz =>
    obtain ⟨hle, habove, hat⟩ := leadingZeros_spec (s.me.readX a).isLt
    exact ⟨_, hle, habove, hat, scalarUnary_result (exec_clz d a fa s) ha rfl⟩
  case ctz =>
    obtain ⟨hle, hbelow, hat⟩ := firstSet_spec 64 (s.me.readX a).toNat
    exact ⟨_, hle, hbelow, hat, scalarUnary_result (exec_ctz d a fa s) ha rfl⟩
  case popc =>
    simp only [show (BitVec.getLsbD : Word → Nat → Bool) = fun x => x.toNat.testBit from rfl, ← popCount_eq_countP]
    exact (exec_popc d a fa s).trans (scalarUnary_of_admits _ ha)
  case cmov =>
    simp only [ne_eq, ite_not]
    exact (exec_cmov d a b fa s).trans (issue_after (u := ternaryUses d a b fa) ha rfl rfl)
  case addi =>
    simp only [← add_signExtend_eq_ofInt]
    exact (exec_addi d a imm s).trans (issue_after (u := unaryUses d a false) ha rfl rfl)
  case li => exact (exec_li d imm20 s).trans (scalarConst_of_admits _ ha)
  case lc => exact (exec_lc d n s).trans (scalarConst_of_admits _ ha)

end Sys2Proof.Machine
end

section
/-!
The scalar float instructions (O4).
-/

namespace Sys2Proof.Machine

open Stated

/-! ### The sign of FSGNJ (R86) -/

theorem bitAt_eq_testBit (x i : Nat) : bitAt x i = x.testBit i := by
  rw [Nat.testBit_eq_decide_div_mod_eq]
  rfl

/-- The top bit of one word with the others of another. -/
theorem setField_top_eq_or (x y : Word) : word (setField x.toNat 63 1 (fieldOf y.toNat 63 1)) =
    (x &&& ~~~((1 : Word) <<< 63)) ||| (y &&& ((1 : Word) <<< 63)) := by
  have htop (i : Nat) (hi : i < 64) : ((1 : Word) <<< 63).getLsbD i = decide (i = 63) := by
    have h1 : (1 : Word).getLsbD (i - 63) = decide (i - 63 = 0) := by simp
    rw [BitVec.getLsbD_shiftLeft, h1, decide_eq_true hi, Bool.true_and, ← decide_not, ← Bool.decide_and]
    exact decide_eq_decide.2 (by omega)
  refine BitVec.eq_of_getLsbD_eq fun i hi => ?_
  have hword : (word (setField x.toNat 63 1 (fieldOf y.toNat 63 1))).getLsbD i =
      bitAt (setField x.toNat 63 1 (fieldOf y.toNat 63 1)) i := by
    rw [word, BitVec.getLsbD_ofNat, decide_eq_true hi, Bool.true_and, bitAt_eq_testBit]
  rw [hword, BitVec.getLsbD_or, BitVec.getLsbD_and, BitVec.getLsbD_and, BitVec.getLsbD_not, htop i hi, decide_eq_true hi]
  by_cases h : i = 63
  · subst h
    have hy : (fieldOf y.toNat 63 1 % 2 ^ 1 == 1) = y.getLsbD 63 := by
      rw [← bitAt_toNat, bitAt, fieldOf, Nat.mod_mod]
    rw [bitAt, fieldOf_setField, hy]
    simp
  · have hx : (fieldOf x.toNat i 1 == 1) = x.getLsbD i := bitAt_toNat x i
    rw [bitAt, fieldOf_setField_of_disjoint (Or.inr (by omega)), hx, decide_eq_false h]
    simp

/-! ### The classes of FCLASS (R87) -/

/-- The class of a pattern as the bit of R87. -/
theorem classMask_eq (x : Word) : classMask .fp64 x.toNat = 2 ^ classBit x := by
  have hexp : fieldOf x.toNat 52 11 = x.toNat / 2 ^ 52 % 2 ^ 11 := rfl
  have hquiet : bitAt x.toNat 51 = decide (x.toNat % 2 ^ 52 / 2 ^ 51 = 1) := by
    rw [bitAt_eq_testBit, Nat.testBit_eq_decide_div_mod_eq]
    refine decide_eq_decide.2 ?_
    omega
  unfold classMask classBit Fmt.value
  simp only [Fmt.width, Fmt.fbits, Fmt.ebits, hexp, bitAt_toNat, hquiet, reduceCtorEq, false_and, if_false, ne_eq, not_false_eq_true,
    true_and]
  generalize x.toNat / 2 ^ 52 % 2 ^ 11 = e
  generalize x.toNat % 2 ^ 52 = f
  by_cases he : e = 2047
  · by_cases hf : f = 0
    · subst he hf
      cases x.getLsbD 63 <;> rfl
    · subst he
      by_cases hq : f / 2 ^ 51 = 1 <;> simp [hf]
  · by_cases h0 : e = 0
    · subst h0
      by_cases hf : f = 0
      · simp [hf]
      · simp [hf, Nat.add_comm]
    · simp [he, h0, Nat.add_comm]

theorem exec_of_mem_floatTable (d a : Reg) (b : Src) (fa : Bool) (s : State) :
    ∀ e ∈ floatTable, exec (e.1 d a b fa) s = floatBinary d a b fa e.2 s := by
  have hsgn : (fun (_ : Rounding) x y => (x &&& ~~~((1 : Word) <<< 63)) ||| (y &&& ((1 : Word) <<< 63))) =
      fun _ x y => word (setField x.toNat 63 1 (fieldOf y.toNat 63 1)) := by
    funext _ x y
    exact (setField_top_eq_or x y).symm
  simp only [floatTable, List.forall_mem_cons, hsgn]
  exact ⟨exec_fadd d a b fa s, exec_fsub d a b fa s, exec_fmul d a b fa s, exec_fdiv d a b fa s, exec_fmin d a b fa s,
    exec_fmax d a b fa s, exec_feq d a b fa s, exec_flt d a b fa s, exec_fle d a b fa s, exec_fsgnj d a b fa s, by simp⟩

/-- Settles O4: one lemma for each shape of instruction, with the operation that it names. -/
theorem floatResults : Obligations.FloatResults := by
  unfold Obligations.FloatResults
  intro s d a b fa imm
  refine ⟨fun ha e he => ?table, fun ha => ⟨?fsqrt, ?fcvtif, ?fcvtfi, ?fclass⟩, fun ha => ?ffma, fun ha => ?fli⟩
  case table => exact (exec_of_mem_floatTable d a b fa s e he).trans (floatBinary_of_admits e.2 ha)
  case fsqrt => exact (exec_fsqrt d a fa s).trans (floatUnary_of_admits _ ha)
  case fcvtif => exact (exec_fcvtif d a fa s).trans (floatUnary_of_admits _ ha)
  case fcvtfi =>
    simp only [← word_wrap]
    exact (exec_fcvtfi d a fa s).trans (floatUnary_of_admits _ ha)
  case fclass =>
    simp only [← classMask_eq]
    exact (exec_fclass d a fa s).trans (floatUnary_of_admits _ ha)
  case ffma => exact (exec_ffma d a b fa s).trans (issue_after (u := ternaryUses d a b fa) ha rfl rfl)
  case fli => exact (exec_fli d imm s).trans (scalarConst_of_admits _ ha)

end Sys2Proof.Machine
end

section
/-!
Transfers of control (O5): branches, jumps, JTAB and STRIP.
-/

namespace Sys2Proof.Machine

open Stated

/-! ### Where a transfer lands (R79) -/

/-- A fetch adds a block to the hart, and counts an access. -/
theorem State.fetchBlock_leaves {s t : State} {va : Word} {ws : List (BitVec 32)} (h : s.fetchBlock va = .ok (ws, t)) :
    (∃ blocks, t.me = { s.me with blocks }) ∧ t.dev.mem = s.dev.mem := by
  unfold State.fetchBlock at h
  extract_lets key at h
  split at h
  · cases h
    exact ⟨⟨_, rfl⟩, rfl⟩
  · split at h
    · cases h
    · split at h
      · cases h
      · cases h
        exact ⟨⟨_, by rw [State.me_modifyMe, State.me_count]⟩, rfl⟩
    · cases h

theorem State.land_leaves {s t : State} {target : Word} (h : s.land target = .ok t) :
    (∃ blocks, t.me = { s.me with blocks }) ∧ t.dev.mem = s.dev.mem := by
  unfold State.land at h
  split at h
  · cases h
  · rename_i hf
    split at h
    · cases h
    · cases h
      exact State.fetchBlock_leaves hf

/-- A transfer to a place where it may land. -/
theorem land_of_lands {s : State} {target : Word} (h : Lands s target) : s.land target = .ok (landed s target) := by
  obtain ⟨t, ht⟩ := h
  rw [landed, ht]
  rfl

theorem landed_me {s : State} {target : Word} (h : Lands s target) : ∃ blocks, (landed s target).me = { s.me with blocks } :=
  (State.land_leaves (land_of_lands h)).1

/-- The target of a transfer by an offset in words (R88, R89, R92). -/
theorem target_eq_ofInt {n : Nat} (pc : Word) (off : BitVec n) :
    pc + 4 * off.signExtend 64 = BitVec.ofInt 64 (pc.toInt + 4 * off.toInt) := by
  rw [BitVec.ofInt_add, BitVec.ofInt_mul, BitVec.ofInt_toInt, BitVec.signExtend]
  rfl

/-! ### Branches (R88) -/

/-- What a branch on a scalar register or a mask asks. -/
def branchUses (a : Reg) (cond : BitVec 3) : Uses :=
  if cond.toNat < 6 then { regs := [⟨0, a, isScalar a⟩], sources := [⟨0, .x, a, false⟩] }
  else { regs := [⟨0, a, isMask a⟩], vown := true }

/-- Whether a branch is taken. -/
def Hart.branches (h : Hart) (a : Reg) (cond : BitVec 3) : Bool :=
  if 6 ≤ cond.toNat then (if cond = 6 then anyBelow (h.readM a) h.tile else !anyBelow (h.readM a) h.tile)
  else scalarCond cond (h.readX a)

theorem branchUses_commits (a : Reg) (cond : BitVec 3) : (branchUses a cond).commits = false := by
  unfold branchUses
  split <;> rfl

theorem exec_br_eq (a : Reg) (cond : BitVec 3) (off : BitVec 17) (s : State) : exec (.br a cond off) s =
    issueTo s (branchUses a cond) fun s =>
      if s.me.branches a cond then
        match s.land (s.me.pc + 4 * off.signExtend 64) with
        | .error e => .error e
        | .ok t => .ok (t, s.me.pc + 4 * off.signExtend 64)
      else .ok (s, s.me.pc + 4) := by
  rw [exec_br]
  unfold execBr branchUses Hart.branches
  by_cases h : 6 ≤ cond.toNat
  · simp only [h, Nat.not_lt.2 h, decide_true, if_true, if_false] <;> rfl
  · simp only [h, Nat.not_le.1 h, decide_false, if_true, if_false, Bool.false_eq_true] <;> rfl

/-- A mask has a set bit among its first t. -/
theorem anyBelow_iff (m t : Nat) : anyBelow m t = true ↔ ∃ i, i < t ∧ bitAt m i = true := by
  have hbit (i : Nat) : (m % 2 ^ t).testBit i = (decide (i < t) && bitAt m i) := by
    rw [Nat.testBit_mod_two_pow, bitAt_eq_testBit]
  rw [anyBelow, decide_eq_true_eq]
  refine ⟨fun h => ?_, fun ⟨i, hi, hb⟩ h0 => ?_⟩
  · obtain ⟨i, hi⟩ := Nat.exists_testBit_of_ne_zero h
    rw [hbit, Bool.and_eq_true, decide_eq_true_eq] at hi
    exact ⟨i, hi⟩
  · have := hbit i
    rw [h0, hb, decide_eq_true hi, Nat.zero_testBit] at this
    cases this

theorem anyBelow_eq_false_iff (m t : Nat) : anyBelow m t = false ↔ ∀ i, i < t → bitAt m i = false := by
  rw [← Bool.not_eq_true, anyBelow_iff]
  simp

theorem sLess_iff (x y : Word) : sLess x y = true ↔ x.toInt < y.toInt := by
  rw [sLess, BitVec.slt, decide_eq_true_eq]

theorem sLess_eq_false_iff (x y : Word) : sLess x y = false ↔ y.toInt ≤ x.toInt := by
  rw [← Bool.not_eq_true, sLess_iff, Int.not_lt]

/-- The conditions of R88. -/
theorem Hart.branches_iff (h : Hart) (a : Reg) (cond : BitVec 3) : h.branches a cond = true ↔
    (cond = 0 ∧ h.readX a = 0) ∨ (cond = 1 ∧ h.readX a ≠ 0) ∨
    (cond = 2 ∧ (h.readX a).toInt < 0) ∨ (cond = 3 ∧ 0 ≤ (h.readX a).toInt) ∨
    (cond = 4 ∧ 0 < (h.readX a).toInt) ∨ (cond = 5 ∧ (h.readX a).toInt ≤ 0) ∨
    (cond = 6 ∧ ∃ i, i < h.tile ∧ bitAt (h.readM a) i = true) ∨
    (cond = 7 ∧ ∀ i, i < h.tile → bitAt (h.readM a) i = false) := by
  have hcond : cond = 0 ∨ cond = 1 ∨ cond = 2 ∨ cond = 3 ∨ cond = 4 ∨ cond = 5 ∨ cond = 6 ∨ cond = 7 := by
    revert cond
    decide
  rcases hcond with rfl | rfl | rfl | rfl | rfl | rfl | rfl | rfl
  · simp [Hart.branches, scalarCond]
  · simp [Hart.branches, scalarCond]
  · simp [Hart.branches, scalarCond, sLess_iff]
  · simp [Hart.branches, scalarCond, sLess_eq_false_iff]
  · simp [Hart.branches, scalarCond, sLess_iff]
  · simp [Hart.branches, scalarCond, sLess_eq_false_iff]
  · simp [Hart.branches, anyBelow_iff]
  · simp [Hart.branches, anyBelow_eq_false_iff]

section
variable {s : State} {a : Reg} {cond : BitVec 3} (ha : s.Admits (branchUses a cond))
include ha

theorem br_not_taken (off : BitVec 17) (h : s.me.branches a cond = false) :
    exec (.br a cond off) s = .next (s.complete (branchUses a cond) (s.me.pc + 4)) := by
  rw [exec_br_eq, issueTo_of_admits ha, State.begun_of_open (branchUses_commits a cond), if_neg (by simp [h])]
  rfl

theorem br_taken {off : BitVec 17} {target : Word} (ht : s.me.pc + 4 * off.signExtend 64 = target) (h : s.me.branches a cond = true)
    (hl : Lands s target) : exec (.br a cond off) s = .next ((landed s target).complete (branchUses a cond) target) := by
  rw [exec_br_eq, issueTo_of_admits ha, State.begun_of_open (branchUses_commits a cond), if_pos h, ht, land_of_lands hl]
  rfl

end

/-! ### Jumps (R89, R90, R91) -/

/-- A jump lands, with the address after it in D. -/
theorem State.jump_of_lands {s : State} {d : Reg} {target : Word} (h : Lands s target) :
    s.jump d target = .ok ((landed s target).modifyMe fun h => h.writeX d (s.me.pc + 4), target) := by
  obtain ⟨blocks, hme⟩ := landed_me h
  rw [State.jump, land_of_lands h]
  refine congrArg (fun t => Except.ok (t, target)) (State.modifyMe_congr ?_)
  rw [hme]

theorem jal_lands {s : State} {d : Reg} {imm : BitVec 20} {target : Word} (ht : s.me.pc + 4 * imm.signExtend 64 = target)
    (ha : s.Admits (constUses d)) (hl : Lands s target) : exec (.jal d imm) s =
      .next (((landed s target).modifyMe fun h => h.writeX d (s.me.pc + 4)).complete (constUses d) target) := by
  have hbody : exec (.jal d imm) s = issueTo s (constUses d) fun s => s.jump d (s.me.pc + 4 * imm.signExtend 64) :=
    exec_jal d imm s
  rw [hbody, issueTo_of_admits ha, State.begun_of_open rfl, ht, State.jump_of_lands hl]
  rfl

theorem jr_lands {s : State} {d a : Reg} {fa : Bool} (ha : s.Admits (unaryUses d a fa)) (h4 : (s.me.readX a).toNat % 4 = 0)
    (hl : Lands s (s.me.readX a)) : exec (.jr d a fa) s = .next
      (((landed s (s.me.readX a)).modifyMe fun h => h.writeX d (s.me.pc + 4)).complete (unaryUses d a fa) (s.me.readX a)) := by
  have hbody : exec (.jr d a fa) s = issueTo s (unaryUses d a fa) fun s =>
      if (s.me.readX a).toNat % 4 ≠ 0 then raise s causeAlign (s.me.readX a) else s.jump d (s.me.readX a) := exec_jr d a fa s
  rw [hbody, issueTo_of_admits ha, State.begun_of_open rfl, if_neg (by rw [h4]; decide), State.jump_of_lands hl]
  rfl

section
variable {s : State} {d a b : Reg} {fa fb : Bool} {u : Uses}
  (hu : u = { regs := [⟨2, d, isG d⟩, ⟨0, a, isG a⟩, ⟨1, b, isAddress b⟩]
              sources := [⟨0, .x, a, fa⟩, ⟨1, .x, b, fb⟩, ⟨2, .x, d, false⟩] }) (ha : s.Admits u)
include hu ha

theorem exec_jtab_eq : exec (.jtab d a b fa fb) s = finish (
    match (if s.me.readX a < s.me.readX d then
        if (s.me.readX b + 4 * s.me.readX a).toNat % 4 ≠ 0 then raise s causeAlign (s.me.readX b + 4 * s.me.readX a)
        else
          match s.loadBytes (.scalar false) (s.me.readX b + 4 * s.me.readX a) 4 with
          | .error e => .error e
          | .ok (x, t) =>
            match t.land (s.me.pc + 4 * (BitVec.ofNat 32 x).signExtend 64) with
            | .error e => .error e
            | .ok t => .ok (t, s.me.pc + 4 * (BitVec.ofNat 32 x).signExtend 64)
      else .ok (s, s.me.pc + 4) : Except Stop (State × Word)) with
    | .error e => .error e
    | .ok (t, pc) => .ok (t.complete u pc)) := by
  subst hu
  rw [exec_jtab]
  unfold execJtab
  rw [issueTo_of_admits ha, State.begun_of_open rfl] <;> rfl

theorem jtab_beyond (h : (s.me.readX d).toNat ≤ (s.me.readX a).toNat) :
    exec (.jtab d a b fa fb) s = .next (s.complete u (s.me.pc + 4)) := by
  rw [exec_jtab_eq hu ha, if_neg (mt BitVec.lt_def.1 (Nat.not_lt.2 h))]
  rfl

theorem jtab_lands {n : Nat} {t : State} (h : (s.me.readX a).toNat < (s.me.readX d).toNat) (h4 : (s.me.readX b).toNat % 4 = 0)
    (hw : s.loadBytes (.scalar false) (s.me.readX b + 4 * s.me.readX a) 4 = .ok (n, t))
    (hl : Lands t (s.me.pc + 4 * (BitVec.ofNat 32 n).signExtend 64)) :
    exec (.jtab d a b fa fb) s = .next ((landed t (s.me.pc + 4 * (BitVec.ofNat 32 n).signExtend 64)).complete u
      (s.me.pc + 4 * (BitVec.ofNat 32 n).signExtend 64)) := by
  have hal : (s.me.readX b + 4 * s.me.readX a).toNat % 4 = 0 := by
    rw [BitVec.toNat_add, BitVec.toNat_mul, show (4 : Word).toNat = 4 from rfl]
    omega
  rw [exec_jtab_eq hu ha, if_pos (BitVec.lt_def.2 h), if_neg (by rw [hal]; decide), hw]
  simp only [land_of_lands hl]
  rfl

end

/-! ### STRIP (R92) -/

/-- The address register a_j. -/
def addressReg (j : Nat) : Reg := BitVec.ofNat 6 (32 + j)

theorem addressReg_inj {i j : Nat} (hi : i < 4) (hj : j < 4) (h : addressReg i = addressReg j) : i = j := by
  have := congrArg BitVec.toNat h
  simp only [addressReg, BitVec.toNat_ofNat] at this
  omega

theorem addressReg_toNat {j : Nat} (hj : j < 4) : (addressReg j).toNat = 32 + j := by
  rw [addressReg, BitVec.toNat_ofNat, Nat.mod_eq_of_lt (by omega)]

/-- One of the address registers of ASEL advanced. -/
def Hart.advanceOne (asel : BitVec 4) (step : Word) (h : Hart) (j : Nat) : Hart :=
  if asel.getLsbD j then h.writeX (addressReg j) (h.readX (addressReg j) + step) else h

theorem Hart.advanceSelected_eq (h : Hart) (asel : BitVec 4) (step : Word) :
    h.advanceSelected asel step = (List.range 4).foldl (Hart.advanceOne asel step) h := rfl

theorem Hart.readX_advanceOne (h : Hart) (asel : BitVec 4) (step : Word) {j : Nat} (hj : j < 4) :
    (h.advanceOne asel step j).readX (addressReg j) = h.readX (addressReg j) + if asel.getLsbD j then step else 0 := by
  have hn := addressReg_toNat hj
  unfold Hart.advanceOne
  split
  · exact Hart.readX_writeX _ _ _ (fun h0 => by rw [h0] at hn; simp at hn; omega) (by omega)
  · exact (BitVec.add_zero _).symm

theorem Hart.readX_advanceOne_ne (h : Hart) (asel : BitVec 4) (step : Word) {j : Nat} {g : Reg} (hg : g ≠ addressReg j) :
    (h.advanceOne asel step j).readX g = h.readX g := by
  unfold Hart.advanceOne
  split
  · exact Hart.readX_writeX_ne _ _ _ _ hg
  · rfl

theorem Hart.readX_advances_ne (asel : BitVec 4) (step : Word) {g : Reg} : (js : List Nat) → (h : Hart) →
    (∀ j ∈ js, g ≠ addressReg j) → (js.foldl (Hart.advanceOne asel step) h).readX g = h.readX g
  | [], _, _ => rfl
  | j :: js, h, hg => by
    obtain ⟨hj, hjs⟩ := List.forall_mem_cons.1 hg
    exact (Hart.readX_advances_ne asel step js _ hjs).trans (h.readX_advanceOne_ne asel step hj)

/-- Each register of a list without repetition advances once. -/
theorem Hart.readX_advances (asel : BitVec 4) (step : Word) {j : Nat} {js : List Nat} (hnd : js.Nodup) (hlt : ∀ i ∈ js, i < 4)
    (hj : j ∈ js) (h : Hart) : (js.foldl (Hart.advanceOne asel step) h).readX (addressReg j) =
      h.readX (addressReg j) + if asel.getLsbD j then step else 0 := by
  induction js generalizing h with
  | nil => cases hj
  | cons i js ih =>
    obtain ⟨hi, hnd'⟩ := List.nodup_cons.1 hnd
    obtain ⟨h4, hlt'⟩ := List.forall_mem_cons.1 hlt
    rw [List.foldl_cons]
    rcases List.mem_cons.1 hj with rfl | hjs
    · rw [Hart.readX_advances_ne asel step js _ fun k hk he => hi (addressReg_inj h4 (hlt' k hk) he ▸ hk)]
      exact h.readX_advanceOne asel step h4
    · rw [ih hnd' hlt' hjs, h.readX_advanceOne_ne asel step fun he => hi (addressReg_inj (hlt' j hjs) h4 he ▸ hjs)]

theorem Hart.readX_advanceSelected (h : Hart) (asel : BitVec 4) (step : Word) {j : Nat} (hj : j < 4) :
    (h.advanceSelected asel step).readX (addressReg j) = h.readX (addressReg j) + if asel.getLsbD j then step else 0 := by
  rw [Hart.advanceSelected_eq]
  exact Hart.readX_advances asel step List.nodup_range (fun _ => List.mem_range.1) (List.mem_range.2 hj) h

theorem Hart.readX_advanceSelected_ne (h : Hart) (asel : BitVec 4) (step : Word) {g : Reg} (hg : g.toNat < 32 ∨ 36 ≤ g.toNat) :
    (h.advanceSelected asel step).readX g = h.readX g := by
  rw [Hart.advanceSelected_eq]
  refine Hart.readX_advances_ne asel step _ h fun j hj he => ?_
  have hlt := List.mem_range.1 hj
  have hn := addressReg_toNat hlt
  rw [← he] at hn
  omega

theorem Hart.advanceSelected_vec (h : Hart) (asel : BitVec 4) (step : Word) : (h.advanceSelected asel step).vec = h.vec := by
  have one (h : Hart) (j : Nat) : (h.advanceOne asel step j).vec = h.vec := by
    unfold Hart.advanceOne
    split <;> simp
  have all : (js : List Nat) → (h : Hart) → (js.foldl (Hart.advanceOne asel step) h).vec = h.vec := by
    intro js
    induction js with
    | nil => exact fun _ => rfl
    | cons j js ih => exact fun h => (ih _).trans (one h j)
  rw [Hart.advanceSelected_eq]
  exact all _ h

theorem Hart.tile_lt (h : Hart) : h.tile < 2 ^ 64 := by
  have hr := h.vrows.isLt
  have hv := h.vl.isLt
  unfold Hart.tile
  exact lt_of_lt_of_le (Nat.mul_lt_mul'' hr hv) (by decide)

/-- What STRIP leaves of the count: it loses T, down to 0. -/
theorem stripCount_eq {x : Word} {t : Nat} (ht : t < 2 ^ 64) :
    (if word t < x then x - word t else 0) = word (x.toNat - t) := by
  have hw : (word t).toNat = t := by rw [word, BitVec.toNat_ofNat, Nat.mod_eq_of_lt ht]
  have hx := x.isLt
  simp only [BitVec.lt_def, hw]
  refine BitVec.eq_of_toNat_eq ?_
  rw [show (word (x.toNat - t)).toNat = (x.toNat - t) % 2 ^ 64 from BitVec.toNat_ofNat _ _, Nat.mod_eq_of_lt (by omega)]
  split
  · rw [BitVec.toNat_sub_of_le (by rw [BitVec.le_def, hw]; omega), hw]
  · rw [show (0 : Word).toNat = 0 from rfl]
    omega

theorem stripCount_eq_zero {n : Nat} (hn : n < 2 ^ 64) : word n = 0 ↔ n = 0 := by
  refine ⟨fun h => ?_, fun h => by rw [h]; rfl⟩
  have := congrArg BitVec.toNat h
  rwa [word, BitVec.toNat_ofNat, Nat.mod_eq_of_lt hn] at this

/-- The hart as STRIP leaves it, with what is left of its count. -/
def Hart.stripped (h : Hart) (cnt : Reg) (asel : BitVec 4) (n : Nat) : Hart :=
  { (h.writeX cnt (word n)).advanceSelected asel (word h.tile * word h.esize) with elemBase := h.elemBase + word h.tile }

section
variable {s : State} {cnt : Reg} {asel : BitVec 4} {off : BitVec 16} {u : Uses} {n : Nat} {target : Word}
  (hu : u = { regs := [⟨3, cnt, isG cnt⟩]
              sources := ⟨3, .x, cnt, false⟩ :: (((List.range 4).filter asel.getLsbD).map fun j => ⟨3, .x, BitVec.ofNat 6 (32 + j), false⟩)
              dests := [(.x, cnt)] })
  (ha : s.Admits u) (hn : n = (s.me.readX cnt).toNat - s.me.tile) (ht : s.me.pc + 4 * off.signExtend 64 = target)
include hu ha hn ht

theorem strip_goes (hl : n ≠ 0 → Lands s target) : ∃ t : State, (∃ blocks, t.me = { s.me with blocks }) ∧ t.dev.mem = s.dev.mem ∧
    exec (.strip cnt asel off) s =
      .next ((t.modifyMe fun h => h.stripped cnt asel n).complete u (if n = 0 then s.me.pc + 4 else target)) := by
  have hlt : n < 2 ^ 64 := by
    have := (s.me.readX cnt).isLt
    omega
  obtain ⟨t, hland, hme, hmem⟩ : ∃ t : State, (if n = 0 then .ok s else s.land target) = .ok t ∧
      (∃ blocks, t.me = { s.me with blocks }) ∧ t.dev.mem = s.dev.mem := by
    by_cases h0 : n = 0
    · exact ⟨s, if_pos h0, ⟨_, rfl⟩, rfl⟩
    · have := land_of_lands (hl h0)
      exact ⟨_, (if_neg h0).trans this, State.land_leaves this⟩
  refine ⟨t, hme, hmem, ?_⟩
  obtain ⟨blocks, hme⟩ := hme
  have hu' : u = { regs := [⟨3, cnt, isG cnt⟩]
                   sources := ⟨3, .x, cnt, false⟩ :: (((List.range 4).filter asel.getLsbD).map fun j =>
                     BitVec.ofNat 6 (32 + j)).map fun r => ⟨3, .x, r, false⟩
                   dests := [(.x, cnt)] } := by
    rw [hu, List.map_map]
    rfl
  rw [exec_strip]
  unfold execStrip
  dsimp only
  rw [← hu', issueTo_of_admits ha, State.begun_of_open (by rw [hu])]
  simp only [stripCount_eq s.me.tile_lt, ← hn, ht, stripCount_eq_zero hlt, hland]
  refine congrArg (fun r : State => Host.Outcome.next (r.complete u _)) (State.modifyMe_congr ?_)
  rw [hme]
  rfl

end

section
variable (h : Hart) {cnt : Reg} (asel : BitVec 4) (n : Nat)

theorem Hart.readX_stripped_count (h0 : cnt ≠ 0) (hg : cnt.toNat < 32) : (h.stripped cnt asel n).readX cnt = word n :=
  ((h.writeX cnt (word n)).readX_advanceSelected_ne asel _ (.inl hg)).trans (Hart.readX_writeX _ _ _ h0 (by omega))

theorem Hart.readX_stripped_address (hg : cnt.toNat < 32) {j : Nat} (hj : j < 4) : (h.stripped cnt asel n).readX (addressReg j) =
    h.readX (addressReg j) + if asel.getLsbD j then word (h.tile * h.esize) else 0 := by
  have hn := addressReg_toNat hj
  refine ((h.writeX cnt (word n)).readX_advanceSelected asel _ hj).trans ?_
  rw [Hart.readX_writeX_ne _ _ _ _ fun he => by rw [he] at hn; omega]
  simp only [word, BitVec.ofNat_mul]

theorem Hart.readX_stripped_ne {g : Reg} (hne : g ≠ cnt) (hg : g.toNat < 32 ∨ 36 ≤ g.toNat) :
    (h.stripped cnt asel n).readX g = h.readX g :=
  ((h.writeX cnt (word n)).readX_advanceSelected_ne asel _ hg).trans (Hart.readX_writeX_ne _ _ _ _ hne)

end

theorem Hart.completed_elemBase (h : Hart) (u : Uses) (pc : Word) : (h.completed u pc).elemBase = h.elemBase := by
  unfold Hart.completed; dsimp only; split <;> rfl

/-- Settles O5: each transfer by its own lemma, and the registers that STRIP leaves by `Hart.stripped`. -/
theorem controlTransfers : Obligations.ControlTransfers := by
  unfold Obligations.ControlTransfers
  refine ⟨fun s a cond off taken => ?br,
    fun s d a b imm fa fb => ⟨?jal, ?jr, ?jtab⟩,
    fun s cnt asel off => ?strip⟩
  case br =>
    intro u target ha htaken
    rw [← Hart.branches_iff, ← Bool.eq_iff_iff] at htaken
    exact ⟨fun h => br_not_taken ha off (htaken.symm.trans h),
      fun h hl => br_taken ha (target_eq_ofInt _ _) (htaken.symm.trans h) hl⟩
  case jal => exact fun ha hl => jal_lands (target_eq_ofInt _ _) ha hl
  case jr => exact fun ha h4 hl => jr_lands ha h4 hl
  case jtab =>
    intro u ha
    refine ⟨jtab_beyond rfl ha, ?_⟩
    intro w
    rcases hw : w with e | ⟨n, s1⟩
    · exact fun _ _ ⟨_, hx⟩ _ => by cases hx
    · exact fun h h4 _ hl => jtab_lands rfl ha h h4 hw hl
  case strip =>
    intro u t n target ha hl
    obtain ⟨r, ⟨blocks, hme⟩, hmem, he⟩ := strip_goes (n := n) rfl ha rfl (target_eq_ofInt _ _) hl
    have hg : cnt.toNat < 32 := by simpa [isG] using ha.fields ⟨3, cnt, isG cnt⟩ List.mem_cons_self
    have hr : ((r.modifyMe fun h => h.stripped cnt asel n).complete u (if n = 0 then s.me.pc + 4 else target)).me =
        (({ s.me with blocks } : Hart).stripped cnt asel n).completed u (if n = 0 then s.me.pc + 4 else target) := by
      rw [State.me_complete, State.me_modifyMe, hme]
    refine ⟨_, he, ?_, fun h0 => ?_, fun j hj => ?_, fun g hne hg' => ?_, ?_, ?_, ?_⟩
    · rw [hr, Hart.completed_pc]
    · rw [hr, Hart.readX_completed]
      exact Hart.readX_stripped_count _ asel n h0 hg
    · rw [hr, Hart.readX_completed]
      exact Hart.readX_stripped_address _ asel n hg hj
    · rw [hr, Hart.readX_completed]
      exact Hart.readX_stripped_ne _ asel n hne hg'
    · rw [hr, Hart.completed_elemBase]
      rfl
    · rw [hr, Hart.completed_vec]
      exact (Hart.advanceSelected_vec _ asel _).trans (Hart.writeX_vec _ cnt _)
    · rw [State.complete_dev]
      exact hmem

end Sys2Proof.Machine
end

section
/-!
What an instruction that changes the hart alone leaves of the machine, for the frame of the register instructions (O52)
and for MARK (O6).
-/

namespace Sys2Proof.Machine

open Stated

/-! ### Only the hart that acts changes -/

theorem onlyHart_refl (s : State) : OnlyHart s s :=
  ⟨rfl, rfl, rfl, rfl, fun _ _ _ => rfl, fun _ _ => rfl, fun _ => rfl⟩

theorem onlyHart_trans {s t r : State} (h : OnlyHart s t) (k : OnlyHart t r) : OnlyHart s r := by
  obtain ⟨hdev, hcur, hagenda, hfresh, hhart, hstatus, hcore⟩ := h
  obtain ⟨kdev, kcur, kagenda, kfresh, khart, kstatus, kcore⟩ := k
  refine ⟨kdev.trans hdev, kcur.trans hcur, kagenda.trans hagenda, kfresh.trans hfresh, fun c x hn => ?_,
    fun c x => (kstatus c x).trans (hstatus c x), fun c => ?_⟩
  · exact (khart c x (by rw [hcur]; exact hn)).trans (hhart c x hn)
  · rw [kcore c, hcore c]

theorem onlyHart_modifyCore (s : State) (c : CoreId) {f : Core → Core} (hh : ∀ x, (f (s.core c)).hart x = (s.core c).hart x)
    (hs : ∀ x, (f (s.core c)).status x = (s.core c).status x)
    (hf : f (s.core c) = { s.core c with
      ctxs := (f (s.core c)).ctxs, fw := (f (s.core c)).fw, busy := (f (s.core c)).busy, handed := (f (s.core c)).handed }) :
    OnlyHart s (s.modifyCore c f) := by
  refine ⟨rfl, rfl, rfl, rfl, fun d x _ => State.hart_modifyCore_of hh d x, fun d x => ?_, fun d => ?_⟩
  · unfold State.status
    by_cases hd : d = c
    · subst hd; rw [State.core_modifyCore]; exact hs x
    · rw [State.core_modifyCore_ne _ _ _ _ hd]
  · by_cases hd : d = c
    · subst hd; rw [State.core_modifyCore]; exact hf
    · rw [State.core_modifyCore_ne _ _ _ _ hd]

theorem onlyHart_modifyMe (s : State) (f : Hart → Hart) : OnlyHart s (s.modifyMe f) := by
  refine ⟨rfl, rfl, rfl, rfl, fun d x hn => State.hart_setHart_ne _ _ _ _ _ _ hn, fun d x => State.status_modifyMe s f d x, fun d => ?_⟩
  unfold State.modifyMe State.setMe State.setHart
  by_cases hd : d = s.cur.core
  · subst hd
    rw [State.core_modifyCore]
    unfold Core.setHart
    split <;> rfl
  · rw [State.core_modifyCore_ne _ _ _ _ hd]

theorem onlyHart_chargeOn (s : State) (c : CoreId) (work : List (ActClass × Nat)) : OnlyHart s (s.chargeOn c work) := by
  unfold State.chargeOn
  refine onlyHart_trans ?_ (onlyHart_modifyCore _ c (fun _ => rfl) (fun _ => rfl) rfl)
  unfold State.chargeAged
  split
  · exact onlyHart_modifyCore s c (fun _ => rfl) (fun _ => rfl) rfl
  · exact onlyHart_refl s

theorem onlyHart_complete (s : State) (u : Uses) (pc : Word) : OnlyHart s (s.complete u pc) := by
  refine onlyHart_trans ?_ (onlyHart_modifyMe _ _)
  unfold State.chargeUses State.chargeLanes State.charge
  split
  · split
    · exact onlyHart_trans (onlyHart_chargeOn s _ _) (onlyHart_chargeOn _ _ _)
    · exact onlyHart_chargeOn s _ _
  · exact onlyHart_chargeOn s _ _

theorem onlyHart_after (s : State) (u : Uses) (f : Hart → Hart) : OnlyHart s (s.after u f) :=
  onlyHart_trans (onlyHart_modifyMe s f) (onlyHart_complete _ u _)

/-- The hart after an instruction whose own effect changes it by `f`, and which commits nothing. -/
theorem State.me_after (s : State) {u : Uses} (hc : u.commits = false) (f : Hart → Hart) : (s.after u f).me =
    { f s.me with pc := s.me.pc + word u.len, eltDone := 0, popFault := false, appending := none, rowDone := 0 } := by
  rw [State.after, State.me_complete, State.me_modifyMe, Hart.completed]
  simp only [hc, Bool.false_eq_true, if_false]

end Sys2Proof.Machine
end

section
/-!
MARK (O6).
-/

namespace Sys2Proof.Machine

open Stated

/-- An instruction that names no register and asks for nothing is admitted in every state. -/
theorem State.admits_nothing (s : State) : s.Admits {} where
  legal := rfl
  reads := by simp
  writes := by simp
  mode := by simp
  user := by simp
  fields := by simp
  owned := by simp
  sources := by simp
  dests := by simp
  started := rfl
  awake := by simp
  arrived := by simp
  commits := by simp
  released := by simp

theorem Core.x_ctxs_mark (k : Core) (x : UserCtx) (m : Mark) : ((k.mark x m).ctxs[x.val]).hart.x = k.ctxs[x.val].hart.x := by
  unfold Core.mark Core.modifyStat Core.modifyHart
  dsimp only
  split
  · split <;> simp
  · rfl

theorem Advice.addMark_eq (v : Advice) (m : Mark) :
    (v.addMark m).1 = { v with marks := (if v.marks.length < 16 then v.marks else v.marks.tail) ++ [m] } := by
  unfold Advice.addMark
  by_cases h : v.marks.length < 16
  · rw [if_neg (Nat.not_le.2 h), if_pos h]
  · rw [if_pos (Nat.not_lt.1 h), if_neg h]

/-- The Second of a hart without a book, after a mark (R94). -/
theorem Core.advice_mark_none {k : Core} {x : UserCtx} {m : Mark} (hb : k.newestBook k.ctxs[x.val].hart.link.launch = none) :
    (k.mark x m).advice[x.val] = { k.advice[x.val] with snap := some m.snap, lastId := some m.id } := by
  unfold Core.mark
  simp only [hb]
  exact Vector.getElem_set_self _

/-- The Second of a hart whose book is not replaced, after a mark (R331). -/
theorem Core.advice_mark_some {k : Core} {x : UserCtx} {m : Mark} {bk : Book}
    (hb : k.newestBook k.ctxs[x.val].hart.link.launch = some bk) (hv : bk.version ≤ k.ctxs[x.val].hart.bookVersion) :
    (k.mark x m).advice[x.val] = (k.advice[x.val].addMark m).1 := by
  unfold Core.mark
  simp only [hb, if_neg (Nat.not_lt.2 hv)]
  exact Vector.getElem_set_self _

theorem State.advice_complete (s : State) (u : Uses) (pc : Word) (c : CoreId) :
    ((s.complete u pc).core c).advice = (s.core c).advice := by
  obtain ⟨-, -, -, -, -, -, hcore⟩ := onlyHart_complete s u pc
  rw [hcore c]

/-- MARK in a user context. -/
theorem exec_mark_of_user {s : State} {x : UserCtx} {imm : BitVec 20} (hx : s.cur.ctx = userId x) : exec (.mark imm) s =
    .next ((s.modifyCore s.cur.core fun k => k.mark x { id := imm, snap := s.me.snapshotRegs }).complete {} (s.me.pc + 4)) := by
  have hlt : s.cur.ctx.val < 4 := by rw [hx]; exact x.isLt
  have hval : s.cur.ctx.val = (userId x).val := congrArg Fin.val hx
  have hctx : (⟨s.cur.ctx.val, hlt⟩ : UserCtx) = x := Fin.ext hval
  rw [exec_mark]
  refine issue_of_admits s.admits_nothing ?_
  rw [State.begun_of_open rfl, dif_pos hlt, hctx]

/-- Settles O6: what `Core.mark` leaves of the Second and of the hart. -/
theorem markCompletes : Obligations.MarkCompletes := by
  unfold Obligations.MarkCompletes
  intro s x imm hx
  dsimp only
  intro b hb hv
  have hme : s.me = (s.core s.cur.core).ctxs[x.val].hart := by
    rw [State.me, State.hart, hx, Core.hart_userId]
  refine ⟨_, exec_mark_of_user hx, by rw [State.me_complete, Hart.completed_pc], ?_, State.complete_dev _ _ _, ?_⟩
  · rw [State.me_complete, Hart.completed_x, State.me, State.hart, State.modifyCore_cur, State.core_modifyCore, hx, Core.hart_userId,
      Core.x_ctxs_mark, hme]
  · rw [State.advice_complete, State.core_modifyCore]
    rw [hme] at hb hv
    cases b with
    | none => rw [Core.advice_mark_none hb]
    | some bk => rw [Core.advice_mark_some hb (hv bk rfl), Advice.addMark_eq]

end Sys2Proof.Machine
end

section
/-!
The frame of the instructions that name registers alone (O52).
-/

namespace Sys2Proof.Machine

open Stated

/-! ### Scalar registers -/

theorem setFlag_getLsbD_ne {n : Nat} (x : BitVec n) {i j : Nat} (hn : i ≠ j) (b : Bool) : (setFlag x i b).getLsbD j = x.getLsbD j := by
  have hp : (BitVec.ofNat n (2 ^ i)).getLsbD j = false := by
    rw [BitVec.getLsbD_ofNat, Nat.testBit_two_pow_of_ne hn, Bool.and_false]
  unfold setFlag
  split
  · rw [BitVec.getLsbD_or, hp, Bool.or_false]
  · rw [BitVec.getLsbD_and, BitVec.getLsbD_not, hp]
    by_cases hj : j < n
    · simp [hj]
    · rw [BitVec.getLsbD_of_ge x j (Nat.le_of_not_lt hj), Bool.false_and]

theorem Hart.isFull_writeX_ne (h : Hart) (r q : Reg) (v : Word) (hq : q ≠ r) : (h.writeX r v).isFull q = h.isFull q := by
  have hn : r.toNat ≠ q.toNat := fun e => hq (BitVec.eq_of_toNat_eq e.symm)
  unfold Hart.isFull Hart.writeX
  split
  · rfl
  · rw [setFlag_getLsbD_ne _ hn]

/-- An instruction goes on with D written, and changes nothing else of the machine but the program counter. -/
def WritesScalar (i : Instr) (s : State) (u : Uses) (d : Reg) : Prop :=
  ∃ f : Hart → Word, exec i s = .next (s.after u fun h => h.writeX d (f h))

section
variable {s : State} {d a n : Reg} {b : Src} {fa : Bool} {imm : BitVec 14} {imm20 : BitVec 20}

theorem unary_writesScalar {i : Instr} {f : Word → Word} (hi : exec i s = scalarUnary d a fa f s) (ha : s.Admits (unaryUses d a fa)) :
    WritesScalar i s (unaryUses d a fa) d := ⟨_, hi.trans (scalarUnary_of_admits f ha)⟩

theorem floatUnary_writesScalar {i : Instr} {f : Rounding → Word → Word} (hi : exec i s = floatUnary d a fa f s)
    (ha : s.Admits (unaryUses d a fa)) : WritesScalar i s (unaryUses d a fa) d := ⟨_, hi.trans (floatUnary_of_admits f ha)⟩

theorem const_writesScalar {i : Instr} {f : Hart → Word} (hi : exec i s = scalarConst d f s) (ha : s.Admits (constUses d)) :
    WritesScalar i s (constUses d) d := ⟨_, hi.trans (scalarConst_of_admits f ha)⟩

theorem registerOnly_writesScalar : ∀ e ∈ registerOnly d a n b fa imm imm20, s.Admits e.2 →
    WritesScalar e.1 s e.2 d ∧ e.2.commits = false := by
  unfold registerOnly
  simp only [List.forall_mem_append, List.forall_mem_map, List.forall_mem_cons, List.not_mem_nil, false_imp_iff, implies_true, and_true]
  refine ⟨⟨⟨fun e he ha => ?integer, fun e he ha => ?float⟩, ?clz, ?ctz, ?popc, ?fsqrt, ?fcvtif, ?fcvtfi, ?fclass⟩,
    ?cmov, ?ffma, ?addi, ?li, ?fli, ?lc⟩
  case integer => exact ⟨⟨_, (exec_of_mem_integerTable d a b fa s e he).trans (scalarBinary_of_admits _ ha)⟩, rfl⟩
  case float => exact ⟨⟨_, (exec_of_mem_floatTable d a b fa s e he).trans (floatBinary_of_admits _ ha)⟩, rfl⟩
  case clz => exact fun ha => ⟨unary_writesScalar (exec_clz d a fa s) ha, rfl⟩
  case ctz => exact fun ha => ⟨unary_writesScalar (exec_ctz d a fa s) ha, rfl⟩
  case popc => exact fun ha => ⟨unary_writesScalar (exec_popc d a fa s) ha, rfl⟩
  case fsqrt => exact fun ha => ⟨floatUnary_writesScalar (exec_fsqrt d a fa s) ha, rfl⟩
  case fcvtif => exact fun ha => ⟨floatUnary_writesScalar (exec_fcvtif d a fa s) ha, rfl⟩
  case fcvtfi => exact fun ha => ⟨floatUnary_writesScalar (exec_fcvtfi d a fa s) ha, rfl⟩
  case fclass => exact fun ha => ⟨floatUnary_writesScalar (exec_fclass d a fa s) ha, rfl⟩
  case cmov => exact fun ha => ⟨⟨_, (exec_cmov d a b fa s).trans (issue_after (u := ternaryUses d a b fa) ha rfl rfl)⟩, rfl⟩
  case ffma => exact fun ha => ⟨⟨fun h => _, (exec_ffma d a b fa s).trans (issue_after (u := ternaryUses d a b fa) ha rfl rfl)⟩, rfl⟩
  case addi => exact fun ha => ⟨⟨_, (exec_addi d a imm s).trans (issue_after (u := unaryUses d a false) ha rfl rfl)⟩, rfl⟩
  case li => exact fun ha => ⟨const_writesScalar (exec_li d imm20 s) ha, rfl⟩
  case fli => exact fun ha => ⟨const_writesScalar (exec_fli d imm20 s) ha, rfl⟩
  case lc => exact fun ha => ⟨const_writesScalar (exec_lc d n s) ha, rfl⟩

/-- What a scalar instruction leaves as it was. -/
theorem WritesScalar.frame {i : Instr} {u : Uses} {t : State} (h : WritesScalar i s u d) (hc : u.commits = false)
    (ht : exec i s = .next t) : OnlyHart s t ∧ OtherRegisters s t d ∧ t.me = { s.me with
      x := t.me.x, full := t.me.full, pc := t.me.pc, eltDone := 0, popFault := false, appending := none, rowDone := 0 } := by
  obtain ⟨f, hf⟩ := h
  obtain rfl : s.after u (fun h => h.writeX d (f h)) = t := by
    rw [hf] at ht
    injection ht
  have hme := s.me_after hc fun h => h.writeX d (f h)
  refine ⟨onlyHart_after s u _, fun g hg => ⟨?_, ?_⟩, ?_⟩
  · rw [hme]
    exact Hart.readX_writeX_ne _ _ _ _ hg
  · rw [hme]
    exact Hart.isFull_writeX_ne _ _ _ _ hg
  · rw [hme]
    unfold Hart.writeX
    split <;> rfl

/-! ### Tiles and masks -/

theorem vectorBinary_writesActive {i : Instr} {op : Nat → Nat → Nat → Nat} (hi : exec i s = vectorBinary op d a b fa s)
    (ha : s.Admits (s.elemUses .vint d a b fa false)) (hub : Unbound s.me ([d, a] ++ srcTiles b)) :
    WritesActive i s (s.elemUses .vint d a b fa false) d fun j => op s.me.sew (vElem s.me a j) (bElem s.me false b j) := by
  refine writesActive_of_tiles hi rfl ha hub fun xs hx => ?_
  have hxa : tileOfName xs a = s.me.readV a := hx a List.mem_cons_self
  have hxb : s.me.Holds (srcTiles b) xs := fun r hr => hx r (List.mem_cons_of_mem a hr)
  simp only [hxa, Hart.elemB_eq hxb]
  rfl

theorem exec_of_mem_vectorIntegerTable (d a : Reg) (b : Src) (fa : Bool) (s : State) :
    ∀ e ∈ vectorIntegerTable, ∃ op, exec (e.1 d a b fa) s = vectorBinary op d a b fa s := by
  simp only [vectorIntegerTable, List.forall_mem_cons]
  exact ⟨⟨_, exec_vadd d a b fa s⟩, ⟨_, exec_vsub d a b fa s⟩, ⟨_, exec_vmul d a b fa s⟩, ⟨_, exec_vmulhs d a b fa s⟩,
    ⟨_, exec_vmulhu d a b fa s⟩, ⟨_, exec_vand d a b fa s⟩, ⟨_, exec_vor d a b fa s⟩, ⟨_, exec_vxor d a b fa s⟩,
    ⟨_, exec_vshl d a b fa s⟩, ⟨_, exec_vshr d a b fa s⟩, ⟨_, exec_vsra d a b fa s⟩, ⟨_, exec_vmins d a b fa s⟩,
    ⟨_, exec_vmaxs d a b fa s⟩, ⟨_, exec_vminu d a b fa s⟩, ⟨_, exec_vmaxu d a b fa s⟩, by simp⟩

theorem tileOnly_writesActive (hub : Unbound s.me ([d, a] ++ srcTiles b)) : ∀ e ∈ tileOnly s d a b fa, s.Admits e.2 →
    (∃ f, WritesActive e.1 s e.2 d f) ∧ e.2.commits = false := by
  unfold tileOnly
  simp only [List.forall_mem_append, List.forall_mem_map]
  refine ⟨⟨fun e he ha => ?integer, fun e he ha => ?float⟩, fun e he ha => ?unary⟩
  case integer =>
    obtain ⟨op, hop⟩ := exec_of_mem_vectorIntegerTable d a b fa s e he
    exact ⟨⟨_, vectorBinary_writesActive hop ha hub⟩, rfl⟩
  case float => exact ⟨⟨_, vfloatBinary_writesActive (exec_of_mem_vectorFloatTable d a b fa s e he) ha hub⟩, rfl⟩
  case unary =>
    exact ⟨⟨_, vfloatUnary_writesActive (exec_of_mem_vectorFloatUnaryTable d a fa s e he) ha
      (unbound_of_subset hub (List.subset_append_left _ _))⟩, rfl⟩

/-- What an instruction on a tile leaves as it was. -/
theorem writesTile_frame {i : Instr} {u : Uses} {t : State} {f : Nat → Option Nat} (h : WritesTile i s u d f) (hc : u.commits = false)
    (ht : exec i s = .next t) :
    OnlyHart s t ∧ (∀ r, r ≠ d → t.me.readV r = s.me.readV r) ∧ (∀ r, t.me.readM r = s.me.readM r) ∧
      (∀ j, s.me.tile ≤ j → elem s.me.sew (t.me.readV d) j = vElem s.me d j) ∧
      t.me = { s.me with
        vec := { s.me.vec with v := t.me.vec.v }, vfull := t.me.vfull, pc := t.me.pc, eltDone := 0, popFault := false,
          appending := none, rowDone := 0 } := by
  obtain ⟨x, hx, helem⟩ := h
  obtain rfl : s.after u (fun h => h.writeV d x) = t := by
    rw [hx] at ht
    injection ht
  have hme := s.me_after hc fun h => h.writeV d x
  refine ⟨onlyHart_after s u _, fun r hr => ?_, fun r => ?_, fun j hj => ?_, ?_⟩
  · rw [hme]
    exact Hart.readV_writeV_ne _ _ _ _ hr
  · rw [hme]
    rfl
  · rw [hme]
    refine (congrArg (elem s.me.sew · j) (Hart.readV_writeV s.me d x d.isLt)).trans ?_
    rw [helem j, if_neg (Nat.not_lt.2 hj)]
  · rw [hme]
    rfl

theorem Hart.readM_writeM_ne (h : Hart) (r q : Reg) (v : Nat) (hq : q ≠ r) : (h.writeM r v).readM q = h.readM q := by
  have hn : r.toNat ≠ q.toNat := fun e => hq (BitVec.eq_of_toNat_eq e.symm)
  simp only [Hart.readM, Hart.writeM, vget, vset]
  by_cases hq : q.toNat < 8 <;> by_cases hr : r.toNat < 8 <;> simp [hq, hr, hn]

theorem vectorCompare_writesMask {i : Instr} {fn : Nat} (hi : exec i s = vectorCompare fn d a b fa s)
    (ha : s.Admits (s.compareUses .vint d a b fa)) (hub : Unbound s.me (a :: srcTiles b)) :
    WritesMask i s (s.compareUses .vint d a b fa) d s.me.active fun j =>
      compareElems fn s.me.sew (vElem s.me a j) (bElem s.me false b j) = true := by
  refine writesMask_of_tiles hi rfl ha hub fun xs hx => congrArg Except.ok (State.modifyMe_congr ?_)
  have hxa : tileOfName xs a = s.me.readV a := hx a List.mem_cons_self
  have hxb : s.me.Holds (srcTiles b) xs := fun r hr => hx r (List.mem_cons_of_mem a hr)
  simp only [hxa, Hart.elemB_eq hxb]
  rfl

theorem exec_of_mem_vectorCompareTable (d a : Reg) (b : Src) (fa : Bool) (s : State) :
    ∀ e ∈ vectorCompareTable, ∃ fn, exec (e.1 d a b fa) s = vectorCompare fn d a b fa s := by
  simp only [vectorCompareTable, List.forall_mem_cons]
  exact ⟨⟨_, exec_vcmpeq d a b fa s⟩, ⟨_, exec_vcmplt d a b fa s⟩, ⟨_, exec_vcmpltu d a b fa s⟩, ⟨_, exec_vcmple d a b fa s⟩,
    ⟨_, exec_vcmpleu d a b fa s⟩, by simp⟩

/-- What an instruction on a mask leaves as it was. -/
theorem writesMask_frame {i : Instr} {u : Uses} {t : State} {on : Nat → Bool} {p : Nat → Prop} (h : WritesMask i s u d on p)
    (hc : u.commits = false) (ht : exec i s = .next t) :
    OnlyHart s t ∧ (∀ r, r ≠ d → t.me.readM r = s.me.readM r) ∧ (∀ r, t.me.readV r = s.me.readV r) ∧
      t.me = { s.me with
        vec := { s.me.vec with m := t.me.vec.m }, pc := t.me.pc, eltDone := 0, popFault := false, appending := none
        rowDone := 0 } := by
  obtain ⟨x, hx, -⟩ := h
  obtain rfl : s.after u (fun h => h.writeM d x) = t := by
    rw [hx] at ht
    injection ht
  have hme := s.me_after hc fun h => h.writeM d x
  refine ⟨onlyHart_after s u _, fun r hr => ?_, fun r => ?_, ?_⟩
  · rw [hme]
    exact Hart.readM_writeM_ne _ _ _ _ hr
  · rw [hme]
    rfl
  · rw [hme]
    rfl

end

/-- Settles O52: what each instruction writes, and the frame of that. -/
theorem registerFrame : Obligations.RegisterFrame := by
  unfold Obligations.RegisterFrame
  intro s t d a n b fa imm imm20
  refine ⟨fun e he ha ht => ?scalar, fun e he ha hub ht => ?tile, fun e he ha hub ht => ?compare⟩
  case scalar =>
    obtain ⟨hw, hc⟩ := registerOnly_writesScalar e he ha
    exact hw.frame hc ht
  case tile =>
    obtain ⟨⟨f, hf⟩, hc⟩ := tileOnly_writesActive hub e he ha
    exact writesTile_frame hf hc ht
  case compare =>
    obtain ⟨fn, hfn⟩ := exec_of_mem_vectorCompareTable d a b fa s e he
    exact writesMask_frame (vectorCompare_writesMask hfn ha hub) rfl ht

end Sys2Proof.Machine
end

section
/-!
Commits and fences (O21).  What a strip writes to main memory depends on the memory, its poison and the lost frames alone
(`MainMemory`), so that a commit which leaves nothing writes what the hart sees through its strip.
-/

namespace Sys2Proof.Machine

open Stated

/-! ### What an item of a strip writes to main memory -/

/-- Main memory with what the effects of a strip on it depend on: the poisoned lines and the lost frames (R135, R136). -/
structure MainMemory where
  mem : Mem
  poison : List Nat
  lost : List Nat

def State.main (s : State) : MainMemory := { mem := s.dev.mem, poison := s.dev.poison, lost := s.dev.lost }

/-- One store: none of a place elsewhere or on a lost frame. -/
def MainMemory.store (m : MainMemory) (e : Place × Nat × Nat) : MainMemory :=
  match e.1 with
  | .main pa => if m.lost.contains (Machine.frameOf pa) then m else { m with mem := m.mem.write pa e.2.1 e.2.2 }
  | _ => m

/-- An item of a strip, a scatter-add in its order. -/
def MainMemory.item (m : MainMemory) : StripItem → MainMemory
  | .stores es wrote =>
    let t := es.foldl MainMemory.store m
    let runs := mainRuns wrote ++ (mainRuns (storeRuns es)).filter fun r => touchesMark 64 m.poison r.1 r.2
    { t with poison := clearCovered 64 runs t.poison }
  | .scatter a _ =>
    if m.poison.contains (Machine.lineOf a.pa.toNat) || m.lost.contains (Machine.frameOf a.pa.toNat) then m
    else { m with mem := m.mem.write a.pa.toNat (scatterBytes a) (scatterSum a (m.mem.read a.pa.toNat (scatterBytes a))) }
  | .push _ _ _ _ _ => m
  | .command _ => m

theorem State.SameView.main {s t : State} (h : s.SameView t) : t.main = s.main := by
  obtain ⟨hm, hp, hl, -⟩ := h.dev_eq
  rw [State.main, State.main, hm, hp, hl]

theorem State.main_modifyMe (s : State) (f : Hart → Hart) : (s.modifyMe f).main = s.main := rfl

theorem State.main_fenceLaunch (s : State) (launch : Word) (cause : BitVec 8) : (s.fenceLaunch launch cause).main = s.main :=
  (s.sameView_fenceLaunch launch cause).main

theorem State.main_wakeCore (s : State) (c : CoreId) : (s.wakeCore c).main = s.main := by
  have queueWake (t : State) (w : Wake) : (t.modifyDev (·.queueWake w)).main = t.main := by
    unfold State.main
    rw [State.modifyDev_dev]
    unfold Device.queueWake
    split <;> rfl
  unfold State.wakeCore
  split
  · rfl
  · rfl
  · rfl
  · rfl
  · exact queueWake _ _

theorem State.main_notifyWrite (s : State) (core n : Nat) (x : Word) : (s.notifyWrite core n x).main = s.main := by
  unfold State.notifyWrite
  split
  · dsimp only
    split
    · rfl
    · split
      · rfl
      · exact s.main_wakeCore _
      · exact State.main_wakeCore _ _
  · rfl

theorem State.main_performStore (s : State) (e : Place × Nat × Nat) :
    (s.performStore e.1 e.2.1 e.2.2).main = s.main.store e := by
  obtain ⟨p, n, x⟩ := e
  cases p with
  | main pa =>
    have clear (d : Device) : (d.clearGroup pa n x).mem = d.mem ∧ (d.clearGroup pa n x).poison = d.poison ∧
        (d.clearGroup pa n x).lost = d.lost := by
      unfold Device.clearGroup
      split <;> exact ⟨rfl, rfl, rfl⟩
    obtain ⟨hm, hp, hl⟩ := clear (s.dev.store pa n x)
    simp only [State.performStore, MainMemory.store]
    by_cases h : s.dev.isLost pa = true
    · rw [if_pos h, if_pos (show s.main.lost.contains (Machine.frameOf pa) = true from h)]
      exact s.main_fenceLaunch _ _
    · rw [if_neg h, if_neg (show ¬ s.main.lost.contains (Machine.frameOf pa) = true from h), State.main, State.modifyDev_dev, hm, hp, hl]
      rfl
  | notify c r => exact s.main_notifyWrite c r _
  | _ => rfl

theorem State.main_performStores : (es : List (Place × Nat × Nat)) → (s : State) →
    (es.foldl (fun s e => s.performStore e.1 e.2.1 e.2.2) s).main = es.foldl MainMemory.store s.main
  | [], _ => rfl
  | e :: es, s => by
    rw [List.foldl_cons, List.foldl_cons, ← s.main_performStore e]
    exact State.main_performStores es _

/-- The runs of main memory among those that are held to the poison marks. -/
theorem mainRuns_filter_inPoison (s : State) : (rs : List (Place × Nat)) →
    mainRuns (rs.filter s.inPoison) = (mainRuns rs).filter fun r => touchesMark 64 s.main.poison r.1 r.2
  | [] => rfl
  | (p, n) :: rs => by
    have ih := mainRuns_filter_inPoison s rs
    cases p with
    | main pa =>
      have hin : s.inPoison (.main pa, n) = touchesMark 64 s.main.poison pa n := rfl
      rw [show mainRuns ((.main pa, n) :: rs) = (pa, n) :: mainRuns rs from rfl, List.filter_cons, List.filter_cons, hin]
      split
      · exact congrArg ((pa, n) :: ·) ih
      · exact ih
    | _ =>
      rw [List.filter_cons]
      split
      · exact ih
      · exact ih

theorem State.main_performMore (s : State) (wrote : List (Place × Nat)) (es : List (Place × Nat × Nat)) :
    (s.performMore wrote es).main = s.main.item (.stores es wrote) := by
  have hruns : mainRuns (s.poisonedRuns wrote es) =
      mainRuns wrote ++ (mainRuns (storeRuns es)).filter fun r => touchesMark 64 s.main.poison r.1 r.2 := by
    rw [← mainRuns_filter_inPoison]
    exact List.filterMap_append
  have hstores := State.main_performStores es s
  unfold State.performMore
  generalize es.foldl (fun s e => s.performStore e.1 e.2.1 e.2.2) s = t at hstores ⊢
  rw [MainMemory.item, ← hruns, ← hstores]
  rfl

/-- The scatter-adds among some items are made in their order: none is of floats or unordered (R75). -/
def Ordered (items : List StripItem) : Prop := ∀ a free, StripItem.scatter a free ∈ items → a.isFloat = false ∧ free = false

theorem Ordered.of_subset {xs ys : List StripItem} (h : Ordered ys) (hs : xs ⊆ ys) : Ordered xs := fun a free ha => h a free (hs ha)

theorem State.main_performItem {s : State} {i : StripItem} (h : Ordered [i]) : (s.performItem i).main = s.main.item i := by
  cases i with
  | stores es wrote => exact s.main_performMore wrote es
  | scatter a free =>
    obtain ⟨hf, hfree⟩ := h a free (List.mem_singleton_self _)
    have hadd : (!s.dev.addable a) = (s.main.poison.contains (Machine.lineOf a.pa.toNat) || s.main.lost.contains (Machine.frameOf a.pa.toNat)) := by
      rw [Device.addable, Bool.not_and, Bool.not_not, Bool.not_not]
      rfl
    simp only [State.performItem, State.performScatter, MainMemory.item, hf, hfree, Bool.false_and, Bool.or_false, Bool.false_eq_true,
      if_false, hadd]
    split
    · exact s.main_fenceLaunch _ _
    · rfl
  | push d st va n x => rfl
  | command t => rfl

theorem MainMemory.item_of_not_write (m : MainMemory) {i : StripItem} (h : i.isWrite = false) : m.item i = m := by
  cases i with
  | stores es wrote => cases h
  | scatter a free => cases h
  | push d st va n x => rfl
  | command t => rfl

/-- The writes among items that are done one after the other are all that matters to main memory. -/
theorem MainMemory.items_filter : (items : List StripItem) → (m : MainMemory) →
    (items.filter StripItem.isWrite).foldl MainMemory.item m = items.foldl MainMemory.item m
  | [], _ => rfl
  | i :: items, m => by
    rw [List.foldl_cons, List.filter_cons]
    split
    · exact MainMemory.items_filter items (m.item i)
    · rename_i h
      rw [m.item_of_not_write (Bool.not_eq_true _ ▸ h)]
      exact MainMemory.items_filter items m

theorem State.main_items : (items : List StripItem) → (s : State) → Ordered items →
    (items.foldl State.performItem s).main = items.foldl MainMemory.item s.main
  | [], _, _ => rfl
  | i :: items, s, h => by
    rw [List.foldl_cons, List.foldl_cons, ← State.main_performItem (h.of_subset (by simp))]
    exact State.main_items items _ (h.of_subset (List.subset_cons_self i items))

/-! ### What an item of a strip leaves of the hart -/

theorem State.me_wakeCore (s : State) (c : CoreId) : (s.wakeCore c).me = s.me := by
  unfold State.wakeCore
  split
  · rfl
  · rfl
  · exact State.modifyCore_me_of fun _ => rfl
  · exact State.modifyCore_me_of fun _ => rfl
  · exact State.modifyCore_me_of (s := s) (f := fun k => { k with power := .waking }) fun _ => rfl

theorem State.me_notifyWrite (s : State) (core n : Nat) (x : Word) : (s.notifyWrite core n x).me = s.me := by
  unfold State.notifyWrite
  split
  · dsimp only
    split
    · rfl
    · split
      · exact State.modifyCore_me_of fun _ => rfl
      · exact (State.modifyCore_me_of fun _ => rfl).trans (s.me_wakeCore _)
      · exact (State.me_wakeCore _ _).trans (State.modifyCore_me_of fun _ => rfl)
  · rfl

theorem State.me_fenceLaunch (s : State) (launch : Word) (cause : BitVec 8) :
    (s.fenceLaunch launch cause).me = s.me ∨ (s.fenceLaunch launch cause).me = s.me.fenceIf launch := by
  unfold State.me State.hart
  rw [s.fenceLaunch_cur]
  rcases s.core_fenceLaunch launch cause s.cur.core with h | h <;> rw [h]
  · exact .inl rfl
  · exact Core.hart_fenceLaunch launch _ _

section
variable {α : Type} {φ : Hart → α} (hf : ∀ (launch : Word) (h : Hart), φ (h.fenceIf launch) = φ h)
include hf

theorem State.part_fenceLaunch (s : State) (launch : Word) (cause : BitVec 8) : φ (s.fenceLaunch launch cause).me = φ s.me := by
  rcases s.me_fenceLaunch launch cause with h | h <;> rw [h]
  exact hf launch s.me

theorem State.part_performStore (s : State) (p : Place) (n x : Nat) : φ (s.performStore p n x).me = φ s.me := by
  cases p with
  | main pa =>
    simp only [State.performStore]
    split
    · exact s.part_fenceLaunch hf _ _
    · rfl
  | buffer c b a =>
    refine congrArg φ (State.modifyCore_me_of fun y => ?_)
    cases b <;> rfl
  | notify c r => exact congrArg φ (s.me_notifyWrite c r _)
  | _ => rfl

theorem State.part_performStores : (es : List (Place × Nat × Nat)) → (s : State) →
    φ (es.foldl (fun s e => s.performStore e.1 e.2.1 e.2.2) s).me = φ s.me
  | [], _ => rfl
  | e :: es, s => (State.part_performStores es _).trans (s.part_performStore hf e.1 e.2.1 e.2.2)

/-- A part of a hart that a fence leaves, an item of a strip leaves too, where the part holds neither the count of pushes nor
what the release of a copy command changes. -/
theorem State.part_performItem (hp : ∀ (h : Hart) (n : Nat), φ { h with pushes := n } = φ h)
    (hc : ∀ (h : Hart) (t : Word), φ (h.releaseCmd t) = φ h) (s : State) (i : StripItem) : φ (s.performItem i).me = φ s.me := by
  cases i with
  | stores es wrote =>
    refine Eq.trans (congrArg φ ?_) (State.part_performStores hf es s)
    exact State.modifyCore_me_of (s := State.modifyDev _ _) fun _ => rfl
  | scatter a free =>
    simp only [State.performItem, State.performScatter]
    split
    · exact s.part_fenceLaunch hf _ _
    · split <;> rfl
  | push d st va n x =>
    simp only [State.performItem, State.me_modifyMe]
    exact hp _ _
  | command t =>
    simp only [State.performItem, State.me_modifyMe]
    exact hc _ _

end

/-- The writes that a strip still holds. -/
def Hart.writesAhead (h : Hart) : List StripItem := h.strip.filter StripItem.isWrite

/-- Every read of the hart has performed. -/
def Hart.readsDone (h : Hart) : Bool := h.fills.all (·.reads.isEmpty)

theorem Hart.readsDone_iff (h : Hart) : h.readsDone = true ↔ ∀ f ∈ h.fills, f.reads = [] := by
  simp [Hart.readsDone]

theorem Hart.discardCmds_leave : (qs : List CopyCmd) → (h : Hart) →
    (qs.foldl Hart.discardCmd h).strip = h.strip ∧ (qs.foldl Hart.discardCmd h).fills = h.fills
  | [], _ => ⟨rfl, rfl⟩
  | q :: qs, h => by
    obtain ⟨h1, h2⟩ := Hart.discardCmds_leave qs (h.discardCmd q)
    have one : (h.discardCmd q).strip = h.strip ∧ (h.discardCmd q).fills = h.fills := by
      unfold Hart.discardCmd Hart.returnSlot
      split <;> exact ⟨rfl, rfl⟩
    exact ⟨h1.trans one.1, h2.trans one.2⟩

theorem Hart.writesAhead_fenceIf (launch : Word) (h : Hart) : (h.fenceIf launch).writesAhead = h.writesAhead := by
  have hs : h.endCommands.strip = h.strip := (Hart.discardCmds_leave _ h).1
  unfold Hart.fenceIf Hart.writesAhead
  split
  · simp only [Hart.keepItems, hs, List.filter_filter]
    refine congrArg (List.filter · h.strip) (funext fun i => ?_)
    cases i <;> rfl
  · rfl

theorem Hart.readsDone_fenceIf (launch : Word) (h : Hart) : (h.fenceIf launch).readsDone = h.readsDone := by
  have hs : h.endCommands.fills = h.fills := (Hart.discardCmds_leave _ h).2
  unfold Hart.fenceIf Hart.readsDone
  split
  · simp [Hart.keepItems, hs, Function.comp_def]
  · rfl

/-! ### A commit that leaves nothing -/

theorem State.strip_performThese (s : State) (these : PendingRead → Bool) : (s.performThese these).me.strip = s.me.strip := by
  rw [State.performThese, State.takeForeign_me, State.me_modifyMe]

theorem State.main_performThese (s : State) (these : PendingRead → Bool) : (s.performThese these).main = s.main := by
  rw [State.performThese, State.main, State.takeForeign_dev]
  rfl

/-- The state in which the first item of a strip takes effect: the reads that stand before it have performed (R303, R305). -/
def State.beforeItem (s : State) (i : StripItem) : State := if i.isWrite then s.performThese (·.upTo == 0) else s

theorem State.strip_beforeItem (s : State) (i : StripItem) : (s.beforeItem i).me.strip = s.me.strip := by
  unfold State.beforeItem
  split
  · exact s.strip_performThese _
  · rfl

theorem State.main_beforeItem (s : State) (i : StripItem) : (s.beforeItem i).main = s.main := by
  unfold State.beforeItem
  split
  · exact s.main_performThese _
  · rfl

section
variable {s : State} {i : StripItem} {rest : List StripItem} (hs : s.me.strip = i :: rest)
include hs

/-- The first item takes effect whole. -/
theorem State.commitFirst_whole : s.commitFirst none = ((s.beforeItem i).modifyMe (·.replaceFirst [])).performItem i := by
  unfold State.commitFirst
  rw [hs]
  cases i <;> rfl

/-- An item that takes effect in part is not the last of its strip. -/
theorem State.commitFirst_part {n : Nat} (h0 : n ≠ 0) (hn : n < i.size) : (s.commitFirst (some n)).me.strip ≠ [] := by
  unfold State.commitFirst
  rw [hs]
  cases i with
  | stores es wrote =>
    simp only [State.me_modifyMe]
    exact List.cons_ne_nil _ _
  | scatter a free | push d st va m x | command t => exact absurd hn (by simp only [StripItem.size]; omega)

theorem State.writesAhead_commitFirst : (s.commitFirst none).me.writesAhead = rest.filter StripItem.isWrite := by
  rw [State.commitFirst_whole hs, State.part_performItem Hart.writesAhead_fenceIf (fun _ _ => rfl) (fun _ _ => rfl), State.me_modifyMe,
    Hart.writesAhead, Hart.replaceFirst, s.strip_beforeItem, hs]
  rfl

theorem State.main_commitFirst (ho : Ordered s.me.writesAhead) : (s.commitFirst none).main = s.main.item i := by
  rw [State.commitFirst_whole hs]
  cases hw : i.isWrite with
  | true =>
    have hi : Ordered [i] := ho.of_subset (by
      rw [Hart.writesAhead, hs, List.filter_cons, if_pos hw]
      simp)
    rw [State.main_performItem hi, State.main_modifyMe, s.main_beforeItem]
  | false =>
    have hi : Ordered [i] := fun a free h => by
      rw [← List.mem_singleton.1 h] at hw
      cases hw
    rw [State.main_performItem hi, State.main_modifyMe, s.main_beforeItem]

theorem State.readsDone_commitFirst (hd : s.me.readsDone = true) : (s.commitFirst none).me.readsDone = true := by
  have hb : (s.beforeItem i).me.readsDone = true := by
    unfold State.beforeItem
    split
    · rw [State.performThese, State.takeForeign_me, State.me_modifyMe, Hart.readsDone_iff]
      rw [Hart.readsDone_iff] at hd
      intro f hf
      obtain ⟨g, hg, rfl⟩ := List.mem_map.1 hf
      rw [State.performSome_of_done (hd g hg)]
      exact hd g hg
    · exact hd
  rw [State.commitFirst_whole hs, State.part_performItem Hart.readsDone_fenceIf (fun _ _ => rfl) (fun _ _ => rfl), State.me_modifyMe, ← hb]
  simp [Hart.readsDone, Hart.replaceFirst, Function.comp_def]

end

/-- A commit that leaves nothing has taken every item whole: what each item keeps, the commit keeps. -/
theorem State.commitItems_whole {P : State → Prop}
    (hP : ∀ (s : State) (i : StripItem) (rest : List StripItem), s.me.strip = i :: rest → P s → P (s.commitFirst none)) :
    (fuel : Nat) → (pace : Option Nat) → (s : State) → (State.commitItems fuel pace s).me.strip = [] → P s →
      P (State.commitItems fuel pace s)
  | 0, _, _, _, h => h
  | fuel + 1, pace, s, he, h => by
    unfold State.commitItems at he ⊢
    cases hs : s.me.strip with
    | nil => simpa only [hs] using h
    | cons i rest =>
      have hfirst := hP s i rest hs h
      simp only [hs] at he ⊢
      by_cases hh : s.holdsItem i = true
      · rw [if_pos hh]
        exact h
      · rw [if_neg hh] at he ⊢
        cases pace with
        | none => exact State.commitItems_whole hP fuel none _ he hfirst
        | some n =>
          dsimp only at he ⊢
          by_cases hn : i.size ≤ n
          · rw [if_pos hn] at he ⊢
            exact State.commitItems_whole hP fuel _ _ he hfirst
          · rw [if_neg hn] at he ⊢
            by_cases h0 : n = 0
            · rw [if_pos h0]
              exact h
            · rw [if_neg h0] at he
              exact absurd he (State.commitFirst_part hs h0 (Nat.lt_of_not_le hn))

/-- What a commit makes of the hart once its items have taken effect, of a strip that was empty or not. -/
def Hart.closed (empty : Bool) (h : Hart) : Hart :=
  { h with
    pace := if empty then h.pace else none
    stripCount := if h.strip.isEmpty then 0 else h.stripCount
    closing := h.closing && !h.strip.isEmpty }

/-- The writes that the strip has still to make bring main memory to `m`. -/
def State.WritesTo (t : State) (m : MainMemory) : Prop :=
  Ordered t.me.writesAhead ∧ t.me.writesAhead.foldl MainMemory.item t.main = m

section
variable {s : State} (he : s.commitStrip.me.strip = [])
include he

theorem State.commitStrip_whole {P : State → Prop} (hs : P s)
    (hP : ∀ (s : State) (i : StripItem) (rest : List StripItem), s.me.strip = i :: rest → P s → P (s.commitFirst none))
    (hm : ∀ t : State, P t → P (t.modifyMe (Hart.closed s.me.strip.isEmpty))) : P s.commitStrip := by
  have he' : (State.commitItems s.me.strip.length s.me.pace s).me.strip = [] := by
    rw [State.commitStrip_eq, State.me_modifyMe] at he
    exact he
  have hP' := State.commitItems_whole hP _ _ s he' hs
  rw [State.commitStrip_eq]
  exact hm _ hP'

/-- A commit that leaves nothing writes what the hart saw through its strip (R133, R179). -/
theorem State.main_commitStrip (ho : Ordered s.me.strip) : s.commitStrip.main = s.viewed.main := by
  have hstart : s.WritesTo s.viewed.main := by
    refine ⟨ho.of_subset (List.filter_subset_self _), ?_⟩
    rw [State.viewed, State.main_items _ _ ho, Hart.writesAhead, MainMemory.items_filter]
  obtain ⟨-, hend⟩ : s.commitStrip.WritesTo s.viewed.main := by
    refine State.commitStrip_whole (P := (State.WritesTo · s.viewed.main)) he hstart (fun t i rest ht h => ?_) fun t h => ?_
    · obtain ⟨hord, hview⟩ := h
      have hrest := State.writesAhead_commitFirst ht
      have hsub : rest.filter StripItem.isWrite ⊆ t.me.writesAhead := by
        rw [Hart.writesAhead, ht]
        exact List.filter_subset _ (List.subset_cons_self i rest)
      refine ⟨hrest ▸ hord.of_subset hsub, ?_⟩
      rw [hrest, State.main_commitFirst ht hord, MainMemory.items_filter]
      rwa [Hart.writesAhead, ht, MainMemory.items_filter] at hview
    · unfold State.WritesTo
      rw [State.me_modifyMe]
      exact h
  rwa [Hart.writesAhead, he] at hend

theorem State.readsDone_commitStrip (hd : s.me.readsDone = true) : s.commitStrip.me.readsDone = true := by
  refine State.commitStrip_whole (P := fun t => t.me.readsDone = true) he hd (fun t i rest ht h => State.readsDone_commitFirst ht h)
    fun t h => ?_
  rw [State.me_modifyMe]
  exact h

end

/-! ### Fences (R282, R305) -/

theorem Fill.reads_takes (s : State) (rs : List PendingRead) (f : Fill) :
    (rs.foldl (fun g r => g.take r (s.readPending r)) f).reads = f.reads := by
  induction rs generalizing f with
  | nil => rfl
  | cons r rs ih => exact ih _

theorem State.readsDone_performReads (s : State) : s.performReads.me.readsDone = true := by
  rw [State.performReads, State.takeForeign_me, State.me_modifyMe, Hart.readsDone_iff]
  intro _ hf
  obtain ⟨g, -, rfl⟩ := List.mem_map.1 hf
  exact Fill.reads_takes s g.reads _

/-- The state in which the open strip commits for an instruction. -/
def State.ordering (s : State) (u : Uses) : State := if u.orders || u.releases == some true then s.performReads else s

theorem State.ordering_leaves (s : State) (u : Uses) : (s.ordering u).me.strip = s.me.strip ∧ (s.ordering u).main = s.main := by
  unfold State.ordering
  split
  · refine ⟨by rw [State.performReads, State.takeForeign_me, State.me_modifyMe], ?_⟩
    rw [State.performReads, State.main, State.takeForeign_dev]
    rfl
  · exact ⟨rfl, rfl⟩

theorem State.begun_eq {u : Uses} (hu : u.commits = true) (s : State) : s.begun u =
    (s.ordering u).commitStrip.modifyMe fun h => if h.strip.isEmpty then h.beginStrip h.pc else h := if_pos hu

section
variable {s : State} {u : Uses} (hu : u.commits = true) (ha : s.Admits u)
include hu ha

theorem State.commitStrip_of_admits : (s.ordering u).commitStrip.me.strip = [] := by
  have h := ha.commits hu
  rw [show s.committed u = s.begun u from (if_pos hu).symm, State.begun_eq hu, State.me_modifyMe] at h
  split at h
  · exact h
  · exact h

theorem State.me_begun : (s.begun u).me = (s.ordering u).commitStrip.me.beginStrip (s.ordering u).commitStrip.me.pc := by
  rw [State.begun_eq hu, State.me_modifyMe, State.commitStrip_of_admits hu ha]
  rfl

/-- What an instruction that commits finds done (R179). -/
theorem begun_commits : (s.begun u).me.strip = [] ∧ (s.begun u).me.stripCount = 0 ∧
    ((∀ a free, StripItem.scatter a free ∈ s.me.strip → a.isFloat = false ∧ free = false) →
      (s.begun u).dev.mem = s.viewed.dev.mem) := by
  have hempty := State.commitStrip_of_admits hu ha
  obtain ⟨hstrip, hmain⟩ := s.ordering_leaves u
  rw [State.me_begun hu ha, Hart.beginStrip_strip, Hart.beginStrip_stripCount]
  refine ⟨hempty, State.commitStrip_stripCount hempty, fun ho => ?_⟩
  have hview : (s.ordering u).viewed.main = s.viewed.main := by
    rw [State.viewed, State.viewed, hstrip, State.main_items _ _ ho, State.main_items _ _ ho, hmain]
  have hbegun : (s.begun u).main = s.viewed.main := by
    rw [State.begun_eq hu, State.main_modifyMe, State.main_commitStrip hempty (hstrip ▸ ho), hview]
  exact congrArg MainMemory.mem hbegun

/-- An instruction that orders reads finds every read of the hart performed (R305). -/
theorem begun_ordered (ho : u.orders = true) : ∀ f ∈ (s.begun u).me.fills, f.reads = [] := by
  have hempty := State.commitStrip_of_admits hu ha
  have hreads : (s.ordering u).me.readsDone = true := by
    rw [State.ordering, ho, Bool.true_or, if_pos rfl]
    exact s.readsDone_performReads
  rw [State.me_begun hu ha, Hart.beginStrip_fills]
  exact (Hart.readsDone_iff _).1 (State.readsDone_commitStrip hempty hreads)

/-- A release finds what it covers performed (R317, R326). -/
theorem begun_covered {system : Bool} (hr : u.releases = some system) : (s.begun u).me.followPending = false ∧
    (system = true → (s.begun u).pushesOf s.cur.core s.cur.ctx none = false) := by
  have h := ha.released hu system hr
  rw [State.releaseWaits, s.begun_cur, Bool.or_eq_false_iff, Bool.or_eq_false_iff] at h
  obtain ⟨⟨hfollow, -⟩, hpushes⟩ := h
  refine ⟨hfollow, fun hs => ?_⟩
  rwa [hs, Bool.true_and] at hpushes

end

/-- STRIPC, where no load of the strip is outstanding. -/
theorem exec_stripc_of_arrived {s : State} (h : ∀ f ∈ s.me.fills, f.vector = false) :
    exec .stripc s = issue s { commits := true } fun s => .ok s := by
  have hany : s.me.fills.any (·.vector) = false := by
    rw [List.any_eq_false]
    intro f hf
    simp [h f hf]
  rw [exec_stripc, execStripc, if_neg (by rw [hany]; exact Bool.false_ne_true)]

/-- Settles O21: each instruction goes on from the state in which its strip has committed, and that state is
`begun_commits`, `begun_ordered` and `begun_covered`. -/
theorem commitsAndFences : Obligations.CommitsAndFences := by
  unfold Obligations.CommitsAndFences
  intro s u acquire full release commits ordered covered
  refine ⟨fun ha => ⟨?stripc, ?fenceIfetch, begun_commits rfl ha⟩, fun ha => ⟨?fenceAcq, begun_commits rfl ha, begun_ordered rfl ha rfl⟩,
    fun ha => ⟨?fenceFull, begun_commits rfl ha, begun_ordered rfl ha rfl, begun_covered rfl ha rfl⟩,
    fun ha => ⟨?fenceRel, begun_commits rfl ha, begun_covered rfl ha rfl⟩⟩
  case stripc => exact goes_of_body (exec_stripc_of_arrived (ha.arrived rfl)) ha rfl
  case fenceIfetch => exact goes_of_body (exec_fenceIfetch s) ha rfl
  case fenceAcq => exact goes_of_body (exec_fenceAcq s) ha rfl
  case fenceFull => exact goes_of_body (body := fun s => .ok s) (exec_fenceFull s) ha rfl
  case fenceRel => exact goes_of_body (body := fun s => .ok s) (exec_fenceRel s) ha rfl

end Sys2Proof.Machine
end

section
/-!
Scalar stores (O8, R131, R177): what joins the open strip, and that nothing else happens before it commits.
-/

namespace Sys2Proof.Machine

open Stated

/-- A scalar store whose address is aligned and translates puts the low bytes of D at the end of the open strip. -/
theorem scalarStore_next {n : Nat} {s : State} {d a : Reg} {off : BitVec 8} {fa fd : Bool} {p : Place} {va : Word}
    (hva : va = BitVec.ofInt 64 ((s.me.readX a).toInt + off.toInt * n)) (ha : s.Admits (storeUses d a fa fd))
    (hal : va.toNat % n = 0) (hp : s.place (.scalar (n == 8)) .store va = .ok p) :
    scalarStore n d a off fa fd s = .next ((s.count p).after (storeUses d a fa fd) fun h =>
      { h with strip := h.strip ++ [.stores [(p, n, (h.readX d).toNat % 2 ^ (8 * n))]] }) := by
  rw [← memAddress_eq] at hva
  subst hva
  rw [State.after, State.count_me]
  refine issue_of_admits ha ?_
  rw [s.begun_of_open rfl]
  simp only [hp, isAligned_of hal, Bool.not_true, Bool.false_eq_true, if_false]

theorem storeTable_stores : ∀ e ∈ storeTable, ∀ d a off fa fd s,
    exec (e.1 d a off fa fd) s = scalarStore e.2 d a off fa fd s := by
  simp only [storeTable, List.forall_mem_cons, List.not_mem_nil, false_imp_iff, implies_true, and_true]
  exact ⟨exec_stb, exec_sth, exec_stw, exec_std⟩

/-- Settles O8: each store of the table is `scalarStore`. -/
theorem storesComplete : Obligations.StoresComplete := by
  unfold Obligations.StoresComplete
  intro e he s d a off fa fd p n va ha hal hp
  rw [storeTable_stores e he]
  exact scalarStore_next rfl ha hal hp

end Sys2Proof.Machine
end

section
/-!
An atomic commits the open strip first (R181), and the commit may meet a lost frame: the launch is fenced (R135, R417), its
queued copy commands are discarded, and each returns its slot to its circular buffer (R151, R156).  The counts of the
circular buffers stand with the vector state, which therefore changes (O53).
-/

namespace Sys2Proof.Machine

open Stated

@[simp] theorem State.me_putWord (s : State) (pa x : Nat) : (s.putWord pa x).me = s.me := rfl

/-- An atomic leaves the vector state as the commit of the strip has left it. -/
theorem atomic_keeps_begun_vec {e : (Reg → Reg → Reg → BitVec 2 → Bool → Bool → Instr) × (Word → Word → Word)}
    (he : e ∈ atomicTable) {s : State} {d a b : Reg} {ord : BitVec 2} {fa fb : Bool} {pa : Nat} {u : Uses}
    (hu : u = atomicUses false d a b fa fb (ordRelease s.me ord)) (ha : s.Admits u) (hf : FreeWord (s.begun u) a pa) :
    ∃ t, exec (e.1 d a b ord fa fb) s = .next t ∧ t.me.vec = (s.begun u).me.vec := by
  refine ⟨_, (exec_of_mem_atomicTable d a b ord fa fb s e he).trans (scalarAtomic_of_free hu rfl ha hf nofun), ?_⟩
  rw [State.me_complete, Hart.completed_vec]
  rw [State.rmwWord, Bool.false_and, if_neg Bool.false_ne_true, State.me_putWord, State.tookWord, State.me_modifyMe,
    Hart.writeX_vec, State.count_me]

end Sys2Proof.Machine

namespace Sys2Proof.Machine.LostStore

open Stated

/-- Tables whose first page is at frame 4. -/
def tables : Mem :=
  ((Mem.write [] 0x10000 8 0x20001).write 0x20000 8 0x30001).write 0x30000 8 0x4001F

/-- A queued copy into circular buffer 0 that holds a slot. -/
def copy : CopyCmd :=
  { ticket := 1, pc := 0, src := 0, dst := 0, shape := BitVec.ofNat 64 (2 ^ 63), strides := 0, follow := none
    phase := .queued, started := true, slotBase := some 0 }

/-- A hart whose open strip has one store, into frame 9. -/
def hart : Hart :=
  { pc := 0x10000
    x := Vector.ofFn fun i : Fin 48 => if i.val = 32 then 0x1000 else 0
    link := { root := 0x10000, launch := 7, graph := 8, phase := 9, job := 10, harts := 1 }
    strip := [.stores [(.main 0x90000, 8, 5)] []]
    cmds := [copy] }

/-- The hart runs, its launch is placed, and frame 9 is lost. -/
def start : State :=
  (((State.reset.modifyDev fun d =>
    { d with
      mem := tables, ready := true, dommap := 1, lost := [9]
      placed := [{ link := hart.link, book := none, live := 1, fenced := false }] }).setHart 0 0 hart).setStatus 0 0 .running).actingAs 0 0

abbrev uses : Uses := atomicUses false 3 32 2 false false none

theorem start_admits : start.Admits uses where
  legal := by decide +kernel
  reads := by decide +kernel
  writes := by decide +kernel
  mode := by decide +kernel
  user := by decide +kernel
  fields := by decide +kernel
  owned := by decide +kernel
  sources := by decide +kernel
  dests := by decide +kernel
  started := by decide +kernel
  awake := by decide +kernel
  arrived := by decide +kernel
  commits := by decide +kernel
  released := by decide +kernel

theorem free_word : FreeWord (start.begun uses) 32 0x41000 where
  aligned := by decide +kernel
  placed := by decide +kernel
  clean := by decide +kernel
  unblocked := by decide +kernel

/-- The command that the fence discarded has returned its slot. -/
theorem begun_returns_slot : (start.begun uses).me.vec ≠ start.me.vec := by decide +kernel

/-- Refutes O53: the copy command's slot has come back in the circular buffer, so the vector state is another. -/
theorem not_memoryFrame : ¬ Obligations.MemoryFrame := by
  unfold Obligations.MemoryFrame
  intro h
  have hadd : (Instr.amoadd, fun x y : Word => x + y) ∈ atomicTable := by simp [atomicTable]
  obtain ⟨t, ht, hvec⟩ := atomic_keeps_begun_vec hadd (ord := 0) rfl start_admits free_word
  obtain ⟨-, -, -, hatomic⟩ := h start t 3 32 2 0 0 false false (.main 0) 0x41000
  obtain ⟨-, hkept, -⟩ := hatomic _ hadd start_admits free_word.aligned
    free_word.placed free_word.clean free_word.unblocked (by decide +kernel) ht
  exact begun_returns_slot (hvec.symm.trans hkept)

end Sys2Proof.Machine.LostStore
end

section
/-!
Every instruction and every act goes on to a next state, but a host access through BAR2 beyond main memory (O58).
-/

namespace Sys2Proof.Machine

open Stated

/-! ### Outcomes that go on -/

/-- The outcome is a next state. -/
def GoesOn (o : Host.Outcome State Fault Refusal) : Prop := ∃ t, o = .next t

theorem goesOn_next (t : State) : GoesOn (.next t) := ⟨t, rfl⟩

theorem goesOn_finish (r : Except Stop State) : GoesOn (finish r) := finish_next r

theorem goesOn_ite {p : Prop} [Decidable p] {a b : Host.Outcome State Fault Refusal} (ha : GoesOn a) (hb : GoesOn b) :
    GoesOn (if p then a else b) := by
  split
  · exact ha
  · exact hb

theorem goesOn_service (s : State) (code : Nat) (result : State → Nat × State) : GoesOn (s.service code result) :=
  goesOn_ite (goesOn_next s) (goesOn_next _)

/-! ### The acts of the engines, of other devices and of the host -/

theorem goesOn_execAwait {imm : BitVec 20} {s : State} : GoesOn (execAwait imm s) := by
  unfold execAwait
  repeat' split
  all_goals exact goesOn_next _

theorem goesOn_execSecondMarkConsume {core : CoreId} {ctx : UserCtx} {s : State} :
    GoesOn (execSecondMarkConsume core ctx s) := by
  unfold execSecondMarkConsume
  dsimp only
  repeat' split
  all_goals exact goesOn_next _

theorem goesOn_execAdviceActionAccept {core : CoreId} {ctx : UserCtx} {s : State} :
    GoesOn (execAdviceActionAccept core ctx s) := by
  unfold execAdviceActionAccept
  dsimp only
  repeat' split
  all_goals exact goesOn_next _

theorem goesOn_execCopyCommandComplete {core : CoreId} {ctx : ContextId} {s : State} :
    GoesOn (execCopyCommandComplete core ctx s) := by
  unfold execCopyCommandComplete
  repeat' split
  all_goals exact goesOn_next _

theorem goesOn_execMmaComplete {core : CoreId} {turn : MmaTurn} {s : State} : GoesOn (execMmaComplete core turn s) := by
  unfold execMmaComplete
  dsimp only
  repeat' split
  all_goals exact goesOn_next _

theorem goesOn_execAcqGrant {core : CoreId} {ctx : UserCtx} {s : State} : GoesOn (execAcqGrant core ctx s) := by
  unfold execAcqGrant
  dsimp only
  repeat' split
  all_goals exact goesOn_next _

theorem goesOn_execWatermarkRelease {core : CoreId} {ctx : UserCtx} {s : State} : GoesOn (execWatermarkRelease core ctx s) := by
  unfold execWatermarkRelease
  repeat' split
  all_goals exact goesOn_next _

theorem goesOn_execXredPacketArrival {message : XMessage} {s : State} : GoesOn (execXredPacketArrival message s) := by
  unfold execXredPacketArrival
  repeat' split
  all_goals exact goesOn_next _

theorem goesOn_execStreamElementFetch {core : CoreId} {ctx : ContextId} {stream : StreamId} {reply : RemoteReply} {s : State} :
    GoesOn (execStreamElementFetch core ctx stream reply s) := by
  unfold execStreamElementFetch
  dsimp only
  repeat' split
  all_goals exact goesOn_next _

theorem goesOn_execStreamDoneadd {core : CoreId} {ctx : ContextId} {stream : StreamId} {reply : RemoteReply} {s : State} :
    GoesOn (execStreamDoneadd core ctx stream reply s) := by
  unfold execStreamDoneadd
  dsimp only
  repeat' split
  all_goals exact goesOn_next _

theorem goesOn_execRemotePushPerform {request : RemoteRequest} {data : BitVec 64} {stage : PushStage} {s : State} :
    GoesOn (execRemotePushPerform request data stage s) := by
  unfold execRemotePushPerform
  repeat' split
  all_goals exact goesOn_next _

theorem goesOn_execStripCommitComplete {core : CoreId} {ctx : ContextId} {s : State} :
    GoesOn (execStripCommitComplete core ctx s) := by
  unfold execStripCommitComplete
  dsimp only
  repeat' split
  all_goals exact goesOn_next _

theorem goesOn_execJobRetired {job : BitVec 64} {s : State} : GoesOn (execJobRetired job s) := by
  unfold execJobRetired
  repeat' split
  all_goals exact goesOn_next _

theorem goesOn_execLaunchPlacement {s : State} : GoesOn (execLaunchPlacement s) := by
  unfold execLaunchPlacement
  split
  · exact goesOn_next s
  · dsimp only
    split
    all_goals exact goesOn_next _

theorem goesOn_execArbiterBoundary {core : CoreId} {s : State} : GoesOn (execArbiterBoundary core s) := by
  unfold execArbiterBoundary
  repeat' split
  all_goals exact goesOn_next _

theorem goesOn_execCorrectedError {core : CoreId} {lane : Option Lane} {s : State} :
    GoesOn (execCorrectedError core lane s) := by
  unfold execCorrectedError
  split
  · exact goesOn_next s
  · exact goesOn_ite (goesOn_next _) (goesOn_next _)

theorem goesOn_execPowerHoldExpire {core : CoreId} {part : PowerPart} {s : State} :
    GoesOn (execPowerHoldExpire core part s) := by
  unfold execPowerHoldExpire
  repeat' split
  all_goals exact goesOn_next _

theorem goesOn_execSwitchOpeningComplete {core : CoreId} {part : PowerPart} {s : State} :
    GoesOn (execSwitchOpeningComplete core part s) := by
  unfold execSwitchOpeningComplete
  repeat' split
  all_goals exact goesOn_next _

theorem goesOn_execInrushGrant {s : State} : GoesOn (execInrushGrant s) := by
  unfold execInrushGrant
  repeat' split
  all_goals exact goesOn_next _

theorem goesOn_execFrameMoveSwitch {frame : BitVec 36} {s : State} : GoesOn (execFrameMoveSwitch frame s) := by
  unfold execFrameMoveSwitch
  repeat' split
  all_goals exact goesOn_next _

theorem goesOn_execBufferWordError {core : CoreId} {buf : TypedBuf} {word : BitVec 19} {s : State} :
    GoesOn (execBufferWordError core buf word s) := by
  unfold execBufferWordError
  dsimp only
  split
  · exact goesOn_ite (goesOn_next _) (goesOn_next _)
  · exact goesOn_next _

theorem goesOn_execTinvComplete {s : State} : GoesOn (execTinvComplete s) := by
  unfold execTinvComplete
  repeat' split
  all_goals exact goesOn_next _

theorem goesOn_execExit (s : State) : GoesOn (execExit s) := by
  unfold execExit
  split
  · exact goesOn_finish _
  · split
    · exact goesOn_finish _
    · exact goesOn_ite (goesOn_next _) (goesOn_finish _)

theorem goesOn_execRrInstall (s : State) : GoesOn (execRrInstall s) :=
  goesOn_ite (goesOn_next _) (goesOn_ite (goesOn_next _) (goesOn_next _))

theorem goesOn_execRrRemove (s : State) : GoesOn (execRrRemove s) :=
  goesOn_ite (goesOn_next _) (goesOn_ite (goesOn_next _) (goesOn_next _))

theorem goesOn_execSvcRetiremod (s : State) : GoesOn (execSvcRetiremod s) := by
  unfold execSvcRetiremod
  split
  · exact goesOn_service s _ _
  · exact goesOn_ite (goesOn_next _) (goesOn_ite (goesOn_next _) (goesOn_next _))

theorem goesOn_execSvcRecal (s : State) : GoesOn (execSvcRecal s) :=
  goesOn_ite (goesOn_next _) (goesOn_ite (goesOn_service s _ _) (goesOn_ite (goesOn_service s _ _) (goesOn_next _)))

theorem goesOn_writeCommand (s : State) (x : Word) : GoesOn (s.writeCommand x) := by
  unfold State.writeCommand
  split
  case h_2 => exact goesOn_execSvcRetiremod s
  case h_4 => exact goesOn_execSvcRecal s
  all_goals exact goesOn_service _ _ _

theorem goesOn_execRegisterWrite {offset : BitVec 20} {value : BitVec 64} {s : State} :
    GoesOn (execRegisterWrite offset value s) := by
  unfold execRegisterWrite
  extract_lets off q
  clear_value off q
  split
  · split
    all_goals exact goesOn_next _
  · split
    · exact goesOn_ite (goesOn_next _) (goesOn_next _)
    · exact goesOn_ite (goesOn_next _) (goesOn_next _)
    · exact goesOn_ite (goesOn_next _) (goesOn_next _)
    · split
      · exact goesOn_execRrInstall s
      · exact goesOn_execRrRemove s
      · exact goesOn_next s
    · exact goesOn_next _
    · exact goesOn_writeCommand s value
    · exact goesOn_next _

/-! ### Every instruction and every act but that of the host at BAR2 -/

/-- An access of the host through BAR2. -/
@[simp] def IsHostAccess (i : Instr) : Prop := ∃ offset access data, i = .hostBar2Access offset access data

theorem goesOn_exec {i : Instr} (h : ¬IsHostAccess i) (s : State) : GoesOn (exec i s) := by
  cases i with
  | add | sub | mul | mulhs | mulhu | divs | divu | rems | remu | and | or | xor | andn | shl | shr | sra | rotl | clz
    | ctz | popc | mins | maxs | minu | maxu | slt | sltu | seq | cmov | exts | addi | li | fli | lc | fadd | fsub
    | fmul | fdiv | fsqrt | fmin | fmax | ffma | feq | flt | fle | fcvtif | fcvtfi | fsgnj | fclass | br | jal | jr
    | jtab | mark | strip | ldb | ldh | ldw | ldd | ldbs | ldhs | ldws | stb | sth | stw | std | amoadd | amoand
    | amoor | amoxor | amomins | amomaxs | amominu | amomaxu | amoswap | amocas | amofadd | vadd | vsub | vmul
    | vmulhs | vmulhu | vmadd | vand | vor | vxor | vshl | vshr | vsra | vmins | vmaxs | vminu | vmaxu | vadc | vsbc
    | vcmpeq | vcmplt | vcmpltu | vcmple | vcmpleu | vmerge | vabs | vclz | vpopc | vnarrow | vwidens | vwidenu
    | vfadd | vfsub | vfmul | vfdiv | vfsqrt | vfmin | vfmax | vffma | vffms | vfcmpeq | vfcmplt | vfcmple | vfabs
    | vfneg | vfclass | vfcvt | vcvtif | vcvtfi | vquant | vdequant | vamax | amscl | vredsum | vredfsum | vredmax
    | vredmin | vredfmax | vredfmin | vredand | vredor | vslideup | vslidedn | vperm | vcompress | vexpand | viota
    | vbcast | vextract | vinsert | vtrans | vzip | vunzip | mand | mor | mxor | mandn | mnot | mmov | msbf | msif
    | msof | mshup | mshdn | mset | mclr | mpop | mfirst | vld | vlds | vldff | vst | vsts | vldx | vstx | vldl | vstc
    | vscadd | cappend | sspec | sbind | sunbind | sbar | scond | spos | sstart | swait | vconf | vsetl | vsetr
    | vsetcfg | vsetst | gang | ungang | vsave | vrestore | vcfgrd | mma | zscacc | zzero | zrel | zext | zins | zsave
    | zload | zamax | mdset | mdadv | zstat | kset | kseed | korg | vgen | kget | cpy | cpymma | cpywait | cbinit
    | cbwait | cbrel | cbstat | acq | rel | bind | unbind | wmpub | wmlink | bar | barjoin | barleave | notify | waitn
    | pinit | pfill | peq | pwait | ptest | xred | xbar | xwait | launch | launchnb | cancel | cwait | self | cntrd
    | trap | sysrd | rdcyc | rdnrg | kfreq | syswr | slotset | ctxswSout | ctxswSin | ctxswVout | ctxswVin | ctxswZout
    | ctxswZin | wfn | fenceFull | fenceRel | fenceAcq | fenceIfetch | rteResume | rteKill | brk => exact goesOn_finish _
  | apf | ahome | aprio | aorder | awake | aend | laneError | qtailWrite | qctlWrite | hartCancelled | hartFenced
    | issueCycle | activityMeterCycle | pageEpoch | longLatencyResult | queueWeightWrite | powerControllerUpdate
    | gcapWrite | actwWrite | lanemapWrite | fwrootWrite | repheadWrite | deviceReset | domainReachabilityChange
    | clusterClockChange => exact goesOn_next _
  | aj | aloop | aadd | ali | asnap | fatalError | arbiterSelection | descriptorArrival | moduleUncorrectableError
    | striplost | moduleRetireComplete | copyCommandStart | streamConditionRead | remoteStreamRequest | waiterPoll
    | turnOnComplete | mrsvWrite | devnumWrite | tinvGo | recalLaneReturn | powerOnBoot | linkStateChanged
    | sliceUncorrectableError => exact goesOn_ite (goesOn_next _) (goesOn_next _)
  | await => exact goesOn_execAwait
  | stripc => exact goesOn_ite (goesOn_next _) (goesOn_finish _)
  | exit => exact goesOn_execExit s
  | secondMarkConsume => exact goesOn_execSecondMarkConsume
  | adviceActionAccept => exact goesOn_execAdviceActionAccept
  | correctedError => exact goesOn_execCorrectedError
  | arbiterBoundary => exact goesOn_execArbiterBoundary
  | launchPlacement => exact goesOn_execLaunchPlacement
  | frameMoveSwitch => exact goesOn_execFrameMoveSwitch
  | bufferWordError => exact goesOn_execBufferWordError
  | linkFailure | scatterAddPerform => exact goesOn_ite (goesOn_next _) (goesOn_ite (goesOn_next _) (goesOn_next _))
  | copyCommandComplete => exact goesOn_execCopyCommandComplete
  | mmaComplete => exact goesOn_execMmaComplete
  | stripCommitComplete => exact goesOn_execStripCommitComplete
  | streamElementFetch => exact goesOn_execStreamElementFetch
  | streamDoneadd => exact goesOn_execStreamDoneadd
  | remotePushPerform => exact goesOn_execRemotePushPerform
  | xredPacketArrival => exact goesOn_execXredPacketArrival
  | acqGrant => exact goesOn_execAcqGrant
  | watermarkRelease => exact goesOn_execWatermarkRelease
  | powerHoldExpire => exact goesOn_execPowerHoldExpire
  | switchOpeningComplete => exact goesOn_execSwitchOpeningComplete
  | inrushGrant => exact goesOn_execInrushGrant
  | tinvComplete => exact goesOn_execTinvComplete
  | rrInstall => exact goesOn_execRrInstall s
  | rrRemove => exact goesOn_execRrRemove s
  | svcFencecore => rw [exec_svcFencecore]; exact goesOn_service s _ _
  | svcReturnmod => rw [exec_svcReturnmod]; exact goesOn_service s _ _
  | svcStagefw => rw [exec_svcStagefw]; exact goesOn_service s _ _
  | svcAttest => rw [exec_svcAttest]; exact goesOn_service s _ _
  | svcRetiremod => exact goesOn_execSvcRetiremod s
  | svcRecal => exact goesOn_execSvcRecal s
  | registerWrite => rw [exec_registerWrite]; exact goesOn_execRegisterWrite
  | jobRetired => exact goesOn_execJobRetired
  | hostBar2Access => exact absurd ⟨_, _, _, rfl⟩ h

/-! ### No word encodes a host access -/

/-- The decoder's answer is not a host access. -/
def Encodes (r : Except DecodeError Instr) : Prop := ∀ i, r = .ok i → ¬IsHostAccess i

@[simp] theorem encodes_error (e : DecodeError) : Encodes (.error e) := fun _ h => by cases h

@[simp] theorem encodes_ok (i : Instr) : Encodes (.ok i) ↔ ¬IsHostAccess i :=
  ⟨fun h => h i rfl, fun h j hj => by cases hj; exact h⟩

@[simp] theorem encodes_ite (p : Prop) [Decidable p] (a b : Except DecodeError Instr) :
    Encodes (if p then a else b) ↔ (p → Encodes a) ∧ (¬p → Encodes b) := by
  split <;> simp [*]

@[simp] theorem encodes_withSource (w lit : Nat) (mk : Src → Except DecodeError Instr) :
    Encodes (withSource w lit mk) ↔ ∀ b, decodeSource w lit = .ok b → Encodes (mk b) := by
  unfold withSource
  split
  · next b hb => simp [hb]
  · next e he => simp [he]

@[simp] theorem encodes_decodeCpymma (w lit : Nat) : Encodes (decodeCpymma w lit) := by
  unfold decodeCpymma
  simp

theorem encodes_decodeMajor01 (w lit : Nat) : Encodes (decodeMajor01 w lit) := by
  unfold decodeMajor01
  split <;> simp

theorem encodes_decodeMajor02 (w lit : Nat) : Encodes (decodeMajor02 w lit) := by
  unfold decodeMajor02
  split <;> simp

theorem encodes_decodeMajor03 (w : Nat) : Encodes (decodeMajor03 w) := by
  simp [decodeMajor03]

theorem encodes_decodeMajor04 (w : Nat) : Encodes (decodeMajor04 w) := by
  simp [decodeMajor04]

theorem encodes_decodeMajor06 (w : Nat) : Encodes (decodeMajor06 w) := by
  simp [decodeMajor06]

theorem encodes_decodeMajor07 (w : Nat) : Encodes (decodeMajor07 w) := by
  simp [decodeMajor07]

theorem encodes_decodeMajor0C (w lit : Nat) : Encodes (decodeMajor0C w lit) := by
  unfold decodeMajor0C
  split <;> simp

theorem encodes_decodeMajor10 (w : Nat) : Encodes (decodeMajor10 w) := by
  simp [decodeMajor10]

theorem encodes_decodeMajor11 (w : Nat) : Encodes (decodeMajor11 w) := by
  simp [decodeMajor11]

theorem encodes_decodeMajor12 (w lit : Nat) : Encodes (decodeMajor12 w lit) := by
  unfold decodeMajor12
  split <;> simp

theorem encodes_decodeMajor13 (w : Nat) : Encodes (decodeMajor13 w) := by
  simp [decodeMajor13]

theorem encodes_decodeMajor14 (w : Nat) : Encodes (decodeMajor14 w) := by
  simp [decodeMajor14]

theorem encodes_decodeMajor15 (w lit : Nat) : Encodes (decodeMajor15 w lit) := by
  unfold decodeMajor15
  split <;> simp

theorem encodes_decodeMajor16 (w lit : Nat) : Encodes (decodeMajor16 w lit) := by
  unfold decodeMajor16
  split <;> simp

theorem encodes_decodeMajor18 (w lit : Nat) : Encodes (decodeMajor18 w lit) := by
  unfold decodeMajor18
  split <;> simp

theorem encodes_decodeMajor19 (w lit : Nat) : Encodes (decodeMajor19 w lit) := by
  unfold decodeMajor19
  split <;> simp

theorem encodes_decodeMajor20 (w lit : Nat) : Encodes (decodeMajor20 w lit) := by
  unfold decodeMajor20
  split <;> simp

theorem encodes_decodeMajor21 (w lit : Nat) : Encodes (decodeMajor21 w lit) := by
  unfold decodeMajor21
  split <;> simp

theorem encodes_decodeMajor24 (w lit : Nat) : Encodes (decodeMajor24 w lit) := by
  unfold decodeMajor24
  split <;> simp

theorem encodes_decodeMajor25 (w lit : Nat) : Encodes (decodeMajor25 w lit) := by
  unfold decodeMajor25
  split <;> simp

theorem encodes_decodeMajor26 (w lit : Nat) : Encodes (decodeMajor26 w lit) := by
  unfold decodeMajor26
  split <;> simp

theorem encodes_decodeMajor28 (w lit : Nat) : Encodes (decodeMajor28 w lit) := by
  unfold decodeMajor28
  split <;> simp

theorem encodes_decodeMajor29 (w lit : Nat) : Encodes (decodeMajor29 w lit) := by
  unfold decodeMajor29
  split <;> simp

theorem encodes_decodeMajor2C (w lit : Nat) : Encodes (decodeMajor2C w lit) := by
  unfold decodeMajor2C
  split <;> simp

theorem encodes_decodeMajor2E (w lit : Nat) : Encodes (decodeMajor2E w lit) := by
  unfold decodeMajor2E
  split <;> simp

theorem encodes_decodeMajor30 (w : Nat) : Encodes (decodeMajor30 w) := by
  simp [decodeMajor30]

theorem encodes_decodeMajor31 (w lit : Nat) : Encodes (decodeMajor31 w lit) := by
  unfold decodeMajor31
  split <;> simp

theorem encodes_decodeMajor34 (w lit : Nat) : Encodes (decodeMajor34 w lit) := by
  unfold decodeMajor34
  split <;> simp

theorem encodes_decodeMajor35 (w lit : Nat) : Encodes (decodeMajor35 w lit) := by
  unfold decodeMajor35
  split <;> simp

theorem encodes_decodeMajor36 (w lit : Nat) : Encodes (decodeMajor36 w lit) := by
  unfold decodeMajor36
  split
  case h_5 => split <;> simp
  all_goals simp

theorem encodes_decodeMajor37 (w lit : Nat) : Encodes (decodeMajor37 w lit) := by
  unfold decodeMajor37
  split <;> simp

theorem encodes_decodeMajor38 (w lit : Nat) : Encodes (decodeMajor38 w lit) := by
  unfold decodeMajor38
  split <;> simp

theorem encodes_decodeMajor39 (w lit : Nat) : Encodes (decodeMajor39 w lit) := by
  unfold decodeMajor39
  split <;> simp

theorem encodes_decodeMajor3A (w lit : Nat) : Encodes (decodeMajor3A w lit) := by
  unfold decodeMajor3A
  split
  case h_2 | h_9 => split <;> simp
  all_goals simp

theorem encodes_decodeMajor3C (w lit : Nat) : Encodes (decodeMajor3C w lit) := by
  unfold decodeMajor3C
  split <;> simp

theorem encodes_decodeMajor3D (w : Nat) : Encodes (decodeMajor3D w) := by
  simp [decodeMajor3D]

theorem encodes_decodeWord (w lit : Nat) : Encodes (decodeWord w lit) := by
  unfold decodeWord
  split
  · exact encodes_decodeMajor01 w lit
  · exact encodes_decodeMajor02 w lit
  · exact encodes_decodeMajor03 w
  · exact encodes_decodeMajor04 w
  · exact encodes_decodeMajor06 w
  · exact encodes_decodeMajor07 w
  · exact encodes_decodeMajor0C w lit
  · exact encodes_decodeMajor10 w
  · exact encodes_decodeMajor11 w
  · exact encodes_decodeMajor12 w lit
  · exact encodes_decodeMajor13 w
  · exact encodes_decodeMajor14 w
  · exact encodes_decodeMajor15 w lit
  · exact encodes_decodeMajor16 w lit
  · exact encodes_decodeMajor18 w lit
  · exact encodes_decodeMajor19 w lit
  · exact encodes_decodeMajor20 w lit
  · exact encodes_decodeMajor21 w lit
  · exact encodes_decodeMajor24 w lit
  · exact encodes_decodeMajor25 w lit
  · exact encodes_decodeMajor26 w lit
  · exact encodes_decodeMajor28 w lit
  · exact encodes_decodeMajor29 w lit
  · exact encodes_decodeMajor2C w lit
  · exact encodes_decodeMajor2E w lit
  · exact encodes_decodeMajor30 w
  · exact encodes_decodeMajor31 w lit
  · exact encodes_decodeMajor34 w lit
  · exact encodes_decodeMajor35 w lit
  · exact encodes_decodeMajor36 w lit
  · exact encodes_decodeMajor37 w lit
  · exact encodes_decodeMajor38 w lit
  · exact encodes_decodeMajor39 w lit
  · exact encodes_decodeMajor3A w lit
  · exact encodes_decodeMajor3C w lit
  · exact encodes_decodeMajor3D w
  · exact encodes_error _

/-! ### The step -/

theorem State.nextInstr_encodes {s t : State} {i : Instr} (h : s.nextInstr = .ok (i, t)) : ¬IsHostAccess i := by
  unfold State.nextInstr at h
  split at h
  · cases h
  · extract_lets pc at h
    split at h
    · cases h
    split at h
    · cases h
    · extract_lets n w lit s1 at h
      split at h
      · cases h
      split at h
      · cases h
      split at h
      · cases h
      · next j hj =>
        split at h
        · obtain ⟨rfl, -⟩ := Prod.mk.inj (Except.ok.inj h)
          exact encodes_decodeWord _ _ _ hj
        · cases h

theorem State.nextAdvice_encodes {s : State} {i : Instr} (h : s.nextAdvice = .ok i) : ¬IsHostAccess i := by
  unfold State.nextAdvice at h
  split at h
  · cases h
  split at h
  · cases h
  dsimp only at h
  split at h
  · cases h
  split at h
  · cases h
  split at h
  · cases h
  split at h
  · cases h
  · next j hj =>
    split at h
    · cases h
      exact encodes_decodeWord _ _ _ hj
    · cases h

theorem State.goesOn_runIssued (s : State) : GoesOn s.runIssued := by
  unfold State.runIssued
  split
  · exact goesOn_next _
  · split
    · exact goesOn_finish _
    · next h => exact goesOn_exec (State.nextInstr_encodes h) _

theorem State.goesOn_runIfIssued (s : State) : GoesOn s.runIfIssued :=
  goesOn_ite (State.goesOn_runIssued _) (goesOn_next s)

theorem State.goesOn_runSecond (s : State) : GoesOn s.runSecond := by
  unfold State.runSecond
  split
  · exact goesOn_next _
  · next h => exact goesOn_exec (State.nextAdvice_encodes h) s

/-- The acts that are not a host access. -/
theorem State.goesOn_perform (s : State) : (a : Act) → (∀ i, a = .event i → ¬IsHostAccess i) → GoesOn (s.perform a)
  | .event i, h => goesOn_ite (goesOn_exec (h i rfl) s) (goesOn_next s)
  | .second _ _, _ => State.goesOn_runSecond _
  | .ended _ _, _ => goesOn_next _
  | .translationKept _ _ _, _ => goesOn_next _
  | .translationDropped _ _, _ => goesOn_next _
  | .commitPace _ _ _, _ => goesOn_next _

theorem State.performAndIssue_of_fault {s : State} {a : Act} {f : Fault} (h : s.perform a = .fault f) :
    s.performAndIssue a = .fault f := by
  rw [State.performAndIssue, h]

/-- A host access goes on, or reaches beyond main memory of a device that has booted. -/
theorem execHostBar2Access_goesOn_or (offset : BitVec 36) (access : HostAccess) (data : BitVec 64) (s : State) :
    GoesOn (execHostBar2Access offset access data s) ∨
      (execHostBar2Access offset access data s = .fault .absentFrame ∧ s.dev.ready = true ∧
        s.dev.frames.toNat * 65536 < s.dev.winbase.toNat + offset.toNat + access.last.toNat + 1) := by
  unfold execHostBar2Access
  extract_lets pa n k
  by_cases hr : s.dev.ready = true
  · by_cases hb : s.dev.holdsBytes pa n = true
    · left
      simp only [hr, hb, Bool.not_true, Bool.false_eq_true, if_false]
      exact goesOn_ite (goesOn_next _) (goesOn_next _)
    · right
      simp only [hr, hb, Bool.not_true, Bool.false_eq_true, if_false, Bool.not_false, if_true, true_and]
      have : ¬pa + n ≤ s.dev.frames.toNat * 65536 := by simpa [Device.holdsBytes] using hb
      omega
  · left
    simp only [hr, Bool.not_false, if_true]
    exact goesOn_next s

theorem State.goesOn_performAndIssue {s : State} {a : Act} (h : GoesOn (s.perform a)) : GoesOn (s.performAndIssue a) := by
  obtain ⟨t, ht⟩ := h
  rw [State.performAndIssue_of_next ht]
  exact State.goesOn_runIfIssued t

theorem step_of_act {s : State} {a : Act} {rest : List Act} (h : s.agenda = a :: rest) :
    step s = ({ s with agenda := rest, cur := { s.cur with issues := false } } : State).performAndIssue a := by
  unfold step State.advance
  simp only [h]

theorem step_of_no_act {s : State} (h : s.agenda = []) :
    step s = ({ s with cur := { s.cur with issues := false } } : State).freeStep := by
  unfold step State.advance
  simp only [h]

/-- Settles O58: the acts but the host's at BAR2 go on (`State.goesOn_perform`), and that one as its bytes stand. -/
theorem stepGoesOn : Obligations.StepGoesOn := by
  unfold Obligations.StepGoesOn
  intro s
  cases ha : s.agenda with
  | nil =>
    left
    rw [step_of_no_act ha]
    exact State.goesOn_runIfIssued _
  | cons a rest =>
    rw [step_of_act ha]
    generalize hs0 : ({ s with agenda := rest, cur := { s.cur with issues := false } } : State) = s0
    by_cases hhost : ∃ offset access data, a = .event (.hostBar2Access offset access data)
    · obtain ⟨offset, access, data, rfl⟩ := hhost
      have hp : s0.perform (.event (.hostBar2Access offset access data)) = execHostBar2Access offset access data s0 := rfl
      rcases execHostBar2Access_goesOn_or offset access data s0 with hgo | ⟨hfault, hready, hbeyond⟩
      · exact .inl (State.goesOn_performAndIssue (hp ▸ hgo))
      · subst hs0
        exact .inr ⟨State.performAndIssue_of_fault (hp.trans hfault), offset, access, data, rest, rfl, hready, hbeyond⟩
    · exact .inl (State.goesOn_performAndIssue (s0.goesOn_perform a fun i hi ⟨offset, access, data, he⟩ =>
        hhost ⟨offset, access, data, by rw [hi, he]⟩))

end Sys2Proof.Machine
end

section
/-!
Power (O50, R382 to R388, R408): the controller's updates, the stages of powering down and of waking, and the registers of a
core that the host writes.
-/

namespace Sys2Proof.Machine

open Stated

/-! ### The stages of a part -/

theorem State.modifyCore_congr {s : State} {c : CoreId} {f g : Core → Core} (h : f (s.core c) = g (s.core c)) :
    s.modifyCore c f = s.modifyCore c g := congrArg (fun k => ({ s with cores := s.cores.set c.val k } : State)) h

theorem Power.startHold_eq (p : Power) : p.startHold = if p = .on then .hold else p := by
  cases p <;> rfl

theorem powerControllerUpdate_occurs (s : State) (c : CoreId) (grant : BitVec 13) (gate withdraw : BitVec 8) (gateCore : Bool)
    (g : Fin 8) : Occurs (.powerControllerUpdate c grant gate gateCore withdraw) s fun t =>
      (t.core c).grant.toNat = max 8 (min grant.toNat (max (s.core c).gcap.toNat 8)) ∧ (t.core c).withdrawn = withdraw ∧
        t.dev = s.dev ∧ (t.core c).groups[g.val] =
          (if gate.getLsbD g.val = true ∧ g.val ∉ s.groupsInUse c ∧ (s.core c).groups[g.val] = .on then .hold
            else (s.core c).groups[g.val]) ∧
        (t.core c).power = (if gateCore = true ∧ s.coreIdle c = true ∧ (s.core c).power = .on then .hold else (s.core c).power) := by
  refine ⟨_, rfl, ?_⟩
  simp only [State.core_modifyCore, State.modifyCore_dev, Vector.getElem_ofFn, Power.startHold_eq, true_and]
  refine ⟨?_, ?_, ?_⟩
  · rw [BitVec.toNat_ofNat, Nat.mod_eq_of_lt]
    omega
  · generalize gate.getLsbD g.val = b
    cases b <;> by_cases hu : g.val ∈ s.groupsInUse c <;> simp [hu]
  · by_cases hg : gateCore = true <;> by_cases hi : s.coreIdle c = true <;> simp [hg, hi]

/-! ### Powering down (R385) -/

section
variable {s : State} {c : CoreId} {g : Fin 8}

theorem powerHoldExpire_group (h : (s.core c).groups[g.val] = .hold) :
    exec (.powerHoldExpire c (.group g)) s = .next (s.modifyCore c fun k =>
      { k with groups := k.groups.set g.val (if g.val ∈ s.groupsInUse c then .on else .opening false) }) := by
  rw [exec_powerHoldExpire]
  refine congrArg Host.Outcome.next (State.modifyCore_congr ?_)
  simp only [h, List.contains_iff_mem]
  rfl

theorem powerHoldExpire_core (h : (s.core c).power = .hold) : exec (.powerHoldExpire c .core) s =
    .next (s.modifyCore c fun k => { k with power := if s.coreIdle c then .opening false else .on }) := by
  rw [exec_powerHoldExpire]
  unfold execPowerHoldExpire
  simp only [h]

/-- What a wake request makes of a part. -/
def Power.woken : Power → Power
  | .on => .on
  | .waking => .waking
  | .hold => .on
  | .opening _ => .opening true
  | .gated => .waking

/-- A core with a wake request for a lane group. -/
def Core.wakeGroup (k : Core) (g : Fin 8) : Core := { k with groups := k.groups.set g.val k.groups[g.val].woken }

theorem State.core_wakeGroup (s : State) (c : CoreId) (g : Fin 8) : (s.wakeGroup c g.val).core c = (s.core c).wakeGroup g := by
  have hget : vget (s.core c).groups g.val .on = (s.core c).groups[g.val] := by simp [vget]
  have hset (x : Power) : vset (s.core c).groups g.val x = (s.core c).groups.set g.val x := by simp [vset]
  unfold State.wakeGroup Core.wakeGroup
  rw [hget]
  cases h : (s.core c).groups[g.val] with
  | on => simp only [Power.woken]; rw [← h, Vector.set_getElem_self]
  | waking => simp only [Power.woken]; rw [← h, Vector.set_getElem_self]
  | hold => simp only [State.core_modifyCore, hset, Power.woken]
  | opening b => simp only [State.core_modifyCore, hset, Power.woken]
  | gated => simp only [State.core_modifyDev, State.core_modifyCore, hset, Power.woken]

theorem State.core_wakeGroups (c : CoreId) : (gs : List (Fin 8)) → (s : State) →
    (s.wakeGroups (gs.map fun g => (c, g.val))).core c = gs.foldl Core.wakeGroup (s.core c)
  | [], _ => rfl
  | g :: gs, s => (State.core_wakeGroups c gs (s.wakeGroup c g.val)).trans (by rw [State.core_wakeGroup]; rfl)

/-- Wake requests for lane groups leave the rest of a core. -/
theorem Core.wakeGroups_rest : (gs : List (Fin 8)) → (k : Core) →
    gs.foldl Core.wakeGroup k = { k with groups := (gs.foldl Core.wakeGroup k).groups }
  | [], _ => rfl
  | g :: gs, k => Core.wakeGroups_rest gs (k.wakeGroup g)

theorem Core.wakeGroup_group (k : Core) (e g : Fin 8) :
    (k.wakeGroup e).groups[g.val] = if e = g then k.groups[g.val].woken else k.groups[g.val] := by
  unfold Core.wakeGroup
  simp only [Vector.getElem_set, Fin.val_inj]
  split
  · next h => subst h; rfl
  · rfl

theorem Core.wakeGroups_of_not_mem : {gs : List (Fin 8)} → (h : g ∉ gs) → (k : Core) →
    (gs.foldl Core.wakeGroup k).groups[g.val] = k.groups[g.val]
  | [], _, _ => rfl
  | e :: gs, h, k => by
    obtain ⟨he, hgs⟩ := not_or.1 (mt List.mem_cons.2 h)
    rw [List.foldl_cons, Core.wakeGroups_of_not_mem hgs, Core.wakeGroup_group, if_neg (Ne.symm he)]

theorem Core.wakeGroups_of_waking : (gs : List (Fin 8)) → (k : Core) → (k.groups[g.val] = .waking) →
    (gs.foldl Core.wakeGroup k).groups[g.val] = .waking
  | [], _, h => h
  | e :: gs, k, h => Core.wakeGroups_of_waking gs (k.wakeGroup e) (by rw [Core.wakeGroup_group, h]; split <;> rfl)

theorem Core.wakeGroups_of_mem : {gs : List (Fin 8)} → (hm : g ∈ gs) → (k : Core) → (k.groups[g.val] = .gated) →
    (gs.foldl Core.wakeGroup k).groups[g.val] = .waking
  | e :: gs, hm, k, h => by
    rw [List.foldl_cons]
    by_cases he : e = g
    · exact Core.wakeGroups_of_waking gs _ (by rw [Core.wakeGroup_group, if_pos he, h]; rfl)
    · exact Core.wakeGroups_of_mem ((List.mem_cons.1 hm).resolve_left (Ne.symm he)) _
        (by rw [Core.wakeGroup_group, if_neg he, h])

theorem switchOpeningComplete_group (h : (s.core c).groups[g.val] = .opening false) :
    exec (.switchOpeningComplete c (.group g)) s = .next (s.modifyCore c fun k => { k with groups := k.groups.set g.val .gated }) := by
  rw [exec_switchOpeningComplete]
  unfold execSwitchOpeningComplete
  simp only [h, Bool.false_eq_true, if_false]

theorem Device.inrush_queueWake {d : Device} {w : Wake} (hi : w ∉ d.inrush) (ht : w ∉ d.turningOn) :
    (d.queueWake w).inrush = d.inrush ++ [w] := by
  unfold Device.queueWake
  rw [if_neg (by simp [hi, ht])]

theorem State.wakeGroup_of_gated (h : (s.core c).groups[g.val] = .gated) : s.wakeGroup c g.val =
    (s.modifyCore c fun k => { k with groups := vset k.groups g.val .waking }).modifyDev (·.queueWake { core := c, group := g }) := by
  have hget : vget (s.core c).groups g.val .on = .gated := by simpa [vget] using h
  unfold State.wakeGroup
  simp only [hget, Fin.ofNat_val_eq_self]

theorem switchOpeningComplete_group_wakes (h : (s.core c).groups[g.val] = .opening true)
    (hi : ({ core := c, group := g } : Wake) ∉ s.dev.inrush) (ht : ({ core := c, group := g } : Wake) ∉ s.dev.turningOn) :
    Occurs (.switchOpeningComplete c (.group g)) s fun t =>
      (t.core c).groups[g.val] = .waking ∧ t.dev.inrush = s.dev.inrush ++ [{ core := c, group := g }] := by
  have hexec : exec (.switchOpeningComplete c (.group g)) s =
      .next ((s.modifyCore c fun k => { k with groups := k.groups.set g.val .gated }).wakeGroup c g.val) := by
    rw [exec_switchOpeningComplete]
    unfold execSwitchOpeningComplete
    simp only [h, if_true]
  refine occurs_of hexec ⟨?_, ?_⟩
  · rw [State.core_wakeGroup, Core.wakeGroup_group, if_pos rfl, State.core_modifyCore, Vector.getElem_set_self]
    rfl
  · rw [State.wakeGroup_of_gated (by rw [State.core_modifyCore, Vector.getElem_set_self])]
    exact Device.inrush_queueWake hi ht

/-- The lane groups of a core whose switches open with a wake request. -/
def Core.groupsToWake (k : Core) : List (Fin 8) := (List.finRange 8).filter fun g => k.groups[g.val] == .opening true

/-- A core whose switches have opened. -/
def Core.gate (k : Core) : Core := { k with power := .gated, groups := k.groups.map Power.gatedWithCore }

theorem switchOpeningComplete_core {wake : Bool} (h : (s.core c).power = .opening wake) :
    exec (.switchOpeningComplete c .core) s =
      .next ((if wake then (s.modifyCore c Core.gate).wakeCore c else s.modifyCore c Core.gate).wakeGroups
        ((s.core c).groupsToWake.map fun g => (c, g.val))) := by
  rw [exec_switchOpeningComplete]
  unfold execSwitchOpeningComplete
  simp only [h]
  rfl

theorem switchOpeningComplete_core_gates (h : (s.core c).power = .opening false) :
    Occurs (.switchOpeningComplete c .core) s fun t =>
      (t.core c).power = .gated ∧ (t.core c).ctxs = (s.core c).ctxs ∧ (t.core c).slottab = (s.core c).slottab ∧
        ((s.core c).groups[g.val] ≠ .waking → (s.core c).groups[g.val] ≠ .opening true → (t.core c).groups[g.val] = .gated) ∧
        ((s.core c).groups[g.val] = .opening true → (t.core c).groups[g.val] = .waking) := by
  refine occurs_of (switchOpeningComplete_core h) ?_
  have hgate : (s.core c).gate.groups[g.val] = (s.core c).groups[g.val].gatedWithCore := Vector.getElem_map _ _
  rw [if_neg Bool.false_ne_true, State.core_wakeGroups, State.core_modifyCore]
  refine ⟨by rw [Core.wakeGroups_rest]; rfl, by rw [Core.wakeGroups_rest]; rfl, by rw [Core.wakeGroups_rest]; rfl,
    fun hw ho => ?_, fun ho => ?_⟩
  · rw [Core.wakeGroups_of_not_mem (by simp [Core.groupsToWake, ho]), hgate]
    cases hp : (s.core c).groups[g.val] with
    | waking => exact absurd hp hw
    | _ => rfl
  · exact Core.wakeGroups_of_mem (by simp [Core.groupsToWake, ho]) _ (by rw [hgate, ho]; rfl)

theorem State.power_wakeCore_of_gated (h : (s.core c).power = .gated) : ((s.wakeCore c).core c).power = .waking := by
  unfold State.wakeCore
  simp only [h, State.core_modifyDev, State.core_modifyCore]

theorem switchOpeningComplete_core_wakes (h : (s.core c).power = .opening true) :
    Occurs (.switchOpeningComplete c .core) s fun t => (t.core c).power = .waking := by
  refine occurs_of (switchOpeningComplete_core h) ?_
  rw [if_pos rfl, State.core_wakeGroups, Core.wakeGroups_rest]
  exact State.power_wakeCore_of_gated (by rw [State.core_modifyCore]; rfl)

/-! ### Waking (R386 to R388) -/

theorem inrushGrant_next {w : Wake} {ws : List Wake} (h : s.dev.inrush = w :: ws) (hn : s.dev.turningOn.length < 8) :
    exec .inrushGrant s = .next (s.modifyDev fun d => { d with inrush := ws, turningOn := d.turningOn ++ [w] }) := by
  rw [exec_inrushGrant]
  unfold execInrushGrant
  simp only [h, hn, if_true]

theorem inrushGrant_waits (hn : 8 ≤ s.dev.turningOn.length) : exec .inrushGrant s = .next s := by
  rw [exec_inrushGrant]
  unfold execInrushGrant
  split
  · exact if_neg (Nat.not_lt.2 hn)
  · rfl

/-- A lane group has turned on, and its core with it where it is the first. -/
def Core.turnOn (k : Core) (g : Fin 8) : Core :=
  let k := { k with groups := k.groups.set g.val .on }
  if g = 0 then k.powerUp else k

theorem Core.powerUp_groups (k : Core) : k.powerUp.groups = k.groups := by
  unfold Core.powerUp
  split <;> rfl

theorem Core.turnOn_groups (k : Core) (g : Fin 8) : (k.turnOn g).groups = k.groups.set g.val .on := by
  unfold Core.turnOn
  split
  · exact Core.powerUp_groups _
  · rfl

theorem Core.powerUp_of_waking {k : Core} (h : k.power = .waking) : k.powerUp.power = .on ∧
    k.powerUp.latch = Vector.replicate 16 0 ∧ ∀ n : Fin 16, k.powerUp.notify[n.val] = k.notify[n.val] ||| k.latch[n.val] := by
  unfold Core.powerUp
  simp only [h, Vector.getElem_ofFn, implies_true, and_self]

theorem turnOnComplete_next (h : ({ core := c, group := g } : Wake) ∈ s.dev.turningOn) :
    exec (.turnOnComplete c (BitVec.ofNat 3 g.val)) s =
      .next ((s.modifyDev fun d => { d with turningOn := d.turningOn.filter (· != { core := c, group := g }) }).modifyCore c
        (·.turnOn g)) := by
  have hg : (BitVec.ofNat 3 g.val).toNat = g.val := by rw [BitVec.toNat_ofNat]; omega
  have h0 : BitVec.ofNat 3 g.val = 0 ↔ g = 0 := by
    rw [← BitVec.toNat_inj, hg, Fin.ext_iff]
    rfl
  rw [exec_turnOnComplete]
  unfold execTurnOnComplete
  simp only [hg, h0, Fin.ofNat_val_eq_self, List.contains_iff_mem, h, if_true]
  refine congrArg Host.Outcome.next (State.modifyCore_congr ?_)
  simp [Core.turnOn, vset]

theorem turnOnComplete_occurs (h : ({ core := c, group := g } : Wake) ∈ s.dev.turningOn) :
    Occurs (.turnOnComplete c (BitVec.ofNat 3 g.val)) s fun t =>
      (t.core c).groups[g.val] = .on ∧ ({ core := c, group := g } : Wake) ∉ t.dev.turningOn ∧
        (g = 0 → (s.core c).power = .waking → (t.core c).power = .on ∧ (t.core c).latch = Vector.replicate 16 0 ∧
          ∀ n : Fin 16, (t.core c).notify[n.val] = (s.core c).notify[n.val] ||| (s.core c).latch[n.val]) := by
  refine occurs_of (turnOnComplete_next h) ?_
  rw [State.core_modifyCore, State.core_modifyDev, Core.turnOn_groups]
  refine ⟨Vector.getElem_set_self _, by simp, fun h0 hw => ?_⟩
  rw [Core.turnOn, if_pos h0]
  exact Core.powerUp_of_waking (k := { s.core c with groups := (s.core c).groups.set g.val .on }) hw

theorem clusterClockChange_occurs (running : Bool) : Occurs (.clusterClockChange c running) s fun t =>
    (∀ e : CoreId, (t.core e).clock = running) ∧ (t.core c).cycles = (s.core c).cycles ∧ t.dev = s.dev := by
  have hcore (e : CoreId) : ({ s with cores := s.cores.map fun k => { k with clock := running } } : State).core e =
      { s.core e with clock := running } := Vector.getElem_map _ _
  exact occurs_of (exec_clusterClockChange ..) ⟨fun e => by rw [hcore], by rw [hcore], rfl⟩

/-! ### The registers of a core (R378, R382) -/

theorem gcapWrite_occurs (v : Word) : Occurs (.gcapWrite c v) s fun t =>
    (t.core c).gcap.toNat = v.toNat / 2 ^ 16 % 2 ^ 13 ∧
      (t.core c).grant.toNat = min (s.core c).grant.toNat (max (v.toNat / 2 ^ 16 % 2 ^ 13) 8) := by
  have hcap : (BitVec.ofNat 13 (fieldOf v.toNat 16 13)).toNat = v.toNat / 2 ^ 16 % 2 ^ 13 := by
    rw [BitVec.toNat_ofNat, fieldOf, Nat.mod_mod]
  refine occurs_of (t := s.modifyCore c (·.writeGcap v)) rfl ?_
  rw [State.core_modifyCore]
  refine ⟨hcap, ?_⟩
  change (BitVec.ofNat 13 (min _ (max (BitVec.ofNat 13 (fieldOf v.toNat 16 13)).toNat 8))).toNat = _
  rw [hcap, BitVec.toNat_ofNat, Nat.mod_eq_of_lt]
  omega

theorem storedActw_toNat (v : Word) : (storedActw v).toNat = v.toNat % 2 ^ 40 + 2 ^ 40 * max 16 (v.toNat / 2 ^ 40 % 2 ^ 8) +
    2 ^ 48 * max 1 (v.toNat / 2 ^ 48 % 2 ^ 4) := by
  unfold storedActw
  simp only [setField_eq, fieldOf, word, BitVec.toNat_ofNat]
  omega

theorem actwWrite_occurs (v : Word) : Occurs (.actwWrite c v) s fun t =>
    (t.core c).actw.toNat % 2 ^ 40 = v.toNat % 2 ^ 40 ∧
      (t.core c).actw.toNat / 2 ^ 40 % 2 ^ 8 = max 16 (v.toNat / 2 ^ 40 % 2 ^ 8) ∧
      (t.core c).actw.toNat / 2 ^ 48 = max 1 (v.toNat / 2 ^ 48 % 2 ^ 4) := by
  refine occurs_of (t := s.modifyCore c fun k => { k with actw := storedActw v }) rfl ?_
  rw [State.core_modifyCore]
  dsimp only
  rw [storedActw_toNat]
  omega

end

end Sys2Proof.Machine
end

section
/-!
Frames (O50, R128, R130): the records of frames, their epochs, and their moves.
-/

namespace Sys2Proof.Machine

open Stated

/-! ### The records of frames -/

theorem find_insertFrame (i : FrameInfo) : (is : List FrameInfo) → (insertFrame i is).find? (·.frame == i.frame) = some i
  | [] => by simp [insertFrame]
  | j :: js => by
    unfold insertFrame
    split
    · simp
    · split
      · simp
      · next hlt hne => rw [List.find?_cons_of_neg (by simp; omega), find_insertFrame i js]

/-- The record of a frame that has been set. -/
theorem Device.frameInfo_setFrame (d : Device) (i : FrameInfo) : (d.setFrame i).frameInfo i.frame = i := by
  unfold Device.setFrame Device.frameInfo
  split
  · next h =>
    have hnone : (d.homes.filter (·.frame != i.frame)).find? (·.frame == i.frame) = none := by
      simp [List.find?_eq_none]
    rw [hnone]
    exact h.symm
  · rw [find_insertFrame]
    rfl

/-- The record of a frame names that frame. -/
theorem Device.frameInfo_frame (d : Device) (f : Nat) : (d.frameInfo f).frame = f := by
  unfold Device.frameInfo
  cases h : d.homes.find? (·.frame == f) with
  | none => rfl
  | some i => simpa using List.find?_some h

/-! ### The end of an epoch (R128) -/

/-- A value that is greater than every other is the one that a search for the greatest ends with. -/
theorem foldl_greatest {α : Type} {f : α → Nat} {d : α} (h : ∀ e, e ≠ d → f e < f d) :
    (es : List α) → (a : α) → a = d ∨ d ∈ es → es.foldl (fun a e => if f a < f e then e else a) a = d
  | [], a, ha => ha.resolve_right List.not_mem_nil
  | e :: es, a, ha => by
    refine foldl_greatest h es _ ?_
    by_cases ha' : a = d
    · subst ha'
      refine .inl (if_neg fun hlt => ?_)
      have := h e (fun he => by subst he; omega)
      omega
    · rcases List.mem_cons.1 (ha.resolve_left ha') with rfl | hm
      · exact .inl (if_pos (h a ha'))
      · exact .inr hm

theorem counts_sum (counts : Vector (BitVec 16) 4) : (counts.toList.map (·.toNat)).sum =
    counts[0].toNat + counts[1].toNat + counts[2].toNat + counts[3].toNat := by
  have hl : counts.toList = [counts[0], counts[1], counts[2], counts[3]] := by
    refine List.ext_getElem (by simp) fun n h _ => ?_
    have hn : n < 4 := by simpa using h
    interval_cases n <;> simp
  rw [hl]
  simp only [List.map_cons, List.map_nil, List.sum_cons, List.sum_nil]
  omega

/-- A die whose accesses are at least twice those of the others together is the busiest. -/
theorem busiestDie_of_twice {counts : Vector (BitVec 16) 4} {d : Fin 4} (hn : 64 ≤ (counts[d.val]).toNat)
    (hs : 2 * ((counts.toList.map (·.toNat)).sum - (counts[d.val]).toNat) ≤ (counts[d.val]).toNat) : busiestDie counts = d := by
  rw [counts_sum] at hs
  refine foldl_greatest (f := fun e : Fin 4 => (counts[e.val]).toNat) (fun e he => ?_) _ _ (.inr (List.mem_finRange d))
  fin_cases d <;> fin_cases e <;> simp only [ne_eq, not_true_eq_false] at he hn hs ⊢ <;> omega

theorem FrameInfo.wanted_of_promise {i : FrameInfo} (h : i.promise = true) : i.wanted = none :=
  if_neg fun ⟨_, _, _, hp, _⟩ => by simp [h] at hp

/-- A frame with most of its accesses from another die is to move there. -/
theorem FrameInfo.wanted_of_twice {i : FrameInfo} {d : Fin 4} (hn : 64 ≤ (i.counts[d.val]).toNat)
    (hs : 2 * ((i.counts.toList.map (·.toNat)).sum - (i.counts[d.val]).toNat) ≤ (i.counts[d.val]).toNat)
    (hd : i.home.val / 24 ≠ d.val) (hp : i.promise = false) (hm : i.move = none) : i.wanted = some d := by
  unfold FrameInfo.wanted
  simp only [busiestDie_of_twice hn hs]
  refine if_pos ⟨hd, hn, ?_, by rw [hp]; rfl, by rw [hm]; rfl⟩
  refine le_trans (Nat.mul_le_mul_right _ ?_) hs
  split
  · split <;> decide
  · exact le_rfl

/-- The slice that a frame is to move to at the end of its slice's epoch. -/
def Device.epochTarget (d : Device) (i : FrameInfo) : Option SliceId :=
  match i.wanted with
  | some die => if d.movesOf i.home < 4 then d.targetSlice (slicesOf die.val) else none
  | none => none

theorem Device.endEpoch_eq (d : Device) (i : FrameInfo) :
    d.endEpoch i = d.setFrame { i.age with move := (d.epochTarget i).or i.move } := rfl

theorem pageEpoch_next {s : State} {i : FrameInfo} (h : s.dev.homes = [i]) (hl : i.frame ∉ s.dev.lost) :
    exec (.pageEpoch i.home) s = .next (s.modifyDev (·.endEpoch i)) := by
  rw [exec_pageEpoch]
  unfold execPageEpoch
  simp [h, hl]

theorem FrameInfo.age_counts (i : FrameInfo) (d : Fin 4) : (i.age.counts[d.val]).toNat = (i.counts[d.val]).toNat / 2 := by
  have hlt := (i.counts[d.val]).isLt
  unfold FrameInfo.age
  simp only [Vector.getElem_map, BitVec.toNat_ofNat]
  omega

theorem pageEpoch_occurs {s : State} {i : FrameInfo} (h : s.dev.homes = [i]) (hl : i.frame ∉ s.dev.lost) :
    Occurs (.pageEpoch i.home) s fun t =>
      let j := t.dev.frameInfo i.frame
      j.home = i.home ∧ j.promise = i.promise ∧
        (∀ d : Fin 4, (j.counts[d.val]).toNat = (i.counts[d.val]).toNat / 2) ∧
        (i.promise = true → j.move = i.move) ∧
        ∀ (d : Fin 4) (u : SliceId), let n := (i.counts[d.val]).toNat
          64 ≤ n → 2 * ((i.counts.toList.map (·.toNat)).sum - n) ≤ n → i.home.val / 24 ≠ d.val → i.promise = false →
          i.move = none → s.dev.targetSlice (slicesOf d.val) = some u → j.move = some u := by
  have hrecord : (s.modifyDev (·.endEpoch i)).dev.frameInfo i.frame = { i.age with move := (s.dev.epochTarget i).or i.move } :=
    Device.frameInfo_setFrame s.dev { i.age with move := (s.dev.epochTarget i).or i.move }
  refine occurs_of (pageEpoch_next h hl) ?_
  intro j
  simp only [j, hrecord]
  refine ⟨rfl, rfl, i.age_counts, fun hp => ?_, fun d u hn hs hd hp hm ht => ?_⟩
  · rw [Device.epochTarget, FrameInfo.wanted_of_promise hp]
    rfl
  · have hmoves : s.dev.movesOf i.home = 0 := by simp [Device.movesOf, h, hm]
    rw [Device.epochTarget, FrameInfo.wanted_of_twice hn hs hd hp hm]
    simp only [hmoves, ht]
    rfl

/-! ### Moves (R130) -/

theorem frameMoveSwitch_occurs {s : State} {frame : BitVec 36} {u : SliceId}
    (h : (s.dev.frameInfo frame.toNat).move = some u) : Occurs (.frameMoveSwitch frame) s fun t =>
      t.dev.frameInfo frame.toNat = { s.dev.frameInfo frame.toNat with home := u, move := none } ∧
        t.dev.mem = s.dev.mem ∧ t.cores = s.cores := by
  have hexec : exec (.frameMoveSwitch frame) s = .next (s.modifyDev (·.rehome frame.toNat u)) := by
    rw [exec_frameMoveSwitch]
    unfold execFrameMoveSwitch
    rw [h]
  refine occurs_of hexec ⟨?_, rfl, rfl⟩
  have hset := s.dev.frameInfo_setFrame { s.dev.frameInfo frame.toNat with home := u, move := none }
  rw [Device.frameInfo_frame] at hset
  exact hset

end Sys2Proof.Machine
end

section
/-!
Errors of lines and words (O50, R136, R140): the mark that is left, after every read that is on its way.
-/

namespace Sys2Proof.Machine

open Stated

/-! ### Every read obtains its bytes (log 67) -/

/-- The hart of one context obtains the bytes of its reads. -/
def State.readsOf (s : State) (p : CoreId × CtxId) : State := (s.actingAs p.1 p.2).performReads

theorem State.hart_readsOf_ne (s : State) {p : CoreId × CtxId} {d : CoreId} {x : CtxId} (h : (d, x) ≠ p) :
    (s.readsOf p).hart d x = s.hart d x := by
  have hne : d ≠ p.1 ∨ x ≠ p.2 := by
    by_contra hc
    push Not at hc
    exact h (Prod.ext hc.1 hc.2)
  have hforeign (t : State) (rs : List PendingRead) : (t.takeForeign rs).hart d x = t.hart d x := by
    unfold State.takeForeign
    split <;> rfl
  unfold State.readsOf State.performReads
  rw [hforeign]
  exact State.hart_setHart_ne _ _ _ _ _ _ hne

theorem State.readsDone_readsOf (s : State) (p : CoreId × CtxId) : ((s.readsOf p).hart p.1 p.2).readsDone = true := by
  have hcur : (s.readsOf p).cur = (s.actingAs p.1 p.2).cur := (State.sameHarts_performReads _).1
  rw [State.hart_eq_me_of hcur]
  exact State.readsDone_performReads _

theorem State.readsDone_allReads {d : CoreId} {x : CtxId} : (ps : List (CoreId × CtxId)) → (s : State) →
    (s.hart d x).readsDone = true ∨ (d, x) ∈ ps → ((ps.foldl State.readsOf s).hart d x).readsDone = true
  | [], _, h => h.resolve_right List.not_mem_nil
  | p :: ps, s, h => by
    refine State.readsDone_allReads ps (s.readsOf p) ?_
    by_cases hp : (d, x) = p
    · subst hp
      exact .inl (s.readsDone_readsOf _)
    · rw [State.hart_readsOf_ne s hp]
      exact h.imp_right fun hm => (List.mem_cons.1 hm).resolve_left hp

theorem State.dev_allReads : (ps : List (CoreId × CtxId)) → (s : State) → (ps.foldl State.readsOf s).dev = s.dev
  | [], _ => rfl
  | p :: ps, s => (State.dev_allReads ps (s.readsOf p)).trans (State.performReads_dev _)

/-- The contexts of the cores. -/
def allContexts : List (CoreId × CtxId) := allCores.flatMap fun c => (List.finRange 5).map fun x => (c, x)

theorem mem_allContexts (p : CoreId × CtxId) : p ∈ allContexts :=
  List.mem_flatMap.2 ⟨p.1, List.mem_finRange p.1, List.mem_map.2 ⟨p.2, List.mem_finRange p.2, rfl⟩⟩

theorem State.performAllReads_eq (s : State) :
    s.performAllReads = { (allContexts.foldl State.readsOf s) with cur := s.cur } := by
  unfold State.performAllReads allContexts
  rfl

theorem State.performAllReads_dev (s : State) : s.performAllReads.dev = s.dev := by
  simp only [State.performAllReads_eq, State.dev_allReads]

theorem State.performAllReads_hart (s : State) (d : CoreId) (x : CtxId) :
    s.performAllReads.hart d x = (allContexts.foldl State.readsOf s).hart d x := by
  rw [State.performAllReads_eq]
  generalize allContexts.foldl State.readsOf s = t
  rfl

theorem State.performAllReads_obtained (s : State) (d : CoreId) (x : CtxId) :
    (s.performAllReads.hart d x).fills.all (·.reads.isEmpty) = true := by
  rw [s.performAllReads_hart]
  exact State.readsDone_allReads _ s (.inr (mem_allContexts _))

/-! ### The marks -/

theorem moduleUncorrectableError_occurs {s : State} {line : BitVec 46} (hf : line.toNat / 1024 < s.dev.frames.toNat)
    (hl : line.toNat / 1024 ∉ s.dev.lost) (hp : line.toNat ∉ s.dev.poison) : Occurs (.moduleUncorrectableError line) s fun t =>
      t.dev = { s.dev with poison := s.dev.poison ++ [line.toNat] } ∧
        ∀ d x, (t.hart d x).fills.all (·.reads.isEmpty) = true := by
  have hexec : exec (.moduleUncorrectableError line) s =
      .next (s.performAllReads.modifyDev fun d => { d with poison := d.poison ++ [line.toNat] }) := by
    rw [exec_moduleUncorrectableError]
    unfold execModuleUncorrectableError
    rw [if_neg (by simp [hl, hp]; omega)]
  refine occurs_of hexec ⟨by rw [State.modifyDev_dev, s.performAllReads_dev], fun d x => ?_⟩
  rw [State.hart_modifyDev]
  exact s.performAllReads_obtained d x

theorem Core.poisonOf_setPoison (k : Core) (b : BufId) (p : List Nat) : (k.setPoison b p).poisonOf b = p := by
  cases b <;> rfl

theorem Core.hart_setPoison (k : Core) (b : BufId) (p : List Nat) (x : CtxId) : (k.setPoison b p).hart x = k.hart x := by
  cases b <;> rfl

theorem bufferWordError_occurs {s : State} {c : CoreId} {b : BufId} {n : BitVec 19}
    (hn : n.toNat < (if b = .w then 393216 else 262144)) (hp : n.toNat ∉ (s.core c).poisonOf b) :
    Occurs (.bufferWordError c (.wx b) n) s fun t =>
      (t.core c).poisonOf b = (s.core c).poisonOf b ++ [n.toNat] ∧ t.dev = s.dev ∧
        ∀ d x, (t.hart d x).fills.all (·.reads.isEmpty) = true := by
  have hcount : bufferWordCount b = if b = .w then 393216 else 262144 := by cases b <;> rfl
  have hexec : exec (.bufferWordError c (.wx b) n) s =
      .next (s.performAllReads.modifyCore c fun k => k.setPoison b ((s.core c).poisonOf b ++ [n.toNat])) := by
    rw [exec_bufferWordError]
    unfold execBufferWordError
    dsimp only
    rw [if_neg (by simp only [hcount, List.contains_iff_mem, hp, or_false]; omega)]
  refine occurs_of hexec ⟨?_, by rw [State.modifyCore_dev, s.performAllReads_dev], fun d x => ?_⟩
  · rw [State.core_modifyCore, Core.poisonOf_setPoison]
  · rw [State.hart_modifyCore_of fun y => Core.hart_setPoison _ _ _ y]
    exact s.performAllReads_obtained d x

/-- An entry of a slot that is poisoned joins its marks. -/
theorem Slot.mem_poisoned (q : Slot) (n e : Nat) : e ∈ (q.poisoned n).poison ↔ e ∈ q.poison ∨ e = n := by
  unfold Slot.poisoned
  by_cases h : n ∈ q.poison
  · simp only [List.contains_iff_mem, h, if_true]
    exact ⟨.inl, fun he => he.elim id fun he => he ▸ h⟩
  · simp [h]

theorem bufferWordError_z_occurs (s : State) (c : CoreId) (n : BitVec 19) : Occurs (.bufferWordError c .z n) s fun t =>
    (t.core c).slots.length = (s.core c).slots.length ∧
      ∀ (m : Nat) (z y : Slot), (s.core c).slots[m]? = some z → (t.core c).slots[m]? = some y → y.tile = z.tile ∧ y.kind = z.kind ∧
        ∀ e, e ∈ y.poison ↔ e ∈ z.poison ∨ (z.number.toNat = n.toNat / 1024 ∧ e = n.toNat % 1024) := by
  refine occurs_of (exec_bufferWordError ..) ?_
  simp only [State.core_modifyCore, List.length_map, List.getElem?_map, true_and]
  intro m z y hz hy
  rw [hz, Option.map_some, Option.some.injEq] at hy
  subst hy
  by_cases hnum : z.number.toNat = n.toNat / 1024
  · rw [if_pos hnum]
    exact ⟨rfl, rfl, fun e => by rw [Slot.mem_poisoned]; simp [hnum]⟩
  · rw [if_neg hnum]
    exact ⟨rfl, rfl, fun e => by simp [hnum]⟩

end Sys2Proof.Machine
end

section
/-!
Links, modules and slices that leave service (O50, R134, R135, R417, R418): what a fence of a launch leaves of the device,
which launches are fenced, and which frames are lost.
-/

namespace Sys2Proof.Machine

open Stated

/-- What every step of a fold keeps, the fold keeps. -/
theorem foldl_keeps {α β γ : Type} {f : α → β → α} (g : α → γ) (h : ∀ a b, g (f a b) = g a) :
    (bs : List β) → (a : α) → g (bs.foldl f a) = g a
  | [], _ => rfl
  | b :: bs, a => (foldl_keeps g h bs (f a b)).trans (h a b)

/-! ### Reports, and the end of a command -/

/-- The device without its reports and the state of its service command. -/
def Device.quiet (d : Device) : Device :=
  { d with
    reports := [], reptail := 0, repseq := 0, waitingReports := [], repovf := false, svcBusy := false, svcResult := 0
    retiremod := none }

/-- What a part of two devices shows, they show alike. -/
theorem Device.of_part {α : Type} {φ : Device → Device} {d e : Device} (h : φ d = φ e) (f : Device → α)
    (hf : ∀ d, f (φ d) = f d) : f d = f e := (hf d).symm.trans ((congrArg f h).trans (hf e))

@[simp] theorem Device.quiet_report (d : Device) (kind : Nat) (args : List Word) : (d.report kind args).quiet = d.quiet := by
  unfold Device.report
  split
  · rfl
  · split <;> rfl

@[simp] theorem Device.quiet_endCommand (d : Device) (code result : Nat) : (d.endCommand code result).quiet = d.quiet :=
  Device.quiet_report _ _ _

@[simp] theorem Device.quiet_endRetire (d : Device) (l : LinkId) : (d.endRetire l).quiet = d.quiet := by
  unfold Device.endRetire
  split
  · exact Device.quiet_endCommand _ _ _
  · rfl

/-- A device whose frames are lost, before the reports of their ranges. -/
def Device.without (d : Device) (fs : List Nat) : Device :=
  { d with
    lost := d.lost ++ fs
    mem := d.mem.filter fun e => !fs.contains (frameOf e.1)
    poison := d.poison.filter fun l => !fs.contains (l / 1024) }

theorem Device.quiet_lose (d : Device) (fs : List Nat) : (d.lose fs).quiet = (d.without fs).quiet :=
  foldl_keeps (f := fun (d : Device) (r : Nat × Nat) => d.report 3 [word r.1, word r.2]) Device.quiet
    (fun d _ => d.quiet_report 3 _) (runsOfFrames fs) (d.without fs)

/-- A link that leaves service: all but the reports. -/
theorem Device.quiet_leaveService (d : Device) (l : LinkId) (gone : List Nat) : (d.leaveService l gone).quiet =
    (((d.dropLink l).setLanes false (BitVec.ofNat 16 l.val) 0).without gone).quiet := by
  unfold Device.leaveService
  rw [Device.quiet_endRetire, Device.quiet_report, Device.quiet_lose]

theorem Device.linkmap_leaveService (d : Device) (l : LinkId) (gone : List Nat) :
    (d.leaveService l gone).linkmap = (d.dropLink l).linkmap :=
  Device.of_part (d.quiet_leaveService l gone) Device.linkmap fun _ => rfl

theorem Device.retiring_leaveService (d : Device) (l : LinkId) (gone : List Nat) :
    (d.leaveService l gone).retiring = d.retiring.filter (· != l) :=
  Device.of_part (d.quiet_leaveService l gone) Device.retiring fun _ => rfl

theorem Device.lost_leaveService (d : Device) (l : LinkId) (gone : List Nat) : (d.leaveService l gone).lost = d.lost ++ gone :=
  Device.of_part (d.quiet_leaveService l gone) Device.lost fun _ => rfl

theorem Device.placed_leaveService (d : Device) (l : LinkId) (gone : List Nat) : (d.leaveService l gone).placed = d.placed :=
  Device.of_part (d.quiet_leaveService l gone) Device.placed fun _ => rfl

theorem Device.mem_leaveService_eq (d : Device) (l : LinkId) (gone : List Nat) :
    (d.leaveService l gone).mem = d.mem.filter fun e => !gone.contains (frameOf e.1) :=
  Device.of_part (d.quiet_leaveService l gone) Device.mem fun _ => rfl

/-- A link that has been dropped is not in service. -/
theorem Device.dropLink_serves (d : Device) (l : LinkId) : (d.dropLink l).linkmap.getLsbD l.val = false := by
  have hbit : (BitVec.ofNat 24 (2 ^ l.val)).getLsbD l.val = true := by
    rw [BitVec.getLsbD_ofNat, Nat.testBit_two_pow_self, decide_eq_true l.isLt, Bool.and_true]
  change (d.linkmap &&& ~~~(BitVec.ofNat 24 (2 ^ l.val))).getLsbD l.val = false
  rw [BitVec.getLsbD_and, BitVec.getLsbD_not, hbit, Bool.not_true, Bool.and_false, Bool.and_false]

/-! ### Memory without some frames -/

theorem Mem.byte_filter_from {x : Nat} {keep : Nat × Byte → Bool} : {m : Mem} → {lo : Nat} → Mem.wfFrom lo m = true →
    (∀ b, keep (x, b) = true) → Mem.byte (m.filter keep) x = m.byte x ∧ ∀ y, y < lo → Mem.byte (m.filter keep) y = 0
  | [], _, _, _ => ⟨rfl, fun _ _ => rfl⟩
  | (a, b) :: m, lo, hw, hk => by
    simp only [Mem.wfFrom, Bool.and_eq_true, decide_eq_true_eq] at hw
    obtain ⟨ih, hlow⟩ := Mem.byte_filter_from hw.2 hk
    by_cases hab : keep (a, b) = true
    · rw [List.filter_cons_of_pos hab]
      refine ⟨?_, fun y hy => if_pos (by omega)⟩
      simp only [Mem.byte, ih]
    · rw [List.filter_cons_of_neg hab]
      refine ⟨?_, fun y hy => hlow y (by omega)⟩
      have hxa : x ≠ a := fun h => hab (h ▸ hk b)
      simp only [Mem.byte, if_neg hxa]
      split
      · exact hlow x (by omega)
      · exact ih

/-- The bytes of the addresses that stay are as before. -/
theorem Mem.byte_filter {m : Mem} {x : Nat} {keep : Nat × Byte → Bool} (hw : m.wf = true) (hk : ∀ b, keep (x, b) = true) :
    Mem.byte (m.filter keep) x = m.byte x := (Mem.byte_filter_from hw hk).1

/-! ### Fences (R417) -/

/-- The device without its launches, its reports and the state of its service command. -/
def Device.unlaunched (d : Device) : Device :=
  { d.quiet with placed := [], switchedOut := [], outgoing := [], pool := [], selected := none, records := [] }

theorem Device.unlaunched_dropPool (d : Device) (hit : LaunchLink → Bool) : (d.dropPool hit).unlaunched = d.unlaunched :=
  foldl_keeps (f := fun (d : Device) (e : PoolEntry) => d.countEnded e.launch.link e.launch.link.harts true) Device.unlaunched
    (fun _ _ => rfl) _ _

theorem Device.placed_dropPool (d : Device) (hit : LaunchLink → Bool) : (d.dropPool hit).placed = d.placed :=
  foldl_keeps (f := fun (d : Device) (e : PoolEntry) => d.countEnded e.launch.link e.launch.link.harts true) Device.placed
    (fun _ _ => rfl) _ _

theorem Device.unlaunched_report (d : Device) (kind : Nat) (args : List Word) : (d.report kind args).unlaunched = d.unlaunched :=
  congrArg (fun d : Device => { d with placed := [], switchedOut := [], outgoing := [], pool := [], selected := none, records := [] })
    (d.quiet_report kind args)

theorem Device.placed_report (d : Device) (kind : Nat) (args : List Word) : (d.report kind args).placed = d.placed :=
  Device.of_part (d.quiet_report kind args) Device.placed fun _ => rfl

section
variable (s : State) (launch : Word) (cause : BitVec 8)

/-- A fence leaves all of the device but its launches and its reports. -/
theorem State.unlaunched_fenceLaunch : (s.fenceLaunch launch cause).dev.unlaunched = s.dev.unlaunched := by
  unfold State.fenceLaunch
  split
  · dsimp only
    rw [Device.unlaunched_report, Device.unlaunched_dropPool]
    rfl
  · rfl

/-- A launch that has been fenced has the mark at every place. -/
theorem State.placed_fenceLaunch : (s.fenceLaunch launch cause).dev.placed =
    s.dev.placed.map fun p => if p.link.launch == launch then { p with fenced := true } else p := by
  unfold State.fenceLaunch
  split
  · dsimp only
    rw [Device.placed_report, Device.placed_dropPool]
    rfl
  · next h =>
    refine (Eq.trans (List.map_congr_left fun p hp => ?_) (List.map_id _)).symm
    split
    · next hl =>
      have hf : p.fenced = true := by
        by_contra hc
        exact h (List.any_eq_true.2 ⟨p, hp, by simp [hl, hc]⟩)
      cases p
      subst hf
      rfl
    · rfl

end

/-- Wherever the launch is placed, it has the mark of its fence. -/
def State.Fenced (s : State) (launch : Word) : Prop := ∀ p ∈ s.dev.placed, p.link.launch = launch → p.fenced = true

theorem State.fenced_fenceLaunch (s : State) (launch : Word) (cause : BitVec 8) : (s.fenceLaunch launch cause).Fenced launch := by
  intro p hp hl
  rw [State.placed_fenceLaunch] at hp
  obtain ⟨q, -, rfl⟩ := List.mem_map.1 hp
  by_cases hq : (q.link.launch == launch) = true
  · rw [if_pos hq]
  · rw [if_neg hq] at hl
    exact absurd (beq_iff_eq.2 hl) hq

theorem State.Fenced.fenceLaunch {s : State} {l : Word} (h : s.Fenced l) (launch : Word) (cause : BitVec 8) :
    (s.fenceLaunch launch cause).Fenced l := by
  intro p hp hl
  rw [State.placed_fenceLaunch] at hp
  obtain ⟨q, hqs, rfl⟩ := List.mem_map.1 hp
  by_cases hq : (q.link.launch == launch) = true
  · rw [if_pos hq]
  · rw [if_neg hq] at hl ⊢
    exact h q hqs hl

/-- Each of some launches is fenced. -/
def State.fenceAll (s : State) (ls : List Word) : State := ls.foldl (fun s l => s.fenceLaunch l causeFenced) s

theorem State.Fenced.fenceAll {l : Word} : (ls : List Word) → {s : State} → s.Fenced l → (s.fenceAll ls).Fenced l
  | [], _, h => h
  | m :: ls, _, h => State.Fenced.fenceAll ls (h.fenceLaunch m causeFenced)

theorem State.fenceAll_cons (s : State) (l : Word) (ls : List Word) :
    s.fenceAll (l :: ls) = (s.fenceLaunch l causeFenced).fenceAll ls := rfl

theorem State.fenced_fenceAll {l : Word} {ls : List Word} (s : State) (h : l ∈ ls) : (s.fenceAll ls).Fenced l := by
  induction ls generalizing s with
  | nil => cases h
  | cons m ls ih =>
    rw [State.fenceAll_cons]
    rcases List.mem_cons.1 h with rfl | h
    · exact State.Fenced.fenceAll ls (s.fenced_fenceLaunch l causeFenced)
    · exact ih _ h

theorem State.unlaunched_fenceAll (s : State) (ls : List Word) : (s.fenceAll ls).dev.unlaunched = s.dev.unlaunched :=
  foldl_keeps (f := fun (s : State) l => s.fenceLaunch l causeFenced) (fun s => s.dev.unlaunched)
    (fun s l => s.unlaunched_fenceLaunch l causeFenced) ls s

/-- What a fence leaves of the device that does not speak of launches and reports. -/
theorem State.dev_fenceAll {α : Type} (s : State) (ls : List Word) (f : Device → α) (hf : ∀ d, f d.unlaunched = f d) :
    f (s.fenceAll ls).dev = f s.dev := Device.of_part (s.unlaunched_fenceAll ls) f hf

/-! ### The launches that wait for a slice (R135) -/

theorem State.mem_launchesWaitingAt {s : State} {at_ : SliceId → Bool} {d : CoreId} {y : UserCtx} {f : Fill} {r : PendingRead}
    {pa : Nat} (hs : s.status d (userId y) ≠ .free) (hf : f ∈ (s.hart d (userId y)).fills) (hr : r ∈ f.reads)
    (hp : r.place = .main pa) (ha : at_ (s.dev.homeOf pa) = true) :
    (s.hart d (userId y)).link.launch ∈ s.launchesWaitingAt at_ := by
  unfold State.launchesWaitingAt
  unfold State.hart State.status at *
  rw [Core.hart_userId] at hf ⊢
  rw [Core.status_userId] at hs
  refine List.mem_map.2 ⟨(s.core d).ctxs[y.val], List.mem_flatMap.2 ⟨s.core d, ?_, List.mem_filter.2 ⟨?_, ?_⟩⟩, rfl⟩
  · exact Vector.mem_toList_iff.2 (Vector.getElem_mem _)
  · exact Vector.mem_toList_iff.2 (Vector.getElem_mem _)
  · simp only [Bool.and_eq_true, bne_iff_ne, ne_eq, List.any_eq_true]
    exact ⟨hs, f, hf, r, hr, by rw [hp]; exact ha⟩

/-! ### Frames behind a link or a slice -/

theorem Device.mem_framesAt {d : Device} {at_ : SliceId → Bool} {f : Nat} :
    f ∈ d.framesAt at_ ↔ f < d.frames.toNat ∧ at_ (d.frameInfo f).home = true ∧ f ∉ d.lost := by
  simp [Device.framesAt]

theorem linkOf_eq_iff (t : SliceId) (l : LinkId) : (linkOf t == l) = true ↔ t.val / 4 % 24 = l.val := by
  rw [beq_iff_eq, Fin.ext_iff]
  rfl

/-- The frames of some slices that were not lost before are lost with them. -/
theorem Device.mem_lost_of_framesAt {d : Device} {at_ : SliceId → Bool} {f : Nat} (hf : f < d.frames.toNat)
    (ha : at_ (d.frameInfo f).home = true) : f ∈ d.lost ++ d.framesAt at_ := by
  by_cases hl : f ∈ d.lost
  · exact List.mem_append_left _ hl
  · exact List.mem_append_right _ (Device.mem_framesAt.2 ⟨hf, ha, hl⟩)

/-! ### The acts -/

section
variable {s : State} {link : LinkId} {slice : SliceId}

theorem linkFailure_readable (hs : s.dev.linkmap.getLsbD link.val = true) (hr : link ∉ s.dev.retiring) :
    exec (.linkFailure link true) s = .next (s.modifyDev fun d =>
      { d with retiring := d.retiring ++ [link], fencedLinks := d.fencedLinks ++ [link] }) := by
  rw [exec_linkFailure]
  unfold execLinkFailure
  rw [if_neg (by simp only [hs]; simp [hr]), if_pos rfl]

theorem linkFailure_retiring (hr : link ∈ s.dev.retiring) : exec (.linkFailure link true) s = .next s := by
  rw [exec_linkFailure]
  unfold execLinkFailure
  rw [if_pos (by simp [hr])]

/-- The frames behind a link. -/
def Device.Behind (d : Device) (link : LinkId) (f : Nat) : Prop :=
  f < d.frames.toNat ∧ (d.frameInfo f).home.val / 4 % 24 = link.val

theorem linkFailure_unreadable (hs : s.dev.linkmap.getLsbD link.val = true) :
    exec (.linkFailure link false) s =
      .next ((s.fenceAll (s.launchesWaitingAt fun t => linkOf t == link)).modifyDev fun d =>
        { d with fencedLinks := link :: d.fencedLinks.filter (· != link) : Device }.leaveService link
          (d.framesAt fun t => linkOf t == link)) := by
  rw [exec_linkFailure]
  unfold execLinkFailure
  rw [if_neg (by simp only [hs]; simp), if_neg Bool.false_ne_true]
  rfl

theorem linkFailure_occurs (hs : s.dev.linkmap.getLsbD link.val = true) : Occurs (.linkFailure link false) s fun t =>
    t.dev.linkmap.getLsbD link.val = false ∧ (∀ f, s.dev.Behind link f → f ∈ t.dev.lost) ∧
      (∀ l ∈ s.launchesWaitingAt fun t => linkOf t == link, t.Fenced l) ∧
      (s.dev.mem.wf = true → ∀ a, ¬s.dev.Behind link (a / 65536) → t.dev.mem.byte a = s.dev.mem.byte a) := by
  refine occurs_of (linkFailure_unreadable hs) ?_
  generalize hls : (s.launchesWaitingAt fun t => linkOf t == link) = ls
  have hframes := s.dev_fenceAll ls (fun d => d.framesAt fun t => linkOf t == link) fun _ => rfl
  have hlost := s.dev_fenceAll ls Device.lost fun _ => rfl
  have hmem := s.dev_fenceAll ls Device.mem fun _ => rfl
  simp only [State.modifyDev_dev, Device.linkmap_leaveService, Device.lost_leaveService, Device.mem_leaveService_eq, hframes]
  refine ⟨Device.dropLink_serves _ link, fun f hf => ?_, fun l hl p hp => ?_, fun hw a ha => ?_⟩
  · rw [hlost]
    exact Device.mem_lost_of_framesAt hf.1 ((linkOf_eq_iff _ _).2 hf.2)
  · rw [State.modifyDev_dev, Device.placed_leaveService] at hp
    exact s.fenced_fenceAll hl p hp
  · rw [hmem]
    refine Mem.byte_filter hw fun b => ?_
    have hout : a / 65536 ∉ s.dev.framesAt fun t => linkOf t == link := fun hm =>
      have ⟨hlt, hat, _⟩ := Device.mem_framesAt.1 hm
      ha ⟨hlt, (linkOf_eq_iff _ _).1 hat⟩
    simpa [frameOf] using hout

theorem moduleRetireComplete_occurs (hr : link ∈ s.dev.retiring) (hc : s.dev.recalibrating false link.val = false) :
    Occurs (.moduleRetireComplete link) s fun t =>
      t.dev.linkmap.getLsbD link.val = false ∧ link ∉ t.dev.retiring ∧ t.cores = s.cores := by
  have hexec : exec (.moduleRetireComplete link) s = .next (s.modifyDev fun d =>
      (Device.rehomeAll (d.framesAt fun t => linkOf t == link) d).1.leaveService link
        (Device.rehomeAll (d.framesAt fun t => linkOf t == link) d).2) := by
    rw [exec_moduleRetireComplete]
    unfold execModuleRetireComplete
    rw [if_neg (by simp [hr, hc])]
  refine occurs_of hexec ?_
  simp only [State.modifyDev_dev, Device.linkmap_leaveService, Device.retiring_leaveService]
  exact ⟨Device.dropLink_serves _ link, by simp, rfl⟩

theorem sliceUncorrectableError_occurs (hs : slice ∉ s.dev.fencedSlices) : Occurs (.sliceUncorrectableError slice) s fun t =>
    t.dev.fencedSlices = s.dev.fencedSlices ++ [slice] ∧ (∀ l ∈ s.launchesWaitingAt (· == slice), t.Fenced l) ∧
      ∀ f, f < s.dev.frames.toNat → (s.dev.frameInfo f).home = slice → f ∈ t.dev.lost := by
  have hexec : exec (.sliceUncorrectableError slice) s =
      .next ((s.fenceAll (s.launchesWaitingAt (· == slice))).modifyDev fun d =>
        { d with
          fencedSlices := d.fencedSlices ++ [slice]
          homes := d.homes.map fun (i : FrameInfo) => if i.move = some slice then { i with move := none } else i }.lose
            (d.framesAt (· == slice))) := by
    rw [exec_sliceUncorrectableError]
    unfold execSliceUncorrectableError
    rw [if_neg (by simp [hs])]
    rfl
  refine occurs_of hexec ?_
  generalize hls : s.launchesWaitingAt (· == slice) = ls
  have hframes := s.dev_fenceAll ls (fun d => d.framesAt (· == slice)) fun _ => rfl
  have hlost := s.dev_fenceAll ls Device.lost fun _ => rfl
  have hfenced := s.dev_fenceAll ls Device.fencedSlices fun _ => rfl
  have part {α : Type} (f : Device → α) (hf : ∀ d, f d.quiet = f d) (d : Device) (fs : List Nat) : f (d.lose fs) = f (d.without fs) :=
    Device.of_part (d.quiet_lose fs) f hf
  rw [State.modifyDev_dev, part Device.fencedSlices (fun _ => rfl), part Device.lost fun _ => rfl]
  refine ⟨congrArg (· ++ [slice]) hfenced, fun l hl p hp => ?_, fun f hf ha => ?_⟩
  · rw [State.modifyDev_dev, part Device.placed fun _ => rfl] at hp
    exact s.fenced_fenceAll hl p hp
  · change f ∈ (s.fenceAll ls).dev.lost ++ (s.fenceAll ls).dev.framesAt (· == slice)
    rw [hlost, hframes]
    exact Device.mem_lost_of_framesAt hf (by simp [ha])

end

end Sys2Proof.Machine
end

section
/-!
What commits, fences and stops leave of a core (O50): the lanes that it has, the records that wait for its firmware, and the
corrected errors that it counts.
-/

namespace Sys2Proof.Machine

open Stated

/-! ### The part of a core that harts do not change -/

/-- The lanes of a core, its ordinary records and its corrected errors. -/
def Core.board (k : Core) : BitVec 64 × List Record × List Record × List (Lane × Nat) :=
  (k.lanemap, k.ordinary, k.outside, k.corrected)

/-- The boards of the cores are as they were, and a launch that was fenced has its marks. -/
structure State.SameBoards (s t : State) : Prop where
  board : ∀ c, (t.core c).board = (s.core c).board
  fenced : ∀ l, s.Fenced l → t.Fenced l

theorem State.SameBoards.refl (s : State) : s.SameBoards s := ⟨fun _ => rfl, fun _ h => h⟩

theorem State.SameBoards.trans {s t r : State} (h : s.SameBoards t) (k : t.SameBoards r) : s.SameBoards r :=
  ⟨fun c => (k.board c).trans (h.board c), fun l hl => k.fenced l (h.fenced l hl)⟩

theorem State.sameBoards_modifyDev (s : State) (f : Device → Device) (h : (f s.dev).placed = s.dev.placed) :
    s.SameBoards (s.modifyDev f) := ⟨fun _ => rfl, fun _ hl p hp => hl p (h ▸ hp)⟩

theorem State.sameBoards_modifyCore (s : State) (c : CoreId) (f : Core → Core) (h : (f (s.core c)).board = (s.core c).board) :
    s.SameBoards (s.modifyCore c f) := by
  refine ⟨fun d => ?_, fun _ hl => hl⟩
  by_cases hd : d = c
  · subst hd; rw [State.core_modifyCore]; exact h
  · rw [State.core_modifyCore_ne _ _ _ _ hd]

theorem Core.board_setHart (k : Core) (x : CtxId) (h : Hart) : (k.setHart x h).board = k.board := by
  unfold Core.setHart
  split <;> rfl

theorem State.sameBoards_modifyMe (s : State) (f : Hart → Hart) : s.SameBoards (s.modifyMe f) :=
  s.sameBoards_modifyCore s.cur.core (fun k => k.setHart s.cur.ctx (f s.me)) (Core.board_setHart _ _ _)

theorem State.sameBoards_foldl {α : Type} (f : State → α → State) (h : ∀ s a, State.SameBoards s (f s a)) :
    (xs : List α) → (s : State) → s.SameBoards (xs.foldl f s)
  | [], s => .refl s
  | x :: xs, s => (h s x).trans (State.sameBoards_foldl f h xs (f s x))

theorem State.sameBoards_actingAs (s : State) (c : CoreId) (x : CtxId) : s.SameBoards (s.actingAs c x) :=
  ⟨fun _ => rfl, fun _ h => h⟩

/-! ### Fences -/

/-- A fence leaves what a core has beside its contexts. -/
theorem State.core_fenceAll {α : Type} (f : Core → α) (hf : ∀ l k, f (Core.fenceLaunch l k) = f k) (s : State) (ls : List Word)
    (c : CoreId) : f ((s.fenceAll ls).core c) = f (s.core c) := by
  induction ls generalizing s with
  | nil => rfl
  | cons l ls ih =>
    rw [State.fenceAll_cons, ih]
    rcases s.core_fenceLaunch l causeFenced c with h | h <;> rw [h]
    exact hf l _

theorem State.sameBoards_fenceLaunch (s : State) (l : Word) (cause : BitVec 8) : s.SameBoards (s.fenceLaunch l cause) := by
  refine ⟨fun c => ?_, fun m hm => hm.fenceLaunch l cause⟩
  rcases s.core_fenceLaunch l cause c with h | h <;> rw [h]
  rfl

theorem State.sameBoards_fenceAll (s : State) (ls : List Word) : s.SameBoards (s.fenceAll ls) :=
  State.sameBoards_foldl _ (fun s l => s.sameBoards_fenceLaunch l causeFenced) ls s

theorem State.sameHarts_fenceAll (s : State) (ls : List Word) : s.SameHarts (s.fenceAll ls) :=
  State.alike_foldl _ (fun s l => s.sameHarts_fenceLaunch l causeFenced) ls s

/-! ### The effects of a strip, and reads -/

theorem Device.placed_queueWake (d : Device) (w : Wake) : (d.queueWake w).placed = d.placed := by
  unfold Device.queueWake
  split <;> rfl

theorem State.sameBoards_wakeCore (s : State) (c : CoreId) : s.SameBoards (s.wakeCore c) := by
  unfold State.wakeCore
  split
  · exact .refl s
  · exact .refl s
  · exact s.sameBoards_modifyCore c _ rfl
  · exact s.sameBoards_modifyCore c _ rfl
  · exact (s.sameBoards_modifyCore c (fun k => { k with power := .waking }) rfl).trans
      (State.sameBoards_modifyDev _ _ (Device.placed_queueWake _ _))

theorem State.sameBoards_notifyWrite (s : State) (core n : Nat) (x : Word) : s.SameBoards (s.notifyWrite core n x) := by
  unfold State.notifyWrite
  split
  · dsimp only
    split
    · exact .refl s
    · split
      · exact s.sameBoards_modifyCore _ _ rfl
      · exact (s.sameBoards_wakeCore _).trans (State.sameBoards_modifyCore _ _ _ rfl)
      · exact (s.sameBoards_modifyCore _ _ rfl).trans (State.sameBoards_wakeCore _ _)
  · exact .refl s

theorem State.sameBoards_setBuffer (s : State) (c : CoreId) (b : BufId) (a n : Nat) (m : Core → Mem) :
    s.SameBoards (s.modifyCore c fun k => (k.setBuffer b (m k)).bumpBuffer b a n) :=
  s.sameBoards_modifyCore c _ (by cases b <;> rfl)

theorem Device.placed_clearGroup (d : Device) (pa n x : Nat) : (d.clearGroup pa n x).placed = d.placed := by
  unfold Device.clearGroup
  split <;> rfl

theorem State.sameBoards_performStore (s : State) (p : Place) (n x : Nat) : s.SameBoards (s.performStore p n x) := by
  unfold State.performStore
  split
  · split
    · exact s.sameBoards_fenceLaunch _ _
    · exact s.sameBoards_modifyDev _ (Device.placed_clearGroup _ _ _ _)
  · exact s.sameBoards_setBuffer _ _ _ _ fun k => (k.buffer _).write _ n x
  · exact s.sameBoards_notifyWrite _ _ _
  · exact s.sameBoards_modifyDev _ rfl
  all_goals exact .refl s

theorem State.sameBoards_clearWritten (s : State) (rs : List (Place × Nat)) : s.SameBoards (s.clearWritten rs) := by
  unfold State.clearWritten
  exact (s.sameBoards_modifyDev _ (by rfl)).trans (State.sameBoards_modifyCore _ _ _ (by rfl))

theorem State.sameBoards_performMore (s : State) (wrote : List (Place × Nat)) (es : List (Place × Nat × Nat)) :
    s.SameBoards (s.performMore wrote es) :=
  (State.sameBoards_foldl _ (fun s e => s.sameBoards_performStore e.1 e.2.1 e.2.2) es s).trans
    (State.sameBoards_clearWritten _ _)

theorem State.sameBoards_performScatter (s : State) (a : ScatterAdd) (free : Bool) :
    s.SameBoards (s.performScatter a free) := by
  unfold State.performScatter
  split
  · exact s.sameBoards_fenceLaunch _ _
  · split
    · exact ⟨fun _ => rfl, fun _ h => h⟩
    · exact ⟨fun _ => rfl, fun _ h => h⟩

theorem State.sameBoards_performItem (s : State) (i : StripItem) : s.SameBoards (s.performItem i) := by
  unfold State.performItem
  cases i with
  | stores es wrote => exact s.sameBoards_performMore wrote es
  | scatter a free => exact s.sameBoards_performScatter a free
  | push d st va n x =>
    exact (s.sameBoards_modifyDev _ (by rfl)).trans (State.sameBoards_modifyMe _ _)
  | command t => exact s.sameBoards_modifyMe _

theorem State.sameBoards_takeForeign (s : State) (rs : List PendingRead) : s.SameBoards (s.takeForeign rs) := by
  unfold State.takeForeign
  split
  · exact ⟨fun _ => rfl, fun _ h => h⟩
  · exact .refl s

theorem State.sameBoards_performReads (s : State) : s.SameBoards s.performReads :=
  (s.sameBoards_modifyMe _).trans (State.sameBoards_takeForeign _ _)

theorem State.sameBoards_performThese (s : State) (these : PendingRead → Bool) : s.SameBoards (s.performThese these) :=
  (s.sameBoards_modifyMe _).trans (State.sameBoards_takeForeign _ _)

theorem State.sameBoards_commitFirst (s : State) (n : Option Nat) : s.SameBoards (s.commitFirst n) := by
  have reads (b : Bool) : s.SameBoards (if b then s.performThese (·.upTo == 0) else s) := by
    cases b
    · exact .refl s
    · exact s.sameBoards_performThese _
  unfold State.commitFirst
  split
  · exact .refl s
  · dsimp only
    split
    · exact (reads _).trans ((State.sameBoards_performMore _ _ _).trans (State.sameBoards_modifyMe _ _))
    · exact (reads _).trans ((State.sameBoards_modifyMe _ _).trans (State.sameBoards_performItem _ _))

theorem State.sameBoards_commitItems : (fuel : Nat) → (pace : Option Nat) → (s : State) →
    s.SameBoards (State.commitItems fuel pace s)
  | 0, _, s => .refl s
  | fuel + 1, pace, s => by
    unfold State.commitItems
    split
    · exact .refl s
    · split
      · exact .refl s
      · split
        · exact (s.sameBoards_commitFirst _).trans (State.sameBoards_commitItems fuel _ _)
        · split
          · exact (s.sameBoards_commitFirst _).trans (State.sameBoards_commitItems fuel _ _)
          · split
            · exact .refl s
            · exact s.sameBoards_commitFirst _

theorem State.sameBoards_commitStrip (s : State) : s.SameBoards s.commitStrip := by
  unfold State.commitStrip
  exact (State.sameBoards_commitItems _ _ s).trans (State.sameBoards_modifyMe _ _)

theorem State.sameBoards_quiesce (s : State) : s.SameBoards s.quiesce :=
  s.sameBoards_performReads.trans ((State.sameBoards_modifyMe _ Hart.settle).trans (State.sameBoards_commitStrip _))

theorem State.sameBoards_resetAdvice (s : State) (c : CoreId) (x : CtxId) : s.SameBoards (s.resetAdvice c x) := by
  unfold State.resetAdvice
  split
  · exact s.sameBoards_modifyCore c _ rfl
  · exact .refl s

/-! ### Stopping the contexts of a core (R400) -/

/-- Of a hart, whether a trap is due. -/
def Hart.dueOnly (h : Hart) : Hart := { ({} : Hart) with trapDue := h.trapDue }

theorem Hart.trapDue_of_dueOnly {h k : Hart} (e : h.dueOnly = k.dueOnly) : h.trapDue = k.trapDue :=
  Hart.of_part e Hart.trapDue fun _ => rfl

theorem Hart.dueOnly_congr {h k : Hart} (e : h.trapDue = k.trapDue) : h.dueOnly = k.dueOnly := by
  rw [Hart.dueOnly, Hart.dueOnly, e]

theorem State.Alike.dueOnly {φ : Hart → Hart} {s t : State} (h : s.Alike φ t) (hφ : ∀ h, (φ h).trapDue = h.trapDue) :
    s.Alike Hart.dueOnly t :=
  ⟨h.1, fun c x => ⟨(h.2 c x).1, Hart.dueOnly_congr (Hart.of_part (h.2 c x).2 Hart.trapDue hφ)⟩⟩

theorem State.alike_modifyMe_due (s : State) {f : Hart → Hart} (h : ∀ h, (f h).trapDue = h.trapDue) :
    s.Alike Hart.dueOnly (s.modifyMe f) := State.alike_modifyMe (Hart.dueOnly_congr (h s.me))

theorem Hart.deliver_trapDue (h : Hart) (f : Fill) : (h.deliver f).trapDue = h.trapDue := by
  unfold Hart.deliver
  dsimp only
  split <;> simp

theorem Hart.settle_trapDue (h : Hart) : h.settle.trapDue = h.trapDue :=
  foldl_keeps (f := Hart.deliver) Hart.trapDue Hart.deliver_trapDue h.fills { h with fills := [] }

theorem State.alike_quiesce (s : State) : s.Alike Hart.dueOnly s.quiesce :=
  (s.sameHarts_performReads.dueOnly fun _ => rfl).trans ((State.alike_modifyMe_due _ Hart.settle_trapDue).trans
    ((State.sameCalm_commitStrip _).dueOnly fun _ => rfl))

/-- What a hart keeps of its strip and of its trap when its context stops (R400). -/
def Hart.atStop (w : Option Wait) (h : Hart) : Hart :=
  { h with
    links := []
    abandoned := w
    trap := { epc := h.pc, elt := word h.eltDone, row := BitVec.ofNat 5 h.rowDone } }

/-- A core with a context stopped. -/
def Core.stopCtx (x : UserCtx) (k : Core) : Core :=
  { k with ctxs := k.ctxs.set x.val { k.ctxs[x.val] with status := .stopped, restored := false } }

/-- A hart waits at no barrier and for no notify register of a core any more. -/
def Device.withoutWaiter (c : CoreId) (id : BitVec 48) (d : Device) : Device :=
  { d with
    barWaiters := d.barWaiters.filter (·.hart != id)
    notifyWaiters := d.notifyWaiters.filter fun q => !(q.hart == id && q.core == c) }

section
variable (s : State) (c : CoreId) (x : UserCtx) (w : Option Wait)

/-- A context that stops, while it still stands at its instruction. -/
def State.settling : State := ((s.actingAs c (userId x)).quiesce.resetAdvice c (userId x)).modifyMe (Hart.atStop w)

/-- A context that stops, before its status says so. -/
def State.stopping : State := (s.settling c x w).modifyDev (Device.withoutWaiter c (s.settling c x w).me.id)

/-- A context that has stopped. -/
def State.stopped : State := { (s.stopping c x w).modifyCore c (Core.stopCtx x) with cur := s.cur }

theorem State.sameBoards_stopped : s.SameBoards (s.stopped c x w) := by
  have h : s.SameBoards (s.stopping c x w) := (s.sameBoards_actingAs c (userId x)).trans ((State.sameBoards_quiesce _).trans
    ((State.sameBoards_resetAdvice _ _ _).trans ((State.sameBoards_modifyMe _ _).trans (State.sameBoards_modifyDev _ _ rfl))))
  unfold State.stopped
  generalize s.stopping c x w = t at h ⊢
  have ht := h.trans (t.sameBoards_modifyCore c (Core.stopCtx x) rfl)
  exact ⟨ht.board, ht.fenced⟩

theorem State.stopping_alike : (s.actingAs c (userId x)).Alike Hart.dueOnly (s.stopping c x w) :=
  (State.alike_quiesce _).trans (((State.alike_resetAdvice _ _ _).dueOnly fun _ => rfl).trans
    ((State.alike_modifyMe_due _ (f := Hart.atStop w) fun _ => rfl).trans (State.alike_modifyDev _ _)))

theorem State.status_stopped : (s.stopped c x w).status c (userId x) = .stopped := by
  unfold State.stopped
  generalize s.stopping c x w = t
  change ((t.modifyCore c (Core.stopCtx x)).core c).status (userId x) = _
  rw [State.core_modifyCore, Core.status_userId]
  simp only [Core.stopCtx, Vector.getElem_set_self]

theorem State.stopped_of_ne {y : UserCtx} (hy : y ≠ x) : (s.stopped c x w).status c (userId y) = s.status c (userId y) ∧
    ((s.stopped c x w).hart c (userId y)).trapDue = (s.hart c (userId y)).trapDue := by
  have hne : x.val ≠ y.val := fun h => hy (Fin.ext h.symm)
  obtain ⟨hs, hd⟩ := (s.stopping_alike c x w).2 c (userId y)
  unfold State.stopped
  generalize s.stopping c x w = t at hs hd
  refine ⟨Eq.trans ?_ hs, Eq.trans ?_ (Hart.trapDue_of_dueOnly hd)⟩
  · change ((t.modifyCore c (Core.stopCtx x)).core c).status (userId y) = (t.core c).status (userId y)
    rw [State.core_modifyCore, Core.status_userId, Core.status_userId]
    simp only [Core.stopCtx, Vector.getElem_set_ne _ _ hne]
  · change (((t.modifyCore c (Core.stopCtx x)).core c).hart (userId y)).trapDue = ((t.core c).hart (userId y)).trapDue
    rw [State.core_modifyCore, Core.hart_userId, Core.hart_userId]
    simp only [Core.stopCtx, Vector.getElem_set_ne _ _ hne]

end

/-- A context that a service record can stop. -/
def State.Stoppable (s : State) (c : CoreId) (x : UserCtx) : Prop :=
  (s.hart c (userId x)).trapDue = none ∧ (s.status c (userId x) = .running ∨ ∃ w, s.status c (userId x) = .waiting w)

theorem State.mem_stoppable {s : State} {c : CoreId} {x : UserCtx} : x ∈ s.stoppable c ↔ s.Stoppable c x := by
  unfold State.stoppable State.Stoppable
  rw [List.mem_filter, Bool.and_eq_true, Option.isNone_iff_eq_none]
  cases s.status c (userId x) <;> simp [List.mem_finRange]

theorem State.stopContext_of_stoppable {s : State} {c : CoreId} {x : UserCtx} (h : s.Stoppable c x) :
    ∃ w, s.stopContext c x = s.stopped c x w := by
  obtain ⟨hd, hs⟩ := h
  have hdue : (s.actingAs c (userId x)).me.trapDue.isSome = false := by rw [State.me_actingAs, hd]; rfl
  rcases hs with hs | ⟨w, hs⟩
  · refine ⟨none, ?_⟩
    unfold State.stopContext
    simp only [hs, hdue, Bool.false_eq_true, if_false]
    rfl
  · refine ⟨some w, ?_⟩
    unfold State.stopContext
    simp only [hs, hdue, Bool.false_eq_true, if_false]
    rfl

/-- Contexts stop one after the other. -/
def State.stopAll (s : State) (c : CoreId) (xs : List UserCtx) : State := xs.foldl (fun s x => s.stopContext c x) s

/-- A context that is not among those that stop goes on as it does. -/
theorem State.stopAll_of_not_mem {c : CoreId} {y : UserCtx} {xs : List UserCtx} {s : State} (hx : ∀ x ∈ xs, s.Stoppable c x)
    (hn : xs.Nodup) (hy : y ∉ xs) : (s.stopAll c xs).status c (userId y) = s.status c (userId y) := by
  induction xs generalizing s with
  | nil => rfl
  | cons x xs ih =>
    obtain ⟨hne, hmem⟩ := not_or.1 (mt List.mem_cons.2 hy)
    obtain ⟨hnot, hnodup⟩ := List.nodup_cons.1 hn
    obtain ⟨w, hw⟩ := State.stopContext_of_stoppable (hx x List.mem_cons_self)
    change ((s.stopContext c x).stopAll c xs).status c (userId y) = _
    rw [hw, ih (fun z hz => ?_) hnodup hmem, (s.stopped_of_ne c x w hne).1]
    obtain ⟨hs, hd⟩ := s.stopped_of_ne c x w (y := z) fun he => hnot (he ▸ hz)
    have := hx z (List.mem_cons_of_mem _ hz)
    rwa [State.Stoppable, hs, hd]

/-- Every context that can stop has stopped. -/
theorem State.stopAll_of_mem {c : CoreId} {y : UserCtx} {xs : List UserCtx} {s : State} (hx : ∀ x ∈ xs, s.Stoppable c x)
    (hn : xs.Nodup) (hy : y ∈ xs) : (s.stopAll c xs).status c (userId y) = .stopped := by
  induction xs generalizing s with
  | nil => cases hy
  | cons x xs ih =>
    obtain ⟨hnot, hnodup⟩ := List.nodup_cons.1 hn
    obtain ⟨w, hw⟩ := State.stopContext_of_stoppable (hx x List.mem_cons_self)
    have hrest : ∀ z ∈ xs, (s.stopped c x w).Stoppable c z := fun z hz => by
      obtain ⟨hs, hd⟩ := s.stopped_of_ne c x w (y := z) fun he => hnot (he ▸ hz)
      have := hx z (List.mem_cons_of_mem _ hz)
      rwa [State.Stoppable, hs, hd]
    change ((s.stopContext c x).stopAll c xs).status c (userId y) = _
    rw [hw]
    by_cases he : y = x
    · subst he
      rw [State.stopAll_of_not_mem hrest hnodup hnot, State.status_stopped]
    · exact ih hrest hnodup ((List.mem_cons.1 hy).resolve_left he)

theorem State.sameBoards_stopAll {c : CoreId} {xs : List UserCtx} {s : State} (hx : ∀ x ∈ xs, s.Stoppable c x)
    (hn : xs.Nodup) : s.SameBoards (s.stopAll c xs) := by
  induction xs generalizing s with
  | nil => exact .refl s
  | cons x xs ih =>
    obtain ⟨hnot, hnodup⟩ := List.nodup_cons.1 hn
    obtain ⟨w, hw⟩ := State.stopContext_of_stoppable (hx x List.mem_cons_self)
    change s.SameBoards ((s.stopContext c x).stopAll c xs)
    rw [hw]
    refine (s.sameBoards_stopped c x w).trans (ih (fun z hz => ?_) hnodup)
    obtain ⟨hs, hd⟩ := s.stopped_of_ne c x w (y := z) fun he => hnot (he ▸ hz)
    have := hx z (List.mem_cons_of_mem _ hz)
    rwa [State.Stoppable, hs, hd]

end Sys2Proof.Machine
end

section
/-!
Errors of a core and its lanes (O50, R398, R418 to R421), and the obligation.
-/

namespace Sys2Proof.Machine

open Stated

/-! ### Records of a lane (R400, R420) -/

/-- A wake request changes of a core no more than its power. -/
theorem State.core_wakeCore {α : Type} (f : Core → α) (hf : ∀ k p, f { k with power := p } = f k) (s : State) (c : CoreId) :
    f ((s.wakeCore c).core c) = f (s.core c) := by
  unfold State.wakeCore
  split
  · rfl
  · rfl
  · rw [State.core_modifyCore]; exact hf _ _
  · rw [State.core_modifyCore]; exact hf _ _
  · rw [State.core_modifyDev, State.core_modifyCore]; exact hf _ _

/-- A record that no other waits before enters the queue. -/
theorem State.ordinary_post {s : State} {c : CoreId} {r : Record} (ho : (s.core c).outside = [])
    (hl : (s.core c).ordinary.length < 60) : ((s.post c r).core c).ordinary = (s.core c).ordinary ++ [r] := by
  unfold State.post
  rw [State.core_wakeCore Core.ordinary fun _ _ => rfl, State.core_modifyCore]
  unfold Core.enqueue
  simp only [ho, List.nil_append]
  rw [List.take_of_length_le (by simp only [List.length_singleton]; omega)]

theorem State.corrected_post (s : State) (c : CoreId) (r : Record) : ((s.post c r).core c).corrected = (s.core c).corrected := by
  unfold State.post
  rw [State.core_wakeCore Core.corrected fun _ _ => rfl, State.core_modifyCore]
  rfl

theorem State.fenced_post {s : State} {l : Word} (h : s.Fenced l) (c : CoreId) (r : Record) : (s.post c r).Fenced l :=
  (State.sameBoards_wakeCore _ c).fenced l h

/-- The record that a lane's errors post. -/
def laneRecord (n : Nat) (xs : List UserCtx) : Record :=
  { regs := { val := word n, stat := tstat false true 4 false 3 4 }, of := .stops xs }

theorem State.postLane_eq (s : State) (c : CoreId) (n : Nat) :
    s.postLane c n = (s.stopAll c (s.stoppable c)).post c (laneRecord n (s.stoppable c)) := rfl

section
variable (s : State) (c : CoreId) (n : Nat)

theorem State.sameBoards_stops : s.SameBoards (s.stopAll c (s.stoppable c)) :=
  State.sameBoards_stopAll (fun _ hx => State.mem_stoppable.1 hx) ((List.nodup_finRange 4).filter _)

/-- A LANE record finds every context stopped that can stop. -/
theorem State.status_postLane {x : UserCtx} (hx : x ∈ s.stoppable c) : (s.postLane c n).status c (userId x) = .stopped := by
  rw [State.postLane_eq, ((State.alike_post (φ := Hart.dueOnly) _ c _).2 c (userId x)).1]
  exact State.stopAll_of_mem (fun _ hx => State.mem_stoppable.1 hx) ((List.nodup_finRange 4).filter _) hx

theorem State.ordinary_postLane (ho : (s.core c).outside = []) (hl : (s.core c).ordinary.length < 60) :
    ((s.postLane c n).core c).ordinary = (s.core c).ordinary ++ [laneRecord n (s.stoppable c)] := by
  have hb := (s.sameBoards_stops c).board c
  have hord : ((s.stopAll c (s.stoppable c)).core c).ordinary = (s.core c).ordinary := congrArg (·.2.1) hb
  have hout : ((s.stopAll c (s.stoppable c)).core c).outside = (s.core c).outside := congrArg (·.2.2.1) hb
  rw [State.postLane_eq, State.ordinary_post (hout.trans ho) (by rw [hord]; exact hl), hord]

theorem State.corrected_postLane : ((s.postLane c n).core c).corrected = (s.core c).corrected := by
  rw [State.postLane_eq, State.corrected_post]
  exact congrArg (·.2.2.2) ((s.sameBoards_stops c).board c)

theorem State.fenced_postLane {l : Word} (h : s.Fenced l) : (s.postLane c n).Fenced l :=
  State.fenced_post ((s.sameBoards_stops c).fenced l h) c _

end

/-- Two states in which the harts of a core stand alike have the same contexts to stop. -/
theorem State.stoppable_of_alike {s t : State} (h : s.Alike Hart.dueOnly t) (c : CoreId) : t.stoppable c = s.stoppable c := by
  unfold State.stoppable
  refine List.filter_congr fun x _ => ?_
  obtain ⟨hs, hd⟩ := h.2 c (userId x)
  rw [hs, Hart.trapDue_of_dueOnly hd]

/-- The record of a lane of `s` that stands in `t`, and the contexts that it has stopped. -/
def State.LanePosted (s t : State) (c : CoreId) (n : Nat) : Prop :=
  (∀ x, x ∈ s.stoppable c → t.status c (userId x) = .stopped) ∧
    ((s.core c).outside = [] → (s.core c).ordinary.length < 60 →
      (t.core c).ordinary = (s.core c).ordinary ++ [laneRecord n (s.stoppable c)])

theorem State.lanePosted_postLane {s t : State} {c : CoreId} (n : Nat) (ha : s.Alike Hart.dueOnly t)
    (ho : (t.core c).outside = (s.core c).outside) (hr : (t.core c).ordinary = (s.core c).ordinary) :
    s.LanePosted (t.postLane c n) c n := by
  have hs := State.stoppable_of_alike ha c
  refine ⟨fun x hx => t.status_postLane c n (hs ▸ hx), fun hout hlen => ?_⟩
  rw [t.ordinary_postLane c n (ho.trans hout) (by rw [hr]; exact hlen), hr, hs]

/-- The launches whose registers an error of a lane strikes. -/
def State.struckLaunches (s : State) (c : CoreId) (hit : Struck) : List Word :=
  ((List.finRange 4).filter fun x => hit.ctxs.getLsbD x.val && s.status c (userId x) != .free).map
    (fun x => (s.hart c (userId x)).link.launch) ++ s.lazyLaunches c hit.quarters

theorem State.mem_struckLaunches {s : State} {c : CoreId} {hit : Struck} {x : UserCtx} (hx : hit.ctxs.getLsbD x.val = true)
    (hs : s.status c (userId x) ≠ .free) : (s.hart c (userId x)).link.launch ∈ s.struckLaunches c hit := by
  have hstruck : (hit.ctxs.getLsbD x.val && s.status c (userId x) != .free) = true := by
    rw [hx, Bool.true_and, bne_iff_ne]
    exact hs
  exact List.mem_append_left _ (List.mem_map.2 ⟨x, List.mem_filter.2 ⟨List.mem_finRange x, hstruck⟩, rfl⟩)

theorem laneError_occurs (s : State) (c : CoreId) (lane : Lane) (hit : Struck) : Occurs (.laneError c lane hit) s fun t =>
    s.LanePosted t c lane.val ∧ ∀ x : UserCtx, hit.ctxs.getLsbD x.val = true → s.status c (userId x) ≠ .free →
      t.Fenced (s.hart c (userId x)).link.launch := by
  refine occurs_of (t := (s.fenceAll (s.struckLaunches c hit)).postLane c lane.val) (exec_laneError ..) ?_
  have hb := (s.sameBoards_fenceAll (s.struckLaunches c hit)).board c
  have hharts := (s.sameHarts_fenceAll (s.struckLaunches c hit)).dueOnly fun _ => rfl
  exact ⟨State.lanePosted_postLane _ hharts (congrArg (·.2.2.1) hb) (congrArg (·.2.1) hb),
    fun x hx hs => State.fenced_postLane _ c _ (s.fenced_fenceAll (State.mem_struckLaunches hx hs))⟩

/-! ### Corrected errors (R420) -/

/-- The corrected errors of a core within the last 2^28 cycles. -/
def Core.recent (k : Core) : List (Lane × Nat) := k.corrected.filter fun e => decide (k.cycles.toNat < e.2 + 2 ^ 28)

theorem correctedError_counts {s : State} {c : CoreId} {lane : Lane} (h : (s.core c).recent.countP (fun e => e.1 == lane) < 3) :
    exec (.correctedError c (some lane)) s = .next (s.modifyCore c fun k =>
      { k with corrected := (s.core c).recent ++ [(lane, (s.core c).cycles.toNat)] }) := by
  rw [exec_correctedError]
  exact if_neg (Nat.not_le.2 h)

theorem correctedError_posts {s : State} {c : CoreId} {lane : Lane} (h : 3 ≤ (s.core c).recent.countP (fun e => e.1 == lane)) :
    Occurs (.correctedError c (some lane)) s fun t => s.LanePosted t c lane.val ∧ ∀ e ∈ (t.core c).corrected, e.1 ≠ lane := by
  have hexec : exec (.correctedError c (some lane)) s = .next ((s.modifyCore c fun k =>
      { k with corrected := (s.core c).recent.filter fun e => e.1 != lane }).postLane c lane.val) := by
    rw [exec_correctedError]
    exact if_pos h
  refine occurs_of hexec ⟨State.lanePosted_postLane _ (s.alike_modifyCore c _ fun _ => ⟨rfl, rfl⟩) ?_ ?_, fun e he => ?_⟩
  · rw [State.core_modifyCore]
  · rw [State.core_modifyCore]
  · rw [State.corrected_postLane, State.core_modifyCore] at he
    simpa using (List.mem_filter.1 he).2

/-! ### Fenced cores (R418) -/

/-- What fencing leaves of a core that has not been fenced. -/
def Core.fence (k : Core) : Core := { k with fenced := true, slots := [], pieces := [], stagedFw := none }

theorem State.fenceCore_of_open {s : State} {c : CoreId} (h : (s.core c).fenced = false) :
    s.fenceCore c = ((s.modifyCore c Core.fence).fenceAll (s.launchesOn c)).reportCore c := by
  unfold State.fenceCore
  rw [if_neg (by simp [h])]
  rfl

/-- What a fenced core has beside its contexts and what it held is as it was. -/
theorem State.core_fenceCore {α : Type} (f : Core → α) (hl : ∀ l k, f (Core.fenceLaunch l k) = f k) (hf : ∀ k, f k.fence = f k)
    (s : State) (c : CoreId) : f ((s.fenceCore c).core c) = f (s.core c) := by
  by_cases h : (s.core c).fenced = true
  · unfold State.fenceCore
    rw [if_pos h]
  · rw [State.fenceCore_of_open (by simpa using h)]
    refine (State.core_fenceAll f hl _ _ c).trans ?_
    rw [State.core_modifyCore]
    exact hf _

theorem State.fenced_fenceCore (s : State) (c : CoreId) : ((s.fenceCore c).core c).fenced = true := by
  by_cases h : (s.core c).fenced = true
  · unfold State.fenceCore
    rw [if_pos h]
    exact h
  · rw [State.fenceCore_of_open (by simpa using h)]
    refine (State.core_fenceAll Core.fenced (fun _ _ => rfl) _ _ c).trans ?_
    rw [State.core_modifyCore]
    rfl

/-! ### Fatal errors (R398) -/

theorem State.fatal_finishRecord (s : State) (c : CoreId) : ((s.finishRecord c).core c).fatal = (s.core c).fatal := by
  unfold State.finishRecord
  rw [State.core_modifyCore]
  split <;> rfl

theorem Core.fatal_takeFatal {k : Core} {r : Record} (h : k.fatal.length < 4) : (k.takeFatal r).fatal = k.fatal ++ [r] := by
  unfold Core.takeFatal
  rw [if_pos h]

section
variable (s : State) (c : CoreId) (r : Record)

theorem State.fenced_postFatal : ((s.postFatal c r).core c).fenced = true := by
  unfold State.postFatal
  rw [State.core_wakeCore Core.fenced fun _ _ => rfl]
  split
  · next h => exact h
  · exact State.fenced_fenceCore _ c

theorem State.fatal_postFatal (h : (s.core c).fatal.length < 4) : ((s.postFatal c r).core c).fatal = (s.core c).fatal ++ [r] := by
  have htake : (((s.finishRecord c).modifyCore c (·.takeFatal r)).core c).fatal = (s.core c).fatal ++ [r] := by
    rw [State.core_modifyCore, Core.fatal_takeFatal (by rw [State.fatal_finishRecord]; exact h), State.fatal_finishRecord]
  unfold State.postFatal
  rw [State.core_wakeCore Core.fatal fun _ _ => rfl]
  split
  · exact htake
  · rw [State.core_fenceCore Core.fatal (fun _ _ => rfl) fun _ => rfl]
    exact htake

end

theorem fatalError_occurs {s : State} {c : CoreId} {struck : BitVec 7}
    (h : struck.toNat ∈ [0, 9, 11, 13, 14, 15, 18, 19, 21, 22, 23, 25, 64, 65]) : Occurs (.fatalError c struck) s fun t =>
      (t.core c).fenced = true ∧ ((s.core c).fatal.length < 4 → ∃ r : Record, (t.core c).fatal = (s.core c).fatal ++ [r] ∧
        r.regs.cause = 0x15 ∧ r.regs.val = word struck.toNat ∧ bitAt r.regs.stat.toNat 63 = true) := by
  have hexec : exec (.fatalError c struck) s = .next (s.postFatal c
      { regs := { cause := causeFenced, val := word struck.toNat, stat := tstat true false 4 false 0 4 }, of := .device }) := by
    rw [exec_fatalError]
    exact if_pos (List.contains_iff_mem.2 h)
  have hbit : bitAt (tstat true false 4 false 0 4).toNat 63 = true := by decide
  exact occurs_of hexec ⟨s.fenced_postFatal c _, fun hl => ⟨_, s.fatal_postFatal c _ hl, rfl, rfl, hbit⟩⟩

/-! ### LANEMAP (R421) -/

theorem State.board_relocate (s : State) (c d : CoreId) (x : CtxId) : ((s.relocate c x).core d).board = (s.core d).board := by
  have h : s.SameBoards ((s.actingAs c x).landVectors.modifyMe fun h => { h with reloc := true }) := by
    refine (s.sameBoards_actingAs c x).trans (State.SameBoards.trans ?_ (State.sameBoards_modifyMe _ _))
    unfold State.landVectors State.performBefore
    exact (State.sameBoards_performThese _ _).trans (State.sameBoards_modifyMe _ _)
  exact h.board d

theorem State.board_relocateAll (s : State) (c d : CoreId) (ganged : Bool) :
    ((s.relocateAll c ganged).core d).board = (s.core d).board :=
  foldl_keeps (f := fun (s : State) (x : UserCtx) => s.relocate c (userId x)) (fun s => (s.core d).board)
    (fun s x => s.board_relocate c d (userId x)) _ s

/-- The harts of a core, and the Seconds, after its lanes have changed. -/
def State.remapped (s : State) (c : CoreId) (lanes : BitVec 64) : State :=
  let s := (s.relocateAll c false).modifyCore c fun k => { k with lanemap := lanes }
  let s := if isUpper c then s.relocateAll (lowerCore c) true else s
  (List.finRange 4).foldl (fun s x => s.resetAdvice c (userId x)) s

theorem State.lanemap_remapped (s : State) (c : CoreId) (lanes : BitVec 64) : ((s.remapped c lanes).core c).lanemap = lanes := by
  unfold State.remapped
  refine (congrArg Prod.fst ((State.sameBoards_foldl (fun s (x : UserCtx) => s.resetAdvice c (userId x))
    (fun s x => s.sameBoards_resetAdvice c (userId x)) _ _).board c)).trans ?_
  split
  · refine (congrArg Prod.fst (State.board_relocateAll _ (lowerCore c) c true)).trans ?_
    rw [State.core_modifyCore]
    rfl
  · change (State.core _ c).lanemap = lanes
    rw [State.core_modifyCore]

theorem State.writeLanemap_eq (s : State) (c : CoreId) (v : Word) : s.writeLanemap c v =
    if (s.core c).lanemap &&& v = (s.core c).lanemap then s
    else if ((s.remapped c ((s.core c).lanemap &&& v)).core c).lanes < 32 then
      (s.remapped c ((s.core c).lanemap &&& v)).fenceCore c
    else s.remapped c ((s.core c).lanemap &&& v) := rfl

theorem lanemapWrite_occurs (s : State) (c : CoreId) (v : Word) : Occurs (.lanemapWrite c v) s fun t =>
    (t.core c).lanemap = (s.core c).lanemap &&& v ∧
      ((s.core c).lanemap &&& v ≠ (s.core c).lanemap → popCount 64 ((s.core c).lanemap &&& v).toNat < 32 →
        (t.core c).fenced = true) := by
  refine occurs_of (t := s.writeLanemap c v) rfl ?_
  have hmap := s.lanemap_remapped c ((s.core c).lanemap &&& v)
  rw [State.writeLanemap_eq]
  split
  · next h => exact ⟨h.symm, fun hn => absurd h hn⟩
  · split
    · exact ⟨(State.core_fenceCore Core.lanemap (fun _ _ => rfl) (fun _ => rfl) _ c).trans hmap, fun _ _ => State.fenced_fenceCore _ c⟩
    · next h =>
      refine ⟨hmap, fun _ hp => absurd ?_ h⟩
      rw [Core.lanes, hmap]
      exact hp

/-! ### The obligation -/

theorem laneRecord_regs (n : Nat) (xs : List UserCtx) : (laneRecord n xs).regs.val = word n ∧
    bitAt (laneRecord n xs).regs.stat.toNat 62 = true ∧ (laneRecord n xs).regs.stat.toNat / 2 ^ 40 % 256 = 3 := by
  have hstat : bitAt (tstat false true 4 false 3 4).toNat 62 = true ∧ (tstat false true 4 false 3 4).toNat / 2 ^ 40 % 256 = 3 := by
    decide
  exact ⟨rfl, hstat⟩

/-- Settles O50: each act by its own lemma, the power acts first, then frames, links and slices, and the errors of cores. -/
theorem powerAndErrorActsComplete : Obligations.PowerAndErrorActsComplete := by
  unfold Obligations.PowerAndErrorActsComplete
  intro s c grant gate withdraw gateCore running readable g w ws v slice i frame line buf bw link struck lane hit k core obtained
    fenced posted waits lanePosted
  have waiting {t : State} {at_ : SliceId → Bool} {p : SliceId → Prop} (hat : ∀ u, p u → at_ u = true)
      (h : ∀ l ∈ s.launchesWaitingAt at_, t.Fenced l) : waits t p := fun d y f r pa hs hf hr hp ha =>
    h _ (State.mem_launchesWaitingAt hs hf hr hp (hat _ ha))
  have posts {t : State} (h : s.LanePosted t c lane.val) : lanePosted t :=
    ⟨h.1, laneRecord lane.val (s.stoppable c), h.2, rfl, laneRecord_regs _ _⟩
  refine ⟨powerControllerUpdate_occurs s c grant gate withdraw gateCore g, powerHoldExpire_group, powerHoldExpire_core,
    switchOpeningComplete_group, ?opens, switchOpeningComplete_core_gates, switchOpeningComplete_core_wakes, inrushGrant_next,
    inrushGrant_waits, turnOnComplete_occurs, clusterClockChange_occurs running, gcapWrite_occurs v, actwWrite_occurs v,
    lanemapWrite_occurs s c v, rfl, ?epoch, fun u => frameMoveSwitch_occurs, moduleUncorrectableError_occurs,
    bufferWordError_occurs, bufferWordError_z_occurs s c bw, ?link, moduleRetireComplete_occurs, ?slice, fatalError_occurs,
    ?lane, rfl, fun h => correctedError_counts h, fun h => ?corrected⟩
  case opens =>
    intro h hw hi ht
    subst hw
    exact switchOpeningComplete_group_wakes h hi ht
  case epoch =>
    intro h hh hl
    subst hh
    exact pageEpoch_occurs h hl
  case link =>
    intro at_ behind hs
    refine ⟨linkFailure_readable hs, linkFailure_retiring, occurs_imp (linkFailure_occurs hs) ?_⟩
    exact fun t ⟨hmap, hlost, hfenced, hbytes⟩ => ⟨hmap, hlost, waiting (fun u hu => (linkOf_eq_iff u link).2 hu) hfenced, hbytes⟩
  case slice =>
    intro hs
    refine occurs_imp (sliceUncorrectableError_occurs hs) ?_
    exact fun t ⟨hslices, hfenced, hlost⟩ => ⟨hslices, waiting (fun u hu => beq_iff_eq.2 hu) hfenced, hlost⟩
  case lane => exact occurs_imp (laneError_occurs s c lane hit) fun t ⟨hposted, hrest⟩ => ⟨posts hposted, hrest⟩
  case corrected => exact occurs_imp (correctedError_posts h) fun t ⟨hposted, hrest⟩ => ⟨posts hposted, hrest⟩

end Sys2Proof.Machine
end

section
/-!
The host interface (O51, R116, R117, R127, R435 to R439): the reserve, the device number, invalidations, remote roots and the
report ring.
-/

namespace Sys2Proof.Machine

open Stated

/-! ### The reserve (R116, R117) -/

theorem fieldOf_zero (x w : Nat) : fieldOf x 0 w = x % 2 ^ w := by rw [fieldOf, Nat.pow_zero, Nat.div_one]

theorem popCount_le (n x : Nat) : popCount n x ≤ n := by
  rw [popCount_eq_countP]
  exact List.countP_le_length.trans_eq List.length_range

/-- What stands beside the places of frames: the reserve of a device, and its memory. -/
theorem Device.house_keeps {α : Type} (φ : Device → α) (hn : ∀ (d : Device) n, φ { d with frames := n } = φ d)
    (hr : ∀ (d : Device) f u, φ (d.rehome f u) = φ d) : (fs : List Nat) → (d : Device) → φ (d.house fs) = φ d
  | [], _ => rfl
  | f :: fs, d => by
    unfold Device.house
    dsimp only
    split
    · exact (Device.house_keeps φ hn hr fs _).trans (hn d _)
    · exact (Device.house_keeps φ hn hr fs _).trans ((hr _ f _).trans (hn d _))

theorem Device.house_cons (d : Device) (f : Nat) (fs : List Nat) : d.house (f :: fs) = (d.house [f]).house fs := by
  simp only [Device.house]
  split <;> rfl

theorem Device.house_append : (fs gs : List Nat) → (d : Device) → d.house (fs ++ gs) = (d.house fs).house gs
  | [], _, _ => rfl
  | f :: fs, gs, d => by
    rw [List.cons_append, Device.house_cons, Device.house_append fs gs, ← Device.house_cons]

theorem Device.frames_house_singleton (d : Device) (f : Nat) : (d.house [f]).frames = BitVec.ofNat 27 (f + 1) := by
  unfold Device.house
  dsimp only
  split <;> rfl

theorem Device.rsv_resize (d : Device) (n : Nat) : (d.resize n).rsv = d.rsv := by
  unfold Device.resize
  split
  · rfl
  · exact Device.house_keeps Device.rsv (fun _ _ => rfl) (fun _ _ _ => rfl) _ _

theorem Device.frames_resize (d : Device) {n : Nat} (hn : n < 2 ^ 27) : (d.resize n).frames.toNat = n := by
  have hlast : (d.resize n).frames = BitVec.ofNat 27 n := by
    unfold Device.resize
    split
    · rfl
    · next h =>
      obtain ⟨m, hm⟩ : ∃ m, n - d.frames.toNat = m + 1 := ⟨n - d.frames.toNat - 1, by
        simp only [Bool.or_eq_true, decide_eq_true_eq, not_or] at h
        omega⟩
      rw [hm, List.range_succ, List.map_append, Device.house_append]
      refine (Device.frames_house_singleton _ _).trans (congrArg _ ?_)
      change d.frames.toNat + m + 1 = n
      omega
  rw [hlast, BitVec.toNat_ofNat, Nat.mod_eq_of_lt hn]

section
variable {s : State} {v : Word}

theorem mrsvWrite_occurs (h : s.dev.placed = []) : Occurs (.mrsvWrite v) s fun t =>
    (t.dev.mem = s.dev.mem ∧ t.cores = s.cores) ∧
      t.dev.rsv.toNat = min (v.toNat % 2 ^ 27) (popCount 24 s.dev.linkmap.toNat * 2 ^ 22 - 2 ^ 22) ∧
      t.dev.frames.toNat = popCount 24 s.dev.linkmap.toNat * 2 ^ 22 - t.dev.rsv.toNat := by
  have hexec : exec (.mrsvWrite v) s = .next (s.modifyDev fun d =>
      ({ d with rsv := BitVec.ofNat 27 (min (fieldOf v.toNat 0 27) (d.slotsInService - Config.moduleSlots)) } : Device).resize
        (d.slotsInService - min (fieldOf v.toNat 0 27) (d.slotsInService - Config.moduleSlots))) := by
    rw [exec_mrsvWrite]
    unfold execMrsvWrite
    rw [if_neg (by simp [Device.noLaunch, h])]
  have hslots : s.dev.slotsInService = popCount 24 s.dev.linkmap.toNat * 2 ^ 22 := rfl
  have hmodule : Config.moduleSlots = 2 ^ 22 := rfl
  have hfield : fieldOf v.toNat 0 27 = v.toNat % 2 ^ 27 := fieldOf_zero ..
  have hcount := popCount_le 24 s.dev.linkmap.toNat
  refine occurs_of hexec ?_
  simp only [State.modifyDev_dev, Device.mem_resize, Device.rsv_resize, hslots, hmodule, hfield]
  generalize popCount 24 s.dev.linkmap.toNat = p at hcount ⊢
  have hrsv : (BitVec.ofNat 27 (min (v.toNat % 2 ^ 27) (p * 2 ^ 22 - 2 ^ 22))).toNat = min (v.toNat % 2 ^ 27) (p * 2 ^ 22 - 2 ^ 22) := by
    rw [BitVec.toNat_ofNat, Nat.mod_eq_of_lt]
    omega
  refine ⟨⟨trivial, rfl⟩, hrsv, ?_⟩
  rw [Device.frames_resize _ (by omega), hrsv]

theorem mrsvWrite_devnumWrite_placed (h : s.dev.placed ≠ []) : exec (.mrsvWrite v) s = .next s ∧ exec (.devnumWrite v) s = .next s := by
  have hl : s.dev.noLaunch = false := by simpa [Device.noLaunch] using h
  rw [exec_mrsvWrite, exec_devnumWrite]
  unfold execMrsvWrite execDevnumWrite
  rw [if_pos (by simp [hl]), if_neg (by simp [hl])]
  exact ⟨rfl, rfl⟩

/-! ### The device number, and the registers of TINV (R435, R437) -/

theorem devnumWrite_next (h : s.dev.placed = []) (hv : v.toNat % 2 ^ 16 ≤ 36863) :
    exec (.devnumWrite v) s = .next (s.modifyDev fun d => { d with devnum := BitVec.ofNat 16 v.toNat }) := by
  have hfield : fieldOf v.toNat 0 16 = v.toNat % 2 ^ 16 := fieldOf_zero ..
  have hnum : BitVec.ofNat 16 (fieldOf v.toNat 0 16) = BitVec.ofNat 16 v.toNat := by
    refine BitVec.eq_of_toNat_eq ?_
    rw [hfield, BitVec.toNat_ofNat, BitVec.toNat_ofNat, Nat.mod_mod]
  rw [exec_devnumWrite]
  unfold execDevnumWrite
  rw [if_pos (by simpa [Device.noLaunch, h, hfield] using hv), hnum]

theorem tinvGo_next (hv : v.toNat % 2 = 1) (h : s.dev.tinv = none) : exec (.tinvGo v) s = .next (s.modifyDev fun d =>
    { d with tinv := some { asn := d.tinvasn, va := d.tinvva, len := d.tinvlen } }) := by
  rw [exec_tinvGo]
  unfold execTinvGo
  rw [if_pos (by simp [bitAt, fieldOf, hv, h])]

variable {cmd : Tinv}

theorem tinvGo_waits (h : s.dev.tinv = some cmd) : exec (.tinvGo v) s = .next s := by
  rw [exec_tinvGo]
  unfold execTinvGo
  rw [if_neg (by simp [h])]

/-! ### The end of an invalidation (R127) -/

theorem tinvComplete_next (h : s.dev.tinv = some cmd) (hs : s.asnSettled cmd.asn = true) (hm : s.dev.isMoving = false) :
    exec .tinvComplete s = .next (((s.dropLinksOf cmd.asn cmd.va cmd.len).dropCached cmd.asn cmd.va cmd.len).modifyDev fun d =>
      { d with tinv := none }) := by
  rw [exec_tinvComplete]
  unfold execTinvComplete
  simp only [h]
  rw [if_pos (by simp [hs, hm])]

theorem tinvComplete_idle (h : s.dev.tinv = none) : exec .tinvComplete s = .next s := by
  rw [exec_tinvComplete]
  unfold execTinvComplete
  simp only [h]

theorem tinvComplete_waits (h : s.dev.tinv = some cmd) (hw : s.asnSettled cmd.asn = false ∨ s.dev.isMoving = true) :
    exec .tinvComplete s = .next s := by
  rw [exec_tinvComplete]
  unfold execTinvComplete
  simp only [h]
  rw [if_neg (by rcases hw with h | h <;> simp [h])]

/-- A page belongs to the range of a command. -/
def Tinv.Names (cmd : Tinv) (page : Nat) : Prop := cmd.len = 0 ∨
  cmd.va.toNat / 2 ^ 16 ≤ page ∧ page ≤ (cmd.va.toNat + cmd.len.toNat - 1) / 2 ^ 16

theorem pageInRange_iff (cmd : Tinv) (page : Nat) : pageInRange cmd.va cmd.len page = true ↔ cmd.Names page := by
  simp [pageInRange, Tinv.Names]

/-- A context whose links to addresses of the range of a command are evicted. -/
def Tinv.evictFrom (cmd : Tinv) (t : Ctx) : Ctx :=
  if t.hart.link.root.setWidth 16 = cmd.asn then { t with hart := t.hart.dropLinksIn cmd.va cmd.len } else t

/-- The state after a command. -/
def State.invalidated (s : State) (cmd : Tinv) : State :=
  ((s.dropLinksOf cmd.asn cmd.va cmd.len).dropCached cmd.asn cmd.va cmd.len).modifyDev fun d => { d with tinv := none }

theorem State.tlb_invalidated (s : State) (cmd : Tinv) (c : CoreId) : ((s.invalidated cmd).core c).tlb =
    (s.core c).tlb.filter fun t => !(t.asn == cmd.asn && pageInRange cmd.va cmd.len t.page.toNat) := by
  unfold State.invalidated State.dropCached State.dropLinksOf State.modifyDev State.core
  simp only [Vector.getElem_map]

theorem State.ctx_invalidated (s : State) (cmd : Tinv) (c : CoreId) (x : UserCtx) :
    ((s.invalidated cmd).core c).ctxs[x.val] = cmd.evictFrom (s.core c).ctxs[x.val] := by
  unfold State.invalidated State.dropCached State.dropLinksOf State.modifyDev State.core
  simp only [Vector.getElem_map]
  rfl

theorem Hart.inactive_dropLinksIn {h : Hart} {l : Link} (hl : l ∈ (h.dropLinksIn cmd.va cmd.len).links)
    (hn : cmd.Names (l.va.toNat / 2 ^ 16)) : l.active = false := by
  obtain ⟨m, -, rfl⟩ := List.mem_map.1 hl
  by_cases hm : pageInRange cmd.va cmd.len (m.va.toNat / 65536) = true
  · rw [if_pos hm]
  · rw [if_neg hm] at hn
    exact absurd ((pageInRange_iff cmd _).2 hn) hm

theorem Tinv.evictFrom_spec (cmd : Tinv) (t : Ctx) :
    (cmd.evictFrom t).hart.x = t.hart.x ∧ (cmd.evictFrom t).hart.vec = t.hart.vec ∧ (cmd.evictFrom t).hart.pc = t.hart.pc ∧
      (cmd.evictFrom t).status = t.status ∧ (t.hart.link.root.setWidth 16 = cmd.asn →
        ∀ l ∈ (cmd.evictFrom t).hart.links, cmd.Names (l.va.toNat / 2 ^ 16) → l.active = false) := by
  unfold Tinv.evictFrom
  split
  · exact ⟨rfl, rfl, rfl, rfl, fun _ l hl hn => Hart.inactive_dropLinksIn hl hn⟩
  · next h => exact ⟨rfl, rfl, rfl, rfl, fun hr => absurd hr h⟩

theorem tinvComplete_occurs (h : s.dev.tinv = some cmd) (hs : s.asnSettled cmd.asn = true) (hm : s.dev.isMoving = false) :
    Occurs .tinvComplete s fun t => t.dev = { s.dev with tinv := none } ∧
      (∀ d : CoreId, ∀ u ∈ (t.core d).tlb, u.asn = cmd.asn → ¬cmd.Names u.page.toNat) ∧ ∀ (d : CoreId) (x : UserCtx),
        (t.hart d (userId x)).x = (s.hart d (userId x)).x ∧ (t.hart d (userId x)).vec = (s.hart d (userId x)).vec ∧
          (t.hart d (userId x)).pc = (s.hart d (userId x)).pc ∧ t.status d (userId x) = s.status d (userId x) ∧
          ((s.hart d (userId x)).link.root.setWidth 16 = cmd.asn →
            ∀ l ∈ (t.hart d (userId x)).links, cmd.Names (l.va.toNat / 2 ^ 16) → l.active = false) := by
  refine occurs_of (t := s.invalidated cmd) (tinvComplete_next h hs hm) ⟨rfl, fun d u hu ha hn => ?_, fun d x => ?_⟩
  · rw [State.tlb_invalidated] at hu
    have hkept := (List.mem_filter.1 hu).2
    rw [ha, (pageInRange_iff cmd _).2 hn] at hkept
    simp at hkept
  · unfold State.hart State.status
    rw [Core.hart_userId, Core.hart_userId, Core.status_userId, Core.status_userId, State.ctx_invalidated]
    exact cmd.evictFrom_spec _

/-! ### Remote roots (R438) -/

/-- The entries of the remote roots but that of a job. -/
def Device.otherRoots (d : Device) (job : Word) : List (Word × Word) := d.remoteRoots.filter fun e => e.1 != job

theorem rrInstall_occurs (h : s.dev.rrLeaving = none) (hl : (s.dev.otherRoots s.dev.rrjob).length < 64) :
    Occurs .rrInstall s fun t => t.dev.rrErr = false ∧
      t.dev.remoteRoots = s.dev.otherRoots s.dev.rrjob ++ [(s.dev.rrjob, s.dev.rrroot)] := by
  have hexec : exec .rrInstall s = .next { s with dev :=
      { s.dev with remoteRoots := s.dev.otherRoots s.dev.rrjob ++ [(s.dev.rrjob, s.dev.rrroot)], rrErr := false } } := by
    rw [exec_rrInstall]
    unfold execRrInstall
    dsimp only
    rw [if_neg (by simp [h])]
    exact if_pos hl
  exact occurs_of hexec ⟨rfl, rfl⟩

theorem rrInstall_full (h : s.dev.rrLeaving = none) (hl : 64 ≤ (s.dev.otherRoots s.dev.rrjob).length) :
    exec .rrInstall s = .next (s.modifyDev fun d => { d with rrErr := true }) := by
  rw [exec_rrInstall]
  unfold execRrInstall
  dsimp only
  rw [if_neg (by simp [h])]
  exact if_neg (Nat.not_lt.2 hl)

theorem Device.remoteRoot_isNone (d : Device) (job : Word) : (d.remoteRoot job).isNone = true ↔ ∀ e ∈ d.remoteRoots, e.1 ≠ job := by
  simp [Device.remoteRoot]

theorem rrRemove_occurs (h : s.remoteInUse (s.dev.rrLeaving.getD s.dev.rrjob) = false) : Occurs .rrRemove s fun t =>
    t.dev.rrLeaving = none ∧ t.dev.remoteRoots = s.dev.otherRoots (s.dev.rrLeaving.getD s.dev.rrjob) ∧
      (t.dev.rrErr = true ↔ ∀ e ∈ s.dev.remoteRoots, e.1 ≠ s.dev.rrLeaving.getD s.dev.rrjob) := by
  have hexec := exec_rrRemove s
  unfold execRrRemove at hexec
  dsimp only at hexec
  rw [h, if_neg Bool.false_ne_true] at hexec
  by_cases hr : (s.dev.remoteRoot (s.dev.rrLeaving.getD s.dev.rrjob)).isNone = true
  · rw [if_pos hr] at hexec
    have hnone := (s.dev.remoteRoot_isNone _).1 hr
    refine occurs_of hexec ⟨rfl, (List.filter_eq_self.2 fun e he => ?_).symm, iff_of_true rfl hnone⟩
    exact bne_iff_ne.2 (hnone e he)
  · rw [if_neg hr] at hexec
    exact occurs_of hexec ⟨rfl, rfl, iff_of_false Bool.false_ne_true (mt (s.dev.remoteRoot_isNone _).2 hr)⟩

theorem rrRemove_busy (h : s.remoteInUse (s.dev.rrLeaving.getD s.dev.rrjob) = true)
    (he : ∃ e ∈ s.dev.remoteRoots, e.1 = s.dev.rrLeaving.getD s.dev.rrjob) : exec .rrRemove s =
      .next (s.modifyDev fun d => { d with rrLeaving := some (s.dev.rrLeaving.getD s.dev.rrjob), rrErr := false }) := by
  obtain ⟨e, hm, hj⟩ := he
  rw [exec_rrRemove]
  unfold execRrRemove
  dsimp only
  rw [if_neg fun hr => (s.dev.remoteRoot_isNone _).1 hr e hm hj]
  exact if_pos h

/-! ### The report ring (R439) -/

theorem Device.quiet_flushReports : (n : Nat) → (d : Device) → (d.flushReports n).quiet = d.quiet
  | 0, _ => rfl
  | n + 1, d => by
    unfold Device.flushReports
    split
    · split
      · rfl
      · exact Device.quiet_flushReports n _
    · rfl

theorem repheadWrite_occurs (s : State) (v : Word) : Occurs (.repheadWrite v) s fun t =>
    t.dev.rephead = v ∧ t.dev.mem = s.dev.mem ∧ t.cores = s.cores := by
  have hq := Device.quiet_flushReports 1024 { s.dev with rephead := v }
  exact occurs_of (exec_repheadWrite ..) ⟨Device.of_part hq Device.rephead fun _ => rfl,
    Device.of_part hq Device.mem fun _ => rfl, rfl⟩

end

end Sys2Proof.Machine
end

section
/-!
Service commands (O51, R418, R442, R445): how a command ends, and FENCECORE, RETIREMOD, RETURNMOD and RECAL.
-/

namespace Sys2Proof.Machine

open Stated

/-! ### The end of a service command (R442) -/

/-- The device without its reports. -/
def Device.unreported (d : Device) : Device :=
  { d with reports := [], reptail := 0, repseq := 0, waitingReports := [], repovf := false }

@[simp] theorem Device.unreported_report (d : Device) (kind : Nat) (args : List Word) :
    (d.report kind args).unreported = d.unreported := by
  unfold Device.report
  split
  · rfl
  · split <;> rfl

/-- A command that ends is reported, and leaves its result. -/
theorem Device.unreported_endCommand (d : Device) (code result : Nat) : (d.endCommand code result).unreported =
    { d.unreported with svcBusy := false, svcResult := BitVec.ofNat 8 result } := Device.unreported_report _ _ _

/-- A service command has ended with a result, and left a state of which `p` holds. -/
def State.Ended (result : Nat) (p : State → Prop) (t : State) : Prop :=
  t.dev.svcBusy = false ∧ t.dev.svcResult.toNat = result ∧ p t

/-- The state as a command ends. -/
def State.endService (s : State) (code result : Nat) : State := s.modifyDev (·.endCommand code result)

theorem State.ended_endService {t : State} {code result : Nat} {p : State → Prop} (hr : result < 256)
    (hp : p (t.endService code result)) : State.Ended result p (t.endService code result) := by
  have hu := t.dev.unreported_endCommand code result
  have hresult : (t.dev.endCommand code result).svcResult = BitVec.ofNat 8 result :=
    Device.of_part hu Device.svcResult fun _ => rfl
  refine ⟨Device.of_part hu Device.svcBusy fun _ => rfl, ?_, hp⟩
  change (t.dev.endCommand code result).svcResult.toNat = result
  rw [hresult, BitVec.toNat_ofNat, Nat.mod_eq_of_lt hr]

/-- The state as a command begins. -/
def State.serving (s : State) (code : Nat) : State := s.modifyDev fun d => { d with svccmd := BitVec.ofNat 8 code }

/-- A command that ends at once. -/
theorem ends_of_service {s t : State} {i : Instr} {code r : Nat} {result : State → Nat × State} {p : State → Prop}
    (hb : s.dev.svcBusy = false) (hi : exec i s = s.service code result) (hr : r < 256) (ht : result (s.serving code) = (r, t))
    (hp : p (t.endService code r)) : Occurs i s (State.Ended r p) := by
  have hexec : exec i s = .next (t.endService code r) := by
    change result (s.modifyDev fun d => { d with svccmd := BitVec.ofNat 8 code }) = (r, t) at ht
    rw [hi, State.service, if_neg (by simp [hb])]
    dsimp only
    rw [ht]
    rfl
  exact occurs_of hexec (State.ended_endService hr hp)

/-- Memory and the cores are as they were. -/
def State.Same (s t : State) : Prop := t.dev.mem = s.dev.mem ∧ t.cores = s.cores

theorem State.same_endService (s : State) (code begun result : Nat) : s.Same ((s.serving begun).endService code result) :=
  ⟨Device.mem_endCommand _ _ _, rfl⟩

/-- A command that is refused. -/
theorem refused_of_service {s : State} {i : Instr} {code r : Nat} {result : State → Nat × State} (hb : s.dev.svcBusy = false)
    (hi : exec i s = s.service code result) (hr : r < 256) (ht : result (s.serving code) = (r, s.serving code)) :
    Occurs i s (State.Ended r s.Same) := ends_of_service hb hi hr ht (s.same_endService code code r)

section
variable {s : State} {c : CoreId} {l : LinkId} (hb : s.dev.svcBusy = false)
include hb

/-! ### FENCECORE (R418) -/

theorem svcFencecore_core (ha : s.dev.svcarg0.toNat = c.val) :
    Occurs .svcFencecore s (State.Ended 0 fun t => (t.core c).fenced = true) := by
  refine ends_of_service hb (exec_svcFencecore s) (by decide) (t := (s.serving 1).fenceCore c) ?_ (State.fenced_fenceCore _ c)
  have hc : (s.serving 1).dev.svcarg0.toNat = c.val := ha
  simp only [hc]
  exact dif_pos c.isLt

omit hb in
theorem State.mem_fencedElsewhere_fenceOther (s : State) (n : Nat) : n ∈ (s.fenceOther n).dev.fencedElsewhere := by
  unfold State.fenceOther
  split
  · next h => exact List.contains_iff_mem.1 h
  · dsimp only
    rw [State.modifyDev_dev, Device.of_part (Device.unreported_report _ 2 _) Device.fencedElsewhere fun _ => rfl]
    exact List.mem_append_right _ (List.mem_singleton.2 rfl)

theorem svcFencecore_elsewhere (h4 : 4 ≤ s.dev.svcarg0.toNat) (hn : s.dev.svcarg0.toNat < 384) :
    Occurs .svcFencecore s (State.Ended 0 fun t => s.dev.svcarg0.toNat ∈ t.dev.fencedElsewhere) := by
  refine ends_of_service hb (exec_svcFencecore s) (by decide) (t := (s.serving 1).fenceOther s.dev.svcarg0.toNat) ?_ ?_
  · exact (dif_neg (Nat.not_lt.2 h4)).trans (if_pos hn)
  · have hmem := (s.serving 1).mem_fencedElsewhere_fenceOther s.dev.svcarg0.toNat
    generalize (s.serving 1).fenceOther s.dev.svcarg0.toNat = t at hmem ⊢
    exact (Device.of_part (t.dev.quiet_endCommand 1 0) Device.fencedElsewhere fun _ => rfl).symm ▸ hmem

theorem svcFencecore_refused (hn : 384 ≤ s.dev.svcarg0.toNat) : Occurs .svcFencecore s (State.Ended 3 s.Same) :=
  refused_of_service hb (exec_svcFencecore s) (by decide)
    ((dif_neg (show ¬s.dev.svcarg0.toNat < 4 by omega)).trans (if_neg (Nat.not_lt.2 hn)))

/-! ### RETIREMOD and RETURNMOD (R134) -/

omit hb in
theorem Device.argLink_of_eq {d : Device} (h : d.svcarg0.toNat = l.val) : d.argLink = some l := by
  unfold Device.argLink
  simp only [h]
  exact dif_pos l.isLt

omit hb in
theorem Device.argLink_of_le {d : Device} (h : 24 ≤ d.svcarg0.toNat) : d.argLink = none := dif_neg (Nat.not_lt.2 h)

theorem svcRetiremod_next (ha : s.dev.svcarg0.toNat = l.val) : exec .svcRetiremod s = .next (s.modifyDev (·.startRetire l)) := by
  rw [exec_svcRetiremod]
  unfold execSvcRetiremod
  simp only [Device.argLink_of_eq ha]
  rw [if_neg (by simp [Device.recalibrates, hb]), if_neg (by simp [hb])]

theorem svcRetiremod_starts (ha : s.dev.svcarg0.toNat = l.val) (hl : s.dev.linkServes l = true) :
    exec .svcRetiremod s = .next (s.modifyDev fun d =>
      { d with svccmd := 2, svcBusy := true, retiring := d.retiring ++ [l], retiremod := some l }) :=
  (svcRetiremod_next hb ha).trans (congrArg (fun d => Host.Outcome.next ({ s with dev := d } : State)) (if_pos hl))

theorem svcRetiremod_refused (ha : s.dev.svcarg0.toNat = l.val) (hl : s.dev.linkServes l = false) :
    Occurs .svcRetiremod s (State.Ended 1 s.Same) := by
  have hstart : s.modifyDev (·.startRetire l) = (s.serving 2).endService 2 1 :=
    congrArg (fun d => ({ s with dev := d } : State)) (if_neg (by simp [hl]))
  refine occurs_of (svcRetiremod_next hb ha) ?_
  rw [hstart]
  exact State.ended_endService (by decide) (s.same_endService 2 2 1)

/-- A link whose module has been replaced. -/
def Device.returnLink (d : Device) (l : LinkId) : Device :=
  { d with
    linkmap := setFlag d.linkmap l.val true
    fencedLinks := d.fencedLinks.filter (· != l) : Device }.setLanes false (BitVec.ofNat 16 l.val) 8

omit hb in
theorem Device.quiet_returnLink_ended (d : Device) (l : LinkId) (args : List Word) (code result : Nat) :
    (((d.returnLink l).report 6 args).endCommand code result).quiet = (d.returnLink l).quiet := by
  rw [Device.quiet_endCommand, Device.quiet_report]

theorem svcReturnmod_returns (ha : s.dev.svcarg0.toNat = l.val) (hl : s.dev.linkmap.getLsbD l.val = false) :
    Occurs .svcReturnmod s (State.Ended 0 fun t => s.Same t ∧ t.dev.linkmap.getLsbD l.val = true ∧ l ∉ t.dev.fencedLinks) := by
  refine ends_of_service hb (exec_svcReturnmod s) (by decide)
    (t := (s.serving 3).modifyDev fun d => (d.returnLink l).report 6 [0, word l.val, 8]) ?_ ?_
  · have hlink : (s.serving 3).dev.argLink = some l := Device.argLink_of_eq ha
    simp only [hlink]
    exact if_neg (Bool.eq_false_iff.1 hl)
  · have hq := (s.serving 3).dev.quiet_returnLink_ended l [0, word l.val, 8] 3 0
    have hmap := Device.of_part hq Device.linkmap fun _ => rfl
    have hfenced := Device.of_part hq Device.fencedLinks fun _ => rfl
    refine ⟨⟨Device.of_part hq Device.mem fun _ => rfl, rfl⟩, ?_, fun hl => ?_⟩
    · exact (congrArg (·.getLsbD l.val) hmap).trans (setFlag_getLsbD _ l.isLt true)
    · have hkept := hfenced ▸ hl
      exact absurd rfl (bne_iff_ne.1 (List.mem_filter.1 hkept).2)

theorem svcReturnmod_refused (ha : s.dev.svcarg0.toNat = l.val) (hl : s.dev.linkmap.getLsbD l.val = true) :
    Occurs .svcReturnmod s (State.Ended 1 s.Same) := by
  refine refused_of_service hb (exec_svcReturnmod s) (by decide) ?_
  have hlink : (s.serving 3).dev.argLink = some l := Device.argLink_of_eq ha
  simp only [hlink]
  exact if_pos hl

theorem svcRetiremod_svcReturnmod_none (ha : 24 ≤ s.dev.svcarg0.toNat) :
    Occurs .svcRetiremod s (State.Ended 3 s.Same) ∧ Occurs .svcReturnmod s (State.Ended 3 s.Same) := by
  constructor
  · refine refused_of_service (code := 2) (result := fun s => (3, s)) hb ?_ (by decide) rfl
    rw [exec_svcRetiremod]
    unfold execSvcRetiremod
    simp only [Device.argLink_of_le ha]
  · refine refused_of_service hb (exec_svcReturnmod s) (by decide) ?_
    have hlink : (s.serving 3).dev.argLink = none := Device.argLink_of_le ha
    simp only [hlink]

end

end Sys2Proof.Machine
end

section
/-!
RECAL, and the commands on images and quotes (O51, R441 to R445).
-/

namespace Sys2Proof.Machine

open Stated

/-! ### RECAL (R443, R445) -/

/-- Links of Sobry and ports of Quinsia, and the lanes of each. -/
def linkCount (quinsia : Bool) : Nat := if quinsia then 36 else 24
def laneCount (quinsia : Bool) : Nat := if quinsia then 4 else 8

/-- The argument of a RECAL names a link or a port. -/
theorem recalArgument {x : Nat} {quinsia : Bool} {n : BitVec 16} (h : x = n.toNat + (if quinsia then 2 ^ 16 else 0)) :
    bitAt x 16 = quinsia ∧ fieldOf x 0 16 = n.toNat ∧ x / 2 ^ 17 = 0 := by
  have hn := n.isLt
  rw [bitAt, fieldOf, fieldOf]
  cases quinsia
  · simp only [Bool.false_eq_true, if_false, beq_eq_false_iff_ne] at h ⊢
    omega
  · simp only [if_true, beq_iff_eq] at h ⊢
    omega

/-- A mask that is not empty names a lane. -/
theorem maskedLanes_ne_nil {mask width : Nat} (h0 : mask ≠ 0) (hw : mask < 2 ^ width) :
    (List.range width).filter (fun i => bitAt mask i) ≠ [] := by
  intro hnil
  refine h0 (Nat.eq_of_testBit_eq fun i => ?_)
  rw [Nat.zero_testBit]
  by_cases hi : i < width
  · have hnot := List.filter_eq_nil_iff.1 hnil i (List.mem_range.2 hi)
    rw [bitAt_eq_testBit] at hnot
    exact Bool.eq_false_iff.2 hnot
  · exact Nat.testBit_lt_two_pow (hw.trans_le (Nat.pow_le_pow_right (by decide) (Nat.not_lt.1 hi)))

section
variable {s : State} {quinsia : Bool} {n : BitVec 16} {lane : BitVec 3} {l : LinkId}

theorem svcRecal_next (hb : s.dev.svcBusy = false) (ha : s.dev.svcarg0.toNat = n.toNat + (if quinsia then 2 ^ 16 else 0))
    (hn : n.toNat < linkCount quinsia) (h0 : s.dev.svcarg1.toNat ≠ 0) (hw : s.dev.svcarg1.toNat < 2 ^ laneCount quinsia)
    (hl : s.dev.lanesOf quinsia n.toNat ≠ 0) (hs : quinsia = false → s.dev.linkmap.getLsbD n.toNat = true) :
    exec .svcRecal s = .next (s.modifyDev fun d =>
      { d with
        svccmd := 4, svcBusy := true
        recal := d.recal ++ ((List.range (laneCount quinsia)).filter fun i => bitAt s.dev.svcarg1.toNat i).map fun i =>
          (quinsia, n, BitVec.ofNat 3 i) }) := by
  obtain ⟨hq, hf, hz⟩ := recalArgument ha
  have hlanes := maskedLanes_ne_nil h0 hw
  unfold linkCount at hn
  unfold laneCount at hw hlanes
  rw [exec_svcRecal]
  unfold execSvcRecal
  simp only [hq, hf, hz]
  rw [if_neg (by simp [hb]), if_neg ?served, if_neg ?lanes, BitVec.ofNat_toNat, BitVec.setWidth_eq]
  · rfl
  case served =>
    rintro (h | h | h | h)
    · exact h rfl
    · omega
    · exact h (Nat.div_eq_of_lt hw)
    · exact hlanes (List.isEmpty_iff.1 h)
  case lanes =>
    rintro (h | ⟨h, hm⟩)
    · exact hl h
    · rw [hs (by simpa using h)] at hm
      exact absurd hm (by simp)

theorem recalLaneReturn_next (h : (quinsia, n, lane) ∈ s.dev.recal) : exec (.recalLaneReturn quinsia n lane) s =
    .next (s.modifyDev fun d =>
      let d := { d with recal := d.recal.filter fun e => e != (quinsia, n, lane) }
      if d.recal.isEmpty && d.svcBusy && d.svccmd == 4 then d.endRecal else d) := by
  rw [exec_recalLaneReturn]
  unfold execRecalLaneReturn
  rw [if_pos (List.contains_iff_mem.2 h)]

theorem recalLaneReturn_more (h : (quinsia, n, lane) ∈ s.dev.recal)
    (hr : (s.dev.recal.filter fun e => e != (quinsia, n, lane)) ≠ []) : exec (.recalLaneReturn quinsia n lane) s =
      .next (s.modifyDev fun d => { d with recal := s.dev.recal.filter fun e => e != (quinsia, n, lane) }) := by
  refine (recalLaneReturn_next h).trans (congrArg (fun d => Host.Outcome.next ({ s with dev := d } : State)) (if_neg ?_))
  dsimp only
  rw [Bool.eq_false_iff.2 (mt List.isEmpty_iff.1 hr)]
  exact Bool.false_ne_true

/-- The device without the lanes of its RECAL. -/
def Device.recalled (d : Device) : Device := { d with recal := [] }

theorem recalLaneReturn_last (h : (quinsia, n, lane) ∈ s.dev.recal)
    (hr : (s.dev.recal.filter fun e => e != (quinsia, n, lane)) = []) (hb : s.dev.svcBusy = true) (hc : s.dev.svccmd = 4) :
    exec (.recalLaneReturn quinsia n lane) s = .next (s.modifyDev fun d => d.recalled.endRecal) := by
  refine (recalLaneReturn_next h).trans (congrArg (fun d => Host.Outcome.next ({ s with dev := d } : State)) ?_)
  dsimp only
  rw [hr, if_pos (by simp [hb, hc])]
  rfl

/-- The device at the end of a RECAL. -/
def Device.recalEnded (d : Device) : Device := { d with recal := [], retiremod := none : Device }.endCommand 4 0

theorem Device.quiet_recalEnded (d : Device) : d.recalEnded.quiet = { d.quiet with recal := [] } := Device.quiet_endCommand _ _ _

theorem State.same_recalEnded (s : State) : s.Same (s.modifyDev Device.recalEnded) := ⟨Device.mem_endCommand _ _ _, rfl⟩

theorem recalLaneReturn_ends (h : (quinsia, n, lane) ∈ s.dev.recal)
    (hr : (s.dev.recal.filter fun e => e != (quinsia, n, lane)) = []) (hb : s.dev.svcBusy = true) (hc : s.dev.svccmd = 4)
    (hm : s.dev.retiremod = none) :
    Occurs (.recalLaneReturn quinsia n lane) s (State.Ended 0 fun t => s.Same t ∧ t.dev.recal = []) := by
  have hend : s.dev.recalled.endRecal = s.dev.recalEnded := by
    unfold Device.endRecal
    rw [show s.dev.recalled.retiremod = none from hm]
    rfl
  refine occurs_of (t := (s.modifyDev fun d => { d with recal := [], retiremod := none }).endService 4 0) ?_
    (State.ended_endService (by decide) ⟨s.same_recalEnded, ?_⟩)
  · exact (recalLaneReturn_last h hr hb hc).trans (congrArg (fun d => Host.Outcome.next ({ s with dev := d } : State)) hend)
  · exact Device.of_part s.dev.quiet_recalEnded Device.recal fun _ => rfl

theorem recalLaneReturn_retires (h : (quinsia, n, lane) ∈ s.dev.recal)
    (hr : (s.dev.recal.filter fun e => e != (quinsia, n, lane)) = []) (hb : s.dev.svcBusy = true) (hc : s.dev.svccmd = 4)
    (hm : s.dev.retiremod = some l) (hl : s.dev.linkServes l = true) : Occurs (.recalLaneReturn quinsia n lane) s fun t =>
      s.Same t ∧ t.dev.recal = [] ∧ t.dev.svcBusy = true ∧ t.dev.svccmd = 2 ∧ t.dev.retiremod = some l ∧
        t.dev.retiring = s.dev.retiring ++ [l] := by
  have hq := s.dev.quiet_recalEnded
  have hserves : s.dev.recalEnded.linkServes l = true :=
    (Device.of_part (e := { s.dev with recal := [] }) hq (Device.linkServes · l) fun _ => rfl).trans hl
  have hretiring : s.dev.recalEnded.retiring = s.dev.retiring :=
    Device.of_part (e := { s.dev with recal := [] }) hq Device.retiring fun _ => rfl
  have hrecal : s.dev.recalEnded.recal = [] :=
    Device.of_part (e := { s.dev with recal := [] }) hq Device.recal fun _ => rfl
  have hend : s.dev.recalled.endRecal =
      { s.dev.recalEnded with
        svccmd := 2, svcBusy := true, retiring := s.dev.recalEnded.retiring ++ [l], retiremod := some l } := by
    unfold Device.endRecal
    rw [show s.dev.recalled.retiremod = some l from hm]
    exact if_pos hserves
  refine occurs_of ((recalLaneReturn_last h hr hb hc).trans
    (congrArg (fun d => Host.Outcome.next ({ s with dev := d } : State)) hend)) ?_
  exact ⟨s.same_recalEnded, hrecal, rfl, rfl, rfl, congrArg (· ++ [l]) hretiring⟩

theorem svcRetiremod_waits (hb : s.dev.svcBusy = true) (hc : s.dev.svccmd = 4) (hr : s.dev.recalibrating false l.val = true)
    (ha : s.dev.svcarg0.toNat = l.val) : exec .svcRetiremod s = .next (s.modifyDev fun d => { d with retiremod := some l }) := by
  rw [exec_svcRetiremod]
  unfold execSvcRetiremod
  simp only [Device.argLink_of_eq ha]
  rw [if_pos (by simp [Device.recalibrates, hb, hc, hr])]

end

/-! ### STAGEFW (R441) -/

/-- A core of a range that is not fenced holds a staged image. -/
def State.stage (named : CoreId → Bool) (staged : StagedImage) (s : State) (c : CoreId) : State :=
  if named c && !(s.core c).fenced then s.modifyCore c fun k => { k with stagedFw := some staged } else s

section
variable {named : CoreId → Bool} {staged : StagedImage}

theorem State.core_stage (s : State) (c d : CoreId) : ((s.stage named staged c).core d) =
    if c = d ∧ named d = true ∧ (s.core d).fenced = false then { s.core d with stagedFw := some staged } else s.core d := by
  unfold State.stage
  by_cases hcd : c = d
  · subst hcd
    by_cases h : (named c && !(s.core c).fenced) = true
    · rw [if_pos h, if_pos (by simpa using h), State.core_modifyCore]
    · rw [if_neg h, if_neg (by simpa using h)]
  · have hother : ¬(c = d ∧ named d = true ∧ (s.core d).fenced = false) := fun h => hcd h.1
    rw [if_neg hother]
    split
    · exact State.core_modifyCore_ne s c d _ (Ne.symm hcd)
    · rfl

theorem State.core_stageAll {d : CoreId} : (cs : List CoreId) → (s : State) → ((cs.foldl (State.stage named staged) s).core d) =
    if d ∈ cs ∧ named d = true ∧ (s.core d).fenced = false then { s.core d with stagedFw := some staged } else s.core d
  | [], s => by simp
  | c :: cs, s => by
    rw [List.foldl_cons, State.core_stageAll cs, State.core_stage]
    by_cases hcd : c = d
    · subst hcd
      by_cases hn : named c = true <;> by_cases hf : (s.core c).fenced = false <;> simp [hn, hf]
    · simp [hcd, Ne.symm hcd]

theorem State.dev_stageAll (cs : List CoreId) (s : State) : (cs.foldl (State.stage named staged) s).dev = s.dev := by
  refine foldl_keeps (f := State.stage named staged) State.dev (fun s c => ?_) cs s
  unfold State.stage
  split <;> rfl

end

/-- The range of cores that STAGEFW names, and where its image lies. -/
def Device.firstStaged (d : Device) : Nat := d.svcarg1.toNat % 2 ^ 9
def Device.countStaged (d : Device) : Nat := d.svcarg1.toNat / 2 ^ 16 % 2 ^ 9
def Device.stagedHeader (d : Device) : Nat := d.imageHeader d.svcarg0.toNat
def Device.stagedPayload (d : Device) : List Byte := d.imagePayload d.svcarg0.toNat

/-- The range and the image of a STAGEFW lie within the device. -/
def Device.CanStage (d : Device) : Prop := d.firstStaged + d.countStaged ≤ 384 ∧ d.holdsBytes d.svcarg0.toNat 2048 = true ∧
  d.holdsBytes (d.svcarg0.toNat + 2048) d.stagedPayload.length = true

/-- A core lies in the range of a STAGEFW. -/
def Device.stagesCore (d : Device) (c : Nat) : Bool := decide (d.firstStaged ≤ c) && decide (c < d.firstStaged + d.countStaged)

theorem Device.stagesCore_iff {d : Device} {c : Nat} :
    d.stagesCore c = true ↔ d.firstStaged ≤ c ∧ c < d.firstStaged + d.countStaged := by
  simp [Device.stagesCore]

/-- What a STAGEFW brings to a core. -/
def Device.stagedImage (d : Device) (image : FirmwareImage) : StagedImage :=
  { digest := imageDigest d.stagedHeader, cells := image.cells }

/-- What STAGEFW leaves. -/
def State.staging (s : State) (image : FirmwareImage) : State :=
  let digests := s.dev.fwDigests.mapIdx fun c x =>
    if s.dev.stagesCore c && decide (coreCount ≤ c) && !s.dev.fencedElsewhere.contains c then imageDigest s.dev.stagedHeader else x
  allCores.foldl (State.stage (fun c => s.dev.stagesCore c.val) (s.dev.stagedImage image))
    (s.modifyDev fun d => { d with fwDigests := digests })

theorem State.core_staging (s : State) (image : FirmwareImage) (c : CoreId) : (s.staging image).core c =
    if s.dev.stagesCore c.val = true ∧ (s.core c).fenced = false then
      { s.core c with stagedFw := some (s.dev.stagedImage image) } else s.core c := by
  unfold State.staging
  rw [State.core_stageAll]
  simp only [allCores, List.mem_finRange, true_and, State.core_modifyDev]

theorem State.mem_staging (s : State) (image : FirmwareImage) : (s.staging image).dev.mem = s.dev.mem := by
  unfold State.staging
  rw [State.dev_stageAll]
  rfl

/-- What an image that is not accepted may lack. -/
theorem imageOk_eq_false {header : Nat} {payload : List Byte} {signed : Bool}
    (h : signed = false ∨ header % 2 ^ 64 ≠ 0x4D49514B34383356 ∨ header / 2 ^ 64 % 2 ^ 8 ≠ 1 ∨
      header / 2 ^ 96 % 2 ^ 32 < (Config.versionFloor 1).toNat ∨
      imageDigest header ≠ shake256 (bytesOf 64 header ++ payload)) : imageOk 1 header payload signed = false := by
  have hkey : fieldOf header 0 64 = header % 2 ^ 64 := fieldOf_zero ..
  rw [Bool.eq_false_iff]
  intro hok
  simp only [imageOk, imageSound, hkey, Bool.and_eq_true, decide_eq_true_eq, beq_iff_eq] at hok
  obtain ⟨⟨hsigned, hversion⟩, ⟨⟨⟨⟨⟨⟨hmagic, hkind⟩, -⟩, -⟩, hdigest⟩, -⟩, -⟩, -⟩ := hok
  rcases h with h | h | h | h | h
  · exact absurd hsigned (by simp [h])
  · exact h hmagic
  · exact h hkind
  · exact absurd hversion (Nat.not_le.2 h)
  · exact h hdigest

section
variable {s : State} {image : FirmwareImage} (hb : s.dev.svcBusy = false) (hc : s.dev.CanStage)
include hb hc

/-- What STAGEFW does to a device that holds its image. -/
theorem svcStagefw_ends {r : Nat} {t : State} {p : State → Prop} (hr : r < 256)
    (ht : (if !imageOk 1 s.dev.stagedHeader s.dev.stagedPayload image.signed then (2, s.serving 5)
      else (0, (s.serving 5).staging image)) = (r, t)) (hp : p (t.endService 5 r)) :
    Occurs (.svcStagefw image) s (State.Ended r p) := by
  obtain ⟨hrange, hheader, hpayload⟩ := hc
  refine ends_of_service hb (exec_svcStagefw image s) hr ?_ hp
  have hfirst : fieldOf (s.serving 5).dev.svcarg1.toNat 0 9 = (s.serving 5).dev.firstStaged := fieldOf_zero ..
  have hlength : fieldOf ((s.serving 5).dev.imageHeader (s.serving 5).dev.svcarg0.toNat) 128 64 = s.dev.stagedPayload.length :=
    (List.length_map _).trans List.length_range |>.symm
  dsimp only
  rw [hfirst, hlength, if_neg]
  · exact ht
  · rintro (h | h | h)
    · exact Nat.not_lt.2 hrange h
    · exact absurd ((congrArg not hheader).symm.trans h) (by decide)
    · exact absurd ((congrArg not hpayload).symm.trans h) (by decide)

theorem svcStagefw_stages (hok : imageOk 1 s.dev.stagedHeader s.dev.stagedPayload image.signed = true) (c : CoreId) :
    Occurs (.svcStagefw image) s (State.Ended 0 fun t => t.dev.mem = s.dev.mem ∧ t.core c =
      if s.dev.stagesCore c.val = true ∧ (s.core c).fenced = false then
        { s.core c with stagedFw := some (s.dev.stagedImage image) } else s.core c) := by
  refine svcStagefw_ends hb hc (by decide) (if_neg (by simp [hok])) ⟨?_, (s.serving 5).core_staging image c⟩
  exact (Device.mem_endCommand _ _ _).trans ((s.serving 5).mem_staging image)

theorem svcStagefw_refused (hok : imageOk 1 s.dev.stagedHeader s.dev.stagedPayload image.signed = false) :
    Occurs (.svcStagefw image) s (State.Ended 2 s.Same) :=
  svcStagefw_ends hb hc (by decide) (if_pos (by simp [hok])) (s.same_endService 5 5 2)

end

/-! ### ATTEST (R444) -/

/-- The device with n bytes of the quote for a nonce written. -/
def Device.writeQuote (d : Device) (nonce out n : Nat) : Device :=
  { d.store out n (quoteOf (shake256 (d.quoted nonce))) with poison := clearCovered 64 [(out, n)] d.poison }

theorem exec_svcAttest_writeQuote (s : State) : exec .svcAttest s = s.service 6 fun s =>
    if !s.dev.holdsBytes s.dev.svcarg0.toNat 32 || !s.dev.holdsBytes s.dev.svcarg1.toNat quoteBytes then (3, s)
    else (0, s.modifyDev fun d => d.writeQuote s.dev.svcarg0.toNat s.dev.svcarg1.toNat quoteBytes) := rfl

/-- The state in which an ATTEST has written n bytes of its quote. -/
def State.quoting (s : State) (n : Nat) : State :=
  (s.serving 6).modifyDev fun d => d.writeQuote s.dev.svcarg0.toNat s.dev.svcarg1.toNat n

theorem State.cores_quoting (s : State) (n : Nat) : ((s.quoting n).endService 6 0).cores = s.cores := rfl

theorem State.quoted_serving (s : State) (code nonce : Nat) : (s.serving code).dev.quoted nonce = s.dev.quoted nonce := by
  unfold Device.quoted Device.load
  rfl

theorem Device.mem_writeQuote (d : Device) (nonce out n : Nat) :
    (d.writeQuote nonce out n).mem = d.mem.write out n (quoteOf (shake256 (d.quoted nonce))) := rfl

theorem State.mem_quoting (s : State) (n : Nat) : ((s.quoting n).endService 6 0).dev.mem =
    s.dev.mem.write s.dev.svcarg1.toNat n (quoteOf (shake256 (s.dev.quoted s.dev.svcarg0.toNat))) := by
  unfold State.quoting
  rw [State.endService, State.modifyDev_dev, Device.mem_endCommand, State.modifyDev_dev, Device.mem_writeQuote,
    State.quoted_serving]
  rfl

theorem svcAttest_ends {s : State} (hb : s.dev.svcBusy = false) (hn : s.dev.holdsBytes s.dev.svcarg0.toNat 32 = true)
    (ho : s.dev.holdsBytes s.dev.svcarg1.toNat quoteBytes = true) : Occurs .svcAttest s (State.Ended 0 fun t =>
      t.cores = s.cores ∧ t.dev.mem =
        s.dev.mem.write s.dev.svcarg1.toNat quoteBytes (quoteOf (shake256 (s.dev.quoted s.dev.svcarg0.toNat)))) := by
  refine ends_of_service hb (exec_svcAttest_writeQuote s) (by decide) (t := s.quoting quoteBytes) (if_neg ?_)
    ⟨s.cores_quoting quoteBytes, s.mem_quoting quoteBytes⟩
  change ¬(!s.dev.holdsBytes s.dev.svcarg0.toNat 32 || !s.dev.holdsBytes s.dev.svcarg1.toNat quoteBytes) = true
  simp [hn, ho]

end Sys2Proof.Machine
end

section
/-!
Writes of the management registers (O51, R17, R434, R436).
-/

namespace Sys2Proof.Machine

open Stated

/-! ### The registers -/

section
variable (s : State) (v : Word)

theorem registerWrite_goes (off : BitVec 20) : ∃ t, exec (.registerWrite off v) s = .next t :=
  goesOn_execRegisterWrite (offset := off) (value := v) (s := s)

theorem registerWrite_devnum : exec (.registerWrite 0x08 v) s = exec (.devnumWrite v) s := rfl
theorem registerWrite_mrsv : exec (.registerWrite 0x28 v) s = exec (.mrsvWrite v) s := rfl
theorem registerWrite_tinv : exec (.registerWrite 0x58 v) s = exec (.tinvGo v) s := rfl
theorem registerWrite_rephead : exec (.registerWrite 0x90 v) s = exec (.repheadWrite v) s := rfl

theorem registerWrite_plain {off : BitVec 20} {f : Device → Device} (h : off ∈ [0x30, 0x40, 0x48, 0x50, 0x60, 0x68, 0x80, 0xA0, 0xA8])
    (hf : ∀ d : Device, d.writePlain off.toNat v = f d) : exec (.registerWrite off v) s = .next (s.modifyDev f) := by
  have hexec : exec (.registerWrite off v) s = .next (s.modifyDev fun d => d.writePlain off.toNat v) := by
    simp only [List.mem_cons, List.not_mem_nil, or_false] at h
    rcases h with rfl | rfl | rfl | rfl | rfl | rfl | rfl | rfl | rfl <;> rfl
  rw [hexec, funext hf]

/-! ### Commands, and the entries of remote roots -/

variable {s v} {code : Nat}

theorem registerWrite_rr (s : State) (v : Word) : exec (.registerWrite 0x70 v) s =
    match v.toNat % 2 ^ 2 with
    | 1 => execRrInstall s
    | 2 => execRrRemove s
    | _ => .next s := by
  rw [← fieldOf_zero] <;> rfl

theorem registerWrite_install (h : v.toNat % 4 = 1) : exec (.registerWrite 0x70 v) s = exec .rrInstall s := by
  rw [registerWrite_rr, show v.toNat % 2 ^ 2 = 1 from h] <;> rfl

theorem registerWrite_remove (h : v.toNat % 4 = 2) : exec (.registerWrite 0x70 v) s = exec .rrRemove s := by
  rw [registerWrite_rr, show v.toNat % 2 ^ 2 = 2 from h] <;> rfl

/-- The command that a code starts. -/
def State.startCommand (s : State) (code : Nat) : Host.Outcome State Fault Refusal :=
  match code with
  | 1 => execSvcFencecore s
  | 2 => execSvcRetiremod s
  | 3 => execSvcReturnmod s
  | 4 => execSvcRecal s
  | 5 => execSvcStagefw { signed := bitAt (s.pick 0) 0, cells := [] } s.takeFresh
  | 6 => execSvcAttest s
  | n => s.service n fun s => (3, s)

theorem registerWrite_command (h : v.toNat % 2 ^ 8 = code) : exec (.registerWrite 0xB0 v) s = s.startCommand code := by
  rw [← h, ← fieldOf_zero] <;> rfl

/-- The commands of the codes but STAGEFW. -/
theorem registerWrite_commands (s : State) (v : Word) :
    ∀ e ∈ [(1, Instr.svcFencecore), (2, .svcRetiremod), (3, .svcReturnmod), (4, .svcRecal), (6, .svcAttest)],
      v.toNat % 2 ^ 8 = e.1 → exec (.registerWrite 0xB0 v) s = exec e.2 s := by
  intro e he h
  rw [registerWrite_command h]
  simp only [List.mem_cons, List.not_mem_nil, or_false] at he
  rcases he with rfl | rfl | rfl | rfl | rfl <;> rfl

theorem registerWrite_stagefw (s : State) (v : Word) (h : v.toNat % 2 ^ 8 = 5) :
    exec (.registerWrite 0xB0 v) s = exec (.svcStagefw ⟨bitAt (s.pick 0) 0, []⟩) s.takeFresh := registerWrite_command h

/-! ### Queues (R436) -/

theorem registerWrite_queue (s : State) (v : Word) (q : QueueId) (r : Nat) : r < 32 →
    exec (.registerWrite (BitVec.ofNat 20 (0x10000 + 32 * q.val + r)) v) s =
      match r with
      | 0 => .next (s.modifyDev (·.writeQbase q v))
      | 8 => execQctlWrite q v s
      | 16 => execQtailWrite q v s
      | _ => .next s := by
  intro hr
  have hq := q.isLt
  have hoff : (BitVec.ofNat 20 (0x10000 + 32 * q.val + r)).toNat = 0x10000 + 32 * q.val + r := by
    rw [BitVec.toNat_ofNat, Nat.mod_eq_of_lt (by omega)]
  have hidx : (0x10000 + 32 * q.val + r - 0x10000) / 32 = q.val := by omega
  have hrest : (0x10000 + 32 * q.val + r - 0x10000) % 32 = r := by omega
  rw [exec_registerWrite]
  unfold execRegisterWrite
  dsimp only
  rw [hoff, if_pos (by omega), hidx, hrest, Fin.ofNat_val_eq_self] <;> rfl

theorem registerWrite_qbase {q : QueueId} (h : s.dev.queues[q.val].en = false) :
    exec (.registerWrite (BitVec.ofNat 20 (0x10000 + 32 * q.val)) v) s = .next (s.modifyDev fun d =>
      { d with queues := d.queues.set q.val { d.queues[q.val] with qbase := v } }) :=
  (registerWrite_queue s v q 0 (by decide)).trans
    (congrArg (fun d => Host.Outcome.next ({ s with dev := d } : State)) (if_neg (Bool.eq_false_iff.1 h)))

end

end Sys2Proof.Machine
end

section
/-!
BAR2, boot, reset, links and domains (O51, R116, R433, R439 to R443).
-/

namespace Sys2Proof.Machine

open Stated

/-! ### BAR2 (R433) -/

theorem clearCovered_nil (unit : Nat) (marks : List Nat) (h : unit ≠ 0) : clearCovered unit [] marks = marks := by
  unfold clearCovered
  split
  · rfl
  · refine List.filter_eq_self.2 fun m _ => ?_
    obtain ⟨k, rfl⟩ := Nat.exists_eq_succ_of_ne_zero h
    rw [List.range_succ, List.all_append]
    simp

/-- Runs of main memory alone leave the marks of the buffers. -/
theorem State.cores_clearWritten {s : State} {rs : List (Place × Nat)} (h : ∀ b, bufferRuns s.cur.core b rs = []) :
    (s.clearWritten rs).cores = s.cores := by
  unfold State.clearWritten State.modifyCore State.modifyDev
  simp only [h, clearCovered_nil 8 _ (by decide)]
  exact Vector.set_getElem_self _

theorem State.mem_clearWritten (s : State) (rs : List (Place × Nat)) : (s.clearWritten rs).dev.mem = s.dev.mem := rfl

theorem State.performStores_nil (s : State) : s.performStores [] = s := by
  have hcores : (s.performStores []).cores = s.cores := State.cores_clearWritten fun _ => rfl
  have hpoison : clearCovered 64 [] s.dev.poison = s.dev.poison := clearCovered_nil 64 _ (by decide)
  calc s.performStores []
      = { s with
          cores := (s.performStores []).cores
          dev := { s.dev with poison := clearCovered 64 [] s.dev.poison } } := rfl
    _ = s := by rw [hcores, hpoison]

/-- A store to a frame of main memory that is not lost. -/
theorem State.performStores_main {s : State} {pa n x : Nat} (h : s.dev.isLost pa = false) :
    (s.performStores [(.main pa, n, x)]).cores = s.cores ∧ (s.performStores [(.main pa, n, x)]).dev.mem = s.dev.mem.write pa n x := by
  have hone : s.performStore (.main pa) n x = s.modifyDev fun d => (d.store pa n x).clearGroup pa n x := if_neg (Bool.eq_false_iff.1 h)
  have hruns (b : BufId) : bufferRuns s.cur.core b (s.poisonedRuns [] [(.main pa, n, x)]) = [] := by
    refine List.filterMap_eq_nil_iff.2 fun r hr => ?_
    obtain rfl : r = (.main pa, n) := by simpa [storeRuns] using (List.mem_filter.1 hr).1
    rfl
  unfold State.performStores State.performMore
  rw [List.foldl_cons, List.foldl_nil, hone]
  refine ⟨State.cores_clearWritten hruns, ?_⟩
  rw [State.mem_clearWritten, State.modifyDev_dev, Device.mem_clearGroup]
  rfl

section
variable {s : State} {off : BitVec 36} {access : HostAccess} {v : Word} {pa n : Nat}

theorem hostBar2Access_early (h : s.dev.ready = false) : exec (.hostBar2Access off access v) s = .next s := by
  rw [exec_hostBar2Access]
  unfold execHostBar2Access
  simp only [h, Bool.not_false, if_true]

variable (hr : s.dev.ready = true) (hpa : s.dev.winbase.toNat + off.toNat = pa) (hn : access.last.toNat + 1 = n)
include hr hpa hn

theorem hostBar2Access_fault (h : s.dev.frames.toNat * 65536 < pa + n) :
    exec (.hostBar2Access off access v) s = .fault .absentFrame := by
  have hout : s.dev.holdsBytes pa n = false := decide_eq_false (Nat.not_le.2 h)
  rw [exec_hostBar2Access]
  unfold execHostBar2Access
  simp only [hpa, hn, hr, hout, Bool.not_true, Bool.not_false, Bool.false_eq_true, if_false, if_true]

theorem hostBar2Access_read (h : pa + n ≤ s.dev.frames.toNat * 65536) (hw : access.write = false) :
    exec (.hostBar2Access off access v) s = .next (s.modifyDev fun d =>
      { d with outgoing := d.outgoing ++ [.bar2 off n (d.load pa n)] }) := by
  have hin : s.dev.holdsBytes pa n = true := decide_eq_true h
  rw [exec_hostBar2Access]
  unfold execHostBar2Access
  simp only [hpa, hn, hr, hin, hw, Bool.not_true, Bool.not_false, Bool.false_eq_true, if_false, if_true]

/-- A write within a frame is one store, none where the frame is lost. -/
theorem hostBar2Access_write (h : pa + n ≤ s.dev.frames.toNat * 65536) (hw : access.write = true) (hf : pa % 65536 + n ≤ 65536) :
    exec (.hostBar2Access off access v) s =
      .next (s.performStores (if s.dev.isLost pa then [] else [(.main pa, n, v.toNat % 2 ^ (8 * n))])) := by
  have hin : s.dev.holdsBytes pa n = true := decide_eq_true h
  have hmin : min n (65536 - pa % 65536) = n := by omega
  rw [exec_hostBar2Access]
  unfold execHostBar2Access
  simp only [hpa, hn, hr, hin, hw, hmin, Bool.not_true, Bool.false_eq_true, if_false]
  have hn0 : n ≠ 0 := by omega
  by_cases hl : s.dev.isLost pa = true <;> simp [hl, hn0]

end

/-! ### Boot (R440) -/

section
variable {s : State} {boot : BootImage} {tvec fwroot : Word} {cells : List Host.Cell}

/-- The two low bits of a word cleared. -/
theorem and_not_three (x : Word) : x &&& ~~~3 = word (x.toNat / 4 * 4) := by
  have hmask : (3 : Word) = BitVec.ofNat 64 (2 ^ 2 - 1) := rfl
  have hshift : x.toNat / 4 * 4 = x.toNat >>> 2 <<< 2 := by
    rw [Nat.shiftRight_eq_div_pow, Nat.shiftLeft_eq]
  refine BitVec.eq_of_getLsbD_eq fun i hi => ?_
  rw [BitVec.getLsbD_and, BitVec.getLsbD_not, hmask, BitVec.getLsbD_ofNat, Nat.testBit_two_pow_sub_one, word, BitVec.getLsbD_ofNat,
    hshift, Nat.testBit_shiftLeft, Nat.testBit_shiftRight, decide_eq_true hi, BitVec.getLsbD]
  by_cases h2 : i < 2
  · simp [h2]
  · simp [h2, show 2 + (i - 2) = i by omega, Nat.not_lt.1 h2]

/-- A core at boot. -/
def Core.start (tvec fwroot : Word) (k : Core) : Core :=
  let k := { k with tvec := word (tvec.toNat / 4 * 4), fwroot := word (fwroot.toNat % 2 ^ 52) }
  { k with fw := ({ k.fw with pc := k.fwEntry } : Hart).beginStrip k.fwEntry, fwStatus := .running }

theorem Core.pc_start (tvec fwroot : Word) (k : Core) : (k.start tvec fwroot).fw.pc = tvec &&& ~~~3 := by
  have hpc : (k.start tvec fwroot).fw.pc = word ((word (tvec.toNat / 4 * 4)).toNat / 4 * 4) := rfl
  rw [hpc, ← and_not_three, ← and_not_three, BitVec.and_assoc, BitVec.and_self]

theorem Device.placeImage_nil (d : Device) : (d.placeImage []).mem = d.mem := rfl

theorem powerOnBoot_occurs (c : CoreId) (hr : s.dev.ready = false) (ha : imageOk 0 boot.header.toNat boot.payload boot.signed = true) :
    Occurs (.powerOnBoot boot tvec fwroot cells) s fun t => t.dev.ready = true ∧
      (t.core c).tvec = tvec &&& ~~~3 ∧ (t.core c).fwroot = word (fwroot.toNat % 2 ^ 52) ∧
        (t.core c).fw.pc = tvec &&& ~~~3 ∧ (t.core c).fwStatus = .running ∧ (t.core c).ctxs = (s.core c).ctxs ∧
          t.dev.bootDigest = imageDigest boot.header.toNat ∧ t.dev.fwDigests = List.replicate 384 boot.firmware ∧
          (cells = [] → t.dev.mem = s.dev.mem) := by
  have hexec : exec (.powerOnBoot boot tvec fwroot cells) s = .next { s with
      cores := s.cores.map (Core.start tvec fwroot)
      dev := { s.dev.placeImage cells with
        ready := true, bootDigest := imageDigest boot.header.toNat, fwDigests := List.replicate 384 boot.firmware } } := by
    rw [exec_powerOnBoot]
    unfold execPowerOnBoot
    rw [if_neg (by simp [ha, hr])]
    rfl
  refine occurs_of hexec ?_
  unfold State.core
  simp only [Vector.getElem_map]
  generalize s.cores[c.val] = k
  refine ⟨trivial, (and_not_three tvec).symm, rfl, k.pc_start tvec fwroot, rfl, rfl, trivial, trivial, ?_⟩
  rintro rfl
  exact s.dev.placeImage_nil

theorem powerOnBoot_refused (h : imageOk 0 boot.header.toNat boot.payload boot.signed = false ∨ s.dev.ready = true) :
    exec (.powerOnBoot boot tvec fwroot cells) s = .next s := by
  rw [exec_powerOnBoot]
  unfold execPowerOnBoot
  rw [if_pos (by rcases h with h | h <;> simp [h])]

end

/-! ### Reset (R116) -/

/-- The device without the places of its frames and the links to its lines. -/
def Device.unhomed (d : Device) : Device := { d with homes := [], gens := [] }

theorem Device.unhomed_rehomeAll : (fs : List Nat) → (d : Device) → (Device.rehomeAll fs d).1.unhomed = d.unhomed
  | [], _ => rfl
  | f :: fs, d => by
    unfold Device.rehomeAll
    split
    · exact Device.unhomed_rehomeAll fs _
    · exact Device.unhomed_rehomeAll fs d

theorem Device.unhomed_housed (d : Device) : d.housed.unhomed = d.unhomed := by
  unfold Device.housed
  split
  · rfl
  · exact Device.unhomed_rehomeAll _ d

/-- The device of a reset, before its frames have their places. -/
def Device.reset (d : Device) : Device :=
  let r : Device := { State.reset.dev with linkmap := d.linkmap, narrow := d.narrow, dommap := d.dommap }
  { r with frames := BitVec.ofNat 27 (r.slotsInService - r.rsv.toNat) }

theorem deviceReset_occurs (s : State) : Occurs .deviceReset s fun t =>
    t.cores = State.reset.cores ∧ t.dev.unhomed = s.dev.reset.unhomed :=
  occurs_of (t := { State.reset with dev := s.dev.reset.housed, agenda := s.agenda, fresh := s.fresh }) rfl
    ⟨rfl, s.dev.reset.unhomed_housed⟩

/-! ### Links and domains (R439, R443) -/

section
variable {s : State} {quinsia : Bool} {n : BitVec 16} {lanes : BitVec 4}

theorem Device.narrow_setLanes (d : Device) (m : Nat) : (d.setLanes quinsia n m).narrow =
    if m < laneCount quinsia then d.narrow.filter (fun e => !(e.1 == quinsia && e.2.1 == n)) ++ [(quinsia, n, BitVec.ofNat 4 m)]
    else d.narrow.filter fun e => !(e.1 == quinsia && e.2.1 == n) := rfl

theorem Device.mem_narrow_setLanes (d : Device) (e : Bool × BitVec 16 × BitVec 4) :
    e ∈ (d.setLanes quinsia n (min lanes.toNat (laneCount quinsia))).narrow ↔
      (e ∈ d.narrow ∧ (e.1, e.2.1) ≠ (quinsia, n)) ∨ (e = (quinsia, n, lanes) ∧ lanes.toNat < laneCount quinsia) := by
  rw [Device.narrow_setLanes]
  by_cases hw : lanes.toNat < laneCount quinsia
  · have hmin : min lanes.toNat (laneCount quinsia) = lanes.toNat := by omega
    rw [hmin, if_pos hw]
    simp [hw, imp_iff_not_or]
  · have hmin : min lanes.toNat (laneCount quinsia) = laneCount quinsia := by omega
    rw [hmin, if_neg (lt_irrefl _)]
    simp [hw, imp_iff_not_or]

theorem linkStateChanged_occurs (hn : n.toNat < linkCount quinsia) : Occurs (.linkStateChanged quinsia n lanes) s fun t =>
    s.Same t ∧ ((quinsia, n, lanes) ∈ t.dev.narrow ↔ lanes.toNat < laneCount quinsia) ∧
      ∀ e ∈ t.dev.narrow, e ≠ (quinsia, n, lanes) → e ∈ s.dev.narrow ∧ (e.1, e.2.1) ≠ (quinsia, n) := by
  have hexec : exec (.linkStateChanged quinsia n lanes) s = .next (s.modifyDev fun d =>
      (d.setLanes quinsia n (min lanes.toNat (laneCount quinsia))).report 6
        [word (if quinsia then 1 else 0), word n.toNat, word (min lanes.toNat (laneCount quinsia))]) := by
    rw [exec_linkStateChanged]
    exact if_neg (Nat.not_le.2 hn)
  refine occurs_of hexec ?_
  rw [State.modifyDev_dev, Device.of_part (Device.quiet_report _ 6 _) Device.narrow fun _ => rfl]
  refine ⟨⟨by simp, rfl⟩, ?_, fun e he hne => ?_⟩
  · rw [Device.mem_narrow_setLanes]
    simp
  · rcases (Device.mem_narrow_setLanes _ e).1 he with h | h
    · exact h
    · exact absurd h.1 hne

theorem domainReachabilityChange_occurs (s : State) (domain : BitVec 6) (reachable : Bool) :
    Occurs (.domainReachabilityChange domain reachable) s fun t => s.Same t ∧ t.dev.dommap.getLsbD domain.toNat = reachable ∧
      ∀ i, i ≠ domain.toNat → t.dev.dommap.getLsbD i = s.dev.dommap.getLsbD i :=
  occurs_of (exec_domainReachabilityChange ..) ⟨⟨rfl, rfl⟩, setFlag_getLsbD _ domain.isLt _,
    fun _ hi => setFlag_getLsbD_ne _ (Ne.symm hi) _⟩

end

end Sys2Proof.Machine
end

section
/-!
The obligation (O51).
-/

namespace Sys2Proof.Machine

open Stated

/-- Settles O51: each act by its own lemma, the service commands by how each ends. -/
theorem hostActsComplete : Obligations.HostActsComplete := by
  unfold Obligations.HostActsComplete
  intro s v c l q quinsia n lane lanes off20 off36 tvec fwroot cells domain image boot access cmd dev ends slots same named
  refine ⟨mrsvWrite_occurs, mrsvWrite_devnumWrite_placed, devnumWrite_next, tinvGo_next, tinvGo_waits, tinvComplete_occurs,
    tinvComplete_idle, tinvComplete_waits, fun h => ⟨rrInstall_occurs h, rrInstall_full h⟩, ⟨rrRemove_occurs, rrRemove_busy⟩,
    repheadWrite_occurs s v, fun hb => ⟨svcFencecore_core hb, svcFencecore_elsewhere hb, svcFencecore_refused hb,
      fun ha => ⟨svcRetiremod_starts hb ha, svcRetiremod_refused hb ha, svcReturnmod_returns hb ha, svcReturnmod_refused hb ha⟩,
      svcRetiremod_svcReturnmod_none hb, svcRecal_next hb, ?stage, svcAttest_ends hb⟩,
    fun h => ⟨recalLaneReturn_more h, fun hr hb hc => ⟨recalLaneReturn_ends h hr hb hc, recalLaneReturn_retires h hr hb hc⟩⟩,
    svcRetiremod_waits, ?writes, ?bar2, ⟨powerOnBoot_occurs c, powerOnBoot_refused⟩, ?reset, linkStateChanged_occurs,
    domainReachabilityChange_occurs s domain quinsia⟩
  case stage =>
    intro first count header payload hrange hheader hpayload
    have hc : s.dev.CanStage := ⟨hrange, hheader, hpayload⟩
    refine ⟨fun hok => occurs_imp (svcStagefw_stages hb hc hok c) fun t ⟨hbusy, hresult, hmem, hcore⟩ =>
      ⟨hbusy, hresult, hmem, fun hf hl hfenced => ?_, fun hout => ?_⟩, svcStagefw_refused hb hc,
      fun h => svcStagefw_refused hb hc (imageOk_eq_false h)⟩
    · rw [hcore, if_pos ⟨Device.stagesCore_iff.2 ⟨hf, hl⟩, hfenced⟩]
      rfl
    · refine hcore.trans (if_neg fun ⟨hs, hfenced⟩ => ?_)
      have ⟨hf, hl⟩ := Device.stagesCore_iff.1 hs
      rcases hout with h | h | h
      · exact Nat.not_lt.2 hf h
      · exact Nat.not_lt.2 h hl
      · exact Bool.false_ne_true (hfenced.symm.trans h)
  case writes =>
    refine ⟨registerWrite_goes s v off20, registerWrite_devnum s v, registerWrite_mrsv s v, registerWrite_tinv s v,
      registerWrite_rephead s v, registerWrite_install, registerWrite_remove, registerWrite_commands s v,
      fun h => ⟨_, registerWrite_stagefw s v h⟩, registerWrite_queue s v q 8 (by decide), registerWrite_queue s v q 16 (by decide),
      ?_, ?_, ?_, ?_, ?_, ?_, ?_, ?_, ?_, registerWrite_qbase⟩ <;> exact registerWrite_plain s v (by decide) fun _ => rfl
  case bar2 =>
    intro pa n
    refine ⟨hostBar2Access_early, fun hr => ⟨fun hin => ⟨hostBar2Access_read hr rfl rfl hin,
      fun hw hf => ⟨fun hl => ?_, fun hl => ?_⟩⟩, hostBar2Access_fault hr rfl rfl⟩⟩
    · refine occurs_of (hostBar2Access_write hr rfl rfl hin hw hf) ?_
      rw [if_neg (Bool.eq_false_iff.1 hl)]
      exact State.performStores_main hl
    · rw [hostBar2Access_write hr rfl rfl hin hw hf, if_pos hl, State.performStores_nil]
  case reset =>
    refine occurs_imp (deviceReset_occurs s) fun t ⟨hcores, hd⟩ => ⟨hcores, ?_, ?_, ?_, ?_, ?_, ?_, ?_, ?_⟩
    · exact Device.of_part hd Device.ready fun _ => rfl
    · exact Device.of_part hd Device.mem fun _ => rfl
    · exact Device.of_part hd Device.poison fun _ => rfl
    · exact Device.of_part hd Device.lost fun _ => rfl
    · exact Device.of_part hd Device.placed fun _ => rfl
    · exact Device.of_part hd Device.records fun _ => rfl
    · exact Device.of_part hd Device.queues fun _ => rfl
    · exact Device.of_part hd Device.linkmap fun _ => rfl

end Sys2Proof.Machine
end
